-- ==== Sys2Proof/Word.lean ====
section
/-!
DEFINITION. The word types of the Atilo and nothing else.
-/

namespace Sys2Proof

/-- A byte of memory or of the Bed (R9, R33: bytes are little-endian everywhere). -/
abbrev Byte := BitVec 8

/-- An instruction word, an FP32 value, a lane LFSR (R9, R33, R47). -/
abbrev Word32 := BitVec 32

/-- A lane register of one lane, a uniform register, a special register, an address (R149). -/
abbrev Word := BitVec 64

/-- A set of lanes of one group: bit L stands for lane L (R4). -/
abbrev Mask := BitVec 32

end Sys2Proof
end

