-- ==== Sys2Proof/Machine/Float.lean ====
section
/-!
DEFINITION. Floating-point formats, exact values and rounding (02_number_formats.md, R33, R34, R44 to R48).

A finite value is exact: a sign, a numerator and a denominator. Every operation forms its exact result and
narrows it once with `round`, which is the only place where a bit is lost.
-/

namespace Sys2Proof.Machine

/-- The sticky flags of R3 as the bits of FLAGS (R153). -/
abbrev Flags := BitVec 8

def flagINV : Flags := 1
def flagDZ : Flags := 2
def flagOVF : Flags := 4
def flagUFL : Flags := 8
def flagINX : Flags := 16
def flagSOVF : Flags := 32
def flagINVF : Flags := 64
def flagCATE : Flags := 128

/-- A flag, where a condition holds. -/
def flagIf (b : Bool) (f : Flags) : Flags := if b then f else 0

/-- A floating-point format of R33, or one of the two spread fields of R41. -/
structure Fmt where
  ebits : Nat
  fbits : Nat
  bias : Int
  /-- E4M3: no infinity, and only the all-ones pattern is NaN -/
  e4m3 : Bool
  /-- E8M16 has no sign bit -/
  signed : Bool
  deriving DecidableEq, Repr

def fp32 : Fmt := ⟨8, 23, 127, false, true⟩
def bf16 : Fmt := ⟨8, 7, 127, false, true⟩
def fp16 : Fmt := ⟨5, 10, 15, false, true⟩
def e4m3 : Fmt := ⟨4, 3, 7, true, true⟩
def e5m2 : Fmt := ⟨5, 2, 15, false, true⟩
def a56 : Fmt := ⟨8, 47, 127, false, true⟩
def e8m16 : Fmt := ⟨8, 16, 127, false, false⟩
def e8m15 : Fmt := ⟨8, 15, 127, false, true⟩

/-- The width of a format without its sign bit. -/
def Fmt.mag (F : Fmt) : Nat := F.ebits + F.fbits

/-- The width of a format. -/
def Fmt.width (F : Fmt) : Nat := F.mag + (if F.signed then 1 else 0)

/-- The exponent of the smallest normal magnitude (R33). -/
def Fmt.emin (F : Fmt) : Int := 1 - F.bias

/-- The exponent of the spacing of the largest binade. -/
def Fmt.umax (F : Fmt) : Int :=
  (if F.e4m3 then (2 ^ F.ebits - 1 : Int) else 2 ^ F.ebits - 2) - F.bias - F.fbits

/-- The largest finite significand in units of that spacing: 1.75 for E4M3 and all ones otherwise (R33). -/
def Fmt.maxMan (F : Fmt) : Nat := if F.e4m3 then 2 ^ (F.fbits + 1) - 2 else 2 ^ (F.fbits + 1) - 1

/-- The canonical NaN (R33, R34). -/
def Fmt.nan (F : Fmt) : Nat :=
  if F.e4m3 then 2 ^ F.mag - 1 else (2 ^ F.ebits - 1) * 2 ^ F.fbits + 2 ^ (F.fbits - 1)

/-- The magnitude of infinity. -/
def Fmt.infMag (F : Fmt) : Nat := (2 ^ F.ebits - 1) * 2 ^ F.fbits

/-- The magnitude of the largest finite value. -/
def Fmt.maxMag (F : Fmt) : Nat := if F.e4m3 then 2 ^ F.mag - 2 else F.infMag - 1

/-- An encoding from its sign and magnitude bits. -/
def Fmt.pack (F : Fmt) (neg : Bool) (mag : Nat) : Nat := if neg && F.signed then 2 ^ F.mag + mag else mag

/-- What an encoding stands for: an exact value n/d with its sign, an infinity or a NaN. -/
inductive FVal where
  | nan (signalling : Bool)
  | inf (neg : Bool)
  | fin (neg : Bool) (n d : Nat)
  deriving DecidableEq, Repr

/-- `n · 2^e` as a numerator and a denominator. -/
def scaled (n : Nat) (e : Int) : Nat × Nat :=
  if 0 ≤ e then (n * 2 ^ e.toNat, 1) else (n, 2 ^ (-e).toNat)

/-- The value of an encoding (R33; subnormals are kept). -/
def Fmt.value (F : Fmt) (bits : Nat) : FVal :=
  let mag := bits % 2 ^ F.mag
  let neg := F.signed && bits / 2 ^ F.mag % 2 == 1
  let ex := mag / 2 ^ F.fbits
  let fr := mag % 2 ^ F.fbits
  if F.e4m3 && mag == 2 ^ F.mag - 1 then .nan false
  else if !F.e4m3 && ex == 2 ^ F.ebits - 1 then
    if fr == 0 then .inf neg else .nan (fr / 2 ^ (F.fbits - 1) == 0)
  else if ex == 0 then
    let q := scaled fr (F.emin - F.fbits)
    .fin neg q.1 q.2
  else
    let q := scaled (2 ^ F.fbits + fr) ((ex : Int) - F.bias - F.fbits)
    .fin neg q.1 q.2

def FVal.isNan : FVal → Bool
  | .nan _ => true
  | _ => false

def FVal.isSnan : FVal → Bool
  | .nan b => b
  | _ => false

def FVal.isInf : FVal → Bool
  | .inf _ => true
  | _ => false

/-- A zero of either sign. -/
def FVal.isZero : FVal → Bool
  | .fin _ n _ => n == 0
  | _ => false

/-- The sign bit; a NaN has none. -/
def FVal.neg : FVal → Bool
  | .nan _ => false
  | .inf s => s
  | .fin s _ _ => s

/-- The same value with the sign turned. -/
def FVal.negate : FVal → FVal
  | .nan b => .nan b
  | .inf s => .inf (!s)
  | .fin s n d => .fin (!s) n d

/-- The invalid flag of a signalling operand (R34). -/
def snanFlag (a : FVal) : Flags := flagIf a.isSnan flagINV

/-! ### Exact sums, products and quotients

The zero of an exact sum is +0 unless both terms are −0 (R183); RN and SR are the only modes used. -/

/-- The exact sum of two finite values as sign, numerator and denominator. -/
def addFin (s1 : Bool) (n1 d1 : Nat) (s2 : Bool) (n2 d2 : Nat) : FVal :=
  let x := n1 * d2
  let y := n2 * d1
  let d := d1 * d2
  if n1 == 0 && n2 == 0 then .fin (s1 && s2) 0 1
  else if s1 == s2 then .fin s1 (x + y) d
  else if x = y then .fin false 0 1
  else if y < x then .fin s1 (x - y) d
  else .fin s2 (y - x) d

/-- The exact sum, and the invalid flag of ∞ − ∞. A NaN operand gives a NaN. -/
def exAdd (a b : FVal) : FVal × Flags :=
  match a, b with
  | .nan _, _ => (.nan false, 0)
  | _, .nan _ => (.nan false, 0)
  | .inf s, .inf t => if s == t then (.inf s, 0) else (.nan false, flagINV)
  | .inf s, .fin .. => (.inf s, 0)
  | .fin .., .inf t => (.inf t, 0)
  | .fin s n d, .fin t m e => (addFin s n d t m e, 0)

/-- The exact product, and the invalid flag of ∞ · 0. -/
def exMul (a b : FVal) : FVal × Flags :=
  match a, b with
  | .nan _, _ => (.nan false, 0)
  | _, .nan _ => (.nan false, 0)
  | .inf s, .inf t => (.inf (s != t), 0)
  | .inf s, .fin t m _ => if m == 0 then (.nan false, flagINV) else (.inf (s != t), 0)
  | .fin s n _, .inf t => if n == 0 then (.nan false, flagINV) else (.inf (s != t), 0)
  | .fin s n d, .fin t m e => (.fin (s != t) (n * m) (d * e), 0)

/-- The exact quotient, with divide-by-zero for a finite non-zero dividend over 0 and invalid for 0/0 and
∞/∞ (R189). -/
def exDiv (a b : FVal) : FVal × Flags :=
  match a, b with
  | .nan _, _ => (.nan false, 0)
  | _, .nan _ => (.nan false, 0)
  | .inf _, .inf _ => (.nan false, flagINV)
  | .inf s, .fin t _ _ => (.inf (s != t), 0)
  | .fin s _ _, .inf t => (.fin (s != t) 0 1, 0)
  | .fin s n d, .fin t m e =>
    if m == 0 then (if n == 0 then (.nan false, flagINV) else (.inf (s != t), flagDZ))
    else (.fin (s != t) (n * e) (d * m), 0)

/-! ### Rounding -/

/-- The five rounding modes of R44; the stochastic mode carries the 24 random bits of R47. -/
inductive RMode where
  | rn | rz | rd | ru
  | sr (r : Nat)
  deriving DecidableEq, Repr

/-- The largest e with 2^e ≤ n/d, for n, d > 0. -/
def ilog2 (n d : Nat) : Int :=
  let e : Int := (n.log2 : Int) - d.log2
  let q := scaled 1 e
  if d * q.1 ≤ n * q.2 then e else e - 1

/-- n/d in units of 2^u: the whole units, the remainder and its denominator. -/
def unitsOf (n d : Nat) (u : Int) : Nat × Nat × Nat :=
  let q := scaled 1 u
  let num := n * q.2
  let den := d * q.1
  (num / den, num % den, den)

/-- D of R46: the fraction of the bracket in 24 bits. -/
def fracD (rem den : Nat) : Nat := rem * 2 ^ 24 / den

/-- Whether a value strictly between t and t + 1 units goes to t + 1 (R44, R47). -/
def goesUp (m : RMode) (neg : Bool) (t rem den : Nat) : Bool :=
  if rem = 0 then false else
  match m with
  | .rn => decide (den < 2 * rem) || (2 * rem == den && t % 2 == 1)
  | .rz => false
  | .rd => neg
  | .ru => !neg
  | .sr r => decide (2 ^ 24 ≤ fracD rem den + r)

/-- A rounding's outcome: the encoding, its IEEE flags (R44, R45), and for R48 whether it was inexact or
overflowed, the exponent u of the bracket's spacing q = 2^u and D. -/
structure Rounded where
  bits : Nat
  flags : Flags
  inexact : Bool
  overflow : Bool
  u : Int
  D : Nat
  deriving DecidableEq, Repr

/-- What an overflow delivers (the table of R44; E4M3 saturates in every mode). -/
def overflowMag (F : Fmt) (m : RMode) (neg : Bool) : Nat :=
  if F.e4m3 then F.maxMag else
  match m with
  | .rn => F.infMag
  | .sr _ => F.infMag
  | .rz => F.maxMag
  | .rd => if neg then F.infMag else F.maxMag
  | .ru => if neg then F.maxMag else F.infMag

/-- The rounding of a finite non-zero magnitude n/d. -/
def roundFin (F : Fmt) (m : RMode) (neg : Bool) (n d : Nat) : Rounded :=
  let e := ilog2 n d
  let u := max e F.emin - F.fbits
  let (t, rem, den) := unitsOf n d u
  let t' := if goesUp m neg t rem den then t + 1 else t
  let inexact := rem != 0
  let tooBig := decide (F.umax < u) || (u == F.umax && decide (F.maxMan < t'))
  if tooBig then
    ⟨F.pack neg (overflowMag F m neg), flagOVF ||| flagINX, true, true, u, fracD rem den⟩
  else
    -- tininess after rounding: the value rounded to the same precision with no lower exponent bound (R45)
    let tiny := decide (e < F.emin) &&
      (let (t2, r2, d2) := unitsOf n d (e - F.fbits)
       !(decide (e = F.emin - 1) && goesUp m neg t2 r2 d2 && t2 + 1 == 2 ^ (F.fbits + 1)))
    let mag := (u - (F.emin - F.fbits)).toNat * 2 ^ F.fbits + t'
    ⟨F.pack neg mag, flagIf inexact flagINX ||| flagIf (inexact && tiny) flagUFL, inexact, false, u,
      fracD rem den⟩

/-- The rounding of any exact value into a format. An infinity that goes to E4M3 gives its NaN and invalid
(R34); a NaN is canonical. -/
def round (F : Fmt) (m : RMode) (x : FVal) : Rounded :=
  match x with
  | .nan _ => ⟨F.nan, 0, false, false, 0, 0⟩
  | .inf s => if F.e4m3 then ⟨F.nan, flagINV, false, false, 0, 0⟩ else ⟨F.pack s F.infMag, 0, false, false, 0, 0⟩
  | .fin s n d => if n = 0 then ⟨F.pack s 0, 0, false, false, 0, 0⟩ else roundFin F m s n d

/-- RN into a format, the encoding alone. -/
def rnBits (F : Fmt) (x : FVal) : Nat := (round F .rn x).bits

/-- RN of an exact value to FP32, as a value again: one step of a spread computation (R184). -/
def rn32 (x : FVal) : FVal := fp32.value (rnBits fp32 x)

/-- Whether a finite value lies outside the integers of a range. -/
def intOf (neg : Bool) (n : Nat) : Int := if neg then -(n : Int) else n

/-- A finite value rounded to an integer, with its inexactness and D at spacing 1 (R210, R211). -/
def roundInt (m : RMode) (neg : Bool) (n d : Nat) : Int × Bool × Nat :=
  let t := n / d
  let rem := n % d
  (intOf neg (if goesUp m neg t rem d then t + 1 else t), rem != 0, fracD rem d)

/-- The order of two finite values. -/
def finLt (s1 : Bool) (n1 d1 : Nat) (s2 : Bool) (n2 d2 : Nat) : Bool :=
  decide (intOf s1 n1 * d2 < intOf s2 n2 * d1)

/-- Whether a < b as numbers; zeros of either sign are equal, and a NaN is less than nothing. -/
def FVal.lt : FVal → FVal → Bool
  | .nan _, _ => false
  | _, .nan _ => false
  | .inf s, .inf t => s && !t
  | .inf s, .fin .. => s
  | .fin .., .inf t => !t
  | .fin s n d, .fin t m e => finLt s n d t m e

/-- Whether a = b as numbers. -/
def FVal.eq : FVal → FVal → Bool
  | .nan _, _ => false
  | _, .nan _ => false
  | .inf s, .inf t => s == t
  | .inf _, .fin .. => false
  | .fin .., .inf _ => false
  | .fin s n d, .fin t m e => decide (intOf s n * e = intOf t m * d)

/-- Newton's iteration for ⌊√x⌋ from above, bounded by `fuel`. -/
def isqrtGo (x : Nat) : Nat → Nat → Nat
  | 0, g => g
  | f + 1, g =>
    let g' := (g + x / g) / 2
    if g' < g then isqrtGo x f g' else g

/-- ⌊√x⌋. -/
def isqrt (x : Nat) : Nat := if x = 0 then 0 else isqrtGo x (x.log2 + 2) (2 ^ (x.log2 / 2 + 1))

/-- √(n/d) for rounding: a root that is not exact is replaced by the middle of the cell of a grid at least
80 bits finer than the root, which rounds as the root does. -/
def sqrtFin (n d : Nat) : Nat × Nat :=
  let k := 90 + d.log2
  let x := n * d * 4 ^ k
  let r := isqrt x
  if r * r = x then (r, d * 2 ^ k) else (2 * r + 1, d * 2 ^ (k + 1))

/-- The exact or bracketed square root of a value, with invalid below zero (R204). -/
def exSqrt (a : FVal) : FVal × Flags :=
  match a with
  | .nan _ => (.nan false, 0)
  | .inf s => if s then (.nan false, flagINV) else (.inf false, 0)
  | .fin s n d =>
    if n == 0 then (.fin s 0 1, 0)
    else if s then (.nan false, flagINV)
    else let q := sqrtFin n d; (.fin false q.1 q.2, 0)

end Sys2Proof.Machine
end

