-- ==== Sys2Proof/Machine/Special.lean ====
section
/-!
DEFINITION. Correctly rounded special functions (10_distribution_arithmetic.md R203, R204) and the normal
quantile of RGAUS (11_conversion_quantisation_random.md R221).

A transcendental value is enclosed in an interval of multiples of 2^-P. Where both ends round to the same
FP32 value, that value is the correctly rounded one; otherwise P is doubled. The functions hand back an
exact value inside the enclosure, which one RN to FP32 turns into the result.
-/

namespace Sys2Proof.Machine

/-- An interval: both ends in units of 2^-P for a precision P the operations are given. -/
structure Iv where
  lo : Int
  hi : Int
  deriving DecidableEq, Repr

/-- ⌈a/b⌉ for b > 0; `a / b` on Int is ⌊a/b⌋ there. -/
def cdiv (a b : Int) : Int := -((-a) / b)

/-- The interval of the rational n/d. -/
def Iv.ofRat (P : Nat) (n : Int) (d : Nat) : Iv := ⟨n * 2 ^ P / d, cdiv (n * 2 ^ P) d⟩

/-- The sum. -/
def Iv.add (a b : Iv) : Iv := ⟨a.lo + b.lo, a.hi + b.hi⟩

/-- The difference. -/
def Iv.sub (a b : Iv) : Iv := ⟨a.lo - b.hi, a.hi - b.lo⟩

/-- The product. -/
def Iv.mul (P : Nat) (a b : Iv) : Iv :=
  let w := a.lo * b.lo
  let x := a.lo * b.hi
  let y := a.hi * b.lo
  let z := a.hi * b.hi
  ⟨min (min w x) (min y z) / 2 ^ P, cdiv (max (max w x) (max y z)) (2 ^ P)⟩

/-- The product with an integer. -/
def Iv.scale (a : Iv) (k : Int) : Iv := if 0 ≤ k then ⟨a.lo * k, a.hi * k⟩ else ⟨a.hi * k, a.lo * k⟩

/-- The quotient by a positive integer. -/
def Iv.divNat (a : Iv) (k : Nat) : Iv := ⟨a.lo / k, cdiv a.hi k⟩

/-- The quotient by an interval above zero. -/
def Iv.div (P : Nat) (a b : Iv) : Iv :=
  let f (x y : Int) := x * 2 ^ P / y
  let c (x y : Int) := cdiv (x * 2 ^ P) y
  ⟨min (f a.lo b.lo) (f a.lo b.hi), max (c a.hi b.lo) (c a.hi b.hi)⟩

/-- The product with 2^k. -/
def Iv.shift (a : Iv) (k : Int) : Iv :=
  if 0 ≤ k then ⟨a.lo * 2 ^ k.toNat, a.hi * 2 ^ k.toNat⟩
  else ⟨a.lo / 2 ^ (-k).toNat, cdiv a.hi (2 ^ (-k).toNat)⟩

def Iv.one (P : Nat) : Iv := ⟨2 ^ P, 2 ^ P⟩

/-- 1 + x/1·(1 + x/2·(1 + … )) from term n down: e^x for 0 ≤ x ≤ 1.5, the innermost factor lying in [1, 5]. -/
def expHorner (P : Nat) (x : Iv) : Nat → Iv → Iv
  | 0, s => s
  | n + 1, s => expHorner P x n ((Iv.one P).add ((x.mul P s).divNat (n + 1)))

/-- Σ y^k/(2k+1) (`alt` false) or Σ (−y)^k/(2k+1): 1/(2k+1) ± y·(…), the innermost factor lying in [0, 2]. -/
def oddHorner (P : Nat) (alt : Bool) (y : Iv) : Nat → Iv → Iv
  | 0, s => s
  | k + 1, s =>
    let t := y.mul P s
    let c := Iv.ofRat P 1 (2 * k + 1)
    oddHorner P alt y k (if alt then c.sub t else c.add t)

/-- The tangent-type series at the rational 1/q. -/
def oddSeries (P : Nat) (alt : Bool) (z : Iv) : Iv :=
  let y := z.mul P z
  z.mul P (oddHorner P alt y (P / 2 + 4) ⟨0, 2 * 2 ^ P⟩)

/-- ln 2 = 2·artanh(1/3). -/
def ln2Iv (P : Nat) : Iv := (oddSeries P false (Iv.ofRat P 1 3)).scale 2

/-- π = 16·arctan(1/5) − 4·arctan(1/239). -/
def piIv (P : Nat) : Iv :=
  ((oddSeries P true (Iv.ofRat P 1 5)).scale 16).sub ((oddSeries P true (Iv.ofRat P 1 239)).scale 4)

/-- e^x: the argument is reduced by a multiple of ln 2 into [ln 2, 2·ln 2] or a little beyond. -/
def expIv (P : Nat) (x : Iv) : Iv :=
  let l := ln2Iv P
  let k := x.lo / l.hi - 1
  let r := x.sub (l.scale k)
  (expHorner P r (P / 4 + 8) ⟨2 ^ P, 5 * 2 ^ P⟩).shift k

/-- ln(n/d) for n, d > 0. -/
def lnIv (P : Nat) (n d : Nat) : Iv :=
  let e := ilog2 n d
  let q := scaled 1 e
  -- m = n/(d·2^e) lies in [1, 2); artanh((m−1)/(m+1))
  let a := n * q.2
  let b := d * q.1
  let t := oddSeries P false (Iv.ofRat P ((a : Int) - b) (a + b))
  (t.scale 2).add ((ln2Iv P).scale e)

/-- 1 − y/((2k)(2k±1))·(…): the cosine series (`s` = 0) or the sine series over its argument (`s` = 1). -/
def trigHorner (P : Nat) (s : Nat) (y : Iv) : Nat → Iv → Iv
  | 0, f => f
  | k + 1, f => trigHorner P s y k ((Iv.one P).sub ((y.mul P f).divNat ((2 * k + 1 + s) * (2 * k + 2 * s + 2 - s))))

/-- sin and cos of n/d (with its sign): the argument is reduced by the nearest multiple of π/2. -/
def sinCosIv (P : Nat) (x : Int) (d : Nat) : Iv × Iv :=
  let P' := P + 140
  let hp := (piIv P').divNat 2
  let X := Iv.ofRat P' x d
  let q := (X.lo * 2 + hp.lo) / (2 * hp.lo)
  let r' := X.sub (hp.scale q)
  let r : Iv := ⟨r'.lo / 2 ^ 140, cdiv r'.hi (2 ^ 140)⟩
  let y0 := r.mul P r
  let y : Iv := ⟨max 0 y0.lo, y0.hi⟩
  let n := P / 6 + 8
  let c := trigHorner P 0 y n ⟨0, 2 ^ P⟩
  let s := r.mul P (trigHorner P 1 y n ⟨0, 2 ^ P⟩)
  let neg (a : Iv) : Iv := ⟨-a.hi, -a.lo⟩
  match (q % 4).toNat with
  | 0 => (s, c)
  | 1 => (c, neg s)
  | 2 => (neg s, neg c)
  | _ => (neg c, s)

/-- The value of an end of an interval. -/
def ivEnd (P : Nat) (a : Int) : FVal := .fin (decide (a < 0)) a.natAbs (2 ^ P)

/-- The middle of the unit above the lower end: inside an enclosure of an irrational value, and no FP32
value, so that its rounding is inexact as that of the true value is (R203). -/
def ivMid (P : Nat) (a : Int) : FVal := ivEnd (P + 1) (2 * a + 1)

/-- The first precision at which an enclosure decides the FP32 rounding. Log 55 (DEDUCED). -/
def ziv (f : Nat → Iv) : List Nat → FVal
  | [] => .nan false
  | P :: t =>
    let a := f P
    if rnBits fp32 (ivEnd P a.lo) == rnBits fp32 (ivEnd P a.hi) || t.isEmpty then ivMid P a.lo else ziv f t

/-- The precisions tried. -/
def zivs : List Nat := [352, 704, 1408, 2816]

/-- A value too large for FP32 and one too small for it. -/
def hugeVal (neg : Bool) : FVal := .fin neg (2 ^ 200) 1
def tinyVal (neg : Bool) : FVal := .fin neg 1 (2 ^ 200)

/-- A value a little below 1, which rounds to 1 and is inexact. -/
def nearOne (neg : Bool) : FVal := .fin neg (2 ^ 60 - 1) (2 ^ 60)

/-- The nine functions of R204. -/
inductive SpecialFn where
  | ex2 | lg2 | rcp | rsq | sqrt | sin | cos | tanh | sigm
  deriving DecidableEq, Repr

/-- 2^(n/d), or ln 2 · 2^(n/d) when `deriv`. -/
def ex2Fin (deriv neg : Bool) (n d : Nat) : FVal :=
  if !neg && decide (130 * d ≤ n) then hugeVal false
  else if neg && decide (160 * d ≤ n) then tinyVal false
  else if !deriv && n % d == 0 then
    let q := scaled 1 (intOf neg (n / d))
    .fin false q.1 q.2
  else ziv (fun P =>
    let l := ln2Iv P
    let e := expIv P (l.mul P (Iv.ofRat P (intOf neg n) d))
    if deriv then l.mul P e else e) zivs

/-- log₂(n/d) for n/d > 0. -/
def lg2Fin (n d : Nat) : FVal :=
  let e := ilog2 n d
  let q := scaled 1 e
  if n * q.2 == d * q.1 then .fin (decide (e < 0)) e.natAbs 1
  else ziv (fun P => (lnIv P n d).div P (ln2Iv P)) zivs

/-- tanh and its derivative 4E/(E+1)², with E = e^(2x), x > 0. -/
def tanhFin (deriv neg : Bool) (n d : Nat) : FVal :=
  if decide (64 * d ≤ n) then (if deriv then tinyVal false else nearOne neg)
  else
    let v := ziv (fun P =>
      let E := expIv P (Iv.ofRat P (2 * n) d)
      let E1 := E.add (Iv.one P)
      if deriv then ((E.scale 4).div P E1).div P E1 else (E.sub (Iv.one P)).div P E1) zivs
    if neg && !deriv then v.negate else v

/-- The logistic function and its derivative E/(1+E)², with E = e^x. -/
def sigmFin (deriv neg : Bool) (n d : Nat) : FVal :=
  if decide (110 * d ≤ n) then (if deriv || neg then tinyVal false else nearOne false)
  else ziv (fun P =>
    let E := expIv P (Iv.ofRat P (intOf neg n) d)
    let E1 := E.add (Iv.one P)
    if deriv then (E.div P E1).div P E1 else E.div P E1) zivs

/-- sin or cos of ±n/d. -/
def trigFin (cos neg : Bool) (n d : Nat) : FVal :=
  ziv (fun P => let r := sinCosIv P (intOf neg n) d; if cos then r.2 else r.1) zivs

/-- f(x) of R204 for every value, with its flags beyond those of the rounding. -/
def specialValue (f : SpecialFn) (x : FVal) : FVal × Flags :=
  match x with
  | .nan s => (.nan false, flagIf s flagINV)
  | .inf neg =>
    match f with
    | .ex2 => (if neg then .fin false 0 1 else .inf false, 0)
    | .lg2 => if neg then (.nan false, flagINV) else (.inf false, 0)
    | .rcp => (.fin neg 0 1, 0)
    | .rsq => if neg then (.nan false, flagINV) else (.fin false 0 1, 0)
    | .sqrt => if neg then (.nan false, flagINV) else (.inf false, 0)
    | .sin => (.nan false, flagINV)
    | .cos => (.nan false, flagINV)
    | .tanh => (.fin neg 1 1, 0)
    | .sigm => (if neg then .fin false 0 1 else .fin false 1 1, 0)
  | .fin neg n d =>
    if n == 0 then
      match f with
      | .ex2 => (.fin false 1 1, 0)
      | .lg2 => (.inf true, flagDZ)
      | .rcp => (.inf neg, flagDZ)
      | .rsq => (.inf neg, flagDZ)
      | .sqrt => (.fin neg 0 1, 0)
      | .sin => (.fin neg 0 1, 0)
      | .cos => (.fin false 1 1, 0)
      | .tanh => (.fin neg 0 1, 0)
      | .sigm => (.fin false 1 2, 0)
    else
      match f with
      | .ex2 => (ex2Fin false neg n d, 0)
      | .lg2 => if neg then (.nan false, flagINV) else (lg2Fin n d, 0)
      | .rcp => (.fin neg d n, 0)
      | .rsq =>
        if neg then (.nan false, flagINV) else
        let q := sqrtFin d n
        (.fin false q.1 q.2, 0)
      | .sqrt => exSqrt x
      | .sin => (trigFin false neg n d, 0)
      | .cos => (trigFin true neg n d, 0)
      | .tanh => (tanhFin false neg n d, 0)
      | .sigm => (sigmFin false neg n d, 0)

/-- f′(x) of R204 at the exact x, the limit it names where x is infinite or singular. Where f is NaN the
spread is the NaN spread whatever g is (R185), so g is NaN there. -/
def specialDeriv (f : SpecialFn) (x : FVal) : FVal :=
  match x with
  | .nan _ => .nan false
  | .inf neg =>
    match f with
    | .ex2 => if neg then .fin false 0 1 else .inf false
    | .lg2 => if neg then .nan false else .fin false 0 1
    | .rcp => .fin true 0 1
    | .rsq => if neg then .nan false else .fin true 0 1
    | .sqrt => if neg then .nan false else .fin false 0 1
    | .sin => .nan false
    | .cos => .nan false
    | .tanh => .fin false 0 1
    | .sigm => .fin false 0 1
  | .fin neg n d =>
    if n == 0 then
      match f with
      | .ex2 => ex2Fin true false 0 1
      | .lg2 => .inf neg
      | .rcp => .inf true
      | .rsq => .inf true
      | .sqrt => .inf false
      | .sin => .fin false 1 1
      | .cos => .fin (!neg) 0 1
      | .tanh => .fin false 1 1
      | .sigm => .fin false 1 4
    else
      match f with
      | .ex2 => ex2Fin true neg n d
      | .lg2 => if neg then .nan false else
        ziv (fun P => (Iv.ofRat P d n).div P (ln2Iv P)) zivs
      | .rcp => .fin true (d * d) (n * n)
      | .rsq => if neg then .nan false else
        let q := sqrtFin (d * d * d) (4 * (n * n * n))
        .fin true q.1 q.2
      | .sqrt => if neg then .nan false else
        let q := sqrtFin d (4 * n)
        .fin false q.1 q.2
      | .sin => trigFin true neg n d
      | .cos => (trigFin false neg n d).negate
      | .tanh => tanhFin true neg n d
      | .sigm => sigmFin true neg n d

/-! ### The normal quantile of RGAUS -/

/-- 1 + y/3·(1 + y/5·(…)): the series of Φ, the innermost factor lying in [1, 2]. -/
def phiHorner (P : Nat) (y : Iv) : Nat → Iv → Iv
  | 0, s => s
  | k + 1, s => phiHorner P y k ((Iv.one P).add ((y.mul P s).divNat (2 * k + 3)))

/-- 1/√(2π). -/
def invSqrt2Pi (P : Nat) : Iv :=
  let p := (piIv P).scale 2
  let lo := isqrt (p.lo.toNat * 2 ^ P)
  let hi := isqrt (p.hi.toNat * 2 ^ P) + 1
  (Iv.one P).div P ⟨lo, hi⟩

/-- Φ(z) − 1/2 for z = n/d ≥ 0. -/
def phiIv (P : Nat) (c : Iv) (n d : Nat) : Iv :=
  let z := Iv.ofRat P n d
  let y := z.mul P z
  let e := expIv P (y.divNat 2)
  let s := z.mul P (phiHorner P y (40 + P / 2) ⟨2 ^ P, 2 * 2 ^ P⟩)
  ((s.mul P c).div P e)

/-- Whether Φ(cut between the FP32 magnitudes t and t+1) lies above 1/2 + num/2^33. -/
def phiAbove (P : Nat) (c : Iv) (num t : Nat) : Bool :=
  match fp32.value t, fp32.value (t + 1) with
  | .fin _ n d, .fin _ m e =>
    let a := phiIv P c (n * e + m * d) (2 * d * e)
    decide (num * 2 ^ P < (a.lo + a.hi) * 2 ^ 32)
  | _, _ => true

/-- Bisection for the least t in (lo, hi] whose cut lies above: the FP32 magnitude nearest the quantile. -/
def phiSearch (P : Nat) (c : Iv) (num : Nat) : Nat → Nat → Nat → Nat
  | 0, _, hi => hi
  | f + 1, lo, hi =>
    if hi ≤ lo then hi else
    let mid := (lo + hi) / 2
    if phiAbove P c num mid then phiSearch P c num f lo mid else phiSearch P c num f (mid + 1) hi

/-- RN(Φ⁻¹((out + 0.5)·2^-32)) in FP32. The cuts are compared at 2^-256, far below the spacing of Φ between
neighbouring cuts and far below the least distance from a cut to a multiple of 2^-33 that chance leaves. -/
def rgausBits (out : Nat) : Nat :=
  let neg := decide (out < 2 ^ 31)
  let k := if neg then 2 ^ 32 - 1 - out else out
  -- p − 1/2 = (2k + 1 − 2^32)/2^33
  let num := 2 * k + 1 - 2 ^ 32
  let P := 256
  fp32.pack neg (phiSearch P (invSqrt2Pi P) num 40 0 0x40D00000)

end Sys2Proof.Machine
end

