-- ==== Sys2Proof/Machine/Dist.lean ====
section
/-!
DEFINITION. One lane of the arithmetic on distributions: MV and S4 words, the spread rules of R41, R42, R48
and R184 to R188, and the value that every instruction of 10_distribution_arithmetic.md writes in a lane.

A lane operation takes register words and the lane's LFSR and gives a `LaneOut`. Nothing here knows of
groups or of issue.
-/

namespace Sys2Proof.Machine

/-- The effective spread mode (R182). -/
inductive SMode where
  | ind | trk | smp
  deriving DecidableEq, Repr

/-- The mode an SM field and SMODE select (R182); SMODE never holds 00 (R153). -/
def effMode (sm smode : BitVec 2) : SMode :=
  let m := if sm = 0 then smode else sm
  if m = 2 then .trk else if m = 3 then .smp else .ind

/-- What an instruction does in one lane: the word written, the flags raised, the LFSR afterwards. -/
structure LaneOut where
  val : Word
  flags : Flags
  lfsr : Word32
  deriving DecidableEq, Repr

/-! ### Stochastic rounding -/

/-- One step of a lane LFSR (R47). -/
def lfsrStep (s : Word32) : Word32 :=
  if s = 0 then 0x80200003 else
  let t := s >>> 1
  if s.getLsbD 0 then t ^^^ 0x80200003 else t

/-- A narrowing with RN, or with SR and one step of the LFSR. -/
def narrow (F : Fmt) (sr : Bool) (l : Word32) (x : FVal) : Rounded × Word32 :=
  if sr then
    let l' := lfsrStep l
    (round F (.sr (l'.toNat % 2 ^ 24)) x, l')
  else (round F .rn x, l)

/-! ### FP32 operations rounded RN that set no flag -/

def add32 (a b : FVal) : FVal := rn32 (exAdd a b).1
def sub32 (a b : FVal) : FVal := rn32 (exAdd a b.negate).1
def mul32 (a b : FVal) : FVal := rn32 (exMul a b).1
def div32 (a b : FVal) : FVal := rn32 (exDiv a b).1
def sqrt32 (a : FVal) : FVal := rn32 (exSqrt a).1

def fzero : FVal := .fin false 0 1
def fone : FVal := .fin false 1 1
def fquarter : FVal := .fin false 1 4
def finf : FVal := .inf false

/-- PTerm of R184. -/
def pTerm (c v : FVal) : FVal := if v.isZero then fzero else mul32 c v

/-- QTerm of R184. -/
def qTerm (v c : FVal) : FVal := if v.isZero then fzero else div32 v c

/-! ### Words in MV form (R5, R41) -/

/-- The 32 mean bits. -/
def meanBits (w : Word) : Nat := w.toNat % 2 ^ 32

/-- The spread word. -/
def spreadBits (w : Word) : Nat := w.toNat / 2 ^ 32

/-- An MV word from its two halves. -/
def mkMV (spread mean : Nat) : Word := BitVec.ofNat 64 (spread * 2 ^ 32 + mean)

/-- Mean(x). -/
def meanOf (w : Word) : FVal := fp32.value (meanBits w)

/-- Tag(x). -/
def tagOf (w : Word) : Nat := w.toNat / 2 ^ 56

/-- Sens(x). -/
def sensOf (w : Word) : FVal := if tagOf w = 0 then fzero else e8m15.value (spreadBits w % 2 ^ 24)

/-- Var(x). -/
def varOf (w : Word) : FVal :=
  if tagOf w = 0 then e8m16.value (spreadBits w % 2 ^ 24) else mul32 (sensOf w) (sensOf w)

/-- RN(√Var) of an untagged word (R197, R198, R200). -/
def stdOf (w : Word) : FVal := sqrt32 (varOf w)

/-- σ of R200 and R202: RN(√Var) where the tag is 0, else Sens. -/
def sigmaOf (w : Word) : FVal := if tagOf w = 0 then stdOf w else sensOf w

/-- The spread word of a NaN result (R42). -/
def nanSpread : Nat := 0x00FF8000

/-- The NaN result of an MV instruction. -/
def nanMV : Word := mkMV nanSpread fp32.nan

/-- A spread word with tag 0 that holds a variance (R42). A negative variance is NaN and invalid. -/
def varSpread (v : FVal) : Nat × Flags :=
  match v with
  | .nan _ => (nanSpread, 0)
  | .inf s => if s then (nanSpread, flagINV) else (e8m16.infMag, flagSOVF)
  | .fin s n d =>
    if n == 0 then (0, 0)
    else if s then (nanSpread, flagINV)
    else
      let b := rnBits e8m16 (.fin false n d)
      (b, flagIf (b == e8m16.infMag) flagSOVF)

/-- A spread word with a tag that holds a sensitivity (R42). -/
def sensSpread (tag : Nat) (s : FVal) : Nat × Flags :=
  if s.isNan then (nanSpread, 0) else
  let b := rnBits e8m15 s
  (tag * 2 ^ 24 + b, flagIf (b % 2 ^ 23 == e8m15.infMag) flagSOVF)

/-- The variance a spread word stands for. -/
def spreadVar (sp : Nat) : FVal := varOf (mkMV sp 0)

/-- AddVar of R5 on a spread word. -/
def addVar (sp : Nat) (v : FVal) : Nat × Flags :=
  if v.isZero then (sp, 0) else varSpread (add32 (spreadVar sp) v)

/-- AddVar and the flags so far. -/
def addVarF (p : Nat × Flags) (v : FVal) : Nat × Flags :=
  let q := addVar p.1 v
  (q.1, p.2 ||| q.2)

/-- The variance that a rounding adds (R48): q²/12 for RN, q²·f·(1 − f) for SR, +Inf where it overflows. -/
def roundVar (sr : Bool) (r : Rounded) : FVal :=
  if r.overflow then finf
  else if r.inexact then
    let q := scaled 1 (2 * r.u)
    if sr then rn32 (.fin false (q.1 * (r.D * (2 ^ 24 - r.D))) (q.2 * 2 ^ 48))
    else rn32 (.fin false q.1 (12 * q.2))
  else fzero

/-- The spread after a rounding and the variance that it adds (R48): an overflow makes it +Inf. Log 88 (DEDUCED). -/
def afterRounding (sr : Bool) (r : Rounded) (p : Nat × Flags) : Nat × Flags :=
  if r.overflow then (e8m16.infMag, p.2 ||| flagSOVF) else addVarF p (roundVar sr r)

/-- Whether a spread word holds an infinite variance or sensitivity (R195). -/
def spreadInf (sp : Nat) : Bool :=
  if tagOf (mkMV sp 0) = 0 then (varOf (mkMV sp 0)).isInf else (sensOf (mkMV sp 0)).isInf

/-- The result word of a mean and a spread; a NaN mean takes the NaN spread (R42). -/
def mvResult (mean : Nat) (sp : Nat × Flags) : Word × Flags :=
  if (fp32.value mean).isNan then (mkMV nanSpread mean, 0) else (mkMV sp.1 mean, sp.2)

/-- A certain FP32 value (R197); a NaN has the NaN spread. -/
def certain (mean : Nat) : Word := if (fp32.value mean).isNan then nanMV else mkMV 0 mean

/-! ### Propagation (R185) -/

/-- Whether every uncertain contributing operand has one tag, and which. -/
def commonTag : List Word → Option Nat
  | [] => none
  | w :: t =>
    let T := tagOf w
    if T ≠ 0 && t.all (fun x => tagOf x == T) then some T else none

/-- The spread of R185 before any added variance. -/
def propagate (m : SMode) (ops : List Word) (v s : FVal) : Nat × Flags :=
  let N := ops.filter fun w => spreadBits w != 0
  if N.isEmpty then (0, 0) else
  match (if m = .trk then commonTag N else none) with
  | some T => sensSpread T s
  | none => varSpread v

/-- An MV instruction: the exact mean and its own flags, the contributing operands, the two sums. -/
def mvOp (m : SMode) (sr : Bool) (l : Word32) (ex : FVal × Flags) (ops : List Word) (v s : FVal) : LaneOut :=
  let (r, l') := narrow fp32 sr l ex.1
  let sp := propagate m ops v s
  let sp := if sr then afterRounding true r sp else sp
  let (w, f) := mvResult r.bits sp
  ⟨w, ex.2 ||| r.flags ||| f, l'⟩

/-! ### S4 form (R43, R188) -/

/-- Sample j of a word. -/
def sampleBits (w : Word) (j : Nat) : Nat := w.toNat / 2 ^ (16 * j) % 2 ^ 16

def sampleOf (w : Word) (j : Nat) : FVal := bf16.value (sampleBits w j)

/-- Four elements made in order, the LFSR passed along (R47). -/
def foldLanes (f : Nat → Word32 → Nat × Flags × Word32) (width : Nat) :
    List Nat → Word32 → Nat × Flags × Word32
  | [], l => (0, 0, l)
  | j :: t, l =>
    let (b, f1, l1) := f j l
    let (rest, f2, l2) := foldLanes f width t l1
    (b * 2 ^ (width * j) + rest, f1 ||| f2, l2)

/-- The elements of a word gathered. -/
def elements (f : Nat → Word32 → Nat × Flags × Word32) (width n : Nat) (l : Word32) : LaneOut :=
  let (b, fl, l') := foldLanes f width (List.range n) l
  ⟨BitVec.ofNat 64 b, fl, l'⟩

/-- One sample: the operation rounded RN into FP32, then into BF16 (R188). -/
def sampleStep (sr : Bool) (ex : FVal × Flags) (l : Word32) : Nat × Flags × Word32 :=
  let y := round fp32 .rn ex.1
  let (r, l') := narrow bf16 sr l (fp32.value y.bits)
  (r.bits, ex.2 ||| y.flags ||| r.flags, l')

/-- An S4 instruction from its operation on exact sample values. -/
def smpOp (sr : Bool) (l : Word32) (f : Nat → FVal × Flags) : LaneOut :=
  elements (fun j l => sampleStep sr (f j) l) 16 4 l

/-! ### Operations on exact values, with the invalid flag of a signalling operand -/

def opAdd (a b : FVal) : FVal × Flags := let r := exAdd a b; (r.1, r.2 ||| snanFlag a ||| snanFlag b)
def opSub (a b : FVal) : FVal × Flags := opAdd a b.negate
def opMul (a b : FVal) : FVal × Flags := let r := exMul a b; (r.1, r.2 ||| snanFlag a ||| snanFlag b)
def opDiv (a b : FVal) : FVal × Flags := let r := exDiv a b; (r.1, r.2 ||| snanFlag a ||| snanFlag b)

/-- The fused a·b + c; ∞·0 is invalid even where c is NaN (R190). -/
def opFma (a b c : FVal) : FVal × Flags :=
  let p := exMul a b
  let r := exAdd p.1 c
  (r.1, p.2 ||| r.2 ||| snanFlag a ||| snanFlag b ||| snanFlag c)

/-! ### FADD to FFMA (R186, R189, R190) -/

def laneAdd (m : SMode) (sr : Bool) (l : Word32) (a b : Word) : LaneOut :=
  if m = .smp then smpOp sr l fun j => opAdd (sampleOf a j) (sampleOf b j) else
  mvOp m sr l (opAdd (meanOf a) (meanOf b)) [a, b] (add32 (varOf a) (varOf b)) (add32 (sensOf a) (sensOf b))

def laneSub (m : SMode) (sr : Bool) (l : Word32) (a b : Word) : LaneOut :=
  if m = .smp then smpOp sr l fun j => opSub (sampleOf a j) (sampleOf b j) else
  mvOp m sr l (opSub (meanOf a) (meanOf b)) [a, b] (add32 (varOf a) (varOf b)) (sub32 (sensOf a) (sensOf b))

/-- The variance sum of a product (R186). -/
def mulVar (a b : Word) : FVal :=
  add32 (pTerm (mul32 (meanOf b) (meanOf b)) (varOf a)) (pTerm (mul32 (meanOf a) (meanOf a)) (varOf b))

/-- The sensitivity sum of a product (R186). -/
def mulSens (a b : Word) : FVal := add32 (pTerm (meanOf b) (sensOf a)) (pTerm (meanOf a) (sensOf b))

def laneMul (m : SMode) (sr : Bool) (l : Word32) (a b : Word) : LaneOut :=
  if m = .smp then smpOp sr l fun j => opMul (sampleOf a j) (sampleOf b j) else
  mvOp m sr l (opMul (meanOf a) (meanOf b)) [a, b] (mulVar a b) (mulSens a b)

def laneFma (m : SMode) (l : Word32) (a b c : Word) : LaneOut :=
  if m = .smp then smpOp false l fun j => opFma (sampleOf a j) (sampleOf b j) (sampleOf c j) else
  mvOp m false l (opFma (meanOf a) (meanOf b) (meanOf c)) [a, b, c]
    (add32 (mulVar a b) (varOf c)) (add32 (mulSens a b) (sensOf c))

def laneDiv (m : SMode) (sr : Bool) (l : Word32) (a b : Word) : LaneOut :=
  if m = .smp then smpOp sr l fun j => opDiv (sampleOf a j) (sampleOf b j) else
  let x := meanOf a
  let y := meanOf b
  let w := mul32 y y
  mvOp m sr l (opDiv x y) [a, b]
    (add32 (qTerm (varOf a) w) (qTerm (pTerm (mul32 x x) (varOf b)) (mul32 w w)))
    (add32 (pTerm (div32 fone y) (sensOf a)) (pTerm (div32 x w).negate (sensOf b)))

/-! ### FMIN, FMAX (R191) -/

/-- Whether the second operand is chosen. −0 is ordered below +0, and a is chosen of equal means. -/
def choosesB (max : Bool) (a b : FVal) : Bool :=
  if a.isNan then !b.isNan
  else if b.isNan then false
  else if a.isZero && b.isZero then (if max then a.neg && !b.neg else !a.neg && b.neg)
  else if max then a.lt b else b.lt a

def opMinMax (max : Bool) (a b : FVal) : FVal × Flags :=
  (if choosesB max a b then b else a, snanFlag a ||| snanFlag b)

/-- Log 87 (DEDUCED). -/
def laneMinMax (max : Bool) (m : SMode) (l : Word32) (a b : Word) : LaneOut :=
  if m = .smp then smpOp false l fun j => opMinMax max (sampleOf a j) (sampleOf b j) else
  let x := meanOf a
  let y := meanOf b
  let f := snanFlag x ||| snanFlag y
  if x.isNan && y.isNan then ⟨nanMV, f, l⟩ else
  let c := if choosesB max x y then b else a
  let sp : Nat × Flags := if m = .trk then (spreadBits c, 0) else varSpread (varOf c)
  ⟨mkMV sp.1 (meanBits c), f ||| sp.2 ||| flagIf (spreadInf sp.1) flagSOVF, l⟩

/-! ### FABS, FNEG, FCPS (R192) -/

/-- The three sign operations. -/
inductive SignOp where
  | abs | neg | cps
  deriving DecidableEq, Repr

/-- A sign bit from the sign bits of the operands. -/
def SignOp.sign : SignOp → Bool → Bool → Bool
  | .abs, _, _ => false
  | .neg, a, _ => !a
  | .cps, _, b => b

/-- `bits` with its top bit at `pos` set from the operation. -/
def signBits (o : SignOp) (pos a b : Nat) : Nat :=
  let s := o.sign (a / 2 ^ pos % 2 == 1) (b / 2 ^ pos % 2 == 1)
  a % 2 ^ pos + (if s then 2 ^ pos else 0)

def laneSign (o : SignOp) (m : SMode) (l : Word32) (a b : Word) : LaneOut :=
  if m = .smp then
    elements (fun j l => (signBits o 15 (sampleBits a j) (sampleBits b j), 0, l)) 16 4 l
  else
    let mb := signBits o 31 (meanBits a) (meanBits b)
    let s := sensOf a
    let s' := if mb / 2 ^ 31 == meanBits a / 2 ^ 31 then s else s.negate
    ⟨(mvResult mb (propagate m [a] (varOf a) (if s.isZero then fzero else s'))).1, 0, l⟩

/-! ### FRND (R193) -/

/-- The rounding mode an immediate names: 0 RN, 1 RZ, 2 RD, 3 RU. -/
def rmodeOf (n : Nat) : RMode := if n = 1 then .rz else if n = 2 then .rd else if n = 3 then .ru else .rn

/-- The integral value a mode gives, the sign of zero kept. -/
def opRnd (rm : RMode) (a : FVal) : FVal × Flags :=
  match a with
  | .nan s => (.nan false, flagIf s flagINV)
  | .inf s => (.inf s, 0)
  | .fin s n d => (.fin s (roundInt rm s n d).1.natAbs 1, 0)

def laneRnd (rm : RMode) (m : SMode) (l : Word32) (a : Word) : LaneOut :=
  if m = .smp then smpOp false l fun j => opRnd rm (sampleOf a j) else
  mvOp m false l (opRnd rm (meanOf a)) [a] (varOf a) (sensOf a)

/-! ### Special functions (R203) -/

def laneSpecial (f : SpecialFn) (m : SMode) (l : Word32) (a : Word) : LaneOut :=
  if m = .smp then smpOp false l fun j => specialValue f (sampleOf a j) else
  let g := rn32 (specialDeriv f (meanOf a))
  mvOp m false l (specialValue f (meanOf a)) [a] (pTerm (mul32 g g) (varOf a)) (pTerm g (sensOf a))

/-! ### HADD2, HMUL2, HFMA2 (R194) -/

def half (isBf : Bool) : Fmt := if isBf then bf16 else fp16

/-- Element j of a packed pair. -/
def halfOf (isBf : Bool) (w : Word) (j : Nat) : FVal := (half isBf).value (sampleBits w j)

/-- Two elements, each rounded once. -/
def halfOp (isBf sr : Bool) (l : Word32) (f : Nat → FVal × Flags) : LaneOut :=
  elements (fun j l =>
    let (r, l') := narrow (half isBf) sr l (f j).1
    (r.bits, (f j).2 ||| r.flags, l')) 16 2 l

def laneHAdd (isBf sr : Bool) (l : Word32) (a b : Word) : LaneOut :=
  halfOp isBf sr l fun j => opAdd (halfOf isBf a j) (halfOf isBf b j)

def laneHMul (isBf sr : Bool) (l : Word32) (a b : Word) : LaneOut :=
  halfOp isBf sr l fun j => opMul (halfOf isBf a j) (halfOf isBf b j)

def laneHFma (isBf sr : Bool) (l : Word32) (a b c : Word) : LaneOut :=
  halfOp isBf sr l fun j => opFma (halfOf isBf a j) (halfOf isBf b j) (halfOf isBf c j)

/-! ### Distribution instructions (R196 to R202) -/

/-- A lane result that steps no LFSR. -/
def plain (l : Word32) (p : Word × Flags) : LaneOut := ⟨p.1, p.2, l⟩

/-- The variance a program gives, negative or NaN being an invalid one (R196, R199). -/
def givenVar (w : FVal) : Nat × Flags :=
  match w with
  | .nan _ => (nanSpread, flagINV)
  | w => varSpread w

/-- A mean and a spread whose invalid flag is raised whatever the mean is. -/
def mvKeepInv (mean : Nat) (sp : Nat × Flags) : Word × Flags :=
  let (w, f) := mvResult mean sp
  (w, f ||| (sp.2 &&& flagINV))

/-- Log 89 (DEDUCED). -/
def laneMake (l : Word32) (a b : Word) : LaneOut := plain l (mvKeepInv (meanBits a) (givenVar (meanOf b)))

def laneMean (l : Word32) (a : Word) : LaneOut := plain l (certain (meanBits a), 0)

def laneVar (l : Word32) (a : Word) : LaneOut :=
  plain l (certain (rnBits fp32 (varOf a)), 0)

def laneStd (l : Word32) (a : Word) : LaneOut :=
  let x := if tagOf a = 0 then stdOf a else
    match sensOf a with
    | .nan s => .nan s
    | .inf _ => .inf false
    | .fin _ n d => .fin false n d
  plain l (certain (rnBits fp32 x), 0)

def laneSens (l : Word32) (a b : Word) : LaneOut :=
  let x := if tagOf a ≠ 0 && tagOf a == b.toNat % 256 then sensOf a else fzero
  plain l (certain (rnBits fp32 x), 0)

def laneTag (l : Word32) (a b : Word) : LaneOut :=
  let T := b.toNat % 256
  plain l (mvResult (meanBits a) (if T = 0 then varSpread (varOf a) else sensSpread T (sigmaOf a)))

def laneClr (l : Word32) (a : Word) : LaneOut := plain l (mvResult (meanBits a) (varSpread (varOf a)))

def laneAddVar (l : Word32) (a b : Word) : LaneOut :=
  let w := meanOf b
  let neg := match w with
    | .nan _ => true
    | .inf s => s
    | .fin s n _ => s && n != 0
  let sp : Nat × Flags := if neg then (nanSpread, flagINV) else addVar (spreadBits a) w
  plain l (mvKeepInv (meanBits a) (sp.1, sp.2 ||| flagIf (spreadInf sp.1) flagSOVF))

/-- c[j] of R200. -/
def s4Sign (j : Nat) (x : FVal) : FVal := if j % 2 = 0 then x else x.negate

/-- One sample of an MV word: RN(μ + t), then BF16; the roundings alone set flags (R195, R200, R202). -/
def spreadSample (sr : Bool) (mu t : FVal) (l : Word32) : Nat × Flags × Word32 :=
  sampleStep sr ((exAdd mu t).1, 0) l

def laneS4 (sr : Bool) (l : Word32) (a : Word) : LaneOut :=
  elements (fun j l => spreadSample sr (meanOf a) (s4Sign j (sigmaOf a)) l) 16 4 l

/-- DSAMP with the four FP32 draws of the lane. -/
def laneSamp (sr : Bool) (l : Word32) (a : Word) (z : Nat → Nat) : LaneOut :=
  elements (fun j l => spreadSample sr (meanOf a) (pTerm (sigmaOf a) (fp32.value (z j))) l) 16 4 l

/-- One flagged FP32 step of DCOL. -/
def stepF (p : FVal × Flags) : FVal × Flags :=
  let r := round fp32 .rn p.1
  (fp32.value r.bits, p.2 ||| r.flags)

def laneCol (l : Word32) (a : Word) : LaneOut :=
  let x := sampleOf a
  let s01 := stepF (opAdd (x 0) (x 1))
  let s23 := stepF (opAdd (x 2) (x 3))
  let s := stepF (opAdd s01.1 s23.1)
  let m := stepF (opMul s.1 fquarter)
  let sq (j : Nat) := let d := sub32 (x j) m.1; mul32 d d
  let v := mul32 (add32 (add32 (sq 0) (sq 1)) (add32 (sq 2) (sq 3))) fquarter
  let (w, f) := mvResult (rnBits fp32 m.1) (varSpread v)
  plain l (w, s01.2 ||| s23.2 ||| s.2 ||| m.2 ||| f)

end Sys2Proof.Machine
end

