-- ==== Sys2Proof/Config.lean ====
section
/-!
DEFINITION. What the manual leaves to the part: constants without a body, so that nothing can be proved of
their values. Each one has its row in the assumption log.
-/

namespace Sys2Proof.Config

/-- Whether an ML-DSA-65 signature over a message verifies under the public key of a given SHA3-256 hash
(R381); the arithmetic of ML-DSA-65 is that of FIPS 204 and not of the manual. Log 5 (DESIGN CHOICE). -/
opaque mldsaVerify : (keyHash : Nat) → (message signature : List Byte) → Bool

/-- SHA3-256 of bytes (R381, R382): 32 bytes, by FIPS 202 and not by the manual. Log 5 (DESIGN CHOICE). -/
opaque sha3 : List Byte → List Byte

/-- The controller's ML-DSA-65 signature over a message (R382, 3,309 bytes). Log 5 (DESIGN CHOICE). -/
opaque mldsaSign : (message : List Byte) → (index : Nat) → Byte

/-- The fused SHA3-256 hash of the firmware signing key (R381). Log 5 (DESIGN CHOICE). -/
opaque fusedKeyHash : Nat

/-- The fused rollback counter at manufacture (R381). Log 5 (DESIGN CHOICE). -/
opaque fusedRollback : Nat

/-- The fuse configuration of the attestation report, beside the part number (R382). Log 5 (DESIGN CHOICE). -/
opaque fuseConfig : BitVec 48

/-- Byte i of the DER identity certificate and its length (R382). Log 5 (DESIGN CHOICE). -/
opaque certByte : Nat → Byte
/-- Log 5 (DESIGN CHOICE). -/
opaque certLength : Nat

/-- The firmware stages of the boot ROM's flash (R381): stage k as its bytes, signature and version.
Log 5 (DESIGN CHOICE). -/
opaque romStage : Nat → List Byte × List Byte × Nat

/-- How many firmware stages there are (R381). Log 5 (DESIGN CHOICE). -/
opaque stageCount : Nat

/-- The images that the mailbox's command 6 can be given, by number, in the form of `romStage` (R382).
Log 5 (DESIGN CHOICE). -/
opaque firmwareImage : Nat → List Byte × List Byte × Nat

/-- A value that the manual leaves unspecified: the n-th one a run meets. Log 9 (DESIGN CHOICE). -/
opaque freeWord : Nat → Word

/-- What SIZE of a fault's detail holds for the 64-byte read of LAUNCH, which its two bits cannot say (R99, R335).
Log 10 (DESIGN CHOICE). -/
opaque wideSize : BitVec 2

/-- What a peer package answers to the n-th transfer (R144): `none` for a failure, else the bytes read.
Log 11 (DESIGN CHOICE). -/
opaque peerAnswer : Nat → Option (List Byte)

/-- A byte of the host's own memory at a host physical address, as the n-th read of it finds it (R382).
Log 20 (DESIGN CHOICE). -/
opaque hostByte : (n addr : Nat) → Byte

/-- The set of an L1, of an L2 and of a memory-side cache that a line falls in, taken modulo the number of sets: set
selection is not architectural (R82). Log 68 (DESIGN CHOICE). -/
opaque l1Set : (key : Nat) → Nat
/-- Log 68 (DESIGN CHOICE). -/
opaque l2Set : (key : Nat) → Nat
/-- Log 68 (DESIGN CHOICE). -/
opaque mscSet : (line : Nat) → Nat

end Sys2Proof.Config
end

