-- ==== Sys2Proof/Syntax.lean ====
section
/-!
DEFINITION. The instruction syntax of the Atilo: one constructor for each row of spec/opcode_table.json.

The 175 instruction words of R23 to R28 carry their encoded fields at the width the table gives them.
The chain and switch bits C and S belong to the word and not to the instruction (R9), so they stand in
`Decoded`, not here.
The other 80 constructors are the steps that 95_what_each_step_holds.md lists beside the instructions:
what an engine, a home agent, the Trellis, the host or the management controller does in one
indivisible action. Their arguments name the object acted on by its number in the state.
-/

namespace Sys2Proof

inductive Instr where
  /-- BRA (R291). Branches the active lanes of the head run to a PC-relative target, checking uniformity when the hint is 11. -/
  | bra (h : BitVec 2) (g : BitVec 4) (o : BitVec 16)
  /-- BRX (R291). Branches each active lane to the 64-bit address in vA. -/
  | brx (a : BitVec 5) (g : BitVec 4)
  /-- CALL (R291). Writes the link to v31 and branches PC-relative in each active lane. -/
  | call (h : BitVec 2) (g : BitVec 4) (o : BitVec 16)
  /-- CALLX (R291). Writes the link to v31 and branches to vA in each active lane. -/
  | callx (a : BitVec 5) (g : BitVec 4)
  /-- RET (R290). Moves each active lane to the address held in v31. -/
  | ret (g : BitVec 4)
  /-- EXIT (R292). Marks the active lanes exited, ending the group when no live lane remains once outstanding work has drained. -/
  | exit (g : BitVec 4)
  /-- YIELD (R293). Moves the active lanes past the word, marks them yielded and takes the group out of the active set. -/
  | yield (g : BitVec 4)
  /-- NOP (R291). Does nothing except lend its guard to a chained word. -/
  | nop (g : BitVec 4)
  /-- TRAP (R358). Moves the active lanes past the word and takes a software trap with a 12-bit code. -/
  | trap (i : BitVec 12)
  /-- BKPT (R294). Moves the active lanes past the word and takes a breakpoint trap. -/
  | bkpt (g : BitVec 4)
  /-- TFENCE (R353). Waits for outstanding results and traps at program level if FLAGS AND FLAGEN is non-zero. -/
  | tfence (g : BitVec 4)
  /-- ERET (R357). Returns from the handler, restoring the trap area and replaying or dropping the deferred access. -/
  | eret (r : BitVec 1) (g : BitVec 4)
  /-- CANCK (R338). Sets a predicate to whether the grid has been cancelled. -/
  | canck (p : BitVec 7)
  /-- ISETP (R160). Compares 64-bit integers per lane and writes a predicate. -/
  | isetp (p : BitVec 7) (a b : BitVec 5) (k : BitVec 4) (u : BitVec 1)
  /-- FSETP (R160). Compares FP32 means per lane and writes a predicate. -/
  | fsetp (p : BitVec 7) (a b : BitVec 5) (k : BitVec 4) (u : BitVec 1)
  /-- PAND (R161). Writes the AND of two predicates. -/
  | pand (p : BitVec 7) (a b : BitVec 5) (k : BitVec 4)
  /-- POR (R161). Writes the OR of two predicates. -/
  | por (p : BitVec 7) (a b : BitVec 5) (k : BitVec 4)
  /-- PXOR (R161). Writes the XOR of two predicates. -/
  | pxor (p : BitVec 7) (a b : BitVec 5) (k : BitVec 4)
  /-- PANDN (R161). Writes A AND NOT B of two predicates. -/
  | pandn (p : BitVec 7) (a b : BitVec 5) (k : BitVec 4)
  /-- PTOV (R162). Writes 1 or 0 into a lane register from a predicate. -/
  | ptov (d a : BitVec 5) (m : BitVec 2) (g : BitVec 4)
  /-- VTOP (R162). Sets a predicate to whether a register is non-zero. -/
  | vtop (p : BitVec 7) (a : BitVec 5) (u : BitVec 1)
  /-- VOTE (R164). Writes a ballot, all, any or uniform vote of a predicate over the active lanes. -/
  | vote (d a b : BitVec 5) (m : BitVec 2) (g : BitVec 4)
  /-- PLD (R163). Loads a block of 32 predicates from the low bits of a register. -/
  | pld (a : BitVec 5) (m : BitVec 2) (g : BitVec 4)
  /-- PST (R163). Stores a block of 32 predicates into a register. -/
  | pst (d : BitVec 5) (m : BitVec 2) (g : BitVec 4)
  /-- IADD (R171). Adds integers, wrapping or saturating. -/
  | iadd (d a b : BitVec 5) (m : BitVec 3) (g : BitVec 4)
  /-- ISUB (R171). Subtracts integers, wrapping or saturating. -/
  | isub (d a b : BitVec 5) (m : BitVec 3) (g : BitVec 4)
  /-- IMUL (R171). Multiplies integers, keeping the low half or saturating. -/
  | imul (d a b : BitVec 5) (m : BitVec 3) (g : BitVec 4)
  /-- IMULH (R171). Writes the upper half of an integer product. -/
  | imulh (d a b : BitVec 5) (m : BitVec 3) (g : BitVec 4)
  /-- IMAD (R172). Writes a·b + c in integers, wrapping or saturating. -/
  | imad (d a b e : BitVec 5) (n : BitVec 2)
  /-- IMIN (R173). Writes the smaller of two integers. -/
  | imin (d a b : BitVec 5) (m : BitVec 3) (g : BitVec 4)
  /-- IMAX (R173). Writes the larger of two integers. -/
  | imax (d a b : BitVec 5) (m : BitVec 3) (g : BitVec 4)
  /-- IABS (R173). Writes the absolute value of an integer, optionally saturating. -/
  | iabs (d a : BitVec 5) (m : BitVec 3) (g : BitVec 4)
  /-- AND (R174). Writes the bitwise AND. -/
  | and (d a b : BitVec 5) (m : BitVec 2) (g : BitVec 4)
  /-- OR (R174). Writes the bitwise OR. -/
  | or (d a b : BitVec 5) (m : BitVec 2) (g : BitVec 4)
  /-- XOR (R174). Writes the bitwise XOR. -/
  | xor (d a b : BitVec 5) (m : BitVec 2) (g : BitVec 4)
  /-- ANDN (R174). Writes a AND NOT b. -/
  | andn (d a b : BitVec 5) (m : BitVec 2) (g : BitVec 4)
  /-- SHL (R174). Shifts left by a register amount. -/
  | shl (d a b : BitVec 5) (m : BitVec 2) (g : BitVec 4)
  /-- SHR (R174). Shifts right logically by a register amount. -/
  | shr (d a b : BitVec 5) (m : BitVec 2) (g : BitVec 4)
  /-- SAR (R174). Shifts right arithmetically by a register amount. -/
  | sar (d a b : BitVec 5) (m : BitVec 2) (g : BitVec 4)
  /-- ROTL (R174). Rotates left by a register amount. -/
  | rotl (d a b : BitVec 5) (m : BitVec 2) (g : BitVec 4)
  /-- POPC (R175). Writes the population count. -/
  | popc (d a : BitVec 5) (m : BitVec 2) (g : BitVec 4)
  /-- CLZ (R175). Writes the count of leading zeros. -/
  | clz (d a : BitVec 5) (m : BitVec 2) (g : BitVec 4)
  /-- BREV (R175). Writes the value with its bits reversed. -/
  | brev (d a : BitVec 5) (m : BitVec 2) (g : BitVec 4)
  /-- BFX (R176). Extracts a bit field, zero- or sign-extended. -/
  | bfx (d a b e : BitVec 5) (n : BitVec 1)
  /-- BFI (R176). Inserts a bit field into the destination. -/
  | bfi (d a b e : BitVec 5)
  /-- BSEL (R177). Selects bits of a or b using the old destination as mask. -/
  | bsel (d a b : BitVec 5) (m : BitVec 2) (g : BitVec 4)
  /-- SEL (R177). Writes a where the guard holds and b elsewhere in the head run. -/
  | sel (d a b : BitVec 5) (m : BitVec 1) (g : BitVec 4)
  /-- LEA (R181). Adds a scaled signed index to a base, fencing the address if it leaves its home. -/
  | lea (d a b : BitVec 5) (u : BitVec 1) (k : BitVec 2) (g : BitVec 4)
  /-- IADDI (R178). Adds a sign-extended 12-bit immediate. -/
  | iaddi (d a : BitVec 5) (i : BitVec 12)
  /-- ANDI (R178). ANDs with a sign-extended immediate. -/
  | andi (d a : BitVec 5) (i : BitVec 12)
  /-- ORI (R178). ORs with a sign-extended immediate. -/
  | ori (d a : BitVec 5) (i : BitVec 12)
  /-- XORI (R178). XORs with a sign-extended immediate. -/
  | xori (d a : BitVec 5) (i : BitVec 12)
  /-- SHLI (R178). Shifts left by an immediate 0-63. -/
  | shli (d a : BitVec 5) (i : BitVec 6)
  /-- SHRI (R178). Shifts right logically by an immediate 0-63. -/
  | shri (d a : BitVec 5) (i : BitVec 6)
  /-- SARI (R178). Shifts right arithmetically by an immediate 0-63. -/
  | sari (d a : BitVec 5) (i : BitVec 6)
  /-- ISAT (R179). Clamps an integer to a signed or unsigned width. -/
  | isat (d a b : BitVec 5) (m : BitVec 3) (g : BitVec 4)
  /-- IDIV (R180). Divides integers on the X pipe, truncating toward zero. -/
  | idiv (d a b : BitVec 5) (m : BitVec 3) (g : BitVec 4)
  /-- IREM (R180). Writes the integer remainder on the X pipe. -/
  | irem (d a b : BitVec 5) (m : BitVec 3) (g : BitVec 4)
  /-- MOV (R156). Copies a lane or uniform register into a lane or uniform register. -/
  | mov (d a : BitVec 5) (m : BitVec 2) (g : BitVec 4)
  /-- LI (R157). Loads a zero-extended 32-bit immediate from the following raw word. -/
  | li (d : BitVec 5) (imm : BitVec 32)
  /-- LIH (R157). Loads the upper 32 bits of a register from the following raw word. -/
  | lih (d : BitVec 5) (imm : BitVec 32)
  /-- MOVS (R158). Copies one lane of a register, numbered by a uniform register, into a uniform register. -/
  | movs (d a b : BitVec 5) (g : BitVec 4)
  /-- SHFL (R165). Exchanges register values between lanes by index, up, down or xor. -/
  | shfl (d a b : BitVec 5) (m : BitVec 2) (g : BitVec 4)
  /-- REDG (R167). Reduces a register over the 32 lanes with the fixed tree. -/
  | redg (d a : BitVec 5) (m : BitVec 3) (g : BitVec 4)
  /-- SCAN (R167). Writes the inclusive or exclusive scan of a register over the lanes. -/
  | scan (d a : BitVec 5) (x : BitVec 1) (m : BitVec 3) (g : BitVec 4)
  /-- BCAST (R166). Broadcasts one lane's register to the active lanes. -/
  | bcast (d a b : BitVec 5) (g : BitVec 4)
  /-- MFS (R159). Reads a special register into a lane register. -/
  | mfs (r : BitVec 5) (y : BitVec 12)
  /-- MTS (R159). Writes a lane register into a special register. -/
  | mts (r : BitVec 5) (y : BitVec 12)
  /-- FADD (R189). Adds distributions: rounded mean and propagated spread. -/
  | fadd (d a b : BitVec 5) (m : BitVec 3) (g : BitVec 4)
  /-- FSUB (R189). Subtracts distributions. -/
  | fsub (d a b : BitVec 5) (m : BitVec 3) (g : BitVec 4)
  /-- FMUL (R189). Multiplies distributions. -/
  | fmul (d a b : BitVec 5) (m : BitVec 3) (g : BitVec 4)
  /-- FDIV (R189). Divides distributions with variable latency. -/
  | fdiv (d a b : BitVec 5) (m : BitVec 3) (g : BitVec 4)
  /-- FFMA (R190). Computes the fused a·b + c of distributions. -/
  | ffma (d a b e : BitVec 5) (n : BitVec 2)
  /-- FMIN (R191). Chooses the operand with the smaller mean. -/
  | fmin (d a b : BitVec 5) (m : BitVec 2) (g : BitVec 4)
  /-- FMAX (R191). Chooses the operand with the larger mean. -/
  | fmax (d a b : BitVec 5) (m : BitVec 2) (g : BitVec 4)
  /-- FCPS (R192). Copies the sign of b onto the mean of a. -/
  | fcps (d a b : BitVec 5) (m : BitVec 2) (g : BitVec 4)
  /-- FABS (R192). Clears the sign bit of the mean. -/
  | fabs (d a : BitVec 5) (m : BitVec 2) (g : BitVec 4)
  /-- FNEG (R192). Inverts the sign bit of the mean. -/
  | fneg (d a : BitVec 5) (m : BitVec 2) (g : BitVec 4)
  /-- FRND (R193). Rounds the mean to an integral value in a named mode. -/
  | frnd (d a : BitVec 5) (b m : BitVec 2) (g : BitVec 4)
  /-- HADD2 (R194). Adds two packed 16-bit elements. -/
  | hadd2 (d a b : BitVec 5) (f r : BitVec 1) (g : BitVec 4)
  /-- HMUL2 (R194). Multiplies two packed 16-bit elements. -/
  | hmul2 (d a b : BitVec 5) (f r : BitVec 1) (g : BitVec 4)
  /-- HFMA2 (R194). Computes fused a·b + c on two packed 16-bit elements. -/
  | hfma2 (d a b e : BitVec 5) (n : BitVec 2)
  /-- DMAKE (R196). Builds an MV value from a mean and a variance. -/
  | dmake (d a b : BitVec 5) (g : BitVec 4)
  /-- DMEAN (R197). Writes the mean as a certain value. -/
  | dmean (d a : BitVec 5) (g : BitVec 4)
  /-- DVAR (R197). Writes the variance as a certain value. -/
  | dvar (d a : BitVec 5) (g : BitVec 4)
  /-- DSTD (R197). Writes the standard deviation as a certain value. -/
  | dstd (d a : BitVec 5) (g : BitVec 4)
  /-- DTAG (R198). Converts the spread to a sensitivity with a given tag, or back to a variance. -/
  | dtag (d a b : BitVec 5) (g : BitVec 4)
  /-- DCLR (R198). Drops the tag and keeps the variance. -/
  | dclr (d a : BitVec 5) (g : BitVec 4)
  /-- DADDV (R199). Adds a known variance to a value. -/
  | daddv (d a b : BitVec 5) (g : BitVec 4)
  /-- DS4 (R200). Writes four deterministic sigma-point samples in S4 form. -/
  | ds4 (d a : BitVec 5) (r : BitVec 1) (g : BitVec 4)
  /-- DCOL (R201). Collapses four samples into a mean and variance. -/
  | dcol (d a : BitVec 5) (g : BitVec 4)
  /-- DSAMP (R202). Draws four Gaussian samples from the block's stream. -/
  | dsamp (d a : BitVec 5) (m r : BitVec 1) (g : BitVec 4)
  /-- DSENS (R197). Writes the sensitivity to a named tag as a certain value. -/
  | dsens (d a b : BitVec 5) (g : BitVec 4)
  /-- EX2 (R204). Computes 2^x, correctly rounded, with spread propagation. -/
  | ex2 (d a : BitVec 5) (m : BitVec 2) (g : BitVec 4)
  /-- LG2 (R204). Computes log2 x. -/
  | lg2 (d a : BitVec 5) (m : BitVec 2) (g : BitVec 4)
  /-- RCP (R204). Computes 1/x. -/
  | rcp (d a : BitVec 5) (m : BitVec 2) (g : BitVec 4)
  /-- RSQ (R204). Computes 1/sqrt x. -/
  | rsq (d a : BitVec 5) (m : BitVec 2) (g : BitVec 4)
  /-- SQRT (R204). Computes sqrt x. -/
  | sqrt (d a : BitVec 5) (m : BitVec 2) (g : BitVec 4)
  /-- SIN (R204). Computes sin x. -/
  | sin (d a : BitVec 5) (m : BitVec 2) (g : BitVec 4)
  /-- COS (R204). Computes cos x. -/
  | cos (d a : BitVec 5) (m : BitVec 2) (g : BitVec 4)
  /-- TANH (R204). Computes tanh x. -/
  | tanh (d a : BitVec 5) (m : BitVec 2) (g : BitVec 4)
  /-- SIGM (R204). Computes the logistic sigmoid. -/
  | sigm (d a : BitVec 5) (m : BitVec 2) (g : BitVec 4)
  /-- FCVT (R207). Narrows or widens between FP32 and a 16- or 8-bit float, adding variance for rounding. -/
  | fcvt (d a b : BitVec 5) (m : BitVec 3) (g : BitVec 4)
  /-- ICVT (R209). Converts an integer to FP32. -/
  | icvt (d a : BitVec 5) (z : BitVec 1) (w : BitVec 2) (m : BitVec 3) (g : BitVec 4)
  /-- FTOI (R210). Converts an FP32 mean to an integer, clamping out-of-range values. -/
  | ftoi (d a : BitVec 5) (z : BitVec 1) (k w : BitVec 2) (r : BitVec 1) (g : BitVec 4)
  /-- QCVT (R211). Quantises to int8 or int4 codes, packed or round-trip. -/
  | qcvt (d a b : BitVec 5) (m : BitVec 3) (g : BitVec 4)
  /-- QRSC (R212). Requantises an integer accumulator with a per-channel entry. -/
  | qrsc (d a b : BitVec 5) (r : BitVec 1) (g : BitVec 4)
  /-- QZPC (R213). Applies the zero-point correction to an accumulator. -/
  | qzpc (d a b : BitVec 5) (g : BitVec 4)
  /-- BENC (R215). Encodes the 32 lanes as one NX4 or MXFP4 block. -/
  | benc (d a b : BitVec 5) (f r : BitVec 1) (g : BitVec 4)
  /-- BDEC (R218). Decodes an NX4 or MXFP4 block into certain lane values. -/
  | bdec (d a b : BitVec 5) (f : BitVec 1) (g : BitVec 4)
  /-- RGEN (R221). Writes 32 random bits per lane from the Furrow function. -/
  | rgen (d : BitVec 5) (g : BitVec 4)
  /-- RUNI (R221). Writes a uniform FP32 draw per lane. -/
  | runi (d : BitVec 5) (g : BitVec 4)
  /-- RGAUS (R221). Writes a Gaussian FP32 draw per lane. -/
  | rgaus (d : BitVec 5) (g : BitVec 4)
  /-- RCAT (R222). Draws a categorical index per row of lanes from their weights. -/
  | rcat (d a : BitVec 5) (b : BitVec 3) (g : BitVec 4)
  /-- RSKIP (R223). Advances RCTR by an operand. -/
  | rskip (a : BitVec 5) (g : BitVec 4)
  /-- LDB (R105). Loads a zero-extended byte per lane. -/
  | ldb (t a : BitVec 5) (o : BitVec 6) (h : BitVec 2) (g : BitVec 4)
  /-- LDH (R105). Loads a zero-extended halfword per lane. -/
  | ldh (t a : BitVec 5) (o : BitVec 6) (h : BitVec 2) (g : BitVec 4)
  /-- LDW (R105). Loads a zero-extended word per lane. -/
  | ldw (t a : BitVec 5) (o : BitVec 6) (h : BitVec 2) (g : BitVec 4)
  /-- LDD (R105). Loads a 64-bit value per lane. -/
  | ldd (t a : BitVec 5) (o : BitVec 6) (h : BitVec 2) (g : BitVec 4)
  /-- LDQ (R105). Loads 16 bytes per lane into a register pair. -/
  | ldq (t a : BitVec 5) (o : BitVec 6) (h : BitVec 2) (g : BitVec 4)
  /-- LDX (R106). Loads a word at a uniform base plus scaled lane index. -/
  | ldx (t a b : BitVec 5) (h : BitVec 2) (x : BitVec 1) (g : BitVec 4)
  /-- LDG (R107). Loads all lanes whole or not at all, in the read-only class. -/
  | ldg (d a : BitVec 5) (m : BitVec 2) (g : BitVec 4)
  /-- PFET (R108). Prefetches lines into the caches named by the hint, without faults. -/
  | pfet (a : BitVec 5) (o : BitVec 6) (h : BitVec 2) (g : BitVec 4)
  /-- STB (R245). Stores a byte per lane through the late store buffer. -/
  | stb (t a : BitVec 5) (o : BitVec 6) (h : BitVec 2) (g : BitVec 4)
  /-- STH (R245). Stores a halfword per lane. -/
  | sth (t a : BitVec 5) (o : BitVec 6) (h : BitVec 2) (g : BitVec 4)
  /-- STW (R245). Stores a word per lane. -/
  | stw (t a : BitVec 5) (o : BitVec 6) (h : BitVec 2) (g : BitVec 4)
  /-- STD (R245). Stores 8 bytes per lane. -/
  | std (t a : BitVec 5) (o : BitVec 6) (h : BitVec 2) (g : BitVec 4)
  /-- STQ (R245). Stores 16 bytes per lane from a register pair. -/
  | stq (t a : BitVec 5) (o : BitVec 6) (h : BitVec 2) (g : BitVec 4)
  /-- STX (R245). Stores a word at a uniform base plus scaled lane index. -/
  | stx (t a b : BitVec 5) (h : BitVec 2) (x : BitVec 1) (g : BitVec 4)
  /-- LDA (R279). Reads at the point of coherence and performs an acquire of the named scope. -/
  | lda (d a : BitVec 5) (w : BitVec 1) (m : BitVec 3) (g : BitVec 4)
  /-- STR (R280). Performs a release of the named scope and writes each lane's value. -/
  | str (w : BitVec 1) (a b : BitVec 5) (m : BitVec 3) (g : BitVec 4)
  /-- FENCE (R281). Performs a release, an acquire or both at the named scope. -/
  | fence (d : BitVec 5) (m : BitVec 3) (g : BitVec 4)
  /-- ATOM (R260). Performs a 64-bit read-modify-write per lane and returns the old value. -/
  | atom (d a b : BitVec 5) (m : BitVec 3) (g : BitVec 4)
  /-- ACAS (R261). Compares and swaps, or exchanges, a 32- or 64-bit word per lane. -/
  | acas (d a b e : BitVec 5) (n : BitVec 2)
  /-- AFADD (R262). Atomically adds a distribution into a memory MV word. -/
  | afadd (d a b : BitVec 5) (m : BitVec 1) (g : BitVec 4)
  /-- RED (R260). Performs a 64-bit atomic reduction per lane without returning a value. -/
  | red (a b : BitVec 5) (m : BitVec 3) (g : BitVec 4)
  /-- COMMIT (R256). Waits for earlier store entries, commits the block's held set and parks until done. -/
  | commit (g : BitVec 4)
  /-- WAITM (R263). Parks until each lane's word at the point of coherence satisfies a comparison, then acquires. -/
  | waitm (d a b : BitVec 5) (m : BitVec 3) (g : BitVec 4)
  /-- LDS (R122). Loads from the Bed per lane. -/
  | lds (t a : BitVec 5) (o : BitVec 6) (h : BitVec 2) (g : BitVec 4)
  /-- STS (R122). Stores to the Bed per lane. -/
  | sts (t a : BitVec 5) (o : BitVec 6) (h : BitVec 2) (g : BitVec 4)
  /-- LDSX (R122). Loads from the Bed at a uniform base plus scaled index. -/
  | ldsx (t a b : BitVec 5) (h : BitVec 2) (x : BitVec 1) (g : BitVec 4)
  /-- STSX (R122). Stores to the Bed at a uniform base plus scaled index. -/
  | stsx (t a b : BitVec 5) (h : BitVec 2) (x : BitVec 1) (g : BitVec 4)
  /-- PLOT (R123). Makes a plot of Bed lines with a lifetime and returns its handle. -/
  | plot (d a b : BitVec 5) (r : BitVec 1) (g : BitVec 4)
  /-- UNPLOT (R124). Frees a plot once copies into or out of it have finished. -/
  | unplot (a : BitVec 5) (g : BitVec 4)
  /-- RENEW (R125). Resets the age of every present unexpired line of a plot. -/
  | renew (a : BitVec 5) (g : BitVec 4)
  /-- PRES (R126). Sets a predicate to whether a Bed address is present and unexpired. -/
  | pres (p : BitVec 7) (a : BitVec 5)
  /-- QW (R132). Pushes words into a command queue, numbering, releasing and committing a completed command. -/
  | qw (q : BitVec 4) (r : BitVec 5) (u : BitVec 1) (g : BitVec 4)
  /-- QR (R133). Pops words from a result queue. -/
  | qr (q : BitVec 4) (r : BitVec 5) (u : BitVec 1) (g : BitVec 4)
  /-- TLRD (R136). Reads ISSUED of a timeline. -/
  | tlrd (d : BitVec 5) (b g : BitVec 4)
  /-- TLW (R137). Parks until a timeline's DONE reaches n, then acquires at .dev. -/
  | tlw (a : BitVec 5) (b : BitVec 4) (u : BitVec 1) (g : BitVec 4)
  /-- MLDN (R235). Loads a stationary mean or spread plane from the north edge. -/
  | mldn (a b : BitVec 5) (m : BitVec 1) (g : BitVec 4)
  /-- MLDW (R235). Loads a stationary mean or spread plane from the west edge. -/
  | mldw (a b : BitVec 5) (m : BitVec 1) (g : BitVec 4)
  /-- MMA (R237). Accumulates a stream tile times the stationary plane into a quarter. -/
  | mma (a b : BitVec 5) (q : BitVec 2) (t : BitVec 1) (g : BitVec 4)
  /-- DMMA (R237). Accumulates mean and first-order spread products into a quarter. -/
  | dmma (a b : BitVec 5) (q : BitVec 2) (g : BitVec 4)
  /-- MMA2 (R237). Accumulates a transposed and a second product into a pair of quarters in one pass. -/
  | mma2 (a b : BitVec 5) (q : BitVec 2) (g : BitVec 4)
  /-- MZRO (R236). Zeros one or all accumulator quarters and makes them empty. -/
  | mzro (q : BitVec 2) (l : BitVec 1) (g : BitVec 4)
  /-- MDRN (R238). Drains a quarter into Bed tiles, rounding each cell once. -/
  | mdrn (a b : BitVec 5) (q : BitVec 2) (g : BitVec 4)
  /-- MSTAT (R239). Computes a row statistic of drained rows per lane. -/
  | mstat (d a b : BitVec 5) (m : BitVec 3) (g : BitVec 4)
  /-- MTEAM (R240). Forms or dissolves a matrix team once every member issues an equal descriptor. -/
  | mteam (a : BitVec 5) (g : BitVec 4)
  /-- MCHK (R242). Writes the engine's CHECKED and RETRIED counts after earlier matrix work. -/
  | mchk (d : BitVec 5) (g : BitVec 4)
  /-- BAR (R298). Arrives at a block barrier and parks until its generation completes. -/
  | bar (b g : BitVec 4)
  /-- BARA (R298). Arrives at a block barrier without parking. -/
  | bara (b g : BitVec 4)
  /-- BARC (R298). Parks until a barrier has a count of arrivals or a new generation. -/
  | barc (a : BitVec 5) (b g : BitVec 4)
  /-- GBAR (R300). Arrives at the grid barrier and parks until the phase completes. -/
  | gbar (g : BitVec 4)
  /-- CAPB (R306). Checks a capsule body and acquires, grafts or waits on its lock record. -/
  | capb (a : BitVec 5) (g : BitVec 4)
  /-- CAPE (R308). Writes the capsule result, sets DONE and releases or keeps the lock. -/
  | cape (g : BitVec 4)
  /-- CAPR (R311). Reads a result word of the group's last completed capsule. -/
  | capr (d : BitVec 5) (b : BitVec 3) (g : BitVec 4)
  /-- MASKW (R301). Waits until a mask-ready word reaches a target or a timeout passes. -/
  | maskw (d a b : BitVec 5) (g : BitVec 4)
  /-- LAUNCH (R335). Releases and submits a child launch or cancellation descriptor, returning a ticket. -/
  | launch (d a : BitVec 5) (g : BitVec 4)
  /-- COMPL (R336). Releases and sets a block's bit in a completion bitmap. -/
  | compl (a b : BitVec 5) (g : BitVec 4)
  /-- WAITC (R337). Waits for a completion bit, trapping if the producer retired without it. -/
  | waitc (a b : BitVec 5) (g : BitVec 4)
  /-- TLBI (R366). Invalidates memory-side TLB entries of a space for a page or the whole space. -/
  | tlbi (a : BitVec 5) (g : BitVec 4)
  /-- PSUMI (R366). Invalidates cached permission-summary entries of a space. -/
  | psumi (a : BitVec 5) (g : BitVec 4)
  /-- CTXSV (R365). Writes the program's context image to memory at handler level. -/
  | ctxsv (a : BitVec 5) (g : BitVec 4)
  /-- CTXLD (R365). Reads a context image into the trap area and live state at handler level. -/
  | ctxld (a : BitVec 5) (g : BitVec 4)
  /-- COPY_LINEAR (R141). The copy engine takes a linear copy command and moves rows of aligned words. -/
  | copyLinear (cmd : Nat)
  /-- COPY_RAGGED (R143). The copy engine packs the leading elements of each row into Bed lanes and writes row-start masks. -/
  | copyRagged (cmd : Nat)
  /-- KV_PUT (R144). The KV engine writes local bytes to a peer by RMA write. -/
  | kvPut (cmd : Nat)
  /-- KV_GET (R144). The KV engine reads bytes from a peer by RMA read into local memory. -/
  | kvGet (cmd : Nat)
  /-- KV_FLAG_INCREMENT (R144). After every byte of a PUT is acknowledged, the engine adds 1 to the remote flag. -/
  | kvFlagIncrement (cmd : Nat)
  /-- MASK_REQUEST (R145). A mask-core request is accepted into the die's Pruner job queue. -/
  | maskRequest (cmd : Nat)
  /-- PRUNER_JOB_START (R303). A Pruner core with room takes the oldest waiting job and starts it as a one-lane group. -/
  | prunerJobStart (die core : Nat)
  /-- GEMV (R73). The bank engine computes y := B·a with exact block sums and stores y. -/
  | gemv (cmd : Nat)
  /-- SOPEN (R75). The stack engine takes a Sieve open command for a row and slot. -/
  | sopen (cmd : Nat)
  /-- SOPEN_CONTEXT_BIND (R75). Once a Sieve context is free, a waiting SOPEN clears it and binds it to the slot. -/
  | sopenContextBind (cmd : Nat)
  /-- SCLOSE (R77). The engine completes a Sieve context's result, delivers it to q5 and frees the context. -/
  | sclose (cmd : Nat)
  /-- SIEVE_FEED (R76). A write reaching a base die feeds each covered element to the matching open Sieve context. -/
  | sieveFeed (die space va len : Nat)
  /-- COMMAND_COMPLETION (R135). A command completes, delivers its completion word if asked and advances DONE of its timeline. -/
  | commandCompletion (cmd : Nat)
  /-- COPY_CHUNK_FAULT (R142). A home fault or poison on a copy chunk fails that chunk and marks its Bed lines expired. -/
  | copyChunkFault (cmd chunk stat : Nat)
  /-- BED_LINE_LANDS (R117). The last word of a copy or refetch lands in a Bed line, making it present with age 0. -/
  | bedLineLands (blk line cmd : Nat)
  /-- FADE_CLOCK_TICK (R114). A fade-clock tick adds 1 to the age of every Bed line, saturating at 63. -/
  | fadeClockTick (core : Nat)
  /-- LINE_EXPIRY (R114). A Bed line's age reaches its plot's lifetime and the line becomes expired. -/
  | lineExpiry (blk line : Nat)
  /-- LINE_REQUEST (R94). A line request arrives at an L2 or home agent and is served, translated or forwarded. -/
  | lineRequest (blk grp ld line : Nat)
  /-- LOAD_DATA_RETURN (R95). A line's data returns to the core and writes the lanes of the load it serves. -/
  | loadDataReturn (blk grp ld line : Nat)
  /-- DEFERRED_FAULT_DELIVERY (R100). A ready late fault stops the group at its next boundary and enters the handler. -/
  | deferredFaultDelivery (blk grp : Nat)
  /-- TRANSLATE_PROBE (R248). A store's translate probe arrives at the owning home agent and is translated. -/
  | translateProbe (blk entry line : Nat)
  /-- PROBE_REPLY (R248). The probe reply sets the line's marks and writes or faults the waiting store lanes. -/
  | probeReply (blk entry line : Nat)
  /-- COMMIT_MERGE (R254). Held bytes arrive at the owning die's L2 and are merged under the byte mask. -/
  | commitMerge (blk commit line : Nat)
  /-- ATOMIC_PERFORM (R259). An atomic lane is performed once at the owning L2 after its probe grants R and W. -/
  | atomicPerform (blk entry lane : Nat)
  /-- WAIT_REREAD (R263). A merge or atomic into a watched line makes a parked wait read its word again. -/
  | waitReread (blk grp : Nat)
  /-- MSC_WRITEBACK (R68). The memory-side cache writes back a line after setting its dirty bit. -/
  | mscWriteback (die line : Nat)
  /-- GROUP_UNPARK (R326). A park's reason clears and the group returns to issue. -/
  | groupUnpark (blk grp : Nat)
  /-- CANCELLATION_TRAP (R334). Each group of a resident block takes a cancellation trap at its next boundary when CTRAP is set. -/
  | cancellationTrap (blk grp : Nat)
  /-- PRIORITY_AGING_GRANT (R322). A priority passed over for 2^20 chip-node cycles receives the next grant. -/
  | priorityAgingGrant (prio : Nat)
  /-- FRAME_SLICE_ALLOCATION (R375). An accepted grid takes its frame slice from the arena once one fits. -/
  | frameSliceAllocation (grid : Nat)
  /-- CORE_ASSIGNMENT (R323). A freed physical core goes to the highest-priority, oldest grid with waiting blocks. -/
  | coreAssignment (core : Nat)
  /-- RANGE_STEAL (R324). A cluster or die node with no blocks left takes the upper half of the largest remaining range. -/
  | rangeSteal (grid die cluster : Nat)
  /-- BLOCK_START (R319). A waiting block becomes resident on a free logical core with its start state. -/
  | blockStart (grid lcore : Nat)
  /-- TIME_SLICE_EXPIRY (R320). A block resident for 2^20 cycles while another logical core waits is saved. -/
  | timeSliceExpiry (blk : Nat)
  /-- CONTEXT_SAVE (R364). A block is stopped and its Bed, engine, registers and queues are written to its frames. -/
  | contextSave (blk : Nat)
  /-- CONTEXT_RESTORE (R364). A saved block is read back from its frames onto a core and resumes. -/
  | contextRestore (blk core : Nat)
  /-- GRID_RETIREMENT (R318). A drained grid whose children have retired writes its status header, bitmap flag and q8 word. -/
  | gridRetirement (grid : Nat)
  /-- GRAPH_KERNEL_NODE (R330). A graph kernel node launches its descriptor and waits for the grid's retirement. -/
  | graphKernelNode (grid : Nat)
  /-- GRAPH_LOOP_NODE (R331). A loop node reads COND at an iteration boundary and runs its body or ends. -/
  | graphLoopNode (grid : Nat)
  /-- GRAPH_ADMIT_NODE (R333). An admit node updates slot states, admits requests and sets SLOTMASK. -/
  | graphAdmitNode (grid : Nat)
  /-- GRAPH_END_NODE (R330). An end node ends a graph or a loop body. -/
  | graphEndNode (grid : Nat)
  /-- MATRIX_EXECUTE (R234). The matrix engine starts its staged instruction when the previous one completes. -/
  | matrixExecute (core : Nat)
  /-- CAPSULE_STEP (R307). A capsule store or atomic is performed at the lock's home with the step count and checkpoint. -/
  | capsuleStep (blk grp : Nat)
  /-- MASKW_TIMEOUT (R301). A MASKW's timeout passes and it completes with a false predicate. -/
  | maskwTimeout (blk grp : Nat)
  /-- HEND_WRITE (R359). A handler write to HEND ends the block failed or cancelled at once. -/
  | hendWrite (blk grp : Nat) (value : BitVec 64)
  /-- HARDWARE_ERROR (R369). A hardware error stops the block, which is rolled back and relaunched or reported failed. -/
  | hardwareError (blk cause : Nat)
  /-- DOORBELL_WRITE (R373). The host writes a queue's doorbell with the new produced count. -/
  | doorbellWrite (queue : Nat) (value : BitVec 64)
  /-- QUEUE_ENABLE (R372). A write of EN := 1 enables a queue and clears ERR. -/
  | queueEnable (queue : Nat)
  /-- QUEUE_DISABLE (R372). Clearing EN stops further acceptance from a queue. -/
  | queueDisable (queue : Nat)
  /-- CONFIG_REGISTER_WRITE (R371). The host writes a configuration register that has no behaviour of its own. -/
  | configRegisterWrite (off : Nat) (value : BitVec 64)
  /-- MAILBOX_LOAD_FIRMWARE (R382). In recovery the controller loads a new firmware image. -/
  | mailboxLoadFirmware (image : Nat)
  /-- HOST_BAR2_READ (R370). A host read of device HBM through BAR2 is served at the point of coherence. -/
  | hostBar2Read (off len : Nat)
  /-- HOST_BAR2_WRITE (R370). A host write to device HBM through BAR2 merges at the point of coherence. -/
  | hostBar2Write (off : Nat) (data : List (BitVec 8))
  /-- HOST_TAKE_LINE (R278). The host takes a device line for writing and the home invalidates its L2 copy. -/
  | hostTakeLine (die line : Nat)
  /-- HOST_LINE_WRITEBACK (R278). Host data for a taken line is merged at the owning L2 when written back or snooped. -/
  | hostLineWriteback (die line : Nat) (data : List (BitVec 8))
  /-- HOST_COHERENT_READ (R278). A host coherent read is served from the committed line. -/
  | hostCoherentRead (die line : Nat)
  /-- INBOUND_RMA_WRITE (R379). An inbound RMA write is matched in the peer table, translated and merged. -/
  | inboundRmaWrite (die job ridx va : Nat) (data : List (BitVec 8))
  /-- INBOUND_RMA_READ (R379). An inbound RMA read is matched, translated and answered. -/
  | inboundRmaRead (die job ridx va len : Nat)
  /-- INBOUND_RMA_ATOMIC (R379). An inbound 64-bit atomic add is matched, translated and performed. -/
  | inboundRmaAtomic (die job ridx va : Nat) (addend : BitVec 64)
  /-- INBOUND_UNSUPPORTED_PACKET (R377). An incoming packet of an unsupported kind is answered with a not-supported NAK. -/
  | inboundUnsupportedPacket (die kind : Nat)
  /-- SECOND_TIER_LINK_DOWN (R376). A second-tier port's link goes down, poisoning its reads and dropping its writes. -/
  | secondTierLinkDown (die port : Nat)
  /-- BRIDGE_LANE_FAILURE (R380). A bridge lane fails its retries, poisoning its flits and logging kind 5. -/
  | bridgeLaneFailure (die lane : Nat)
  /-- SRAM_RAIL_LOW (R88). The SRAM rail falls below 0.62 V and the L2 switches to DEC-TED. -/
  | sramRailLow (die : Nat)
  /-- L2_SECDED_RESTORE (R88). After 1 ms above 0.65 V the L2 returns to SEC-DED. -/
  | l2SecdedRestore (die : Nat)
  /-- VARIABLE_LATENCY_RESULT_WRITE (R17). A variable-latency result of FDIV, an X-pipe instruction, a Bed load, QR, TLRD, PRES, MSTAT or a similar instruction is written, its pending bit clears and its flags are set. -/
  | variableLatencyResultWrite (blk grp uid : Nat)
  /-- BACK_INVALIDATE_RESPONSE (R278). The host's response to a back-invalidation arrives and the waiting merge into the host-cached line completes. -/
  | backInvalidateResponse (die line : Nat)
  /-- CLUSTER_L1_MODE_WRITE (R85). The driver sets a cluster's L1 to separate or fused, which invalidates every L1 line of the cluster. -/
  | clusterL1ModeWrite (cluster : Nat) (fused : Bool)
  /-- SECOND_TIER_DECODER_WRITE (R376). The driver writes a second-tier port's BASE and SIZE decoder; an overlap disables the later port and logs kind 3. -/
  | secondTierDecoderWrite (die port base size : Nat)
  /-- SECOND_TIER_LINK_UP (R376). A second-tier port's link comes back up and the port stops poisoning reads and dropping writes. -/
  | secondTierLinkUp (die port : Nat)
  /-- DESCRIPTOR_ACCEPT (R322). The chip node accepts one launch descriptor from the highest-priority queue and allocates a grid. -/
  | descriptorAccept
  /-- MAILBOX_ATTEST (R382). The controller returns a signed attestation report over a nonce. -/
  | mailboxAttest
  /-- MAILBOX_TELEMETRY_READ (R384). The controller returns the telemetry record. -/
  | mailboxTelemetryRead
  /-- MAILBOX_READ_CERTIFICATE (R382). The controller returns the identity certificate. -/
  | mailboxReadCertificate
  /-- DEVICE_RESET (R381). At reset the controller runs its ROM and verifies each firmware stage. -/
  | deviceReset
  /-- THERMAL_THROTTLE (R383). A junction reaching 105 °C lowers the main clock. -/
  | thermalThrottle
  /-- POWER_CAP_THROTTLE (R383). Package power above the cap lowers the main clock in 100 MHz steps. -/
  | powerCapThrottle
  /-- THERMAL_RESET (R383). A junction reaching 115 °C resets the device. -/
  | thermalReset
  /-- MAIN_CLOCK_RAISE (R383). The management controller raises the main clock again once power and temperature fall back within limits. -/
  | mainClockRaise
  /-- MAILBOX_CLEAR_SUSPECT (R382). The controller clears the suspect mark of a core. -/
  | mailboxClearSuspect
  /-- MAILBOX_SET_POWER_CAP (R382). The controller sets the package power cap. -/
  | mailboxSetPowerCap
  deriving DecidableEq, Repr, Inhabited

end Sys2Proof
end

