-- ==== Sys2Proof/Decode.lean ====
section
/-!
DEFINITION. The decoder of Ifeust words and, after it, the encoder, both written from the body formats of
R11 and the opcode tables of R23 to R28.

Decoding reads the fields of a row and refuses every word in which a bit that the row does not use is set
(R12). What a field may hold (R29 order 2: a sub-field value, a guard, an odd pair register, a queue or
special-register number) is checked by `Instr.wf`, and where the word stands in its packet by
`Machine/Packet.lean`. The chain and switch bits are handed back beside the instruction (R9).
-/

namespace Sys2Proof

/-- Why a word is no instruction (all of them are the illegal instruction of R29 order 2). -/
inductive DecodeError where
  /-- fewer bytes were given than the word has -/
  | tooShort
  /-- the all-zero word (R12) -/
  | allZero
  /-- an opcode absent from R23 to R28 (R28) -/
  | reservedOpcode
  /-- a bit that the instruction does not use is set (R12) -/
  | unusedField
  deriving DecidableEq, Repr

/-- A decoded word: its chain and switch bits (R9), the instruction, and the words it takes, 2 for a
W-format pair and 1 otherwise (R11). -/
structure Decoded where
  chain : Bool
  switch : Bool
  instr : Instr
  words : Nat
  deriving DecidableEq, Repr

/-- Bits [lo+n-1:lo] of a word. -/
def fld (n w lo : Nat) : BitVec n := BitVec.ofNat n (w / 2 ^ lo)

/-- Bits [lo+n-1:lo] of a word are all zero. -/
def zer (w lo n : Nat) : Bool := w / 2 ^ lo % 2 ^ n == 0

/-- An instruction, and whether its unused fields are zero (R12). -/
def used (ok : Bool) (i : Instr) : Except DecodeError (Bool × Instr) := .ok (ok, i)

/-- Opcodes 0x00 to 0x0F. `w` is the word, `raw` the word after it. -/
def decodeOp0 (lo w _raw : Nat) : Except DecodeError (Bool × Instr) :=
  match lo with
  | 0x1 => used true (.bra (fld 2 w 20) (fld 4 w 16) (fld 16 w 0))
  | 0x2 => used (zer w 4 8 && zer w 17 5) (.brx (fld 5 w 12) (fld 4 w 0))
  | 0x3 => used true (.call (fld 2 w 20) (fld 4 w 16) (fld 16 w 0))
  | 0x4 => used (zer w 4 8 && zer w 17 5) (.callx (fld 5 w 12) (fld 4 w 0))
  | 0x5 => used (zer w 4 18) (.ret (fld 4 w 0))
  | 0x6 => used (zer w 4 18) (.exit (fld 4 w 0))
  | 0x7 => used (zer w 4 18) (.yield (fld 4 w 0))
  | 0x8 => used (zer w 4 18) (.nop (fld 4 w 0))
  | 0x9 => used (zer w 12 10) (.trap (fld 12 w 0))
  | 0xA => used (zer w 4 18) (.bkpt (fld 4 w 0))
  | 0xB => used (zer w 4 18) (.tfence (fld 4 w 0))
  | 0xC => used (zer w 5 17) (.eret (fld 1 w 4) (fld 4 w 0))
  | 0xD => used (zer w 0 15) (.canck (fld 7 w 15))
  | _ => .error .reservedOpcode

/-- Opcodes 0x10 to 0x1F. `w` is the word, `raw` the word after it. -/
def decodeOp1 (lo w _raw : Nat) : Except DecodeError (Bool × Instr) :=
  match lo with
  | 0x0 => used true (.isetp (fld 7 w 15) (fld 5 w 10) (fld 5 w 5) (fld 4 w 1) (fld 1 w 0))
  | 0x1 => used true (.fsetp (fld 7 w 15) (fld 5 w 10) (fld 5 w 5) (fld 4 w 1) (fld 1 w 0))
  | 0x2 => used (zer w 0 1) (.pand (fld 7 w 15) (fld 5 w 10) (fld 5 w 5) (fld 4 w 1))
  | 0x3 => used (zer w 0 1) (.por (fld 7 w 15) (fld 5 w 10) (fld 5 w 5) (fld 4 w 1))
  | 0x4 => used (zer w 0 1) (.pxor (fld 7 w 15) (fld 5 w 10) (fld 5 w 5) (fld 4 w 1))
  | 0x5 => used (zer w 0 1) (.pandn (fld 7 w 15) (fld 5 w 10) (fld 5 w 5) (fld 4 w 1))
  | 0x6 => used (zer w 4 1 && zer w 7 5) (.ptov (fld 5 w 17) (fld 5 w 12) (fld 2 w 5) (fld 4 w 0))
  | 0x7 => used (zer w 1 9) (.vtop (fld 7 w 15) (fld 5 w 10) (fld 1 w 0))
  | 0x8 => used (zer w 4 1) (.vote (fld 5 w 17) (fld 5 w 12) (fld 5 w 7) (fld 2 w 5) (fld 4 w 0))
  | 0x9 => used (zer w 4 1 && zer w 7 5 && zer w 17 5) (.pld (fld 5 w 12) (fld 2 w 5) (fld 4 w 0))
  | 0xA => used (zer w 4 1 && zer w 7 10) (.pst (fld 5 w 17) (fld 2 w 5) (fld 4 w 0))
  | _ => .error .reservedOpcode

/-- Opcodes 0x20 to 0x2F. `w` is the word, `raw` the word after it. -/
def decodeOp2 (lo w _raw : Nat) : Except DecodeError (Bool × Instr) :=
  match lo with
  | 0x0 => used true (.iadd (fld 5 w 17) (fld 5 w 12) (fld 5 w 7) (fld 3 w 4) (fld 4 w 0))
  | 0x1 => used true (.isub (fld 5 w 17) (fld 5 w 12) (fld 5 w 7) (fld 3 w 4) (fld 4 w 0))
  | 0x2 => used true (.imul (fld 5 w 17) (fld 5 w 12) (fld 5 w 7) (fld 3 w 4) (fld 4 w 0))
  | 0x3 => used true (.imulh (fld 5 w 17) (fld 5 w 12) (fld 5 w 7) (fld 3 w 4) (fld 4 w 0))
  | 0x4 => used true (.imad (fld 5 w 17) (fld 5 w 12) (fld 5 w 7) (fld 5 w 2) (fld 2 w 0))
  | 0x5 => used true (.imin (fld 5 w 17) (fld 5 w 12) (fld 5 w 7) (fld 3 w 4) (fld 4 w 0))
  | 0x6 => used true (.imax (fld 5 w 17) (fld 5 w 12) (fld 5 w 7) (fld 3 w 4) (fld 4 w 0))
  | 0x7 => used (zer w 7 5) (.iabs (fld 5 w 17) (fld 5 w 12) (fld 3 w 4) (fld 4 w 0))
  | 0x8 => used (zer w 4 1) (.and (fld 5 w 17) (fld 5 w 12) (fld 5 w 7) (fld 2 w 5) (fld 4 w 0))
  | 0x9 => used (zer w 4 1) (.or (fld 5 w 17) (fld 5 w 12) (fld 5 w 7) (fld 2 w 5) (fld 4 w 0))
  | 0xA => used (zer w 4 1) (.xor (fld 5 w 17) (fld 5 w 12) (fld 5 w 7) (fld 2 w 5) (fld 4 w 0))
  | 0xB => used (zer w 4 1) (.andn (fld 5 w 17) (fld 5 w 12) (fld 5 w 7) (fld 2 w 5) (fld 4 w 0))
  | 0xC => used (zer w 4 1) (.shl (fld 5 w 17) (fld 5 w 12) (fld 5 w 7) (fld 2 w 5) (fld 4 w 0))
  | 0xD => used (zer w 4 1) (.shr (fld 5 w 17) (fld 5 w 12) (fld 5 w 7) (fld 2 w 5) (fld 4 w 0))
  | 0xE => used (zer w 4 1) (.sar (fld 5 w 17) (fld 5 w 12) (fld 5 w 7) (fld 2 w 5) (fld 4 w 0))
  | 0xF => used (zer w 4 1) (.rotl (fld 5 w 17) (fld 5 w 12) (fld 5 w 7) (fld 2 w 5) (fld 4 w 0))
  | _ => .error .reservedOpcode

/-- Opcodes 0x30 to 0x3F. `w` is the word, `raw` the word after it. -/
def decodeOp3 (lo w _raw : Nat) : Except DecodeError (Bool × Instr) :=
  match lo with
  | 0x0 => used (zer w 4 1 && zer w 7 5) (.popc (fld 5 w 17) (fld 5 w 12) (fld 2 w 5) (fld 4 w 0))
  | 0x1 => used (zer w 4 1 && zer w 7 5) (.clz (fld 5 w 17) (fld 5 w 12) (fld 2 w 5) (fld 4 w 0))
  | 0x2 => used (zer w 4 1 && zer w 7 5) (.brev (fld 5 w 17) (fld 5 w 12) (fld 2 w 5) (fld 4 w 0))
  | 0x3 => used (zer w 1 1) (.bfx (fld 5 w 17) (fld 5 w 12) (fld 5 w 7) (fld 5 w 2) (fld 1 w 0))
  | 0x4 => used (zer w 0 2) (.bfi (fld 5 w 17) (fld 5 w 12) (fld 5 w 7) (fld 5 w 2))
  | 0x5 => used (zer w 4 1) (.bsel (fld 5 w 17) (fld 5 w 12) (fld 5 w 7) (fld 2 w 5) (fld 4 w 0))
  | 0x6 => used (zer w 4 1 && zer w 6 1) (.sel (fld 5 w 17) (fld 5 w 12) (fld 5 w 7) (fld 1 w 5) (fld 4 w 0))
  | 0x7 => used true (.lea (fld 5 w 17) (fld 5 w 12) (fld 5 w 7) (fld 1 w 6) (fld 2 w 4) (fld 4 w 0))
  | 0x8 => used true (.iaddi (fld 5 w 17) (fld 5 w 12) (fld 12 w 0))
  | 0x9 => used true (.andi (fld 5 w 17) (fld 5 w 12) (fld 12 w 0))
  | 0xA => used true (.ori (fld 5 w 17) (fld 5 w 12) (fld 12 w 0))
  | 0xB => used true (.xori (fld 5 w 17) (fld 5 w 12) (fld 12 w 0))
  | 0xC => used (zer w 6 6) (.shli (fld 5 w 17) (fld 5 w 12) (fld 6 w 0))
  | 0xD => used (zer w 6 6) (.shri (fld 5 w 17) (fld 5 w 12) (fld 6 w 0))
  | 0xE => used (zer w 6 6) (.sari (fld 5 w 17) (fld 5 w 12) (fld 6 w 0))
  | 0xF => used true (.isat (fld 5 w 17) (fld 5 w 12) (fld 5 w 7) (fld 3 w 4) (fld 4 w 0))
  | _ => .error .reservedOpcode

/-- Opcodes 0x40 to 0x4F. `w` is the word, `raw` the word after it. -/
def decodeOp4 (lo w raw : Nat) : Except DecodeError (Bool × Instr) :=
  match lo with
  | 0x0 => used (zer w 4 1 && zer w 7 5) (.mov (fld 5 w 17) (fld 5 w 12) (fld 2 w 5) (fld 4 w 0))
  | 0x1 => used (zer w 0 17) (.li (fld 5 w 17) (fld 32 raw 0))
  | 0x2 => used (zer w 0 17) (.lih (fld 5 w 17) (fld 32 raw 0))
  | 0x3 => used (zer w 4 3) (.movs (fld 5 w 17) (fld 5 w 12) (fld 5 w 7) (fld 4 w 0))
  | 0x4 => used (zer w 4 1) (.shfl (fld 5 w 17) (fld 5 w 12) (fld 5 w 7) (fld 2 w 5) (fld 4 w 0))
  | 0x5 => used (zer w 7 5) (.redg (fld 5 w 17) (fld 5 w 12) (fld 3 w 4) (fld 4 w 0))
  | 0x6 => used (zer w 8 4) (.scan (fld 5 w 17) (fld 5 w 12) (fld 1 w 7) (fld 3 w 4) (fld 4 w 0))
  | 0x7 => used (zer w 4 3) (.bcast (fld 5 w 17) (fld 5 w 12) (fld 5 w 7) (fld 4 w 0))
  | 0x8 => used (zer w 0 5) (.mfs (fld 5 w 17) (fld 12 w 5))
  | 0x9 => used (zer w 0 5) (.mts (fld 5 w 17) (fld 12 w 5))
  | _ => .error .reservedOpcode

/-- Opcodes 0x50 to 0x5F. `w` is the word, `raw` the word after it. -/
def decodeOp5 (lo w _raw : Nat) : Except DecodeError (Bool × Instr) :=
  match lo with
  | 0x0 => used true (.fadd (fld 5 w 17) (fld 5 w 12) (fld 5 w 7) (fld 3 w 4) (fld 4 w 0))
  | 0x1 => used true (.fsub (fld 5 w 17) (fld 5 w 12) (fld 5 w 7) (fld 3 w 4) (fld 4 w 0))
  | 0x2 => used true (.fmul (fld 5 w 17) (fld 5 w 12) (fld 5 w 7) (fld 3 w 4) (fld 4 w 0))
  | 0x3 => used true (.ffma (fld 5 w 17) (fld 5 w 12) (fld 5 w 7) (fld 5 w 2) (fld 2 w 0))
  | 0x4 => used (zer w 4 1) (.fmin (fld 5 w 17) (fld 5 w 12) (fld 5 w 7) (fld 2 w 5) (fld 4 w 0))
  | 0x5 => used (zer w 4 1) (.fmax (fld 5 w 17) (fld 5 w 12) (fld 5 w 7) (fld 2 w 5) (fld 4 w 0))
  | 0x6 => used (zer w 4 1 && zer w 7 5) (.fabs (fld 5 w 17) (fld 5 w 12) (fld 2 w 5) (fld 4 w 0))
  | 0x7 => used (zer w 4 1 && zer w 7 5) (.fneg (fld 5 w 17) (fld 5 w 12) (fld 2 w 5) (fld 4 w 0))
  | 0x8 => used (zer w 4 1) (.fcps (fld 5 w 17) (fld 5 w 12) (fld 5 w 7) (fld 2 w 5) (fld 4 w 0))
  | 0x9 => used (zer w 4 1 && zer w 9 3) (.frnd (fld 5 w 17) (fld 5 w 12) (fld 2 w 7) (fld 2 w 5) (fld 4 w 0))
  | 0xA => used true (.fdiv (fld 5 w 17) (fld 5 w 12) (fld 5 w 7) (fld 3 w 4) (fld 4 w 0))
  | 0xB => used (zer w 5 1) (.hadd2 (fld 5 w 17) (fld 5 w 12) (fld 5 w 7) (fld 1 w 6) (fld 1 w 4) (fld 4 w 0))
  | 0xC => used (zer w 5 1) (.hmul2 (fld 5 w 17) (fld 5 w 12) (fld 5 w 7) (fld 1 w 6) (fld 1 w 4) (fld 4 w 0))
  | 0xD => used true (.hfma2 (fld 5 w 17) (fld 5 w 12) (fld 5 w 7) (fld 5 w 2) (fld 2 w 0))
  | _ => .error .reservedOpcode

/-- Opcodes 0x60 to 0x6F. `w` is the word, `raw` the word after it. -/
def decodeOp6 (lo w _raw : Nat) : Except DecodeError (Bool × Instr) :=
  match lo with
  | 0x0 => used (zer w 4 3) (.dmake (fld 5 w 17) (fld 5 w 12) (fld 5 w 7) (fld 4 w 0))
  | 0x1 => used (zer w 4 8) (.dmean (fld 5 w 17) (fld 5 w 12) (fld 4 w 0))
  | 0x2 => used (zer w 4 8) (.dvar (fld 5 w 17) (fld 5 w 12) (fld 4 w 0))
  | 0x3 => used (zer w 4 8) (.dstd (fld 5 w 17) (fld 5 w 12) (fld 4 w 0))
  | 0x4 => used (zer w 4 3) (.dtag (fld 5 w 17) (fld 5 w 12) (fld 5 w 7) (fld 4 w 0))
  | 0x5 => used (zer w 4 8) (.dclr (fld 5 w 17) (fld 5 w 12) (fld 4 w 0))
  | 0x6 => used (zer w 4 3) (.daddv (fld 5 w 17) (fld 5 w 12) (fld 5 w 7) (fld 4 w 0))
  | 0x7 => used (zer w 5 7) (.ds4 (fld 5 w 17) (fld 5 w 12) (fld 1 w 4) (fld 4 w 0))
  | 0x8 => used (zer w 4 8) (.dcol (fld 5 w 17) (fld 5 w 12) (fld 4 w 0))
  | 0x9 => used (zer w 6 6) (.dsamp (fld 5 w 17) (fld 5 w 12) (fld 1 w 5) (fld 1 w 4) (fld 4 w 0))
  | 0xA => used (zer w 4 3) (.dsens (fld 5 w 17) (fld 5 w 12) (fld 5 w 7) (fld 4 w 0))
  | _ => .error .reservedOpcode

/-- Opcodes 0x70 to 0x7F. `w` is the word, `raw` the word after it. -/
def decodeOp7 (lo w _raw : Nat) : Except DecodeError (Bool × Instr) :=
  match lo with
  | 0x0 => used (zer w 4 1 && zer w 7 5) (.ex2 (fld 5 w 17) (fld 5 w 12) (fld 2 w 5) (fld 4 w 0))
  | 0x1 => used (zer w 4 1 && zer w 7 5) (.lg2 (fld 5 w 17) (fld 5 w 12) (fld 2 w 5) (fld 4 w 0))
  | 0x2 => used (zer w 4 1 && zer w 7 5) (.rcp (fld 5 w 17) (fld 5 w 12) (fld 2 w 5) (fld 4 w 0))
  | 0x3 => used (zer w 4 1 && zer w 7 5) (.rsq (fld 5 w 17) (fld 5 w 12) (fld 2 w 5) (fld 4 w 0))
  | 0x4 => used (zer w 4 1 && zer w 7 5) (.sqrt (fld 5 w 17) (fld 5 w 12) (fld 2 w 5) (fld 4 w 0))
  | 0x5 => used (zer w 4 1 && zer w 7 5) (.sin (fld 5 w 17) (fld 5 w 12) (fld 2 w 5) (fld 4 w 0))
  | 0x6 => used (zer w 4 1 && zer w 7 5) (.cos (fld 5 w 17) (fld 5 w 12) (fld 2 w 5) (fld 4 w 0))
  | 0x7 => used (zer w 4 1 && zer w 7 5) (.tanh (fld 5 w 17) (fld 5 w 12) (fld 2 w 5) (fld 4 w 0))
  | 0x8 => used (zer w 4 1 && zer w 7 5) (.sigm (fld 5 w 17) (fld 5 w 12) (fld 2 w 5) (fld 4 w 0))
  | 0x9 => used true (.idiv (fld 5 w 17) (fld 5 w 12) (fld 5 w 7) (fld 3 w 4) (fld 4 w 0))
  | 0xA => used true (.irem (fld 5 w 17) (fld 5 w 12) (fld 5 w 7) (fld 3 w 4) (fld 4 w 0))
  | _ => .error .reservedOpcode

/-- Opcodes 0x80 to 0x8F. `w` is the word, `raw` the word after it. -/
def decodeOp8 (lo w _raw : Nat) : Except DecodeError (Bool × Instr) :=
  match lo with
  | 0x0 => used true (.fcvt (fld 5 w 17) (fld 5 w 12) (fld 5 w 7) (fld 3 w 4) (fld 4 w 0))
  | 0x1 => used (zer w 9 2) (.icvt (fld 5 w 17) (fld 5 w 12) (fld 1 w 11) (fld 2 w 7) (fld 3 w 4) (fld 4 w 0))
  | 0x2 => used (zer w 5 2) (.ftoi (fld 5 w 17) (fld 5 w 12) (fld 1 w 11) (fld 2 w 9) (fld 2 w 7) (fld 1 w 4) (fld 4 w 0))
  | 0x3 => used true (.qcvt (fld 5 w 17) (fld 5 w 12) (fld 5 w 7) (fld 3 w 4) (fld 4 w 0))
  | 0x4 => used (zer w 5 2) (.qrsc (fld 5 w 17) (fld 5 w 12) (fld 5 w 7) (fld 1 w 4) (fld 4 w 0))
  | 0x5 => used (zer w 4 3) (.qzpc (fld 5 w 17) (fld 5 w 12) (fld 5 w 7) (fld 4 w 0))
  | 0x6 => used (zer w 5 1) (.benc (fld 5 w 17) (fld 5 w 12) (fld 5 w 7) (fld 1 w 6) (fld 1 w 4) (fld 4 w 0))
  | 0x7 => used (zer w 4 2) (.bdec (fld 5 w 17) (fld 5 w 12) (fld 5 w 7) (fld 1 w 6) (fld 4 w 0))
  | _ => .error .reservedOpcode

/-- Opcodes 0x90 to 0x9F. `w` is the word, `raw` the word after it. -/
def decodeOp9 (lo w _raw : Nat) : Except DecodeError (Bool × Instr) :=
  match lo with
  | 0x0 => used (zer w 4 13) (.rgen (fld 5 w 17) (fld 4 w 0))
  | 0x1 => used (zer w 4 13) (.runi (fld 5 w 17) (fld 4 w 0))
  | 0x2 => used (zer w 4 13) (.rgaus (fld 5 w 17) (fld 4 w 0))
  | 0x3 => used (zer w 4 3 && zer w 10 2) (.rcat (fld 5 w 17) (fld 5 w 12) (fld 3 w 7) (fld 4 w 0))
  | 0x4 => used (zer w 4 8 && zer w 17 5) (.rskip (fld 5 w 12) (fld 4 w 0))
  | 0x8 => used true (.ldb (fld 5 w 17) (fld 5 w 12) (fld 6 w 6) (fld 2 w 4) (fld 4 w 0))
  | 0x9 => used true (.ldh (fld 5 w 17) (fld 5 w 12) (fld 6 w 6) (fld 2 w 4) (fld 4 w 0))
  | 0xA => used true (.ldw (fld 5 w 17) (fld 5 w 12) (fld 6 w 6) (fld 2 w 4) (fld 4 w 0))
  | 0xB => used true (.ldd (fld 5 w 17) (fld 5 w 12) (fld 6 w 6) (fld 2 w 4) (fld 4 w 0))
  | 0xC => used true (.ldq (fld 5 w 17) (fld 5 w 12) (fld 6 w 6) (fld 2 w 4) (fld 4 w 0))
  | 0xD => used true (.ldx (fld 5 w 17) (fld 5 w 12) (fld 5 w 7) (fld 2 w 5) (fld 1 w 4) (fld 4 w 0))
  | 0xE => used (zer w 4 1 && zer w 7 5) (.ldg (fld 5 w 17) (fld 5 w 12) (fld 2 w 5) (fld 4 w 0))
  | 0xF => used (zer w 17 5) (.pfet (fld 5 w 12) (fld 6 w 6) (fld 2 w 4) (fld 4 w 0))
  | _ => .error .reservedOpcode

/-- Opcodes 0xA0 to 0xAF. `w` is the word, `raw` the word after it. -/
def decodeOpA (lo w _raw : Nat) : Except DecodeError (Bool × Instr) :=
  match lo with
  | 0x0 => used true (.stb (fld 5 w 17) (fld 5 w 12) (fld 6 w 6) (fld 2 w 4) (fld 4 w 0))
  | 0x1 => used true (.sth (fld 5 w 17) (fld 5 w 12) (fld 6 w 6) (fld 2 w 4) (fld 4 w 0))
  | 0x2 => used true (.stw (fld 5 w 17) (fld 5 w 12) (fld 6 w 6) (fld 2 w 4) (fld 4 w 0))
  | 0x3 => used true (.std (fld 5 w 17) (fld 5 w 12) (fld 6 w 6) (fld 2 w 4) (fld 4 w 0))
  | 0x4 => used true (.stq (fld 5 w 17) (fld 5 w 12) (fld 6 w 6) (fld 2 w 4) (fld 4 w 0))
  | 0x5 => used true (.stx (fld 5 w 17) (fld 5 w 12) (fld 5 w 7) (fld 2 w 5) (fld 1 w 4) (fld 4 w 0))
  | 0x6 => used (zer w 8 4) (.lda (fld 5 w 17) (fld 5 w 12) (fld 1 w 7) (fld 3 w 4) (fld 4 w 0))
  | 0x7 => used (zer w 18 4) (.str (fld 1 w 17) (fld 5 w 12) (fld 5 w 7) (fld 3 w 4) (fld 4 w 0))
  | 0x8 => used (zer w 7 10) (.fence (fld 5 w 17) (fld 3 w 4) (fld 4 w 0))
  | 0x9 => used true (.atom (fld 5 w 17) (fld 5 w 12) (fld 5 w 7) (fld 3 w 4) (fld 4 w 0))
  | 0xA => used true (.acas (fld 5 w 17) (fld 5 w 12) (fld 5 w 7) (fld 5 w 2) (fld 2 w 0))
  | 0xB => used (zer w 4 1 && zer w 6 1) (.afadd (fld 5 w 17) (fld 5 w 12) (fld 5 w 7) (fld 1 w 5) (fld 4 w 0))
  | 0xC => used (zer w 17 5) (.red (fld 5 w 12) (fld 5 w 7) (fld 3 w 4) (fld 4 w 0))
  | 0xD => used (zer w 4 18) (.commit (fld 4 w 0))
  | 0xE => used true (.waitm (fld 5 w 17) (fld 5 w 12) (fld 5 w 7) (fld 3 w 4) (fld 4 w 0))
  | _ => .error .reservedOpcode

/-- Opcodes 0xB0 to 0xBF. `w` is the word, `raw` the word after it. -/
def decodeOpB (lo w _raw : Nat) : Except DecodeError (Bool × Instr) :=
  match lo with
  | 0x0 => used true (.lds (fld 5 w 17) (fld 5 w 12) (fld 6 w 6) (fld 2 w 4) (fld 4 w 0))
  | 0x1 => used true (.sts (fld 5 w 17) (fld 5 w 12) (fld 6 w 6) (fld 2 w 4) (fld 4 w 0))
  | 0x2 => used true (.ldsx (fld 5 w 17) (fld 5 w 12) (fld 5 w 7) (fld 2 w 5) (fld 1 w 4) (fld 4 w 0))
  | 0x3 => used true (.stsx (fld 5 w 17) (fld 5 w 12) (fld 5 w 7) (fld 2 w 5) (fld 1 w 4) (fld 4 w 0))
  | 0x4 => used (zer w 5 2) (.plot (fld 5 w 17) (fld 5 w 12) (fld 5 w 7) (fld 1 w 4) (fld 4 w 0))
  | 0x5 => used (zer w 4 8 && zer w 17 5) (.unplot (fld 5 w 12) (fld 4 w 0))
  | 0x6 => used (zer w 4 8 && zer w 17 5) (.renew (fld 5 w 12) (fld 4 w 0))
  | 0x7 => used (zer w 0 10) (.pres (fld 7 w 15) (fld 5 w 10))
  | _ => .error .reservedOpcode

/-- Opcodes 0xC0 to 0xCF. `w` is the word, `raw` the word after it. -/
def decodeOpC (lo w _raw : Nat) : Except DecodeError (Bool × Instr) :=
  match lo with
  | 0x0 => used (zer w 4 8) (.qw (fld 4 w 18) (fld 5 w 13) (fld 1 w 12) (fld 4 w 0))
  | 0x1 => used (zer w 4 8) (.qr (fld 4 w 18) (fld 5 w 13) (fld 1 w 12) (fld 4 w 0))
  | 0x2 => used (zer w 4 3 && zer w 11 6) (.tlrd (fld 5 w 17) (fld 4 w 7) (fld 4 w 0))
  | 0x3 => used (zer w 4 2 && zer w 11 1 && zer w 17 5) (.tlw (fld 5 w 12) (fld 4 w 7) (fld 1 w 6) (fld 4 w 0))
  | 0x8 => used (zer w 5 2 && zer w 17 5) (.mldn (fld 5 w 12) (fld 5 w 7) (fld 1 w 4) (fld 4 w 0))
  | 0x9 => used (zer w 5 2 && zer w 17 5) (.mldw (fld 5 w 12) (fld 5 w 7) (fld 1 w 4) (fld 4 w 0))
  | 0xA => used (zer w 17 5) (.mma (fld 5 w 12) (fld 5 w 7) (fld 2 w 5) (fld 1 w 4) (fld 4 w 0))
  | 0xB => used (zer w 4 1 && zer w 17 5) (.dmma (fld 5 w 12) (fld 5 w 7) (fld 2 w 5) (fld 4 w 0))
  | 0xC => used (zer w 4 1 && zer w 17 5) (.mma2 (fld 5 w 12) (fld 5 w 7) (fld 2 w 5) (fld 4 w 0))
  | 0xD => used (zer w 7 15) (.mzro (fld 2 w 5) (fld 1 w 4) (fld 4 w 0))
  | 0xE => used (zer w 4 1 && zer w 17 5) (.mdrn (fld 5 w 12) (fld 5 w 7) (fld 2 w 5) (fld 4 w 0))
  | 0xF => used true (.mstat (fld 5 w 17) (fld 5 w 12) (fld 5 w 7) (fld 3 w 4) (fld 4 w 0))
  | _ => .error .reservedOpcode

/-- Opcodes 0xD0 to 0xDF. `w` is the word, `raw` the word after it. -/
def decodeOpD (lo w _raw : Nat) : Except DecodeError (Bool × Instr) :=
  match lo with
  | 0x0 => used (zer w 4 8 && zer w 17 5) (.mteam (fld 5 w 12) (fld 4 w 0))
  | 0x1 => used (zer w 4 13) (.mchk (fld 5 w 17) (fld 4 w 0))
  | 0x8 => used (zer w 4 3 && zer w 11 11) (.bar (fld 4 w 7) (fld 4 w 0))
  | 0x9 => used (zer w 4 3 && zer w 11 11) (.bara (fld 4 w 7) (fld 4 w 0))
  | 0xA => used (zer w 4 3 && zer w 11 1 && zer w 17 5) (.barc (fld 5 w 12) (fld 4 w 7) (fld 4 w 0))
  | 0xB => used (zer w 4 18) (.gbar (fld 4 w 0))
  | 0xC => used (zer w 4 8 && zer w 17 5) (.capb (fld 5 w 12) (fld 4 w 0))
  | 0xD => used (zer w 4 18) (.cape (fld 4 w 0))
  | 0xE => used (zer w 4 3 && zer w 10 7) (.capr (fld 5 w 17) (fld 3 w 7) (fld 4 w 0))
  | 0xF => used (zer w 4 3) (.maskw (fld 5 w 17) (fld 5 w 12) (fld 5 w 7) (fld 4 w 0))
  | _ => .error .reservedOpcode

/-- Opcodes 0xE0 to 0xEF. `w` is the word, `raw` the word after it. -/
def decodeOpE (lo w _raw : Nat) : Except DecodeError (Bool × Instr) :=
  match lo with
  | 0x0 => used (zer w 4 8) (.launch (fld 5 w 17) (fld 5 w 12) (fld 4 w 0))
  | 0x1 => used (zer w 4 3 && zer w 17 5) (.compl (fld 5 w 12) (fld 5 w 7) (fld 4 w 0))
  | 0x2 => used (zer w 4 3 && zer w 17 5) (.waitc (fld 5 w 12) (fld 5 w 7) (fld 4 w 0))
  | 0x8 => used (zer w 4 8 && zer w 17 5) (.tlbi (fld 5 w 12) (fld 4 w 0))
  | 0x9 => used (zer w 4 8 && zer w 17 5) (.psumi (fld 5 w 12) (fld 4 w 0))
  | 0xA => used (zer w 4 8 && zer w 17 5) (.ctxsv (fld 5 w 12) (fld 4 w 0))
  | 0xB => used (zer w 4 8 && zer w 17 5) (.ctxld (fld 5 w 12) (fld 4 w 0))
  | _ => .error .reservedOpcode

/-- The instruction of a word; `raw` is the word after it, which only a W-format word takes (R11). -/
def decodeLoose (w raw : Nat) : Except DecodeError (Bool × Instr) :=
  if w = 0 then .error .allZero else
  let op := w / 2 ^ 22 % 256
  let lo := op % 16
  match op / 16 with
  | 0x0 => decodeOp0 lo w raw
  | 0x1 => decodeOp1 lo w raw
  | 0x2 => decodeOp2 lo w raw
  | 0x3 => decodeOp3 lo w raw
  | 0x4 => decodeOp4 lo w raw
  | 0x5 => decodeOp5 lo w raw
  | 0x6 => decodeOp6 lo w raw
  | 0x7 => decodeOp7 lo w raw
  | 0x8 => decodeOp8 lo w raw
  | 0x9 => decodeOp9 lo w raw
  | 0xA => decodeOpA lo w raw
  | 0xB => decodeOpB lo w raw
  | 0xC => decodeOpC lo w raw
  | 0xD => decodeOpD lo w raw
  | 0xE => decodeOpE lo w raw
  | _ => .error .reservedOpcode

/-- The instruction of a word; every word with a bit set that its row does not use is refused (R12). -/
def decodeWord (w raw : Nat) : Except DecodeError Instr :=
  match decodeLoose w raw with
  | .ok (true, i) => .ok i
  | .ok (false, _) => .error .unusedField
  | .error e => .error e

/-- How many words an instruction takes (R11). -/
def Instr.words : Instr → Nat
  | .li .. => 2
  | .lih .. => 2
  | _ => 1

/-- A word with its chain and switch bits (R9). -/
def decode (w raw : Nat) : Except DecodeError Decoded :=
  (decodeWord w raw).map fun i => ⟨w / 2 ^ 31 % 2 == 1, w / 2 ^ 30 % 2 == 1, i, i.words⟩

/-- Four bytes as a little-endian word (R9). -/
def leWord (b0 b1 b2 b3 : Byte) : Nat :=
  b0.toNat + 2 ^ 8 * b1.toNat + 2 ^ 16 * b2.toNat + 2 ^ 24 * b3.toNat

/-- The decoder on bytes as they lie in memory: one word, and the raw word after it where four more bytes
stand there. -/
def decodeBytes : List Byte → Except DecodeError Decoded
  | b0 :: b1 :: b2 :: b3 :: c0 :: c1 :: c2 :: c3 :: _ => decode (leWord b0 b1 b2 b3) (leWord c0 c1 c2 c3)
  | [b0, b1, b2, b3] =>
    match decode (leWord b0 b1 b2 b3) 0 with
    | .ok ⟨_, _, _, 2⟩ => .error .tooShort
    | r => r
  | _ => .error .tooShort

/-- The four bytes of a word, lowest address first (R9). -/
def wordBytes (w : Nat) : List Byte :=
  [BitVec.ofNat 8 w, BitVec.ofNat 8 (w / 2 ^ 8), BitVec.ofNat 8 (w / 2 ^ 16), BitVec.ofNat 8 (w / 2 ^ 24)]

/-- The instruction the decoder reads from bits numbered as spec/opcode_table.json numbers them, laid out
as the hardware stores them: the first word at the lowest address, each word little-endian. -/
def decodeTableWord (nbits w : Nat) : Option Instr :=
  let v := w % 2 ^ nbits
  match decodeBytes (wordBytes (v % 2 ^ 32) ++ wordBytes (v / 2 ^ 32 % 2 ^ 32)) with
  | .ok r => some r.instr
  | .error _ => none

/-- The rows of the table that are instruction words; the other rows are steps without an encoding. -/
def Instr.isWord : Instr → Bool
  | .copyLinear .. => false
  | .copyRagged .. => false
  | .kvPut .. => false
  | .kvGet .. => false
  | .kvFlagIncrement .. => false
  | .maskRequest .. => false
  | .prunerJobStart .. => false
  | .gemv .. => false
  | .sopen .. => false
  | .sopenContextBind .. => false
  | .sclose .. => false
  | .sieveFeed .. => false
  | .commandCompletion .. => false
  | .copyChunkFault .. => false
  | .bedLineLands .. => false
  | .fadeClockTick .. => false
  | .lineExpiry .. => false
  | .lineRequest .. => false
  | .loadDataReturn .. => false
  | .deferredFaultDelivery .. => false
  | .translateProbe .. => false
  | .probeReply .. => false
  | .commitMerge .. => false
  | .atomicPerform .. => false
  | .waitReread .. => false
  | .mscWriteback .. => false
  | .groupUnpark .. => false
  | .descriptorAccept => false
  | .cancellationTrap .. => false
  | .priorityAgingGrant .. => false
  | .frameSliceAllocation .. => false
  | .coreAssignment .. => false
  | .rangeSteal .. => false
  | .blockStart .. => false
  | .timeSliceExpiry .. => false
  | .contextSave .. => false
  | .contextRestore .. => false
  | .gridRetirement .. => false
  | .graphKernelNode .. => false
  | .graphLoopNode .. => false
  | .graphAdmitNode .. => false
  | .graphEndNode .. => false
  | .matrixExecute .. => false
  | .capsuleStep .. => false
  | .maskwTimeout .. => false
  | .hendWrite .. => false
  | .hardwareError .. => false
  | .doorbellWrite .. => false
  | .queueEnable .. => false
  | .queueDisable .. => false
  | .configRegisterWrite .. => false
  | .mailboxAttest .. => false
  | .mailboxTelemetryRead => false
  | .mailboxClearSuspect .. => false
  | .mailboxSetPowerCap .. => false
  | .mailboxReadCertificate => false
  | .mailboxLoadFirmware .. => false
  | .hostBar2Read .. => false
  | .hostBar2Write .. => false
  | .hostTakeLine .. => false
  | .hostLineWriteback .. => false
  | .hostCoherentRead .. => false
  | .inboundRmaWrite .. => false
  | .inboundRmaRead .. => false
  | .inboundRmaAtomic .. => false
  | .inboundUnsupportedPacket .. => false
  | .secondTierLinkDown .. => false
  | .bridgeLaneFailure .. => false
  | .deviceReset => false
  | .thermalThrottle => false
  | .powerCapThrottle => false
  | .thermalReset => false
  | .sramRailLow .. => false
  | .l2SecdedRestore .. => false
  | .variableLatencyResultWrite .. => false
  | .backInvalidateResponse .. => false
  | .clusterL1ModeWrite .. => false
  | .secondTierDecoderWrite .. => false
  | .secondTierLinkUp .. => false
  | .mainClockRaise => false
  | _ => true

/-- A word from its opcode and its 22-bit body, with C = S = 0 (R9). -/
def packWord (op body : Nat) : Word32 := BitVec.ofNat 32 (op * 2 ^ 22 + body)

/-- A field `x` put at bit `lo` beside the fields of `rest`. -/
def put {n : Nat} (x : BitVec n) (lo rest : Nat) : Nat := x.toNat * 2 ^ lo + rest

/-- The body and opcode of every instruction word with C = S = 0, from the layouts of R11 and R23 to R28:
one word, or the word and its raw word for the W format; a step without an encoding has none. -/
def encode : Instr → List Word32
  | .bra h g o => [packWord 0x01 (put h 20 (put g 16 (put o 0 0)))]
  | .brx a g => [packWord 0x02 (put a 12 (put g 0 0))]
  | .call h g o => [packWord 0x03 (put h 20 (put g 16 (put o 0 0)))]
  | .callx a g => [packWord 0x04 (put a 12 (put g 0 0))]
  | .ret g => [packWord 0x05 (put g 0 0)]
  | .exit g => [packWord 0x06 (put g 0 0)]
  | .yield g => [packWord 0x07 (put g 0 0)]
  | .nop g => [packWord 0x08 (put g 0 0)]
  | .trap i => [packWord 0x09 (put i 0 0)]
  | .bkpt g => [packWord 0x0A (put g 0 0)]
  | .tfence g => [packWord 0x0B (put g 0 0)]
  | .eret r g => [packWord 0x0C (put r 4 (put g 0 0))]
  | .canck p => [packWord 0x0D (put p 15 0)]
  | .isetp p a b k u => [packWord 0x10 (put p 15 (put a 10 (put b 5 (put k 1 (put u 0 0)))))]
  | .fsetp p a b k u => [packWord 0x11 (put p 15 (put a 10 (put b 5 (put k 1 (put u 0 0)))))]
  | .pand p a b k => [packWord 0x12 (put p 15 (put a 10 (put b 5 (put k 1 0))))]
  | .por p a b k => [packWord 0x13 (put p 15 (put a 10 (put b 5 (put k 1 0))))]
  | .pxor p a b k => [packWord 0x14 (put p 15 (put a 10 (put b 5 (put k 1 0))))]
  | .pandn p a b k => [packWord 0x15 (put p 15 (put a 10 (put b 5 (put k 1 0))))]
  | .ptov d a m g => [packWord 0x16 (put d 17 (put a 12 (put m 5 (put g 0 0))))]
  | .vtop p a u => [packWord 0x17 (put p 15 (put a 10 (put u 0 0)))]
  | .vote d a b m g => [packWord 0x18 (put d 17 (put a 12 (put b 7 (put m 5 (put g 0 0)))))]
  | .pld a m g => [packWord 0x19 (put a 12 (put m 5 (put g 0 0)))]
  | .pst d m g => [packWord 0x1A (put d 17 (put m 5 (put g 0 0)))]
  | .iadd d a b m g => [packWord 0x20 (put d 17 (put a 12 (put b 7 (put m 4 (put g 0 0)))))]
  | .isub d a b m g => [packWord 0x21 (put d 17 (put a 12 (put b 7 (put m 4 (put g 0 0)))))]
  | .imul d a b m g => [packWord 0x22 (put d 17 (put a 12 (put b 7 (put m 4 (put g 0 0)))))]
  | .imulh d a b m g => [packWord 0x23 (put d 17 (put a 12 (put b 7 (put m 4 (put g 0 0)))))]
  | .imad d a b e n => [packWord 0x24 (put d 17 (put a 12 (put b 7 (put e 2 (put n 0 0)))))]
  | .imin d a b m g => [packWord 0x25 (put d 17 (put a 12 (put b 7 (put m 4 (put g 0 0)))))]
  | .imax d a b m g => [packWord 0x26 (put d 17 (put a 12 (put b 7 (put m 4 (put g 0 0)))))]
  | .iabs d a m g => [packWord 0x27 (put d 17 (put a 12 (put m 4 (put g 0 0))))]
  | .and d a b m g => [packWord 0x28 (put d 17 (put a 12 (put b 7 (put m 5 (put g 0 0)))))]
  | .or d a b m g => [packWord 0x29 (put d 17 (put a 12 (put b 7 (put m 5 (put g 0 0)))))]
  | .xor d a b m g => [packWord 0x2A (put d 17 (put a 12 (put b 7 (put m 5 (put g 0 0)))))]
  | .andn d a b m g => [packWord 0x2B (put d 17 (put a 12 (put b 7 (put m 5 (put g 0 0)))))]
  | .shl d a b m g => [packWord 0x2C (put d 17 (put a 12 (put b 7 (put m 5 (put g 0 0)))))]
  | .shr d a b m g => [packWord 0x2D (put d 17 (put a 12 (put b 7 (put m 5 (put g 0 0)))))]
  | .sar d a b m g => [packWord 0x2E (put d 17 (put a 12 (put b 7 (put m 5 (put g 0 0)))))]
  | .rotl d a b m g => [packWord 0x2F (put d 17 (put a 12 (put b 7 (put m 5 (put g 0 0)))))]
  | .popc d a m g => [packWord 0x30 (put d 17 (put a 12 (put m 5 (put g 0 0))))]
  | .clz d a m g => [packWord 0x31 (put d 17 (put a 12 (put m 5 (put g 0 0))))]
  | .brev d a m g => [packWord 0x32 (put d 17 (put a 12 (put m 5 (put g 0 0))))]
  | .bfx d a b e n => [packWord 0x33 (put d 17 (put a 12 (put b 7 (put e 2 (put n 0 0)))))]
  | .bfi d a b e => [packWord 0x34 (put d 17 (put a 12 (put b 7 (put e 2 0))))]
  | .bsel d a b m g => [packWord 0x35 (put d 17 (put a 12 (put b 7 (put m 5 (put g 0 0)))))]
  | .sel d a b m g => [packWord 0x36 (put d 17 (put a 12 (put b 7 (put m 5 (put g 0 0)))))]
  | .lea d a b u k g => [packWord 0x37 (put d 17 (put a 12 (put b 7 (put u 6 (put k 4 (put g 0 0))))))]
  | .iaddi d a i => [packWord 0x38 (put d 17 (put a 12 (put i 0 0)))]
  | .andi d a i => [packWord 0x39 (put d 17 (put a 12 (put i 0 0)))]
  | .ori d a i => [packWord 0x3A (put d 17 (put a 12 (put i 0 0)))]
  | .xori d a i => [packWord 0x3B (put d 17 (put a 12 (put i 0 0)))]
  | .shli d a i => [packWord 0x3C (put d 17 (put a 12 (put i 0 0)))]
  | .shri d a i => [packWord 0x3D (put d 17 (put a 12 (put i 0 0)))]
  | .sari d a i => [packWord 0x3E (put d 17 (put a 12 (put i 0 0)))]
  | .isat d a b m g => [packWord 0x3F (put d 17 (put a 12 (put b 7 (put m 4 (put g 0 0)))))]
  | .idiv d a b m g => [packWord 0x79 (put d 17 (put a 12 (put b 7 (put m 4 (put g 0 0)))))]
  | .irem d a b m g => [packWord 0x7A (put d 17 (put a 12 (put b 7 (put m 4 (put g 0 0)))))]
  | .mov d a m g => [packWord 0x40 (put d 17 (put a 12 (put m 5 (put g 0 0))))]
  | .li d imm => [packWord 0x41 (put d 17 0), imm]
  | .lih d imm => [packWord 0x42 (put d 17 0), imm]
  | .movs d a b g => [packWord 0x43 (put d 17 (put a 12 (put b 7 (put g 0 0))))]
  | .shfl d a b m g => [packWord 0x44 (put d 17 (put a 12 (put b 7 (put m 5 (put g 0 0)))))]
  | .redg d a m g => [packWord 0x45 (put d 17 (put a 12 (put m 4 (put g 0 0))))]
  | .scan d a x m g => [packWord 0x46 (put d 17 (put a 12 (put x 7 (put m 4 (put g 0 0)))))]
  | .bcast d a b g => [packWord 0x47 (put d 17 (put a 12 (put b 7 (put g 0 0))))]
  | .mfs r y => [packWord 0x48 (put r 17 (put y 5 0))]
  | .mts r y => [packWord 0x49 (put r 17 (put y 5 0))]
  | .fadd d a b m g => [packWord 0x50 (put d 17 (put a 12 (put b 7 (put m 4 (put g 0 0)))))]
  | .fsub d a b m g => [packWord 0x51 (put d 17 (put a 12 (put b 7 (put m 4 (put g 0 0)))))]
  | .fmul d a b m g => [packWord 0x52 (put d 17 (put a 12 (put b 7 (put m 4 (put g 0 0)))))]
  | .fdiv d a b m g => [packWord 0x5A (put d 17 (put a 12 (put b 7 (put m 4 (put g 0 0)))))]
  | .ffma d a b e n => [packWord 0x53 (put d 17 (put a 12 (put b 7 (put e 2 (put n 0 0)))))]
  | .fmin d a b m g => [packWord 0x54 (put d 17 (put a 12 (put b 7 (put m 5 (put g 0 0)))))]
  | .fmax d a b m g => [packWord 0x55 (put d 17 (put a 12 (put b 7 (put m 5 (put g 0 0)))))]
  | .fcps d a b m g => [packWord 0x58 (put d 17 (put a 12 (put b 7 (put m 5 (put g 0 0)))))]
  | .fabs d a m g => [packWord 0x56 (put d 17 (put a 12 (put m 5 (put g 0 0))))]
  | .fneg d a m g => [packWord 0x57 (put d 17 (put a 12 (put m 5 (put g 0 0))))]
  | .frnd d a b m g => [packWord 0x59 (put d 17 (put a 12 (put b 7 (put m 5 (put g 0 0)))))]
  | .hadd2 d a b f r g => [packWord 0x5B (put d 17 (put a 12 (put b 7 (put f 6 (put r 4 (put g 0 0))))))]
  | .hmul2 d a b f r g => [packWord 0x5C (put d 17 (put a 12 (put b 7 (put f 6 (put r 4 (put g 0 0))))))]
  | .hfma2 d a b e n => [packWord 0x5D (put d 17 (put a 12 (put b 7 (put e 2 (put n 0 0)))))]
  | .dmake d a b g => [packWord 0x60 (put d 17 (put a 12 (put b 7 (put g 0 0))))]
  | .dmean d a g => [packWord 0x61 (put d 17 (put a 12 (put g 0 0)))]
  | .dvar d a g => [packWord 0x62 (put d 17 (put a 12 (put g 0 0)))]
  | .dstd d a g => [packWord 0x63 (put d 17 (put a 12 (put g 0 0)))]
  | .dtag d a b g => [packWord 0x64 (put d 17 (put a 12 (put b 7 (put g 0 0))))]
  | .dclr d a g => [packWord 0x65 (put d 17 (put a 12 (put g 0 0)))]
  | .daddv d a b g => [packWord 0x66 (put d 17 (put a 12 (put b 7 (put g 0 0))))]
  | .ds4 d a r g => [packWord 0x67 (put d 17 (put a 12 (put r 4 (put g 0 0))))]
  | .dcol d a g => [packWord 0x68 (put d 17 (put a 12 (put g 0 0)))]
  | .dsamp d a m r g => [packWord 0x69 (put d 17 (put a 12 (put m 5 (put r 4 (put g 0 0)))))]
  | .dsens d a b g => [packWord 0x6A (put d 17 (put a 12 (put b 7 (put g 0 0))))]
  | .ex2 d a m g => [packWord 0x70 (put d 17 (put a 12 (put m 5 (put g 0 0))))]
  | .lg2 d a m g => [packWord 0x71 (put d 17 (put a 12 (put m 5 (put g 0 0))))]
  | .rcp d a m g => [packWord 0x72 (put d 17 (put a 12 (put m 5 (put g 0 0))))]
  | .rsq d a m g => [packWord 0x73 (put d 17 (put a 12 (put m 5 (put g 0 0))))]
  | .sqrt d a m g => [packWord 0x74 (put d 17 (put a 12 (put m 5 (put g 0 0))))]
  | .sin d a m g => [packWord 0x75 (put d 17 (put a 12 (put m 5 (put g 0 0))))]
  | .cos d a m g => [packWord 0x76 (put d 17 (put a 12 (put m 5 (put g 0 0))))]
  | .tanh d a m g => [packWord 0x77 (put d 17 (put a 12 (put m 5 (put g 0 0))))]
  | .sigm d a m g => [packWord 0x78 (put d 17 (put a 12 (put m 5 (put g 0 0))))]
  | .fcvt d a b m g => [packWord 0x80 (put d 17 (put a 12 (put b 7 (put m 4 (put g 0 0)))))]
  | .icvt d a z w m g => [packWord 0x81 (put d 17 (put a 12 (put z 11 (put w 7 (put m 4 (put g 0 0))))))]
  | .ftoi d a z k w r g => [packWord 0x82 (put d 17 (put a 12 (put z 11 (put k 9 (put w 7 (put r 4 (put g 0 0)))))))]
  | .qcvt d a b m g => [packWord 0x83 (put d 17 (put a 12 (put b 7 (put m 4 (put g 0 0)))))]
  | .qrsc d a b r g => [packWord 0x84 (put d 17 (put a 12 (put b 7 (put r 4 (put g 0 0)))))]
  | .qzpc d a b g => [packWord 0x85 (put d 17 (put a 12 (put b 7 (put g 0 0))))]
  | .benc d a b f r g => [packWord 0x86 (put d 17 (put a 12 (put b 7 (put f 6 (put r 4 (put g 0 0))))))]
  | .bdec d a b f g => [packWord 0x87 (put d 17 (put a 12 (put b 7 (put f 6 (put g 0 0)))))]
  | .rgen d g => [packWord 0x90 (put d 17 (put g 0 0))]
  | .runi d g => [packWord 0x91 (put d 17 (put g 0 0))]
  | .rgaus d g => [packWord 0x92 (put d 17 (put g 0 0))]
  | .rcat d a b g => [packWord 0x93 (put d 17 (put a 12 (put b 7 (put g 0 0))))]
  | .rskip a g => [packWord 0x94 (put a 12 (put g 0 0))]
  | .ldb t a o h g => [packWord 0x98 (put t 17 (put a 12 (put o 6 (put h 4 (put g 0 0)))))]
  | .ldh t a o h g => [packWord 0x99 (put t 17 (put a 12 (put o 6 (put h 4 (put g 0 0)))))]
  | .ldw t a o h g => [packWord 0x9A (put t 17 (put a 12 (put o 6 (put h 4 (put g 0 0)))))]
  | .ldd t a o h g => [packWord 0x9B (put t 17 (put a 12 (put o 6 (put h 4 (put g 0 0)))))]
  | .ldq t a o h g => [packWord 0x9C (put t 17 (put a 12 (put o 6 (put h 4 (put g 0 0)))))]
  | .ldx t a b h x g => [packWord 0x9D (put t 17 (put a 12 (put b 7 (put h 5 (put x 4 (put g 0 0))))))]
  | .ldg d a m g => [packWord 0x9E (put d 17 (put a 12 (put m 5 (put g 0 0))))]
  | .pfet a o h g => [packWord 0x9F (put a 12 (put o 6 (put h 4 (put g 0 0))))]
  | .stb t a o h g => [packWord 0xA0 (put t 17 (put a 12 (put o 6 (put h 4 (put g 0 0)))))]
  | .sth t a o h g => [packWord 0xA1 (put t 17 (put a 12 (put o 6 (put h 4 (put g 0 0)))))]
  | .stw t a o h g => [packWord 0xA2 (put t 17 (put a 12 (put o 6 (put h 4 (put g 0 0)))))]
  | .std t a o h g => [packWord 0xA3 (put t 17 (put a 12 (put o 6 (put h 4 (put g 0 0)))))]
  | .stq t a o h g => [packWord 0xA4 (put t 17 (put a 12 (put o 6 (put h 4 (put g 0 0)))))]
  | .stx t a b h x g => [packWord 0xA5 (put t 17 (put a 12 (put b 7 (put h 5 (put x 4 (put g 0 0))))))]
  | .lda d a w m g => [packWord 0xA6 (put d 17 (put a 12 (put w 7 (put m 4 (put g 0 0)))))]
  | .str w a b m g => [packWord 0xA7 (put w 17 (put a 12 (put b 7 (put m 4 (put g 0 0)))))]
  | .fence d m g => [packWord 0xA8 (put d 17 (put m 4 (put g 0 0)))]
  | .atom d a b m g => [packWord 0xA9 (put d 17 (put a 12 (put b 7 (put m 4 (put g 0 0)))))]
  | .acas d a b e n => [packWord 0xAA (put d 17 (put a 12 (put b 7 (put e 2 (put n 0 0)))))]
  | .afadd d a b m g => [packWord 0xAB (put d 17 (put a 12 (put b 7 (put m 5 (put g 0 0)))))]
  | .red a b m g => [packWord 0xAC (put a 12 (put b 7 (put m 4 (put g 0 0))))]
  | .commit g => [packWord 0xAD (put g 0 0)]
  | .waitm d a b m g => [packWord 0xAE (put d 17 (put a 12 (put b 7 (put m 4 (put g 0 0)))))]
  | .lds t a o h g => [packWord 0xB0 (put t 17 (put a 12 (put o 6 (put h 4 (put g 0 0)))))]
  | .sts t a o h g => [packWord 0xB1 (put t 17 (put a 12 (put o 6 (put h 4 (put g 0 0)))))]
  | .ldsx t a b h x g => [packWord 0xB2 (put t 17 (put a 12 (put b 7 (put h 5 (put x 4 (put g 0 0))))))]
  | .stsx t a b h x g => [packWord 0xB3 (put t 17 (put a 12 (put b 7 (put h 5 (put x 4 (put g 0 0))))))]
  | .plot d a b r g => [packWord 0xB4 (put d 17 (put a 12 (put b 7 (put r 4 (put g 0 0)))))]
  | .unplot a g => [packWord 0xB5 (put a 12 (put g 0 0))]
  | .renew a g => [packWord 0xB6 (put a 12 (put g 0 0))]
  | .pres p a => [packWord 0xB7 (put p 15 (put a 10 0))]
  | .qw q r u g => [packWord 0xC0 (put q 18 (put r 13 (put u 12 (put g 0 0))))]
  | .qr q r u g => [packWord 0xC1 (put q 18 (put r 13 (put u 12 (put g 0 0))))]
  | .tlrd d b g => [packWord 0xC2 (put d 17 (put b 7 (put g 0 0)))]
  | .tlw a b u g => [packWord 0xC3 (put a 12 (put b 7 (put u 6 (put g 0 0))))]
  | .mldn a b m g => [packWord 0xC8 (put a 12 (put b 7 (put m 4 (put g 0 0))))]
  | .mldw a b m g => [packWord 0xC9 (put a 12 (put b 7 (put m 4 (put g 0 0))))]
  | .mma a b q t g => [packWord 0xCA (put a 12 (put b 7 (put q 5 (put t 4 (put g 0 0)))))]
  | .dmma a b q g => [packWord 0xCB (put a 12 (put b 7 (put q 5 (put g 0 0))))]
  | .mma2 a b q g => [packWord 0xCC (put a 12 (put b 7 (put q 5 (put g 0 0))))]
  | .mzro q l g => [packWord 0xCD (put q 5 (put l 4 (put g 0 0)))]
  | .mdrn a b q g => [packWord 0xCE (put a 12 (put b 7 (put q 5 (put g 0 0))))]
  | .mstat d a b m g => [packWord 0xCF (put d 17 (put a 12 (put b 7 (put m 4 (put g 0 0)))))]
  | .mteam a g => [packWord 0xD0 (put a 12 (put g 0 0))]
  | .mchk d g => [packWord 0xD1 (put d 17 (put g 0 0))]
  | .bar b g => [packWord 0xD8 (put b 7 (put g 0 0))]
  | .bara b g => [packWord 0xD9 (put b 7 (put g 0 0))]
  | .barc a b g => [packWord 0xDA (put a 12 (put b 7 (put g 0 0)))]
  | .gbar g => [packWord 0xDB (put g 0 0)]
  | .capb a g => [packWord 0xDC (put a 12 (put g 0 0))]
  | .cape g => [packWord 0xDD (put g 0 0)]
  | .capr d b g => [packWord 0xDE (put d 17 (put b 7 (put g 0 0)))]
  | .maskw d a b g => [packWord 0xDF (put d 17 (put a 12 (put b 7 (put g 0 0))))]
  | .launch d a g => [packWord 0xE0 (put d 17 (put a 12 (put g 0 0)))]
  | .compl a b g => [packWord 0xE1 (put a 12 (put b 7 (put g 0 0)))]
  | .waitc a b g => [packWord 0xE2 (put a 12 (put b 7 (put g 0 0)))]
  | .tlbi a g => [packWord 0xE8 (put a 12 (put g 0 0))]
  | .psumi a g => [packWord 0xE9 (put a 12 (put g 0 0))]
  | .ctxsv a g => [packWord 0xEA (put a 12 (put g 0 0))]
  | .ctxld a g => [packWord 0xEB (put a 12 (put g 0 0))]
  | _ => []

end Sys2Proof
end

