-- ==== Sys2Proof/Machine/Operands.lean ====
section
/-!
DEFINITION. What an instruction word names, read from its fields alone: its pipe, its guard, the registers
and predicates it reads and writes (R13 to R18, R21), the special registers (R152, R356), and the checks of
R29 orders 2 and 3.
-/

namespace Sys2Proof

/-- The pipes of a quadrant (R17); NOP issues to none. -/
inductive Pipe where
  | a | f | x | m | c | none
  deriving DecidableEq, Repr

/-- The special registers (R152, R356); the sixteen timelines are one family. -/
inductive SpecialReg where
  | laneid | groupid | blockid | gridid | lcore | pcore | ngroups | griddim | depth | phase | slotmask | iter
  | smode | flags | flagen | determ | twin | rkey | rctr | lfsr
  | cause | detail0 | detail1 | detail2 | epc | emask | handler | frame | caprec | tl (t : Nat) | cycles | fadeclk
  | bframe | hend | spaceid | ndef | hscr0 | hscr1 | hscr2 | hscr3
  deriving DecidableEq, Repr

/-- The access column of R152 and R356. -/
inductive Access4 where
  | ro | rw | hro | hrw
  deriving DecidableEq, Repr

namespace Machine

/-- The special register of a 12-bit number, if it is allocated (R152, R356). -/
def sprOf (y : BitVec 12) : Option SpecialReg :=
  match y.toNat with
  | 0x000 => some .laneid
  | 0x001 => some .groupid
  | 0x002 => some .blockid
  | 0x003 => some .gridid
  | 0x004 => some .lcore
  | 0x005 => some .pcore
  | 0x006 => some .ngroups
  | 0x007 => some .griddim
  | 0x008 => some .depth
  | 0x009 => some .phase
  | 0x00A => some .slotmask
  | 0x00B => some .iter
  | 0x010 => some .smode
  | 0x011 => some .flags
  | 0x012 => some .flagen
  | 0x013 => some .determ
  | 0x014 => some .twin
  | 0x020 => some .rkey
  | 0x021 => some .rctr
  | 0x022 => some .lfsr
  | 0x030 => some .cause
  | 0x031 => some .detail0
  | 0x032 => some .detail1
  | 0x033 => some .detail2
  | 0x034 => some .epc
  | 0x035 => some .emask
  | 0x036 => some .handler
  | 0x037 => some .frame
  | 0x038 => some .caprec
  | 0x050 => some .cycles
  | 0x051 => some .fadeclk
  | 0x060 => some .bframe
  | 0x061 => some .hend
  | 0x062 => some .spaceid
  | 0x063 => some .ndef
  | 0x064 => some .hscr0
  | 0x065 => some .hscr1
  | 0x066 => some .hscr2
  | 0x067 => some .hscr3
  | n => if 0x040 ≤ n && n ≤ 0x04F then some (.tl (n - 0x040)) else none

/-- The access a special register allows (R152, R356). -/
def sprAccess : SpecialReg → Access4
  | .smode | .flags | .flagen | .rkey | .rctr | .lfsr => .rw
  | .cause | .detail0 | .detail1 | .detail2 | .epc | .emask | .spaceid | .ndef => .hro
  | .handler | .frame | .bframe | .hend | .hscr0 | .hscr1 | .hscr2 | .hscr3 => .hrw
  | _ => .ro

/-- A special register that only handler level may touch. -/
def sprPrivileged (r : SpecialReg) : Bool := sprAccess r == .hro || sprAccess r == .hrw

/-- A special register that some level may write. -/
def sprWritable (r : SpecialReg) : Bool := sprAccess r == .rw || sprAccess r == .hrw

/-- The registers and predicates a word reads (`r…`) and writes (`w…`), of the lane registers v, the uniform
registers s and the predicates p. -/
structure Uses where
  rv : List Nat := []
  rs : List Nat := []
  rp : List Nat := []
  wv : List Nat := []
  ws : List Nat := []
  wp : List Nat := []
  deriving DecidableEq, Repr

/-- p{hi,lo} (R151). -/
def predAt (hi : BitVec 2) (lo : BitVec 5) : Nat := 32 * hi.toNat + lo.toNat

/-- The predicates of block j (R151). -/
def predBlock (j : BitVec 2) : List Nat := (List.range 32).map fun k => 32 * j.toNat + k

/-- A register pair (R13). -/
def pair (t : BitVec 5) : List Nat := [t.toNat, t.toNat + 1]

/-- The data registers of a Bed access of size code h (R122). -/
def sized (h : BitVec 2) (t : BitVec 5) : List Nat := if h = 2 then pair t else [t.toNat]

def vA (d a : BitVec 5) : Uses := { rv := [a.toNat], wv := [d.toNat] }

def vAB (d a b : BitVec 5) : Uses := { rv := [a.toNat, b.toNat], wv := [d.toNat] }

def vDAB (d a b : BitVec 5) : Uses := { rv := [d.toNat, a.toNat, b.toNat], wv := [d.toNat] }

def vABC (d a b e : BitVec 5) : Uses := { rv := [a.toNat, b.toNat, e.toNat], wv := [d.toNat] }

def vDABC (d a b e : BitVec 5) : Uses := { rv := [d.toNat, a.toNat, b.toNat, e.toNat], wv := [d.toNat] }

/-- An integer instruction whose U bit makes its registers uniform (R13, R170). -/
def uA (u : Bool) (d a : BitVec 5) : Uses := if u then { rs := [a.toNat], ws := [d.toNat] } else vA d a

def uAB (u : Bool) (d a b : BitVec 5) : Uses :=
  if u then { rs := [a.toNat, b.toNat], ws := [d.toNat] } else vAB d a b

def uDAB (u : Bool) (d a b : BitVec 5) : Uses :=
  if u then { rs := [d.toNat, a.toNat, b.toNat], ws := [d.toNat] } else vDAB d a b

end Machine

open Machine

/-- The pipe of each opcode (R17, R23 to R28); NOP and the events issue to none. -/
def Instr.pipe : Instr → Pipe
  | .isetp .. | .pand .. | .por .. | .pxor .. | .pandn .. | .ptov .. | .vtop .. | .vote .. | .pld ..
  | .pst .. | .iadd .. | .isub .. | .imul .. | .imulh .. | .imad .. | .imin .. | .imax .. | .iabs ..
  | .and .. | .or .. | .xor .. | .andn .. | .shl .. | .shr .. | .sar .. | .rotl .. | .popc .. | .clz ..
  | .brev .. | .bfx .. | .bfi .. | .bsel .. | .sel .. | .lea .. | .iaddi .. | .andi .. | .ori .. | .xori ..
  | .shli .. | .shri .. | .sari .. | .isat .. | .mov .. | .li .. | .lih .. | .movs .. | .mfs .. | .mts .. => .a
  | .fsetp .. | .fadd .. | .fsub .. | .fmul .. | .fdiv .. | .ffma .. | .fmin .. | .fmax .. | .fcps ..
  | .fabs .. | .fneg .. | .frnd .. | .hadd2 .. | .hmul2 .. | .hfma2 .. | .dmake .. | .dmean .. | .dvar ..
  | .dstd .. | .dtag .. | .dclr .. | .daddv .. | .ds4 .. | .dcol .. | .dsens .. | .fcvt .. | .icvt ..
  | .ftoi .. | .qcvt .. | .qrsc .. | .qzpc .. | .benc .. | .bdec .. => .f
  | .idiv .. | .irem .. | .shfl .. | .redg .. | .scan .. | .bcast .. | .dsamp .. | .ex2 .. | .lg2 ..
  | .rcp .. | .rsq .. | .sqrt .. | .sin .. | .cos .. | .tanh .. | .sigm .. | .rgen .. | .runi .. | .rgaus ..
  | .rcat .. | .rskip .. | .qw .. | .qr .. | .tlrd .. | .tlw .. => .x
  | .ldb .. | .ldh .. | .ldw .. | .ldd .. | .ldq .. | .ldx .. | .ldg .. | .pfet .. | .stb .. | .sth ..
  | .stw .. | .std .. | .stq .. | .stx .. | .lda .. | .str .. | .fence .. | .atom .. | .acas .. | .afadd ..
  | .red .. | .commit .. | .waitm .. | .lds .. | .sts .. | .ldsx .. | .stsx .. | .plot .. | .unplot ..
  | .renew .. | .pres .. | .mldn .. | .mldw .. | .mma .. | .dmma .. | .mma2 .. | .mzro .. | .mdrn ..
  | .mstat .. | .mteam .. | .mchk .. => .m
  | .bra .. | .brx .. | .call .. | .callx .. | .ret .. | .exit .. | .yield .. | .trap .. | .bkpt ..
  | .tfence .. | .eret .. | .canck .. | .bar .. | .bara .. | .barc .. | .gbar .. | .capb .. | .cape ..
  | .capr .. | .maskw .. | .launch .. | .compl .. | .waitc .. | .tlbi .. | .psumi .. | .ctxsv .. | .ctxld .. => .c
  | _ => .none

/-- The guard field, in the formats that have one (R14, R16). -/
def Instr.guard : Instr → Option (BitVec 4)
  | .bra _ g _ => some g
  | .brx _ g => some g
  | .call _ g _ => some g
  | .callx _ g => some g
  | .ret g => some g
  | .exit g => some g
  | .yield g => some g
  | .nop g => some g
  | .bkpt g => some g
  | .tfence g => some g
  | .eret _ g => some g
  | .ptov _ _ _ g => some g
  | .vote _ _ _ _ g => some g
  | .pld _ _ g => some g
  | .pst _ _ g => some g
  | .iadd _ _ _ _ g => some g
  | .isub _ _ _ _ g => some g
  | .imul _ _ _ _ g => some g
  | .imulh _ _ _ _ g => some g
  | .imin _ _ _ _ g => some g
  | .imax _ _ _ _ g => some g
  | .iabs _ _ _ g => some g
  | .and _ _ _ _ g => some g
  | .or _ _ _ _ g => some g
  | .xor _ _ _ _ g => some g
  | .andn _ _ _ _ g => some g
  | .shl _ _ _ _ g => some g
  | .shr _ _ _ _ g => some g
  | .sar _ _ _ _ g => some g
  | .rotl _ _ _ _ g => some g
  | .popc _ _ _ g => some g
  | .clz _ _ _ g => some g
  | .brev _ _ _ g => some g
  | .bsel _ _ _ _ g => some g
  | .sel _ _ _ _ g => some g
  | .lea _ _ _ _ _ g => some g
  | .isat _ _ _ _ g => some g
  | .idiv _ _ _ _ g => some g
  | .irem _ _ _ _ g => some g
  | .mov _ _ _ g => some g
  | .movs _ _ _ g => some g
  | .shfl _ _ _ _ g => some g
  | .redg _ _ _ g => some g
  | .scan _ _ _ _ g => some g
  | .bcast _ _ _ g => some g
  | .fadd _ _ _ _ g => some g
  | .fsub _ _ _ _ g => some g
  | .fmul _ _ _ _ g => some g
  | .fdiv _ _ _ _ g => some g
  | .fmin _ _ _ _ g => some g
  | .fmax _ _ _ _ g => some g
  | .fcps _ _ _ _ g => some g
  | .fabs _ _ _ g => some g
  | .fneg _ _ _ g => some g
  | .frnd _ _ _ _ g => some g
  | .hadd2 _ _ _ _ _ g => some g
  | .hmul2 _ _ _ _ _ g => some g
  | .dmake _ _ _ g => some g
  | .dmean _ _ g => some g
  | .dvar _ _ g => some g
  | .dstd _ _ g => some g
  | .dtag _ _ _ g => some g
  | .dclr _ _ g => some g
  | .daddv _ _ _ g => some g
  | .ds4 _ _ _ g => some g
  | .dcol _ _ g => some g
  | .dsamp _ _ _ _ g => some g
  | .dsens _ _ _ g => some g
  | .ex2 _ _ _ g => some g
  | .lg2 _ _ _ g => some g
  | .rcp _ _ _ g => some g
  | .rsq _ _ _ g => some g
  | .sqrt _ _ _ g => some g
  | .sin _ _ _ g => some g
  | .cos _ _ _ g => some g
  | .tanh _ _ _ g => some g
  | .sigm _ _ _ g => some g
  | .fcvt _ _ _ _ g => some g
  | .icvt _ _ _ _ _ g => some g
  | .ftoi _ _ _ _ _ _ g => some g
  | .qcvt _ _ _ _ g => some g
  | .qrsc _ _ _ _ g => some g
  | .qzpc _ _ _ g => some g
  | .benc _ _ _ _ _ g => some g
  | .bdec _ _ _ _ g => some g
  | .rgen _ g => some g
  | .runi _ g => some g
  | .rgaus _ g => some g
  | .rcat _ _ _ g => some g
  | .rskip _ g => some g
  | .ldb _ _ _ _ g => some g
  | .ldh _ _ _ _ g => some g
  | .ldw _ _ _ _ g => some g
  | .ldd _ _ _ _ g => some g
  | .ldq _ _ _ _ g => some g
  | .ldx _ _ _ _ _ g => some g
  | .ldg _ _ _ g => some g
  | .pfet _ _ _ g => some g
  | .stb _ _ _ _ g => some g
  | .sth _ _ _ _ g => some g
  | .stw _ _ _ _ g => some g
  | .std _ _ _ _ g => some g
  | .stq _ _ _ _ g => some g
  | .stx _ _ _ _ _ g => some g
  | .lda _ _ _ _ g => some g
  | .str _ _ _ _ g => some g
  | .fence _ _ g => some g
  | .atom _ _ _ _ g => some g
  | .afadd _ _ _ _ g => some g
  | .red _ _ _ g => some g
  | .commit g => some g
  | .waitm _ _ _ _ g => some g
  | .lds _ _ _ _ g => some g
  | .sts _ _ _ _ g => some g
  | .ldsx _ _ _ _ _ g => some g
  | .stsx _ _ _ _ _ g => some g
  | .plot _ _ _ _ g => some g
  | .unplot _ g => some g
  | .renew _ g => some g
  | .qw _ _ _ g => some g
  | .qr _ _ _ g => some g
  | .tlrd _ _ g => some g
  | .tlw _ _ _ g => some g
  | .mldn _ _ _ g => some g
  | .mldw _ _ _ g => some g
  | .mma _ _ _ _ g => some g
  | .dmma _ _ _ g => some g
  | .mma2 _ _ _ g => some g
  | .mzro _ _ g => some g
  | .mdrn _ _ _ g => some g
  | .mstat _ _ _ _ g => some g
  | .mteam _ g => some g
  | .mchk _ g => some g
  | .bar _ g => some g
  | .bara _ g => some g
  | .barc _ _ g => some g
  | .gbar g => some g
  | .capb _ g => some g
  | .cape g => some g
  | .capr _ _ g => some g
  | .maskw _ _ _ g => some g
  | .launch _ _ g => some g
  | .compl _ _ g => some g
  | .waitc _ _ g => some g
  | .tlbi _ g => some g
  | .psumi _ g => some g
  | .ctxsv _ g => some g
  | .ctxld _ g => some g
  | _ => none

/-- The registers and predicates a word reads and writes beside its guard (R13, R21). -/
def Instr.uses : Instr → Uses
  | .brx a _ => { rv := [a.toNat] }
  | .call _ _ _ => { wv := [31] }
  | .callx a _ => { rv := [a.toNat], wv := [31] }
  | .ret _ => { rv := [31] }
  | .canck p => { wp := [p.toNat] }
  | .isetp p a b _ u => { rv := if u = 1 then [a.toNat] else [a.toNat, b.toNat], rs := if u = 1 then [b.toNat] else [], wp := [p.toNat] }
  | .fsetp p a b _ u => { rv := if u = 1 then [a.toNat] else [a.toNat, b.toNat], rs := if u = 1 then [b.toNat] else [], wp := [p.toNat] }
  | .pand p a b k => { rp := [predAt (k.extractLsb' 2 2) a, predAt (k.extractLsb' 0 2) b], wp := [p.toNat] }
  | .por p a b k => { rp := [predAt (k.extractLsb' 2 2) a, predAt (k.extractLsb' 0 2) b], wp := [p.toNat] }
  | .pxor p a b k => { rp := [predAt (k.extractLsb' 2 2) a, predAt (k.extractLsb' 0 2) b], wp := [p.toNat] }
  | .pandn p a b k => { rp := [predAt (k.extractLsb' 2 2) a, predAt (k.extractLsb' 0 2) b], wp := [p.toNat] }
  | .ptov d a m _ => { rp := [predAt m a], wv := [d.toNat] }
  | .vtop p a u => { rv := if u = 1 then [] else [a.toNat], rs := if u = 1 then [a.toNat] else [], wp := [p.toNat] }
  | .vote d a _ m _ => { rp := [predAt m a], wv := [d.toNat] }
  | .pld a m _ => { rv := [a.toNat], wp := predBlock m }
  | .pst d m _ => { rp := predBlock m, wv := [d.toNat] }
  | .iadd d a b m _ => uAB (m.getLsbD 2) d a b
  | .isub d a b m _ => uAB (m.getLsbD 2) d a b
  | .imul d a b m _ => uAB (m.getLsbD 2) d a b
  | .imulh d a b m _ => uAB (m.getLsbD 2) d a b
  | .imad d a b e _ => vABC d a b e
  | .imin d a b m _ => uAB (m.getLsbD 2) d a b
  | .imax d a b m _ => uAB (m.getLsbD 2) d a b
  | .iabs d a m _ => uA (m.getLsbD 2) d a
  | .and d a b m _ => uAB (m.getLsbD 1) d a b
  | .or d a b m _ => uAB (m.getLsbD 1) d a b
  | .xor d a b m _ => uAB (m.getLsbD 1) d a b
  | .andn d a b m _ => uAB (m.getLsbD 1) d a b
  | .shl d a b m _ => uAB (m.getLsbD 1) d a b
  | .shr d a b m _ => uAB (m.getLsbD 1) d a b
  | .sar d a b m _ => uAB (m.getLsbD 1) d a b
  | .rotl d a b m _ => uAB (m.getLsbD 1) d a b
  | .popc d a m _ => uA (m.getLsbD 1) d a
  | .clz d a m _ => uA (m.getLsbD 1) d a
  | .brev d a m _ => uA (m.getLsbD 1) d a
  | .bfx d a b e _ => vABC d a b e
  | .bfi d a b e => vDABC d a b e
  | .bsel d a b m _ => uDAB (m.getLsbD 1) d a b
  | .sel d a b _ _ => vAB d a b
  | .lea d a b u _ _ => uAB (u == 1) d a b
  | .iaddi d a _ => vA d a
  | .andi d a _ => vA d a
  | .ori d a _ => vA d a
  | .xori d a _ => vA d a
  | .shli d a _ => vA d a
  | .shri d a _ => vA d a
  | .sari d a _ => vA d a
  | .isat d a b m _ => uAB (m.getLsbD 2) d a b
  | .idiv d a b m _ => uAB (m.getLsbD 2) d a b
  | .irem d a b m _ => uAB (m.getLsbD 2) d a b
  | .mov d a m _ => { rv := if m.getLsbD 0 then [] else [a.toNat], rs := if m.getLsbD 0 then [a.toNat] else [], wv := if m.getLsbD 1 then [] else [d.toNat], ws := if m.getLsbD 1 then [d.toNat] else [] }
  | .li d _ => { wv := [d.toNat] }
  | .lih d _ => { rv := [d.toNat], wv := [d.toNat] }
  | .movs d a b _ => { rv := [a.toNat], rs := [b.toNat], ws := [d.toNat] }
  | .shfl d a b _ _ => vAB d a b
  | .redg d a _ _ => vA d a
  | .scan d a _ _ _ => vA d a
  | .bcast d a _ _ => vA d a
  | .mfs r _ => { wv := [r.toNat] }
  | .mts r _ => { rv := [r.toNat] }
  | .fadd d a b _ _ => vAB d a b
  | .fsub d a b _ _ => vAB d a b
  | .fmul d a b _ _ => vAB d a b
  | .fdiv d a b _ _ => vAB d a b
  | .ffma d a b e _ => vABC d a b e
  | .fmin d a b _ _ => vAB d a b
  | .fmax d a b _ _ => vAB d a b
  | .fcps d a b _ _ => vAB d a b
  | .fabs d a _ _ => vA d a
  | .fneg d a _ _ => vA d a
  | .frnd d a _ _ _ => vA d a
  | .hadd2 d a b _ _ _ => vAB d a b
  | .hmul2 d a b _ _ _ => vAB d a b
  | .hfma2 d a b e _ => vABC d a b e
  | .dmake d a b _ => vAB d a b
  | .dmean d a _ => vA d a
  | .dvar d a _ => vA d a
  | .dstd d a _ => vA d a
  | .dtag d a b _ => vAB d a b
  | .dclr d a _ => vA d a
  | .daddv d a b _ => vAB d a b
  | .ds4 d a _ _ => vA d a
  | .dcol d a _ => vA d a
  | .dsamp d a _ _ _ => vA d a
  | .dsens d a b _ => vAB d a b
  | .ex2 d a _ _ => vA d a
  | .lg2 d a _ _ => vA d a
  | .rcp d a _ _ => vA d a
  | .rsq d a _ _ => vA d a
  | .sqrt d a _ _ => vA d a
  | .sin d a _ _ => vA d a
  | .cos d a _ _ => vA d a
  | .tanh d a _ _ => vA d a
  | .sigm d a _ _ => vA d a
  | .fcvt d a _ _ _ => vA d a
  | .icvt d a _ _ _ _ => vA d a
  | .ftoi d a _ _ _ _ _ => vA d a
  | .qcvt d a b _ _ => vAB d a b
  | .qrsc d a b _ _ => vAB d a b
  | .qzpc d a b _ => vDAB d a b
  | .benc d a b _ _ _ => { rv := [a.toNat], wv := [d.toNat, b.toNat] }
  | .bdec d a b _ _ => vAB d a b
  | .rgen d _ => { wv := [d.toNat] }
  | .runi d _ => { wv := [d.toNat] }
  | .rgaus d _ => { wv := [d.toNat] }
  | .rcat d a _ _ => vA d a
  | .rskip a _ => { rv := [a.toNat] }
  | .ldb t a _ _ _ => vA t a
  | .ldh t a _ _ _ => vA t a
  | .ldw t a _ _ _ => vA t a
  | .ldd t a _ _ _ => vA t a
  | .ldq t a _ _ _ => { rv := [a.toNat], wv := pair t }
  | .ldx t a b _ _ _ => { rv := [b.toNat], rs := [a.toNat], wv := [t.toNat] }
  | .ldg d a m _ => if m = 2 then { rv := [a.toNat], wv := pair d } else vA d a
  | .pfet a _ _ _ => { rv := [a.toNat] }
  | .stb t a _ _ _ => { rv := [t.toNat, a.toNat] }
  | .sth t a _ _ _ => { rv := [t.toNat, a.toNat] }
  | .stw t a _ _ _ => { rv := [t.toNat, a.toNat] }
  | .std t a _ _ _ => { rv := [t.toNat, a.toNat] }
  | .stq t a _ _ _ => { rv := a.toNat :: pair t }
  | .stx t a b _ _ _ => { rv := [t.toNat, b.toNat], rs := [a.toNat] }
  | .lda d a _ _ _ => vA d a
  | .str _ a b _ _ => { rv := [a.toNat, b.toNat] }
  | .atom d a b _ _ => vAB d a b
  | .acas d a b e n => if n.getLsbD 0 then vAB d a e else vABC d a b e
  | .afadd d a b _ _ => vAB d a b
  | .red a b _ _ => { rv := [a.toNat, b.toNat] }
  | .waitm d a b _ _ => vAB d a b
  | .lds t a _ h _ => { rv := [a.toNat], wv := sized h t }
  | .sts t a _ h _ => { rv := a.toNat :: sized h t }
  | .ldsx t a b h _ _ => { rv := [b.toNat], rs := [a.toNat], wv := sized h t }
  | .stsx t a b h _ _ => { rv := b.toNat :: sized h t, rs := [a.toNat] }
  | .plot d a b _ _ => vAB d a b
  | .unplot a _ => { rv := [a.toNat] }
  | .renew a _ => { rv := [a.toNat] }
  | .pres p a => { rv := [a.toNat], wp := [p.toNat] }
  | .qw _ r u _ => { rv := if u = 1 then [] else [r.toNat], rs := if u = 1 then [r.toNat] else [] }
  | .qr _ r u _ => { wv := if u = 1 then [] else [r.toNat], ws := if u = 1 then [r.toNat] else [] }
  | .tlrd d _ _ => { wv := [d.toNat] }
  | .tlw a _ u _ => { rv := if u = 1 then [] else [a.toNat], rs := if u = 1 then [a.toNat] else [] }
  | .mldn a b _ _ => { rv := [a.toNat, b.toNat] }
  | .mldw a b _ _ => { rv := [a.toNat, b.toNat] }
  | .mma a b _ _ _ => { rv := [a.toNat, b.toNat] }
  | .dmma a b _ _ => { rv := [a.toNat, b.toNat] }
  | .mma2 a b _ _ => { rv := [a.toNat, b.toNat] }
  | .mdrn a b _ _ => { rv := [a.toNat, b.toNat] }
  | .mstat d a b m _ => { rv := if m = 1 then [a.toNat, b.toNat, d.toNat] else [a.toNat, b.toNat], wv := [d.toNat] }
  | .mteam a _ => { rv := [a.toNat] }
  | .mchk d _ => { wv := [d.toNat] }
  | .barc a _ _ => { rv := [a.toNat] }
  | .capb a _ => { rv := [a.toNat] }
  | .capr d _ _ => { wv := [d.toNat] }
  | .maskw d a b _ => { rv := [a.toNat, b.toNat], wp := [d.toNat] }
  | .launch d a _ => vA d a
  | .compl a b _ => { rv := [a.toNat, b.toNat] }
  | .waitc a b _ => { rv := [a.toNat, b.toNat] }
  | .tlbi a _ => { rv := [a.toNat] }
  | .psumi a _ => { rv := [a.toNat] }
  | .ctxsv a _ => { rv := [a.toNat] }
  | .ctxld a _ => { rv := [a.toNat] }
  | _ => {}

/-- A sub-field value, pair, queue, special-register number or register combination that the opcode tables
list (R29 order 2). What an unused field holds is the decoder's, and the guard is `Instr.guardOk`'s.
Log 63 (DEDUCED). -/
def Instr.fieldsOk : Instr → Bool
  | .isetp _ _ _ k _ => k.toNat ≤ 9
  | .fsetp _ _ _ k _ => k.toNat ≤ 12
  | .vote _ _ b _ _ => b.toNat ≤ 3
  | .mfs _ y => (sprOf y).isSome
  | .mts _ y => (sprOf y).any sprWritable
  | .fcvt _ _ b m _ => 1 ≤ b.toNat % 16 && b.toNat % 16 ≤ 4 && !(m.getLsbD 0 && b.getLsbD 4)
  | .ftoi _ _ _ k _ r _ => k == 0 || r == 0
  | .benc d _ b _ _ _ => d != b
  | .rcat _ _ b _ => b.toNat ≤ 5
  | .ldq t _ _ _ _ => !t.getLsbD 0
  | .ldg d _ m _ => m.toNat ≤ 2 && (m != 2 || !d.getLsbD 0)
  | .stq t _ _ _ _ => !t.getLsbD 0
  | .lda _ _ _ m _ => m.toNat ≤ 5
  | .str _ _ _ m _ => m.toNat ≤ 5
  | .fence d m _ => m.toNat ≤ 5 && d.toNat ≤ 2
  | .acas _ _ b _ n => !n.getLsbD 0 || b == 0
  | .waitm _ _ _ m _ => m.toNat ≤ 5
  | .lds t _ _ h _ => h.toNat ≤ 2 && (h != 2 || !t.getLsbD 0)
  | .sts t _ _ h _ => h.toNat ≤ 2 && (h != 2 || !t.getLsbD 0)
  | .ldsx t _ _ h _ _ => h.toNat ≤ 2 && (h != 2 || !t.getLsbD 0)
  | .stsx t _ _ h _ _ => h.toNat ≤ 2 && (h != 2 || !t.getLsbD 0)
  | .qw q _ _ _ => q.toNat ≤ 8
  | .qr q _ _ _ => q.toNat ≤ 8
  | .mzro q l _ => l == 0 || q == 0
  | .mstat _ _ _ m _ => m.toNat ≤ 3
  | _ => true

/-- Destinations are pending from issue until written (R17): everything but the A pipe, the F pipe except
FDIV, CALL, CALLX and CANCK. -/
def Instr.variable : Instr → Bool
  | .fdiv .. => true
  | .call .. | .callx .. | .canck .. => false
  | i => i.pipe == .x || i.pipe == .m || i.pipe == .c

/-- A guard other than 0b1111 (R14). -/
def Instr.guardOk (i : Instr) : Bool := i.guard != some 15

/-- Handler-level opcodes and accesses to handler-level special registers (R28, R152, R356, R357). -/
def Instr.privileged : Instr → Bool
  | .eret .. | .tlbi .. | .psumi .. | .ctxsv .. | .ctxld .. => true
  | .mfs _ y | .mts _ y => (sprOf y).any sprPrivileged
  | _ => false

/-- A word that passes R29 order 2 once decoded. -/
def Instr.legal (i : Instr) : Bool := i.isWord && i.fieldsOk && i.guardOk

/-- The destinations of a word for R18: p127 is none (R14). -/
def Instr.destsOf (i : Instr) : List (Nat × Nat) :=
  i.uses.wv.map ((0, ·)) ++ i.uses.ws.map ((1, ·)) ++ (i.uses.wp.filter (· != 127)).map ((2, ·))

/-- Every register and predicate a word reads or writes, by file (0 v, 1 s, 2 p), under an effective guard. -/
def Instr.touched (i : Instr) (g : BitVec 4) : List (Nat × Nat) :=
  i.uses.rv.map ((0, ·)) ++ i.uses.rs.map ((1, ·)) ++ i.uses.rp.map ((2, ·))
    ++ (if g.extractLsb' 0 3 == 7 then [] else [(2, (g.extractLsb' 0 3).toNat)])
    ++ i.uses.wv.map ((0, ·)) ++ i.uses.ws.map ((1, ·)) ++ i.uses.wp.map ((2, ·))

end Sys2Proof
end

