-- ==== Sys2Proof/Machine/SMap.lean ====
section
/-!
DEFINITION. Sparse maps: a list of keys and values that lists no key whose value is the default one.

Every store of the machine that has many like cells (memory, register files, caches, the Bed) is such a
map, so that equal stores are equal data. The default is an argument of the operations and not stored.
-/

namespace Sys2Proof.Machine

/-- A sparse map. Canonical maps (`SMap.wf`) have rising keys and no entry that holds the default. -/
abbrev SMap (α : Type) := List (Nat × α)

variable {α β : Type}

/-- The value at key `k`, the default `d` where nothing is listed. -/
def sget (d : α) : SMap α → Nat → α
  | [], _ => d
  | (k', v) :: t, k => if k' = k then v else sget d t k

/-- Every entry of key `k` taken out. -/
def serase : SMap α → Nat → SMap α
  | [], _ => []
  | (k', v) :: t, k => if k' = k then serase t k else (k', v) :: serase t k

/-- The entry put before the first larger key. -/
def sinsert : SMap α → Nat → α → SMap α
  | [], k, v => [(k, v)]
  | (k', v') :: t, k, v => if k < k' then (k, v) :: (k', v') :: t else (k', v') :: sinsert t k v

/-- The map with `v` at key `k`; writing the default takes the entry out. -/
def sset [DecidableEq α] (d : α) (m : SMap α) (k : Nat) (v : α) : SMap α :=
  if v = d then serase m k else sinsert (serase m k) k v

/-- The value at a key changed by a function. -/
def supd [DecidableEq α] (d : α) (m : SMap α) (k : Nat) (f : α → α) : SMap α :=
  sset d m k (f (sget d m k))

/-- Keys lo to lo + n − 1 given the values of a function at 0 to n − 1, and no others changed. -/
def sfill [DecidableEq α] (d : α) (m : SMap α) (lo n : Nat) (f : Nat → α) : SMap α :=
  m.filter (fun kv => decide (kv.1 < lo))
    ++ (((List.range n).map fun i => (lo + i, f i)).filter fun kv => decide (kv.2 ≠ d))
    ++ m.filter fun kv => decide (lo + n ≤ kv.1)

/-- Keys rise strictly, all above `lo`, and no entry holds the default. -/
def swfFrom [DecidableEq α] (d : α) (lo : Option Nat) : SMap α → Bool
  | [] => true
  | (k, v) :: t => (match lo with | none => true | some l => decide (l < k)) && decide (v ≠ d) && swfFrom d (some k) t

/-- The canonical form of a sparse map. -/
def swf [DecidableEq α] (d : α) (m : SMap α) : Bool := swfFrom d none m

/-- The keys listed, in order. -/
def skeys (m : SMap α) : List Nat := m.map (·.1)

/-- Optional maps: an object that may be absent is kept as `some`, and the default is `none`. -/
abbrev OMap (α : Type) := SMap (Option α)

/-- The object at key `k`, if there is one. -/
def oget (m : OMap α) (k : Nat) : Option α := sget none m k

/-- The object at key `k` put in place. -/
def oset [DecidableEq α] (m : OMap α) (k : Nat) (v : α) : OMap α := sset none m k (some v)

/-- The object at key `k` taken away. -/
def odel (m : OMap α) (k : Nat) : OMap α := serase m k

/-- The object at key `k`, if there is one, changed by `f`. -/
def oupd [DecidableEq α] (m : OMap α) (k : Nat) (f : α → α) : OMap α :=
  match oget m k with
  | none => m
  | some v => oset m k (f v)

/-- The objects of an optional map with their keys, in key order. -/
def oitems (m : OMap α) : List (Nat × α) := m.filterMap fun kv => kv.2.map fun v => (kv.1, v)

end Sys2Proof.Machine
end

