-- ==== Sys2Proof/Machine/State.lean ====
section
/-!
DEFINITION. The state of an Atilo package, as plain data, and the state right after reset.

Every piece of state is named in INVENTORY.md with the rule of spec/ that gives it. Stores of many like
cells are sparse maps (`SMap`, `OMap`) in one canonical form. A 128-byte line is one bit vector of 1,024
bits, byte i in bits [8i+7:8i], and a set of bytes of a line is a line with those bytes all ones.
-/

namespace Sys2Proof.Machine

/-- The bytes of a 128-byte line, or a mask over them. -/
abbrev Line := BitVec 1024

/-! ### Accesses to memory -/

/-- The outcome of a translation: 0, or the fault code 4 or 5 of R99; the physical address, the leaf entry and
the dirty bitmap of a 2 MiB leaf, 0 for none (R60, R68). -/
structure Xlate where
  code : Nat
  pa : Nat
  entry : Word
  bitmap : Nat
  deriving DecidableEq, Repr

/-- A line request of an access (R94) or the probe of a store (R248): the virtual line VA/128, the lanes it serves, whether the line has
been read or written, and what came of it. -/
structure LineReq where
  line : Nat
  lanes : Mask
  served : Bool
  returned : Bool
  /-- its reply crossed the bridge (R380) -/
  crossed : Bool
  data : Line
  poison : Line
  /-- 0, or the home's fault 4 or 5 (R99) -/
  cause : Nat
  /-- what a probe found -/
  x : Xlate
  deriving DecidableEq, Repr

/-- A memory access of one instruction from its issue on: a load in a load slot (R97), an entry of the late
store buffer (R247), a wait's read (R263), or a deferred-access record (R362). -/
structure Access where
  uid : Nat
  /-- place in the issue order of the group -/
  seq : Nat
  blk : Nat
  grp : Nat
  pc : Word
  op : Nat
  m : Nat
  dreg : Nat
  /-- 1 load, 2 store, 3 atomic, 4 LDG, 6 engine (R362) -/
  kind : Nat
  logsz : Nat
  hint : Nat
  act : Mask
  /-- lanes not yet written or acknowledged -/
  wait : Mask
  /-- lanes that faulted at a home -/
  fault : Mask
  /-- lanes in a determinism conflict -/
  conf : Mask
  va : List Word
  /-- store data, atomic operand, or what has been read: low and high half -/
  d0 : List Word
  d1 : List Word
  /-- the cause of each lane that failed: 0, 2 to 6 of R347 for `conf` lanes, 4 or 5 of R99 for `fault` lanes -/
  lcause : List Nat
  reqs : List LineReq
  flags : Flags
  /-- issued at handler level -/
  handler : Bool
  /-- the commit that must complete first, 0 for none (R259) -/
  after : Nat
  /-- performed at the point of coherence and never held (STR of .clu or wider, R280) -/
  poc : Bool
  /-- lanes whose own commit has begun (R248, R255), and for a release that its flushing reads have been sent (R277) -/
  begun : Mask
  /-- no word of its set follows its own (R205) -/
  last : Bool
  /-- of a capsule body, by the lane that executes it (R310) -/
  body : Bool
  deriving DecidableEq, Repr

/-- A deferred fault that is ready (R100): its place in issue order, cause group, detail and access. -/
structure DefFault where
  seq : Nat
  group : Nat
  detail : BitVec 96
  acc : Option Access
  deriving DecidableEq, Repr

/-- A trap on its way to handler entry (R354). `pc` is what EPC receives. -/
structure Trap where
  group : Nat
  detail : BitVec 96
  pc : Word
  mask : Mask
  /-- the cause of each lane of a precise trap, lane and code (R360 offset 0x300) -/
  lcause : List (Nat × Nat)
  /-- the deferred fault delivered, which becomes record 0 -/
  fault : Option DefFault
  deriving DecidableEq, Repr

/-! ### A group -/

/-- The reasons of the group scheduler's park table, in its order (R326). -/
inductive ParkReason where
  | switch | loadSlot | bedAbsence | plotCopies | queue | timeline | matrix | storeBuffer | commit | wait
  | handler | yield
  deriving DecidableEq, Repr

/-- A register file a pending destination or an outstanding result names (R21). -/
inductive RegFile where
  | v | s | p
  deriving DecidableEq, Repr

/-- An outstanding variable-latency result that is not a load (R17): what will be written, and the flags set
with it (R153). `hi` is the second register of a pair. -/
structure VarOut where
  uid : Nat
  seq : Nat
  file : RegFile
  reg : Nat
  lanes : Mask
  vals : List Word
  hi : List Word
  mask : Mask
  flags : Flags
  /-- the matrix instruction that writes it, 0 for none -/
  matrix : Nat
  deriving DecidableEq, Repr

/-- What the words of a set can write of their group before a word of the set is known to trap (R19, R307). -/
structure Regs where
  v : SMap Word
  u : SMap Word
  p : SMap Mask
  lfsr : SMap Word32
  smode : BitVec 2
  flags : Flags
  flagen : Flags
  queues : SMap (List Word)
  outs : List VarOut
  pendV : BitVec 32
  pendS : BitVec 32
  pendP : BitVec 128
  deriving DecidableEq, Repr

/-- What a parked group waits for. `reissue` says that the PC stands on the word, which issues again; the
other forms say what completes the word. -/
inductive Await where
  | reissue
  /-- nothing: the reason clears at once (R293) -/
  | nothing
  /-- the word reissues once these Bed lines are present (R117) or no longer claimed (R234) -/
  | lines (l : List Nat)
  /-- the word reissues once a queue has room for the words it pushes, and the block for the commands they complete, or
  once it holds the words it pops (R132 to R134) -/
  | queue (q words cmds : Nat) (push : Bool)
  /-- outstanding results of R20 -/
  | results
  /-- ERET: its results and its store buffer entries (R357) -/
  | eret (replay : Bool)
  /-- TFENCE, then its trap check with the head run and the PC after the set (R353) -/
  | tfence (run : Mask) (next : Word)
  /-- COMMIT or FENCE: the commits up to that number, then whether flushing reads follow, then the acquire of that
  scope; for a FENCE, its PC and lanes, with which a save abandons it (R256, R277, R281, R282) -/
  | commit (id : Nat) (flush : Bool) (acq : Option Nat) (fence : Option (Word × Mask))
  /-- the flushing reads of a .sys FENCE, then its acquire (R277) -/
  | flush (acq : Option Nat)
  /-- STR: the entry of that uid written or faulted (R280) -/
  | entry (uid : Nat)
  /-- DONE(t) ≥ n (R137) -/
  | timeline (t n : Nat)
  /-- generation g of barrier n over (R298) -/
  | barrier (n gen : Nat)
  /-- BARC (R298) -/
  | arrivals (n count gen : Nat)
  /-- the phase after n (R300) -/
  | phase (n : Nat)
  /-- LDA with its acquire scope (R279) -/
  | lda (acc : Access) (scope : Nat)
  /-- WAITM and its comparands (R263) -/
  | waitm (acc : Access) (cmp : List Word)
  /-- MASKW: predicate, target, and its timeout with the cycle in which it falls due (R301) -/
  | maskw (acc : Access) (p target : Nat) (due : Option (Nat × Nat))
  /-- GBAR before its arrival: the commits of its release up to that number (R267, R300) -/
  | gbar (id : Nat)
  /-- CAPE before its action: the commits of its release up to that number (R267, R308) -/
  | cape (id : Nat)
  /-- WAITC: the read of the bit's word, the bitmap, and the bit (R337) -/
  | waitc (acc : Access) (base : Word) (bit : Nat)
  /-- CAPB at the lock, with its body's end (R306) -/
  | capb (va : Word) (lane : Nat) (body cend : Word)
  /-- a capsule step, and what a group's words can write as it stood before the step's set (R19, R307) -/
  | step (acc : Access) (old : Regs)
  /-- R310 for a displaced or resuming lane -/
  | capsule (lane : Nat)
  /-- LAUNCH reading its descriptor (R335) -/
  | launch (acc : Access) (lanes : Mask)
  /-- CTXSV before it writes its image: the commits of its release up to that number, and the address (R365) -/
  | image (id : Nat) (va : Word)
  /-- a team (R240) -/
  | team (desc : Nat)
  /-- the word reissues once no copy into or out of these lines of a plot is left (R124) -/
  | plot (base lines : Nat)
  deriving DecidableEq, Repr

/-- A park: its reason and what ends it. -/
structure Park where
  reason : ParkReason
  what : Await
  deriving DecidableEq, Repr

/-- What the graft slot keeps (R306). -/
structure GraftSlot where
  v : List Word
  preds : Nat
  pc : Word
  deriving DecidableEq, Repr

/-- The capsule state of a group (R306, R309, R361). -/
structure CapState where
  lane : Nat
  owner : Bool
  slot : Option GraftSlot
  displaced : Option Nat
  /-- lines touched since the executor acquired or grafted (R307) -/
  lines : List Nat
  deriving DecidableEq, Repr

/-- A group of 32 lanes (R149, R283, R326). Per-lane registers are keyed 32·register + lane. -/
structure Group where
  v : SMap Word
  u : SMap Word
  p : SMap Mask
  pc : SMap Word
  live : Mask
  yielded : Mask
  lfsr : SMap Word32
  smode : BitVec 2
  flags : Flags
  flagen : Flags
  cause : Word
  detail0 : Word
  detail1 : Word
  detail2 : Word
  epc : Word
  emask : Word
  handler : Word
  frame : Word
  caprec : Word
  hscr0 : Word
  hscr1 : Word
  hscr2 : Word
  hscr3 : Word
  /-- handler level (R354) -/
  level : Bool
  pendV : BitVec 32
  pendS : BitVec 32
  pendP : BitVec 128
  /-- queues q0 to q8, oldest word first (R131) -/
  queues : SMap (List Word)
  outs : List VarOut
  /-- loads in load slots (R97) -/
  loads : List Access
  /-- ready deferred faults in issue order (R100) -/
  ready : List DefFault
  /-- the deferred fault that the running handler was given, record 0 of its frame (R362) -/
  record0 : Option DefFault
  park : Option Park
  /-- the parks of the other words of its chained set that wait (R19) -/
  more : List Park
  /-- the S bit of the last set is still to be honoured once its own park ends (R20) -/
  switchDue : Bool
  /-- the two issues of its next words have differed once (R368) -/
  twinBad : Bool
  /-- the parks kept across a handler (R101), and whether a switch is owed after them -/
  kept : Option Park
  keptMore : List Park
  keptSwitch : Bool
  trapPend : Option Trap
  /-- the WAITC that the group stands before has been satisfied (R337) -/
  waitOk : Bool
  cap : Option CapState
  /-- host ports through which the group has posted writes since its last .sys release (R272) -/
  posted : List Nat
  /-- VA and GEN of the last owned capsule that reached CAPE (R311) -/
  lastCap : Option (Word × Nat)
  /-- the cancellation trap of cause 1 has been taken (R334) -/
  cancelTaken : Bool
  ended : Bool
  /-- phases at which the group has arrived (R300) -/
  phases : Nat
  /-- issue order counter -/
  seq : Nat
  quadrant : Nat
  active : Bool
  /-- the cycle in which the group was swapped in (R327) -/
  activeAt : Nat
  /-- order in which it became resident, and in which it parked (R327) -/
  bornAt : Nat
  parkedAt : Nat
  deriving DecidableEq, Repr

/-! ### A block -/

/-- A Bed line (R111, R114, R115); the default is age 0, present, no source. -/
structure BedLine where
  age : Nat
  absent : Bool
  source : Option Word
  deriving DecidableEq, Repr

/-- A plot (R111). -/
structure Plot where
  base : Nat
  lines : Nat
  life : Nat
  refetch : Bool
  deriving DecidableEq, Repr

/-- A held copy of a line (R252). -/
structure Held where
  mask : Line
  data : Line
  /-- physical line of its translation, and the dirty bitmap of its leaf -/
  pa : Nat
  bitmap : Nat
  /-- die whose L2 holds it -/
  die : Nat
  cls : Nat
  sieve : Bool
  /-- the R mark that its line has at the point of coherence (R248) -/
  rMark : Bool
  /-- order of placement, for the oldest held copy (R253) -/
  age : Nat
  deriving DecidableEq, Repr

/-- A commit under way: its lines not yet merged (R254). -/
structure Commit where
  id : Nat
  lines : OMap Held
  /-- lines whose flits a bridge lane failed, which arrive poisoned (R380) -/
  bad : List Nat
  deriving DecidableEq, Repr

/-- A block barrier (R297). -/
structure Barrier where
  arr : Nat
  gen : Nat
  deriving DecidableEq, Repr

/-- The states of a block's life (R319). -/
inductive BlockLife where
  | waiting | resident | saved | ended
  deriving DecidableEq, Repr

/-- The outcomes of a status entry (R317). -/
inductive Outcome3 where
  | pending | done | failed | cancelled
  deriving DecidableEq, Repr

/-- A matrix instruction in the engine (R234): the word, its format word, the staged tiles as bytes. -/
structure MatInstr where
  /-- Bed lines that it claims (R234) -/
  claims : List Nat
  uid : Nat
  blk : Nat
  grp : Nat
  seq : Nat
  instr : Instr
  pc : Word
  fmt : BitVec 32
  base : Nat
  lanes : Mask
  tile : List Byte
  tile2 : List Byte
  /-- .sumexp references of the lanes -/
  refs : List Word
  /-- the number that pairs it with those of a team's other members (R241), 0 for an instruction that is not paired -/
  pair : Nat
  deriving DecidableEq, Repr

/-- The classes of an accumulator quarter (R225). -/
inductive QClass where
  | empty | float | integer
  deriving DecidableEq, Repr

/-- The matrix engine of a core (R225). Cells are keyed 16384·quarter + 128·i + j. -/
structure Matrix where
  owner : Option Nat
  meanFmt : Nat
  mean : SMap Byte
  /-- whether the plane was loaded from the west (MLDW) -/
  west : Bool
  spread : SMap Byte
  spreadWest : Bool
  acc : SMap (BitVec 56)
  var : SMap Word32
  cls : SMap Nat
  team : Nat
  /-- paired instructions issued since the team came into force (R241) -/
  pairs : Nat
  checked : BitVec 32
  retried : Nat
  exec : Option MatInstr
  staged : Option MatInstr
  /-- the pass that runs has failed its checksums once (R242) -/
  failed : Bool
  /-- the paired instructions that the block of the engine has issued, with their tiles, for the members of its team
  that still take them (R241) -/
  sent : List MatInstr
  deriving DecidableEq, Repr

def Matrix.zero : Matrix :=
  ⟨none, 0, [], false, [], false, [], [], [], 0, 0, 0, 0, none, none, false, []⟩

/-- A Pruner job's own state beside its one-lane group (R145, R303): its command. -/
structure Job where
  cmd : Nat
  die : Nat
  core : Nat
  deriving DecidableEq, Repr

/-- A block, or a Pruner job run as a one-lane block. -/
structure Block where
  grid : Nat
  id : Nat
  lcore : Nat
  /-- die·96 + cluster·16 + core -/
  core : Nat
  space : Nat
  life : BlockLife
  outcome : Outcome3
  cause : Nat
  groups : OMap Group
  rkey : Word
  rctr : Word
  issued : SMap Nat
  done : SMap Nat
  bars : SMap Barrier
  bedLines : Nat
  bed : SMap Byte
  bedMeta : SMap BedLine
  plots : OMap Plot
  held : OMap Held
  commits : List Commit
  /-- COMMITS (R255) -/
  count : BitVec 32
  relaunches : Nat
  /-- host ports with posted writes since the last .sys release (R277) -/
  posted : List Nat
  /-- Sieve slots to contexts (R74) -/
  sieve : OMap Nat
  bframe : Word
  /-- cycle in which it became resident or was saved, for time slices (R320) -/
  since : Nat
  /-- its issue is stopped for a save, and its Bed has been taken (R364 steps 1 and 2) -/
  saving : Bool
  bedTaken : Bool
  /-- its lines do not age: a save has read them, and no word has issued since (R129) -/
  paused : Bool
  /-- store buffer entries and matrix instructions that a save set aside, and whether it saved an engine (R243, R264) -/
  stash : List Access
  /-- its Sieve slots as they were saved (R81) -/
  stashSieve : OMap Nat
  stashMx : List MatInstr
  ownedMx : Bool
  keptMx : Matrix
  /-- another block of its logical core has become resident since its save, so that their common frame is no longer its
  own (R321, R375) -/
  displaced : Bool
  /-- the data of its next access across the bridge that takes one step was on a lane that has failed (R380) -/
  flawed : Bool
  job : Option Job
  deriving DecidableEq, Repr

/-! ### Grids and graphs -/

/-- The states of a grid (R318). -/
inductive GridState where
  | accepted | running | draining | retired
  deriving DecidableEq, Repr

/-- A loop a graph is inside (R331): its node, the iteration, whether its boundary check is due, and the mask of its
last admit node. -/
structure LoopPos where
  node : Word
  iter : Nat
  due : Bool
  mask : Option Word
  deriving DecidableEq, Repr

/-- A live grid or graph (R315 to R334). -/
structure Grid where
  state : GridState
  graph : Bool
  parent : Option Nat
  /-- block and group that a status word is posted to, with Q8 = 1 (R328) -/
  q8 : Option (Nat × Nat)
  depth : Nat
  prio : Nat
  space : Nat
  queue : Nat
  handler : Word
  entry : Word
  blocks : Nat
  lcores : Nat
  bedLines : Nat
  groups : Nat
  smode : BitVec 2
  determ : Bool
  twin : Bool
  team : Nat
  plots : List (Nat × Nat × Bool)
  args : Word
  rkey : Word
  rctr : Word
  bitmap : Word
  status : Word
  ctrap : Bool
  preempt : Nat
  /-- cores taken by pre-emption and the grids they came from (R325) -/
  taken : List (Nat × Nat)
  slice : Option Word
  phase : Nat
  slotmask : Word
  iter : Nat
  cancelled : Bool
  failedN : Nat
  cancelledN : Nat
  doneN : Nat
  /-- STATE 2 by an invalid descriptor or a stopped graph -/
  bad : Bool
  /-- graph position: the next node, the loops it is inside, the mask outside loops, the node grid -/
  node : Word
  loops : List LoopPos
  mask : Option Word
  child : Option Nat
  /-- remap table: logical core to physical core (R320) -/
  remap : OMap Nat
  /-- ranges of the cluster nodes, keyed 6·die + cluster: [lo, hi) (R324) -/
  ranges : OMap (Nat × Nat)
  /-- blocks that have ended -/
  ended : SMap Bool
  /-- blocks relaunched and waiting, bound to a logical core: block, logical core, relaunches, and the cluster that they
  left (R319, R369) -/
  rebound : List (Nat × Nat × Nat × Nat)
  /-- the cycle in which a block of a logical core last left its core, and that in which all of them began to wait (R320) -/
  waitAt : SMap Nat
  since : Nat
  /-- order of acceptance -/
  order : Nat
  /-- its number among the 4,096 live grids (R343) -/
  gslot : Nat
  deriving DecidableEq, Repr

/-! ### Engine commands -/

/-- How far a command has come (R134 to R146); `held` is a completion that waits for a restore. -/
inductive CmdState where
  | pushed | taken | held | done
  deriving DecidableEq, Repr

/-- A Bed line that a copy has still to land (R117, R142). -/
structure Landing where
  line : Nat
  /-- the source and the destination that a pending copy record gives it (R146) -/
  src : Nat
  dst : Nat
  /-- what a record that was read back adds to the source of its words (R146) -/
  shift : Word
  /-- where its byte 0 would come from, if its words come from one run of memory (R115) -/
  base : Option Word
  /-- its words that the copy has moved, and their bytes -/
  words : BitVec 64
  data : BitVec 2048
  /-- how many of its words have still to be moved -/
  left : Nat
  /-- a chunk of it has failed -/
  failed : Bool
  deriving DecidableEq, Repr

/-- A pushed engine command whose number DONE has not reached (R134). -/
structure Command where
  blk : Nat
  grp : Nat
  queue : Nat
  seq : Nat
  /-- the word that pushed it, or that started a refetch -/
  pc : Word
  pusher : Word32
  tl : Nat
  num : Nat
  words : List Word
  /-- the commit of its push (R134) -/
  after : Nat
  state : CmdState
  /-- the next chunk of 256 bytes, row or element -/
  next : Nat
  landing : List Landing
  /-- the lowest failing chunk and its status (R142) -/
  failAt : Option (Nat × Nat)
  stat : Nat
  detail : Nat
  /-- result words that wait for their queue, and whether one has been delivered (R77, R138) -/
  out : List Word
  sending : Bool
  /-- a refetch of R116: no timeline, no completion word -/
  refetch : Bool
  deriving DecidableEq, Repr

/-- A Sieve context (R74). -/
structure Sieve where
  blk : Nat
  slot : Nat
  space : Nat
  row : Nat
  n : Nat
  k : Nat
  ref : Nat
  tag : Nat
  short : List (Nat × Nat)
  max : Nat
  acc : Nat
  count : Nat
  nan : Bool
  refx : Bool
  deriving DecidableEq, Repr

/-! ### A core -/

/-- An L1 line (R83, R90, R92, R252, R346). Classes: 0 normal, 1 stream, 2 read-only, 3 keep. -/
structure L1Line where
  data : Line
  valid : Line
  poison : Line
  rMark : Bool
  cls : Nat
  grid : Nat
  /-- sectors written by a block's held store, and that block (R252) -/
  marked : Line
  markBlk : Nat
  ident : Nat
  phase : Nat
  /-- the cycle in which it came, for the oldest keep line (R90) -/
  age : Nat
  deriving DecidableEq, Repr

/-- A physical core. -/
structure Core where
  l1 : OMap L1Line
  lsb : List Access
  /-- cached permission-summary entries, keyed space·2^23 + home·2^21 + index: the entry and its subtable
  (R67) -/
  summary : OMap (Word × List Byte)
  mx : Matrix
  fade : Word
  suspect : Bool
  /-- the block that left it last was saved, so that the logical core that has waited longest is next (R320) -/
  sliced : Bool
  deriving DecidableEq, Repr

/-! ### A die -/

/-- An L2 line (R83, R86, R248). -/
structure L2Line where
  data : Line
  valid : Line
  poison : Line
  dirty : Line
  rMark : Bool
  wMark : Bool
  sieve : Bool
  unc : Bool
  pa : Nat
  /-- the dirty bitmap of its 2 MiB leaf, 0 for none (R68) -/
  bitmap : Nat
  remote : Bool
  cls : Nat
  /-- the cycle in which it came, for the oldest keep line (R90) -/
  age : Nat
  /-- it stands in way 7 of its set (R88) -/
  way7 : Bool
  deriving DecidableEq, Repr

/-- A translation in the memory-side TLB (R64): its size (0 4 KiB, 1 2 MiB, 2 1 GiB, 3 a 64 KiB CONTIG group), its
entry word, that of the first of a group, and where the dirty bitmap of a 2 MiB leaf stands. -/
structure TlbEntry where
  size : Nat
  entry : Word
  bitmap : Nat
  deriving DecidableEq, Repr

/-- A sector tag (R343). -/
structure Tag where
  gslot : Nat
  phase : Nat
  wid : Option Nat
  wmask : BitVec 32
  rsum : Nat
  rid : Nat
  aop : Nat
  aret : Bool
  aid : Nat
  amany : Bool
  deriving DecidableEq, Repr

/-- A second-tier port (R376). -/
structure Port where
  base : Nat
  size : Nat
  enabled : Bool
  up : Bool
  deriving DecidableEq, Repr

/-- A physical line in the memory-side cache (R82): its valid 64-byte sectors, its dirty bytes, and where the dirty
bitmap of its leaf stands, 0 for none (R68). -/
structure MscLine where
  data : Line
  valid : Line
  dirty : Line
  /-- its poisoned bytes (R89) -/
  poison : Line
  bitmap : Nat
  /-- the cycle in which it came -/
  age : Nat
  deriving DecidableEq, Repr

/-- A device line that a host caches (R278): whether for writing, whether it has been asked to give it up, and its bytes
there once the host has changed them. -/
structure HostLine where
  write : Bool
  asked : Bool
  data : Option Line
  deriving DecidableEq, Repr

/-- A die: its home agent, its L2, its stack engines and its Pruner cores. -/
structure Die where
  sdtBase : Word
  ownBase : Word
  cntBase : Word
  ringBase : Word
  ringSize : Word
  actThresh : Word
  peerBase : Word
  elogBase : Word
  tlb : OMap TlbEntry
  l2 : OMap L2Line
  tags : OMap Tag
  /-- sectors whose tags an evicted line left in the overflow store (R343), and those whose current tags found no room
  there -/
  overflow : List Nat
  lostTags : List Nat
  sieves : OMap Sieve
  /-- elements written into SIEVE pages that are still to be fed: space, address, and the bits as the write left them
  (R76) -/
  feeds : List (Nat × Nat × Nat)
  /-- accepted mask requests in order (R303) -/
  jobs : List Nat
  ports : OMap Port
  /-- DEC-TED mode (R88) -/
  decTed : Bool
  corrected : SMap Nat
  /-- the memory-side cache, by physical line number (R82) -/
  msc : OMap MscLine
  /-- lines a host caches through this die's port (R278) -/
  hostLines : OMap HostLine
  /-- poisoned bytes of physical memory, behind the memory-side cache (R89) -/
  poison : SMap Bool
  deriving DecidableEq, Repr

/-! ### The host side -/

/-- A host work queue (R372). -/
structure Queue where
  ring : Word
  depthLog : Nat
  space : Nat
  prio : Nat
  err : Bool
  en : Bool
  handler : Word
  arena : Word
  arenaSize : Word
  cons : Nat
  prod : Nat
  deriving DecidableEq, Repr

/-- The boot state of the management controller (R381): before its ROM has run, running, or in recovery from the
failure of a stage. -/
inductive Boot where
  | rom | running | recovery (stage : Nat)
  deriving DecidableEq, Repr

/-- The mailbox (R382). -/
structure Mailbox where
  cmd : Word
  arg0 : Word
  arg1 : Word
  status : Word
  resp : Word
  deriving DecidableEq, Repr

/-- A message the package has sent to its host or over the fabric (R144, R277, R278, R377): a kind, an
address or identifier, and bytes. Log 18 (DESIGN CHOICE). -/
structure Message where
  kind : Nat
  addr : Nat
  data : List Byte
  deriving DecidableEq, Repr

/-! ### Issue -/

/-- How the word at issue ended. -/
inductive IssueRes where
  | none
  | done
  | trapped (t : Trap)
  | blocked
  deriving DecidableEq, Repr

/-- What a trap after its set will be taken for (R19): the software traps of the C pipe. -/
structure IssueCtx where
  blk : Nat
  grp : Nat
  run : Mask
  /-- the guard a word without a g field inherits (R16) -/
  inherited : Mask
  pc : Word
  /-- the PC of the word itself within its set -/
  wpc : Word
  next : Word
  /-- the word as encoded, for a trap's detail -/
  word : Word32
  /-- the group and stream as they stood before the set (R19) -/
  snap : Option (Group × Word × Word)
  /-- numbers of accesses and results from before the set are below it -/
  before : Nat
  /-- flags raised by the words of the set so far (R159) -/
  raised : Flags
  res : IssueRes
  deriving DecidableEq, Repr

/-- Who moves next, where a schedule says so. Without one, `step` follows its own order.
Log 6 (DESIGN CHOICE), 68 (DESIGN CHOICE). -/
inductive Choice where
  | auto
  | event (k : Nat)
  | issue (blk grp : Nat)
  /-- the host, a peer or a pin acts -/
  | input (i : Instr)
  /-- the host writes, in its own cache, a line that it has taken for writing (R278) -/
  | hostStore (die line : Nat) (data : Line)
  /-- a line leaves an L1, replaced or with a parity error (R84) -/
  | evictL1 (core key : Nat)
  /-- a line leaves an L2, where the class order of its set lets it (R90) -/
  | evictL2 (die key : Nat)
  | evictTlb (die key : Nat)
  | evictSummary (core key : Nat)
  /-- an uncorrectable error in the sector of a byte of memory, or of a line of an L2 (R89) -/
  | poison (die addr : Nat)
  | poisonL2 (die key off : Nat)
  | corrected (die kind : Nat)
  /-- the pass that a core's matrix engine runs fails its checksums (R242) -/
  | mismatch (core : Nat)
  /-- the two issues of a group's next words differ (R368) -/
  | twin (blk grp : Nat)
  deriving DecidableEq, Repr

/-- The package. -/
structure State where
  /-- physical memory, keyed die·2^52 + physical address (R61) -/
  mem : SMap Byte
  blocks : OMap Block
  grids : OMap Grid
  cmds : OMap Command
  cores : OMap Core
  die0 : Die
  die1 : Die
  queues : OMap Queue
  /-- frame slices in use: grid, queue, base, size (R375) -/
  arenas : List (Nat × Nat × Nat × Nat)
  /-- chip-node counters of priorities passed over, and round-robin places (R322, R323) -/
  passed : SMap Nat
  passedCore : SMap Nat
  rr : SMap Nat
  /-- clusters set to fused L1, numbered 6·die + cluster (R85) -/
  fused : SMap Bool
  mailbox : Mailbox
  boot : Boot
  /-- the measurement register M (R381) -/
  measure : List Byte
  powerCap : Nat
  /-- the main clock in MHz (R383) -/
  clock : Nat
  messages : List Message
  cycles : Word
  /-- the next unique number, and how many free values have been taken -/
  fresh : Nat
  free : Nat
  /-- identifiers that acceptance hands to grids (R318) -/
  gridIds : List Nat
  /-- pending events, oldest first, and the schedule -/
  agenda : List Instr
  script : List Choice
  cur : Option IssueCtx
  deriving DecidableEq, Repr

/-- Why a step stops. -/
inductive Fault where
  /-- a word was given to `exec` with no word at issue; raised by `issueWord` alone and by no step of a run
  (safe) -/
  | notAtIssue
  deriving DecidableEq, Repr

/-- Why an instruction has no meaning. -/
inductive Refusal where
  /-- an instruction that this model does not give its meaning (safe) -/
  | notModelled (mnemonic : String)
  deriving DecidableEq, Repr

/-! ### Defaults and reset -/

def Barrier.zero : Barrier := ⟨0, 0⟩

def BedLine.fresh : BedLine := ⟨0, false, none⟩

/-- Log 2 (DESIGN CHOICE). -/
def Core.zero : Core := ⟨[], [], [], Matrix.zero, 0, false, false⟩

/-- Log 2 (DESIGN CHOICE). -/
def Port.zero : Port := ⟨0, 0, false, false⟩

/-- Log 2 (DESIGN CHOICE). -/
def Die.zero : Die :=
  { sdtBase := 0, ownBase := 0, cntBase := 0, ringBase := 0, ringSize := 0, actThresh := 0, peerBase := 0,
    elogBase := 0, tlb := [], l2 := [], tags := [], overflow := [], lostTags := [], sieves := [], feeds := [], jobs := [], ports := [],
    decTed := false, corrected := [], msc := [], hostLines := [], poison := [] }

/-- An entry of the queue table as reset leaves it: all zero (R372). -/
def Queue.zero : Queue := ⟨0, 0, 0, 0, false, false, 0, 0, 0, 0, 0⟩

/-- A group before its start state is written (R149). -/
def Group.zero : Group :=
  { v := [], u := [], p := [], pc := [], live := 0, yielded := 0, lfsr := [], smode := 1, flags := 0,
    flagen := 0, cause := 0, detail0 := 0, detail1 := 0, detail2 := 0, epc := 0, emask := 0, handler := 0,
    frame := 0, caprec := 0, hscr0 := 0, hscr1 := 0, hscr2 := 0, hscr3 := 0, level := false, pendV := 0,
    pendS := 0, pendP := 0, queues := [], outs := [], loads := [], ready := [], record0 := none,
    park := none, more := [], switchDue := false, twinBad := false, kept := none, keptMore := [], keptSwitch := false,
    trapPend := none, waitOk := false, cap := none, posted := [], lastCap := none, cancelTaken := false,
    ended := false, phases := 0, seq := 0, quadrant := 0, active := false, activeAt := 0, bornAt := 0,
    parkedAt := 0 }

/-- A block before its start state is written. -/
def Block.zero : Block :=
  { grid := 0, id := 0, lcore := 0, core := 0, space := 0, life := .waiting, outcome := .pending, cause := 0,
    groups := [], rkey := 0, rctr := 0, issued := [], done := [], bars := [], bedLines := 0, bed := [],
    bedMeta := [], plots := [], held := [], commits := [], count := 0, relaunches := 0, posted := [],
    sieve := [], bframe := 0, since := 0, saving := false, bedTaken := false, paused := false, stash := [], stashSieve := [], stashMx := [],
    ownedMx := false, keptMx := Matrix.zero, displaced := false, flawed := false, job := none }

/-- A grid before its launch is read. -/
def Grid.zero : Grid :=
  { state := .accepted, graph := false, parent := none, q8 := none, depth := 0, prio := 0, space := 0,
    queue := 0, handler := 0, entry := 0, blocks := 0, lcores := 0, bedLines := 0, groups := 0, smode := 1,
    determ := false, twin := true, team := 0, plots := [], args := 0, rkey := 0, rctr := 0, bitmap := 0,
    status := 0, ctrap := false, preempt := 0, taken := [], slice := none, phase := 0, slotmask := 0,
    iter := 0, cancelled := false, failedN := 0, cancelledN := 0, doneN := 0, bad := false, node := 0,
    loops := [], mask := none, child := none, remap := [], ranges := [], ended := [], rebound := [],
    waitAt := [], since := 0, order := 0, gslot := 0 }

/-- The package right after reset (R152, R225, R371, R372, R381): every register the manual gives a reset
value has it, no grid is live, and the boot ROM is about to verify its first stage.
Log 2 (DESIGN CHOICE), 3 (DESIGN CHOICE). -/
def State.reset : State :=
  { mem := [], blocks := [], grids := [], cmds := [], cores := [], die0 := Die.zero, die1 := Die.zero,
    queues := [], arenas := [], passed := [], passedCore := [], rr := [], fused := [],
    mailbox := ⟨0, 0, 0, 0, 0⟩, boot := .rom, measure := List.replicate 32 0, powerCap := 2800, clock := 2100,
    messages := [], cycles := 0, fresh := 1, free := 0, gridIds := [], agenda := [.deviceReset], script := [],
    cur := none }

end Sys2Proof.Machine
end

