-- ==== Sys2Proof/Machine/Base.lean ====
section
/-!
DEFINITION. Reading and changing the parts of the state: blocks, groups, grids, cores, dies, registers, lanes,
lines of 128 bytes and the list of pending events.
-/

namespace Sys2Proof.Machine

/-- An entry put before the first one that it goes before. -/
def insertBy {α : Type} (before : α → α → Bool) (x : α) : List α → List α
  | [] => [x]
  | y :: l => if before x y then x :: y :: l else y :: insertBy before x l

/-- A list in order; entries of which each goes before the other stay as they stand. -/
def sortBy {α : Type} (before : α → α → Bool) (l : List α) : List α := l.foldr (insertBy before) []

/-! ### Lanes and lines -/

/-- The lanes of a mask, in ascending order. -/
def lanesOf (m : Mask) : List Nat := (List.range 32).filter fun L => m.getLsbD L

/-- The mask of the lanes that satisfy `f`. -/
def maskOf (f : Nat → Bool) : Mask :=
  (List.range 32).foldl (fun m L => if f L then m ||| BitVec.twoPow 32 L else m) 0

/-- The lowest lane of a mask, 0 for an empty one. -/
def lowest (m : Mask) : Nat := (lanesOf m).headD 0

/-- One value per lane. -/
def perLane {α : Type} (f : Nat → α) : List α := (List.range 32).map f

/-- Bytes [off+n-1:off] of a line, as a mask. -/
def bytesMask (off n : Nat) : Line := BitVec.ofNat 1024 ((2 ^ (8 * n) - 1) * 2 ^ (8 * off))

/-- The n bytes at off of a line, little-endian. -/
def lineGet (d : Line) (off n : Nat) : Nat := d.toNat / 2 ^ (8 * off) % 2 ^ (8 * n)

/-- A line that holds the n bytes v at off and is zero elsewhere. -/
def linePut (v off n : Nat) : Line := BitVec.ofNat 1024 (v % 2 ^ (8 * n) * 2 ^ (8 * off))

/-- `new` where the mask holds, `old` elsewhere. -/
def lineMerge (old new mask : Line) : Line := (old &&& ~~~mask) ||| (new &&& mask)

/-- Every byte of `a` is in `b`. -/
def lineSub (a b : Line) : Bool := a &&& ~~~b == 0

/-- The 32-byte sectors that a mask touches (R82). -/
def sectorsOf (m : Line) : Line :=
  (List.range 4).foldl
    (fun r k => if m &&& bytesMask (32 * k) 32 == 0 then r else r ||| bytesMask (32 * k) 32) 0

/-- The 32-byte sectors that a mask covers whole. -/
def sectorsWithin (m : Line) : Line :=
  (List.range 4).foldl (fun r k => if lineSub (bytesMask (32 * k) 32) m then r ||| bytesMask (32 * k) 32 else r) 0

/-- The numbers of the sectors that a mask touches. -/
def sectorList (m : Line) : List Nat := (List.range 4).filter fun k => m &&& bytesMask (32 * k) 32 != 0

/-- The line number of an address. -/
def lineNo (va : Word) : Nat := va.toNat / 128

/-- The place of an address in its line. -/
def lineOff (va : Word) : Nat := va.toNat % 128

/-- A list of bytes as a little-endian number. -/
def leBytes : List Byte → Nat
  | [] => 0
  | b :: t => b.toNat + 256 * leBytes t

/-- The n low bytes of a number, lowest first. -/
def bytesLe : Nat → Nat → List Byte
  | 0, _ => []
  | n + 1, v => BitVec.ofNat 8 v :: bytesLe n (v / 256)

/-- Bits [lo+n-1:lo] of a word as a number. -/
def bits (w : Word) (lo n : Nat) : Nat := w.toNat / 2 ^ lo % 2 ^ n

/-! ### Objects of the state -/

def State.blk (s : State) (b : Nat) : Block := (oget s.blocks b).getD Block.zero

def State.setBlk (s : State) (b : Nat) (x : Block) : State := { s with blocks := oset s.blocks b x }

/-- A block that there is, changed. -/
def State.updBlk (s : State) (b : Nat) (f : Block → Block) : State :=
  match oget s.blocks b with
  | none => s
  | some x => s.setBlk b (f x)

def Block.grp (x : Block) (g : Nat) : Group := (oget x.groups g).getD Group.zero

def Block.setGrp (x : Block) (g : Nat) (y : Group) : Block := { x with groups := oset x.groups g y }

def State.grp (s : State) (b g : Nat) : Group := (s.blk b).grp g

def State.setGrp (s : State) (b g : Nat) (y : Group) : State := s.setBlk b ((s.blk b).setGrp g y)

/-- A group that there is, changed. -/
def State.updGrp (s : State) (b g : Nat) (f : Group → Group) : State :=
  s.updBlk b fun x =>
    match oget x.groups g with
    | none => x
    | some y => x.setGrp g (f y)

def State.grid (s : State) (n : Nat) : Grid := (oget s.grids n).getD Grid.zero

def State.setGrid (s : State) (n : Nat) (x : Grid) : State := { s with grids := oset s.grids n x }

def State.updGrid (s : State) (n : Nat) (f : Grid → Grid) : State :=
  match oget s.grids n with
  | none => s
  | some x => s.setGrid n (f x)

/-- The grid of a block. -/
def State.gridOf (s : State) (b : Nat) : Grid := s.grid (s.blk b).grid

def State.cmd (s : State) (c : Nat) : Option Command := oget s.cmds c

def State.updCmd (s : State) (c : Nat) (f : Command → Command) : State := { s with cmds := oupd s.cmds c f }

def State.core (s : State) (k : Nat) : Core := (oget s.cores k).getD Core.zero

def State.updCore (s : State) (k : Nat) (f : Core → Core) : State :=
  { s with cores := oset s.cores k (f (s.core k)) }

def State.die (s : State) (d : Nat) : Die := if d = 0 then s.die0 else s.die1

def State.updDie (s : State) (d : Nat) (f : Die → Die) : State :=
  if d = 0 then { s with die0 := f s.die0 } else { s with die1 := f s.die1 }

def State.queue (s : State) (q : Nat) : Queue := (oget s.queues q).getD Queue.zero

def State.updQueue (s : State) (q : Nat) (f : Queue → Queue) : State :=
  { s with queues := oset s.queues q (f (s.queue q)) }

/-- The die of a core, which is numbered die·96 + cluster·16 + core; a Pruner core is 192 + die·8 + its number. -/
def dieOfCore (k : Nat) : Nat := if 192 ≤ k then (k - 192) / 8 else k / 96

/-- The cluster of a core, numbered die·6 + cluster. -/
def clusterOfCore (k : Nat) : Nat := k / 16

/-- PCORE of a core (R152). A Pruner core gives its die and its number there. Log 73 (DEDUCED). -/
def pcoreOf (k : Nat) : Word :=
  BitVec.ofNat 64 (if 192 ≤ k then (k - 192) / 8 * 128 + (k - 192) % 8 else k / 96 * 128 + k / 16 % 6 * 16 + k % 16)

/-- The core whose array holds the L1 lines of core k: its own, or the cluster's one cache when it is fused
(R85). -/
def State.l1Core (s : State) (k : Nat) : Nat := if sget false s.fused (clusterOfCore k) then k / 16 * 16 else k

/-- The die a block runs on. -/
def State.dieOf (s : State) (b : Nat) : Nat := dieOfCore (s.blk b).core

/-- A fresh number. -/
def State.tick (s : State) : State := { s with fresh := s.fresh + 1 }

/-- A value that the manual leaves open. Log 9 (DESIGN CHOICE). -/
def State.takeFree (s : State) : Word × State := (Config.freeWord s.free, { s with free := s.free + 1 })

/-- An event put at the end of the agenda. -/
def State.post (s : State) (i : Instr) : State := { s with agenda := s.agenda ++ [i] }

/-- Events put at the end of the agenda. -/
def State.postAll (s : State) (l : List Instr) : State := { s with agenda := s.agenda ++ l }

/-- An event put there unless it already waits. -/
def State.postOnce (s : State) (i : Instr) : State := if s.agenda.contains i then s else s.post i

/-- A message that leaves the package. Log 18 (DESIGN CHOICE). -/
def State.send (s : State) (kind addr : Nat) (data : List Byte) : State :=
  { s with messages := s.messages ++ [⟨kind, addr, data⟩] }

/-! ### Registers -/

/-- vR of a lane (R149). -/
def Group.rv (y : Group) (r L : Nat) : Word := sget 0 y.v (32 * r + L)

/-- sR (R149, R150). -/
def Group.rs (y : Group) (r : Nat) : Word := sget 0 y.u r

/-- pN, one bit per lane; p127 reads as true (R14). -/
def Group.rp (y : Group) (n : Nat) : Mask := if n = 127 then BitVec.allOnes 32 else sget 0 y.p n

/-- The lanes in which a guard holds (R14). -/
def Group.guard (y : Group) (g : BitVec 4) : Mask :=
  let m := if g.extractLsb' 0 3 == 7 then BitVec.allOnes 32 else y.rp (g.extractLsb' 0 3).toNat
  if g.getLsbD 3 then ~~~m else m

/-- Register r of a lane-register map written in the lanes of a mask. -/
def setLanes (v : SMap Word) (r : Nat) (m : Mask) (f : Nat → Word) : SMap Word :=
  (lanesOf m).foldl (fun v L => sset 0 v (32 * r + L) (f L)) v

def Group.wv (y : Group) (r : Nat) (m : Mask) (f : Nat → Word) : Group := { y with v := setLanes y.v r m f }

def Group.ws (y : Group) (r : Nat) (x : Word) : Group := { y with u := sset 0 y.u r x }

/-- The lanes of a mask of pN set to those of another; a write to p127 is discarded (R14). -/
def Group.wp (y : Group) (n : Nat) (m val : Mask) : Group :=
  if n = 127 then y else { y with p := sset 0 y.p n ((sget 0 y.p n &&& ~~~m) ||| (val &&& m)) }

/-- The PC of a lane (R283). -/
def Group.lanePc (y : Group) (L : Nat) : Word := sget 0 y.pc L

/-- The PC of the lanes of a mask set. -/
def Group.setPc (y : Group) (m : Mask) (f : Nat → Word) : Group :=
  { y with pc := (lanesOf m).foldl (fun p L => sset 0 p L (f L)) y.pc }

/-- The LFSR of a lane. -/
def Group.lf (y : Group) (L : Nat) : Word32 := sget 0 y.lfsr L

/-- The LFSRs of the lanes of a mask set. -/
def Group.setLf (y : Group) (m : Mask) (f : Nat → Word32) : Group :=
  { y with lfsr := (lanesOf m).foldl (fun p L => sset 0 p L (f L)) y.lfsr }

/-- A pending bit (R21). -/
def Group.isPending (y : Group) (file r : Nat) : Bool :=
  if file = 0 then y.pendV.getLsbD r else if file = 1 then y.pendS.getLsbD r else r != 127 && y.pendP.getLsbD r

def RegFile.code : RegFile → Nat
  | .v => 0
  | .s => 1
  | .p => 2

/-- A pending bit set or cleared (R17, R21); p127 has none (R14). -/
def Group.setPending (y : Group) (f : RegFile) (r : Nat) (on : Bool) : Group :=
  match f with
  | .v => { y with pendV := if on then y.pendV ||| BitVec.twoPow 32 r else y.pendV &&& ~~~BitVec.twoPow 32 r }
  | .s => { y with pendS := if on then y.pendS ||| BitVec.twoPow 32 r else y.pendS &&& ~~~BitVec.twoPow 32 r }
  | .p =>
    if r = 127 then y
    else { y with pendP := if on then y.pendP ||| BitVec.twoPow 128 r else y.pendP &&& ~~~BitVec.twoPow 128 r }

/-- What its words can write of a group, as it stands. -/
def Group.regs (y : Group) : Regs :=
  ⟨y.v, y.u, y.p, y.lfsr, y.smode, y.flags, y.flagen, y.queues, y.outs, y.pendV, y.pendS, y.pendP⟩

/-- A group with what its words can write put back. -/
def Group.withRegs (y : Group) (r : Regs) : Group :=
  { y with
    v := r.v, u := r.u, p := r.p, lfsr := r.lfsr, smode := r.smode, flags := r.flags, flagen := r.flagen
    queues := r.queues, outs := r.outs, pendV := r.pendV, pendS := r.pendS, pendP := r.pendP }

/-- What a parked group waits for first. -/
def Group.await (y : Group) : Option Await := y.park.map fun p => p.what

/-- The parks of a group: more than one where several words of a chained set wait (R19). -/
def Group.parks (y : Group) : List Park := y.park.toList ++ y.more

/-- A group with some parks. -/
def Group.withParks (y : Group) (l : List Park) : Group := { y with park := l.head?, more := l.tail }

/-- One of the things that a group waits for is such. -/
def Group.waitsFor (y : Group) (f : Await → Bool) : Bool := y.parks.any fun p => f p.what

/-! ### The lane PC table (R283, R284) -/

/-- The candidates for the head run: the live lanes that are not yielded, or every live lane where none is
left (R284 steps 1 and 2). `live` holds the lanes that have not exited. -/
def Group.candidates (y : Group) : Mask := if y.live &&& ~~~y.yielded == 0 then y.live else y.live &&& ~~~y.yielded

/-- The lowest PC of the lanes of a mask. -/
def Group.minPc (y : Group) (m : Mask) : Word :=
  match lanesOf m with
  | [] => 0
  | L :: t => t.foldl (fun w k => if y.lanePc k < w then y.lanePc k else w) (y.lanePc L)

/-- The head run and its PC (R284). -/
def Group.headRun (y : Group) : Mask × Word :=
  let c := y.candidates
  let w := y.minPc c
  (maskOf fun L => c.getLsbD L && y.lanePc L == w, w)

/-- Step 2 of R284 taken: yielded lanes are live again when no other lane is a candidate. -/
def Group.settle (y : Group) : Group := if y.live &&& ~~~y.yielded == 0 then { y with yielded := 0 } else y

/-! ### Outstanding results -/

/-- The group has a variable-latency result outstanding (R20). At handler level only the handler's own count:
destinations of the program's faulted loads stay pending (R354). -/
def Group.outstanding (y : Group) : Bool :=
  y.outs.any (fun _ => true) || y.loads.any fun a => !y.level || a.handler

/-- The late store buffer entries of a group on its core. -/
def State.entriesOf (s : State) (b g : Nat) : List Access :=
  (s.core (s.blk b).core).lsb.filter fun a => a.blk == b && a.grp == g

end Sys2Proof.Machine
end

