-- ==== Sys2Proof/Machine/Memory.lean ====
section
/-!
DEFINITION. Physical memory, the walk of the page tables, the memory-side TLB, the permission summary, the
frame owner table, the rings of a home agent, and reads and writes at the point of coherence (R52 to R70, R86,
R376).
-/

namespace Sys2Proof.Machine

/-! ### Addresses -/

/-- Home(va) (R5, R52). -/
def homeOf (va : Word) : Nat := bits va 51 2

/-- The die that owns an address (R52). -/
def ownerOf (va : Word) : Nat := homeOf va % 2

/-- The canonical rule (R53). -/
def canonical (va : Word) : Bool := bits va 53 11 == 0

/-- The key of a virtual line of a space in the L1s and the L2s (R54). -/
def lineKey (space line : Nat) : Nat := space * 2 ^ 46 + line

/-- The owning die of a virtual line. -/
def ownerOfLine (line : Nat) : Nat := line / 2 ^ 44 % 2

/-- The last byte of the HBM range of a die, plus one (R61). -/
def hbmEnd : Nat := 0x3B9ACA0000

def inHbm (pa : Nat) : Bool := decide (pa < hbmEnd)

def inCxl (pa : Nat) : Bool := decide (0x100000000000 ≤ pa ∧ pa ≤ 0x17FFFFFFFFFF)

/-- The host memory windows (R61). Log 69 (DESIGN CHOICE). -/
def inHost (pa : Nat) : Bool := decide (0x1000000000000 ≤ pa ∧ pa ≤ 0x1FFFFFFFFFFFF)

/-- The second-tier port of a die that decodes an address (R376). -/
def Die.portOf (d : Die) (pa : Nat) : Option (Nat × Port) :=
  (oitems d.ports).find? fun p => p.2.enabled && decide (p.2.base ≤ pa) && decide (pa < p.2.base + p.2.size)

/-- A physical address lies in a range of the home (R61); one in the expander range must have a decoder
(R376). -/
def Die.inRange (d : Die) (home pa : Nat) : Bool :=
  if home < 2 then inHbm pa else inHost pa || (inCxl pa && (d.portOf pa).isSome)

/-- Reads of that address are poisoned and writes dropped, its port's link being down (R376). -/
def Die.linkDown (d : Die) (pa : Nat) : Bool :=
  inCxl pa && match d.portOf pa with
    | some p => !p.2.up
    | none => false

/-! ### Physical memory -/

/-- The key of a physical byte of a die. -/
def physKey (d pa : Nat) : Nat := d * 2 ^ 52 + pa

/-- A byte of physical memory, through the memory-side cache (R68, R86). Log 1 (DESIGN CHOICE). -/
def State.physByte (s : State) (d pa : Nat) : Byte :=
  match (oget (s.die d).msc (pa / 128)).filter fun x => x.valid.getLsbD (8 * (pa % 128)) with
  | some x => BitVec.ofNat 8 (lineGet x.data (pa % 128) 1)
  | none => sget 0 s.mem (physKey d pa)

def State.physRead (s : State) (d pa n : Nat) : Nat := leBytes ((List.range n).map fun i => s.physByte d (pa + i))

/-- The canonical form of physical memory: addresses rise strictly, and no listed byte is 0, what an unlisted address
reads as. Log 1 (DESIGN CHOICE). -/
abbrev Memory.wf (m : SMap Byte) : Bool := swf 0 m

/-- A byte written by the home agent itself, which has no leaf and so no dirty bit: to memory, and to the memory-side
cache where that has it. -/
def State.setPhysByte (s : State) (d pa : Nat) (b : Byte) : State :=
  let s1 : State := { s with mem := sset 0 s.mem (physKey d pa) b }
  if (oget (s.die d).msc (pa / 128)).isSome then
    s1.updDie d fun y => { y with msc := oupd y.msc (pa / 128) fun x => { x with
      data := lineMerge x.data (linePut b.toNat (pa % 128) 1) (bytesMask (pa % 128) 1) } }
  else s1

def State.physWriteBytes (s : State) (d pa : Nat) : List Byte → State
  | [] => s
  | b :: t => (s.setPhysByte d pa b).physWriteBytes d (pa + 1) t

def State.physWrite (s : State) (d pa n v : Nat) : State := s.physWriteBytes d pa (bytesLe n v)

/-- The bytes of a physical line behind the memory-side cache that a mask asks for. -/
def State.memLine (s : State) (d pa : Nat) (need : Line) : Line :=
  (List.range 128).foldl
    (fun r i => if need.getLsbD (8 * i) then r ||| linePut (sget 0 s.mem (physKey d (pa + i))).toNat i 1 else r) 0

/-- The bytes of a physical line that a mask asks for, through the memory-side cache. -/
def State.physLine (s : State) (d pa : Nat) (need : Line) : Line :=
  match oget (s.die d).msc (pa / 128) with
  | some x => (s.memLine d pa (need &&& ~~~x.valid)) ||| (x.data &&& x.valid &&& need)
  | none => s.memLine d pa need

/-- The poisoned bytes of a physical line of memory (R89). -/
def Die.memPoison (d : Die) (pa : Nat) : Line :=
  (List.range 128).foldl (fun r i => if sget false d.poison (pa + i) then r ||| bytesMask i 1 else r) 0

/-- The poisoned bytes of a physical line, as the memory-side cache and memory have it, were its port's link up. -/
def Die.storedPoison (d : Die) (pa : Nat) : Line :=
  match oget d.msc (pa / 128) with
  | some x => lineMerge (d.memPoison pa) x.poison x.valid
  | none => d.memPoison pa

/-- The poisoned bytes that a read of a physical line returns: the stored ones (R89), and behind a port whose link is down
every byte that the memory-side cache does not have (R376). -/
def State.physPoison (s : State) (d pa : Nat) : Line :=
  let x := s.die d
  x.storedPoison pa |||
    (if x.linkDown pa then (match oget x.msc (pa / 128) with | some m => ~~~m.valid | none => BitVec.allOnes 1024) else 0)

/-! ### The walk (R56 to R61) -/

/-- What a walk finds. -/
inductive Walk where
  /-- V = 0 at some level -/
  | absent
  /-- a walk error; the frame that failed, or 0 -/
  | bad (frame : Nat)
  /-- a leaf: its size code (R64), its base, its entry, and its dirty bitmap for a 2 MiB leaf (R68), else 0; of a CONTIG
  group the base and the entry of its first leaf -/
  | leaf (size base : Nat) (entry : Word) (bitmap : Nat)
  deriving DecidableEq, Repr

/-- The bytes a leaf of a size code maps, or a CONTIG group (R58, R59). -/
def leafBytes (size : Nat) : Nat :=
  if size = 0 then 2 ^ 12 else if size = 1 then 2 ^ 21 else if size = 2 then 2 ^ 30 else 2 ^ 16

/-- The W0 fields of a table entry (R59). -/
def entryW0 (e : Word) : Bool := bits e 61 3 != 0 || bits e 52 6 != 0 || bits e 8 4 != 0 || bits e 1 2 != 0

/-- The PA field of an entry. -/
def entryPa (e : Word) : Nat := bits e 12 40 * 2 ^ 12

/-- The sixteen entries of a CONTIG group map 64 KiB in order with equal attributes (R59). -/
def State.contigOk (s : State) (d table idx : Nat) : Bool :=
  let e0 := s.physRead d (table + 8 * (idx / 16 * 16)) 8
  (List.range 16).all fun k => s.physRead d (table + 8 * (idx / 16 * 16 + k)) 8 == e0 + k * 4096

/-- The entry of an address in a table of level 3 to 0: what ends the walk there, or the table below. An entry that is not
valid is not present, whatever its other fields. Log 103 (DEDUCED). -/
def State.walkEntry (s : State) (d home : Nat) (va : Word) (lvl table : Nat) : Except Walk Nat :=
  let idx := if lvl = 3 then bits va 39 12 else bits va (12 + 9 * lvl) 9
  let e : Word := BitVec.ofNat 64 (s.physRead d (table + 8 * idx) 8)
  if !e.getLsbD 0 then .error .absent
  else if entryW0 e then .error (.bad (entryPa e))
  else if e.getLsbD 6 then
    if lvl = 3 || (lvl != 0 && e.getLsbD 58) || (lvl == 0 && e.getLsbD 58 && !s.contigOk d table idx)
        || entryPa e % leafBytes lvl != 0 || !(s.die d).inRange home (entryPa e) then .error (.bad (entryPa e))
    else if e.getLsbD 58 then
      let e0 : Word := BitVec.ofNat 64 (s.physRead d (table + 8 * (idx / 16 * 16)) 8)
      .error (.leaf 3 (entryPa e0) e0 0)
    else .error (.leaf lvl (entryPa e) e (if lvl = 1 then table + 0x1000 + 64 * idx else 0))
  else if lvl = 0 || bits e 58 3 != 0 || e.getLsbD 7 || bits e 3 3 != 0 || !inHbm (entryPa e) then
    .error (.bad (entryPa e))
  else .ok (entryPa e)

/-- The walk from a table on, which is that of level 3 to 0. Log 12 (DEDUCED), 13 (DEDUCED). -/
def State.walkFrom (s : State) (d home : Nat) (va : Word) : Nat → Nat → Walk
  | 0, table =>
    match s.walkEntry d home va 0 table with
    | .error w => w
    | .ok t => .bad t
  | l + 1, table =>
    match s.walkEntry d home va (l + 1) table with
    | .error w => w
    | .ok t => s.walkFrom d home va l t

/-- The walk of an address in a space (R57, R60). Log 13 (DEDUCED), 103 (DEDUCED). -/
def State.walk (s : State) (space : Nat) (va : Word) : Walk :=
  let h := homeOf va
  let d := h % 2
  let root : Word := BitVec.ofNat 64 (s.physRead 0 ((s.die d).sdtBase.toNat + 64 * space + 8 * h) 8)
  if !root.getLsbD 0 then .absent
  else if bits root 52 12 != 0 || bits root 1 14 != 0 || !inHbm (bits root 15 37 * 2 ^ 15) then .bad 0
  else s.walkFrom d h va 3 (bits root 15 37 * 2 ^ 15)

/-! ### Waiting reads (R263, R301, R306, R310, R337) -/

/-- The addresses that a park reads again after a merge or atomic into their lines. -/
def Await.watched (caprec : Word) : Await → List Word
  | .waitm a _ => (List.range 32).filterMap fun L => if a.act.getLsbD L then some (a.va.getD L 0) else none
  | .maskw a .. => (List.range 32).filterMap fun L => if a.wait.getLsbD L then some (a.va.getD L 0) else none
  | .waitc a base _ => base :: (List.range 32).filterMap fun L => if a.act.getLsbD L then some (a.va.getD L 0) else none
  | .capb va .. => [va]
  | .capsule _ => [caprec]
  | _ => []

/-- A parked wait that watches a line reads its word again (R263). -/
def State.wake (s : State) (space line : Nat) : State :=
  (oitems s.blocks).foldl
    (fun s b =>
      if b.2.space != space then s
      else
        (oitems b.2.groups).foldl
          (fun s g =>
            if g.2.waitsFor fun w => (w.watched g.2.caprec).any fun va => lineNo va == line then
              s.postOnce (.waitReread b.1 g.1)
            else s) s) s

/-! ### The frame owner table (R62, R278) -/

/-- Where the record of a frame stands. Log 12 (DEDUCED). -/
def Die.ownerAddr (d : Die) (pa : Nat) : Nat := d.ownBase.toNat + 8 * (pa / 4096)

/-- The space and virtual address that the frame owner table gives a physical address: the record of its 4 KiB frame, or
that of the 2 MiB or 1 GiB leaf that holds it. Log 23 (DEDUCED). -/
def State.ownerOfPa (s : State) (d pa : Nat) : Option (Nat × Word) :=
  [0, 1, 2].findSome? fun size =>
    let base := pa / leafBytes size * leafBytes size
    let r : Word := BitVec.ofNat 64 (s.physRead d ((s.die d).ownerAddr base) 8)
    if r.getLsbD 63 && bits r 52 2 == size && bits r 41 11 == 0 then
      some (bits r 54 8, BitVec.ofNat 64 (bits r 0 41 * 4096 + pa % leafBytes size))
    else none

/-! ### The rings of a home agent (R70, R385) -/

def Die.l2At (d : Die) (key : Nat) : Option L2Line := oget d.l2 key

/-- The space and the virtual line under which a die's L2 holds a physical line, if it does. -/
def State.cachedAs (s : State) (d pa : Nat) : Option (Nat × Nat) :=
  if (s.die d).l2.isEmpty then none
  else
    match s.ownerOfPa d pa with
    | some o =>
      if ((s.die d).l2At (lineKey o.1 (lineNo o.2))).any fun x => x.pa == pa / 128 * 128 then some (o.1, lineNo o.2)
      else none
    | none => none

/-- n bytes of a line as its point of coherence has them, read by a home agent for itself. -/
def State.ringRead (s : State) (d pa n : Nat) : Nat :=
  match (s.cachedAs d pa).bind fun c => (s.die d).l2At (lineKey c.1 c.2) with
  | some x => lineGet (lineMerge (s.physLine d (pa / 128 * 128) (bytesMask (pa % 128) n)) x.data x.valid) (pa % 128) n
  | none => s.physRead d pa n

/-- n bytes of a line written there. What waits on the line reads it again (R263). -/
def State.ringWrite (s : State) (d pa n v : Nat) : State :=
  match s.cachedAs d pa with
  | some c =>
    let m := bytesMask (pa % 128) n
    (s.updDie d fun y => { y with l2 := oupd y.l2 (lineKey c.1 c.2) fun x => { x with
      data := lineMerge x.data (linePut v (pa % 128) n) m, valid := x.valid ||| m, dirty := x.dirty ||| m } }).wake c.1 c.2
  | none =>
    let s1 := s.physWrite d pa n v
    match s.ownerOfPa d pa with
    | some o => s1.wake o.1 (lineNo o.2)
    | none => s1

/-- An entry of `size` bytes put in the ring at `base` of `cap` entries: the entry, then PROD. A full ring sets
OVF instead. Log 83 (DEDUCED). -/
def State.ringPush (s : State) (d base cap size v : Nat) : State × Bool :=
  let prod := s.ringRead d base 8
  let cons := s.ringRead d (base + 8) 8
  if prod = (cons + cap) % 2 ^ 64 then
    (s.ringWrite d (base + 16) 8 (s.ringRead d (base + 16) 8 / 2 * 2 + 1), false)
  else
    ((s.ringWrite d (base + 64 + size * (prod % cap)) size v).ringWrite d base 8 ((prod + 1) % 2 ^ 64), true)

/-- An entry of kind 3 in a die's error log (R376, R385). Log 83 (DEDUCED). -/
def State.logPort (s : State) (d port : Nat) : State :=
  (s.ringPush d (s.die d).elogBase.toNat (s.die d).ringSize.toNat 32 (3 * 2 ^ 56 + port)).1

/-- A notification entry (R70). Log 83 (DEDUCED). -/
def State.notify (s : State) (d space : Nat) (va : Word) (kind : Nat) (wr : Bool) (pa info : Nat) : State × Bool :=
  s.ringPush d (s.die d).ringBase.toNat (s.die d).ringSize.toNat 16
    (space * 2 ^ 56 + bits va 16 37 * 2 ^ 16 + kind * 4 + (if wr then 2 else 0)
      + 2 ^ 64 * (pa / 2 ^ 16 % 2 ^ 36 * 2 ^ 16 + info))

/-- The record of a filling mapping. -/
def ownerRecord (space size : Nat) (va entry : Word) : Nat :=
  2 ^ 63 + (if entry.getLsbD 59 && !entry.getLsbD 4 then 2 ^ 62 else 0) + space * 2 ^ 54 + size * 2 ^ 52
    + bits va 0 53 / leafBytes size * (leafBytes size / 4096)

/-- The leaves that a fill brings in: base frame and first address of each (R59, R64). -/
def leafFrames (size base : Nat) (va : Word) : List (Nat × Word) :=
  if size = 3 then
    (List.range 16).map fun k => (base + 4096 * k, BitVec.ofNat 64 (bits va 0 53 / 2 ^ 16 * 2 ^ 16 + 4096 * k))
  else [(base, va)]

/-- The fill is refused as a mapping conflict. A record with a field that must be zero and is not conflicts. Log 102
(DESIGN CHOICE). Log 102 (DESIGN CHOICE). -/
def ownerConflict (old new : Nat) : Bool :=
  old / 2 ^ 63 % 2 == 1 && !(old / 2 ^ 62 % 2 == 1 && new / 2 ^ 62 % 2 == 1) &&
    old % 2 ^ 62 != new % 2 ^ 62

/-! ### Translation at the home (R60, R64, R65, R69) -/

/-- The key of a translation in the memory-side TLB (R64). -/
def tlbKey (size space : Nat) (va : Word) : Nat :=
  (size * 256 + space) * 2 ^ 53 + bits va 0 53 / leafBytes size * leafBytes size

/-- The entry of the TLB that maps an address, if there is one. -/
def Die.tlbFind (d : Die) (space : Nat) (va : Word) : Option TlbEntry :=
  (oget d.tlb (tlbKey 0 space va)).orElse fun _ =>
    (oget d.tlb (tlbKey 1 space va)).orElse fun _ =>
      (oget d.tlb (tlbKey 2 space va)).orElse fun _ => oget d.tlb (tlbKey 3 space va)

/-- The entries that the TLB holds of a kind: 1 GiB leaves, and all others (R64). -/
def tlbLimit (big : Bool) : Nat := if big then 1024 else 32768

/-- A translation put into the TLB (R64); where its kind has no entry free, another gives way.
Log 68 (DESIGN CHOICE). -/
def Die.tlbPut (d : Die) (key : Nat) (e : TlbEntry) : Die :=
  let big := e.size == 2
  let old := if d.tlb.length < tlbLimit big then [] else (oitems d.tlb).filter fun x => (x.2.size == 2) == big
  { d with tlb := oset (if old.length < tlbLimit big then d.tlb else odel d.tlb ((old.map (·.1)).headD 0)) key e }

/-- Permission bits: 1 R, 2 W, 4 X. -/
def permits (entry : Word) (need : Nat) : Bool := bits entry 3 3 &&& need == need

/-- A counted request (R69). Log 12 (DEDUCED). -/
def State.countAccess (s : State) (d space : Nat) (va : Word) (wr : Bool) (entry : Word) (pa : Nat) : State :=
  if homeOf va < 2 || !entry.getLsbD 7 then s
  else
    let at_ := (s.die d).cntBase.toNat + 2 * ((pa - 0x100000000000) / 65536)
    let w := s.physRead d at_ 2
    let c := w % 2 ^ 15 + 1
    let th := (s.die d).actThresh.toNat
    if w / 2 ^ 15 = 1 then s.physWrite d at_ 2 (2 ^ 15 + min c 0x7FFF)
    else if c < th then s.physWrite d at_ 2 c
    else
      let r := s.notify d space va 0 wr pa th
      if r.2 then r.1.physWrite d at_ 2 (2 ^ 15 + min c 0x7FFF) else r.1.physWrite d at_ 2 th

/-- What a translation answers once a leaf governs the address; `count` says that the request was not served by an L2
(R69). -/
def State.finishXlate (s : State) (d space : Nat) (va : Word) (need : Nat) (e : TlbEntry) (count : Bool := true) :
    State × Xlate :=
  let pa := entryPa e.entry + bits va 0 53 % leafBytes e.size
  if !(s.die d).inRange (homeOf va) pa then ((s.notify d space va 1 (need &&& 2 != 0) pa 1).1, ⟨4, 0, 0, 0⟩)
  else if !permits e.entry need then (s, ⟨5, pa, e.entry, e.bitmap⟩)
  else (if count then s.countAccess d space va (need &&& 2 != 0) e.entry pa else s, ⟨0, pa, e.entry, e.bitmap⟩)

/-- The owner records of a fill: where each stands, what it holds, and what the fill would write. A 64 KiB group has one for
each of its frames. Log 12 (DEDUCED), 102 (DESIGN CHOICE). -/
def State.ownerChecks (s : State) (d space size base : Nat) (va entry : Word) : List (Nat × Nat × Nat) :=
  (leafFrames size base va).map fun f =>
    let at_ := (s.die d).ownerAddr f.1
    (at_, s.physRead d at_ 8, ownerRecord space (if size = 3 then 0 else size) f.2 entry)

/-- The translation of one request at its home agent (R60, R64): the TLB, else a walk, the owner records and a
fill. `need` has the permission bits of the access. Log 91 (DEDUCED). -/
def State.translate (s : State) (space : Nat) (va : Word) (need : Nat) (count : Bool := true) : State × Xlate :=
  let d := ownerOf va
  match (s.die d).tlbFind space va with
  | some e => s.finishXlate d space va need e count
  | none =>
    match s.walk space va with
    | .absent => (s, ⟨4, 0, 0, 0⟩)
    | .bad f => ((s.notify d space va 1 (need &&& 2 != 0) f 1).1, ⟨4, 0, 0, 0⟩)
    | .leaf size base entry bitmap =>
      let recs := s.ownerChecks d space size base va entry
      if recs.any fun r => ownerConflict r.2.1 r.2.2 then
        ((s.notify d space va 1 (need &&& 2 != 0) base 2).1, ⟨4, 0, 0, 0⟩)
      else
        let e : TlbEntry := ⟨size, entry, bitmap⟩
        let r := s.finishXlate d space va need e count
        if r.2.code = 0 then
          let s1 := recs.foldl (fun t x => if x.2.1 / 2 ^ 63 % 2 = 0 then t.physWrite d x.1 8 x.2.2 else t) r.1
          (s1.updDie d fun x => x.tlbPut (tlbKey size space va) e, r.2)
        else r

/-! ### The permission summary (R66, R67) -/

/-- The summary entry and subtable of an address, as memory holds them now. Log 12 (DEDUCED). -/
def State.readSummary (s : State) (space : Nat) (va : Word) : Word × List Byte :=
  let base := s.physRead 0 (s.die0.sdtBase.toNat + 64 * space + 32) 8
  let e : Word := BitVec.ofNat 64 (s.physRead 0 (base + homeOf va * 2 ^ 24 + 8 * bits va 30 21) 8)
  (e, if e.getLsbD 3 then (List.range 512).map fun i => s.physByte 0 (bits e 9 43 * 512 + i) else [])

def summaryKey (space : Nat) (va : Word) : Nat := space * 2 ^ 23 + homeOf va * 2 ^ 21 + bits va 30 21

/-- The entry a core goes by: its cached one, or the one in memory. -/
def State.summaryOf (s : State) (k space : Nat) (va : Word) : Word × List Byte :=
  match oget (s.core k).summary (summaryKey space va) with
  | some e => e
  | none => s.readSummary space va

/-- The permissions a summary entry leaves to an address (R66): none where a W0 field is not zero. -/
def summaryPerm (e : Word × List Byte) (va : Word) : Nat :=
  if bits e.1 52 12 != 0 || bits e.1 4 5 != 0 then 0
  else if e.1.getLsbD 3 then
    let b := (e.2.getD (bits va 21 9) 0).toNat
    if b ≥ 8 then 0 else b
  else bits e.1 0 3

/-- The summary grants an access. -/
def State.summaryOk (s : State) (k space : Nat) (va : Word) (need : Nat) : Bool :=
  summaryPerm (s.summaryOf k space va) va &&& need == need

/-- The core's cache of 1,024 summary entries after it looked an address up (R67); where none is free, another gives
way. Log 68 (DESIGN CHOICE). -/
def State.cacheSummary (s : State) (k space : Nat) (va : Word) : State :=
  let old := (s.core k).summary
  if (oget old (summaryKey space va)).isSome then s
  else s.updCore k fun c => { c with
    summary := oset (if old.length < 1024 then old else odel old ((skeys old).headD 0)) (summaryKey space va)
      (s.readSummary space va) }

/-! ### The memory-side cache (R68, R82, R87) -/

/-- The entries of a cache's other lines that fall in the set of a key, looked up where there are n lines at least. -/
def setMates {α : Type} (n sets : Nat) (f : Nat → Nat) (m : OMap α) (key : Nat) : List (Nat × α) :=
  if m.length < n then [] else (oitems m).filter fun e => e.1 != key && f e.1 % sets == f key % sets

/-- The key that a replacement takes: of the least rank, and of that the oldest. -/
def victim (l : List (Nat × Nat × Nat)) : Option Nat :=
  (l.foldl
    (fun m e => match m with
      | none => some e
      | some x => if e.2.1 < x.2.1 || (e.2.1 == x.2.1 && e.2.2 < x.2.2) then some e else some x) none).map (·.1)

/-- The 64-byte sectors of the memory-side cache that a mask touches (R82). -/
def mscSectors (m : Line) : Line :=
  (List.range 2).foldl
    (fun r k => if m &&& bytesMask (64 * k) 64 == 0 then r else r ||| bytesMask (64 * k) 64) 0

/-- The dirty bit of the 4 KiB of a physical line set, where a bitmap covers it (R68). -/
def State.setDirtyBit (s : State) (d line bitmap : Nat) : State :=
  if bitmap = 0 then s
  else
    let j := line / 4096 % 512
    s.physWrite d (bitmap + j / 8) 1 (s.physRead d (bitmap + j / 8) 1 ||| 2 ^ (j % 8))

/-- The bytes of a mask written to the memory behind the memory-side cache. -/
def State.memWriteMask (s : State) (d line : Nat) (mask data : Line) : State :=
  { s with mem := sfill 0 s.mem (physKey d line) 128 fun i =>
      if mask.getLsbD (8 * i) then BitVec.ofNat 8 (lineGet data i 1) else sget 0 s.mem (physKey d line + i) }

/-- Poison of the bytes of a mask set or cleared. -/
def setPoison (p : SMap Bool) (line : Nat) (mask : Line) (on : Bool) : SMap Bool :=
  (List.range 128).foldl (fun p i => if mask.getLsbD (8 * i) then sset false p (line + i) on else p) p

/-- A line of the memory-side cache written back: its dirty bit first, then its bytes (R68) with their poison
(R89). A port whose link is down drops them, which is logged as kind 3 (R376, R385), and the line with them. -/
def State.mscWriteBack (s : State) (d line : Nat) : State :=
  match oget (s.die d).msc line with
  | none => s
  | some x =>
    if x.dirty == 0 then s
    else if (s.die d).linkDown (line * 128) then
      (s.updDie d fun y => { y with msc := odel y.msc line }).logPort d
        (((s.die d).portOf (line * 128)).map (·.1) |>.getD 0)
    else
      let s1 := s.setDirtyBit d (line * 128) x.bitmap
      let z := (oget (s1.die d).msc line).getD x
      (s1.updDie d fun y => { y with
          msc := oset y.msc line { z with dirty := 0 }
          poison := setPoison (setPoison y.poison (line * 128) (sectorsOf z.dirty) false) (line * 128)
            (sectorsOf z.dirty &&& z.poison) true }).memWriteMask d (line * 128) z.dirty z.data

/-- The sectors of a mask brought into a line of the memory-side cache, of 32,768 sets of 16 ways (R82).
Log 68 (DESIGN CHOICE). -/
def State.mscFill (s : State) (d line : Nat) (mask : Line) : State :=
  let s1 :=
    if (oget (s.die d).msc line).isSome then s
    else
      let l := setMates 16 32768 Config.mscSet (s.die d).msc line
      match if l.length < 16 then none else victim (l.map fun e => (e.1, 0, e.2.age)) with
      | some v => (s.mscWriteBack d v).updDie d fun y => { y with msc := odel y.msc v }
      | none => s
  let old := (oget (s1.die d).msc line).getD ⟨0, 0, 0, 0, 0, s.cycles.toNat⟩
  let add := mscSectors mask &&& ~~~old.valid
  if add == 0 then s1
  else s1.updDie d fun y => { y with msc := oset y.msc line { old with
    data := lineMerge old.data (s1.memLine d (line * 128) add) add
    valid := old.valid ||| add
    poison := lineMerge old.poison (y.memPoison (line * 128)) add } }

/-- Bytes written below the caches, into the memory-side cache (R68, R87). The leaf's dirty bitmap is kept for
its write-back; a port whose link is down drops the write, which is logged as kind 3 (R376, R385). A host window is
written at once and sets the bit first (R68). Log 69 (DESIGN CHOICE), 76 (DEDUCED). -/
def State.homeWrite (s : State) (d pa bitmap : Nat) (mask data : Line) : State :=
  let line := pa / 128 * 128
  if (s.die d).linkDown line then s.logPort d (((s.die d).portOf line).map (·.1) |>.getD 0)
  else if inHost line then (s.setDirtyBit d line bitmap).memWriteMask d line mask data
  else
    ((s.mscFill d (line / 128) mask).updDie d fun x => { x with
        msc := oupd x.msc (line / 128) fun y => { y with
          data := lineMerge y.data data mask
          dirty := y.dirty ||| mask
          poison := y.poison &&& ~~~sectorsWithin mask
          bitmap := if bitmap = 0 then y.bitmap else bitmap } }).postOnce (.mscWriteback d (line / 128))

/-- Bytes of a physical line poisoned where it stands, in the memory-side cache or else in memory (R89). -/
def State.poisonStored (s : State) (d pa : Nat) (mask : Line) : State :=
  let line := pa / 128
  if (oget (s.die d).msc line).isSome then
    s.updDie d fun y => { y with msc := oupd y.msc line fun x => { x with poison := x.poison ||| (mask &&& x.valid) } }
  else s.updDie d fun x => { x with poison := setPoison x.poison (line * 128) mask true }

/-- Bytes just written to a home poisoned there (R89); what a port whose link is down has dropped changes nothing
(R376). -/
def State.poisonHome (s : State) (d pa : Nat) (mask : Line) : State :=
  if mask == 0 || (s.die d).linkDown (pa / 128 * 128) then s else s.poisonStored d pa mask

/-! ### The L2 and the point of coherence (R82, R83, R86 to R90) -/

def State.updL2 (s : State) (d key : Nat) (f : L2Line → L2Line) : State :=
  s.updDie d fun x => { x with l2 := oupd x.l2 key f }

/-- The bytes `need` of a line as its point of coherence has them, and which of them are poisoned; nothing is
filled. -/
def State.viewLine (s : State) (d key pa : Nat) (need : Line) : Line × Line :=
  match (s.die d).l2At key with
  | some x =>
    (lineMerge (s.physLine d pa (need &&& ~~~x.valid)) x.data x.valid &&& need,
      lineMerge (s.physPoison d pa) x.poison x.valid &&& need)
  | none => (s.physLine d pa need, s.physPoison d pa &&& need)

/-- The owning die's L2 has every sector that a request needs (R83), so that its home does not count it (R69). -/
def Die.l2Has (d : Die) (key : Nat) (need : Line) : Bool :=
  match d.l2At key with
  | some x => lineSub (sectorsOf need) x.valid
  | none => false

/-- A tag is current for its grid (R343). -/
def State.tagCurrent (s : State) (t : Tag) : Bool :=
  (oitems s.grids).any fun g => g.2.determ && g.2.gslot == t.gslot && g.2.phase % 2 ^ 32 == t.phase

/-- The sectors of the tag overflow store. -/
def overflowSize : Nat := 2 ^ 20

/-- A die's tags without those that are no longer current for their grid (R343), of the sectors that have left its L2.
Log 66 (DEDUCED). -/
def State.dropStale (s : State) (d : Nat) : State :=
  let stale (k : Nat) : Bool := !(oget (s.die d).tags k).any s.tagCurrent
  let gone := ((s.die d).overflow ++ (s.die d).lostTags).filter stale
  if gone.isEmpty then s
  else s.updDie d fun x => { x with
    tags := gone.foldl odel x.tags
    overflow := x.overflow.filter (!stale ·)
    lostTags := x.lostTags.filter (!stale ·) }

/-- The tags of an evicted line's sectors moved to the overflow store if they are current (R343). One that finds no room
there is lost: a later access to its sector conflicts (R344). Log 66 (DEDUCED). -/
def State.moveTags (s : State) (d key : Nat) : State :=
  let mine := ((List.range 4).map (4 * key + ·)).filter fun k => (oget (s.die d).tags k).isSome
  if mine.isEmpty then s
  else
    let live := mine.filter fun k => (oget (s.die d).tags k).any s.tagCurrent
    let s1 := s.dropStale d
    let room := overflowSize - (s1.die d).overflow.length
    s1.updDie d fun x => { x with
      tags := mine.foldl (fun m k => if live.contains k then m else odel m k) x.tags
      overflow := x.overflow ++ live.take room
      lostTags := x.lostTags ++ live.drop room }

/-- A dirty L2 line written back and dropped (R83, R248): to the physical address it has, with no translation. Its tags
move (R343). -/
def State.evictL2 (s0 : State) (d key : Nat) : State :=
  match (s0.die d).l2At key with
  | none => s0
  | some x =>
    let s := s0.moveTags d key
    let s1 := s.updDie d fun y => { y with l2 := odel y.l2 key }
    if x.remote || x.dirty == 0 then s1
    else
      (s1.homeWrite d x.pa x.bitmap x.dirty x.data).poisonHome d x.pa (sectorsOf x.dirty &&& x.poison)

/-- An L2 line that holds nothing yet. -/
def L2Line.empty : L2Line := ⟨0, 0, 0, 0, false, false, false, false, 0, 0, false, 0, 0, false⟩

/-- The rank in which lines of a set give way (R90): stream lines first, keep lines last. Log 68 (DESIGN CHOICE). -/
def classRank (cls : Nat) : Nat := if cls = 1 then 0 else if cls = 3 then 2 else 1

/-- The copies of lines that blocks hold or are committing in the L2 of a die: key, block, and age, `none` for one that a
commit has taken (R252). -/
def State.copiesOn (s : State) (d : Nat) : List (Nat × Nat × Option Nat) :=
  (oitems s.blocks).flatMap fun b =>
    let mine (l : OMap Held) (f : Held → Option Nat) : List (Nat × Nat × Option Nat) :=
      (oitems l).filterMap fun h => if h.2.die = d then some (lineKey b.2.space h.1, b.1, f h.2) else none
    mine b.2.held (fun h => some h.age) ++ b.2.commits.flatMap fun c => mine c.lines fun _ => none

/-- The number of sets of an L2: 192 MiB in lines of 128 bytes and 8 ways (R82). -/
def l2Sets : Nat := 196608

/-- The copies in the set of a line, in an L2 of seven copies at least (R253). -/
def State.copiesIn (s : State) (d key : Nat) : List (Nat × Nat × Option Nat) :=
  let l := s.copiesOn d
  if l.length < 7 then [] else l.filter fun c => Config.l2Set c.1 % l2Sets == Config.l2Set key % l2Sets

/-- A way found for a line, or for a held copy, which stands in ways 0 to 6 (R82, R88, R90, R252): the state with what gave
way gone, and whether the way is way 7; none where every way is held. A line that only gives a held copy its marks takes no
way of its own. Log 68 (DESIGN CHOICE). -/
def State.roomL2 (s : State) (d key : Nat) (copy : Bool) : State × Option Bool :=
  let copies := s.copiesOn d
  if (s.die d).l2.length + copies.length < 7 then (s, some false)
  else
    let here (k : Nat) : Bool := Config.l2Set k % l2Sets == Config.l2Set key % l2Sets
    let lines := (oitems (s.die d).l2).filter fun e =>
      e.1 != key && here e.1 && (e.2.valid != 0 || !copies.any fun c => c.1 == e.1)
    let low := lines.filter fun e => !e.2.way7
    if (copies.filter fun c => here c.1).length + low.length < 7 then (s, some false)
    else if !copy && !(s.die d).decTed && low.length == lines.length then (s, some true)
    else
      match victim ((if copy then low else lines).map fun e => (e.1, classRank e.2.cls, e.2.age)) with
      | some v => (s.evictL2 d v, some (((s.die d).l2At v).any (·.way7)))
      | none => (s, none)

/-- At most four lines of a set are of the keep class: where there are four, the oldest becomes normal (R90). -/
def State.limitKeepL2 (s : State) (d key : Nat) : State :=
  let l := (setMates 4 l2Sets Config.l2Set (s.die d).l2 key).filter fun e => e.2.cls == 3
  match if l.length < 4 then none else victim (l.map fun e => (e.1, 0, e.2.age)) with
  | some v => s.updL2 d v fun x => { x with cls := 0 }
  | none => s

/-- A line that is to take data given a way of its own, if it has only given held copies their marks so far (R82, R252): the
state, and whether the line is there and has a way. Log 68 (DESIGN CHOICE). -/
def State.ownWay (s : State) (d key : Nat) : State × Bool :=
  match (s.die d).l2At key with
  | none => (s, false)
  | some x =>
    if x.valid != 0 || !(s.copiesOn d).any (·.1 == key) then (s, true)
    else
      match s.roomL2 d key false with
      | (t, some w) => (t.updL2 d key fun x => { x with way7 := w }, true)
      | (t, none) => (t, false)

/-- A line that there is in an L2 unless held copies have every way, in the class of a hint where it holds no data yet (R90,
R245); its tags return with it (R343). -/
def State.placeL2 (s : State) (d key cls : Nat) : State :=
  match (s.die d).l2At key with
  | some x =>
    if x.valid != 0 || x.cls == cls then s
    else (if cls = 3 then s.limitKeepL2 d key else s).updL2 d key fun x => { x with cls := cls }
  | none =>
    match s.roomL2 d key false with
    | (t, none) => t
    | (t, some w) =>
      (if cls = 3 then t.limitKeepL2 d key else t).updDie d fun y => { y with
        l2 := oset y.l2 key { L2Line.empty with cls := cls, age := s.cycles.toNat, way7 := w }
        overflow := y.overflow.filter (· / 4 != key) }

/-- A line of an L2 marked by a translation that filled or probed it, which also gives the physical address it keeps
(R248). -/
def State.markL2 (s : State) (d key : Nat) (x : Xlate) (cls : Nat) : State :=
  (s.placeL2 d key cls).updL2 d key fun old => { old with
    pa := x.pa / 128 * 128
    bitmap := x.bitmap
    rMark := x.entry.getLsbD 3
    wMark := x.entry.getLsbD 4
    sieve := x.entry.getLsbD 60
    unc := inHost x.pa }

/-- A line of the owning die's L2 filled with the sectors a request needs (R83), once it is marked and has a way. -/
def State.fillL2 (s : State) (d key : Nat) (x : Xlate) (need : Line) (cls : Nat) : State :=
  let r := (s.markL2 d key x cls).ownWay d key
  if !r.2 then r.1
  else
    let old := ((r.1.die d).l2At key).getD L2Line.empty
    let add := sectorsOf need &&& ~~~old.valid
    let s2 := r.1.mscFill d (old.pa / 128) add
    s2.updL2 d key fun old => { old with
      data := lineMerge old.data (s2.physLine d old.pa add) add
      poison := sectorsOf (lineMerge old.poison (s2.physPoison d old.pa) add) &&& (old.valid ||| add)
      valid := old.valid ||| add }

/-- The poison of an L2 line after bytes are merged into it (R89): a sector written whole has none, and the bytes put into a
poisoned sector, of the line or of the memory that has the rest of it, share its poison. -/
def L2Line.mergedPoison (x : L2Line) (stored mask : Line) : Line :=
  (x.poison ||| (sectorsOf (lineMerge stored x.poison x.valid) &&& mask)) &&& ~~~sectorsWithin mask

/-- Bytes merged into a line at its point of coherence (R254 step 2): into the L2 line where there is one, which
keeps the physical address it has (R248), else below it; an uncacheable line is not kept (R87).
Log 69 (DESIGN CHOICE). -/
def State.pocWrite (s : State) (d key pa bitmap : Nat) (mask data : Line) : State :=
  let r := s.ownWay d key
  match (r.1.die d).l2At key with
  | some x =>
    if x.unc || !r.2 then r.1.homeWrite d (if x.unc then pa else x.pa) bitmap mask data
    else r.1.updDie d fun y => { y with l2 := oset y.l2 key { x with
      data := lineMerge x.data data mask
      valid := x.valid ||| mask
      dirty := x.dirty ||| mask
      poison := x.mergedPoison (y.storedPoison (x.pa / 128 * 128)) mask } }
  | none => r.1.homeWrite d pa bitmap mask data

/-- Bytes of a line poisoned at its point of coherence (R89). -/
def State.poisonPoc (s : State) (d key pa : Nat) (mask : Line) : State :=
  if ((s.die d).l2At key).any fun x => !x.unc then s.updL2 d key fun x => { x with poison := x.poison ||| (mask &&& x.valid) }
  else s.poisonHome d pa mask

/-- The sector of a byte poisoned in memory or the memory-side cache, or in a line of an L2 that has it (R89). -/
def State.poisonMem (s : State) (d pa : Nat) : State := s.poisonStored d pa (bytesMask (pa % 128 / 32 * 32) 32)

def State.poisonLineL2 (s : State) (d key off : Nat) : State :=
  s.updL2 d key fun x => { x with poison := x.poison ||| (x.valid &&& bytesMask (off % 128 / 32 * 32) 32) }

/-- A line of an L2 leaves it if no line of its set stands before it (R90). -/
def State.replaceL2 (s : State) (d key : Nat) : State :=
  match (s.die d).l2At key with
  | none => s
  | some x =>
    if (setMates 2 l2Sets Config.l2Set (s.die d).l2 key).all fun e => classRank x.cls ≤ classRank e.2.cls then s.evictL2 d key
    else s

/-- Way 7 of every set of an L2 written back and left (R88). -/
def State.clearWay7 (s : State) (d : Nat) : State :=
  ((oitems (s.die d).l2).filter fun e => e.2.way7).foldl (fun s e => s.evictL2 d e.1) s

/-! ### Lines that a host caches (R278) -/

/-- The host caches a line, which must be back-invalidated before a merge (R278). -/
def State.hostCaches (s : State) (d pa : Nat) : Bool := (oget (s.die d).hostLines (pa / 128)).isSome

/-- The host has a line for writing, and a reader's home must have it back first (R278). -/
def State.hostWrites (s : State) (d pa : Nat) : Bool := (oget (s.die d).hostLines (pa / 128)).any (·.write)

/-- The host writes a line that it has taken for writing, in its own cache (R278). Nothing of the package itself changes.
Log 85 (DESIGN CHOICE). -/
def State.hostStore (s : State) (d line : Nat) (v : Line) : State :=
  match oget (s.die d).hostLines line with
  | some x => if x.write then s.updDie d fun y => { y with hostLines := oset y.hostLines line { x with data := some v } } else s
  | none => s

/-- A back-invalidation sent to the host for a line it caches, once (R278). Log 85 (DESIGN CHOICE). -/
def State.backInvalidate (s : State) (d pa : Nat) : State :=
  match oget (s.die d).hostLines (pa / 128) with
  | some x =>
    if x.asked then s
    else
      (s.updDie d fun y => { y with hostLines := oset y.hostLines (pa / 128) { x with asked := true } }).send 3
        (physKey d (pa / 128 * 128)) []
  | none => s

/-- Lines asked back from a host. -/
def State.askHost (s : State) (l : List (Nat × Nat)) : State := l.foldl (fun s h => s.backInvalidate h.1 h.2) s

end Sys2Proof.Machine
end

