-- ==== Sys2Proof/Machine/Caches.lean ====
section
/-!
DEFINITION. The caches on the load path (R82 to R94), self-invalidation (R91), held copies as their block reads
them (R252), and the sector tags of deterministic mode (R343 to R346).
-/

namespace Sys2Proof.Machine

/-! ### Sector tags (R343, R344) -/

/-- An access as a tag sees it. -/
inductive TagAcc where
  | read
  /-- the bytes written in the sector -/
  | write (m : BitVec 32)
  /-- the m[6:4] code and whether it returns a value -/
  | atomic (code : Nat) (ret : Bool)
  deriving DecidableEq, Repr

/-- A tag that grid `grid` resets in phase `phase`. -/
def Tag.fresh (grid phase : Nat) : Tag := ⟨grid, phase, none, 0, 0, 0, 0, false, 0, false⟩

/-- The rows of R344 on a current tag. The number is 0 for an access that is made, 1 for a rejected write, and
else the cause of the conflict. -/
def Tag.step (t : Tag) (X : Nat) : TagAcc → Tag × Nat
  | .read =>
    if t.wid.isSome && t.wid != some X then (t, 2)
    else if t.aop != 0 && (t.aid != X || t.amany) then (t, 5)
    else if t.rsum = 0 then ({ t with rsum := 1, rid := X }, 0)
    else if t.rsum = 1 && t.rid != X then ({ t with rsum := 2 }, 0)
    else (t, 0)
  | .write m =>
    if t.rsum = 2 || (t.rsum = 1 && t.rid != X) then (t, 3)
    else if t.aop != 0 && (t.aid != X || t.amany) then (t, 5)
    else
      match t.wid with
      | none => ({ t with wid := some X, wmask := t.wmask ||| m }, 0)
      | some w =>
        if w = X then ({ t with wmask := t.wmask ||| m }, 0)
        else if m != t.wmask then (t, 4)
        else if w < X then ({ t with wid := some X }, 0)
        else (t, 1)
  | .atomic code ret =>
    if t.wid.isSome || (t.rsum != 0 && t.rid != X) || t.rsum = 2 then (t, 5)
    else if t.aop != 0 && t.aop != code + 1 then (t, 5)
    else if (t.aret || ret) && t.aop != 0 && t.aid != X then (t, 5)
    else
      ({ t with aop := if t.aop = 0 then code + 1 else t.aop
                aid := if t.aop = 0 then X else t.aid
                amany := t.amany || (t.aop != 0 && t.aid != X)
                aret := t.aret || ret }, 0)

/-- Who accesses memory: the core and its die, the space, and the grid's deterministic identity (R341). -/
structure Party where
  blk : Nat
  core : Nat
  space : Nat
  grid : Nat
  det : Bool
  ident : Nat
  phase : Nat
  deriving DecidableEq, Repr

/-- An access of a party takes the data that a failed lane of the bridge carried for it, if it crosses the bridge (R380).
Log 17 (DESIGN CHOICE). -/
def State.takeFlaw (s : State) (P : Party) (va : Word) : State × Bool :=
  if (s.blk P.blk).flawed && dieOfCore P.core != ownerOf va then
    (s.updBlk P.blk fun x => { x with flawed := false }, true)
  else (s, false)

/-- A block as a party. -/
def State.partyOf (s : State) (b : Nat) : Party :=
  let x := s.blk b
  let y := s.gridOf b
  ⟨b, x.core, x.space, x.grid, y.determ, x.lcore, y.phase % 2 ^ 32⟩

/-- The tag check of one access of n bytes at off of a line, in its sector (R344). Accesses of grids that are
not deterministic neither read nor set tags (R343). The tag of a line that is not in the L2 stands in the overflow store;
one that the store has no room for, or had none for while it is current, gives cause 6. Log 66 (DEDUCED). -/
def State.tagCheck (s : State) (P : Party) (line off : Nat) (a : Nat → TagAcc) : State × Nat :=
  if !P.det then (s, 0)
  else
    let d := ownerOfLine line
    let key := lineKey P.space line * 4 + off / 32
    let slot := (s.grid P.grid).gslot
    let old := (oget (s.die d).tags key).filter fun t => t.gslot == slot && t.phase == P.phase
    let out := ((s.die d).l2At (lineKey P.space line)).isNone && !(s.die d).overflow.contains key
    let s0 := if out && overflowSize ≤ (s.die d).overflow.length then s.dropStale d else s
    if (old.isSome && (s.die d).lostTags.contains key) || (out && overflowSize ≤ (s0.die d).overflow.length) then (s, 6)
    else
      let r := (old.getD (Tag.fresh slot P.phase)).step P.ident (a (off % 32))
      if r.2 = 0 then
        (s0.updDie d fun x => { x with
          tags := oset x.tags key r.1
          overflow := if out then x.overflow ++ [key] else x.overflow
          lostTags := x.lostTags.filter (· != key) }, 0)
      else (s, r.2)

/-- n bytes at an offset of a sector. -/
def sectorBytes (n off : Nat) : BitVec 32 := BitVec.ofNat 32 ((2 ^ n - 1) * 2 ^ off)

/-! ### Held copies (R252) -/

/-- A line as the block that holds bytes of it reads it: the bytes of its commits under way and of its held
copies over the committed ones. Log 53 (DEDUCED). -/
def Block.overlay (x : Block) (line : Nat) (d : Line) : Line :=
  let c := x.commits.foldl
    (fun d c => match oget c.lines line with | some h => lineMerge d h.data h.mask | none => d) d
  match oget x.held line with
  | some h => lineMerge c h.data h.mask
  | none => c

/-- The bytes of a line that the block holds or is committing. -/
def Block.heldMask (x : Block) (line : Nat) : Line :=
  x.commits.foldl
    (fun m c => match oget c.lines line with | some h => m ||| h.mask | none => m)
    (match oget x.held line with | some h => h.mask | none => 0)

/-! ### The L1 (R83, R90, R92, R93, R252, R346) -/

def State.l1At (s : State) (k key : Nat) : Option L1Line := oget (s.core (s.l1Core k)).l1 key

def State.updL1 (s : State) (k : Nat) (f : OMap L1Line → OMap L1Line) : State :=
  s.updCore (s.l1Core k) fun c => { c with l1 := f c.l1 }

/-- Whether a load may go by a line of the L1 at all: its class and grid (R92), and in deterministic mode the
phase and identity that filled it (R93, R346). -/
def L1Line.usable (x : L1Line) (P : Party) (hint : Nat) : Bool :=
  (x.cls != 2 || (hint == 2 && x.grid == P.grid))
    && (!P.det || (x.ident == P.ident && x.phase == P.phase && x.grid == P.grid))

/-- The bytes of an L1 line that a block may read: valid ones outside sectors marked with another block. -/
def L1Line.seen (x : L1Line) (b : Nat) : Line := if x.markBlk = b then x.valid else x.valid &&& ~~~x.marked

/-- An L1 hit (R83). -/
def State.l1Hit (s : State) (P : Party) (line hint : Nat) (need : Line) : Option L1Line :=
  match s.l1At P.core (lineKey P.space line) with
  | some x => if x.rMark && x.usable P hint && lineSub need (x.seen P.blk) then some x else none
  | none => none

/-- The number of sets of the L1 that a core uses: 256 KiB in lines of 128 bytes and 8 ways, sixteen times that where
its cluster's is fused (R82, R85). -/
def State.l1Sets (s : State) (k : Nat) : Nat := if sget false s.fused (clusterOfCore k) then 4096 else 256

/-- Room in the L1 for a line of a class (R82, R90): a full set gives up a line, and a fifth keep line makes the oldest
normal. Log 68 (DESIGN CHOICE). -/
def State.roomL1 (s : State) (k key cls : Nat) : State :=
  let mates := setMates 4 (s.l1Sets k) Config.l1Set (s.core (s.l1Core k)).l1 key
  let keeps := mates.filter fun e => e.2.cls == 3
  let s1 :=
    match if mates.length < 8 then none else victim (mates.map fun e => (e.1, classRank e.2.cls, e.2.age)) with
    | some v => s.updL1 k fun m => odel m v
    | none => s
  match if cls != 3 || keeps.length < 4 then none else victim (keeps.map fun e => (e.1, 0, e.2.age)) with
  | some v => s1.updL1 k fun m => oupd m v fun x => { x with cls := 0 }
  | none => s1

/-- Sectors put into the L1 in the class of the hint, the block's own held bytes over the committed ones and their sectors
marked with it (R252); a line that the load may not go by is replaced, and one that another block has marked gives those
sectors up where this block would mark its own. -/
def State.fillL1 (s : State) (P : Party) (line hint : Nat) (add data poison : Line) : State :=
  let key := lineKey P.space line
  let mine := (s.blk P.blk).heldMask line
  let full := (s.blk P.blk).overlay line data
  let bad := poison &&& ~~~mine
  let mark := sectorsOf (mine &&& add)
  let new : L1Line :=
    ⟨full &&& add, add, bad &&& add, true, hint, P.grid, mark, if mark == 0 then 0 else P.blk, P.ident, P.phase,
      s.cycles.toNat⟩
  match (s.l1At P.core key).filter fun x => x.usable P hint && x.rMark with
  | some x =>
    let other := x.marked != 0 && x.markBlk != P.blk
    let keep := if other && mark != 0 then x.valid &&& ~~~x.marked else x.valid
    s.updL1 P.core fun m => oset m key { x with
      data := lineMerge x.data full add
      valid := keep ||| add
      poison := lineMerge x.poison bad add
      marked := if other && mark != 0 then mark else (x.marked &&& ~~~add) ||| mark
      markBlk := if mark == 0 then x.markBlk else P.blk }
  | none => (s.roomL1 P.core key hint).updL1 P.core fun m => oset m key new

/-- The sectors a store writes updated in the issuing core's L1 where they are present, and marked with the
block (R84, R252). A line marked with another block is given up instead. -/
def State.storeL1 (s : State) (P : Party) (line : Nat) (mask data : Line) : State :=
  let key := lineKey P.space line
  match s.l1At P.core key with
  | none => s
  | some x =>
    if x.marked != 0 && x.markBlk != P.blk then s.updL1 P.core fun m => odel m key
    else
      let sec := sectorsOf mask &&& x.valid
      s.updL1 P.core fun m => oset m key { x with
        data := lineMerge x.data data (mask &&& x.valid)
        poison := x.poison &&& ~~~sectorsWithin mask
        marked := x.marked ||| sec
        markBlk := P.blk }

/-- The L1 sectors that carry a block's marks given up with what it stored there (R258). -/
def State.dropMarked (s : State) (b : Nat) : State :=
  s.updL1 (s.blk b).core fun m =>
    m.map fun kv => (kv.1, kv.2.map fun x =>
      if x.markBlk = b then { x with valid := x.valid &&& ~~~x.marked, marked := 0 } else x)

/-- What the L1 of a block's core keeps of a line as bytes of it are merged (R254, R269): the sectors that carry the
block's marks, whose bytes they have, if all of the bytes were taken; other copies of the sectors would be stale. -/
def State.mergeL1 (s : State) (P : Party) (line : Nat) (held taken : Line) : State :=
  s.updL1 P.core fun m => oupd m (lineKey P.space line) fun x =>
    let ours := if x.markBlk = P.blk && held == taken then x.marked else 0
    { x with
      valid := x.valid &&& ~~~(sectorsOf held &&& ~~~ours)
      poison := x.poison &&& ~~~(sectorsWithin taken &&& ours) }

/-- The sectors that a write at the point of coherence covers invalidated in the issuing core's L1 (R272). -/
def State.dropL1 (s : State) (k key : Nat) (mask : Line) : State :=
  s.updL1 k fun m => oupd m key fun x => { x with valid := x.valid &&& ~~~sectorsOf mask }

/-! ### Fetching a line (R86, R87, R94) -/

/-- What a line request brings: a fault code of R99, 0, or `snoopCode`; the bytes asked for, their poison, and whether they
crossed the bridge. -/
structure Fetched where
  code : Nat
  data : Line
  poison : Line
  crossed : Bool
  deriving DecidableEq, Repr

/-- The L2 of a die answers a load: the line is there, has its R mark and every sector needed (R83). -/
def State.l2Hit (s : State) (d key : Nat) (need : Line) : Option L2Line :=
  match (s.die d).l2At key with
  | some x => if x.rMark && !x.unc && (s.die d).l2Has key need then some x else none
  | none => none

/-- What a read answers while a host must first give back a line that it has for writing (R278). -/
def snoopCode : Nat := 16

/-- The class of R90 in the L2: read-only loads fill the normal class. -/
def l2Class (hint : Nat) : Nat := if hint = 2 then 0 else hint

/-- A read of the owning die's L2, filling it from the home (R86, R87). -/
def State.fetchOwner (s : State) (P : Party) (line hint : Nat) (need : Line) : State × Fetched :=
  let d := ownerOfLine line
  let key := lineKey P.space line
  match s.l2Hit d key need with
  | some x => (s, ⟨0, x.data, x.poison, false⟩)
  | none =>
    let r := s.translate P.space (BitVec.ofNat 64 (line * 128)) 1
    if r.2.code != 0 then (r.1, ⟨r.2.code, 0, 0, false⟩)
    else if inHost r.2.pa then (r.1, ⟨0, r.1.physLine d r.2.pa need, 0, false⟩)
    else if r.1.hostWrites d r.2.pa then (r.1.backInvalidate d r.2.pa, ⟨snoopCode, 0, 0, false⟩)
    else
      let s1 := r.1.fillL2 d key r.2 need (l2Class hint)
      let v := s1.viewLine d key (r.2.pa / 128 * 128) (sectorsOf need)
      (s1, ⟨0, v.1, v.2, false⟩)

/-- A remote line of the requesting die's L2 (R86), where it has a way. -/
def State.fillRemote (s : State) (d key : Nat) (hint : Nat) (add : Line) (o : L2Line) : State :=
  let r := (s.placeL2 d key (l2Class hint)).ownWay d key
  if !r.2 then r.1
  else r.1.updL2 d key fun old => { old with
    data := lineMerge old.data o.data add
    poison := lineMerge old.poison o.poison add
    valid := old.valid ||| add
    rMark := o.rMark, wMark := o.wMark, sieve := o.sieve, unc := o.unc, pa := o.pa, bitmap := o.bitmap
    remote := true }

/-- A load's request for a line that misses in its L1: the L2 of the die, the owning die's L2, the home (R86), with
the fills of R83, R90 and R93. -/
def State.fetchLine (s : State) (P : Party) (line hint : Nat) (need : Line) (l1 : Bool) : State × Fetched :=
  let d := dieOfCore P.core
  let o := ownerOfLine line
  let key := lineKey P.space line
  let add := sectorsOf need
  let near := if d != o && !P.det then s.l2Hit d key need else none
  match near with
  | some x => (if l1 then s.fillL1 P line hint add x.data x.poison else s, ⟨0, x.data, x.poison, false⟩)
  | none =>
    let q := s.fetchOwner P line hint need
    let r := (q.1, { q.2 with crossed := d != o })
    if r.2.code != 0 then r
    else
      match (r.1.die o).l2At key with
      | some x =>
        if x.unc || !(r.1.die o).l2Has key need then r
        else
          let s1 := if d != o && !P.det then r.1.fillRemote d key hint add x else r.1
          (if l1 then s1.fillL1 P line hint add x.data x.poison else s1, r.2)
      | none => r

/-- The request of a load that reads at the point of coherence only. -/
def State.fetchPoc (s : State) (P : Party) (line hint : Nat) (need : Line) : State × Fetched :=
  let q := s.fetchOwner P line hint need
  (q.1, { q.2 with crossed := dieOfCore P.core != ownerOfLine line })

/-! ### Self-invalidation (R91) -/

/-- Normal, stream and keep lines dropped; read-only lines stay (R92). -/
def dropNormal (m : OMap L1Line) : OMap L1Line := m.filter fun kv => kv.2.any (·.cls == 2)

/-- The clean remote lines of a die dropped; where a block holds bytes of one, its marks stay. -/
def State.dropRemote (s : State) (d : Nat) : State :=
  let copies := s.copiesOn d
  s.updDie d fun x => { x with l2 := x.l2.filterMap fun kv =>
    match kv.2 with
    | some y => if y.remote then (if copies.any fun c => c.1 == kv.1 then some (kv.1, some { y with valid := 0, way7 := false }) else none) else some kv
    | none => some kv }

/-- An acquire by a group of block b: 0 .grp, 1 .blk, 2 .clu, 3 .die, 4 .dev, 5 .sys (R3, R91). -/
def State.acquire (s : State) (b scope : Nat) : State :=
  let k := (s.blk b).core
  let fused := sget false s.fused (clusterOfCore k)
  let s1 := if scope ≥ 3 || (scope = 2 && !fused) then s.updL1 k dropNormal else s
  if scope ≥ 4 then s1.dropRemote (dieOfCore k) else s1

end Sys2Proof.Machine
end

