-- ==== Sys2Proof/Machine/Stores.lean ====
section
/-!
DEFINITION. The way back (R245 to R259): late store buffer entries, translate probes, held copies, commits, and
the deferred faults of accesses (R100, R250, R347).
-/

namespace Sys2Proof.Machine

/-! ### Accesses -/

def Access.size (a : Access) : Nat := 2 ^ a.logsz

def Access.vaAt (a : Access) (L : Nat) : Word := a.va.getD L 0

/-- The 16 bytes of data of a lane. -/
def Access.dataAt (a : Access) (L : Nat) : Nat := (a.d0.getD L 0).toNat + 2 ^ 64 * (a.d1.getD L 0).toNat

/-- Two lanes' accesses share a byte. -/
def overlaps (va1 : Word) (n1 : Nat) (va2 : Word) (n2 : Nat) : Bool :=
  decide (va1.toNat < va2.toNat + n2) && decide (va2.toNat < va1.toNat + n1)

/-- The distinct lines of an access, in the order of their lowest lanes (R94). -/
def linesOf (act : Mask) (va : Nat → Word) : List Nat :=
  (lanesOf act).foldl (fun l L => if l.contains (lineNo (va L)) then l else l ++ [lineNo (va L)]) []

/-- A request that has not been answered. -/
def LineReq.new (line : Nat) (lanes : Mask) : LineReq := ⟨line, lanes, false, false, false, 0, 0, 0, ⟨0, 0, 0, 0⟩⟩

/-- The line requests of an access (R94). -/
def reqsOf (act : Mask) (va : Nat → Word) : List LineReq :=
  (linesOf act va).map fun n => LineReq.new n (maskOf fun L => act.getLsbD L && lineNo (va L) == n)

/-- The bytes of a line that an access of some lanes needs. -/
def needOf (a : Access) (lanes : Mask) : Line :=
  (lanesOf lanes).foldl (fun m L => m ||| bytesMask (lineOff (a.vaAt L)) a.size) 0

/-- One request of an access changed. -/
def Access.updReq (a : Access) (line : Nat) (f : LineReq → LineReq) : Access :=
  { a with reqs := a.reqs.map fun r => if r.line = line then f r else r }

def Access.req (a : Access) (line : Nat) : Option LineReq := a.reqs.find? (·.line == line)

/-- Element L of a list of 32 changed. -/
def setLane {α : Type} (l : List α) (L : Nat) (x : α) : List α := l.set L x

/-- Lanes marked as failed with a cause. -/
def Access.failLanes (a : Access) (lanes : Mask) (conf : Bool) (cause : Nat) : Access :=
  { a with
    fault := if conf then a.fault else a.fault ||| lanes
    conf := if conf then a.conf ||| lanes else a.conf
    lcause := (lanesOf lanes).foldl (fun l L => l.set L cause) a.lcause }

/-! ### Deferred faults (R99, R100, R250, R347) -/

/-- The SIZE code of a detail (R99). Log 10 (DESIGN CHOICE). -/
def sizeCode (logsz : Nat) : Nat :=
  if logsz ≤ 2 then 0 else if logsz ≤ 4 then logsz - 2 else Config.wideSize.toNat

/-- The detail of a memory fault (R99, R347). -/
def memDetail (va : Word) (logsz : Nat) (defer write : Bool) (cause : Nat) (lanes : Mask) : BitVec 96 :=
  BitVec.ofNat 96 (lanes.toNat + 2 ^ 32 * cause + (if write then 2 ^ 36 else 0) + (if defer then 2 ^ 37 else 0)
    + 2 ^ 38 * sizeCode logsz + 2 ^ 40 * bits va 0 52)

/-- The primary cause of some lanes: the first in the table of R99. -/
def primary (lcause : List Nat) (lanes : Mask) : Nat :=
  (lanesOf lanes).foldl (fun c L => let x := lcause.getD L 0; if c = 0 || x < c then x else c) 0

/-- The faults that an access whose lanes have all returned or failed delivers: those found at a home, then its
determinism conflicts (R347). -/
def Access.faults (a : Access) : List DefFault :=
  let wr := a.kind == 2 || a.kind == 3
  let one (grp : Nat) (m : Mask) (keepF : Bool) : List DefFault :=
    if m == 0 then []
    else [⟨a.seq, grp, memDetail (a.vaAt (lowest m)) a.logsz true wr (primary a.lcause m) m,
      some { a with fault := if keepF then a.fault else 0, conf := if keepF then 0 else a.conf }⟩]
  one (if wr then 2 else 1) a.fault true ++ one 8 a.conf false

/-- Ready faults put into their places in issue order (R100). -/
def insertReady (l : List DefFault) (f : DefFault) : List DefFault :=
  l.takeWhile (fun x => x.seq ≤ f.seq) ++ f :: l.dropWhile (fun x => x.seq ≤ f.seq)

/-- Faults of a group become ready, to be delivered at its next boundary. -/
def State.faultsReady (s : State) (b g : Nat) (l : List DefFault) : State :=
  if l.isEmpty then s
  else
    (s.updGrp b g fun y => { y with ready := l.foldl insertReady y.ready }).postOnce (.deferredFaultDelivery b g)

/-! ### The late store buffer (R247) -/

def State.lsb (s : State) (k : Nat) : List Access := (s.core k).lsb

def State.setLsb (s : State) (k : Nat) (l : List Access) : State := s.updCore k fun c => { c with lsb := l }

def State.entry (s : State) (k uid : Nat) : Option Access := (s.lsb k).find? (·.uid == uid)

def State.updEntry (s : State) (k uid : Nat) (f : Access → Access) : State :=
  s.setLsb k ((s.lsb k).map fun a => if a.uid = uid then f a else a)

/-- An earlier entry of the same group has a lane that still waits or has faulted over bytes of this lane
(R249). -/
def behindStore (l : List Access) (a : Access) (L : Nat) : Bool :=
  l.any fun e => e.blk == a.blk && e.grp == a.grp && decide (e.seq < a.seq) &&
    (lanesOf e.wait).any fun K => overlaps (e.vaAt K) e.size (a.vaAt L) a.size

/-- An earlier load of the same group has yet to read the line. -/
def behindLoad (loads : List Access) (a : Access) (line : Nat) : Bool :=
  loads.any fun e => decide (e.seq < a.seq) && e.reqs.any fun r => r.line == line && !r.served

/-- An entry leaves the buffer once every lane is acknowledged; once every lane is acknowledged or has failed, its
fault is ready (R247, R250). -/
def State.closeEntry (s : State) (k uid : Nat) : State :=
  match s.entry k uid with
  | none => s
  | some a =>
    if a.wait == 0 then s.setLsb k ((s.lsb k).filter (·.uid != uid))
    else if a.wait &&& ~~~(a.fault ||| a.conf) == 0 then
      if (s.grp a.blk a.grp).ready.any (fun f => f.acc.any (·.uid == uid))
          || (s.grp a.blk a.grp).record0.any (fun f => f.acc.any (·.uid == uid)) then s
      else s.faultsReady a.blk a.grp a.faults
    else s

/-! ### Commits (R254, R255) -/

/-- COMMITS raised (R255). Log 40 (DEDUCED). -/
def State.raiseCommits (s : State) (b : Nat) : State := s.updBlk b fun x => { x with count := x.count + 1 }

/-- A commit of a block starts: the held copies present are taken and sent to be merged. `always` is the second
column of R255. -/
def State.startCommit (s : State) (b : Nat) (always : Bool) : State :=
  let x := s.blk b
  let s1 := if always || !x.held.isEmpty then s.raiseCommits b else s
  if x.held.isEmpty then s1
  else
    let id := s1.fresh
    (s1.tick.updBlk b fun x => { x with held := [], commits := x.commits ++ [⟨id, x.held, []⟩] }).postAll
      ((oitems x.held).map fun h => .commitMerge b id h.1)

/-- The number of the last commit under way of a block, 0 for none. -/
def Block.lastCommit (x : Block) : Nat := x.commits.foldl (fun m c => max m c.id) 0

/-- Every commit up to a number has completed. -/
def Block.committed (x : Block) (id : Nat) : Bool := x.commits.all fun c => decide (id < c.id)

/-! ### Writing held copies (R248, R252, R253) -/

/-- A commit has completed, whosever it was. -/
def State.commitOver (s : State) (id : Nat) : Bool := (oitems s.blocks).all fun b => b.2.commits.all fun c => c.id != id

/-- The die whose L2 holds a block's copy of a line: its own, or in deterministic mode the owning one (R252). -/
def State.holdDie (_ : State) (P : Party) (line : Nat) : Nat :=
  if P.det then ownerOfLine line else dieOfCore P.core

/-- The L2 line with a W mark that a store goes by: that of the L2 that holds its copy, or, on the way of R86, that of the
owning die's L2 (R248). -/
def State.storeMark (s : State) (P : Party) (line : Nat) : Option L2Line :=
  (((s.die (s.holdDie P line)).l2At (lineKey P.space line)).filter fun x => x.wMark).orElse fun _ =>
    ((s.die (ownerOfLine line)).l2At (lineKey P.space line)).filter fun x => x.wMark

/-- A way of an L2 taken for a new held copy; a line there that only gives copies its marks stands with them. -/
def State.wayForCopy (s : State) (d key : Nat) : State :=
  (s.roomL2 d key true).1.updL2 d key fun x => if x.valid == 0 then { x with way7 := false } else x

/-- Bytes of a lane put into the block's held copy of a line, which takes a way of its L2 when it is new, and into the
issuing core's L1 (R84, R252). -/
def State.hold (s : State) (P : Party) (line : Nat) (mask data : Line) (m : L2Line) (cls : Nat) : State :=
  let d := s.holdDie P line
  let s1 := if (oget (s.blk P.blk).held line).isSome then s else s.wayForCopy d (lineKey P.space line)
  let old := (oget (s1.blk P.blk).held line).getD ⟨0, 0, m.pa, m.bitmap, d, cls, m.sieve, m.rMark, s1.fresh⟩
  ((s1.tick.updBlk P.blk fun x => { x with held := oset x.held line { old with
      mask := old.mask ||| mask, data := lineMerge old.data data mask } })).storeL1 P line mask data

/-- A host port noted among those through which a block has posted writes (R277). -/
def State.notePort (s : State) (b d : Nat) : State :=
  s.updBlk b fun x => { x with posted := if x.posted.contains d then x.posted else x.posted ++ [d] }

/-- The same for a group (R272). -/
def State.noteGroupPort (s : State) (b g d : Nat) : State :=
  s.updGrp b g fun y => { y with posted := if y.posted.contains d then y.posted else y.posted ++ [d] }

/-- A write sent to the home because its translation is uncacheable: a posted write through the home's host port (R248,
R277). -/
def State.sendUncached (s : State) (b g d pa bitmap : Nat) (mask data : Line) : State :=
  ((s.homeWrite d pa bitmap mask data).notePort b d).noteGroupPort b g d

/-- The class of a written line in the L2 (R245): `.ro` is the normal class. -/
def Access.cls (a : Access) : Nat := l2Class a.hint

/-- A new held copy that must wait: for a commit of its own block, which holds 1,024 lines, or of the block whose copy is the
oldest in a set whose ways 0 to 6 are all held (R253). Answers the state with that commit started, and its number, 0 where
the copy need not wait. -/
def State.pressure (s : State) (P : Party) (line : Nat) : State × Nat :=
  let x := s.blk P.blk
  if (oget x.held line).isSome then (s, 0)
  else if 1024 ≤ x.held.length then
    let s1 := s.startCommit P.blk true
    (s1, (s1.blk P.blk).lastCommit)
  else
    let d := s.holdDie P line
    let l := s.copiesIn d (lineKey P.space line)
    if l.length < 7 then (s, 0)
    else
      match l.find? fun c => c.2.2.isNone with
      | some c => (s, (s.blk c.2.1).lastCommit)
      | none =>
        match victim (l.map fun c => (c.2.1, 0, c.2.2.getD 0)) with
        | some b =>
          let s1 := s.startCommit b true
          (s1, (s1.blk b).lastCommit)
        | none => (s, 0)

/-- A STR of .grp or .blk scope that touches a host window is performed with .sys scope (R272): it commits, and its lanes
that wait go to the point of coherence. -/
def State.widenRelease (s : State) (k : Nat) (a : Access) : State :=
  let s1 := s.startCommit a.blk true
  (s1.updEntry k a.uid fun a => { a with
      poc := true
      after := (s1.blk a.blk).lastCommit
      reqs := a.reqs.map fun r => { r with served := false } }).postAll
    (a.reqs.map fun r => .translateProbe a.blk a.uid r.line)

/-- One waiting lane of a store whose line has its marks: written into the held copy, sent uncached once its commit is
complete, dropped as a rejected write, or failed in a determinism conflict; it waits where R249 or R253 says so.
Log 92 (DEDUCED). -/
def State.placeLane (s : State) (k uid L : Nat) : State :=
  match s.entry k uid with
  | none => s
  | some a =>
    if a.kind != 2 || a.poc || !(a.wait &&& ~~~(a.fault ||| a.conf)).getLsbD L then s
    else
      let P := s.partyOf a.blk
      let va := a.vaAt L
      let line := lineNo va
      let off := lineOff va
      let x := s.blk a.blk
      let one := BitVec.twoPow 32 L
      match s.storeMark P line with
      | none => s
      | some m =>
        if behindStore (s.lsb k) a L || behindLoad (s.grp a.blk a.grp).loads a line
            || !x.committed a.after || !s.commitOver a.after then s
        else
          let mask := bytesMask off a.size
          let data := linePut (a.dataAt L) off a.size
          let ack (t : State) : State := t.updEntry k uid fun a => { a with wait := a.wait &&& ~~~one }
          if m.unc then
            if a.op = 0xA7 then s.widenRelease k a
            else
              let s1 := if a.begun.getLsbD L then s
                else
                  let s1 := s.startCommit a.blk true
                  s1.updEntry k uid fun a => { a with begun := a.begun ||| one, after := (s1.blk a.blk).lastCommit }
              if (s1.blk a.blk).commits.isEmpty || a.begun.getLsbD L then
                ack (s1.sendUncached a.blk a.grp (ownerOfLine line) m.pa m.bitmap mask data)
              else s1
          else
            let w := s.pressure P line
            if w.2 != 0 then w.1.updEntry k uid fun a => { a with after := w.2 }
            else
              let r := s.tagCheck P line off fun o => .write (sectorBytes a.size o)
              if r.2 = 0 then ack (r.1.hold P line mask data m a.cls)
              else if r.2 = 1 then ack r.1
              else r.1.updEntry k uid fun a => a.failLanes one true r.2

/-- Every lane of an entry tried, in ascending order (R245), and the entry closed if it is finished. -/
def State.placeEntry (s : State) (k uid : Nat) : State :=
  ((List.range 32).foldl (fun s L => s.placeLane k uid L) s).closeEntry k uid

/-- A line of an entry has a probe outstanding, from this entry or from another of the core (R248). -/
def State.probeOut (s : State) (k space line : Nat) : Bool :=
  (s.lsb k).any fun e => e.kind == 2 && (s.blk e.blk).space == space
    && (s.agenda.contains (.translateProbe e.blk e.uid line) || s.agenda.contains (.probeReply e.blk e.uid line))

/-- Translate probes for the lines of an entry that have no W mark and no probe outstanding (R248). -/
def State.probeLines (s : State) (k uid : Nat) : State :=
  match s.entry k uid with
  | none => s
  | some a =>
    let P := s.partyOf a.blk
    a.reqs.foldl
      (fun s r =>
        let waits := (lanesOf (r.lanes &&& a.wait &&& ~~~(a.fault ||| a.conf))).any fun _ => true
        if waits && (s.storeMark P r.line).isNone && !s.probeOut k P.space r.line then s.post (.translateProbe a.blk uid r.line) else s) s

/-- Every entry of a core tried, in issue order, and probes sent for the lines that still lack a mark. -/
def State.settleStores (s : State) (k : Nat) : State :=
  let s1 := (s.lsb k).foldl (fun s a => s.placeEntry k a.uid) s
  (s1.lsb k).foldl (fun s a => if a.kind = 2 && !a.poc then s.probeLines k a.uid else s) s1

/-- A store that has passed its checks takes an entry; its lanes then proceed by R248. -/
def State.enterStore (s : State) (a : Access) : State :=
  let k := (s.blk a.blk).core
  (s.setLsb k (s.lsb k ++ [a])).settleStores k

/-! ### Merging a commit (R254, R273, R345) -/

/-- The bytes of a sector that a deterministic commit may merge: those of sectors whose current writer is the
block (R345). -/
def State.detMask (s : State) (P : Party) (line : Nat) (mask : Line) : Line :=
  if !P.det then mask
  else
    (List.range 4).foldl
      (fun r k =>
        match oget (s.die (ownerOfLine line)).tags (lineKey P.space line * 4 + k) with
        | some t =>
          if t.gslot = (s.grid P.grid).gslot && t.phase = P.phase && t.wid = some P.ident then r ||| (mask &&& bytesMask (32 * k) 32) else r
        | none => r) 0

/-- The issuing die's remote copy of a line written with merged bytes (R273); the copy stays clean. A sector written whole
loses its poison (R89). -/
def State.refreshRemote (s : State) (d key : Nat) (mask data : Line) : State :=
  s.updL2 d key fun x =>
    if x.remote then
      { x with data := lineMerge x.data data (mask &&& x.valid), poison := x.poison &&& ~~~sectorsWithin mask }
    else x

/-- Bytes of a block merged into a line at its point of coherence, written through to the home where the
translation carried SIEVE (R254 steps 2 to 4); into a host window they are a posted write (R277). What feeds a Sieve is each
element as this merge leaves it (R76). -/
def State.mergeLine (s : State) (P : Party) (line pa bitmap : Nat) (sieve : Bool) (mask data : Line) : State :=
  let o := ownerOfLine line
  let key := lineKey P.space line
  let s1 := s.pocWrite o key pa bitmap mask data
  let s2 := if dieOfCore P.core != o then s1.refreshRemote (dieOfCore P.core) key mask data else s1
  let s3 := (if inHost pa then s2.notePort P.blk o else s2).wake P.space line
  if sieve then
    let s4 := s3.homeWrite o pa bitmap mask data
    let els := (List.range 32).filter fun i => mask &&& bytesMask (4 * i) 4 != 0
    let v := (s4.viewLine o key pa (els.foldl (fun m i => m ||| bytesMask (4 * i) 4) 0)).1
    (s4.updDie o fun y => { y with
        feeds := y.feeds ++ els.map fun i => (P.space, line * 128 + 4 * i, lineGet v (4 * i) 4) }).postAll
      (els.map fun i => .sieveFeed o P.space (line * 128 + 4 * i) 4)
  else s3

/-- The owning die's L2 line that a commit merges into: its held copy brings the marks, and the class where the line holds no
data yet (R245, R254). -/
def State.landHeld (s : State) (o key : Nat) (h : Held) : State :=
  let s1 := s.placeL2 o key h.cls
  if ((s.die o).l2At key).isSome then s1
  else s1.updL2 o key fun x => { x with pa := h.pa, bitmap := h.bitmap, rMark := h.rMark, wMark := true, sieve := h.sieve }

/-! ### Lines that a host has (R278) -/

/-- The dirty bitmap and the SIEVE bit of the leaf that maps an address now. -/
def State.leafNotes (s : State) (space : Nat) (va : Word) : Nat × Bool :=
  match s.walk space va with
  | .leaf _ _ entry bitmap => (bitmap, entry.getLsbD 60)
  | _ => (0, false)

/-- The host or a peer as a party at a die; it has no block, and no cache of a core or of the other die is its own. -/
def outsider (d space : Nat) : Party := ⟨0, 96 * d, space, 0, false, 0, 0⟩

/-- Host bytes merged into a physical line (R277, R278): at the owning die's L2 by its virtual address, or at the
memory-side cache where the frame has no owner record. That what the host writes into a SIEVE page
feeds its Sieve (R76) is the model's reading. Log 45 (DEDUCED). -/
def State.hostMerge (s : State) (d line : Nat) (mask data : Line) : State :=
  match s.ownerOfPa d (line * 128) with
  | some o =>
    let n := s.leafNotes o.1 o.2
    s.mergeLine (outsider d o.1) (lineNo o.2) (line * 128) n.1 n.2 mask data
  | none => s.homeWrite d (line * 128) 0 mask data

/-- A line that the package itself reads or writes is taken back from a host that has it for writing, or that caches it
where it is written: its changed bytes are merged and the host loses it (R278). Log 57 (DEDUCED), 85 (DESIGN CHOICE). -/
def State.snoop (s : State) (d pa : Nat) (write : Bool) : State :=
  match oget (s.die d).hostLines (pa / 128) with
  | none => s
  | some x =>
    if !write && !x.write then s
    else
      let s1 := s.updDie d fun y => { y with hostLines := odel y.hostLines (pa / 128) }
      let s2 := match x.data with
        | some v => s1.hostMerge d (pa / 128) (BitVec.allOnes 1024) v
        | none => s1
      if x.asked then s2 else s2.send 3 (physKey d (pa / 128 * 128)) []

/-- The L1 marks of a block cleared once a commit completes, but for lines that hold bytes it has stored since. -/
def State.clearCommitted (s : State) (b : Nat) : State :=
  let x := s.blk b
  s.updL1 x.core fun m => m.map fun kv => (kv.1, kv.2.map fun l =>
    if l.markBlk = b then
      { l with marked := l.marked &&& sectorsOf (if kv.1 / 2 ^ 46 = x.space then x.heldMask (kv.1 % 2 ^ 46) else 0) }
    else l)

end Sys2Proof.Machine
end

