-- ==== Sys2Proof/Machine/Frames.lean ====
section
/-!
DEFINITION. Reads and writes of device memory by virtual address at the point of coherence (frames, records,
status), the layout of a context frame (R295, R360 to R362), and capsule records (R304).
-/

namespace Sys2Proof.Machine

/-! ### Virtual memory at the point of coherence -/

/-- n bytes of a line are asked for at the point of coherence, with the permission bits of the access: the translation, not
counted where the owning die's L2 has them (R69), and a host that has the line gives it back first (R278). -/
def State.seek (s : State) (space : Nat) (va : Word) (n need : Nat) : State × Xlate :=
  let r := s.translate space va need (!(s.die (ownerOf va)).l2Has (lineKey space (lineNo va)) (bytesMask (lineOff va) n))
  if r.2.code != 0 then r else (r.1.snoop (ownerOf va) r.2.pa (need &&& 2 != 0), r.2)

/-- n bytes inside one line, read at the point of coherence; the code is 0, or the fault 4 or 5. -/
def State.vread (s : State) (space : Nat) (va : Word) (n : Nat) : State × Nat × Nat :=
  if !canonical va then (s, 4, 0)
  else
    let r := s.seek space va n 1
    if r.2.code != 0 then (r.1, r.2.code, 0)
    else
      let v := r.1.viewLine (ownerOf va) (lineKey space (lineNo va)) (r.2.pa / 128 * 128) (bytesMask (lineOff va) n)
      (r.1, 0, lineGet v.1 (lineOff va) n)

/-- The poison of n bytes inside one line at the point of coherence (R89). -/
def State.vpoison (s : State) (space : Nat) (va : Word) (n : Nat) : Bool :=
  let r := s.seek space va n 1
  r.2.code = 0 &&
    (r.1.viewLine (ownerOf va) (lineKey space (lineNo va)) (r.2.pa / 128 * 128) (bytesMask (lineOff va) n)).2 != 0

/-- n bytes inside one line written at the point of coherence by a party. -/
def State.vwrite (s : State) (P : Party) (va : Word) (n v : Nat) : State × Nat :=
  if !canonical va then (s, 4)
  else
    let r := s.seek P.space va n 2
    if r.2.code != 0 then (r.1, r.2.code)
    else
      (r.1.mergeLine P (lineNo va) (r.2.pa / 128 * 128) r.2.bitmap (r.2.entry.getLsbD 60)
        (bytesMask (lineOff va) n) (linePut v (lineOff va) n), 0)

/-- n bytes from any address on, read line by line; `fuel` is the number of lines they may touch. -/
def State.vreadBytes (s : State) (space : Nat) (va : Nat) : (fuel n : Nat) → State × Nat × List Byte
  | 0, _ => (s, 0, [])
  | fuel + 1, n =>
    if n = 0 then (s, 0, [])
    else
    let k := min n (128 - va % 128)
    let r := s.vread space (BitVec.ofNat 64 va) k
    if r.2.1 != 0 then (r.1, r.2.1, [])
    else if n ≤ k then (r.1, 0, bytesLe k r.2.2)
    else
      let t := r.1.vreadBytes space (va + k) fuel (n - k)
      (t.1, t.2.1, bytesLe k r.2.2 ++ t.2.2)

/-- Bytes of a line that a block holds, or is committing, discarded (R400). -/
def Block.dropBytes (x : Block) (line : Nat) (mask : Line) : Block :=
  { x with
    held := match oget x.held line with
      | some h => if h.mask &&& ~~~mask == 0 then odel x.held line else oset x.held line { h with mask := h.mask &&& ~~~mask }
      | none => x.held
    commits := x.commits.map fun c => { c with lines := oupd c.lines line fun h => { h with mask := h.mask &&& ~~~mask } } }

/-- Bytes from any address on, written line by line, the block's own held bytes of them discarded (R400), and the
sectors of its core's L1 that hold them invalid, so that its handler loads what was written (R269). Log 28 (DEDUCED). -/
def State.vwriteBytes (s : State) (P : Party) (va : Nat) : (fuel : Nat) → List Byte → State × Nat
  | 0, _ => (s, 0)
  | fuel + 1, l =>
    let k := 128 - va % 128
    let r := s.vwrite P (BitVec.ofNat 64 va) (l.take k).length (leBytes (l.take k))
    if r.2 != 0 then r
    else
      let s1 := (r.1.dropL1 P.core (lineKey P.space (va / 128)) (bytesMask (va % 128) (l.take k).length)).updBlk P.blk fun x =>
        x.dropBytes (va / 128) (bytesMask (va % 128) (l.take k).length)
      if l.length ≤ k then (s1, 0) else s1.vwriteBytes P (va + k) fuel (l.drop k)

/-- The lines that n bytes may touch. -/
def lineFuel (n : Nat) : Nat := n / 128 + 2

/-- Segments of a frame written in order, up to the first that cannot be. Log 28 (DEDUCED), 76 (DEDUCED). -/
def State.writeSegs (s : State) (P : Party) (base : Nat) : List (Nat × List Byte) → State × Nat
  | [] => (s, 0)
  | (off, l) :: t =>
    let r := s.vwriteBytes P (base + off) (lineFuel l.length) l
    if r.2 != 0 then r else r.1.writeSegs P base t

/-- A segment of a frame read: the block's own held bytes where it has them (R400), else the point of coherence. -/
def State.readSeg (s : State) (P : Party) (va n : Nat) : State × Nat × List Byte :=
  let r := s.vreadBytes P.space va (lineFuel n) n
  (r.1, r.2.1, (List.range r.2.2.length).map fun i =>
    let line := (va + i) / 128
    let off := (va + i) % 128
    if ((s.blk P.blk).heldMask line).getLsbD (8 * off) then
      BitVec.ofNat 8 (lineGet ((s.blk P.blk).overlay line 0) off 1)
    else r.2.2.getD i 0)

/-- n bytes at i of a list of bytes as a number. -/
def getLe (l : List Byte) (i n : Nat) : Nat := leBytes ((l.drop i).take n)

/-! ### The group frame (R295, R360, R361) -/

/-- The reasons of the park table in order (R326, R361), 0 for none. -/
def ParkReason.code : ParkReason → Nat
  | .switch => 1
  | .loadSlot => 2
  | .bedAbsence => 3
  | .plotCopies => 4
  | .queue => 5
  | .timeline => 6
  | .matrix => 7
  | .storeBuffer => 8
  | .commit => 9
  | .wait => 10
  | .handler => 11
  | .yield => 12

/-- The lane PC table as it is recorded (R295): yielded lanes as live. -/
def Group.tableBytes (y : Group) : List Byte :=
  (List.range 32).flatMap fun L =>
    bytesLe 8 ((if y.live.getLsbD L then 0 else 2 * 2 ^ 62) + bits (y.lanePc L) 0 53)

/-- A recorded table breaks R295: a reserved ST value or a W0 field that is not zero. -/
def tableBad (t : List Byte) : Bool :=
  (List.range 32).any fun L =>
    let e := getLe t (8 * L) 8
    e / 2 ^ 62 % 2 == 1 || e / 2 ^ 53 % 2 ^ 9 != 0

/-- A recorded table loaded. -/
def Group.loadTable (y : Group) (t : List Byte) : Group :=
  { (y.setPc (BitVec.allOnes 32) fun L => BitVec.ofNat 64 (getLe t (8 * L) 8 % 2 ^ 53)) with
    live := maskOf fun L => getLe t (8 * L) 8 / 2 ^ 62 == 0
    yielded := 0 }

/-- Lane registers lo to lo+n-1, register k of lane L at +256k + 8L. -/
def Group.vBytes (y : Group) (lo n : Nat) : List Byte :=
  (List.range n).flatMap fun k => (List.range 32).flatMap fun L => bytesLe 8 (y.rv (lo + k) L).toNat

def Group.loadV (y : Group) (lo n : Nat) (l : List Byte) : Group :=
  (List.range n).foldl
    (fun y k => y.wv (lo + k) (BitVec.allOnes 32) fun L => BitVec.ofNat 64 (getLe l (256 * k + 8 * L) 8)) y

def Group.sBytes (y : Group) (lo n : Nat) : List Byte :=
  (List.range n).flatMap fun k => bytesLe 8 (y.rs (lo + k)).toNat

def Group.loadS (y : Group) (lo n : Nat) (l : List Byte) : Group :=
  (List.range n).foldl (fun y k => y.ws (lo + k) (BitVec.ofNat 64 (getLe l (8 * k) 8))) y

/-- The first n predicates of a lane as a number. -/
def Group.predsOf (y : Group) (n L : Nat) : Nat :=
  (List.range n).foldl (fun a i => if (y.rp i).getLsbD L then a + 2 ^ i else a) 0

/-- The first 8w predicates, lane L at +wL. -/
def Group.pBytes (y : Group) (w : Nat) : List Byte :=
  (List.range 32).flatMap fun L => bytesLe w (y.predsOf (8 * w) L)

def Group.loadP (y : Group) (w : Nat) (l : List Byte) : Group :=
  (List.range (8 * w)).foldl
    (fun y i => y.wp i (BitVec.allOnes 32) (maskOf fun L => getLe l (w * L) w / 2 ^ i % 2 == 1)) y

/-- The executor's lane of a displaced owner, and CAPST (R361). -/
def Group.capst (y : Group) : Nat :=
  match y.cap with
  | none => 0
  | some c =>
    c.lane + (match c.displaced with | some d => 256 * d + 8192 | none => 0) + (if c.slot.isSome then 32 else 0)
      + (if c.owner then 128 else 64)

/-- The fields of the frame header in order, each with its length in bytes (R361). -/
def Group.headerFields (y : Group) (saved trapped level : Bool) (nrec parkr : Nat) : List (Nat × Nat) :=
  [(8, 2 ^ 56 + (if saved then 8 else 0) + (if trapped then 4 else 0) + (if level then 2 else 0)),
    (8, y.cause.toNat), (8, y.detail0.toNat), (8, y.detail1.toNat), (8, y.detail2.toNat), (8, y.epc.toNat),
    (8, y.emask.toNat), (8, y.pendV.toNat + 2 ^ 32 * y.pendS.toNat), (16, y.pendP.toNat), (8, y.caprec.toNat),
    (8, y.capst), (8, y.smode.toNat + 2 ^ 8 * y.flags.toNat + 2 ^ 16 * y.flagen.toNat), (8, nrec), (8, parkr), (8, 0),
    (8, y.hscr0.toNat), (8, y.hscr1.toNat), (8, y.hscr2.toNat), (8, y.hscr3.toNat), (96, 0)]

/-- The frame header (R361). -/
def Group.header (y : Group) (saved trapped level : Bool) (nrec parkr : Nat) : List Byte :=
  (y.headerFields saved trapped level nrec parkr).flatMap fun f => bytesLe f.1 f.2

/-- The graft slot: v0 to v7, p0 to p6 and the PC of the lane that keeps it. Log 29 (DESIGN CHOICE). -/
def Group.slotBytes (y : Group) : List Byte :=
  match y.cap.bind fun c => c.slot.map fun k => (c.lane, k) with
  | none => bytesLe 2096 0
  | some (lane, k) =>
    ((List.range 8).flatMap fun r => (List.range 32).flatMap fun L =>
        bytesLe 8 (if L = lane then (k.v.getD r 0).toNat else 0))
      ++ ((List.range 32).flatMap fun L => bytesLe 1 (if L = lane then k.preds else 0)) ++ bytesLe 16 k.pc.toNat

/-- A deferred-access record (R362). Log 52 (DEDUCED). -/
def Access.record (a : Access) : List Byte :=
  let kind := if a.conf != 0 && a.fault == 0 then 5 else a.kind
  let lanes := if kind = 5 then a.conf else a.fault
  bytesLe 8 a.pc.toNat
    ++ bytesLe 8 (a.act.toNat + 2 ^ 32 * lanes.toNat)
    ++ bytesLe 8 (2 ^ 56 * kind + 2 ^ 48 * a.op + 2 ^ 45 * a.m + 2 ^ 40 * a.dreg
        + 2 ^ 36 * primary a.lcause lanes + 2 ^ 32 * a.logsz)
    ++ bytesLe 40 0
    ++ (List.range 32).flatMap (fun L => bytesLe 8 (a.vaAt L).toNat)
    ++ (List.range 32).flatMap (fun L => bytesLe 16 (a.dataAt L))
    ++ (List.range 32).flatMap (fun L => bytesLe 1 (if lanes.getLsbD L then a.lcause.getD L 0 else 0))
    ++ bytesLe 160 0

/-- The addresses and data that a record now holds put into its access (R357). -/
def Access.reload (a : Access) (l : List Byte) : Access :=
  { a with
    va := (List.range 32).map fun L => BitVec.ofNat 64 (getLe l (0x40 + 8 * L) 8)
    d0 := (List.range 32).map fun L => BitVec.ofNat 64 (getLe l (0x140 + 16 * L) 8)
    d1 := (List.range 32).map fun L => BitVec.ofNat 64 (getLe l (0x148 + 16 * L) 8) }

/-! ### Capsule records (R304) -/

/-- A word of a capsule record at its home; an unreadable record reads zero. -/
def State.capWord (s : State) (space : Nat) (rec : Word) (off : Nat) : Word :=
  BitVec.ofNat 64 (s.vread space (rec + BitVec.ofNat 64 off) 8).2.2

/-- A word of a capsule record written at its home (R307, R308); its sector leaves the issuing core's L1 (R272). -/
def State.setCapWord (s : State) (P : Party) (rec : Word) (off : Nat) (v : Word) : State :=
  let va := rec + BitVec.ofNat 64 off
  (s.vwrite P va 8 v.toNat).1.dropL1 P.core (lineKey P.space (lineNo va)) (bytesMask (lineOff va) 8)

/-- A line of a capsule record that a host caches and must give back before the record is written (R278): its die and
physical address. -/
def State.capHost (s : State) (space : Nat) (rec : Word) : Option (Nat × Nat) :=
  if s.die0.hostLines.isEmpty && s.die1.hostLines.isEmpty then none
  else [rec, rec + 128].findSome? fun va =>
    let r := (s.translate space va 2 false).2
    if r.code = 0 && s.hostCaches (ownerOf va) r.pa then some (ownerOf va, r.pa) else none

/-- The executor fields of a lane: SPACE, LCORE, GROUP and LANE of word 0x00 (R304). -/
def execFields (space lcore g L : Nat) : Nat := space * 2 ^ 48 + lcore % 2 ^ 16 * 2 ^ 32 + g * 2 ^ 5 + L

/-- The executor fields of a lock word. -/
def lockExec (w : Word) : Nat := bits w 32 24 * 2 ^ 32 + bits w 0 10

def lockHeld (w : Word) : Bool := w.getLsbD 63
def lockRun (w : Word) : Bool := w.getLsbD 62
def lockDone (w : Word) : Bool := w.getLsbD 61
def lockGen (w : Word) : Nat := bits w 16 16

/-- A lock word from its parts. -/
def lockWord (held run done : Bool) (gen fields : Nat) : Word :=
  BitVec.ofNat 64 ((if held then 2 ^ 63 else 0) + (if run then 2 ^ 62 else 0) + (if done then 2 ^ 61 else 0)
    + gen % 2 ^ 16 * 2 ^ 16 + fields)

/-- A field of a capsule record that must be zero is not (R304, capsule cause 8). -/
def State.capBad (s : State) (space : Nat) (rec : Word) : Bool :=
  bits (s.capWord space rec 0) 56 5 != 0 || bits (s.capWord space rec 0) 10 6 != 0
    || (List.range 7).any fun k => s.capWord space rec (0xC8 + 8 * k) != 0

/-- The lock word and XGRID name a lane of a block as executor. -/
def State.namesExec (s : State) (b g L : Nat) (rec : Word) : Bool :=
  let x := s.blk b
  let w := s.capWord x.space rec 0
  lockHeld w && lockExec w == execFields x.space x.lcore g L && (s.capWord x.space rec 8).toNat == x.grid

/-- The OWNER and OGRID fields name a lane of a group of a block. -/
def State.ownsCapsule (s : State) (b g : Nat) (rec : Word) : Bool :=
  let x := s.blk b
  let w := s.capWord x.space rec 0x10
  bits w 32 16 == x.lcore % 2 ^ 16 && bits w 5 5 == g && (s.capWord x.space rec 0x18).toNat == x.grid

end Sys2Proof.Machine
end

