-- ==== Sys2Proof/Machine/Conv.lean ====
section
/-!
DEFINITION. Conversion and quantisation of one lane, and the block codes NX4 and MXFP4
(11_conversion_quantisation_random.md R206 to R218, 02_number_formats.md R36 to R40).
-/

namespace Sys2Proof.Machine

/-- The narrow format a code of FCVT names (R207). -/
def cvtFmt (c : Nat) : Fmt := if c = 1 then bf16 else if c = 2 then fp16 else if c = 3 then e4m3 else e5m2

/-- A spread word carried with derivative 1 in a mode (R185, R186 row FRND). -/
def carry (m : SMode) (a : Word) : Nat × Flags := propagate m [a] (varOf a) (sensOf a)

/-- A spread word carried with derivative 1 by an instruction without a mode: as it stands, a NaN spread
canonical (R206). -/
def carryWord (a : Word) : Nat :=
  if (if tagOf a = 0 then varOf a else sensOf a).isNan then nanSpread else spreadBits a

/-! ### FCVT (R207, R208) -/

def laneNarrow (F : Fmt) (m : SMode) (sr : Bool) (l : Word32) (a : Word) : LaneOut :=
  if m = .smp then
    elements (fun j l =>
      if F = bf16 then (sampleBits a j, 0, if sr then lfsrStep l else l)
      else
        let (r, l') := narrow F sr l (sampleOf a j)
        (r.bits, r.flags ||| snanFlag (sampleOf a j), l')) F.width 4 l
  else
    let x := meanOf a
    let (r, l') := narrow F sr l x
    if (F.value r.bits).isNan then ⟨mkMV nanSpread r.bits, r.flags ||| snanFlag x, l'⟩ else
    let sp := afterRounding sr r (carry m a)
    ⟨mkMV sp.1 r.bits, r.flags ||| sp.2, l'⟩

def laneWiden (F : Fmt) (m : SMode) (l : Word32) (a : Word) : LaneOut :=
  if m = .smp then
    elements (fun j l =>
      let x := F.value (a.toNat / 2 ^ (F.width * j) % 2 ^ F.width)
      let r := round bf16 .rn x
      (r.bits, r.flags ||| snanFlag x, l)) 16 4 l
  else
    let x := F.value (a.toNat % 2 ^ F.width)
    let b := rnBits fp32 x
    ⟨if x.isNan then nanMV else mkMV (spreadBits a) b, snanFlag x, l⟩

/-! ### ICVT and FTOI (R209, R210) -/

/-- The low w bits of a word as a signed or an unsigned integer. -/
def intBits (signed : Bool) (w : Nat) (a : Nat) : Int :=
  let v := a % 2 ^ w
  if signed && decide (2 ^ (w - 1) ≤ v) then (v : Int) - 2 ^ w else v

/-- An integer as an exact value; 0 is +0. -/
def intVal (v : Int) : FVal := .fin (decide (v < 0)) v.natAbs 1

def laneIcvt (signed : Bool) (w : Nat) (m : SMode) (sr : Bool) (l : Word32) (a : Word) : LaneOut :=
  let x := intVal (intBits signed w a.toNat)
  if m = .smp then
    elements (fun _ l =>
      let (r, l') := narrow bf16 sr l x
      (r.bits, r.flags, l')) 16 4 l
  else
    let (r, l') := narrow fp32 sr l x
    let sp := afterRounding sr r (0, 0)
    ⟨mkMV sp.1 r.bits, r.flags ||| sp.2, l'⟩

/-- The lowest and the highest integer of a width. -/
def rangeOf (signed : Bool) (w : Nat) : Int × Int :=
  if signed then (-(2 ^ (w - 1)), 2 ^ (w - 1) - 1) else (0, 2 ^ w - 1)

/-- An integer clamped to a range, and whether it changed. -/
def clampInt (r : Int × Int) (v : Int) : Int × Bool :=
  if v < r.1 then (r.1, true) else if r.2 < v then (r.2, true) else (v, false)

/-- The rounding mode of an instruction to integers, and the LFSR after it. -/
def intMode (rm : RMode) (sr : Bool) (l : Word32) : RMode × Word32 :=
  if sr then let l' := lfsrStep l; (.sr (l'.toNat % 2 ^ 24), l') else (rm, l)

def laneFtoi (signed : Bool) (w : Nat) (rm : RMode) (sr : Bool) (l : Word32) (a : Word) : LaneOut :=
  let (rm, l') := intMode rm sr l
  let R := rangeOf signed w
  match meanOf a with
  | .nan _ => ⟨0, flagINV, l'⟩
  | .inf s => ⟨BitVec.ofInt 64 (if s then R.1 else R.2), flagINV, l'⟩
  | .fin s n d =>
    let (v, inx, _) := roundInt rm s n d
    let (c, out) := clampInt R v
    ⟨BitVec.ofInt 64 c, if out then flagINV else flagIf inx flagINX, l'⟩

/-! ### QCVT, QRSC, QZPC (R211 to R213) -/

/-- q²/12 or q²·f·(1 − f) for a spacing num/den, rounded once to FP32 (R48). -/
def stepVar (sr : Bool) (num den D : Nat) : FVal :=
  if sr then rn32 (.fin false (num * num * (D * (2 ^ 24 - D))) (den * den * 2 ^ 48))
  else rn32 (.fin false (num * num) (12 * (den * den)))

/-- The code and its saturation, inexactness and D, of a finite value (R211). -/
def quantise (rm : RMode) (R : Int × Int) (s : Bool) (n d : Nat) : Int × Bool × Bool × Nat :=
  let (v, inx, D) := roundInt rm s n d
  let (c, sat) := clampInt R v
  (c, sat, inx, D)

def laneQcvt (rt i4 sr : Bool) (l : Word32) (a b : Word) : LaneOut :=
  let (rm, l') := intMode .rn sr l
  let R := rangeOf true (if i4 then 4 else 8)
  let q := scaled 1 (intBits true 8 b.toNat)
  let finish (c : Int) (sat inx : Bool) (D : Nat) : LaneOut :=
    let f := if sat then flagOVF ||| flagINX else flagIf inx flagINX
    if rt then
      let y := round fp32 .rn (.fin (decide (c < 0)) (c.natAbs * q.1) q.2)
      let sp : Nat × Flags :=
        if sat then (e8m16.infMag, flagSOVF)
        else if inx then addVar (carryWord a) (stepVar sr q.1 q.2 D)
        else (carryWord a, 0)
      ⟨mkMV sp.1 y.bits, f ||| y.flags ||| sp.2, l'⟩
    else ⟨BitVec.ofInt 64 (c % (if i4 then 16 else 256)), f, l'⟩
  match meanOf a with
  | .nan _ => ⟨if rt then nanMV else 0, flagINV, l'⟩
  | .inf s => finish (if s then R.1 else R.2) true false 0
  | .fin s n d =>
    let (c, sat, inx, D) := quantise rm R s (n * q.2) (d * q.1)
    finish c sat inx D

def laneQrsc (sr : Bool) (l : Word32) (a b : Word) : LaneOut :=
  let (rm, l') := intMode .rn sr l
  let w4 := b.toNat / 2 ^ 48 % 2 == 1
  let R := rangeOf true (if w4 then 4 else 8)
  match meanOf b with
  | .nan _ => ⟨0, flagINV, l'⟩
  | .inf _ => ⟨0, flagINV, l'⟩
  | .fin s n d =>
    let acc := intBits true 64 a.toNat
    let (v, inx, _) := roundInt rm (s != decide (acc < 0)) (acc.natAbs * n) d
    let (c, out) := clampInt R (v + intBits true 16 (b.toNat / 2 ^ 32))
    ⟨BitVec.ofInt 64 (c % (if w4 then 16 else 256)),
      flagIf inx flagINX ||| (if out then flagOVF ||| flagINX else 0), l'⟩

def laneQzpc (l : Word32) (d a b : Word) : LaneOut :=
  let row := intBits true 32 a.toNat
  let col := intBits true 32 (a.toNat / 2 ^ 32)
  let za := intBits true 16 b.toNat
  let zw := intBits true 16 (b.toNat / 2 ^ 16)
  let k : Int := (b.toNat / 2 ^ 32 : Nat)
  let (c, out) := clampInt (rangeOf true 64) (intBits true 64 d.toNat - zw * row - za * col + k * za * zw)
  ⟨BitVec.ofInt 64 c, flagIf out flagOVF, l⟩

/-! ### Block scales and block codes (R36 to R39) -/

/-- A finite scale (4 + f)·2^(E − 129) as a numerator and a denominator (R36). -/
def e8m2 (E f : Nat) : Nat × Nat := scaled (4 + f) ((E : Int) - 129)

/-- Code `i` of a list of codes. -/
def codeAt (c : List Nat) (i : Nat) : Nat := c.getD i 0 % 16

/-- The partner of an element in its pair. -/
def partner (i : Nat) : Nat := if i % 2 = 0 then i + 1 else i - 1

/-- The value of one element of a block with a valid header, before the scale; `none` is NaN (R38). -/
def nx4Raw (c : List Nat) (X i : Nat) : Option (Bool × Nat × Int) :=
  let x := codeAt c i
  let n := codeAt c (partner i)
  if x = 8 then
    if n = 8 then some (false, 0, 0)
    else
      let m := n % 8
      if X = 15 && m == 7 then none
      else if X = 0 then some (decide (8 ≤ n), m, -9)
      else some (decide (8 ≤ n), 8 + m, (X : Int) - 10)
  else if n = 8 then some (false, 0, 0)
  else some (decide (8 ≤ x), x % 8, 0)

/-- Whether some pair of a block is invalid (R38). -/
def nx4BadPair (c : List Nat) : Bool := (List.range 16).any fun k => codeAt c (2 * k) == 8 && codeAt c (2 * k + 1) == 8

/-- The exact value of element i of an NX4 block (R38). A product that is zero is +0 or −0 as its sign is. -/
def nx4Value (c : List Nat) (h i : Nat) : FVal :=
  let E := h / 4 % 256
  if h / 2 ^ 14 % 4 ≠ 0 then fzero
  else if E = 255 then .nan false
  else if E = 0 then fzero
  else
    match nx4Raw c (h / 2 ^ 10 % 16) i with
    | none => .nan false
    | some (s, m, e) =>
      let q := e8m2 E (h % 4)
      let r := scaled m e
      .fin (s && m != 0) (r.1 * q.1) (r.2 * q.2)

/-- The invalid-format flag of an NX4 block (R38). -/
def nx4Flags (c : List Nat) (h : Nat) : Flags :=
  flagIf (h / 2 ^ 14 % 4 != 0 || nx4BadPair c) flagINVF

/-- Twice the magnitude of an E2M1 code (R39). -/
def e2m1x2 (c : Nat) : Nat := [0, 1, 2, 3, 4, 6, 8, 12].getD (c % 8) 0

/-- The exact value of an MXFP4 element (R39). -/
def mxValue (c S : Nat) : FVal :=
  if S = 255 then .nan false else
  let q := scaled (e2m1x2 c) ((S : Int) - 128)
  .fin (decide (8 ≤ c % 16)) q.1 q.2

/-- A block element of either code: `mx` MXFP4 with scale S = h[7:0], else NX4 with header h. -/
def blockValue (mx : Bool) (c : List Nat) (h i : Nat) : FVal :=
  if mx then mxValue (codeAt c i) (h % 256) else nx4Value c h i

/-! ### BDEC (R218) -/

/-- The codes of a block from the block words of 32 lanes. -/
def blockCodes (va : List Word) : List Nat :=
  (List.range 32).map fun i => (va.getD (i / 2) 0).toNat / 2 ^ (4 * (i % 2)) % 16

/-- A decoded value in FP32: exact, but for one past FP32, which overflows (R44, R206). Log 90 (DEDUCED). -/
def decodeRound (x : FVal) : Rounded := round fp32 .rn x

/-- The decoded certain value of element L and its flags. Log 90 (DEDUCED). -/
def bdecLane (mx : Bool) (c : List Nat) (h L : Nat) : Word × Flags :=
  let r := decodeRound (blockValue mx c h L)
  (certain r.bits, r.flags)

/-! ### BENC (R215 to R217) -/

/-- What the encoder found for an element: its code, the value it decodes to, the spacing num/den of its
bracket and D where its rounding was inexact, and whether the slot was given up. -/
structure EncElem where
  code : Nat
  val : FVal
  inexact : Bool
  num : Nat
  den : Nat
  D : Nat
  given : Bool
  deriving DecidableEq, Repr

/-- Rounding of a magnitude x (in some unit) onto a rising list of grid values in the same unit: the index
taken, whether it was inexact, the spacing and D. `even` ties to the even index, else toward zero. -/
def onGrid (rm : RMode) (even : Bool) (x : Nat) : Nat → List Nat → Nat × Bool × Nat × Nat
  | i, t :: n :: r =>
    if x = t then (i, false, 0, 0)
    else if x < n then
      let rem := x - t
      let den := n - t
      let up := match rm with
        | .sr q => decide (2 ^ 24 ≤ fracD rem den + q)
        | _ => decide (den < 2 * rem) || (2 * rem == den && even && i % 2 == 1)
      (if up then i + 1 else i, true, den, fracD rem den)
    else onGrid rm even x (i + 1) (n :: r)
  | i, _ => (i, false, 0, 0)

/-- The magnitude of a finite mean in units of 2^-149. -/
def magUnits (x : FVal) : Nat :=
  match x with
  | .fin _ n d => n * 2 ^ 149 / d
  | _ => 0

/-- The next candidate of C: the greatest magnitude, the lowest index of equal ones, whose partner is not
taken (R215). -/
def nextCand (mags : List Nat) (C : List Nat) : Option Nat :=
  (List.range 32).foldl (fun best i =>
    if C.contains i || C.contains (partner i) then best else
    match best with
    | none => some i
    | some b => if mags.getD b 0 < mags.getD i 0 then some i else some b) none

/-- The candidate set C of R215. -/
def candidates (mags : List Nat) : Nat → List Nat → List Nat
  | 0, C => C
  | k + 1, C =>
    match nextCand mags C with
    | none => C
    | some i => candidates mags k (C ++ [i])

/-- The smallest E8M2 scale with 7·s ≥ G and 448·s ≥ A, as E and f and as (4 + f)·2^(E+20) units of
2^-149. -/
def pickScale (G A : Nat) : Nat × Nat :=
  let ok (k : Nat) : Bool :=
    let s := (4 + k % 4) * 2 ^ (k / 4 + 20)
    decide (G ≤ 7 * s) && decide (A ≤ 448 * s)
  -- the exponent first: E is at least log2 of what is needed, less 3
  let lo := max (G / 7).log2 (A / 448).log2 - 23
  match (List.range 24).find? fun j => ok (4 * max 1 lo + j) with
  | some j => ((4 * max 1 lo + j) / 4, (4 * max 1 lo + j) % 4)
  | none => (254, 3)

/-- The smallest X with top ≤ 1.875·2^(X−7)·s, X = 15 needing top ≤ 448·s (R215). -/
def pickX (top s : Nat) : Nat :=
  match [9, 10, 11, 12, 13, 14].find? fun X => decide (top * 8 ≤ 15 * 2 ^ (X - 7) * s) with
  | some X => X
  | none => 15

/-- An ordinary NX4 element: a code from −7 to 7 (R215). -/
def nx4Ordinary (rm : RMode) (neg : Bool) (x s : Nat) : EncElem :=
  let (k, inx, _, D) := onGrid rm true x 0 ((List.range 8).map (· * s))
  ⟨k + (if neg && k != 0 then 8 else 0), .fin (neg && k != 0) (k * s) (2 ^ 149), inx, s, 2 ^ 149, D, false⟩

/-- An outlier candidate, above 7 in units of s, on the grid of 7 and those 2^(X−7)·(1 + m/8) that lie above
7, in units of s/8 · 2^-149. The second part is `some` code of the partner where the element escapes. -/
def nx4Outlier (rm : RMode) (neg : Bool) (x s X : Nat) : EncElem × Option Nat :=
  let ms := (List.range 8).filter fun m =>
    !(m == 0 && neg) && !(m == 7 && X == 15) && decide (56 < 2 ^ (X - 7) * (8 + m))
  let grid := 56 * s :: ms.map fun m => 2 ^ (X - 7) * (8 + m) * s
  let (k, inx, q, D) := onGrid rm false (8 * x) 0 grid
  let v := grid.getD k 0
  let el (code : Nat) : EncElem := ⟨code, .fin neg v (8 * 2 ^ 149), inx, q, 8 * 2 ^ 149, D, false⟩
  if k = 0 then (el (if neg then 15 else 7), none)
  else (el 8, some ((if neg then 8 else 0) + ms.getD (k - 1) 0))

/-- The NX4 header and elements of 32 finite means; `rm` gives each lane's rounding. -/
def nx4Encode (xs : List FVal) (rm : Nat → RMode) : Nat × List EncElem :=
  let mags := xs.map magUnits
  let A := mags.foldl max 0
  if A = 0 then (0, xs.map fun _ => ⟨0, fzero, false, 0, 1, 0, false⟩) else
  let C := candidates mags 4 []
  let G := ((List.range 32).filter fun i => !C.contains i).foldl (fun g i => max g (mags.getD i 0)) 0
  let (E, f) := pickScale G A
  let s := (4 + f) * 2 ^ (E + 20)
  let O := C.filter fun i => decide (7 * s < mags.getD i 0)
  let X := if O.isEmpty then 0 else pickX (O.foldl (fun t i => max t (mags.getD i 0)) 0) s
  let out (i : Nat) := nx4Outlier (rm i) (xs.getD i fzero).neg (mags.getD i 0) s X
  (X * 2 ^ 10 + E * 4 + f, (List.range 32).map fun i =>
    if O.contains i then (out i).1
    else
      match (if O.contains (partner i) then (out (partner i)).2 else none) with
      | some c => ⟨c, fzero, false, 0, 1, 0, true⟩
      | none => nx4Ordinary (rm i) (xs.getD i fzero).neg (mags.getD i 0) s)

/-- The MXFP4 scale and elements (R216); −0.0 is not a negative element. -/
def mxEncode (xs : List FVal) (rm : Nat → RMode) : Nat × List EncElem :=
  let mags := xs.map magUnits
  let A := mags.foldl max 0
  let lo := (A / 12).log2 - 24
  let S := match (List.range 8).find? fun j => decide (A ≤ 6 * 2 ^ (lo + j + 22)) with
    | some j => lo + j
    | none => 254
  let half := 2 ^ (S + 21)
  (S, (List.range 32).map fun i =>
    let x := mags.getD i 0
    let neg := (xs.getD i fzero).neg && x != 0
    let (k, inx, q, D) := onGrid (rm i) true x 0 ((List.range 8).map fun c => e2m1x2 c * half)
    ⟨k + (if neg then 8 else 0), .fin neg (e2m1x2 k * half) (2 ^ 149), inx, q, 2 ^ 149, D, false⟩)

/-- The round-trip word of an active lane and its flags (R217). Log 90 (DEDUCED). -/
def encLane (sr : Bool) (a : Word) (e : EncElem) : Word × Flags :=
  let lost : FVal := if e.given then mul32 (meanOf a) (meanOf a) else
    if e.inexact then stepVar sr e.num e.den e.D else fzero
  let r := decodeRound e.val
  let sp := if r.overflow then (e8m16.infMag, flagSOVF) else addVar (carryWord a) lost
  (mkMV sp.1 r.bits, sp.2 ||| r.flags ||| flagIf e.inexact flagINX)

/-- The block word of lane L (R214). -/
def blockWord (hdr : Nat) (es : List EncElem) (L : Nat) : Word :=
  let code (i : Nat) := match es[i]? with
    | some e => e.code
    | none => 0
  BitVec.ofNat 64 (hdr * 2 ^ 16 + code (2 * (L % 16)) + 16 * code (2 * (L % 16) + 1))

/-- BENC over the 32 lanes: for each lane the round-trip word, the block word and the LFSR, and the flags.
Lanes that are not active are handed back as given. -/
def benc (mx sr : Bool) (act : Nat → Bool) (a : List Word) (lf : List Word32) :
    (List Word × List Word × List Word32) × Flags :=
  let lf' := (List.range 32).map fun L => if sr && act L then lfsrStep (lf.getD L 0) else lf.getD L 0
  let rm (L : Nat) : RMode := if sr then .sr ((lf'.getD L 0).toNat % 2 ^ 24) else .rn
  let xs := (List.range 32).map fun L => if act L then meanOf (a.getD L 0) else fzero
  if xs.any fun x => x.isNan || x.isInf then
    let h := if mx then 255 else 255 * 4
    ((List.replicate 32 nanMV, List.replicate 32 (BitVec.ofNat 64 (h * 2 ^ 16)), lf'), flagINV)
  else
    let (h, es) := if mx then mxEncode xs rm else nx4Encode xs rm
    let outs := (List.range 32).map fun L =>
      match es[L]? with
      | some e => encLane sr (a.getD L 0) e
      | none => (0, 0)
    let fl := (List.range 32).foldl (fun f L =>
      if act L then f ||| (match outs[L]? with
        | some p => p.2
        | none => 0) else f) 0
    ((outs.map (·.1), (List.range 32).map (blockWord h es), lf'), fl)

/-! ### The step of an element (R40) -/

/-- The step of element i of a block: NaN for a NaN element. Log 86 (DESIGN CHOICE). -/
def blockStep (mx : Bool) (c : List Nat) (h i : Nat) : FVal :=
  if mx then
    if h % 256 = 255 then .nan false else
    let k := codeAt c i % 8
    let q := scaled (if k ≤ 3 then 1 else if k ≤ 5 then 2 else 4) ((h % 256 : Nat) - (128 : Int))
    .fin false q.1 q.2
  else
    let E := h / 4 % 256
    if E = 255 then .nan false
    else if E = 0 then fzero
    else
      let q := e8m2 E (h % 4)
      let X := h / 2 ^ 10 % 16
      let n := codeAt c (partner i)
      if h / 2 ^ 14 % 4 = 0 && codeAt c i == 8 && n != 8 then
        if X = 15 && n % 8 == 7 then .nan false else
        let r := scaled 1 ((max X 1 : Nat) - (10 : Int))
        .fin false (r.1 * q.1) (r.2 * q.2)
      else .fin false q.1 q.2

/-- The step of a value of a floating-point format (R40). -/
def fmtStep (F : Fmt) (bits : Nat) : FVal :=
  match F.value bits with
  | .nan _ => .nan false
  | .inf _ => .inf false
  | .fin _ _ _ =>
    let e := bits % 2 ^ F.mag / 2 ^ F.fbits
    let q := scaled 1 ((max e 1 : Nat) - F.bias - F.fbits)
    .fin false q.1 q.2

end Sys2Proof.Machine
end

