-- ==== Sys2Proof/Machine/Sower.lean ====
section
/-!
DEFINITION. The Sower's functions: Furrow, the values of RGEN, RUNI, RGAUS and RCAT, and the seeding of the
lane LFSRs (11_conversion_quantisation_random.md R219 to R222, 08_registers_and_lanes.md R154).
-/

namespace Sys2Proof.Machine

/-- The four rounds of Furrow (R219). Log 62 (DEDUCED). -/
def furrowGo (k0 : Nat) : Nat → Nat → Nat → Nat → Nat
  | 0, _, x, _ => x
  | n + 1, r, x, y =>
    let p := x * 0xCD9E8D57
    furrowGo k0 n (r + 1) ((p / 2 ^ 32) ^^^ y ^^^ ((k0 + r * 0x9E3779B9) % 2 ^ 32)) (p % 2 ^ 32)

/-- The Furrow function of a counter and a key (R219). Log 62 (DEDUCED). -/
def furrow (ctr : Word) (key : Word) : Nat :=
  let k0 := key.toNat % 2 ^ 32
  furrowGo k0 4 0 (ctr.toNat % 2 ^ 32 ^^^ k0) (ctr.toNat / 2 ^ 32 ^^^ key.toNat / 2 ^ 32)

/-- The LFSR of lane L of group g at block start (R154). Log 62 (DEDUCED). -/
def seedLfsr (rkey : Word) (blockId g L : Nat) : Word32 :=
  BitVec.ofNat 32 (furrow (BitVec.ofNat 64 (2 ^ 63 + blockId * 1024 + 32 * g + L)) rkey)

/-- RUNI's value of a draw (R221): exact. -/
def runiBits (out : Nat) : Nat := rnBits fp32 (.fin false (out / 2 ^ 8) (2 ^ 24))

/-- The draws of the stream instructions (R221). -/
inductive DrawKind where
  | gen | uni | gaus
  deriving DecidableEq, Repr

/-- What a draw writes in a lane (R221). -/
def drawValue (k : DrawKind) (out : Nat) : Word :=
  match k with
  | .gen => BitVec.ofNat 64 out
  | .uni => BitVec.ofNat 64 (runiBits out)
  | .gaus => BitVec.ofNat 64 (rgausBits out)

/-- The four Gaussian draws of DSAMP for lane L at a counter base (R202). -/
def dsampDraw (base key : Word) (L j : Nat) : Nat := rgausBits (furrow (base + BitVec.ofNat 64 (32 * j + L)) key)

/-- A weight of RCAT in units of 2^-149 and the flag of reading it as 0 (R222). -/
def rcatWeight (a : Word) : Nat × Flags :=
  match meanOf a with
  | .nan _ => (0, flagINV)
  | .inf _ => (0, flagINV)
  | .fin s n d => if n = 0 then (0, 0) else if s then (0, flagINV) else (n * 2 ^ 149 / d, 0)

/-- The smallest index whose prefix sum exceeds t. -/
def rcatPick (t : Nat) : Nat → Nat → List Nat → Nat
  | i, _, [] => i
  | i, acc, x :: r => if t < acc + x then i else rcatPick t (i + 1) (acc + x) r

/-- Row w of a draw of width W: the index written, and the flags (R222). -/
def rcatRow (rctr rkey : Word) (act : Nat → Bool) (a : Nat → Word) (W w : Nat) : Word × Flags :=
  let lanes := (List.range W).map fun i => w * W + i
  let ws := lanes.map fun L => if act L then rcatWeight (a L) else (0, 0)
  let xs := ws.map (·.1)
  let fl := ws.foldl (fun f p => f ||| p.2) 0
  let S := xs.foldl (· + ·) 0
  let hi := furrow (rctr + BitVec.ofNat 64 (2 * w + 1)) rkey
  let lo := furrow (rctr + BitVec.ofNat 64 (2 * w)) rkey
  if S = 0 then (BitVec.ofInt 64 (-1), fl ||| flagCATE)
  else (BitVec.ofNat 64 (rcatPick ((hi * 2 ^ 32 + lo) * S / 2 ^ 64) 0 0 xs), fl)

end Sys2Proof.Machine
end

