-- ==== Sys2Proof/Machine/Ops.lean ====
section
/-!
DEFINITION. The operations that every instruction shares: the end of a group and of a block (R297, R300, R319,
R420), hardware errors (R369), TAKING A TRAP and returning from it (R351 to R357), parks, and the issue of one
word (R15, R19, R21, R29).
-/

namespace Sys2Proof.Machine

/-! ### Blocks and phases -/

/-- The key of block `id` of a grid. -/
def blockKey (grid id : Nat) : Nat := grid * 2 ^ 32 + id

/-- The groups of a block that have not ended (EXPECT of R297). -/
def Block.expect (x : Block) : Nat := ((oitems x.groups).filter fun g => !g.2.ended).length

/-- Generations of barriers that the fall of EXPECT completes (R297). -/
def Block.settleBars (x : Block) : Block :=
  { x with bars := x.bars.filterMap fun kv =>
      if kv.2.arr != 0 && decide (x.expect ≤ kv.2.arr) then some (kv.1, ⟨0, kv.2.gen + 1⟩) else some kv }

/-- Every group of the block that has not ended has arrived at a phase (R300). -/
def Block.arrived (x : Block) (phase : Nat) : Bool := (oitems x.groups).all fun g => g.2.ended || decide (phase < g.2.phases)

/-- The phase of a grid completes when every block has arrived (R300), at least one of them by its groups; a block whose
groups have all ended counts as arrived. In deterministic mode a block that is
resident then makes way for the lower blocks of its logical core (R321). -/
def State.settlePhase (s : State) (n : Nat) : State :=
  let y := s.grid n
  let here := (oitems s.blocks).filter fun b =>
    b.2.grid == n && b.2.job.isNone && b.2.life != .ended && b.2.life != .waiting && b.2.arrived y.phase
  let lower (b : Nat × Block) : Bool := here.any fun a => a.2.lcore == b.2.lcore && decide (a.2.id < b.2.id)
  if (oget s.grids n).isSome && (here.any fun b => b.2.expect != 0) && here.length + y.ended.length = y.blocks then
    (s.setGrid n { y with phase := y.phase + 1 }).postAll
      (((here.filter fun b => b.2.life == .saved).map fun b => .blockStart n b.2.lcore)
        ++ if y.determ then (here.filter fun b => b.2.life == .resident && lower b).map fun b => .contextSave b.1 else [])
  else s

/-- A block's end counted in its grid (R317, R318). -/
def State.countEnd (s : State) (n id : Nat) (o : Outcome3) : State :=
  let s1 := s.updGrid n fun y => { y with
    ended := sset false y.ended id true
    doneN := if o = .done then y.doneN + 1 else y.doneN
    failedN := if o = .failed then y.failedN + 1 else y.failedN
    cancelledN := if o = .cancelled then y.cancelledN + 1 else y.cancelledN }
  let y := s1.grid n
  if (oget s1.grids n).isSome && y.ended.length = y.blocks && !y.graph then
    (s1.setGrid n { y with state := .draining }).post (.gridRetirement n)
  else s1

/-- OUTCOME as a status entry has it (R317). -/
def Outcome3.code : Outcome3 → Nat
  | .pending => 0
  | .done => 1
  | .failed => 2
  | .cancelled => 3

/-- The status entry of a block written at its end (R317). Log 57 (DEDUCED). -/
def State.writeStatus (s : State) (b : Nat) (o : Outcome3) (cause : Nat) : State :=
  let x := s.blk b
  let y := s.gridOf b
  (s.vwrite (s.partyOf b) (y.status + BitVec.ofNat 64 (0x40 + 8 * x.id)) 8
    (x.count.toNat * 2 ^ 32 + cause * 2 ^ 8 + o.code)).1

/-- The number of the Pruner core on which a job runs. Log 73 (DEDUCED). -/
def jobCore (j : Job) : Nat := 192 + 8 * j.die + j.core

/-- The jobs, with their store buffer entries, the commands and the Sieve contexts of a block gone (R81, R147, R303); the
Pruner cores that its jobs leave may take others. What becomes of a context that is open as its block ends is open: it closes and reports nothing.
Log 97 (DESIGN CHOICE). -/
def State.dropEngines (s0 : State) (b : Nat) : State :=
  let mine := (oitems s0.cmds).filterMap fun c => if c.2.blk = b then some c.1 else none
  let jobs := (oitems s0.blocks).filterMap fun x => x.2.job.filter fun j => mine.contains j.cmd
  let s := jobs.foldl (fun s j => (s.setLsb (jobCore j) ((s.lsb (jobCore j)).filter fun a =>
    !(s0.blk a.blk).job.any fun i => mine.contains i.cmd)).post (.prunerJobStart j.die j.core)) s0
  let noJobs (d : Die) : Die :=
    { d with jobs := d.jobs.filter fun c => !mine.contains c, sieves := d.sieves.filter fun kv => !kv.2.any (·.blk == b) }
  { s with
    cmds := s.cmds.filter fun kv => !kv.2.any (·.blk == b)
    blocks := s.blocks.filter fun kv => !kv.2.any fun x => x.job.any fun j => mine.contains j.cmd
    die0 := noJobs s.die0
    die1 := noJobs s.die1 }

/-- The matrix engine of a block's core given up (R225, R243). -/
def State.dropMatrix (s : State) (b : Nat) : State :=
  let k := (s.blk b).core
  if (s.core k).mx.owner = some b then s.updCore k fun c => { c with mx := Matrix.zero } else s

/-- Held copies, marks and store buffer entries dropped (R258). -/
def State.dropHeld (s : State) (b : Nat) : State :=
  let s1 := (s.dropMarked b).updBlk b fun x => { x with held := [] }
  s1.setLsb (s1.blk b).core ((s1.lsb (s1.blk b).core).filter fun a => a.blk != b)

/-! ### Capsules of a block that stops (R309, R313) -/

/-- RUN cleared at the home if the lock word still names the group's executing lane (R309). -/
def State.deschedule (s : State) (b g : Nat) : State :=
  let y := s.grp b g
  match y.cap with
  | none => s
  | some c =>
    if s.namesExec b g c.lane y.caprec then
      let w := s.capWord (s.blk b).space y.caprec 0
      s.setCapWord (s.partyOf b) y.caprec 0 (w &&& ~~~BitVec.twoPow 64 62)
    else s

/-- A capsule of a group whose block fails, is cancelled or is rolled back (R313). A grafter's record keeps SPACE, by which
another contender grafts it (R306). Log 26 (DESIGN CHOICE). -/
def State.abandonCapsule (s : State) (b g : Nat) : State :=
  let y := s.grp b g
  match y.cap with
  | none => s
  | some c =>
    let x := s.blk b
    let P := s.partyOf b
    let w := s.capWord x.space y.caprec 0
    let exec := s.namesExec b g c.lane y.caprec
    let owner := s.ownsCapsule b g y.caprec
    if owner && exec && (s.capWord x.space y.caprec 0x20) == 0 then
      (List.range 32).foldl (fun s k => s.setCapWord P y.caprec (8 * k) 0) s
    else if owner then
      let s1 := s.setCapWord P y.caprec 0x18 0
      if lockDone w then
        s1.setCapWord P y.caprec 0 (lockWord false false true (lockGen w) (lockExec w))
      else if exec then s1.setCapWord P y.caprec 0 (w &&& ~~~BitVec.twoPow 64 62)
      else s1
    else if exec then
      (s.setCapWord P y.caprec 0 (lockWord (lockHeld w) false (lockDone w) (lockGen w) (execFields x.space 0 0 0))).setCapWord
        P y.caprec 8 0
    else s

/-- Every capsule of a block (R313). -/
def State.abandonCapsules (s : State) (b : Nat) : State :=
  (oitems (s.blk b).groups).foldl (fun s g => s.abandonCapsule b g.1) s

/-- A capsule that the block owns has steps, whoever performed them, so it counts as committed (R313). -/
def State.capsuleCommitted (s : State) (b : Nat) : Bool :=
  (oitems (s.blk b).groups).any fun g =>
    g.2.cap.isSome && s.ownsCapsule b g.1 g.2.caprec && s.capWord (s.blk b).space g.2.caprec 0x20 != 0

/-! ### The end of a block -/

/-- The core and the logical core of a block that has left are free for others (R320, R323, R324); `saved` says that a save
made the room. -/
def State.freePlace (s : State) (b : Nat) (saved : Bool := false) : State :=
  let x := s.blk b
  ((s.updGrid x.grid fun y => { y with waitAt := sset 0 y.waitAt x.lcore s.cycles.toNat }).updCore x.core fun c =>
    { c with sliced := saved }).postAll [.coreAssignment x.core, .blockStart x.grid x.lcore]

/-- A block ends failed or cancelled with no hardware error (R420): what it held is dropped, its commands are
cancelled, its capsules treated, and its status entry written. -/
def State.endBlock (s : State) (b : Nat) (o : Outcome3) (cause : Nat) : State :=
  if (s.blk b).life = .ended then s
  else
    let s1 := (((s.abandonCapsules b).dropHeld b).dropEngines b).dropMatrix b
    let s2 := s1.writeStatus b o cause
    let s3 := s2.updBlk b fun x => { x with life := .ended, outcome := o, cause := cause, groups := [] }
    ((s3.countEnd (s3.blk b).grid (s3.blk b).id o).settlePhase (s3.blk b).grid).freePlace b

/-- A Pruner job stops with a status code, and its command completes (R145). -/
def State.endJob (s : State) (b stat : Nat) : State :=
  match (s.blk b).job with
  | none => s
  | some j =>
    (((s.dropHeld b).updBlk b fun x => { x with life := .ended, groups := [] }).updCmd j.cmd
      fun c => { c with stat := stat }).postAll [.commandCompletion j.cmd, .prunerJobStart j.die j.core]

/-- A Pruner job that has ended adds 1 to its mask-ready word, and its command completes; a memory fault there
stops the job instead (R145, R302). -/
def State.finishJob (s : State) (b : Nat) (j : Job) : State :=
  match s.cmd j.cmd with
  | none => s.endJob b 0
  | some c =>
    let va : Word := c.words.getD 3 0
    let r := s.vread (s.blk b).space va 8
    if r.2.1 != 0 then r.1.endJob b (r.2.1 - 3)
    else
      let w := r.1.vwrite (r.1.partyOf b) va 8 (r.2.2 + 1)
      w.1.endJob b (if w.2 = 0 then 0 else w.2 - 3)

/-- A block whose last group has ended commits what it holds; once its commits, its store buffer entries and its
commands have completed it ends done, or, for a Pruner job, raises its mask-ready word (R145, R147, R255, R319). -/
def State.settleBlock (s : State) (b : Nat) : State :=
  let x := s.blk b
  if x.life != .resident || x.expect != 0 || x.groups.isEmpty || !x.commits.isEmpty
      || (s.lsb x.core).any (fun a => a.blk == b) then s
  else if !x.held.isEmpty then s.startCommit b false
  else
    match x.job with
    | some j => s.finishJob b j
    | none =>
      if (oitems s.cmds).any (fun c => c.2.blk == b) then s
      else
        let s1 := ((s.dropEngines b).dropMatrix b).writeStatus b .done 0
        let s2 := s1.updBlk b fun x => { x with life := .ended, outcome := .done }
        ((s2.countEnd x.grid x.id .done).settlePhase x.grid).freePlace b

/-- A group has ended (R284, R297, R300). -/
def State.endGroup (s : State) (b g : Nat) : State :=
  let s1 := (s.updGrp b g fun y => { y.withParks [] with ended := true, active := false }).updBlk b Block.settleBars
  (s1.settlePhase (s1.blk b).grid).settleBlock b

/-- The status code of a job's trap (R138, R145, R347). R145 gives a memory fault 1 or 2: one that is no translation fault
gives 2. Log 44 (DESIGN CHOICE). -/
def jobStat (t : Trap) : Nat :=
  let c := t.detail.toNat / 2 ^ 32 % 16
  if t.group = 8 then (if c = 1 then 8 else 2)
  else if t.group = 1 || t.group = 2 || t.group = 3 then (if c = 4 then 1 else 2)
  else 8

/-! ### Hardware errors (R368, R369, R385) -/

/-- An entry of a die's error log (R385). -/
def State.logError (s : State) (d kind cause outcome unit gridId blockId : Nat) : State :=
  (s.ringPush d (s.die d).elogBase.toNat (s.die d).ringSize.toNat 32
    (kind * 2 ^ 56 + cause * 2 ^ 48 + outcome * 2 ^ 40 + unit % 2 ^ 16 + 2 ^ 64 * gridId + 2 ^ 128 * blockId)).1

/-- A physical core on another cluster, for a relaunched block (R258). Log 82 (DEDUCED). -/
def otherCluster (k : Nat) : Nat := (k / 16 + 1) % 12 * 16 + k % 16

/-- Logical cores that a team keeps together: R·C, 1 without a team (R320, R324). -/
def Grid.unit (y : Grid) : Nat := 2 ^ (y.team / 4) * 2 ^ (y.team % 4)

/-- The logical cores of the team set of one, which are placed, saved, remapped and restored together (R240, R320). -/
def Grid.mates (y : Grid) (l : Nat) : List Nat :=
  ((List.range y.unit).map fun i => l / y.unit * y.unit + i).filter (· < y.lcores)

/-- The other resident blocks of the team set of a block (R320). -/
def State.teamSet (s : State) (b : Nat) : List Nat :=
  let x := s.blk b
  let u := (s.gridOf b).unit
  if u = 1 then []
  else
    ((oitems s.blocks).filter fun o =>
      o.1 != b && o.2.grid == x.grid && o.2.life == .resident && o.2.job.isNone && !o.2.saving
        && o.2.lcore / u == x.lcore / u).map (·.1)

/-- The places of a team set moved to another cluster, for a block that is relaunched (R319, R320). -/
def Grid.moveSet (y : Grid) (l core : Nat) : OMap Nat :=
  (y.mates l).foldl
    (fun m i => match oget m i with
      | some k => if i = l || k / 16 != core / 16 then m else oset m i (otherCluster k)
      | none => m) (oset y.remap l (otherCluster core))

/-- A core marked suspect: the other blocks on it are saved and remapped (R369). Log 82 (DEDUCED). -/
def State.suspectCore (s : State) (b k : Nat) : State :=
  let others := (oitems s.blocks).filter fun o => o.1 != b && o.2.core == k && o.2.life == .resident && o.2.job.isNone
  (s.updCore k fun c => { c with suspect := true }).postAll (others.map fun o => .contextSave o.1)

/-- A hardware error of a block (R369): the block is rolled back and relaunched when it has committed nothing and
has been relaunched fewer than twice, and ends failed otherwise. A block that would wait in a cancelled grid ends cancelled
(R319), and the team set of one that is relaunched is saved and moves with it (R320). A saved block whose engines find one
is stopped in the same way (R73, R146). The STAT of a mask job, 3 for poison and 8 for any other cause, is the model's
choice. Log 32 (DEDUCED), 44 (DESIGN CHOICE). -/
def State.hwError (s : State) (b cause : Nat) : State :=
  let x := s.blk b
  if x.life != .resident && x.life != .saved then s
  else if x.job.isSome then s.endJob b (if cause = 1 then 3 else 8)
  else
    let again := x.count == 0 && decide (x.relaunches < 2) && !s.capsuleCommitted b
    let s1 := s.logError (dieOfCore x.core) 1 cause (if again then 1 else 2) (pcoreOf x.core).toNat x.grid x.id
    let s2 := if cause = 2 || cause = 3 then s1.suspectCore b x.core else s1
    if again && (s.gridOf b).cancelled then s2.endBlock b .cancelled 0
    else if again then
      let s3 := (((s2.abandonCapsules b).dropHeld b).dropEngines b).dropMatrix b
      ((({ s3 with blocks := odel s3.blocks b }).updGrid x.grid fun y => { y with
          rebound := y.rebound ++ [(x.id, x.lcore, x.relaunches + 1, clusterOfCore x.core)]
          remap := y.moveSet x.lcore x.core }).updCore x.core (fun c => { c with sliced := false })).postAll
        ((s.teamSet b).map Instr.contextSave ++ [Instr.blockStart x.grid x.lcore, Instr.coreAssignment x.core])
    else s2.endBlock b .failed 0x0D

/-! ### Taking a trap (R351, R354, R355) -/

/-- A lane of an access waits behind a failed lane of an earlier store of its group (R96, R249). -/
def behindFault (l : List Access) (a : Access) (L : Nat) : Bool :=
  l.any fun e => e.blk == a.blk && e.grp == a.grp && decide (e.seq < a.seq) &&
    (lanesOf (e.fault ||| e.conf)).any fun K => overlaps (e.vaAt K) e.size (a.vaAt L) a.size

/-- A line request waits for a failed store of its group: its own lanes do, or those of an earlier load that has yet
to read the line. -/
def reqExcused (lsb loads : List Access) (a : Access) (r : LineReq) : Bool :=
  !r.served && loads.any fun e => decide (e.seq ≤ a.seq) && e.reqs.any fun q =>
    q.line == r.line && !q.served && (lanesOf q.lanes).any (behindFault lsb e)

/-- The group's matrix instructions that have not completed (R234). -/
def State.matrixOut (s : State) (b g : Nat) : List MatInstr :=
  let m := (s.core (s.blk b).core).mx
  (m.exec.toList ++ m.staged.toList).filter fun i => i.blk == b && i.grp == g

/-- An atomic writes a register: any but RED (0xAC) and the OR of COMPL (0xE1). -/
def Access.hasDest (a : Access) : Bool := a.kind == 3 && a.op != 0xAC && a.op != 0xE1

/-- The group's atomics whose destinations are still to be written (R259). -/
def State.atomicsOut (s : State) (b g : Nat) : List Access :=
  (s.entriesOf b g).filter fun a => a.hasDest && a.wait &&& ~~~(a.fault ||| a.conf) != 0

/-- A deferred fault leaves a destination unwritten: a load's or an atomic's. -/
def DefFault.pendsDest (f : DefFault) : Bool := f.acc.any fun a => a.kind == 1 || a.kind == 4 || a.hasDest

/-- The group has a variable-latency result outstanding, atomics, matrix instructions and results whose fault is
ready included (R20, R100, R234). At handler level only the handler's own count. -/
def State.waiting (s : State) (b g : Nat) : Bool :=
  (s.grp b g).outstanding || !(s.matrixOut b g).isEmpty
    || (!(s.grp b g).level && (s.grp b g).ready.any DefFault.pendsDest)
    || (s.atomicsOut b g).any fun a => !(s.grp b g).level || a.handler

/-- Every outstanding result has been written or its fault is ready (R354 step 1); what waits behind a failed store
of the same group is not waited for. -/
def State.drained (s : State) (b g : Nat) : Bool :=
  let y := s.grp b g
  let l := s.lsb (s.blk b).core
  y.outs.isEmpty && (s.matrixOut b g).isEmpty
    && (y.loads.all fun a => a.reqs.all fun r => r.returned || reqExcused l y.loads a r)
    && (s.atomicsOut b g).all fun a => (lanesOf (a.wait &&& ~~~(a.fault ||| a.conf))).all (behindFault l a)

/-- The bits of a pending mask that the trap area's registers have. -/
def trapRegsV : BitVec 32 := 0xF

def trapRegsP : BitVec 128 := 0xFFFFFFFF

/-- The cause of a lane in a precise trap (R360): its own where the trap keeps them apart, else that of the detail for the
lanes of its mask, which in cause group 06 is the head run, since the detail has none (R139). -/
def Trap.causeOf (t : Trap) (L : Nat) : Nat :=
  let lanes : Mask := if t.group = 6 then t.mask else t.detail.setWidth 32
  if t.fault.isSome then 0
  else if t.lcause.isEmpty then (if lanes.getLsbD L then t.detail.toNat / 2 ^ 32 % 16 else 0)
  else ((t.lcause.find? (·.1 == L)).map (·.2)).getD 0

/-- The trap area and header that handler entry writes, and the graft slot of a capsule's lane (R309, R354 step 4, R360).
-/
def Group.trapSegs (y : Group) (t : Trap) : List (Nat × List Byte) :=
  [(0x0000, y.header false true false (if t.fault.isSome then 1 else 0) ((y.kept.map fun p => p.reason.code).getD 0)),
    (0x0200, y.tableBytes),
    (0x0300, (List.range 32).flatMap fun L => bytesLe 1 (t.causeOf L)),
    (0x0320, y.pBytes 4),
    (0x0400, y.vBytes 0 4),
    (0x0800, y.sBytes 0 4)]
  ++ (if y.cap.isSome then [(0x5000, y.slotBytes)] else [])
  ++ (match t.fault with
      | some f => match f.acc with | some a => [(0x6000, a.record)] | none => []
      | none => [])

/-- Handler entry (R354): with no handler the block ends failed; else CAUSE, DETAIL, EPC and EMASK and the trap
area are written, and every lane is live at HANDLER at handler level. -/
def State.enterHandler (s : State) (b g : Nat) (t : Trap) : State :=
  if (s.grp b g).handler = 0 then s.endBlock b .failed t.group
  else
    let s1 := s.deschedule b g
    let y := { s1.grp b g with
      cause := BitVec.ofNat 64 t.group
      detail0 := BitVec.ofNat 64 (t.detail.toNat % 2 ^ 32)
      detail1 := BitVec.ofNat 64 (t.detail.toNat / 2 ^ 32 % 2 ^ 32)
      detail2 := BitVec.ofNat 64 (t.detail.toNat / 2 ^ 64)
      epc := t.pc
      emask := t.mask.setWidth 64
      trapPend := none
      record0 := t.fault }
    let r := (s1.setGrp b g y).writeSegs (s1.partyOf b) y.frame.toNat (y.trapSegs t)
    if r.2 != 0 then r.1.hwError b 7
    else
      r.1.updGrp b g fun y =>
        { (y.setPc (BitVec.allOnes 32) fun _ => y.handler) with
          level := true
          waitOk := false
          twinBad := false
          live := BitVec.allOnes 32
          yielded := 0
          park := none
          more := []
          pendV := y.pendV &&& ~~~trapRegsV
          pendS := y.pendS &&& ~~~trapRegsV
          pendP := y.pendP &&& ~~~trapRegsP }

/-- A set in flight keeps a group from its boundary: a capsule step or CAPE that has begun (R309). -/
def Await.inFlight : Await → Bool
  | .step .. => true
  | .cape _ => true
  | _ => false

/-- The wait of a resuming capsule lane, which R310 decides afresh at the next resumption. -/
def Await.isCapsule : Await → Bool
  | .capsule _ => true
  | _ => false

/-- TAKING A TRAP. A Pruner job is ended by it (R303); at handler level it ends the block failed (R355); a group
with outstanding results waits for them first (R354 step 1); then the handler is entered. A group that is parked
keeps its park (R101). -/
def State.takeTrap (s : State) (b g : Nat) (t : Trap) : State :=
  if (s.blk b).job.isSome then s.endJob b (jobStat t)
  else if (s.grp b g).level then s.endBlock b .failed t.group
  else
    let s1 := s.updGrp b g fun y => { y with
      kept := if y.await.any Await.isCapsule then y.kept else y.park
      keptMore := if y.await.any Await.isCapsule then y.keptMore else y.more
      keptSwitch := y.switchDue
      switchDue := false
      park := none
      more := []
      yielded := 0 }
    if s1.drained b g then s1.enterHandler b g t
    else s1.updGrp b g fun y => { y with trapPend := some t }

/-- A trap that waited for outstanding results enters its handler once they are there. -/
def State.resumeTrap (s : State) (b g : Nat) : State :=
  match (s.grp b g).trapPend with
  | some t => if s.drained b g then s.enterHandler b g t else s
  | none => s

/-! ### Issue of one word -/

/-- What a word works with: its place, its lanes, and the group and stream as they stood before its set (R15,
R19). -/
structure Issue where
  b : Nat
  g : Nat
  /-- the head run -/
  run : Mask
  /-- the lanes in which the effective guard holds -/
  held : Mask
  /-- the active lanes -/
  act : Mask
  pc : Word
  wpc : Word
  next : Word
  word : Word32
  /-- source operands -/
  G : Group
  rkey : Word
  rctr : Word
  /-- numbers of accesses and results from before the set are below it -/
  before : Nat
  deriving DecidableEq, Repr

/-- The issue of a word in a context. -/
def issueOf (i : Instr) (c : IssueCtx) (s : State) : Issue :=
  let src := c.snap.getD (s.grp c.blk c.grp, (s.blk c.blk).rkey, (s.blk c.blk).rctr)
  let held := match i.guard with
    | some g => src.1.guard g
    | none => c.inherited
  ⟨c.blk, c.grp, c.run, held, c.run &&& held, c.pc, c.wpc, c.next, c.word, src.1, src.2.1, src.2.2, c.before⟩

/-- The detail of a program error (R352). -/
def errDetail (cause : Nat) (lanes : Mask) (word : Word32) (file idx : Nat) : BitVec 96 :=
  BitVec.ofNat 96 (lanes.toNat + 2 ^ 32 * cause + 2 ^ 40 * word.toNat + 2 ^ 72 * idx + 2 ^ 79 * file)

/-- A precise trap of a word: EPC names the first word of its set (R19). -/
def Issue.trapOf (I : Issue) (group : Nat) (detail : BitVec 96) (lcause : List (Nat × Nat)) : Trap :=
  ⟨group, detail, I.pc, I.run, lcause, none⟩

/-- An opcode that a Pruner job may not issue (R303). -/
def jobIllegal : Instr → Bool
  | .lds .. | .sts .. | .ldsx .. | .stsx .. | .plot .. | .unplot .. | .renew .. | .pres .. => true
  | .qw .. | .qr .. | .tlrd .. | .tlw .. => true
  | .mldn .. | .mldw .. | .mma .. | .dmma .. | .mma2 .. | .mzro .. | .mdrn .. | .mstat .. | .mteam .. | .mchk .. => true
  | .rgen .. | .runi .. | .rgaus .. | .rcat .. | .rskip .. | .dsamp .. => true
  | .bar .. | .bara .. | .barc .. | .gbar .. | .capb .. | .cape .. | .capr .. | .maskw .. => true
  | .launch .. | .compl .. | .waitc .. => true
  | .eret .. | .tlbi .. | .psumi .. | .ctxsv .. | .ctxld .. => true
  | _ => false

/-- An opcode that a deterministic grid forbids in every form (R342). -/
def detForbidden : Instr → Bool
  | .capb .. | .cape .. | .capr .. | .acas .. | .afadd .. | .waitm .. | .waitc .. | .lda .. | .str .. => true
  | _ => false

/-- R29 order 2 for a decoded word. -/
def wordIllegal (i : Instr) (s : State) (b : Nat) : Bool := !i.legal || ((s.blk b).job.isSome && jobIllegal i)

/-- R29 order 3. -/
def wordPrivileged (i : Instr) (y : Group) : Bool := i.privileged && !y.level

/-- R29 order 4: the first register or predicate of the word that is pending. -/
def wordPending (i : Instr) (inherited : BitVec 4) (y : Group) : Option (Nat × Nat) :=
  (i.touched (i.guard.getD inherited)).find? fun r => y.isPending r.1 r.2

/-- SIZE and WRITE of a forbidden access (R347): those of the access, zero where the form makes none of its own.
Log 51 (DEDUCED). -/
def forbiddenSize : Instr → Nat × Bool
  | .acas _ _ _ _ n => (if n.getLsbD 1 then 0 else 1, true)
  | .capb .. => (1, true)
  | .cape .. => (1, true)
  | .capr .. => (1, false)
  | .afadd .. => (1, true)
  | .waitm .. => (1, false)
  | .waitc .. => (1, false)
  | .maskw .. => (1, false)
  | .lda _ _ w _ _ => (if w = 1 then 1 else 0, false)
  | .str w _ _ _ _ => (if w = 1 then 1 else 0, true)
  | _ => (0, false)

/-- The detail of a forbidden operation (R347). Log 51 (DEDUCED). -/
def forbiddenDetail (i : Instr) (act : Mask) : BitVec 96 :=
  BitVec.ofNat 96 (act.toNat + 2 ^ 32 + (if (forbiddenSize i).2 then 2 ^ 36 else 0) + 2 ^ 38 * (forbiddenSize i).1)

/-- The checks of R29 orders 2 to 4 on a word, and the forbidden operations of R342 after them. -/
def wordTrap (i : Instr) (I : Issue) (s : State) : Option Trap :=
  if wordIllegal i s I.b then some (I.trapOf 7 (errDetail 2 I.run I.word 0 0) [])
  else if wordPrivileged i I.G then some (I.trapOf 7 (errDetail 3 I.run I.word 0 0) [])
  else
    match wordPending i 7 I.G with
    | some r => some (I.trapOf 7 (errDetail 4 I.run I.word r.1 r.2) [])
    | none =>
      if detForbidden i && (s.gridOf I.b).determ && I.act != 0 then
        some (I.trapOf 8 (forbiddenDetail i I.act) [])
      else none

/-- How a word ended, noted for the set it stands in. -/
def State.mark (s : State) (r : IssueRes) : State := { s with cur := s.cur.map fun c => { c with res := r } }

/-- A word that ended in no other way is done. -/
def State.markDone (s : State) : State :=
  { s with cur := s.cur.map fun c => if c.res = .none then { c with res := .done } else c }

/-- Every lane of the head run moves to the word after the set (R285). -/
def State.advance (s : State) (I : Issue) : State := s.updGrp I.b I.g fun y => y.setPc I.run fun _ => I.next

/-- The head run put back on the first word of its set. Log 31 (DEDUCED). -/
def State.putBack (s : State) (I : Issue) : State := s.updGrp I.b I.g fun y => y.setPc I.run fun _ => I.pc

/-- A precise trap of a word. -/
def Issue.trap (I : Issue) (s : State) (t : Trap) : State := ((s.putBack I).takeTrap I.b I.g t).mark (.trapped t)

/-- A trap taken after the word's set has acted (TRAP, BKPT, TFENCE of R19): EPC names the word after the set. -/
def Issue.trapAfter (I : Issue) (s : State) (group : Nat) (detail : BitVec 96) : State :=
  s.takeTrap I.b I.g ⟨group, detail, I.next, I.run, [], none⟩

/-- A group parks on something that a word has begun, beside what the other words of its set have begun (R19). -/
def State.parkOn (s : State) (b g : Nat) (r : ParkReason) (w : Await) : State :=
  s.updGrp b g fun y => { y.withParks (y.parks ++ [⟨r, w⟩]) with parkedAt := s.cycles.toNat }

/-- A word that does not issue parks with its PC on it, until its own reason clears. -/
def Issue.blockOn (I : Issue) (s : State) (r : ParkReason) (w : Await) : State :=
  ((s.putBack I).parkOn I.b I.g r w).mark .blocked

/-- The same for a word that is tried again once the reason it parked for has cleared. -/
def Issue.block (I : Issue) (s : State) (r : ParkReason) : State := I.blockOn s r .reissue

/-- The first park of a group made another one. -/
def State.repark (s : State) (b g : Nat) (r : ParkReason) (w : Await) : State :=
  s.updGrp b g fun y => { y with park := some ⟨r, w⟩, parkedAt := s.cycles.toNat }

/-- The first park of a group taken away. -/
def State.dropPark (s : State) (b g : Nat) : State := s.updGrp b g fun y => y.withParks y.more

/-- The first park of a kind put before the others. -/
def State.turnTo (s : State) (b g : Nat) (f : Park → Bool) : State :=
  let l := (s.grp b g).parks
  if (l.head?.any f) || !l.any f then s
  else s.updGrp b g fun y => y.withParks ((l.dropWhile (!f ·)) ++ l.takeWhile (!f ·))

/-- A group leaves its first park. The next one of its set follows (R19); else a capsule lane that has resumed goes back to
the parks that it interrupted (R310); else a switch that its set still owes is honoured now (R20). -/
def State.unpark (s : State) (b g : Nat) : State :=
  let y := s.grp b g
  if !y.more.isEmpty then (s.dropPark b g).postOnce (.waitReread b g)
  else if !y.level && y.kept.isSome then
    (s.setGrp b g { y with park := y.kept, more := y.keptMore, kept := none, keptMore := [] }).postOnce (.waitReread b g)
  else
  let s1 := s.setGrp b g { y with park := none, switchDue := false }
  if y.switchDue && s1.waiting b g then s1.parkOn b g .switch .results else s1

/-- The issue of a word: the checks of R29, then its meaning on the state in which the head run has moved on. -/
def issueWord (i : Instr) (s : State) (f : Issue → State → State) : Host.Outcome State Fault Refusal :=
  match s.cur with
  | none => .fault .notAtIssue
  | some c =>
    let I := issueOf i c s
    match wordTrap i I s with
    | some t => .next (I.trap s t)
    | none => .next (f I (s.advance I)).markDone

/-! ### Results -/

/-- Flags raised by a word (R153, R159): sticky in FLAGS, and noted for an MTS of the same set. -/
def Issue.raise (I : Issue) (s : State) (f : Flags) : State :=
  let s1 := s.updGrp I.b I.g fun y => { y with flags := y.flags ||| f }
  { s1 with cur := s1.cur.map fun c => { c with raised := c.raised ||| f } }

/-- The flags of the active lanes together. -/
def flagsOf (m : Mask) (f : Nat → Flags) : Flags := (lanesOf m).foldl (fun a L => a ||| f L) 0

/-- A lane-register result of a fixed-latency word (R17). -/
def Issue.setV (I : Issue) (s : State) (d : BitVec 5) (f : Nat → Word × Flags) : State :=
  I.raise (s.updGrp I.b I.g fun y => y.wv d.toNat I.act fun L => (f L).1) (flagsOf I.act fun L => (f L).2)

/-- A uniform-register result, if any lane is active (R150). -/
def Issue.setS (I : Issue) (s : State) (d : BitVec 5) (r : Word × Flags) : State :=
  if I.act == 0 then s else I.raise (s.updGrp I.b I.g fun y => y.ws d.toNat r.1) r.2

/-- A predicate result in the active lanes. -/
def Issue.setP (I : Issue) (s : State) (p : Nat) (val : Mask) : State := s.updGrp I.b I.g fun y => y.wp p I.act val

/-- A result with a stochastic rounding step of each active lane's LFSR (R47). -/
def Issue.setF (I : Issue) (s : State) (d : BitVec 5) (sr : Bool) (f : Nat → LaneOut) : State :=
  let s1 := I.setV s d fun L => ((f L).val, (f L).flags)
  if sr then s1.updGrp I.b I.g fun y => y.setLf I.act fun L => (f L).lfsr else s1

/-- A variable-latency result (R17): its destinations are pending until it is written. -/
def State.later (s : State) (b g : Nat) (o : VarOut) : State :=
  if o.lanes == 0 then s
  else
    ((s.tick.updGrp b g fun y =>
      let y1 := { y with outs := y.outs ++ [o] }
      let y2 := y1.setPending o.file o.reg true
      if o.hi.isEmpty then y2 else y2.setPending o.file (o.reg + 1) true)).post (.variableLatencyResultWrite b g o.uid)

/-- A variable-latency lane-register result of a word. -/
def Issue.laterV (I : Issue) (s : State) (d : BitVec 5) (f : Nat → Word × Flags) : State :=
  s.later I.b I.g ⟨s.fresh, s.fresh, .v, d.toNat, I.act, perLane fun L => (f L).1, [], 0, flagsOf I.act fun L => (f L).2, 0⟩

/-- A variable-latency uniform-register result of a word. -/
def Issue.laterS (I : Issue) (s : State) (d : BitVec 5) (r : Word × Flags) : State :=
  s.later I.b I.g ⟨s.fresh, s.fresh, .s, d.toNat, I.act, [r.1], [], 0, r.2, 0⟩

/-- A variable-latency predicate result of a word. -/
def Issue.laterP (I : Issue) (s : State) (p : Nat) (val : Mask) : State :=
  s.later I.b I.g ⟨s.fresh, s.fresh, .p, p, I.act, [], [], val, 0, 0⟩

/-- What the write of an outstanding result does (R17, R20, R153). -/
def VarOut.apply (o : VarOut) (y : Group) : Group :=
  let y1 := match o.file with
    | .v =>
      let y1 := y.wv o.reg o.lanes fun L => o.vals.getD L 0
      if o.hi.isEmpty then y1 else y1.wv (o.reg + 1) o.lanes fun L => o.hi.getD L 0
    | .s => y.ws o.reg (o.vals.headD 0)
    | .p => y.wp o.reg o.lanes o.mask
  let y2 := (y1.setPending o.file o.reg false)
  let y3 := if o.hi.isEmpty then y2 else y2.setPending o.file (o.reg + 1) false
  { y3 with flags := y3.flags ||| o.flags, outs := y3.outs.filter (·.uid != o.uid) }

end Sys2Proof.Machine
end

