-- ==== Sys2Proof/Machine/Access.lean ====
section
/-!
DEFINITION. What every instruction that accesses memory shares at issue: addresses (R105, R106), the checks of R98 and
R246, the limits of a capsule body (R307), and the access itself.
-/

namespace Sys2Proof.Machine

/-! ### Addresses -/

/-- vA[L] + sext(off6)·scale (R105, R108, R122). -/
def offsetEa (base : Word) (o : BitVec 6) (scale : Nat) : Word := base + o.signExtend 64 * BitVec.ofNat 64 scale

/-- sA + vB[L]·k (R106, R122). -/
def indexEa (base idx : Word) (k : Nat) : Word := base + idx * BitVec.ofNat 64 k

/-! ### The checks at issue (R98, R246) -/

/-- The first check that an address fails, in the order of R99, or 0. -/
def State.accessCode (s : State) (k space : Nat) (va : Word) (logsz need : Nat) : Nat :=
  if va.toNat % 2 ^ logsz != 0 then 1
  else if !canonical va then 2
  else if !s.summaryOk k space va need then 3
  else 0

/-- The summary entries of canonical addresses cached (R67). -/
def State.lookUp (s : State) (k space : Nat) (act : Mask) (va : Nat → Word) : State :=
  (lanesOf act).foldl (fun s L => if canonical (va L) then s.cacheSummary k space (va L) else s) s

/-- The precise trap of an access some of whose lanes fail a check. -/
def Issue.accessTrap (I : Issue) (s : State) (group logsz need : Nat) (wr : Bool) (act : Mask) (va : Nat → Word) :
    Option Trap :=
  let x := s.blk I.b
  let code (L : Nat) := s.accessCode x.core x.space (va L) logsz need
  let bad := maskOf fun L => act.getLsbD L && code L != 0
  if bad == 0 then none
  else
    let lc := (lanesOf bad).map fun L => (L, code L)
    let c := lc.foldl (fun c p => if c = 0 || p.2 < c then p.2 else c) 0
    some (I.trapOf group (memDetail (va (lowest bad)) logsz false wr c bad) lc)

/-! ### Capsule bodies (R307, R312) -/

/-- The detail of a capsule trap. -/
def capDetail (lanes : Mask) (cause : Nat) (lock : Word) : BitVec 96 :=
  BitVec.ofNat 96 (lanes.toNat + 2 ^ 32 * cause + 2 ^ 40 * bits lock 0 52)

/-- The word is issued by the lane that executes the group's capsule, in its body. -/
def Issue.inBody (I : Issue) : Bool :=
  !I.G.level && I.G.caprec != 0 && I.G.cap.any fun c => c.displaced != some c.lane && I.act == BitVec.twoPow 32 c.lane

/-- A line of the capsule record itself. -/
def recordLine (rec : Word) (line : Nat) : Bool := rec.toNat / 256 == line / 2

/-- The lines that a capsule has touched once an access is added, the record's own not counted. -/
def capLines (c : CapState) (rec : Word) (lines : List Nat) : List Nat :=
  lines.foldl (fun l n => if recordLine rec n || l.contains n then l else l ++ [n]) c.lines

/-- The capsule trap of an access in a body: more than 8 lines, or a line outside the home of the lock. -/
def Issue.capTrap (I : Issue) (act : Mask) (va : Nat → Word) : Option Trap :=
  match I.inBody, I.G.cap with
  | true, some c =>
    if 8 < (capLines c I.G.caprec (linesOf act va)).length then
      some (I.trapOf 9 (capDetail act 3 I.G.caprec) [])
    else if (lanesOf act).any fun L => homeOf (va L) != homeOf I.G.caprec then
      some (I.trapOf 9 (capDetail act 4 I.G.caprec) [])
    else none
  | _, _ => none

/-- The lines an access of a body touches noted. -/
def Issue.noteLines (I : Issue) (s : State) (act : Mask) (va : Nat → Word) : State :=
  if I.inBody then
    s.updGrp I.b I.g fun y =>
      { y with cap := y.cap.map fun c => { c with lines := capLines c y.caprec (linesOf act va) } }
  else s

/-! ### The access of a word -/

/-- The opcode of a word (R9). -/
def opOf (w : Word32) : Nat := w.toNat / 2 ^ 22 % 256

/-- The m field of a word (R11, R362): that of the A format, SM for ACAS, and 0 where the format has none.
Log 52 (DEDUCED). -/
def mOf (w : Word32) : Nat :=
  if opOf w = 0xAA then w.toNat % 4
  else if [0xB0, 0xB1, 0xB2, 0xB3, 0xB7, 0xC0, 0xC1].contains (opOf w) then 0
  else if opOf w = 0x9E || 0xA6 ≤ opOf w then w.toNat / 2 ^ 4 % 8
  else 0

/-- The destination or data register of a word that pushes a command or touches the Bed (R11, R27, R362). -/
def dataReg (w : Word32) : Nat := if opOf w = 0xC0 then w.toNat / 2 ^ 13 % 32 else w.toNat / 2 ^ 17 % 32

/-- No word of the set follows this one. -/
def Issue.isLast (I : Issue) : Bool := I.next == I.wpc + 4

/-- A new access of a word. -/
def Issue.access (I : Issue) (s : State) (kind dreg logsz hint : Nat) (va d0 d1 : Nat → Word) : Access :=
  { uid := s.fresh, seq := s.fresh, blk := I.b, grp := I.g, pc := I.wpc, op := opOf I.word, m := mOf I.word,
    dreg := dreg, kind := kind, logsz := logsz, hint := hint, act := I.act, wait := I.act, fault := 0, conf := 0,
    va := perLane va, d0 := perLane d0, d1 := perLane d1, lcause := List.replicate 32 0, reqs := reqsOf I.act va,
    flags := 0, handler := I.G.level, after := 0, poc := false, begun := 0, last := I.isLast, body := I.inBody }

/-- What a faulted lane of a load is written when the load is dropped: its destination as it stands (R102, R362). -/
def Access.keepDest (a : Access) (y : Group) : Access :=
  let bad := a.fault ||| a.conf
  { a with
    d0 := perLane fun L => if bad.getLsbD L then y.rv a.dreg L else a.d0.getD L 0
    d1 := perLane fun L => if bad.getLsbD L && a.logsz = 4 then y.rv (a.dreg + 1) L else a.d1.getD L 0 }

/-- The pending bits of an access's destination (R17, R95). -/
def Access.markPending (a : Access) (y : Group) (on : Bool) : Group :=
  let y1 := y.setPending .v a.dreg on
  if a.logsz = 4 then y1.setPending .v (a.dreg + 1) on else y1

end Sys2Proof.Machine
end

