-- ==== Sys2Proof/Machine/Loads.lean ====
section
/-!
DEFINITION. Loads and prefetches (R94 to R108), and the steps that serve them: LINE_REQUEST, LOAD_DATA_RETURN,
VARIABLE_LATENCY_RESULT_WRITE and DEFERRED_FAULT_DELIVERY.
-/

namespace Sys2Proof.Machine

/-! ### Issue -/

/-- A park of LDA, which holds a load slot (R97, R279). Log 38 (DEDUCED). -/
def Park.isLda (p : Park) : Bool :=
  match p.what with
  | .lda .. => true
  | _ => false

/-- A deferred fault of a load. -/
def DefFault.isLoad (f : DefFault) : Bool := f.acc.any fun a => (a.kind == 1 && a.op < 0xA6) || a.kind == 4

/-- The deferred faults of loads that wait, have been taken or are being handled. Log 38 (DEDUCED). -/
def Group.loadFaults (y : Group) : List DefFault :=
  (y.ready ++ y.record0.toList ++ (y.trapPend.bind (·.fault)).toList).filter DefFault.isLoad

/-- The loads of a group that hold a slot, each once: those that have not returned, those whose faults wait or are being
handled, and an LDA (R97). Log 38 (DEDUCED). -/
def Group.slots (y : Group) : Nat :=
  (y.loads.map (·.seq) ++ y.loadFaults.map (·.seq)).eraseDups.length
    + (if (y.parks ++ y.kept.toList ++ y.keptMore).any Park.isLda then 1 else 0)

/-- Load slots in use in the quadrant of a group, by the blocks that are resident on its core (R97). -/
def State.slotsUsed (s : State) (b g : Nat) : Nat :=
  let k := (s.blk b).core
  let q := (s.grp b g).quadrant
  ((oitems s.blocks).filter fun x => x.2.core == k && x.2.life == .resident).foldl
    (fun n x => ((oitems x.2.groups).filter fun y => y.2.quadrant == q).foldl (fun n y => n + y.2.slots) n) 0

/-- A load (R94, R95, R98): its checks, its slot, its requests. Kind 4 is LDG. -/
def Issue.load (I : Issue) (s : State) (kind : Nat) (d : BitVec 5) (logsz hint : Nat) (va : Nat → Word) : State :=
  if I.act == 0 then s
  else
    let x := s.blk I.b
    let s1 := s.lookUp x.core x.space I.act va
    match I.accessTrap s1 1 logsz 1 false I.act va with
    | some t => I.trap s1 t
    | none =>
      match I.capTrap I.act va with
      | some t => I.trap s1 t
      | none =>
        if 48 ≤ s1.slotsUsed I.b I.g then I.block s .loadSlot
        else
          let a := { I.access s1 kind d.toNat logsz hint va (fun _ => 0) (fun _ => 0) with poc := I.inBody }
          ((I.noteLines s1.tick I.act va).updGrp I.b I.g fun y =>
              a.markPending { y with loads := y.loads ++ [a] } true).postAll
            (a.reqs.map fun r => .lineRequest I.b I.g a.uid r.line)

/-- An L-format load (R105). -/
def loadL (I : Issue) (s : State) (t a : BitVec 5) (o : BitVec 6) (h : BitVec 2) (logsz : Nat) : State :=
  I.load s 1 t logsz h.toNat fun L => offsetEa (I.G.rv a.toNat L) o (2 ^ logsz)

/-- LDB (R105). -/
def execLdb (t a : BitVec 5) (o : BitVec 6) (h : BitVec 2) (g : BitVec 4) (s : State) :
    Host.Outcome State Fault Refusal :=
  issueWord (.ldb t a o h g) s fun I s => loadL I s t a o h 0

/-- LDH (R105). -/
def execLdh (t a : BitVec 5) (o : BitVec 6) (h : BitVec 2) (g : BitVec 4) (s : State) :
    Host.Outcome State Fault Refusal :=
  issueWord (.ldh t a o h g) s fun I s => loadL I s t a o h 1

/-- LDW (R105). -/
def execLdw (t a : BitVec 5) (o : BitVec 6) (h : BitVec 2) (g : BitVec 4) (s : State) :
    Host.Outcome State Fault Refusal :=
  issueWord (.ldw t a o h g) s fun I s => loadL I s t a o h 2

/-- LDD (R105). -/
def execLdd (t a : BitVec 5) (o : BitVec 6) (h : BitVec 2) (g : BitVec 4) (s : State) :
    Host.Outcome State Fault Refusal :=
  issueWord (.ldd t a o h g) s fun I s => loadL I s t a o h 3

/-- LDQ (R105). -/
def execLdq (t a : BitVec 5) (o : BitVec 6) (h : BitVec 2) (g : BitVec 4) (s : State) :
    Host.Outcome State Fault Refusal :=
  issueWord (.ldq t a o h g) s fun I s => loadL I s t a o h 4

/-- LDX (R106). -/
def execLdx (t a b : BitVec 5) (h : BitVec 2) (x : BitVec 1) (g : BitVec 4) (s : State) :
    Host.Outcome State Fault Refusal :=
  issueWord (.ldx t a b h x g) s fun I s =>
    I.load s 1 t 2 h.toNat fun L => indexEa (I.G.rs a.toNat) (I.G.rv b.toNat L) (if x == 1 then 4 else 1)

/-- LDG (R107): in the read-only class. -/
def execLdg (d a : BitVec 5) (m : BitVec 2) (g : BitVec 4) (s : State) : Host.Outcome State Fault Refusal :=
  issueWord (.ldg d a m g) s fun I s => I.load s 4 d (m.toNat + 2) 2 fun L => I.G.rv a.toNat L

/-- A line prefetched (R108): nothing is reported, and no tag is checked or set (R344). In deterministic mode the L1,
whose lines carry the identity of the load that filled them, is not filled. Log 72 (DEDUCED). -/
def State.prefetch (s : State) (P : Party) (hint : Nat) (line : Nat) : State :=
  (s.fetchLine P line hint (BitVec.allOnes 1024) (hint != 1 && !P.det)).1

/-- PFET (R108). -/
def execPfet (a : BitVec 5) (o : BitVec 6) (h : BitVec 2) (g : BitVec 4) (s : State) :
    Host.Outcome State Fault Refusal :=
  issueWord (.pfet a o h g) s fun I s =>
    let x := s.blk I.b
    let va (L : Nat) := offsetEa (I.G.rv a.toNat L) o 128
    let s1 := s.lookUp x.core x.space I.act va
    let ok := maskOf fun L => I.act.getLsbD L && s1.accessCode x.core x.space (va L) 0 1 == 0
    (linesOf ok va).foldl (fun s n => s.prefetch (s.partyOf I.b) h.toNat n) s1

/-! ### LINE_REQUEST (R94, R96) -/

/-- A load of a group changed. -/
def State.updLoad (s : State) (b g uid : Nat) (f : Access → Access) : State :=
  s.updGrp b g fun y => { y with loads := y.loads.map fun a => if a.uid = uid then f a else a }

/-- The first request of a line that satisfies a test, changed. -/
def updFirst (p : LineReq → Bool) (f : LineReq → LineReq) : List LineReq → List LineReq
  | [] => []
  | r :: t => if p r then f r :: t else r :: updFirst p f t

/-- The tag checks of the lanes of a read (R344): the lanes in conflict with their causes. Log 66 (DEDUCED). -/
def State.readTags (s : State) (P : Party) (a : Access) (lanes : Mask) (line : Nat) : State × List (Nat × Nat) :=
  (lanesOf lanes).foldl
    (fun r L =>
      let c := r.1.tagCheck P line (lineOff (a.vaAt L)) fun _ => .read
      (c.1, if c.2 = 0 then r.2 else r.2 ++ [(L, c.2)])) (s, [])

/-- Lanes of an access failed with the conflicts found. -/
def Access.failConf (a : Access) (l : List (Nat × Nat)) : Access :=
  l.foldl (fun a p => a.failLanes (BitVec.twoPow 32 p.1) true p.2) a

/-- Some lanes of a line read for an access (R83, R86, R344): the state, the access with the lanes that failed, and what
the line brought. -/
def State.readLine (s : State) (a : Access) (lanes : Mask) (line : Nat) : State × Access × Fetched :=
  let P := s.partyOf a.blk
  let withHeld (f : Fetched) : Fetched := { f with
    data := (s.blk a.blk).overlay line f.data
    poison := f.poison &&& ~~~(s.blk a.blk).heldMask line }
  match if a.poc then none else s.l1Hit P line a.hint (needOf a lanes) with
  | some x => (s, a, withHeld ⟨0, x.data, x.poison, false⟩)
  | none =>
    let t := s.readTags P a lanes line
    let a1 := a.failConf t.2
    let ok := lanes &&& ~~~a1.conf
    if ok == 0 then (t.1, a1, ⟨0, 0, 0, false⟩)
    else
      let need := needOf a ok
      let r := if a.poc then t.1.fetchPoc P line a.hint need else t.1.fetchLine P line a.hint need true
      if r.2.code = snoopCode then (r.1, a, r.2)
      else if r.2.code != 0 then (r.1, a1.failLanes ok false r.2.code, ⟨r.2.code, 0, 0, false⟩)
      else (r.1, a1, withHeld r.2)

/-- An earlier atomic of the group that returns a value has lanes to perform: its acquire comes first (R267, R269). -/
def State.behindAcquire (s : State) (a : Access) : Bool :=
  (s.entriesOf a.blk a.grp).any fun e =>
    e.hasDest && decide (e.seq < a.seq) && e.wait &&& ~~~(e.fault ||| e.conf) != 0

/-- A line request of a load arrives (R94). Lanes that overlap a store of their own group which has not been
acknowledged wait for it (R96), a line that an earlier load of the group has yet to read is not read before it
(R269), and nothing is read before an earlier acquire. -/
def State.lineRequest (s : State) (b g uid line : Nat) : State :=
  let y := s.grp b g
  match y.loads.find? (·.uid == uid) with
  | none => s
  | some a =>
    let mine (r : LineReq) : Bool := r.line == line && !r.served
    match a.reqs.find? mine with
    | none => s
    | some r =>
      let behind := maskOf fun L => r.lanes.getLsbD L && behindStore (s.lsb (s.blk b).core) a L
      let now :=
        if behindLoad y.loads a line || s.behindAcquire a || (a.kind == 4 && behind != 0) then 0 else r.lanes &&& ~~~behind
      let again : Instr := .lineRequest b g uid line
      if now == 0 then s.post again
      else
        let t := s.readLine a now line
        if t.2.2.code = snoopCode then t.1.post again else
        let rest := r.lanes &&& ~~~now
        let f : LineReq := { r with
          lanes := now, served := true, crossed := t.2.2.crossed, data := t.2.2.data,
          poison := t.2.2.poison, cause := t.2.2.code }
        let reqs := updFirst mine (fun _ => f) t.2.1.reqs ++ (if rest == 0 then [] else [LineReq.new line rest])
        let s1 := (t.1.updLoad b g uid fun _ => { t.2.1 with reqs := reqs }).post (.loadDataReturn b g uid line)
        let s2 := if rest == 0 then s1 else s1.post again
        s2.settleStores (s2.blk b).core

/-- LINE_REQUEST (R94). -/
def execLineRequest (blk grp ld line : Nat) (s : State) : Host.Outcome State Fault Refusal :=
  .next (s.lineRequest blk grp ld line)

/-! ### LOAD_DATA_RETURN (R95, R107) -/

/-- The value of a lane in the line that served it: low and high half. -/
def Access.laneValue (a : Access) (d : Line) (L : Nat) : Word × Word :=
  let v := lineGet d (lineOff (a.vaAt L)) a.size
  (BitVec.ofNat 64 v, BitVec.ofNat 64 (v / 2 ^ 64))

/-- The lanes of a request written to the destination of its access. -/
def Access.writeLanes (a : Access) (r : LineReq) (y : Group) : Group :=
  let ok := r.lanes &&& ~~~(a.fault ||| a.conf)
  let y1 := y.wv a.dreg ok fun L => (a.laneValue r.data L).1
  if a.logsz = 4 then y1.wv (a.dreg + 1) ok fun L => (a.laneValue r.data L).2 else y1

/-- Some active lane of a request received poison (R89). -/
def Access.poisoned (a : Access) (r : LineReq) : Bool :=
  (lanesOf (r.lanes &&& ~~~(a.fault ||| a.conf))).any fun L => r.poison &&& bytesMask (lineOff (a.vaAt L)) a.size != 0

/-- Another fault of the same instruction still waits or is being handled, or lanes of it are on their way again (R347,
R357). -/
def Group.faultLeft (y : Group) (seq : Nat) : Bool :=
  y.ready.any (fun f => f.acc.any (·.seq == seq)) || y.record0.any (fun f => f.acc.any (·.seq == seq))
    || y.loads.any (·.seq == seq)

/-- A load all of whose requests have returned leaves its slot, or its fault is ready (R95, R100, R107). -/
def State.finishLoad (s : State) (b g uid : Nat) : State :=
  match (s.grp b g).loads.find? (·.uid == uid) with
  | none => s
  | some a =>
    if !a.reqs.all (·.returned) then s
    else
      let s1 := s.updGrp b g fun y => { y with loads := y.loads.filter (·.uid != uid) }
      if a.fault ||| a.conf != 0 then s1.faultsReady b g (a.keepDest (s1.grp b g)).faults
      else
        s1.updGrp b g fun y =>
          let y1 := if a.kind = 4 then a.reqs.foldl (fun y r => a.writeLanes r y) y else y
          if y1.faultLeft a.seq then y1 else a.markPending y1 false

/-- A line's data returns to the core (R95). -/
def State.loadReturn (s : State) (b g uid line : Nat) : State :=
  match (s.grp b g).loads.find? (·.uid == uid) with
  | none => s
  | some a =>
    let mine (r : LineReq) : Bool := r.line == line && r.served && !r.returned
    match a.reqs.find? mine with
    | none => s
    | some r =>
      if a.poisoned r then s.hwError b 1
      else
        let s1 := if a.kind = 4 then s else s.updGrp b g fun y => a.writeLanes r y
        (s1.updLoad b g uid fun a => { a with
            reqs := updFirst mine (fun r => { r with returned := true }) a.reqs
            wait := a.wait &&& ~~~(r.lanes &&& ~~~(a.fault ||| a.conf)) }).finishLoad b g uid

/-- LOAD_DATA_RETURN (R95). -/
def execLoadDataReturn (blk grp ld line : Nat) (s : State) : Host.Outcome State Fault Refusal :=
  .next (s.loadReturn blk grp ld line)

/-! ### VARIABLE_LATENCY_RESULT_WRITE (R17) -/

/-- An outstanding result is written, its pending bit clears and its flags are set (R17, R153). -/
def execVariableLatencyResultWrite (blk grp uid : Nat) (s : State) : Host.Outcome State Fault Refusal :=
  match (s.grp blk grp).outs.find? (·.uid == uid) with
  | some o => .next (s.updGrp blk grp o.apply)
  | none => .next s

/-! ### DEFERRED_FAULT_DELIVERY (R100, R355) -/

/-- The first ready fault of a group stops it at its boundary. At handler level the program's faults wait for ERET,
and a fault of the handler's own ends the block. A group that has ended takes none, an engine trap among them.
Log 48 (DEDUCED). -/
def State.deliverFault (s : State) (b g : Nat) : State :=
  let y := s.grp b g
  if (s.blk b).life != .resident || y.ended || y.trapPend.isSome then s
  else if y.level then
    match y.ready.find? fun f => f.acc.any (·.handler) with
    | some f => s.endBlock b .failed f.group
    | none => s
  else
    match y.ready with
    | [] => s
    | f :: rest =>
      if y.waitsFor Await.inFlight || (s.blk b).saving then s.postOnce (.deferredFaultDelivery b g) else
      let s1 := s.setGrp b g ({ y with ready := rest }).settle
      let h := (s1.grp b g).headRun
      s1.takeTrap b g ⟨f.group, f.detail, h.2, h.1, [], some f⟩

/-- DEFERRED_FAULT_DELIVERY (R100). -/
def execDeferredFaultDelivery (blk grp : Nat) (s : State) : Host.Outcome State Fault Refusal :=
  .next (s.deliverFault blk grp)

end Sys2Proof.Machine
end

