-- ==== Sys2Proof/Machine/StoreOps.lean ====
section
/-!
DEFINITION. Stores (R245 to R251), releases as they issue (R257), and the steps TRANSLATE_PROBE, PROBE_REPLY,
COMMIT_MERGE and MSC_WRITEBACK.
-/

namespace Sys2Proof.Machine

/-! ### Releases -/

/-- Every earlier entry of the group has every lane acknowledged (R257), one that a handler is there for included
(R400), and every earlier load of it has been read, so that it returns nothing that happens-after it (R269).
Log 39 (DEDUCED). -/
def State.releaseOk (s : State) (I : Issue) : Bool :=
  ((s.entriesOf I.b I.g).all fun a => decide (I.before ≤ a.uid))
    && (s.grp I.b I.g).loads.all fun a => decide (I.before ≤ a.uid) || a.reqs.all (·.served)

/-- The scope at which a release is performed (R272): wider than the cluster is the device, and the whole system once
host windows are involved. -/
def releaseScope (m : Nat) (host : Bool) : Nat := if host then 5 else if m = 2 || m = 3 then 4 else m

/-- The flushing reads of a .sys release of a group (R277): one for each host port with posted writes of its block. They
have completed by the release's next step. Log 93 (DESIGN CHOICE). -/
def State.flushPosted (s : State) (b g : Nat) : State :=
  (((s.blk b).posted.foldl (fun s d => s.send 2 (2 ^ 52 * d) []) s).updBlk b fun x => { x with posted := [] }).updGrp b g
    fun y => { y with posted := [] }

/-! ### Issue of a store or an atomic -/

/-- A store or an atomic in a capsule body is a step (R307): the group parks until it has been performed.
Log 39 (DEDUCED). -/
def Issue.step (I : Issue) (s : State) (a : Access) (va : Nat → Word) : State :=
  (((I.noteLines s.tick I.act va).parkOn I.b I.g .commit (.step { a with pc := I.pc } I.G.regs))).post
    (.capsuleStep I.b I.g)

/-- A result from before the set that is still to be written keeps a step and CAPE from issuing: the registers that they
record hold it (R307, R308). Log 26 (DESIGN CHOICE). -/
def State.bodyOut (s : State) (I : Issue) : Bool :=
  !I.G.loads.isEmpty || !I.G.outs.isEmpty || I.G.ready.any DefFault.pendsDest
    || (s.matrixOut I.b I.g).any fun m => decide (m.uid < I.before)

/-- The checks of a store or atomic at issue (R246, R307): a trap, or none. -/
def Issue.storeTrap (I : Issue) (s : State) (logsz need : Nat) (va : Nat → Word) : Option Trap :=
  (I.accessTrap s 2 logsz need true I.act va).orElse fun _ => I.capTrap I.act va

/-- The late store buffer of the core is full (R247). -/
def State.lsbFull (s : State) (b : Nat) : Bool := decide (64 ≤ (s.lsb (s.blk b).core).length)

/-- A store (R245, R247). -/
def Issue.store (I : Issue) (s : State) (t : BitVec 5) (logsz hint : Nat) (va d0 d1 : Nat → Word) : State :=
  if I.act == 0 then s
  else
    let x := s.blk I.b
    let s1 := s.lookUp x.core x.space I.act va
    match I.storeTrap s1 logsz 2 va with
    | some t => I.trap s1 t
    | none =>
      let a := I.access s1 2 t.toNat logsz hint va d0 d1
      if I.inBody && (!s1.releaseOk I || s1.bodyOut I) then I.block s .commit
      else if I.inBody then I.step s1 a va
      else if s1.lsbFull I.b then I.block s .storeBuffer
      else s1.tick.enterStore a

/-- The low bytes of a value. -/
def lowBytes (logsz : Nat) (v : Word) : Word := BitVec.ofNat 64 (v.toNat % 2 ^ (8 * 2 ^ logsz))

/-- An L-format store (R245). -/
def storeL (I : Issue) (s : State) (t a : BitVec 5) (o : BitVec 6) (h : BitVec 2) (logsz : Nat) : State :=
  I.store s t logsz h.toNat (fun L => offsetEa (I.G.rv a.toNat L) o (2 ^ logsz))
    (fun L => lowBytes logsz (I.G.rv t.toNat L)) fun L => if logsz = 4 then I.G.rv (t.toNat + 1) L else 0

/-- STB (R245). -/
def execStb (t a : BitVec 5) (o : BitVec 6) (h : BitVec 2) (g : BitVec 4) (s : State) :
    Host.Outcome State Fault Refusal :=
  issueWord (.stb t a o h g) s fun I s => storeL I s t a o h 0

/-- STH (R245). -/
def execSth (t a : BitVec 5) (o : BitVec 6) (h : BitVec 2) (g : BitVec 4) (s : State) :
    Host.Outcome State Fault Refusal :=
  issueWord (.sth t a o h g) s fun I s => storeL I s t a o h 1

/-- STW (R245). -/
def execStw (t a : BitVec 5) (o : BitVec 6) (h : BitVec 2) (g : BitVec 4) (s : State) :
    Host.Outcome State Fault Refusal :=
  issueWord (.stw t a o h g) s fun I s => storeL I s t a o h 2

/-- STD (R245). -/
def execStd (t a : BitVec 5) (o : BitVec 6) (h : BitVec 2) (g : BitVec 4) (s : State) :
    Host.Outcome State Fault Refusal :=
  issueWord (.std t a o h g) s fun I s => storeL I s t a o h 3

/-- STQ (R245). -/
def execStq (t a : BitVec 5) (o : BitVec 6) (h : BitVec 2) (g : BitVec 4) (s : State) :
    Host.Outcome State Fault Refusal :=
  issueWord (.stq t a o h g) s fun I s => storeL I s t a o h 4

/-- STX (R245). -/
def execStx (t a b : BitVec 5) (h : BitVec 2) (x : BitVec 1) (g : BitVec 4) (s : State) :
    Host.Outcome State Fault Refusal :=
  issueWord (.stx t a b h x g) s fun I s =>
    I.store s t 2 h.toNat (fun L => indexEa (I.G.rs a.toNat) (I.G.rv b.toNat L) (if x == 1 then 4 else 1))
      (fun L => lowBytes 2 (I.G.rv t.toNat L)) fun _ => 0

/-! ### TRANSLATE_PROBE (R248) -/

/-- The lanes of a line of an entry that wait and have not failed. -/
def Access.waitsOn (a : Access) (line : Nat) : Mask :=
  maskOf fun L => (a.wait &&& ~~~(a.fault ||| a.conf)).getLsbD L && lineNo (a.vaAt L) == line

/-- The probe of a line arrives at its home and is translated. A probe whose entry no longer waits leaves the
line to the other entries that wait for it. -/
def State.translateProbe (s : State) (b uid line : Nat) : State :=
  let k := (s.blk b).core
  match s.entry k uid with
  | none => s.settleStores k
  | some a =>
    if a.waitsOn line == 0 then s.settleStores k
    else
      let r := s.translate (s.blk b).space (BitVec.ofNat 64 (line * 128)) 2
      (r.1.updEntry k uid fun a => a.updReq line fun q => { q with served := true, x := r.2 }).post (.probeReply b uid line)

/-- TRANSLATE_PROBE (R248). -/
def execTranslateProbe (blk entry line : Nat) (s : State) : Host.Outcome State Fault Refusal :=
  .next (s.translateProbe blk entry line)

/-! ### PROBE_REPLY (R248, R280) -/

/-- The lanes of every store of a core that wait on a line fail with it. -/
def State.failLine (s : State) (k space line code : Nat) : State :=
  (s.lsb k).foldl
    (fun s e =>
      if e.kind = 2 && !e.poc && (s.blk e.blk).space == space && e.waitsOn line != 0 then
        (s.updEntry k e.uid fun a => a.failLanes (a.waitsOn line) false code).closeEntry k e.uid
      else s) s

/-- An STR is performed with .sys scope (R272): as written, or by its group's posted writes or its own accesses. -/
def State.sysRelease (s : State) (a : Access) : Bool :=
  a.m == 5 || !(s.grp a.blk a.grp).posted.isEmpty || a.reqs.any fun q => q.x.code == 0 && inHost q.x.pa

/-- One lane of an STR of .clu scope or wider written at the point of coherence, once its commit is complete and
every lower lane is written or has failed; a write into a host window goes after the flushing reads (R272, R277,
R280). -/
def State.releaseLane (s : State) (k uid L : Nat) : State :=
  match s.entry k uid with
  | none => s
  | some a =>
    let x := s.blk a.blk
    let open_ := a.wait &&& ~~~(a.fault ||| a.conf)
    let line := lineNo (a.vaAt L)
    if !open_.getLsbD L || (lanesOf open_).any (· < L) || !a.reqs.all (·.served) || !x.committed a.after
        || behindStore (s.lsb k) a L || behindLoad (s.grp a.blk a.grp).loads a line then s
    else
      match a.req line with
      | none => s
      | some q =>
        if q.x.code != 0 then s.updEntry k uid fun a => a.failLanes (BitVec.twoPow 32 L) false q.x.code
        else
          let d := ownerOfLine line
          let off := lineOff (a.vaAt L)
          let mask := bytesMask off a.size
          let data := linePut (a.dataAt L) off a.size
          let pa := q.x.pa / 128 * 128
          let ack (t : State) : State := t.updEntry k uid fun a => { a with wait := a.wait &&& ~~~BitVec.twoPow 32 L }
          if a.begun == 0 && s.sysRelease a then
            (s.flushPosted a.blk a.grp).updEntry k uid fun a => { a with begun := BitVec.allOnes 32 }
          else if inHost pa then ack (s.sendUncached a.blk a.grp d pa q.x.bitmap mask data)
          else if s.hostCaches d pa then s.backInvalidate d pa
          else
            ack ((s.mergeLine (s.partyOf a.blk) line pa q.x.bitmap (q.x.entry.getLsbD 60) mask data).dropL1 k
              (lineKey x.space line) mask)

/-- Every lane of such an entry tried in ascending order. -/
def State.releaseLanes (s : State) (k uid : Nat) : State := (List.range 32).foldl (fun s L => s.releaseLane k uid L) s

/-- Such an entry after its lanes have been tried. What still waits is tried again. -/
def State.releaseRest (s : State) (k b uid line : Nat) : State :=
  match s.entry k uid with
  | none => s
  | some a =>
    let s1 := if a.waitsOn line != 0 then s.post (.probeReply b uid line) else s
    ((s1.closeEntry k uid).settleStores k).settleBlock b

/-- Such an entry tried. Log 40 (DEDUCED). -/
def State.releaseEntry (s : State) (k b uid line : Nat) : State := (s.releaseLanes k uid).releaseRest k b uid line

/-- The marks that a probe's reply gives a line in the L2 where its copy will stand. Where copies hold every way of its set,
the oldest is committed first (R253), and the line is probed again. -/
def State.markLine (s : State) (P : Party) (line : Nat) (x : Xlate) (cls : Nat) : State :=
  let d := s.holdDie P line
  let t := s.markL2 d (lineKey P.space line) x cls
  if ((t.die d).l2At (lineKey P.space line)).isSome then t else (t.pressure P line).1

/-- The reply to a probe (R248): the marks of the line, and the waiting lanes written, or failed. -/
def State.probeReply (s : State) (b uid line : Nat) : State :=
  let x := s.blk b
  match s.entry x.core uid with
  | none => s.settleStores x.core
  | some a =>
    match a.req line with
    | none => s
    | some q =>
      if a.poc then s.releaseEntry x.core b uid line
      else if q.x.code != 0 then ((s.failLine x.core x.space line q.x.code).settleStores x.core).settleBlock b
      else
        ((s.markLine (s.partyOf b) line q.x a.cls).settleStores x.core).settleBlock b

/-- PROBE_REPLY (R248). -/
def execProbeReply (blk entry line : Nat) (s : State) : Host.Outcome State Fault Refusal :=
  .next (s.probeReply blk entry line)

/-! ### COMMIT_MERGE (R254) -/

/-- Every core with a store that waits for a commit tries its stores. -/
def State.settleAfter (s : State) (id : Nat) : State :=
  ((oitems s.cores).filter fun c => c.2.lsb.any fun a => a.after == id).foldl (fun s c => s.settleStores c.1) s

/-- A line of a commit gone, and the commit complete once none is left. -/
def State.commitDone (s : State) (b id line : Nat) : State :=
  let s1 := s.updBlk b fun x => { x with
    commits := (x.commits.map fun c => if c.id = id then { c with lines := odel c.lines line } else c).filter
      fun c => !c.lines.isEmpty }
  if (s1.blk b).commits.any (·.id == id) then s1
  else (((s1.clearCommitted b).settleStores (s1.blk b).core).settleAfter id).settleBlock b

/-- A line of a commit is still to be merged by an earlier commit of the block. -/
def Block.mergedLater (x : Block) (id line : Nat) : Bool :=
  x.commits.any fun c => decide (c.id < id) && (oget c.lines line).isSome

/-- A held copy leaves its commit for the merge, so that its way of the L2 is the line's. -/
def State.takeHeld (s : State) (b id line : Nat) : State :=
  s.updBlk b fun x => { x with
    commits := x.commits.map fun c => if c.id = id then { c with lines := odel c.lines line } else c }

/-- Held bytes of a commit arrive at the owning die's L2 and are merged (R254), after those of the block's earlier commits
(R269); a copy of the line that the host caches is back-invalidated first (R278). -/
def State.commitMerge (s : State) (b id line : Nat) : State :=
  match (s.blk b).commits.find? (·.id == id) with
  | none => s
  | some c =>
    match oget c.lines line with
    | none => s
    | some h =>
      let o := ownerOfLine line
      if (s.blk b).mergedLater id line then s.post (.commitMerge b id line)
      else if s.hostCaches o h.pa then (s.backInvalidate o h.pa).post (.commitMerge b id line)
      else
        let P := s.partyOf b
        let mask := s.detMask P line h.mask
        let s1 := (((s.takeHeld b id line).landHeld o (lineKey P.space line) h).mergeLine P line h.pa h.bitmap h.sieve mask
          h.data).mergeL1 P line h.mask mask
        (if c.bad.contains line then s1.poisonPoc o (lineKey P.space line) h.pa (sectorsOf mask) else s1).commitDone b id line

/-- COMMIT_MERGE (R254). -/
def execCommitMerge (blk commit line : Nat) (s : State) : Host.Outcome State Fault Refusal :=
  .next (s.commitMerge blk commit line)

/-- MSC_WRITEBACK (R68). -/
def execMscWriteback (die line : Nat) (s : State) : Host.Outcome State Fault Refusal :=
  .next (s.mscWriteBack die line)

end Sys2Proof.Machine
end

