-- ==== Sys2Proof/Machine/Atomics.lean ====
section
/-!
DEFINITION. Atomics (R259 to R262) and the step ATOMIC_PERFORM.
-/

namespace Sys2Proof.Machine

/-! ### Issue -/

/-- An atomic (R259): its checks, the release (R257), its entry, the commit that comes first, and one performance for
each lane. Log 41 (DEDUCED). -/
def Issue.atomic (I : Issue) (s : State) (d : BitVec 5) (logsz : Nat) (dest : Bool) (va d0 d1 : Nat → Word) : State :=
  if I.act == 0 then s
  else
    let x := s.blk I.b
    let s1 := s.lookUp x.core x.space I.act va
    match I.storeTrap s1 logsz 3 va with
    | some t => I.trap s1 t
    | none =>
      let a := I.access s1 3 d.toNat logsz 0 va d0 d1
      if !s1.releaseOk I || (I.inBody && s1.bodyOut I) then I.block s .commit
      else if I.inBody then I.step s1 a va
      else if s1.lsbFull I.b then I.block s .storeBuffer
      else
        let s2 := s1.tick.startCommit I.b true
        let s3 := s2.enterStore { a with after := (s2.blk I.b).lastCommit }
        (s3.updGrp I.b I.g fun y => if dest then a.markPending y true else y).postAll
          ((lanesOf I.act).map fun L => .atomicPerform I.b a.uid L)

/-- ATOM (R260). -/
def execAtom (d a b : BitVec 5) (m : BitVec 3) (g : BitVec 4) (s : State) : Host.Outcome State Fault Refusal :=
  issueWord (.atom d a b m g) s fun I s =>
    I.atomic s d 3 true (fun L => I.G.rv a.toNat L) (fun L => I.G.rv b.toNat L) fun _ => 0

/-- RED (R260). -/
def execRed (a b : BitVec 5) (m : BitVec 3) (g : BitVec 4) (s : State) : Host.Outcome State Fault Refusal :=
  issueWord (.red a b m g) s fun I s =>
    I.atomic s b 3 false (fun L => I.G.rv a.toNat L) (fun L => I.G.rv b.toNat L) fun _ => 0

/-- ACAS (R261). -/
def execAcas (d a b e : BitVec 5) (n : BitVec 2) (s : State) : Host.Outcome State Fault Refusal :=
  issueWord (.acas d a b e n) s fun I s =>
    I.atomic s d (if n.getLsbD 1 then 2 else 3) true (fun L => I.G.rv a.toNat L) (fun L => I.G.rv b.toNat L)
      fun L => I.G.rv e.toNat L

/-- AFADD (R262). -/
def execAfadd (d a b : BitVec 5) (m : BitVec 1) (g : BitVec 4) (s : State) : Host.Outcome State Fault Refusal :=
  issueWord (.afadd d a b m g) s fun I s =>
    I.atomic s d 3 true (fun L => I.G.rv a.toNat L) (fun L => I.G.rv b.toNat L) fun _ => 0

/-! ### The operation -/

/-- The integer operation of an m[6:4] code on 64-bit values (R260). -/
def redOp (m : Nat) (old b : Word) : Word :=
  match m with
  | 0 => old + b
  | 1 => old &&& b
  | 2 => old ||| b
  | 3 => old ^^^ b
  | 4 => if old.slt b then old else b
  | 5 => if b.slt old then old else b
  | 6 => if old.ult b then old else b
  | _ => if b.ult old then old else b

/-- The operation code of an atomic: its m field, and OR for COMPL (R336). -/
def Access.code (a : Access) : Nat := if a.op = 0xE1 then 2 else a.m

/-- What a lane of an atomic writes, `none` for nothing, and the flags it raises (R260 to R262). -/
def Access.atomicNew (a : Access) (old : Nat) (L : Nat) : Option Nat × Flags :=
  let b := a.d0.getD L 0
  if a.op = 0xAA then
    if a.m % 2 = 1 || old = b.toNat % 2 ^ (8 * a.size) then
      (some ((a.d1.getD L 0).toNat % 2 ^ (8 * a.size)), 0)
    else (none, 0)
  else if a.op = 0xAB then
    let r := laneAdd .ind false 0 (BitVec.ofNat 64 old) b
    (some r.val.toNat, r.flags)
  else (some (redOp a.code (BitVec.ofNat 64 old) b).toNat, 0)

/-- A lane of an atomic acknowledged. -/
def Access.ackLane (a : Access) (L : Nat) (f : Flags) : Access :=
  { a with wait := a.wait &&& ~~~BitVec.twoPow 32 L, flags := a.flags ||| f }

/-! ### ATOMIC_PERFORM (R259) -/

/-- An atomic with every lane acknowledged or failed: its destination is no longer pending once every lane is written,
its flags are set, and what returns a value acquires (R95, R262, R267). -/
def State.finishAtomic (s : State) (k uid : Nat) : State :=
  match s.entry k uid with
  | none => s
  | some a =>
    if a.wait != 0 then (s.closeEntry k uid).settleStores k
    else
      let s1 := if a.hasDest then
          (s.updGrp a.blk a.grp fun y =>
            let y1 := { y with flags := y.flags ||| a.flags }
            if y1.faultLeft a.seq then y1 else a.markPending y1 false).acquire a.blk 4
        else s
      ((s1.closeEntry k uid).settleStores k).settleBlock a.blk

/-- An atomic of a lane on the word its point of coherence holds.
Log 45 (DEDUCED), 53 (DEDUCED), 54 (DEDUCED), 66 (DEDUCED). -/
def State.atomicLane (s : State) (k : Nat) (a : Access) (L : Nat) (x : Xlate) : State :=
  let P := s.partyOf a.blk
  let line := lineNo (a.vaAt L)
  let off := lineOff (a.vaAt L)
  let d := ownerOfLine line
  let key := lineKey P.space line
  let pa := x.pa / 128 * 128
  let mask := bytesMask off a.size
  let v := s.viewLine d key pa mask
  if v.2 &&& ~~~(s.blk a.blk).heldMask line != 0 then s.hwError a.blk 1
  else
    let old := lineGet ((s.blk a.blk).overlay line v.1) off a.size
    let r := a.atomicNew old L
    let s1 := match r.1 with
      | some n => (s.mergeLine P line pa x.bitmap (x.entry.getLsbD 60) mask (linePut n off a.size)).dropL1 k key mask
      | none => s
    let s2 := if a.hasDest then
        s1.updGrp a.blk a.grp fun y => y.wv a.dreg (BitVec.twoPow 32 L) fun _ => BitVec.ofNat 64 old
      else s1
    let f := s2.takeFlaw P (a.vaAt L)
    if f.2 then f.1.hwError a.blk 1 else (f.1.updEntry k a.uid fun a => a.ackLane L r.2).finishAtomic k a.uid

/-- A lane of an atomic is performed: after its commit, after the lower lanes of its address, and after earlier
accesses of its group to the bytes. -/
def State.atomicPerform (s : State) (b uid L : Nat) : State :=
  let k := (s.blk b).core
  match s.entry k uid with
  | none => s
  | some a =>
    let open_ := a.wait &&& ~~~(a.fault ||| a.conf)
    let va := a.vaAt L
    let again := s.post (.atomicPerform b uid L)
    if !open_.getLsbD L then s
    else if (lanesOf open_).any (fun K => decide (K < L) && overlaps (a.vaAt K) a.size va a.size)
        || !(s.blk b).committed a.after || behindStore (s.lsb k) a L
        || behindLoad (s.grp b a.grp).loads a (lineNo va) then again
    else
      let P := s.partyOf b
      let r := s.translate P.space va 3
      let code := if r.2.code = 0 && inHost r.2.pa then 5 else r.2.code
      let fail (t : State) (conf : Bool) (c : Nat) : State :=
        (t.updEntry k uid fun a => a.failLanes (BitVec.twoPow 32 L) conf c).finishAtomic k uid
      if code != 0 then fail r.1 false code
      else if s.hostCaches (ownerOf va) r.2.pa then (r.1.backInvalidate (ownerOf va) r.2.pa).post (.atomicPerform b uid L)
      else
        let t := r.1.tagCheck P (lineNo va) (lineOff va) fun _ => .atomic a.code a.hasDest
        if t.2 != 0 then fail t.1 true t.2 else t.1.atomicLane k a L r.2

/-- ATOMIC_PERFORM (R259). -/
def execAtomicPerform (blk entry lane : Nat) (s : State) : Host.Outcome State Fault Refusal :=
  .next (s.atomicPerform blk entry lane)

end Sys2Proof.Machine
end

