-- ==== Sys2Proof/Machine/SyncOps.lean ====
section
/-!
DEFINITION. Synchronising reads, releases and fences: LDA, STR, FENCE, COMMIT and WAITM (R256, R263, R279 to R281).
-/

namespace Sys2Proof.Machine

/-! ### Reads at the point of coherence (R272) -/

/-- What a read of a word at its point of coherence brings: the fault of R99 or the conflict of R347, or 0; the value;
whether it is poisoned; whether it lies in a host window. -/
structure WordRead where
  code : Nat
  conf : Bool
  val : Nat
  poison : Bool
  host : Bool
  deriving DecidableEq, Repr

/-- n bytes of a line read for a block: its own held bytes where present, else those of the point of coherence. A read that
the owning die's L2 serves is not counted at the home (R69). -/
def State.readWord (s : State) (b : Nat) (va : Word) (n : Nat) : State × WordRead :=
  let P := s.partyOf b
  let mask := bytesMask (lineOff va) n
  let key := lineKey P.space (lineNo va)
  let r := s.translate P.space va 1 (!(s.die (ownerOf va)).l2Has key mask)
  if r.2.code != 0 then (r.1, ⟨r.2.code, false, 0, false, false⟩)
  else if r.1.hostWrites (ownerOf va) r.2.pa then (r.1.backInvalidate (ownerOf va) r.2.pa, ⟨snoopCode, false, 0, false, false⟩)
  else
    let t := r.1.tagCheck P (lineNo va) (lineOff va) fun _ => .read
    if t.2 != 0 then (t.1, ⟨t.2, true, 0, false, false⟩)
    else
      let v := t.1.viewLine (ownerOf va) key (r.2.pa / 128 * 128) mask
      let u := t.1.takeFlaw P va
      (u.1, ⟨0, false, lineGet ((s.blk b).overlay (lineNo va) v.1) (lineOff va) n,
        v.2 &&& ~~~(s.blk b).heldMask (lineNo va) != 0 || u.2, inHost r.2.pa⟩)

/-- What the lanes of a synchronising read bring beside their values: whether one is poisoned, whether one lies in a host
window, and whether one must be read again once a host has given its line back. -/
structure ReadNotes where
  poison : Bool
  host : Bool
  again : Bool
  deriving DecidableEq, Repr

/-- The lanes of a synchronising read: the state, the access with values and failed lanes, and the notes. -/
def State.readLanes (s : State) (a : Access) (lanes : Mask) : State × Access × ReadNotes :=
  (lanesOf lanes).foldl
    (fun r L =>
      let q := r.1.readWord a.blk (a.vaAt L) a.size
      if q.2.code = snoopCode then (q.1, r.2.1, { r.2.2 with again := true })
      else if q.2.code != 0 then (q.1, r.2.1.failLanes (BitVec.twoPow 32 L) q.2.conf q.2.code, r.2.2)
      else (q.1, { r.2.1 with d0 := r.2.1.d0.set L (BitVec.ofNat 64 q.2.val) },
        { r.2.2 with poison := r.2.2.poison || q.2.poison, host := r.2.2.host || q.2.host }))
    (s, a, ⟨false, false, false⟩)

/-- A read waits behind an earlier store or load of its group to its bytes (R96, R269), and behind every earlier atomic of
its group, since the order of all of them agrees with issue order (R270); at handler level not behind lanes of the program's
that have faulted. Log 37 (DEDUCED). -/
def State.readWaits (s : State) (a : Access) (lanes : Mask) : Bool :=
  ((s.entriesOf a.blk a.grp).any fun e =>
      e.kind == 3 && decide (e.seq < a.seq)
        && (if a.handler && !e.handler then e.wait &&& ~~~(e.fault ||| e.conf) else e.wait) != 0)
    || (lanesOf lanes).any fun L =>
      behindStore (s.lsb (s.blk a.blk).core) a L || behindLoad (s.grp a.blk a.grp).loads a (lineNo (a.vaAt L))

/-- What a parked group waits for, changed. -/
def State.setAwait (s : State) (b g : Nat) (w : Await) : State :=
  s.updGrp b g fun y => { y with park := y.park.map fun p => { p with what := w } }

/-! ### LDA (R279) -/

/-- LDA. -/
def execLda (d a : BitVec 5) (w : BitVec 1) (m : BitVec 3) (g : BitVec 4) (s : State) :
    Host.Outcome State Fault Refusal :=
  issueWord (.lda d a w m g) s fun I s =>
    if I.act == 0 then s
    else
      let x := s.blk I.b
      let logsz := if w = 1 then 3 else 2
      let va (L : Nat) := I.G.rv a.toNat L
      let s1 := s.lookUp x.core x.space I.act va
      match I.accessTrap s1 1 logsz 1 false I.act va with
      | some t => I.trap s1 t
      | none =>
        if 48 ≤ s1.slotsUsed I.b I.g then I.block s .loadSlot
        else
          let acc := I.access s1 1 d.toNat logsz 0 va (fun _ => 0) fun _ => 0
          (((s1.tick.updGrp I.b I.g fun y => acc.markPending y true).parkOn I.b I.g .wait (.lda acc m.toNat)).post
            (.waitReread I.b I.g))

/-- An LDA all of whose lanes are there: the acquire, then every active lane together. -/
def State.finishLda (s : State) (b g : Nat) (a : Access) (scope : Nat) : State :=
  ((s.acquire b scope).updGrp b g fun y =>
    a.markPending (y.wv a.dreg a.act fun L => a.d0.getD L 0) false).setAwait b g .nothing

/-- The reads of a parked LDA. -/
def State.readLda (s : State) (b g : Nat) (a : Access) (scope : Nat) : State :=
  if a.fault ||| a.conf != 0 then s
  else if s.readWaits a a.wait then s.postOnce (.waitReread b g)
  else
    let r := s.readLanes a a.wait
    let scope' := if r.2.2.host || !(s.grp b g).posted.isEmpty then 5 else scope
    if r.2.2.again then r.1.postOnce (.waitReread b g)
    else if r.2.2.poison then r.1.hwError b 1
    else
      let bad := r.2.1.fault ||| r.2.1.conf
      if bad == 0 then r.1.finishLda b g r.2.1 scope'
      else
        let acc := { r.2.1 with wait := bad }.keepDest (r.1.grp b g)
        (r.1.setAwait b g (.lda acc scope')).faultsReady b g acc.faults

/-! ### STR (R280) -/

/-- STR. -/
def execStr (w : BitVec 1) (a b : BitVec 5) (m : BitVec 3) (g : BitVec 4) (s : State) :
    Host.Outcome State Fault Refusal :=
  issueWord (.str w a b m g) s fun I s =>
    if I.act == 0 then s
    else
      let x := s.blk I.b
      let logsz := if w = 1 then 3 else 2
      let va (L : Nat) := I.G.rv a.toNat L
      let s1 := s.lookUp x.core x.space I.act va
      match I.accessTrap s1 2 logsz 2 true I.act va with
      | some t => I.trap s1 t
      | none =>
        let acc := I.access s1 2 b.toNat logsz 0 va (fun L => lowBytes logsz (I.G.rv b.toNat L)) fun _ => 0
        if !s1.releaseOk I then I.block s .commit
        else if s1.lsbFull I.b then I.block s .storeBuffer
        else if m.toNat < 2 && I.G.posted.isEmpty then (s1.tick.enterStore acc).parkOn I.b I.g .commit (.entry acc.uid)
        else
          let s2 := s1.tick.startCommit I.b true
          ((s2.enterStore { acc with poc := true, after := (s2.blk I.b).lastCommit }).parkOn I.b I.g .commit
            (.entry acc.uid)).postAll (acc.reqs.map fun r => .translateProbe I.b acc.uid r.line)

/-! ### FENCE and COMMIT (R256, R281) -/

/-- An earlier load of the group has not returned (R281). -/
def State.loadsOut (s : State) (I : Issue) : Bool := (s.grp I.b I.g).loads.any fun a => decide (a.uid < I.before)

/-- FENCE (R281). -/
def execFence (d : BitVec 5) (m : BitVec 3) (g : BitVec 4) (s : State) : Host.Outcome State Fault Refusal :=
  issueWord (.fence d m g) s fun I s =>
    let rel := d != 1
    let scope := releaseScope m.toNat (!I.G.posted.isEmpty)
    if I.act == 0 then s
    else if s.loadsOut I || (rel && !s.releaseOk I) then I.block s .commit
    else
      let s1 := if rel && 2 ≤ scope then s.startCommit I.b false else s
      s1.parkOn I.b I.g .commit
        (.commit (if rel && 2 ≤ scope then (s1.blk I.b).lastCommit else 0) (rel && scope == 5)
          (if d = 2 then none else some (if scope = 5 then 5 else m.toNat))
          (if I.isLast then some (I.wpc, I.act) else none))

/-- COMMIT (R256). -/
def execCommit (g : BitVec 4) (s : State) : Host.Outcome State Fault Refusal :=
  issueWord (.commit g) s fun I s =>
    if I.act == 0 then s
    else if !s.releaseOk I then I.block s .commit
    else
      let s1 := s.startCommit I.b false
      s1.parkOn I.b I.g .commit (.commit (s1.blk I.b).lastCommit false none none)

/-- The acquire of a FENCE once its release has been performed, and the end of a COMMIT (R281). -/
def State.finishFence (s : State) (b g : Nat) (acq : Option Nat) : State :=
  (match acq with
    | some n => s.acquire b n
    | none => s).setAwait b g .nothing

/-- A FENCE or COMMIT whose commits have completed: the flushing reads of a .sys release, which it awaits, or its acquire
(R277, R281). Log 39 (DEDUCED), 93 (DESIGN CHOICE). -/
def State.finishCommit (s : State) (b g : Nat) (flush : Bool) (acq : Option Nat) : State :=
  if flush then (s.flushPosted b g).setAwait b g (.flush acq) else s.finishFence b g acq

/-! ### WAITM (R263) -/

/-- The comparison of WAITM. -/
def waitHolds (m : Nat) (v c : Word) : Bool :=
  match m with
  | 0 => v == c
  | 1 => v != c
  | 2 => decide (c ≤ v)
  | 3 => decide (v < c)
  | 4 => c.sle v
  | _ => v.slt c

/-- WAITM. -/
def execWaitm (d a b : BitVec 5) (m : BitVec 3) (g : BitVec 4) (s : State) : Host.Outcome State Fault Refusal :=
  issueWord (.waitm d a b m g) s fun I s =>
    if I.act == 0 then s
    else
      let x := s.blk I.b
      let va (L : Nat) := I.G.rv a.toNat L
      let s1 := s.lookUp x.core x.space I.act va
      match I.accessTrap s1 1 3 1 false I.act va with
      | some t => I.trap s1 t
      | none =>
        let acc := I.access s1 1 d.toNat 3 0 va (fun _ => 0) fun _ => 0
        ((s1.tick.updGrp I.b I.g fun y => acc.markPending y true).parkOn I.b I.g .wait
          (.waitm acc (perLane fun L => I.G.rv b.toNat L))).post (.waitReread I.b I.g)

/-- The reads of a parked WAITM: every lane that has not been dropped, and then, if every comparison holds, its
acquire and its values; dropped lanes take their record data. Log 37 (DEDUCED). -/
def State.readWaitm (s : State) (b g : Nat) (a : Access) (cmp : List Word) : State :=
  if a.fault ||| a.conf != 0 then s
  else if s.readWaits a a.wait then s.postOnce (.waitReread b g)
  else
    let r := s.readLanes a a.wait
    if r.2.2.again then r.1.postOnce (.waitReread b g)
    else if r.2.2.poison then r.1.hwError b 1
    else
      let bad := r.2.1.fault ||| r.2.1.conf
      if bad != 0 then
        let acc := r.2.1.keepDest (r.1.grp b g)
        (r.1.setAwait b g (.waitm acc cmp)).faultsReady b g acc.faults
      else if (lanesOf a.wait).all fun L => waitHolds a.m (r.2.1.d0.getD L 0) (cmp.getD L 0) then
        r.1.finishLda b g r.2.1 4
      else r.1

end Sys2Proof.Machine
end

