-- ==== Sys2Proof/Machine/BedOps.lean ====
section
/-!
DEFINITION. The Bed as every access finds it (R109 to R119): plots and handles, lines, ages, presence, refetches.
-/

namespace Sys2Proof.Machine

/-! ### Plots (R111, R112) -/

/-- The handle of a plot in a slot. -/
def Plot.handle (p : Plot) (slot : Nat) : Word := BitVec.ofNat 64 (p.lines * 2 ^ 50 + slot * 2 ^ 32 + p.base * 256)

/-- The live plot that a line lies in. -/
def Block.plotAt (x : Block) (line : Nat) : Option Plot :=
  ((oitems x.plots).find? fun p => decide (p.2.base ≤ line) && decide (line < p.2.base + p.2.lines)).map (·.2)

/-- The slot and plot of a valid handle, which is the whole word that PLOT gave. Log 104 (DEDUCED). -/
def Block.plotOf (x : Block) (h : Word) : Option (Nat × Plot) := (oitems x.plots).find? fun p => p.2.handle p.1 == h

/-- The lines n on from l are free and lie in the region. -/
def Block.freeRun (x : Block) (l n : Nat) : Bool :=
  decide (l + n ≤ x.bedLines) && (oitems x.plots).all fun p => decide (l + n ≤ p.2.base) || decide (p.2.base + p.2.lines ≤ l)

/-- The lowest line address where n free lines lie in a row: line 0, or the line after some plot. -/
def Block.firstFit (x : Block) (n : Nat) : Option Nat :=
  ((0 :: (oitems x.plots).map fun p => p.2.base + p.2.lines).filter fun l => x.freeRun l n).foldl
    (fun m l => match m with | none => some l | some k => some (min k l)) none

/-- The lowest free slot. -/
def Block.freeSlot (x : Block) : Option Nat := (List.range 64).find? fun k => (oget x.plots k).isNone

/-- Lines put into the state of R111: age 0, present, no source record, zero. -/
def Block.clearLines (x : Block) (l n : Nat) : Block :=
  { x with
    bed := x.bed.filter fun kv => !(decide (256 * l ≤ kv.1) && decide (kv.1 < 256 * (l + n)))
    bedMeta := x.bedMeta.filter fun kv => !(decide (l ≤ kv.1) && decide (kv.1 < l + n)) }

/-- A plot made by R111: the block and the handle, or none where there is no slot or no room. -/
def Block.makePlot (x : Block) (lines life : Nat) (refetch : Bool) : Option (Block × Word) :=
  match x.freeSlot, x.firstFit lines with
  | some k, some l =>
    let p : Plot := ⟨l, lines, life, refetch⟩
    some ({ x.clearLines l lines with plots := oset x.plots k p }, p.handle k)
  | _, _ => none

/-! ### Lines (R114 to R117) -/

def Block.bedLine (x : Block) (line : Nat) : BedLine := sget BedLine.fresh x.bedMeta line

def Block.setBedLine (x : Block) (line : Nat) (m : BedLine) : Block :=
  { x with bedMeta := sset BedLine.fresh x.bedMeta line m }

/-- A present line whose age is at least its plot's lifetime. Log 42 (DEDUCED). -/
def Block.expired (x : Block) (line : Nat) : Bool :=
  !(x.bedLine line).absent && (x.plotAt line).any fun p => decide (p.life ≤ (x.bedLine line).age)

/-- The source that refetches an expired line (R116). -/
def Block.refetchFrom (x : Block) (line : Nat) : Option Word :=
  if (x.plotAt line).any (·.refetch) then (x.bedLine line).source else none

/-- A line present and expired with no source record: what a failed copy or refetch leaves (R116, R117). -/
def BedLine.dead : BedLine := ⟨63, false, none⟩

/-- n bytes of the Bed. -/
def Block.bedRead (x : Block) (a n : Nat) : Nat := leBytes ((List.range n).map fun i => sget 0 x.bed (a + i))

def Block.bedWriteBytes (x : Block) (a : Nat) : List Byte → Block
  | [] => x
  | b :: t => Block.bedWriteBytes { x with bed := sset 0 x.bed a b } (a + 1) t

def Block.bedWrite (x : Block) (a n v : Nat) : Block := x.bedWriteBytes a (bytesLe n v)

/-- Bytes written by a store: age 0 and no source record in every line written (R115). -/
def Block.bedStore (x : Block) (a n v : Nat) : Block := (x.bedWrite a n v).setBedLine (a / 256) BedLine.fresh

/-- The Bed lines that MDRN instructions of the block's core claim (R234). Log 75 (DEDUCED). -/
def State.claimed (s : State) (b : Nat) : List Nat :=
  let m := (s.core (s.blk b).core).mx
  (m.exec.toList ++ m.staged.toList).flatMap fun i => if i.blk = b then i.claims else []

/-! ### Refetches (R116) -/

/-- The header of a linear copy (R140). Log 44 (DESIGN CHOICE). -/
def copyHeader (tl tag : Nat) (cw : Bool) (dir hint : Nat) : Word :=
  BitVec.ofNat 64 (2 ^ 60 + tl * 2 ^ 56 + 4 * 2 ^ 48 + tag * 2 ^ 32 + (if cw then 2 ^ 31 else 0) + dir * 2 ^ 28
    + hint * 2 ^ 26)

/-- A refetch of a line starts: the line is absent, and a copy of 256 bytes from its source is with the engine. -/
def State.refetch (s : State) (b g : Nat) (pc : Word) (w : Word32) (line : Nat) : State :=
  match (s.blk b).refetchFrom line with
  | none => s
  | some src =>
    let c : Command := {
      blk := b, grp := g, queue := 0, seq := s.fresh, pc := pc, pusher := w, tl := 0, num := 0
      words := [copyHeader 0 0 false 1 0, src, BitVec.ofNat 64 (256 * line), BitVec.ofNat 64 (2 ^ 32 + 256), 0]
      after := 0, state := .pushed, next := 0, landing := [], failAt := none, stat := 0, detail := 0, out := []
      sending := false, refetch := true }
    ({ s.tick with cmds := oset s.cmds s.fresh c }.updBlk b fun x =>
      x.setBedLine line { x.bedLine line with absent := true }).post (.copyLinear s.fresh)

/-! ### The checks of an access (R119, R122) -/

/-- The first of codes 1 to 3 that a Bed address fails, or 0. -/
def Block.bedCode (x : Block) (a : Word) (n : Nat) : Nat :=
  if a.toNat % n != 0 then 1
  else if 256 * x.bedLines < a.toNat + n then 2
  else if (x.plotAt (a.toNat / 256)).isNone then 3
  else 0

/-- What an access to some lines finds. -/
inductive BedCheck where
  /-- these lines are expired and cannot be refetched -/
  | stale (lines : List Nat)
  /-- MDRN claims one of these -/
  | claimed (lines : List Nat)
  /-- the access waits for these, of which the second are to be refetched now -/
  | absent (lines refetch : List Nat)
  | ok
  deriving DecidableEq, Repr

/-- The state of the lines an access touches. Log 84 (DESIGN CHOICE). -/
def State.bedCheck (s : State) (b : Nat) (lines : List Nat) : BedCheck :=
  let x := s.blk b
  let claims := s.claimed b
  let stale := lines.filter fun l => !claims.contains l && x.expired l && (x.refetchFrom l).isNone
  let old := lines.filter x.expired
  let gone := lines.filter fun l => (x.bedLine l).absent
  if !stale.isEmpty then .stale stale
  else if lines.any claims.contains then .claimed (lines.filter claims.contains)
  else if !old.isEmpty || !gone.isEmpty then .absent (old ++ gone) old
  else .ok

/-- The Bed fault of some lanes (R118): the addresses are those of the lanes. -/
def Issue.bedTrap (I : Issue) (logsz : Nat) (wr : Bool) (lc : List (Nat × Nat)) (ba : Nat → Word) : Trap :=
  let bad := maskOf fun L => lc.any (·.1 == L)
  let c := lc.foldl (fun c p => if c = 0 || p.2 < c then p.2 else c) 0
  I.trapOf 4 (memDetail (ba (lowest bad)) logsz false wr c bad) lc

/-- The outcome of the checks on the lines of an access, before its effect (R116, R117, R234): an instruction that has
to wait starts the refetches it needs and parks. -/
def Issue.bedLines (I : Issue) (s : State) (lines : List Nat) (stale : List Nat → Trap) (f : State → State) : State :=
  match s.bedCheck I.b lines with
  | .stale l => I.trap s (stale l)
  | .claimed l => I.blockOn s .matrix (.lines l)
  | .absent l r => I.blockOn (r.foldl (fun s l => s.refetch I.b I.g I.wpc I.word l) s) .bedAbsence (.lines l)
  | .ok => f s

/-- The distinct lines that active lanes touch, in lane order. -/
def bedLinesOf (act : Mask) (ba : Nat → Word) : List Nat :=
  (lanesOf act).foldl (fun l L => if l.contains ((ba L).toNat / 256) then l else l ++ [(ba L).toNat / 256]) []

/-- A Bed access (R122): the faults of codes 1 to 3, then stale lines, then its waits, then its effect. -/
def Issue.bed (I : Issue) (s : State) (logsz : Nat) (wr : Bool) (ba : Nat → Word) (f : State → State) : State :=
  if I.act == 0 then s
  else
    let x := s.blk I.b
    let lc := (lanesOf I.act).filterMap fun L =>
      let c := x.bedCode (ba L) (2 ^ logsz)
      if c = 0 then none else some (L, c)
    if !lc.isEmpty then I.trap s (I.bedTrap logsz wr lc ba)
    else
      I.bedLines s (bedLinesOf I.act ba)
        (fun l => I.bedTrap logsz wr
          ((lanesOf I.act).filterMap fun L => if l.contains ((ba L).toNat / 256) then some (L, 4) else none) ba) f

end Sys2Proof.Machine
end

