-- ==== Sys2Proof/Machine/Trellis.lean ====
section
/-!
DEFINITION. The Trellis (17_scheduling_and_launch.md R315 to R329): descriptors and kernel records, acceptance, frame
slices, ranges, the remap table, the start of a block, cancellation and retirement.
-/

namespace Sys2Proof.Machine

/-! ### Descriptors and kernel records (R315, R316) -/

/-- A launch descriptor. -/
structure Desc where
  target : Word
  args : Word
  blocks : Nat
  lcores : Nat
  kind : Nat
  ctrap : Bool
  q8 : Bool
  prio : Nat
  preempt : Nat
  rkey : Word
  rctr : Word
  bitmap : Word
  status : Word
  cgrid : Word
  deriving DecidableEq, Repr

/-- The descriptor of eight words. -/
def descOf (w : List Word) : Desc :=
  let f := w.getD 2 0
  { target := w.getD 0 0, args := w.getD 1 0, blocks := bits f 32 32, lcores := bits f 16 16, kind := bits f 14 2
    ctrap := f.getLsbD 13, q8 := f.getLsbD 12, prio := bits f 8 4, preempt := bits f 0 8, rkey := w.getD 3 0
    rctr := w.getD 4 0, bitmap := w.getD 5 0, status := w.getD 6 0, cgrid := w.getD 7 0 }

/-- The fields of a launch descriptor that R316 limits by themselves. Log 56 (DEDUCED). -/
def Desc.ok (d : Desc) : Bool :=
  d.kind != 3 && decide (d.preempt ≤ 192)
    && (d.kind == 2 || (d.status != 0 && d.status.toNat % 64 == 0 && d.bitmap.toNat % 8 == 0 && d.cgrid == 0))
    && (d.kind != 2 || d.target == 0)

/-- A kernel record as a launch uses it. -/
structure Kernel where
  entry : Word
  blocks : Nat
  lcores : Nat
  bedLines : Nat
  groups : Nat
  smode : BitVec 2
  determ : Bool
  twin : Bool
  team : Nat
  plots : List (Nat × Nat × Bool)
  deriving DecidableEq, Repr

/-- n words from an address on, none where they cannot be read. -/
def State.readWords (s : State) (space : Nat) (va : Word) (n : Nat) : State × Option (List Word) :=
  let r := s.vreadBytes space va.toNat (lineFuel (8 * n)) (8 * n)
  (r.1, if r.2.1 = 0 then some ((List.range n).map fun k => BitVec.ofNat 64 (getLe r.2.2 (8 * k) 8)) else none)

/-- A plot entry of a kernel record: lines, lifetime, refetch. Log 56 (DEDUCED). -/
def plotEntry (w : Word) : Option (Nat × Nat × Bool) :=
  if bits w 0 43 != 0 || bits w 50 14 == 0 || bits w 44 6 == 0 || decide (50 < bits w 44 6) then none
  else some (bits w 50 14, bits w 44 6, w.getLsbD 43)

/-- The kernel record of a descriptor (R315), none where it is outside its limits or cannot be read.
Log 56 (DEDUCED). -/
def State.readKernel (s : State) (space : Nat) (d : Desc) : State × Option Kernel :=
  let r := s.readWords space d.target 8
  match r.2 with
  | none => (r.1, none)
  | some w =>
    let c := w.getD 2 0
    let q := r.1.readWords space (w.getD 3 0) (bits c 29 7)
    let blocks := if d.blocks = 0 then bits (w.getD 1 0) 32 32 else d.blocks
    let lcores := if d.lcores = 0 then bits (w.getD 1 0) 16 16 else d.lcores
    match q.2 with
    | none => (q.1, none)
    | some p =>
      let plots := p.map plotEntry
      let entry := w.getD 0 0
      let lines := (plots.filterMap id).foldl (fun a x => a + x.1) 0
      if entry.toNat % 12 != 0 || blocks == 0 || lcores == 0 || bits (w.getD 1 0) 0 16 != 0 || bits c 50 14 == 0
          || decide (8192 < bits c 50 14) || decide (31 < bits c 44 6) || bits c 42 2 == 0 || bits c 38 2 == 3 || bits c 36 2 == 3
          || decide (64 < bits c 29 7) || bits c 0 29 != 0 || (w.drop 4).any (· != 0) || plots.any Option.isNone
          || decide (bits c 50 14 < lines) then (q.1, none)
      else
        (q.1, some {
          entry := entry, blocks := blocks, lcores := lcores, bedLines := bits c 50 14, groups := bits c 44 6 + 1
          smode := c.extractLsb' 42 2, determ := c.getLsbD 41, twin := c.getLsbD 40, team := bits c 36 4
          plots := plots.filterMap id })

/-! ### The Trellis as a party -/

/-- The Trellis writes at the home of an address, for no block. -/
def trellisParty (space : Nat) (va : Word) : Party := ⟨2 ^ 128, 96 * ownerOf va, space, 0, false, 0, 0⟩

/-- A word written by the Trellis; what cannot be written is lost. Log 57 (DEDUCED). -/
def State.trellisWrite (s : State) (space : Nat) (va : Word) (v : Word) : State :=
  (s.vwrite (trellisParty space va) va 8 v.toNat).1

/-- Words written one after another. -/
def State.trellisWords (s : State) (space : Nat) (va : Word) : List Word → State
  | [] => s
  | w :: t => (s.trellisWrite space va w).trellisWords space (va + 8) t

/-! ### Acceptance (R318, R322, R328) -/

/-- A GRIDID that may be given: not zero, bit 63 clear, unique among live grids. Log 36 (DEDUCED). -/
def State.idFree (s : State) (n : Nat) : Bool := decide (0 < n) && decide (n < 2 ^ 63) && (oget s.grids n).isNone

/-- The next GRIDID: the one that is given for it, or else the lowest that no live grid has. Log 36 (DEDUCED). -/
def State.newGridId (s : State) : Nat × State :=
  let low := ((List.range (s.grids.length + 1)).map (· + 1)).find? s.idFree
  match s.gridIds with
  | n :: t => (if s.idFree n then n else low.getD 1, { s with gridIds := t })
  | [] => (low.getD 1, s)

/-- The live grids. -/
def State.liveGrids (s : State) : Nat := (oitems s.grids).length

/-- The lowest of the 4,096 numbers of live grids that is free (R343). Log 66 (DEDUCED). -/
def State.freeSlot (s : State) : Nat :=
  ((List.range (s.grids.length + 1)).find? fun k => !(oitems s.grids).any fun g => g.2.gslot == k).getD 0

/-- The children of a grid. -/
def State.children (s : State) (n : Nat) : List Nat :=
  (oitems s.grids).filterMap fun g => if g.2.parent = some n then some g.1 else none

/-- The grid of a launch before it has a slice. -/
def newGrid (d : Desc) (k : Option Kernel) (space prio queue depth order : Nat) (handler : Word) (parent : Option Nat)
    (q8 : Option (Nat × Nat)) (ok : Bool) (gslot : Nat) : Grid :=
  let base : Grid := { Grid.zero with
    graph := d.kind == 1
    parent := parent
    q8 := q8
    depth := depth
    prio := prio
    space := space
    queue := queue
    handler := handler
    args := d.args
    rkey := d.rkey
    rctr := d.rctr
    bitmap := d.bitmap
    status := d.status
    ctrap := d.ctrap
    preempt := d.preempt
    node := d.target
    order := order
    gslot := gslot }
  if !ok then { base with state := .draining, bad := true }
  else
    match k with
    | none => base
    | some k => { base with
        entry := k.entry, blocks := k.blocks, lcores := k.lcores, bedLines := k.bedLines, groups := k.groups
        smode := k.smode, determ := k.determ, twin := k.twin, team := k.team, plots := k.plots }

/-! ### Where a graph goes next (R330) -/

/-- A graph node, none where it is invalid or cannot be read: KIND, NEXT, ARG, COND and MAXITER. -/
def nodeOf (w : List Word) : Option (Nat × Word × Word × Word × Word) :=
  let k := bits (w.getD 0 0) 60 4
  if 3 < k || bits (w.getD 0 0) 0 60 != 0 || (w.drop 5).any (· != 0)
      || (k != 2 && (w.getD 3 0 != 0 || w.getD 4 0 != 0)) then none
  else some (k, w.getD 1 0, w.getD 2 0, w.getD 3 0, w.getD 4 0)

/-- The node at an address. Log 59 (DEDUCED). -/
def State.readNode (s : State) (space : Nat) (va : Word) : State × Option (Nat × Word × Word × Word × Word) :=
  if va.toNat % 64 != 0 then (s, none)
  else
    let r := s.readWords space va 8
    (r.1, r.2.bind nodeOf)

/-- A graph starts no further node: it has reached its end, is cancelled, or is stopped by R330. -/
def State.drainGraph (s : State) (n : Nat) (stopped : Bool) : State :=
  (s.updGrid n fun y => { y with state := .draining, bad := y.bad || stopped }).post (.gridRetirement n)

/-- The event of the node that a graph stands before. Log 59 (DEDUCED). -/
def State.goNode (s : State) (n : Nat) : State :=
  let y := s.grid n
  if y.cancelled then s.drainGraph n false
  else
    let r := s.readNode y.space y.node
    match r.2 with
    | none => r.1.drainGraph n true
    | some (k, _) =>
      r.1.post (if k = 0 then .graphEndNode n else if k = 1 then .graphKernelNode n
        else if k = 2 then .graphLoopNode n else .graphAdmitNode n)

/-- A graph goes on to the NEXT of a node, 0 being an end. -/
def State.goNext (s : State) (n : Nat) : State :=
  if (s.grid n).cancelled then s.drainGraph n false
  else if (s.grid n).node = 0 then s.post (.graphEndNode n)
  else s.goNode n

/-- A launch is accepted: its GRIDID, its status record's header zeroed (R317), and its first step. An invalid one
retires at once (R322). -/
def State.accept (s : State) (d : Desc) (space prio queue depth : Nat) (handler : Word) (parent : Option Nat)
    (q8 : Option (Nat × Nat)) : State × Nat :=
  let r := if d.kind = 0 then s.readKernel space d else (s, none)
  let ok := d.ok && (d.kind == 1 || r.2.isSome)
  let id := r.1.newGridId
  let s1 := id.2.tick.setGrid id.1 (newGrid d r.2 space prio queue depth id.2.fresh handler parent q8 ok id.2.freeSlot)
  let s2 := if d.status = 0 || d.status.toNat % 64 != 0 then s1 else s1.trellisWords space d.status (List.replicate 8 0)
  (if ok && d.kind == 1 then s2.goNode id.1
    else s2.post (if ok then .frameSliceAllocation id.1 else .gridRetirement id.1), id.1)

/-! ### Physical cores (R320, R325, R369) -/

/-- The resident blocks of a core, jobs left out. -/
def State.residents (s : State) (k : Nat) : List (Nat × Block) :=
  (oitems s.blocks).filter fun b => b.2.core == k && b.2.life == .resident && b.2.job.isNone

/-- The grid that took a core by pre-emption, if one did. Log 79 (DEDUCED). -/
def State.takenBy (s : State) (k : Nat) : Option Nat :=
  ((oitems s.grids).find? fun g => g.2.taken.any (·.1 == k)).map (·.1)

/-- Blocks of a grid may be placed on a core. Log 79 (DEDUCED). -/
def State.mayUse (s : State) (n k : Nat) : Bool :=
  !(s.core k).suspect && match s.takenBy k with
    | none => true
    | some m => m == n && (s.residents k).all fun b => b.2.grid == n

/-- A block of a grid fits on a core beside those that are resident there. Log 71 (DEDUCED). -/
def State.fits (s : State) (n k : Nat) : Bool :=
  let y := s.grid n
  let r := s.residents k
  decide (r.foldl (fun a b => a + b.2.groups.length) 0 + y.groups ≤ 128)
    && decide (r.foldl (fun a b => a + b.2.bedLines) 0 + y.bedLines ≤ 8192)

/-- The parts of a die node's range for its six cluster nodes, in whole team sets, the larger ones first (R324): `lo` is
where the range begins and n its sets. -/
def splitDie (blocks unit lo n : Nat) : List (Nat × Nat) :=
  let edge (i : Nat) : Nat := min blocks ((lo + i * (n / 6) + min i (n % 6)) * unit)
  (List.range 6).map fun i => (edge i, edge (i + 1))

/-- The ranges that acceptance hands to the twelve cluster nodes. Log 71 (DEDUCED). -/
def splitRanges (blocks unit : Nat) : OMap (Nat × Nat) :=
  let U := (blocks + unit - 1) / unit
  let half := (U + 1) / 2
  (List.range 12).zip ((splitDie blocks unit 0 half ++ splitDie blocks unit half (U - half)).map some)

/-- The cluster node at which a logical core is placed, and its number there: the logical cores are split over the cluster
nodes as the blocks are (R324). Log 71 (DEDUCED). -/
def Grid.seat (y : Grid) (l : Nat) : Nat × Nat :=
  match (oitems (splitRanges (min y.lcores y.blocks) y.unit)).find? fun r => decide (r.2.1 ≤ l) && decide (l < r.2.2) with
  | some r => (r.1, l - r.2.1)
  | none => (0, 0)

/-- The cluster node that serves a logical core, numbered 6·die + cluster: that of its place, else that of its seat. -/
def Grid.node_ (y : Grid) (l : Nat) : Nat :=
  match oget y.remap l with
  | some k => k / 16
  | none => (y.seat l).1

/-- The cores of a cluster in the order in which they are tried for a logical core. -/
def Grid.row (y : Grid) (l c : Nat) : List Nat := (List.range 16).map fun i => 16 * c + ((y.seat l).2 + i) % 16

/-- The clusters in the order in which they are tried for a logical core. -/
def Grid.clusters (y : Grid) (l : Nat) : List Nat := (List.range 12).map fun i => ((y.seat l).1 + i) % 12

/-- The cores that a logical core may be placed on, in the order in which they are tried. -/
def Grid.coreOrder (y : Grid) (l : Nat) : List Nat := (y.clusters l).flatMap (y.row l)

/-- The cluster that a relaunched block of a logical core, or of its team set, has left and does not go back to (R369). -/
def Grid.avoid (y : Grid) (l : Nat) : Option Nat := (y.rebound.find? fun r => (y.mates l).contains r.2.1).map (·.2.2.2)

/-- A physical core for a logical core: one that the grid took, be it before it is handed over, one where a block fits, or
one of its own. A logical core whose core another grid has taken goes to one of the grid's remaining cores, and has none when there is none (R325).
Log 71 (DEDUCED). -/
def State.chooseCore (s : State) (n l : Nat) : Option Nat :=
  let y := s.grid n
  let away (k : Nat) : Bool := (y.avoid l).all (· != k / 16)
  let order := (y.coreOrder l).filter fun k => s.mayUse n k && away k
  let own (k : Nat) : Bool := (oitems y.remap).any fun r => r.2 == k
  let lost := (oget y.remap l).any fun k => (s.takenBy k).any (· != n)
  let taken := (y.taken.map (·.1)).filter fun k => !(s.core k).suspect && away k
  (taken.find? fun k => (oitems y.remap).all fun r => r.2 != k || r.1 == l).orElse fun _ =>
    (taken.find? fun k => s.mayUse n k && s.fits n k).orElse fun _ =>
    (order.find? fun k => (!lost || own k) && s.fits n k).orElse fun _ => order.find? own

/-- The core on which a logical core has a resident block. -/
def State.residesOn (s : State) (n l : Nat) : Option Nat :=
  ((oitems s.blocks).find? fun b =>
    b.2.grid == n && b.2.lcore == l && b.2.life == .resident && b.2.job.isNone).map (·.2.core)

/-- Places for a team set in one cluster: a core of its own for each logical core, where its block fits or resides.
Log 71 (DEDUCED). -/
def State.placeIn (s : State) (n c : Nat) : List Nat → List Nat → Option (List (Nat × Nat))
  | [], _ => some []
  | l :: t, used =>
    let ok (k : Nat) : Bool := !used.contains k && s.mayUse n k && match s.residesOn n l with
      | some j => j == k
      | none => s.fits n k
    (((s.grid n).row l c).find? ok).bind fun k => (s.placeIn n c t (k :: used)).map ((l, k) :: ·)

/-- The places that a team set has, if they are in one cluster and may be used. -/
def State.keepsPlaces (s : State) (n l : Nat) : Option (List (Nat × Nat)) :=
  let y := s.grid n
  let ps := (y.mates l).filterMap fun m => (oget y.remap m).map fun k => (m, k)
  let c := (ps.head?.map (·.2 / 16)).getD 0
  if ps.length = (y.mates l).length && y.avoid l != some c
      && ps.all fun p => p.2 / 16 == c && s.mayUse n p.2 && (s.residesOn n p.1).all (· == p.2) then some ps
  else none

/-- Places for a logical core and for its team set, which stands on one cluster (R240, R320). Log 71 (DEDUCED). -/
def State.placesOf (s : State) (n l : Nat) : Option (List (Nat × Nat)) :=
  let y := s.grid n
  if y.unit = 1 then
    (match oget y.remap l with
      | some k => if s.mayUse n k && y.avoid l != some (k / 16) then some k else s.chooseCore n l
      | none => s.chooseCore n l).map fun k => [(l, k)]
  else
    (s.keepsPlaces n l).orElse fun _ =>
      ((y.clusters l).filter fun c => y.avoid l != some c).findSome? fun c => s.placeIn n c (y.mates l) []

/-- Cores taken by a launch with PREEMPT (R325): idle ones, then those of the lowest priority and youngest grid.
Log 79 (DEDUCED). -/
def State.preemptCores (s : State) (n : Nat) : List (Nat × Nat) :=
  let y := s.grid n
  let all := (List.range 192).filter fun k => !(s.core k).suspect && (s.takenBy k).isNone
  let idle := (all.filter fun k => (s.residents k).isEmpty).map fun k => (k, 0)
  let top (k : Nat) : Option Grid := (s.residents k).foldl
    (fun m b => match m with
      | none => some (s.grid b.2.grid)
      | some g => if g.prio < (s.grid b.2.grid).prio then some (s.grid b.2.grid) else some g) none
  let low := all.filterMap fun k => (top k).bind fun g => if g.prio < y.prio then some (k, g) else none
  let before (a b : Nat × Grid) : Bool :=
    decide (a.2.prio < b.2.prio)
      || (a.2.prio == b.2.prio && (decide (b.2.order < a.2.order) || (a.2.order == b.2.order && decide (b.1 ≤ a.1))))
  let victim (k : Nat) : Nat := ((s.residents k).head?.map (·.2.grid)).getD 0
  (idle ++ (sortBy before low).map fun p => (p.1, victim p.1)).take y.preempt

/-- The cores of a launch taken: the blocks on them are saved, and their grids' logical cores there are placed anew.
Log 79 (DEDUCED). -/
def State.preempt (s : State) (n : Nat) : State :=
  let l := s.preemptCores n
  (s.updGrid n fun y => { y with taken := l }).postAll
    (l.flatMap fun p => (s.residents p.1).map fun b => .contextSave b.1)

/-! ### Frame slices (R375) -/

def sliceBytes : Nat := 0x8C0000

/-- The lowest place in a queue's arena where n bytes fit. -/
def State.firstSlice (s : State) (q n : Nat) : Option Nat :=
  let a := (s.queue q).arena.toNat
  let used := s.arenas.filter fun u => u.2.1 == q
  let free (b : Nat) : Bool :=
    decide (a ≤ b) && decide (b + n ≤ a + (s.queue q).arenaSize.toNat)
      && used.all fun u => decide (b + n ≤ u.2.2.1) || decide (u.2.2.1 + u.2.2.2 ≤ b)
  ((a :: used.map fun u => u.2.2.1 + u.2.2.2).filter free).foldl
    (fun m b => match m with | none => some b | some k => some (min k b)) none

/-! ### Ranges (R324) -/

def Grid.range (y : Grid) (c : Nat) : Nat × Nat := (oget y.ranges c).getD (0, 0)

def Grid.left (y : Grid) (c : Nat) : Nat := (y.range c).2 - (y.range c).1

/-- Where the first team set of a range that none of whose blocks has been given out begins. -/
def Grid.wholeFrom (y : Grid) (c : Nat) : Nat := ((y.range c).1 + y.unit - 1) / y.unit * y.unit

/-- The whole team sets left in a range, the last of a grid perhaps short. -/
def Grid.setsLeft (y : Grid) (c : Nat) : Nat := ((y.range c).2 - y.wholeFrom c + y.unit - 1) / y.unit

/-- The cluster node that one without blocks steals from: the largest range of its die, or where every range of that is
empty, of the other; in whole team sets. -/
def Grid.stealFrom (y : Grid) (c : Nat) : Option Nat :=
  let best (d : Nat) : Option Nat := (List.range 6).foldl
    (fun m i =>
      let k := 6 * d + i
      if y.setsLeft k = 0 then m
      else match m with
        | none => some k
        | some j => if y.left j < y.left k then some k else some j) none
  if (List.range 6).any fun i => y.left (6 * (c / 6) + i) != 0 then best (c / 6) else best (1 - c / 6)

/-- FRAME_SLICE_ALLOCATION: the slice of a grid, then its ranges, the cores it takes, and its first blocks. -/
def State.allocSlice (s : State) (n : Nat) : State :=
  let y := s.grid n
  if (oget s.grids n).isNone || y.state != .accepted || y.graph || y.slice.isSome then s
  else
    match s.firstSlice y.queue (y.lcores * sliceBytes) with
    | none => s
    | some b =>
      let s1 := { s with arenas := s.arenas ++ [(n, y.queue, b, y.lcores * sliceBytes)] }
      ((s1.updGrid n fun y => { y with
          slice := some (BitVec.ofNat 64 b)
          since := s.cycles.toNat
          ranges := if y.determ then [] else splitRanges y.blocks y.unit }).preempt n).postAll
        ((List.range (min y.lcores y.blocks)).map fun l => .blockStart n l)

/-- The accepted grids that wait for a slice. -/
def State.sliceWaiters (s : State) : List Instr :=
  (oitems s.grids).filterMap fun g =>
    if g.2.state = .accepted && g.2.slice.isNone && !g.2.graph then some (Instr.frameSliceAllocation g.1) else none

/-- FRAME_SLICE_ALLOCATION (R375). -/
def execFrameSliceAllocation (grid : Nat) (s : State) : Host.Outcome State Fault Refusal := .next (s.allocSlice grid)

/-- RANGE_STEAL (R324): the upper half of a range, in whole team sets, is stolen: by a cluster node from one of its die, or
by its die node, which splits it into six parts. Log 71 (DEDUCED). -/
def State.steal (s : State) (n c : Nat) : State :=
  let y := s.grid n
  if y.determ || y.left c != 0 || decide (12 ≤ c) then s
  else
    match y.stealFrom c with
    | none => s
    | some j =>
      let r := y.range j
      let cut := y.wholeFrom j + (y.setsLeft j - max 1 (y.setsLeft j / 2)) * y.unit
      let parts :=
        if j / 6 = c / 6 then [(c, cut, r.2)]
        else ((List.range 6).map (c / 6 * 6 + ·)).zip
          (splitDie r.2 y.unit (cut / y.unit) ((r.2 - cut + y.unit - 1) / y.unit))
      s.updGrid n fun y => { y with ranges := parts.foldl (fun m p => oset m p.1 p.2) (oset y.ranges j (r.1, cut)) }

/-- RANGE_STEAL (R324). -/
def execRangeSteal (grid die cluster : Nat) (s : State) : Host.Outcome State Fault Refusal :=
  .next (s.steal grid (6 * die + cluster))

/-! ### The start of a block (R113, R149, R154, R319) -/

/-- The quadrant of a core with the fewest groups, given how many each has. Log 70 (DESIGN CHOICE). -/
def leastQuadrant (n : List Nat) : Nat :=
  (List.range 4).foldl (fun m q => if n.getD q 0 < n.getD m 0 then q else m) 0

/-- Quadrants for some groups that become resident on a core. Log 70 (DESIGN CHOICE). -/
def State.placeGroups (s : State) (k : Nat) (groups : List Nat) : List (Nat × Nat) :=
  let count (q : Nat) : Nat := (s.residents k).foldl
    (fun a b => a + ((oitems b.2.groups).filter fun g => !g.2.ended && g.2.quadrant == q).length) 0
  (groups.foldl
    (fun (r : List (Nat × Nat) × List Nat) g =>
      let q := leastQuadrant r.2
      (r.1 ++ [(g, q)], r.2.set q (r.2.getD q 0 + 1))) ([], (List.range 4).map count)).1

/-- A group at block start. One of a relaunched block arrives first at the phase that its grid is in (R300).
Log 77 (DEDUCED). -/
def startState (y : Grid) (b : Block) (g q born now : Nat) : Group :=
  { Group.zero with
    u := sset 0 [] 0 y.args
    pc := if y.entry = 0 then [] else (List.range 32).map fun L => (L, y.entry)
    live := BitVec.allOnes 32
    lfsr := ((List.range 32).map fun L => (L, seedLfsr y.rkey b.id g L)).filter fun p => p.2 != 0
    smode := y.smode
    handler := y.handler
    phases := y.phase
    frame := b.bframe + 0x400000 + BitVec.ofNat 64 (g * 0x26000)
    quadrant := q
    bornAt := born
    parkedAt := now }

/-- The plots of the kernel made in order (R113). -/
def Block.startPlots (x : Block) (l : List (Nat × Nat × Bool)) : Block :=
  l.foldl (fun x p => match x.makePlot p.1 p.2.1 p.2.2 with | some r => r.1 | none => x) x

/-- The saved blocks of a block's logical core lose the frame that they share with it (R375). Log 77 (DEDUCED). -/
def State.displaceOthers (s : State) (b : Nat) : State :=
  let x := s.blk b
  { s with blocks := s.blocks.map fun kv => (kv.1, kv.2.map fun z =>
      if z.grid = x.grid && z.lcore = x.lcore && z.life == .saved then { z with displaced := true } else z) }

/-- A block becomes resident on a core with its start state. -/
def State.startBlock (s : State) (n l id relaunches k : Nat) : State :=
  let y := s.grid n
  let b := blockKey n id
  let x : Block := ({ Block.zero with
    grid := n
    id := id
    lcore := l
    core := k
    space := y.space
    life := .resident
    rkey := y.rkey
    rctr := y.rctr
    bedLines := y.bedLines
    relaunches := relaunches
    bframe := y.slice.getD 0 + BitVec.ofNat 64 (l * sliceBytes)
    since := s.cycles.toNat } : Block).startPlots y.plots
  let groups := s.placeGroups k (List.range y.groups)
  let x1 : Block := { x with
    groups := groups.map fun (p : Nat × Nat) => (p.1, some (startState y x p.1 p.2 (s.fresh + p.1) s.cycles.toNat)) }
  let s1 : State := { s.updCore k (fun c => { c with sliced := false }) with fresh := s.fresh + y.groups }
  (((s1.setBlk b x1).updGrid n fun y => { y with
    state := if y.state = .accepted then .running else y.state
    remap := oset y.remap l k }).displaceOthers b).acquire b 4

/-! ### What a logical core takes next (R319 to R321, R324) -/

/-- A block of a grid has not been started or ended. -/
def State.unstarted (s : State) (n id : Nat) : Bool :=
  (oget s.blocks (blockKey n id)).isNone && !sget false (s.grid n).ended id

/-- Every group of a block has arrived at its grid's phase, and the block waits for it (R300). Log 77 (DEDUCED). -/
def State.atGbar (s : State) (b : Nat) : Bool :=
  let x := s.blk b
  x.expect != 0 && x.arrived (s.gridOf b).phase

/-- A saved block has a cancellation trap to take, for which it is restored (R319, R334). -/
def State.mustSee (s : State) (b : Nat) : Bool :=
  let y := s.gridOf b
  y.cancelled && y.ctrap && (oitems (s.blk b).groups).any fun g => !g.2.ended && !g.2.cancelTaken

/-- A saved block waits at GBAR and has nothing else to do. -/
def State.rests (s : State) (b : Nat) : Bool := s.atGbar b && !s.mustSee b

/-- What a logical core may do next. -/
inductive Turn where
  | none
  | start (id relaunches : Nat)
  | resume (b : Nat)
  | steal
  deriving DecidableEq, Repr

/-- The blocks of a logical core that are in the machine and have not ended. Log 77 (DEDUCED). -/
def State.onLcore (s : State) (n l : Nat) : List (Nat × Block) :=
  (oitems s.blocks).filter fun b => b.2.grid == n && b.2.lcore == l && b.2.job.isNone && b.2.life != .ended

/-- The next block of a logical core in deterministic mode: the lowest that has neither ended nor been saved at GBAR
of the phase. Log 77 (DEDUCED). -/
def State.detTurn (s : State) (n l : Nat) : Turn :=
  let y := s.grid n
  let ids := (List.range ((y.blocks + y.lcores - 1 - l) / y.lcores)).map fun k => l + k * y.lcores
  let done (id : Nat) : Bool :=
    sget false y.ended id || (match oget s.blocks (blockKey n id) with
      | some x => x.life == .ended || (x.life == .saved && s.rests (blockKey n id))
      | none => false)
  match ids.find? fun id => !done id with
  | none => .none
  | some id =>
    match oget s.blocks (blockKey n id) with
    | some x => if x.life = .saved then .resume (blockKey n id) else .none
    | none =>
      if y.cancelled then .none
      else .start id (((y.rebound.find? (·.1 == id)).map (·.2.2.1)).getD 0)

/-- The next block of a logical core. Log 77 (DEDUCED). -/
def State.turnOf (s : State) (n l : Nat) : Turn :=
  let y := s.grid n
  let here := s.onLcore n l
  let c := y.node_ l
  if here.any fun b => b.2.life == .resident then .none
  else if y.determ then s.detTurn n l
  else
    match y.rebound.find? (·.2.1 == l) with
    | some r => .start r.1 r.2.2.1
    | none =>
      match here.find? fun b => b.2.life == .saved && !s.rests b.1 with
      | some b => .resume b.1
      | none =>
        if y.left c != 0 then .start (y.range c).1 0
        else if (y.stealFrom c).isSome then .steal
        else .none

/-- Another block of the grid could run in the place of one that waits at GBAR (R300, R320, R321). -/
def State.wantsRoom (s : State) (b : Nat) : Bool :=
  let x := s.blk b
  let y := s.gridOf b
  if y.determ then
    (List.range y.blocks).any fun id =>
      decide (x.id < id) && id % y.lcores == x.lcore && (s.unstarted x.grid id
        || ((s.blk (blockKey x.grid id)).life == .saved && !s.atGbar (blockKey x.grid id)))
  else !y.rebound.isEmpty || ((List.range 12).any fun c => y.left c != 0)
    || (s.onLcore x.grid x.lcore).any fun o => o.2.life == .saved && !s.atGbar o.1

/-- A core has no room for a block: a block that waits there at GBAR is saved at once (R320). -/
def State.makeRoom (s : State) (k : Nat) : State :=
  match (s.residents k).find? fun b => s.atGbar b.1 with
  | some b => s.postOnce (.contextSave b.1)
  | none => s

/-! ### Cores that free up (R323, R325) -/

/-- The logical cores of a grid that wait for a place on some core, the longest waiting first. Log 78 (DEDUCED). -/
def State.waitingLcores (s : State) (n : Nat) : List Nat :=
  let y := s.grid n
  (List.range (min y.lcores y.blocks)).filter fun l =>
    match s.turnOf n l with
    | .none => false
    | _ => true

/-- A logical core of a core waits and has no room there (R320). -/
def State.coreWanted (s : State) (k : Nat) : Bool :=
  (oitems s.grids).any fun g => !s.fits g.1 k && (s.waitingLcores g.1).any fun l => oget g.2.remap l == some k

/-- The logical cores that a core could serve: unplaced ones that do not leave its cluster (R369), and those placed there.
Log 78 (DEDUCED). -/
def State.servedBy (s : State) (n k : Nat) : List Nat :=
  (s.waitingLcores n).filter fun l =>
    match oget (s.grid n).remap l with
    | none => (s.grid n).avoid l != some (k / 16)
    | some j => j == k

/-- A logical core of a grid that a core may serve. -/
structure Claim where
  gid : Nat
  lcore : Nat
  aged : Bool
  prio : Nat
  /-- whether the logical core is placed there, and since when it waits -/
  placed : Bool
  since : Nat
  order : Nat
  /-- the core is shared in turns: its last block was saved (R320), or a team set has a claim to it -/
  turns : Bool
  teams : Bool
  deriving DecidableEq, Repr

/-- A claim goes before another. A core whose last block was saved goes to the logical core placed there that has waited
longest (R320); else the highest priority has it, then the grid accepted earliest, then the logical core of it that has
waited longest (R323). Team sets of one priority go by how long they have waited, on every core alike.
Log 78 (DEDUCED). -/
def Claim.before (a b : Claim) : Bool :=
  if a.turns && a.placed != b.placed then a.placed
  else if a.turns && a.placed && a.since != b.since then decide (a.since < b.since)
  else if a.aged != b.aged then a.aged
  else if a.prio != b.prio then decide (b.prio < a.prio)
  else if a.teams && a.since != b.since then decide (a.since < b.since)
  else if a.order != b.order then decide (a.order < b.order)
  else if a.since != b.since then decide (a.since < b.since)
  else decide (a.lcore ≤ b.lcore)

/-- The cycle since which a logical core waits, or the first of its team set to wait: that in which its grid was given its
slice, or in which its last block left. Log 78 (DEDUCED). -/
def Grid.waitsSince (y : Grid) (l : Nat) : Nat :=
  (y.mates l).foldl (fun m i => min m (max y.since (sget 0 y.waitAt i))) (max y.since (sget 0 y.waitAt l))

/-- The logical cores that wait and that a core may serve, in order. Log 78 (DEDUCED). -/
def State.claimants (s : State) (k : Nat) : List Claim :=
  let l := (oitems s.grids).filter fun g =>
    !g.2.graph && g.2.slice.isSome && (g.2.state == .accepted || g.2.state == .running) && s.mayUse g.1 k
  let aged (g : Grid) : Bool :=
    sget 0 s.passedCore g.prio != 0 && decide (sget 0 s.passedCore g.prio + 2 ^ 20 ≤ s.cycles.toNat)
  let served := l.map fun g => (g, s.servedBy g.1 k)
  let teams := served.any fun g => g.1.2.unit != 1 && !g.2.isEmpty
  sortBy Claim.before (served.flatMap fun g => g.2.map fun c =>
    { gid := g.1.1, lcore := c, aged := aged g.1.2, prio := g.1.2.prio, placed := (oget g.1.2.remap c).isSome
      since := g.1.2.waitsSince c, order := g.1.2.order, turns := (s.core k).sliced && !teams, teams := teams })

/-- A logical core of a team set, at its place, has a block to start or to resume. -/
def State.needsPlace (s : State) (n : Nat) (p : Nat × Nat) : Bool :=
  (s.residesOn n p.1).isNone && s.turnOf n p.1 != .none

/-- The place of a logical core of a team set that has no room for the block that it would run, if one has none: the set
starts and is restored as a whole (R320). Log 71 (DEDUCED). -/
def State.tightPlace (s : State) (n : Nat) (ps : List (Nat × Nat)) : Option Nat :=
  (ps.find? fun p => s.needsPlace n p && !s.fits n p.2).map (·.2)

/-- A claimant of a core would start or resume there now, its team set with it. Log 78 (DEDUCED). -/
def State.wouldTake (s : State) (c : Claim) (k : Nat) : Bool :=
  match s.placesOf c.gid c.lcore with
  | some ps => ps.contains (c.lcore, k) && (s.tightPlace c.gid ps).isNone
  | none => false

/-- A claimant of a core that would take it and goes before another one there (R323). Log 78 (DEDUCED). -/
def State.ahead (s : State) (n l k : Nat) : Option Claim :=
  let q := s.claimants k
  if q.any fun c => c.gid == n && c.lcore == l then
    (q.takeWhile fun c => !(c.gid == n && c.lcore == l)).find? fun c => s.wouldTake c k
  else none

/-- One that goes before a team set at the place of a member that needs it. -/
def State.aheadOf (s : State) (n : Nat) (ps : List (Nat × Nat)) : Option Claim :=
  ps.findSome? fun p => if s.needsPlace n p then s.ahead n p.1 p.2 else none

/-- The places of the team set of a logical core. -/
def State.seatsOf (s : State) (n l : Nat) : List (Nat × Nat) :=
  ((s.grid n).mates l).filterMap fun m => (oget (s.grid n).remap m).map fun k => (m, k)

/-- Every other member of a team set that has a block to start or to resume has room for it at its place (R320). -/
def State.setFits (s : State) (n l : Nat) : Bool :=
  (s.seatsOf n l).all fun p => p.1 == l || !s.needsPlace n p || (s.mayUse n p.2 && s.fits n p.2)

/-- A logical core starts a block of its range, or one that was bound to it. -/
def State.startTurn (s : State) (n l id relaunches k : Nat) : State :=
  let y := s.grid n
  let c := y.node_ l
  (s.updGrid n fun y => { y with
    rebound := y.rebound.filter (·.1 != id)
    ranges := if y.determ || y.rebound.any (·.1 == id) then y.ranges
      else oset y.ranges c ((y.range c).1 + 1, (y.range c).2) }).startBlock n l id relaunches k

/-- The blocks of a team set that its logical cores take next, started or restored as a whole (R320): where one is saved, its
restore does it for all. -/
def State.takeTurns (s : State) (n : Nat) (ps : List (Nat × Nat)) : State :=
  match ps.findSome? fun p => (match s.turnOf n p.1 with | .resume b => some (b, p.2) | _ => none) with
  | some r => s.postOnce (.contextRestore r.1 r.2)
  | none =>
    ps.foldl
      (fun s p =>
        match s.turnOf n p.1 with
        | .start id r => s.startTurn n p.1 id r p.2
        | _ => s) s

/-- The team set of a logical core that has started or resumed a block does so with it. -/
def State.wakeMates (s : State) (n l : Nat) : State :=
  s.postAll (((s.grid n).mates l).filterMap fun m => if m = l then none else some (.blockStart n m))

/-- BLOCK_START: a logical core takes its next block, and its team set with it, if it has a place where the block fits and no
other claimant goes before it there (R320, R323). Log 77 (DEDUCED). -/
def State.fillLcore (s : State) (n l : Nat) : State :=
  let y := s.grid n
  if (oget s.grids n).isNone || y.slice.isNone || (y.state != .accepted && y.state != .running) || decide (y.lcores ≤ l) then s
  else
    match s.turnOf n l with
    | .none => s
    | _ =>
      match s.placesOf n l with
      | none => s.updGrid n fun y => { y with remap := odel y.remap l }
      | some ps =>
        let k := ((ps.find? (·.1 == l)).map (·.2)).getD 0
        let s1 := if ps.all fun p => oget y.remap p.1 == some p.2 then s
          else s.updGrid n fun y => { y with remap := ps.foldl (fun m p => oset m p.1 p.2) y.remap }
        if !s.mayUse n k then s1
        else
          match s1.tightPlace n ps with
          | some j => s1.makeRoom j
          | none =>
            match s1.turnOf n l with
            | .steal => s1.postAll [.rangeSteal n (k / 96) (k / 16 % 6), .blockStart n l]
            | _ =>
              match s1.aheadOf n ps with
              | some c => s1.postAll [.blockStart c.gid c.lcore, .blockStart n l]
              | none => (s1.takeTurns n ps).wakeMates n l

/-- BLOCK_START (R319). -/
def execBlockStart (grid lcore : Nat) (s : State) : Host.Outcome State Fault Refusal := .next (s.fillLcore grid lcore)

/-- The counters of priorities passed over: the one that is served starts again, the others start if they wait.
Log 78 (DEDUCED). -/
def passOver (m : SMap Nat) (served : Nat) (waiting : List Nat) (now : Nat) : SMap Nat :=
  waiting.foldl (fun m p => if p = served || sget 0 m p != 0 then m else sset 0 m p (now + 1)) (serase m served)

/-- CORE_ASSIGNMENT: a core that has become free goes to the first claimant. -/
def State.assignCore (s : State) (k : Nat) : State :=
  match s.claimants k with
  | [] => s
  | c :: rest =>
    let s1 := if s.fits c.gid k && !c.placed && (s.grid c.gid).unit == 1 then s.updGrid c.gid fun y => { y with remap := oset y.remap c.lcore k } else s
    ({ s1 with passedCore := passOver s1.passedCore c.prio (rest.map fun (r : Claim) => r.prio) s1.cycles.toNat } : State).postOnce
      (.blockStart c.gid c.lcore)

/-- CORE_ASSIGNMENT (R323). -/
def execCoreAssignment (core : Nat) (s : State) : Host.Outcome State Fault Refusal := .next (s.assignCore core)

/-- A block's slice of time is over: another logical core of its core waits (R320). -/
def State.sliceOver (s : State) (b : Nat) : Bool :=
  let x := s.blk b
  x.life == .resident && x.job.isNone && decide (x.since + 2 ^ 20 ≤ s.cycles.toNat)
    && (oitems s.grids).any fun g => (s.waitingLcores g.1).any fun l => oget g.2.remap l == some x.core

/-- TIME_SLICE_EXPIRY (R320). -/
def execTimeSliceExpiry (blk : Nat) (s : State) : Host.Outcome State Fault Refusal :=
  .next (if s.sliceOver blk then s.postOnce (.contextSave blk) else s)

/-! ### Cancellation (R334) -/

/-- A grid and every grid descended from it, to a depth. -/
def State.descendants (s : State) : Nat → Nat → List Nat
  | 0, n => [n]
  | d + 1, n => n :: (s.children n).flatMap (s.descendants d)

/-- The blocks of a cancelled grid that have not started end cancelled, and no phase waits for them any more (R300).
Log 77 (DEDUCED). -/
def State.cancelWaiting (s : State) (n : Nat) : State :=
  let y := s.grid n
  if y.graph then s
  else
    (((List.range y.blocks).filter (s.unstarted n)).foldl
      (fun s id => (s.trellisWrite y.space (y.status + BitVec.ofNat 64 (0x40 + 8 * id)) 3).countEnd n id .cancelled)
      (s.updGrid n fun y => { y with ranges := [], rebound := [] })).settlePhase n

/-- A grid is cancelled. With CTRAP, each group of its blocks traps at its next boundary, for which a saved block is
restored (R319). Log 60 (DEDUCED). -/
def State.cancelOne (s : State) (n : Nat) : State :=
  let y := s.grid n
  if (oget s.grids n).isNone || y.cancelled then s
  else
    let s1 := (s.updGrid n fun y => { y with cancelled := true }).cancelWaiting n
    if y.ctrap then
      let mine := (oitems s1.blocks).filter fun b => b.2.grid == n && b.2.job.isNone
      (s1.postAll ((mine.filter (·.2.life == .resident)).flatMap fun b =>
        (oitems b.2.groups).map fun g => .cancellationTrap b.1 g.1)).postAll
          ((mine.filter (·.2.life == .saved)).map fun b => .blockStart n b.2.lcore)
    else s1

/-- A cancellation reaches a grid and its descendants. -/
def State.cancel (s : State) (n : Nat) : State := (s.descendants 11 n).foldl State.cancelOne s

/-- CANCELLATION_TRAP: once per group, at its boundary; held while it is in its handler (R334, R355). -/
def State.cancelTrap (s : State) (b g : Nat) : State :=
  let x := s.blk b
  let y := s.grp b g
  let z := s.gridOf b
  if x.life != .resident || x.job.isSome || (oget x.groups g).isNone || y.ended || y.level || y.cancelTaken
      || !z.cancelled || !z.ctrap || y.trapPend.isSome then s
  else if !y.ready.isEmpty || y.waitsFor Await.inFlight || x.saving then s.postOnce (.cancellationTrap b g)
  else
    let s1 := s.updGrp b g fun y => { y with cancelTaken := true }.settle
    let h := (s1.grp b g).headRun
    s1.takeTrap b g
      ⟨0x0A, BitVec.ofNat 96 (h.1.toNat + 2 ^ 32 + 2 ^ 40 * (x.grid % 2 ^ 52)), h.2, h.1, [], none⟩

/-- CANCELLATION_TRAP (R334). -/
def execCancellationTrap (blk grp : Nat) (s : State) : Host.Outcome State Fault Refusal := .next (s.cancelTrap blk grp)

/-! ### Retirement (R317, R318, R328, R329) -/

/-- STATE of a status header at retirement. -/
def Grid.outcome (y : Grid) : Nat := if y.failedN != 0 || y.cancelledN != 0 || y.bad then 2 else 1

/-- The status header and the RETIRED bit of a grid written. Log 57 (DEDUCED). -/
def State.writeHeader (s : State) (n : Nat) : State :=
  let y := s.grid n
  let m := 2 ^ 32 - 1
  let s1 := if y.status = 0 || y.status.toNat % 64 != 0 then s
    else s.trellisWords y.space y.status
      [BitVec.ofNat 64 y.outcome, BitVec.ofNat 64 n,
        BitVec.ofNat 64 (min y.failedN m * 2 ^ 32 + min y.cancelledN m), BitVec.ofNat 64 (min y.doneN m), 0, 0, 0, 0]
  let s2 := if y.bitmap = 0 || y.bitmap.toNat % 8 != 0 then s1
    else
      let r := s1.vread y.space y.bitmap 8
      if r.2.1 != 0 then r.1 else r.1.trellisWrite y.space y.bitmap (BitVec.ofNat 64 r.2.2 ||| BitVec.twoPow 64 63)
  s2.updGrid n fun y => { y with state := .retired }

/-- The status word of a retired grid. -/
def Grid.statusWord (y : Grid) (n : Nat) : Word :=
  BitVec.ofNat 64 (n % 2 ^ 32 * 2 ^ 32 + y.outcome * 2 ^ 30 + min (y.failedN + y.cancelledN) (2 ^ 30 - 1))

/-- Read-only lines of a grid dropped from every L1, so that its GRIDID is free (R92, R318). Log 57 (DEDUCED). -/
def State.dropReadOnly (s : State) (n : Nat) : State :=
  { s with cores := s.cores.map fun kv =>
      (kv.1, kv.2.map fun c => { c with l1 := c.l1.filter fun l => !(l.2.any fun x => x.cls == 2 && x.grid == n) }) }

/-- The tags of a grid dropped as it retires, so that a later one in its place finds none of them current (R343, R349).
Log 66 (DEDUCED). -/
def Die.dropTags (x : Die) (gslot : Nat) : Die :=
  let gone (k : Nat) : Bool := (oget x.tags k).any (·.gslot == gslot)
  { x with tags := x.tags.filter fun kv => !kv.2.any (·.gslot == gslot), overflow := x.overflow.filter (!gone ·),
           lostTags := x.lostTags.filter (!gone ·) }

/-- A graph hears that its node grid has retired (R317, R330). -/
def Grid.childDone (y c : Grid) : Grid :=
  { y with
    child := none
    doneN := y.doneN + 1
    failedN := y.failedN + c.failedN
    cancelledN := y.cancelledN + c.cancelledN
    bad := y.bad || c.outcome == 2 }

/-- A core that a grid took given back, as the grid retires, to the grid that it came from (R325): to a logical core of it
that waits and has not been given one of these cores yet, else to one that shares its core with another; where the grid has
teams, to a set that waits and has places for all of its members now. Log 79 (DEDUCED). -/
def State.giveBack (s : State) (cores : List Nat) (t : Nat × Nat) : State :=
  let y := s.grid t.2
  let put (ps : List (Nat × Nat)) (l : Nat) : State :=
    (s.updGrid t.2 fun z => { z with remap := ps.foldl (fun m p => oset m p.1 p.2) z.remap }).postOnce (.blockStart t.2 l)
  if (oget s.grids t.2).isNone || y.graph || (s.core t.1).suspect then s
  else if y.unit = 1 then
    let free (l : Nat) : Bool :=
      ((oget y.remap l).all fun k => !cores.contains k) && y.avoid l != some (t.1 / 16)
    let shares (l : Nat) : Bool :=
      (oget y.remap l).any fun k => (oitems y.remap).any fun r => r.1 != l && r.2 == k
    match (s.waitingLcores t.2 ++ (List.range y.lcores).filter shares).find? free with
    | some l => put [(l, t.1)] l
    | none => s
  else
    match (s.waitingLcores t.2).findSome? fun l =>
        ((y.clusters l).filter fun c => y.avoid l != some c).findSome? fun c =>
          (s.placeIn t.2 c (y.mates l) []).bind fun ps => if ps.any (·.2 == t.1) then some (ps, l) else none with
    | some p => put p.1 p.2
    | none => s

/-- A retired grid leaves: its slice, its blocks, its cores and its place among the live grids are free, and what waits
for them goes on. -/
def State.removeGrid (s : State) (n : Nat) : State :=
  let y := s.grid n
  let s1 : State := { s.dropReadOnly n with
    die0 := s.die0.dropTags y.gslot
    die1 := s.die1.dropTags y.gslot
    grids := odel s.grids n
    arenas := s.arenas.filter fun a => a.1 != n
    blocks := s.blocks.filter fun kv => !(kv.2.any fun x => x.grid == n) }
  let s2 : State := match y.parent with
    | some p =>
      if (s1.grid p).graph && (s1.grid p).child = some n then
        let s2 := s1.updGrid p fun z => z.childDone y
        if (s2.grid p).state = .draining then s2.post (.gridRetirement p) else s2.goNext p
      else s1.post (.gridRetirement p)
    | none => s1
  (y.taken.foldl (State.giveBack · (y.taken.map (·.1))) s2).postAll (s1.sliceWaiters ++ (y.taken.map fun t => Instr.coreAssignment t.1) ++ [Instr.descriptorAccept])

/-- GRID_RETIREMENT: a drained grid whose children have retired writes its header and its bitmap's flag, delivers its
status word once the queue has room, and leaves. -/
def State.retire (s : State) (n : Nat) : State :=
  match oget s.grids n with
  | none => s
  | some y =>
    if y.state = .draining then
      if !(s.children n).isEmpty then s else (s.writeHeader n).post (.gridRetirement n)
    else if y.state != .retired then s
    else
      match y.q8 with
      | none => s.removeGrid n
      | some q =>
        let x := s.blk q.1
        let g := s.grp q.1 q.2
        let l := sget [] g.queues 8
        if (oget s.blocks q.1).isNone || x.life == .ended || g.ended || (oget x.groups q.2).isNone then s.removeGrid n
        else if x.life != .resident || 32 ≤ l.length then s.post (.gridRetirement n)
        else
          (s.updGrp q.1 q.2 fun g => { g with queues := sset [] g.queues 8 (l ++ [y.statusWord n]) }).removeGrid n

/-- GRID_RETIREMENT (R318). -/
def execGridRetirement (grid : Nat) (s : State) : Host.Outcome State Fault Refusal := .next (s.retire grid)

end Sys2Proof.Machine
end

