-- ==== Sys2Proof/Machine/Barriers.lean ====
section
/-!
DEFINITION. Block barriers, the grid barrier and mask-ready waits (R297 to R301): BAR, BARA, BARC, GBAR, MASKW, and the
step MASKW_TIMEOUT.
-/

namespace Sys2Proof.Machine

/-! ### Block barriers (R297, R298) -/

def Block.bar (x : Block) (n : Nat) : Barrier := sget Barrier.zero x.bars n

/-- An arrival at barrier n; the last one completes the generation. -/
def Block.arrive (x : Block) (n : Nat) : Block :=
  let b := x.bar n
  { x with bars := sset Barrier.zero x.bars n (if x.expect ≤ b.arr + 1 then ⟨0, b.gen + 1⟩ else ⟨b.arr + 1, b.gen⟩) }

/-- BAR (R298). -/
def execBar (b g : BitVec 4) (s : State) : Host.Outcome State Fault Refusal :=
  issueWord (.bar b g) s fun I s =>
    if I.act == 0 then s
    else if !s.releaseOk I then I.block s .commit
    else
      (s.updBlk I.b fun x => x.arrive b.toNat).parkOn I.b I.g .wait (.barrier b.toNat ((s.blk I.b).bar b.toNat).gen)

/-- BARA (R298). -/
def execBara (b g : BitVec 4) (s : State) : Host.Outcome State Fault Refusal :=
  issueWord (.bara b g) s fun I s =>
    if I.act == 0 then s
    else if !s.releaseOk I then I.block s .commit
    else s.updBlk I.b fun x => x.arrive b.toNat

/-- BARC (R298). -/
def execBarc (a : BitVec 5) (b g : BitVec 4) (s : State) : Host.Outcome State Fault Refusal :=
  issueWord (.barc a b g) s fun I s =>
    if I.act == 0 then s
    else
      s.parkOn I.b I.g .wait
        (.arrivals b.toNat (I.G.rv a.toNat (lowest I.act)).toNat ((s.blk I.b).bar b.toNat).gen)

/-! ### The grid barrier (R300) -/

/-- A group arrives at its grid's phase and waits for that phase to complete. A block whose groups all wait there is
saved where other blocks of its grid could run in its place, or another logical core of its core waits (R320, R321). -/
def State.arrivePhase (s : State) (b g : Nat) : State :=
  let s1 := ((s.updGrp b g fun y => { y with phases := y.phases + 1 }).parkOn b g .wait
    (.phase (s.grp b g).phases)).settlePhase (s.blk b).grid
  if s1.atGbar b && (s1.wantsRoom b || s1.coreWanted (s1.blk b).core) then s1.postOnce (.contextSave b) else s1

/-- GBAR (R300): its release commits, and the arrival follows. -/
def execGbar (g : BitVec 4) (s : State) : Host.Outcome State Fault Refusal :=
  issueWord (.gbar g) s fun I s =>
    if I.act == 0 then s
    else if !s.releaseOk I then I.block s .commit
    else
      let s1 := s.startCommit I.b false
      if (s1.blk I.b).commits.isEmpty then s1.arrivePhase I.b I.g
      else s1.parkOn I.b I.g .wait (.gbar (s1.blk I.b).lastCommit)

/-! ### Mask-ready waits (R301) -/

/-- MASKW (R301). -/
def execMaskw (d a b : BitVec 5) (g : BitVec 4) (s : State) : Host.Outcome State Fault Refusal :=
  issueWord (.maskw d a b g) s fun I s =>
    if I.act == 0 then s
    else
      let L := lowest I.act
      let one := BitVec.twoPow 32 L
      let x := s.blk I.b
      let va (_ : Nat) := I.G.rv a.toNat L
      let w := I.G.rv b.toNat L
      let tmo := bits w 32 32
      if (s.gridOf I.b).determ && tmo != 0xFFFFFFFF then
        I.trap s (I.trapOf 8 (forbiddenDetail (.maskw d a b g) I.act) [])
      else
        let s1 := s.lookUp x.core x.space one va
        match I.accessTrap s1 1 3 1 false one va with
        | some t => I.trap s1 t
        | none =>
          let acc := { I.access s1 1 d.toNat 3 0 va (fun _ => 0) (fun _ => 0) with wait := one, reqs := reqsOf one va }
          ((s1.tick.updGrp I.b I.g fun y => y.setPending .p d.toNat true).parkOn I.b I.g .wait
            (.maskw acc d.toNat (bits w 0 32)
              (if tmo = 0xFFFFFFFF then none else some (tmo, s.cycles.toNat + tmo)))).post (.waitReread I.b I.g)

/-- MASKW completes: the acquire, then the predicate of every active lane. -/
def State.finishMaskw (s : State) (b g : Nat) (a : Access) (p : Nat) (ok : Bool) : State :=
  ((s.acquire b 4).updGrp b g fun y =>
    (y.wp p a.act (if ok then BitVec.allOnes 32 else 0)).setPending .p p false).setAwait b g .nothing

/-- The read of a parked MASKW, its last one once its timeout has passed; `last` says that the timeout has come to ask for
it. -/
def State.readMaskw (s : State) (b g : Nat) (a : Access) (p target : Nat) (due : Option (Nat × Nat)) (last : Bool) : State :=
  if a.fault ||| a.conf != 0 then s
  else if s.readWaits a a.wait then s.postOnce (if last then .maskwTimeout b g else .waitReread b g)
  else
    let r := s.readLanes a a.wait
    if r.2.2.again then r.1.postOnce (if last then .maskwTimeout b g else .waitReread b g)
    else if r.2.2.poison then r.1.hwError b 1
    else if r.2.1.fault ||| r.2.1.conf != 0 then
      (r.1.setAwait b g (.maskw r.2.1 p target due)).faultsReady b g r.2.1.faults
    else if target ≤ (r.2.1.d0.getD (lowest a.wait) 0).toNat then r.1.finishMaskw b g a p true
    else if last || due.any (fun n => decide (n.2 ≤ s.cycles.toNat)) then r.1.finishMaskw b g a p false
    else r.1

/-- The timeout of a parked MASKW has passed. -/
def Await.timedOut (now : Nat) : Await → Bool
  | .maskw a _ _ (some due) => decide (due.2 ≤ now) && (a.fault ||| a.conf) == 0
  | _ => false

/-- The group waits at such a MASKW. -/
def State.timedOut (s : State) (b g : Nat) : Bool := (s.grp b g).waitsFor (Await.timedOut s.cycles.toNat)

/-- MASKW_TIMEOUT (R301): the word is read a last time, and a MASKW that it does not satisfy completes with a false
predicate. -/
def State.maskwTimeout (s0 : State) (b g : Nat) : State :=
  let s := s0.turnTo b g fun p => p.what.timedOut s0.cycles.toNat
  match (s.grp b g).await with
  | some (.maskw a p target (some due)) =>
    if due.2 ≤ s.cycles.toNat then s.readMaskw b g a p target (some due) true else s
  | _ => s

/-- MASKW_TIMEOUT (R301). -/
def execMaskwTimeout (blk grp : Nat) (s : State) : Host.Outcome State Fault Refusal := .next (s.maskwTimeout blk grp)

end Sys2Proof.Machine
end

