-- ==== Sys2Proof/Machine/Bed.lean ====
section
/-!
DEFINITION. The Bed instructions (R122 to R126), and the steps FADE_CLOCK_TICK, LINE_EXPIRY and BED_LINE_LANDS.
-/

namespace Sys2Proof.Machine

/-! ### LDS, STS, LDSX, STSX (R122) -/

/-- A Bed load: its result is written later (R121). -/
def Issue.bedLoad (I : Issue) (s : State) (t : BitVec 5) (logsz : Nat) (ba : Nat → Word) : State :=
  I.bed s logsz false ba fun s =>
    let v (L : Nat) := (s.blk I.b).bedRead (ba L).toNat (2 ^ logsz)
    s.later I.b I.g
      { uid := s.fresh, seq := s.fresh, file := .v, reg := t.toNat, lanes := I.act
        vals := perLane fun L => if I.act.getLsbD L then BitVec.ofNat 64 (v L) else 0
        hi := if logsz = 4 then perLane fun L => if I.act.getLsbD L then BitVec.ofNat 64 (v L / 2 ^ 64) else 0 else []
        mask := 0, flags := 0, matrix := 0 }

/-- A Bed store: lanes in ascending order, so that the highest one's byte stands (R120). -/
def Issue.bedStore (I : Issue) (s : State) (t : BitVec 5) (logsz : Nat) (ba : Nat → Word) : State :=
  I.bed s logsz true ba fun s =>
    s.updBlk I.b fun x =>
      (lanesOf I.act).foldl
        (fun x L => x.bedStore (ba L).toNat (2 ^ logsz)
          ((I.G.rv t.toNat L).toNat + (if logsz = 4 then 2 ^ 64 * (I.G.rv (t.toNat + 1) L).toNat else 0))) x

/-- LDS (R122). -/
def execLds (t a : BitVec 5) (o : BitVec 6) (h : BitVec 2) (g : BitVec 4) (s : State) :
    Host.Outcome State Fault Refusal :=
  issueWord (.lds t a o h g) s fun I s =>
    I.bedLoad s t (h.toNat + 2) fun L => offsetEa (I.G.rv a.toNat L) o (2 ^ (h.toNat + 2))

/-- STS (R122). -/
def execSts (t a : BitVec 5) (o : BitVec 6) (h : BitVec 2) (g : BitVec 4) (s : State) :
    Host.Outcome State Fault Refusal :=
  issueWord (.sts t a o h g) s fun I s =>
    I.bedStore s t (h.toNat + 2) fun L => offsetEa (I.G.rv a.toNat L) o (2 ^ (h.toNat + 2))

/-- LDSX (R122). -/
def execLdsx (t a b : BitVec 5) (h : BitVec 2) (x : BitVec 1) (g : BitVec 4) (s : State) :
    Host.Outcome State Fault Refusal :=
  issueWord (.ldsx t a b h x g) s fun I s =>
    I.bedLoad s t (h.toNat + 2) fun L =>
      indexEa (I.G.rs a.toNat) (I.G.rv b.toNat L) (if x == 1 then 2 ^ (h.toNat + 2) else 1)

/-- STSX (R122). -/
def execStsx (t a b : BitVec 5) (h : BitVec 2) (x : BitVec 1) (g : BitVec 4) (s : State) :
    Host.Outcome State Fault Refusal :=
  issueWord (.stsx t a b h x g) s fun I s =>
    I.bedStore s t (h.toNat + 2) fun L =>
      indexEa (I.G.rs a.toNat) (I.G.rv b.toNat L) (if x == 1 then 2 ^ (h.toNat + 2) else 1)

/-! ### PLOT, UNPLOT, RENEW, PRES -/

/-- The fault of an invalid plot operand (R118): the lowest active lane and the operand's low bits; no access is made, so
that SIZE and WRITE are 0. Log 94 (DESIGN CHOICE). -/
def Issue.plotTrap (I : Issue) (v : Word) : Trap :=
  let L := lowest I.act
  I.trapOf 4 (memDetail v 0 false false 5 (BitVec.twoPow 32 L)) [(L, 5)]

/-- PLOT (R123). -/
def execPlot (d a b : BitVec 5) (r : BitVec 1) (g : BitVec 4) (s : State) : Host.Outcome State Fault Refusal :=
  issueWord (.plot d a b r g) s fun I s =>
    if I.act == 0 then s
    else
      let n := I.G.rv a.toNat (lowest I.act)
      let life := I.G.rv b.toNat (lowest I.act)
      if n = 0 || 8192 < n.toNat then I.trap s (I.plotTrap n)
      else if life = 0 || 50 < life.toNat then I.trap s (I.plotTrap life)
      else
        match (s.blk I.b).makePlot n.toNat life.toNat (r == 1) with
        | some p => I.laterV (s.updBlk I.b fun _ => p.1) d fun _ => (p.2, 0)
        | none => I.laterV s d fun _ => (BitVec.allOnes 64, 0)

/-- A copy of the block, not complete, that still touches lines of a plot: it lands there, or it has bytes to read there
(R124). -/
def Command.usesLines (c : Command) (base lines : Nat) : Bool :=
  let inPlot (a : Nat) : Bool := decide (256 * base ≤ a) && decide (a < 256 * (base + lines))
  let w (k : Nat) : Nat := (c.words.getD k 0).toNat
  let dir := w 0 / 2 ^ 28 % 8
  let rows := w 3 / 2 ^ 32
  let rb := w 3 % 2 ^ 32
  let touches (at_ stride : Nat) : Bool := decide (rows ≤ 2 ^ 20) && (List.range rows).any fun i =>
    decide (at_ + i * stride < 256 * (base + lines)) && decide (256 * base < at_ + i * stride + rb)
  c.queue == 0 && c.state != .done &&
    (if c.state == .taken then c.landing.any fun l => inPlot (256 * l.line)
      else if w 0 / 2 ^ 60 = 2 then
        let e := if w 4 % 2 = 1 then 8 else 4
        let cap := w 5 / 2 ^ 32
        (decide (w 2 < 256 * (base + lines)) && decide (256 * base < w 2 + 32 * cap * e))
          || (decide (w 5 % 2 ^ 32 < 256 * (base + lines)) && decide (256 * base < w 5 % 2 ^ 32 + 4 * cap))
      else (dir == 1 || dir == 3) && touches (w 2) (w 4 % 2 ^ 32))
  || (c.queue == 0 && c.state != .done && w 0 / 2 ^ 60 = 1 && (dir == 2 || dir == 3) && decide (rows ≤ 2 ^ 20)
    && (List.range rows).any fun i =>
      let start := w 1 + i * (w 4 / 2 ^ 32)
      decide (256 * c.next < (i + 1) * rb) && decide (start + (256 * c.next - i * rb) < 256 * (base + lines))
        && decide (256 * base < start + rb))

/-- The copies of a block into or out of the lines of a plot (R124). -/
def State.plotCopies (s : State) (b base lines : Nat) : Bool :=
  (oitems s.cmds).any fun c => c.2.blk == b && c.2.usesLines base lines

/-- UNPLOT (R124). -/
def execUnplot (a : BitVec 5) (g : BitVec 4) (s : State) : Host.Outcome State Fault Refusal :=
  issueWord (.unplot a g) s fun I s =>
    if I.act == 0 then s
    else
      let h := I.G.rv a.toNat (lowest I.act)
      match (s.blk I.b).plotOf h with
      | none => I.trap s (I.plotTrap h)
      | some p =>
        let lines := (List.range p.2.lines).map (p.2.base + ·)
        if (s.claimed I.b).any lines.contains then I.blockOn s .matrix (.lines ((s.claimed I.b).filter lines.contains))
        else if s.plotCopies I.b p.2.base p.2.lines then I.blockOn s .plotCopies (.plot p.2.base p.2.lines)
        else s.updBlk I.b fun x => { x.clearLines p.2.base p.2.lines with plots := odel x.plots p.1 }

/-- RENEW (R125). -/
def execRenew (a : BitVec 5) (g : BitVec 4) (s : State) : Host.Outcome State Fault Refusal :=
  issueWord (.renew a g) s fun I s =>
    if I.act == 0 then s
    else
      let h := I.G.rv a.toNat (lowest I.act)
      match (s.blk I.b).plotOf h with
      | none => I.trap s (I.plotTrap h)
      | some p =>
        s.updBlk I.b fun x => (List.range p.2.lines).foldl
          (fun x k =>
            let m := x.bedLine (p.2.base + k)
            if m.absent || x.expired (p.2.base + k) then x
            else x.setBedLine (p.2.base + k) { m with age := 0 }) x

/-- A Bed address is valid, in a live plot, present and not expired (R126). -/
def Block.present (x : Block) (a : Word) : Bool :=
  decide (a.toNat < 256 * x.bedLines) && (x.plotAt (a.toNat / 256)).isSome && !(x.bedLine (a.toNat / 256)).absent
    && !x.expired (a.toNat / 256)

/-- PRES (R126). -/
def execPres (p : BitVec 7) (a : BitVec 5) (s : State) : Host.Outcome State Fault Refusal :=
  issueWord (.pres p a) s fun I s =>
    I.laterP s p.toNat (maskOf fun L => (s.blk I.b).present (I.G.rv a.toNat L))

/-! ### FADE_CLOCK_TICK, LINE_EXPIRY (R114) -/

/-- The lines of a block's live plots. -/
def Block.liveLines (x : Block) : List Nat :=
  (oitems x.plots).flatMap fun p => (List.range p.2.lines).map (p.2.base + ·)

/-- A tick for one block: every age, saturating, and the expiry of the lines that now reach their lifetime.
Log 42 (DEDUCED). -/
def State.tickBlock (s : State) (b : Nat) : State :=
  let x := s.blk b
  x.liveLines.foldl
    (fun s l =>
      let s1 := s.updBlk b fun x => x.setBedLine l { x.bedLine l with age := min 63 ((x.bedLine l).age + 1) }
      if !x.expired l && (s1.blk b).expired l then s1.post (.lineExpiry b l) else s1) s

/-- FADE_CLOCK_TICK (R114); the lines of a block restored with no word issued since do not age (R129). -/
def execFadeClockTick (core : Nat) (s : State) : Host.Outcome State Fault Refusal :=
  .next
    (((oitems s.blocks).filter fun b => b.2.core == core && b.2.life == .resident && b.2.job.isNone && !b.2.paused).foldl
      (fun s b => s.tickBlock b.1) (s.updCore core fun c => { c with fade := c.fade + 1 }))

/-- The retention that R114 guarantees, in ticks of the fade clock: a line whose age is below it has been held for less
than 50 µs. -/
def retention : Nat := 50

/-- The bytes of a line lost: an open value each. Log 43 (DESIGN CHOICE). -/
def Block.fade (x : Block) (line free : Nat) : Block :=
  { x with
    bed := sfill 0 x.bed (256 * line) 256 fun k => (Config.freeWord (free + k / 8)).extractLsb' (8 * (k % 8)) 8 }

/-- A line of the Bed loses its bytes. Log 43 (DESIGN CHOICE). -/
def State.fadeBytes (s : State) (b line : Nat) : State :=
  { s.updBlk b (fun x => x.fade line s.free) with free := s.free + 32 }

/-- LINE_EXPIRY (R114): a line is expired by its age, which accesses test; its bytes stay for a copy that brings only some of
them (R127), and are lost where it has been held past the guaranteed retention. Log 43 (DESIGN CHOICE). -/
def execLineExpiry (blk line : Nat) (s : State) : Host.Outcome State Fault Refusal :=
  .next (if (s.blk blk).expired line && decide (retention ≤ ((s.blk blk).bedLine line).age) then s.fadeBytes blk line else s)

/-! ### BED_LINE_LANDS (R115, R117) -/

/-- The words of a landing line written. -/
def Block.landWords (x : Block) (l : Landing) : Block :=
  if l.words == BitVec.allOnes 64 then
    { x with bed := sfill 0 x.bed (256 * l.line) 256 fun k => l.data.extractLsb' (8 * k) 8 }
  else
    (List.range 64).foldl
      (fun x k => if l.words.getLsbD k then x.bedWrite (256 * l.line + 4 * k) 4 (l.data.extractLsb' (32 * k) 32).toNat else x)
      x

/-- A line of a copy lands (R127, R142): its words are written, and it is present, with age 0 and the source record of
R115, or as a failed line; it waits while MDRN claims the line (R234). Where it brings only some words of a line held past
the guaranteed retention, the others are lost. The last line completes the copy. Log 43 (DESIGN CHOICE). -/
def State.landLine (s : State) (b line cmd : Nat) : State :=
  match s.cmd cmd with
  | none => s
  | some c =>
    match c.landing.find? (·.line == line) with
    | none => s
    | some l =>
      if (s.claimed b).contains line then s.post (.bedLineLands b line cmd) else
      let m : BedLine := if l.failed then BedLine.dead
        else ⟨0, false, if l.words == BitVec.allOnes 64 then l.base else none⟩
      let old := ((s.blk b).plotAt line).isSome && decide (retention ≤ ((s.blk b).bedLine line).age)
      let s0 := if old && l.words != BitVec.allOnes 64 then s.fadeBytes b line else s
      let s1 := s0.updBlk b fun x => if (x.plotAt line).isSome then (x.landWords l).setBedLine line m else x
      let rest := c.landing.filter (·.line != line)
      let s2 := s1.updCmd cmd fun c => { c with landing := rest }
      if rest.isEmpty then s2.post (.commandCompletion cmd) else s2

/-- BED_LINE_LANDS (R117). -/
def execBedLineLands (blk line cmd : Nat) (s : State) : Host.Outcome State Fault Refusal :=
  .next (s.landLine blk line cmd)

end Sys2Proof.Machine
end

