-- ==== Sys2Proof/Machine/Packet.lean ====
section
/-!
DEFINITION. Fetching a packet (R10, R286), the sets of chained words in it (R18), and the checks of R29 on a
packet and on a set.
-/

namespace Sys2Proof.Machine

/-! ### Fetch -/

/-- The fetch of one word (R286): 0 and its bits, or the fault code of R99. Log 67 (DEDUCED). -/
def State.fetchWord (s : State) (b : Nat) (va : Word) : State × Nat × Nat :=
  let x := s.blk b
  if va.toNat % 4 != 0 then (s, 1, 0)
  else if !canonical va then (s, 2, 0)
  else
    let s1 := s.cacheSummary x.core x.space va
    if !s.summaryOk x.core x.space va 4 then (s1, 3, 0)
    else
      let r := s1.seek x.space va 4 4
      if r.2.code != 0 then (r.1, r.2.code, 0)
      else
        let v := r.1.viewLine (ownerOf va) (lineKey x.space (lineNo va)) (r.2.pa / 128 * 128) (bytesMask (lineOff va) 4)
        (r.1, 0, lineGet v.1 (lineOff va) 4)

/-- The first word of the packet that holds an address (R9). -/
def packetBase (pc : Word) : Word := BitVec.ofNat 64 (pc.toNat / 12 * 12)

/-- A fetched packet: its three words, or a fault code and the address that cannot be fetched. -/
structure Fetch where
  code : Nat
  va : Word
  words : List Nat
  deriving DecidableEq, Repr

/-- The words of a packet fetched in order, up to the first that cannot be. Log 67 (DEDUCED). -/
def State.fetchWords (s : State) (b : Nat) (base : Word) : List Nat → State × Fetch
  | [] => (s, ⟨0, 0, []⟩)
  | k :: t =>
    let va := base + BitVec.ofNat 64 (4 * k)
    let r := s.fetchWord b va
    if r.2.1 != 0 then (r.1, ⟨r.2.1, va, []⟩)
    else
      let u := r.1.fetchWords b base t
      (u.1, { u.2 with words := r.2.2 :: u.2.words })

/-- The fetch of the packet at a PC (R286). The PC itself is checked first; a packet that crosses a page is
fetched only when every word of it can be. -/
def State.fetchPacket (s : State) (b : Nat) (pc : Word) : State × Fetch :=
  let base := packetBase pc
  let cross := base.toNat / 4096 != (base.toNat + 11) / 4096
  if pc.toNat % 4 != 0 then (s, ⟨1, pc, []⟩)
  else
    let r := s.fetchWords b base [0, 1, 2]
    if r.2.code != 0 && !cross then (r.1, { r.2 with va := pc }) else r

/-! ### The words of a packet -/

/-- A word of a packet: its position, its bits, the raw word after it, and how many words it takes. -/
structure PWord where
  pos : Nat
  bits : Nat
  raw : Nat
  len : Nat
  deriving DecidableEq, Repr

def PWord.chain (w : PWord) : Bool := w.bits / 2 ^ 31 % 2 == 1

def PWord.switch (w : PWord) : Bool := w.bits / 2 ^ 30 % 2 == 1

/-- A W-format opcode, which a raw word follows (R11). -/
def isWOp (bits : Nat) : Bool := bits / 2 ^ 22 % 256 == 0x41 || bits / 2 ^ 22 % 256 == 0x42

/-- The words of a packet in order; a raw word is none (R18). -/
def packetWords (w0 w1 w2 : Nat) : List PWord :=
  if isWOp w0 then [⟨0, w0, w1, 2⟩, ⟨2, w2, 0, 1⟩]
  else if isWOp w1 then [⟨0, w0, 0, 1⟩, ⟨1, w1, w2, 2⟩]
  else [⟨0, w0, 0, 1⟩, ⟨1, w1, 0, 1⟩, ⟨2, w2, 0, 1⟩]

/-- The instruction of a word whatever its unused fields hold, for the checks of pipes and destinations. -/
def PWord.instr? (w : PWord) : Option Instr :=
  match decodeLoose w.bits w.raw with
  | .ok r => some r.2
  | .error _ => none

/-- The sets of chained words (R18). Log 64 (DEDUCED). -/
def chainSets : List PWord → List (List PWord)
  | [] => []
  | w :: t =>
    match w.chain, chainSets t with
    | true, set :: rest => (w :: set) :: rest
    | _, l => [w] :: l

/-- No two elements are equal. -/
def distinct {α : Type} [BEq α] : List α → Bool
  | [] => true
  | x :: t => !t.contains x && distinct t

/-- A set whose words go to different pipes and write different registers and predicates (R18). Log 64 (DEDUCED). -/
def setOk (set : List PWord) : Bool :=
  let is := set.filterMap PWord.instr?
  distinct ((is.map Instr.pipe).filter (· != .none)) && distinct (is.flatMap fun i => i.destsOf.eraseDups)

/-- R29 order 1 on a whole packet, entered at a position. -/
def packetOk (w0 w1 w2 entry : Nat) : Bool :=
  let ws := packetWords w0 w1 w2
  ws.all (fun w => !(w.chain && w.pos + w.len == 3)) && !(ws.any fun w => w.pos == 2 && isWOp w.bits)
    && (chainSets ws).all setOk && ws.any fun w => w.pos == entry

/-- The set that issues when a packet is entered at a position: from the entered word on (R10). -/
def entrySet (w0 w1 w2 entry : Nat) : List PWord :=
  match (chainSets (packetWords w0 w1 w2)).find? fun set => set.any fun w => w.pos == entry with
  | some set => set.dropWhile fun w => w.pos != entry
  | none => []

/-! ### The set at issue -/

/-- A word of a set at issue: its bits, the guard it inherits (R16) and its instruction, `none` for a word that
decodes to none. -/
structure SetWord where
  pos : Nat
  bits : Nat
  inherited : BitVec 4
  instr : Option Instr
  switch : Bool
  deriving DecidableEq, Repr

/-- The words of a set with the guards they inherit (R16). -/
def setWords (g : BitVec 4) : List PWord → List SetWord
  | [] => []
  | w :: t =>
    let i := match decodeWord w.bits w.raw with | .ok i => some i | .error _ => none
    ⟨w.pos, w.bits, g, i, w.switch⟩ :: setWords ((i.bind Instr.guard).getD g) t

/-- R29 orders 2 to 4 over a set, order by order and in each order word by word. Log 64 (DEDUCED). -/
def setTrap (ws : List SetWord) (y : Group) (s : State) (b : Nat) : Option (Nat × Nat × Nat × Nat) :=
  match ws.find? fun w => match w.instr with | none => true | some i => wordIllegal i s b with
  | some w => some (2, w.bits, 0, 0)
  | none =>
    match ws.find? fun w => w.instr.any fun i => wordPrivileged i y with
    | some w => some (3, w.bits, 0, 0)
    | none =>
      ws.findSome? fun w => w.instr.bind fun i => (wordPending i w.inherited y).map fun r => (4, w.bits, r.1, r.2)

/-- The context in which a word of a set issues. -/
def setCtx (s : State) (b g : Nat) (run : Mask) (pc next : Word) (single : Bool) (w : SetWord) : IssueCtx :=
  let y := s.grp b g
  let x := s.blk b
  ⟨b, g, run, y.guard w.inherited, pc, packetBase pc + BitVec.ofNat 64 (4 * w.pos), next, BitVec.ofNat 32 w.bits,
    if single then none else some (y, x.rkey, x.rctr), s.fresh, 0, .none⟩

/-- The word after a set (R285): a W-format word counts with its raw word. -/
def afterSet (pc : Word) (set : List PWord) : Word :=
  match set.getLast? with
  | some w => packetBase pc + BitVec.ofNat 64 (4 * (w.pos + w.len))
  | none => pc

/-- MTS, whose write comes after what the other words of its set do (R159). -/
def isMts : Option Instr → Bool
  | some (.mts ..) => true
  | _ => false

/-- The order in which the words of a set take effect: an MTS after the others, RCTR and LFSR included, and the control word
last (R285). Log 74 (DEDUCED). -/
def controlLast (ws : List SetWord) : List SetWord :=
  ws.filter (fun w => !(w.instr.any fun i => i.pipe == .c) && !isMts w.instr) ++ ws.filter (fun w => isMts w.instr)
    ++ ws.filter fun w => w.instr.any fun i => i.pipe == .c

/-- The switch bit of a set honoured (R20): the group parks until its outstanding results are written; where the
set has parked it already, that park comes first. Log 81 (DEDUCED). -/
def State.honourSwitch (s : State) (b g : Nat) (on : Bool) : State :=
  let y := s.grp b g
  if !on || y.ended || (s.blk b).life != .resident || y.trapPend.isSome then s
  else if y.park.isSome then s.updGrp b g fun y => { y with switchDue := true }
  else if s.waiting b g then s.parkOn b g .switch .results
  else s

/-- A fetch fault (R99, R286). -/
def fetchTrap (pc : Word) (run : Mask) (f : Fetch) : Trap :=
  ⟨3, memDetail f.va 0 false false f.code run, pc, run, (lanesOf run).map fun L => (L, f.code), none⟩

/-- A trap of R29 on a set. -/
def encodingTrap (pc : Word) (run : Mask) (cause bits file idx : Nat) : Trap :=
  ⟨7, errDetail cause run (BitVec.ofNat 32 bits) file idx, pc, run, [], none⟩

end Sys2Proof.Machine
end

