-- ==== Sys2Proof/Machine/Capsules.lean ====
section
/-!
DEFINITION. Capsules (R304 to R313): CAPB, CAPE, CAPR, the step CAPSULE_STEP, and how a lane resumes.
-/

namespace Sys2Proof.Machine

/-! ### The body (R305) -/

/-- A word of a body as it is fetched. -/
structure BodyWord where
  va : Word
  bits : Nat
  instr : Option Instr
  deriving DecidableEq, Repr

def BodyWord.chain (w : BodyWord) : Bool := w.bits / 2 ^ 31 % 2 == 1

/-- CAPE. -/
def isCape : Option Instr → Bool
  | some (.cape _) => true
  | _ => false

/-- A body as far as it was fetched: the words, the fault code and address of one that cannot be fetched, and whether its
CAPE lies within 64 words. -/
structure Body where
  words : List BodyWord
  code : Nat
  va : Word
  whole : Bool
  deriving DecidableEq, Repr

/-- The words from an address up to the first CAPE; `left` words may still follow. -/
def State.fetchBody (s : State) (b : Nat) (va : Word) : (left : Nat) → State × Body
  | 0 => (s, ⟨[], 0, 0, false⟩)
  | left + 1 =>
    let r := s.fetchWord b va
    if r.2.1 != 0 then (r.1, ⟨[], r.2.1, va, false⟩)
    else if isWOp r.2.2 then
      match left with
      | 0 => (r.1, ⟨[], 0, 0, false⟩)
      | left + 1 =>
        let q := r.1.fetchWord b (va + 4)
        if q.2.1 != 0 then (q.1, ⟨[], q.2.1, va + 4, false⟩)
        else
          let w : BodyWord := ⟨va, r.2.2, (decodeWord r.2.2 q.2.2).toOption⟩
          let t := q.1.fetchBody b (va + 8) left
          (t.1, { t.2 with words := w :: t.2.words })
    else
      let w : BodyWord := ⟨va, r.2.2, (decodeWord r.2.2 0).toOption⟩
      if isCape w.instr then (r.1, ⟨[w], 0, 0, true⟩)
      else
        let t := r.1.fetchBody b (va + 4) left
        (t.1, { t.2 with words := w :: t.2.words })

/-- The instructions a body may hold, with the forms that R305 excludes. -/
def bodyClass (op : Nat) : Instr → Bool
  | .imad .. => true
  | .mov _ _ m _ => m == 0
  | .li .. | .lih .. => true
  | .isetp .. | .fsetp .. | .pand .. | .por .. | .pxor .. | .pandn .. | .vtop .. => true
  | .fadd _ _ _ m _ | .fsub _ _ _ m _ | .fmul _ _ _ m _ => !m.getLsbD 0
  | .ldb .. | .ldh .. | .ldw .. | .ldd .. | .ldq .. => true
  | .stb .. | .sth .. | .stw .. | .std .. | .stq .. | .atom .. | .red .. | .acas .. => true
  | .bra h _ o => h != 3 && !o.msb
  | .nop .. | .cape .. => true
  | _ => (decide (0x20 ≤ op) && decide (op ≤ 0x3F)) || (decide (0x50 ≤ op) && decide (op ≤ 0x59))

/-- A word of a body names only what R305 allows; `stop` is the address of CAPE. -/
def BodyWord.ok (w : BodyWord) (stop : Word) : Bool :=
  match w.instr with
  | none => false
  | some i =>
    let u := i.uses
    bodyClass (w.bits / 2 ^ 22 % 256) i && (u.rv ++ u.wv).all (· ≤ 7) && u.rs.isEmpty && u.ws.isEmpty
      && (u.rp ++ u.wp).all (fun p => decide (p ≤ 6) || p == 127)
      && match i with
        | .bra _ _ o => decide (w.va + 4 + o.signExtend 64 * 4 ≤ stop)
        | _ => true

/-- No word is chained into CAPE, nor CAPE onward. -/
def capeAlone : List BodyWord → Bool
  | [] => true
  | [w] => !w.chain
  | [u, w] => !u.chain && !w.chain
  | _ :: t => capeAlone t

/-- A body is well formed (R305). -/
def Body.ok (y : Body) : Bool :=
  match y.words.getLast? with
  | some c => y.whole && isCape c.instr && capeAlone y.words && y.words.all fun w => w.ok c.va
  | none => false

/-! ### Registers of a capsule (R304) -/

/-- v0 to v7 of a lane. -/
def Group.capRegs (y : Group) (L : Nat) : List Word := (List.range 8).map fun r => y.rv r L

def Group.setCapRegs (y : Group) (L : Nat) (w : List Word) : Group :=
  (List.range 8).foldl (fun y r => y.wv r (BitVec.twoPow 32 L) fun _ => w.getD r 0) y

/-- p0 to p6 of a lane. -/
def Group.setCapPreds (y : Group) (L n : Nat) : Group :=
  (List.range 7).foldl (fun y i => y.wp i (BitVec.twoPow 32 L) (if n.testBit i then BitVec.allOnes 32 else 0)) y

/-- Eight words of a record. -/
def State.capWords (s : State) (space : Nat) (lk : Word) (off : Nat) : List Word :=
  (List.range 8).map fun k => s.capWord space lk (off + 8 * k)

def State.setCapWords (s : State) (P : Party) (lk : Word) (off : Nat) (w : List Word) : State :=
  (List.range 8).foldl (fun s k => s.setCapWord P lk (off + 8 * k) (w.getD k 0)) s

/-- The OWNER and OGRID fields name a lane (R304). Log 25 (DEDUCED). -/
def State.ownerIs (s : State) (b g L : Nat) (lk : Word) : Bool :=
  s.ownsCapsule b g lk && bits (s.capWord (s.blk b).space lk 0x10) 0 5 == L

/-- Poison in a record (R89). -/
def State.capPoison (s : State) (space : Nat) (lk : Word) : Bool :=
  s.vpoison space lk 128 || s.vpoison space (lk + 128) 128

/-! ### Acquire and graft (R306) -/

/-- A free lock is acquired. -/
def State.capAcquire (s : State) (b g L : Nat) (lk body cend : Word) : State :=
  let x := s.blk b
  let y := s.grp b g
  let P := s.partyOf b
  let id : Word := BitVec.ofNat 64 x.grid
  let w := s.capWord x.space lk 0
  let s1 := s.setCapWord P lk 0 (lockWord true true false (lockGen w + 1) (execFields x.space x.lcore g L))
  let s2 := (((((s1.setCapWord P lk 8 id).setCapWord P lk 0x10 (BitVec.ofNat 64 (execFields 0 x.lcore g L))).setCapWord
    P lk 0x18 id).setCapWord P lk 0x20 0).setCapWord P lk 0x28 body).setCapWord P lk 0x30 cend
  let s3 := (s2.setCapWord P lk 0x38 (BitVec.ofNat 64 (y.predsOf 7 L))).setCapWords P lk 0x40 (y.capRegs L)
  (s3.updGrp b g fun y => { (y.setPc (BitVec.twoPow 32 L) fun _ => body) with
      cap := some ⟨L, true, none, none, []⟩, caprec := lk }).acquire b 4

/-- The loads of a lane's body that are out or whose faults wait are dropped: what the lane wrote in the body since the
last step is replaced (R310). -/
def Group.dropBody (y : Group) (L : Nat) : Group :=
  let mine (a : Access) : Bool := a.body && a.act == BitVec.twoPow 32 L
  (y.loads.filter mine ++ (y.ready.filterMap (·.acc)).filter mine).foldl (fun y a => a.markPending y false)
    { y with loads := y.loads.filter fun a => !mine a, ready := y.ready.filter fun f => !f.acc.any mine }

/-- A lane takes back its graft slot and stands before its own CAPB. -/
def Group.takeBack (y : Group) (L : Nat) (slot : Option GraftSlot) : Group :=
  match slot with
  | some k => (((y.dropBody L).setCapRegs L k.v).setCapPreds L k.preds).setPc (BitVec.twoPow 32 L) fun _ => k.pc
  | none => y

/-- The lane of a group that executed a capsule displaced by another lane of it (R306): the owner moves to CEND and is
recorded; a grafter, which is no longer executor, takes back its graft slot (R310), and the owner that it displaced stays
recorded. Log 25 (DEDUCED). -/
def Group.displace (y : Group) (old : Nat) (cend : Word) : Group × Option Nat :=
  match y.cap with
  | none => (y, none)
  | some c =>
    if c.lane != old then (y, c.displaced)
    else if c.owner then (y.setPc (BitVec.twoPow 32 old) fun _ => cend, some old)
    else (y.takeBack old c.slot, c.displaced)

/-- A lane grafts the capsule onto itself: from CAPB with its graft slot, or back as its owner without one.
Log 25 (DEDUCED). -/
def State.capGraft (s : State) (b g L : Nat) (lk : Word) (slot : Bool) : State :=
  let x := s.blk b
  let y := s.grp b g
  let P := s.partyOf b
  let w := s.capWord x.space lk 0
  let cend := s.capWord x.space lk 0x30
  let cpc := s.capWord x.space lk 0x28
  let old := bits w 0 5
  let mine := lockExec w / 32 == execFields x.space x.lcore g 0 / 32
    && (s.capWord x.space lk 8).toNat == x.grid && old != L
  let s1 := (s.setCapWord P lk 0 (lockWord true true (lockDone w) (lockGen w) (execFields x.space x.lcore g L))).setCapWord
    P lk 8 (BitVec.ofNat 64 x.grid)
  let keep : Option GraftSlot := if slot then some ⟨y.capRegs L, y.predsOf 7 L, y.lanePc L⟩ else none
  let ckpt := s.capWords x.space lk 0x40
  let cpred := (s.capWord x.space lk 0x38).toNat
  (s1.updGrp b g fun y =>
    let y1 := (((y.dropBody L).setCapRegs L ckpt).setCapPreds L cpred).setPc (BitVec.twoPow 32 L) fun _ => cpc
    let y2 := if slot && mine then y1.displace old cend else (y1, none)
    { y2.1 with cap := some ⟨L, !slot, keep, y2.2, []⟩, caprec := lk }).acquire b 4

/-- The trap of a record a field of which must be zero and is not (R304, R312). -/
def State.recordTrap (s : State) (b g L : Nat) (lk : Word) : State :=
  s.takeTrap b g ⟨9, capDetail (BitVec.twoPow 32 L) 8 lk, (s.grp b g).lanePc L, BitVec.twoPow 32 L, [], none⟩

/-- The outcome of a read of the lock word by a waiting CAPB (R306); one that finds a broken record traps (R312), and one
whose record a host caches waits for it (R278). Log 25 (DEDUCED). -/
def State.tryCapsule (s : State) (b g : Nat) (lk : Word) (L : Nat) (body cend : Word) : State :=
  let x := s.blk b
  let w := s.capWord x.space lk 0
  let same := lockExec w / 32 == execFields x.space x.lcore g 0 / 32 && (s.capWord x.space lk 8).toNat == x.grid
  if s.capPoison x.space lk then s.hwError b 1
  else if s.capBad x.space lk then (s.updGrp b g fun y => { y with park := none }).recordTrap b g L lk
  else
  match s.capHost x.space lk with
  | some h => (s.backInvalidate h.1 h.2).postOnce (.waitReread b g)
  | none =>
  if !lockHeld w then (s.capAcquire b g L lk body cend).setAwait b g .nothing
  else if !lockDone w && (same || (!lockRun w && bits w 48 8 == x.space)) then
    (s.capGraft b g L lk true).setAwait b g .nothing
  else s

/-! ### CAPB (R306) -/

/-- A precise fault of the lock or of a step at its home (R306, R307). -/
def homeFault (pc va : Word) (run lanes : Mask) (logsz code : Nat) : Trap :=
  ⟨2, memDetail va logsz false true code lanes, pc, run, (lanesOf lanes).map fun L => (L, code), none⟩

/-- CAPB (R306), with its tests in their order. -/
def execCapb (a : BitVec 5) (g : BitVec 4) (s : State) : Host.Outcome State Fault Refusal :=
  issueWord (.capb a g) s fun I s =>
    if I.act == 0 then s
    else
      let L := lowest I.act
      let lk := I.G.rv a.toNat L
      let x := s.blk I.b
      let s1 := s.lookUp x.core x.space I.act fun _ => lk
      let trap (t : State) (c : Nat) : State := I.trap t (I.trapOf 9 (capDetail I.act c lk) [])
      if (lanesOf I.act).length != 1 then trap s 2
      else if I.G.caprec != 0 && I.G.caprec != lk then trap s 5
      else if lk.toNat % 256 != 0 then trap s 7
      else
        match I.accessTrap s1 2 3 3 true I.act fun _ => lk with
        | some t => I.trap s1 t
        | none =>
          let f := s1.fetchBody I.b (I.wpc + 4) 64
          if f.2.code != 0 then
            I.trap f.1 (I.trapOf 3 (memDetail f.2.va 0 false false f.2.code I.run)
              ((lanesOf I.run).map fun k => (k, f.2.code)))
          else if !f.2.ok || I.pc != I.wpc || I.word.getLsbD 31 then trap f.1 1
          else
            let r := f.1.translate x.space lk 3
            let code := if r.2.code = 0 && inHost r.2.pa then 5 else r.2.code
            let cend := ((f.2.words.getLast?.map (·.va)).getD 0) + 4
            if code != 0 then I.trap r.1 (homeFault I.pc lk I.run I.act 3 code)
            else if r.1.capBad x.space lk then trap r.1 8
            else
              ((((r.1.updGrp I.b I.g fun y =>
                (y.setPc (I.run &&& ~~~I.act) fun _ => cend).setPc I.act fun _ => I.wpc)).parkOn I.b I.g .wait
                  (.capb lk L (I.wpc + 4) cend))).post (.waitReread I.b I.g)

/-! ### Resuming (R309, R310) -/

/-- The owner rows of R310: delivery, grafting back, or a wait; a record with a broken field traps (R304, R312). The
Boolean says that the lane waits. Log 26 (DESIGN CHOICE). -/
def State.resumeOwner (s : State) (b g L : Nat) (lk : Word) : State × Bool :=
  let x := s.blk b
  let w := s.capWord x.space lk 0
  if (lockDone w || !lockRun w) && s.capBad x.space lk then
    ((s.updGrp b g fun y => { y with cap := some ⟨L, true, none, none, []⟩ }).recordTrap b g L lk, false)
  else if lockDone w then
    let vals := s.capWords x.space lk 0x80
    let preds := (s.capWord x.space lk 0xC0).toNat
    let cend := s.capWord x.space lk 0x30
    let s1 := s.setCapWord (s.partyOf b) lk 0 (lockWord false false true (lockGen w) (lockExec w))
    (s1.updGrp b g fun y =>
      { ((((y.dropBody L).setCapRegs L vals).setCapPreds L preds).setPc (BitVec.twoPow 32 L) fun _ => cend) with
        cap := none, caprec := 0, lastCap := some (lk, lockGen w) }, false)
  else if !lockRun w then (s.capGraft b g L lk false, false)
  else (s.updGrp b g fun y => { y with cap := some ⟨L, true, none, none, []⟩ }, true)

/-- A group's capsule lane resumes (R310), after an acquire, and waits first for a record that a host caches (R278). A lane
that abandons does not stay executor (R307). The Boolean says that the group waits with `.capsule`. -/
def State.resumeCapsule (s : State) (b g : Nat) (stay : Bool := true) : State × Bool :=
  let y := s.grp b g
  match y.cap with
  | none => (s, false)
  | some c =>
    match s.capHost (s.blk b).space y.caprec with
    | some h => ((s.backInvalidate h.1 h.2).postOnce (.waitReread b g), true)
    | none =>
    let s0 := s.acquire b 4
    let lk := y.caprec
    let w := s0.capWord (s0.blk b).space lk 0
    if stay && s0.namesExec b g c.lane lk && !lockDone w then
      (s0.setCapWord (s0.partyOf b) lk 0 (w ||| BitVec.twoPow 64 62), false)
    else if s0.ownerIs b g c.lane lk then s0.resumeOwner b g c.lane lk
    else
      let s1 := s0.updGrp b g fun y => y.takeBack c.lane c.slot
      match c.displaced with
      | some d => s1.resumeOwner b g d lk
      | none => (s1.updGrp b g fun y => { y with cap := none, caprec := 0 }, false)

/-- The group goes on, or waits for its capsule; what its lane had begun is over where it abandons. -/
def State.goCapsule (s : State) (b g : Nat) (stay : Bool := true) : State :=
  let lane := ((s.grp b g).cap.map (·.lane)).getD 0
  let r := (if stay then s else s.setAwait b g (.capsule lane)).resumeCapsule b g stay
  if r.2 then r.1.repark b g .wait (.capsule (((r.1.grp b g).cap.map (·.lane)).getD 0))
  else if (r.1.grp b g).level then r.1
  else r.1.setAwait b g .nothing

/-! ### Steps (R307) -/

/-- The lock word no longer names the group's lane as a running executor. -/
def State.stale (s : State) (b g L : Nat) (lk : Word) : Bool :=
  !(s.namesExec b g L lk && lockRun (s.capWord (s.blk b).space lk 0))

/-- STEP, CKPT, CPRED and CPC after a step. Log 26 (DESIGN CHOICE). -/
def State.checkpoint (s : State) (b g L : Nat) (lk : Word) : State :=
  let y := s.grp b g
  let P := s.partyOf b
  ((((s.setCapWord P lk 0x20 (s.capWord (s.blk b).space lk 0x20 + 1)).setCapWord P lk 0x28 (y.lanePc L)).setCapWord P lk
    0x38 (BitVec.ofNat 64 (y.predsOf 7 L)))).setCapWords P lk 0x40 (y.capRegs L)

/-- The store or atomic of a step on the bytes its home holds. -/
def State.performStep (s : State) (b g : Nat) (a : Access) (x : Xlate) : State :=
  let L := lowest a.act
  let P := s.partyOf b
  let line := lineNo (a.vaAt L)
  let off := lineOff (a.vaAt L)
  let key := lineKey P.space line
  let pa := x.pa / 128 * 128
  let mask := bytesMask off a.size
  let v := s.viewLine (ownerOfLine line) key pa mask
  let lk := (s.grp b g).caprec
  if a.kind = 3 && v.2 &&& ~~~(s.blk b).heldMask line != 0 then s.hwError b 1
  else
    let old := lineGet ((s.blk b).overlay line v.1) off a.size
    let r := if a.kind = 3 then a.atomicNew old L else (some (a.dataAt L), 0)
    let s1 := match r.1 with
      | some n =>
        let t := (s.mergeLine P line pa x.bitmap (x.entry.getLsbD 60) mask (linePut n off a.size)).dropL1 P.core key mask
        if inHost pa then t.noteGroupPort b g (ownerOfLine line) else t
      | none => s
    let s2 := if a.hasDest then
        (s1.updGrp b g fun y => y.wv a.dreg (BitVec.twoPow 32 L) fun _ => BitVec.ofNat 64 old).acquire b 4
      else s1
    (s2.checkpoint b g L lk).setAwait b g .nothing

/-- CAPSULE_STEP: a stale step is discarded and its lane abandons; a step that its home refuses faults as if its set had
not issued; any other commits the block and is then performed with its step count and checkpoint, once no host caches a
line that it writes (R278). Its home counts it once (R69). Log 26 (DESIGN CHOICE). -/
def State.capsuleStep (s : State) (b g : Nat) : State :=
  let y := s.grp b g
  match y.await with
  | some (.step a old) =>
    let L := lowest a.act
    let va := a.vaAt L
    let again : Instr := .capsuleStep b g
    let space := (s.blk b).space
    let need := if a.kind = 3 then 3 else 2
    if s.stale b g L y.caprec then s.goCapsule b g false
    else
      let r := s.translate space va need false
      let code := if r.2.code = 0 && a.kind == 3 && inHost r.2.pa then 5 else r.2.code
      if code != 0 then
        (r.1.updGrp b g fun y => { (y.setPc a.act fun _ => a.pc).withRegs old with park := none }).takeTrap b g
            (homeFault a.pc va a.act a.act a.logsz code)
      else if s.hostCaches (ownerOf va) r.2.pa then (r.1.backInvalidate (ownerOf va) r.2.pa).post again
      else if (s.capHost space y.caprec).isSome then (r.1.askHost (s.capHost space y.caprec).toList).post again
      else if !a.poc then
        let s1 := r.1.startCommit b true
        (s1.setAwait b g (.step { a with poc := true, after := (s1.blk b).lastCommit } old)).post again
      else if !(s.blk b).committed a.after then r.1.post again
      else
        let t := s.translate space va need
          (!(s.die (ownerOf va)).l2Has (lineKey space (lineNo va)) (bytesMask (lineOff va) a.size))
        t.1.performStep b g a t.2
  | _ => s

/-- CAPSULE_STEP (R307). -/
def execCapsuleStep (blk grp : Nat) (s : State) : Host.Outcome State Fault Refusal := .next (s.capsuleStep blk grp)

/-! ### CAPE (R308) -/

/-- The action of CAPE at the home, and where its executor goes. Log 25 (DEDUCED). -/
def State.endCapsule (s : State) (b g : Nat) : State :=
  let x := s.blk b
  let y := s.grp b g
  match y.cap with
  | none => s
  | some c =>
    let lk := y.caprec
    let P := s.partyOf b
    let w := s.capWord x.space lk 0
    if s.stale b g c.lane lk then s.goCapsule b g false
    else
      let vals := y.capRegs c.lane
      let preds := y.predsOf 7 c.lane
      let owner := s.ownerIs b g c.lane lk
      let owned := c.displaced.filter fun d => s.ownerIs b g d lk
      let free := owner || s.capWord x.space lk 0x18 == 0 || owned.isSome
      let s1 := (s.setCapWords P lk 0x80 vals).setCapWord P lk 0xC0 (BitVec.ofNat 64 preds)
      let s2 := if free then s1.setCapWord P lk 0 (lockWord false false true (lockGen w) (lockExec w))
        else (s1.setCapWord P lk 0 (lockWord true false true (lockGen w) 0)).setCapWord P lk 8 0
      let y1 := match owned with
        | some d => (y.setCapRegs d vals).setCapPreds d preds
        | none => y
      let y2 := if owner then y1 else y1.takeBack c.lane c.slot
      s2.setGrp b g { y2 with
        cap := none
        caprec := 0
        lastCap := if owner || owned.isSome then some (lk, lockGen w) else y.lastCap }

/-- CAPE (R308): its release commits the block, and the action follows. -/
def execCape (g : BitVec 4) (s : State) : Host.Outcome State Fault Refusal :=
  issueWord (.cape g) s fun I s =>
    if I.act == 0 then s
    else
      let bad := I.G.caprec == 0 || !(I.G.cap.any fun c => I.act == BitVec.twoPow 32 c.lane)
      if bad then I.trap s (I.trapOf 9 (capDetail I.act 9 I.G.caprec) [])
      else if !s.releaseOk I || s.bodyOut I then I.block s .commit
      else if s.stale I.b I.g (lowest I.act) I.G.caprec then s.goCapsule I.b I.g false
      else
        let s1 := s.startCommit I.b true
        if (s1.blk I.b).commits.isEmpty && (s1.capHost (s1.blk I.b).space I.G.caprec).isNone then s1.endCapsule I.b I.g
        else s1.parkOn I.b I.g .commit (.cape (s1.blk I.b).lastCommit)

/-! ### CAPR (R311) -/

/-- CAPR (R311). -/
def execCapr (d : BitVec 5) (b : BitVec 3) (g : BitVec 4) (s : State) : Host.Outcome State Fault Refusal :=
  issueWord (.capr d b g) s fun I s =>
    if I.act == 0 then s
    else
      let trap (lk : Word) : State := I.trap s (I.trapOf 9 (capDetail I.act 6 lk) [])
      match I.G.lastCap with
      | none => trap 0
      | some k =>
        let space := (s.blk I.b).space
        let w := s.capWord space k.1 0
        if lockGen w != k.2 || !lockDone w then trap k.1
        else I.laterV (s.acquire I.b 4) d fun _ => (s.capWord space k.1 (0x80 + 8 * b.toNat), 0)

end Sys2Proof.Machine
end

