-- ==== Sys2Proof/Machine/Queues.lean ====
section
/-!
DEFINITION. Queues, commands and timelines (R131 to R139): QW, QR, TLRD, TLW, and the step COMMAND_COMPLETION.
-/

namespace Sys2Proof.Machine

/-! ### Queues (R131) -/

def Group.queue (y : Group) (q : Nat) : List Word := sget [] y.queues q

def Group.setQueue (y : Group) (q : Nat) (l : List Word) : Group := { y with queues := sset [] y.queues q l }

/-- A queue that QW writes: q0, q2, q4 and q6. -/
def isCommandQueue (q : Nat) : Bool := q == 0 || q == 2 || q == 4 || q == 6

/-- The detail of an engine trap (R139). -/
def engineDetail (cause queue : Nat) (header : Word) (tln : Nat) : BitVec 96 :=
  BitVec.ofNat 96 (header.toNat % 2 ^ 32 + 2 ^ 32 * cause + 2 ^ 36 * queue + 2 ^ 40 * (header.toNat / 2 ^ 32)
    + 2 ^ 72 * tln)

/-! ### Commands (R134) -/

/-- The words of a queue as whole commands, each a header with its argument words, and the words left over.
Log 47 (DEDUCED). -/
def assemble : Nat → List Word → List (List Word) × List Word
  | 0, l => ([], l)
  | _, [] => ([], [])
  | fuel + 1, h :: t =>
    let nw := bits h 48 8
    if nw ≤ t.length then
      let r := assemble fuel (t.drop nw)
      ((h :: t.take nw) :: r.1, r.2)
    else ([], h :: t)

/-- The pushed commands of a block that have not completed, refetches not counted. Log 47 (DEDUCED). -/
def State.pushed (s : State) (b : Nat) : Nat :=
  ((oitems s.cmds).filter fun c => c.2.blk == b && c.2.state != .done && !c.2.refetch).length

/-- The step with which the engine of a queue takes a command. -/
def takeEvent (queue kind cmd : Nat) : Instr :=
  match queue with
  | 0 => if kind = 2 then .copyRagged cmd else .copyLinear cmd
  | 2 => if kind = 2 then .kvGet cmd else .kvPut cmd
  | 4 => if kind = 2 then .sopen cmd else if kind = 3 then .sclose cmd else .gemv cmd
  | _ => .maskRequest cmd

/-- A command is pushed: its number, the release and the commit (R134). Log 47 (DEDUCED). -/
def State.pushCommand (s : State) (b g q : Nat) (pc : Word) (w : Word32) (words : List Word) : State :=
  let h := words.getD 0 0
  let t := bits h 56 4
  let n := sget 0 (s.blk b).issued t + 1
  let s1 := (s.updBlk b fun x => { x with issued := sset 0 x.issued t n }).startCommit b true
  let id := s1.fresh
  let c : Command := {
    blk := b, grp := g, queue := q, seq := id, pc := pc, pusher := w, tl := t, num := n, words := words
    after := (s1.blk b).lastCommit, state := .pushed, next := 0, landing := [], failAt := none, stat := 0
    detail := 0, out := [], sending := false, refetch := false }
  ({ s1.tick with cmds := oset s1.cmds id c }).post (takeEvent q (bits h 60 4) id)

/-- The trap of a queue used against its direction (R132). -/
def Issue.queueTrap (I : Issue) (q : Nat) : Trap := I.trapOf 6 (engineDetail 4 q 0 0) []

/-- The words a QW or QR of n words moves. -/
def Issue.queueWords (I : Issue) (u : BitVec 1) : Nat := if u = 1 then 1 else (lanesOf I.act).length

/-- QW (R132). -/
def execQw (q : BitVec 4) (r : BitVec 5) (u : BitVec 1) (g : BitVec 4) (s : State) :
    Host.Outcome State Fault Refusal :=
  issueWord (.qw q r u g) s fun I s =>
    if I.act == 0 then s
    else if !isCommandQueue q.toNat then I.trap s (I.queueTrap q.toNat)
    else
      let new := if u = 1 then [I.G.rs r.toNat] else (lanesOf I.act).map fun L => I.G.rv r.toNat L
      let old := (s.grp I.b I.g).queue q.toNat
      let c := assemble (old.length + new.length + 1) (old ++ new)
      if 32 < old.length + new.length || (c.1.length != 0 && 64 < s.pushed I.b + c.1.length) then
        I.blockOn s .queue (.queue q.toNat new.length c.1.length true)
      else if c.1.length != 0 && !s.releaseOk I then I.block s .commit
      else
        c.1.foldl (fun s w => s.pushCommand I.b I.g q.toNat I.wpc I.word w)
          (s.updGrp I.b I.g fun y => y.setQueue q.toNat c.2)

/-- The place of a lane among the active ones. -/
def lanePlace (act : Mask) (L : Nat) : Nat := ((lanesOf act).filter (· < L)).length

/-- QR (R133). -/
def execQr (q : BitVec 4) (r : BitVec 5) (u : BitVec 1) (g : BitVec 4) (s : State) :
    Host.Outcome State Fault Refusal :=
  issueWord (.qr q r u g) s fun I s =>
    if I.act == 0 then s
    else if isCommandQueue q.toNat then I.trap s (I.queueTrap q.toNat)
    else
      let old := (s.grp I.b I.g).queue q.toNat
      let n := I.queueWords u
      if old.length < n then I.blockOn s .queue (.queue q.toNat n 0 false)
      else
        let s1 := s.updGrp I.b I.g fun y => y.setQueue q.toNat (old.drop n)
        let s2 := if q = 8 then s1.acquire I.b 4 else s1
        if u = 1 then I.laterS s2 r (old.headD 0, 0)
        else I.laterV s2 r fun L => (old.getD (lanePlace I.act L) 0, 0)

/-- TLRD (R136). -/
def execTlrd (d : BitVec 5) (b g : BitVec 4) (s : State) : Host.Outcome State Fault Refusal :=
  issueWord (.tlrd d b g) s fun I s =>
    I.laterV s d fun _ => (BitVec.ofNat 64 (sget 0 (s.blk I.b).issued b.toNat), 0)

/-- TLW (R137). -/
def execTlw (a : BitVec 5) (b : BitVec 4) (u : BitVec 1) (g : BitVec 4) (s : State) :
    Host.Outcome State Fault Refusal :=
  issueWord (.tlw a b u g) s fun I s =>
    if I.act == 0 then s
    else
      let n := if u = 1 then I.G.rs a.toNat else I.G.rv a.toNat (lowest I.act)
      let x := s.blk I.b
      if sget 0 x.issued b.toNat < n.toNat then
        I.trap s (I.trapOf 6 (engineDetail 3 0 (n.setWidth 32 |>.setWidth 64) b.toNat) [])
      else if n.toNat ≤ sget 0 x.done b.toNat then s.acquire I.b 4
      else s.parkOn I.b I.g .timeline (.timeline b.toNat n.toNat)

/-! ### Completion (R135, R138, R139) -/

/-- The result queue of a command queue. -/
def resultQueue (q : Nat) : Nat := q + 1

/-- A completion word (R138). Log 48 (DEDUCED), 96 (DESIGN CHOICE). -/
def completionWord (c : Command) : Word :=
  BitVec.ofNat 64 (bits (c.words.getD 0 0) 32 16 * 2 ^ 48 + (if c.queue = 4 then 0xFF * 2 ^ 40 else 0)
    + c.stat * 2 ^ 36 + c.tl * 2 ^ 32 + c.detail % 2 ^ 32)

/-- A command that delivers a completion word: CW = 1, or a GEMV whose STAT is not 0 (R138). -/
def Command.reports (c : Command) : Bool :=
  if c.queue = 4 then c.stat != 0 else !c.refetch && (c.words.getD 0 0).getLsbD 31

/-- The deferred fault of a command (R139, R362). A refetch has no header of its own, and what its fault reports as one
is open. Log 44 (DESIGN CHOICE). -/
def State.commandFault (s : State) (c : Command) (cause : Nat) : State :=
  let r := if c.refetch then s.takeFree else (c.words.getD 0 0, s)
  let h := r.1
  let acc : Access := {
    uid := c.seq, seq := c.seq, blk := c.blk, grp := c.grp, pc := c.pc, op := opOf c.pusher, m := mOf c.pusher
    dreg := dataReg c.pusher, kind := 6
    logsz := 0, hint := 0, act := 0, wait := 0, fault := 0, conf := 0, va := perLane fun L => if L = 0 then h else 0
    d0 := perLane fun _ => 0, d1 := perLane fun _ => 0, lcause := List.replicate 32 0, reqs := [], flags := 0
    handler := false, after := 0, poc := false, begun := 0, last := false, body := false }
  r.2.faultsReady c.blk c.grp [⟨c.seq, 6, engineDetail cause c.queue h (bits h 56 4), some acc⟩]

/-- DONE of a timeline advanced over the commands that have completed (R135). -/
def State.advanceDone (s : State) (b t : Nat) : Nat → State
  | 0 => s
  | fuel + 1 =>
    let n := sget 0 (s.blk b).done t + 1
    match (oitems s.cmds).find? fun c => c.2.blk == b && c.2.tl == t && c.2.num == n && c.2.state == .done with
    | none => s
    | some c =>
      ({ s.updBlk b (fun x => { x with done := sset 0 x.done t n }) with cmds := odel s.cmds c.1 }).advanceDone b t fuel

/-- A command has completed: DONE moves on, and a block that waits for its commands may end (R135, R147). -/
def State.closeCommand (s : State) (cmd : Nat) : State :=
  match s.cmd cmd with
  | none => s
  | some c =>
    if c.refetch then ({ s with cmds := odel s.cmds cmd }).settleBlock c.blk
    else
      ((s.updCmd cmd fun c => { c with state := .done }).advanceDone c.blk c.tl (s.cmds.length + 1)).settleBlock c.blk

/-- What stands for a status while the rejection of a saved block's command waits for the restore (R146). -/
def rejectedStat : Nat := 15

/-- An invalid command: no effect, its timeline advances, and its group takes engine cause 1 (R78). -/
def State.rejectCommand (s : State) (cmd : Nat) : State :=
  match s.cmd cmd with
  | none => s
  | some c =>
    if (s.blk c.blk).life = .saved then s.updCmd cmd fun c => { c with state := .held, stat := rejectedStat }
    else (s.commandFault c 1).closeCommand cmd

/-- STAT and DETAIL of a copy as it ends (R138, R142). -/
def Command.report (c : Command) : Command :=
  match c.failAt with
  | some f => { c with stat := f.2, detail := 256 * f.1 }
  | none => c

/-- DETAIL of a command that ends with a failure for which R138 states none (STAT 6 and 8, and every failure of a mask
job): an open value. Log 44 (DESIGN CHOICE). -/
def State.openDetail (s : State) (c : Command) : State × Command :=
  if c.stat = 6 || c.stat = 8 || (c.queue = 6 && c.stat != 0) then
    (s.takeFree.2, { c with detail := s.takeFree.1.toNat % 2 ^ 32 })
  else (s, c)

/-- Another command of the group delivers a record to the same result queue (R138). -/
def State.queueBusy (s : State) (cmd : Nat) (c : Command) : Bool :=
  (oitems s.cmds).any fun o => o.1 != cmd && o.2.blk == c.blk && o.2.grp == c.grp && o.2.queue == c.queue
    && o.2.sending && !o.2.out.isEmpty

/-- A command completes: its result words enter their queue as there is room for them; then it is done, and a failure
without a completion word becomes a fault. The completion of a saved block's command waits for the restore (R146). The
words for a group that has ended, a Sieve record among them, are dropped. Log 48 (DEDUCED). -/
def State.completeCommand (s0 : State) (cmd : Nat) : State :=
  match s0.cmd cmd with
  | none => s0
  | some c0 =>
    if c0.state == .done then s0
    else if (s0.blk c0.blk).life == .saved then s0.updCmd cmd fun c => { c with state := .held }
    else
      let p := if c0.sending then (s0, c0) else s0.openDetail c0.report
      let s := p.1
      let c1 := p.2
      let c := if c1.sending then c1
        else { c1 with sending := true, out := c1.out ++ (if c1.reports then [completionWord c1] else []) }
      let y := s.grp c.blk c.grp
      let q := resultQueue c.queue
      if y.ended || c.out.isEmpty then
        let s1 := s.updCmd cmd fun _ => { c with out := [] }
        let bad := c.queue != 4 && !c.reports && [1, 2, 3, 4, 6, 8].contains c.stat
        (if bad then s1.commandFault c 2 else s1).closeCommand cmd
      else if s.queueBusy cmd c then s.post (.commandCompletion cmd)
      else
        let k := 32 - (y.queue q).length
        ((s.updGrp c.blk c.grp fun y => y.setQueue q (y.queue q ++ c.out.take k)).updCmd cmd
          fun _ => { c with out := c.out.drop k }).post (.commandCompletion cmd)

/-- COMMAND_COMPLETION (R135). -/
def execCommandCompletion (cmd : Nat) (s : State) : Host.Outcome State Fault Refusal := .next (s.completeCommand cmd)

end Sys2Proof.Machine
end

