-- ==== Sys2Proof/Machine/Copies.lean ====
section
/-!
DEFINITION. The copy engine (R140 to R143): COPY_LINEAR, COPY_RAGGED and COPY_CHUNK_FAULT, with the accesses that an
engine makes to memory for a block.
-/

namespace Sys2Proof.Machine

/-! ### Accesses of an engine -/

/-- The tag checks of the sectors that n bytes of a line touch (R344): the state, 2 for a conflict (R347), and the bytes
that a rejected write drops. -/
def State.engineTags (s : State) (P : Party) (line off n : Nat) (write : Bool) : State × Nat × Line :=
  (List.range 4).foldl
    (fun r k =>
      let lo := max off (32 * k)
      let hi := min (off + n) (32 * k + 32)
      if hi ≤ lo then r
      else
        let t := r.1.tagCheck P line lo fun o => if write then .write (sectorBytes (hi - lo) o) else .read
        (t.1, if t.2 > 1 then 2 else r.2.1, if t.2 = 1 then r.2.2 ||| bytesMask lo (hi - lo) else r.2.2)) (s, 0, 0)

/-- The line that a host must give back before an engine reads it (R278): its die and physical address. -/
def State.hostTakes (s : State) (P : Party) (va : Word) : Option (Nat × Nat) :=
  if s.die0.hostLines.isEmpty && s.die1.hostLines.isEmpty then none
  else
    let r := s.translate P.space va 1 false
    if r.2.code = 0 && r.1.hostWrites (ownerOf va) r.2.pa then some (ownerOf va, r.2.pa) else none

/-- Such lines of a range. -/
def State.rangeTaken (s : State) (P : Party) (va n : Nat) : List (Nat × Nat) :=
  if s.die0.hostLines.isEmpty && s.die1.hostLines.isEmpty then []
  else (List.range (lineFuel n)).filterMap fun i =>
    let at_ := max va ((va / 128 + i) * 128)
    if at_ < va + n then s.hostTakes P (BitVec.ofNat 64 at_) else none

/-- The status of a home's fault (R138). -/
def homeStat (code : Nat) : Nat := if code = 4 then 1 else 2

/-- What an engine reads: a status (0, 1, 2 or 3), the bytes, and a mask of the poisoned ones. -/
structure EngineRead where
  stat : Nat
  val : Nat
  poison : Nat
  deriving DecidableEq, Repr

/-- What a memory access of a copy with a cache hint leaves in the owning die's L2 (R90, R140): the sectors that a read
needs filled where it misses, or the line that a write goes to, in the class of the hint. An access with none leaves
nothing there. Log 99 (DEDUCED). -/
def State.hintFill (s : State) (d key : Nat) (x : Xlate) (need : Line) (read : Bool) : Option Nat → State
  | none => s
  | some h =>
    if inHost x.pa then s
    else if read then (if (s.l2Hit d key need).isSome then s else s.fillL2 d key x need (l2Class h))
    else if ((s.die d).l2At key).isSome then s
    else s.markL2 d key x (l2Class h)

/-- n bytes inside one line read by an engine at the point of coherence, by a copy with its hint. -/
def State.engineRead (s : State) (P : Party) (va : Word) (n : Nat) (hint : Option Nat := none) : State × EngineRead :=
  let d := ownerOf va
  let key := lineKey P.space (lineNo va)
  let mask := bytesMask (lineOff va) n
  let r := s.translate P.space va 1 (!(s.die d).l2Has key mask)
  if r.2.code != 0 then (r.1, ⟨homeStat r.2.code, 0, 0⟩)
  else
    let t := r.1.engineTags P (lineNo va) (lineOff va) n false
    if t.2.1 != 0 then (t.1, ⟨2, 0, 0⟩)
    else
      let u := t.1.hintFill d key r.2 mask true hint
      let v := u.viewLine d key (r.2.pa / 128 * 128) mask
      let f := u.takeFlaw P va
      let p := if f.2 then 2 ^ (8 * n) - 1 else lineGet v.2 (lineOff va) n
      (f.1, ⟨if p = 0 then 0 else 3, lineGet v.1 (lineOff va) n, p⟩)

/-- The translation of an engine's write: its status. -/
def State.engineProbe (s : State) (P : Party) (va : Word) : State × Nat × Xlate :=
  let r := s.translate P.space va 2
  (r.1, (if r.2.code = 0 then 0 else homeStat r.2.code), r.2)

/-- n bytes inside one line written by an engine at the home, by a copy with its hint, with the poison of its sectors (R89);
bytes of a rejected write are dropped. Log 45 (DEDUCED). -/
def State.engineWrite (s : State) (P : Party) (va : Word) (x : Xlate) (n val poison : Nat) (drop : Line)
    (hint : Option Nat := none) : State :=
  let off := lineOff va
  let pa := x.pa / 128 * 128
  let key := lineKey P.space (lineNo va)
  let mask := bytesMask off n &&& ~~~drop
  let s1 := (s.hintFill (ownerOf va) key x mask false hint).mergeLine P (lineNo va) pa x.bitmap (x.entry.getLsbD 60) mask
    (linePut val off n)
  let f := s1.takeFlaw P va
  let bad := sectorsOf ((if f.2 then mask else linePut poison off n) &&& mask)
  if inHost pa || bad == 0 then f.1 else f.1.poisonPoc (ownerOf va) key pa bad

/-! ### Pieces -/

/-- A run of bytes of a command that lies in one row and in one line of source and destination. -/
structure Piece where
  src : Nat
  dst : Nat
  len : Nat
  deriving DecidableEq, Repr

/-- The pieces of a linear copy from byte o of the command on, n bytes (R141). -/
def piecesOf (src dst rb ss ds : Nat) : (fuel o n : Nat) → List Piece
  | 0, _, _ => []
  | fuel + 1, o, n =>
    if n = 0 || rb = 0 then []
    else
      let a := src + o / rb * ss + o % rb
      let b := dst + o / rb * ds + o % rb
      let k := min (min n (rb - o % rb)) (min (128 - a % 128) (128 - b % 128))
      ⟨a, b, k⟩ :: piecesOf src dst rb ss ds fuel (o + k) (n - k)

/-- The arguments of a linear copy (R141). -/
structure Linear where
  dir : Nat
  src : Nat
  dst : Nat
  rows : Nat
  rb : Nat
  ss : Nat
  ds : Nat
  deriving DecidableEq, Repr

def Command.word (c : Command) (k : Nat) : Word := c.words.getD k 0

/-- The cache hint of a copy command (R140). -/
def Command.hint (c : Command) : Nat := bits (c.word 0) 26 2

def Command.linear (c : Command) : Linear :=
  ⟨bits (c.word 0) 28 3, (c.word 1).toNat, (c.word 2).toNat, bits (c.word 3) 32 32, bits (c.word 3) 0 32,
    bits (c.word 4) 32 32, bits (c.word 4) 0 32⟩

def Linear.total (a : Linear) : Nat := a.rows * a.rb

/-- The source lies in memory. -/
def Linear.fromMem (a : Linear) : Bool := a.dir == 0 || a.dir == 1

/-- The destination lies in memory. -/
def Linear.toMem (a : Linear) : Bool := a.dir == 0 || a.dir == 2

/-- The pieces of chunk k. -/
def Linear.chunk (a : Linear) (k : Nat) : List Piece :=
  piecesOf a.src a.dst a.rb a.ss a.ds 64 (256 * k) (min 256 (a.total - 256 * k))

/-- The span of n rows from an address (R141): its lowest address and the one after its highest. -/
def spanOf (at_ rows rb stride : Nat) : Nat × Nat := (at_, at_ + (rows - 1) * stride + rb)

/-- Every line of a row of the Bed lies in a live plot. -/
def Block.rowsLive (x : Block) (at_ rb stride : Nat) (rows : Nat) : Bool :=
  decide ((spanOf at_ rows rb stride).2 ≤ 256 * x.bedLines) &&
    (List.range rows).all fun i =>
      (List.range ((at_ + i * stride + rb - 1) / 256 + 1 - (at_ + i * stride) / 256)).all fun k =>
        (x.plotAt ((at_ + i * stride) / 256 + k)).isSome

/-- A linear copy is valid (R140, R141). -/
def State.linearOk (s : State) (c : Command) : Bool :=
  let a := c.linear
  let x := s.blk c.blk
  let sp := spanOf a.src a.rows a.rb a.ss
  let dp := spanOf a.dst a.rows a.rb a.ds
  bits (c.word 0) 60 4 == 1 && bits (c.word 0) 48 8 == 4 && decide (a.dir ≤ 3) && bits (c.word 0) 0 26 == 0
    && decide (1 ≤ a.rows) && decide (a.rows ≤ 2 ^ 20) && decide (4 ≤ a.rb) && decide (a.rb ≤ 2 ^ 24)
    && a.src % 4 == 0 && a.dst % 4 == 0 && a.rb % 4 == 0 && a.ss % 4 == 0 && a.ds % 4 == 0
    && (if a.fromMem then decide (sp.2 ≤ 2 ^ 53) else x.rowsLive a.src a.rb a.ss a.rows)
    && (if a.toMem then decide (dp.2 ≤ 2 ^ 53) else x.rowsLive a.dst a.rb a.ds a.rows)
    && !(a.fromMem == a.toMem && decide (sp.1 < dp.2) && decide (dp.1 < sp.2))

/-- The Bed lines of some rows, each once. -/
def rowLines (at_ rb stride rows : Nat) : List Nat :=
  ((List.range rows).flatMap fun i =>
    (List.range ((at_ + i * stride + rb - 1) / 256 + 1 - (at_ + i * stride) / 256)).map
      fun k => (at_ + i * stride) / 256 + k).eraseDups

/-- Bed lines lose presence as a command is accepted (R117). -/
def State.unland (s : State) (cmd b : Nat) (lines : List Landing) : State :=
  (s.updBlk b fun x => lines.foldl (fun x l => x.setBedLine l.line { x.bedLine l.line with absent := true }) x).updCmd cmd
    fun c => { c with state := .taken, landing := lines }

/-- A line that a copy has all of its words still to bring. -/
def Landing.start (line src dst left : Nat) : Landing := ⟨line, src, dst, 0, none, 0, 0, left, false⟩

/-- The source of the first byte that a linear copy brings to a Bed line, and that byte's Bed address. -/
def Linear.lineSource (a : Linear) (line : Nat) : Nat × Nat :=
  match (List.range a.rows).find? fun i =>
      decide (a.dst + i * a.ds < 256 * line + 256) && decide (256 * line < a.dst + i * a.ds + a.rb) with
  | some i =>
    let lo := max (256 * line) (a.dst + i * a.ds)
    (a.src + i * a.ss + (lo - (a.dst + i * a.ds)), lo)
  | none => (a.src, 256 * line)

/-- How many words of a linear copy go to a Bed line. -/
def Linear.lineWords (a : Linear) (line : Nat) : Nat :=
  (List.range a.rows).foldl
    (fun n i => n + (min (256 * line + 256) (a.dst + i * a.ds + a.rb) - max (256 * line) (a.dst + i * a.ds)) / 4) 0

/-- The lines of a linear copy into the Bed. -/
def Linear.landings (a : Linear) : List Landing :=
  (rowLines a.dst a.rb a.ds a.rows).map fun l =>
    Landing.start l (a.lineSource l).1 (a.lineSource l).2 (a.lineWords l)

/-! ### Moving a chunk (R142) -/

/-- The worse of two statuses of a chunk, in the order 1, 2, 4, 3. -/
def worseStat (a b : Nat) : Nat :=
  let rank (n : Nat) : Nat := if n = 0 then 9 else if n = 3 then 5 else n
  if rank b < rank a then b else a

/-- Bytes of a piece as they were read. -/
structure Moved where
  piece : Piece
  val : Nat
  poison : Nat
  deriving DecidableEq, Repr

/-- The pieces of a chunk read from memory. -/
def State.readPieces (s : State) (P : Party) (l : List Piece) (hint : Option Nat := none) : State × Nat × List Moved :=
  l.foldl
    (fun r p =>
      let q := r.1.engineRead P (BitVec.ofNat 64 p.src) p.len hint
      (q.1, worseStat r.2.1 q.2.stat, r.2.2 ++ [⟨p, q.2.val, q.2.poison⟩])) (s, 0, [])

/-- What the Bed lines of a chunk's source allow. -/
inductive BedSource where
  | wait (refetch : List Nat)
  | stale
  | ready
  deriving DecidableEq, Repr

/-- The source lines of a chunk in the Bed (R142): an expired line that cannot be refetched, a line to wait for, or all
there. -/
def State.bedSource (s : State) (b : Nat) (lines : List Nat) : BedSource :=
  match s.bedCheck b lines with
  | .stale _ => .stale
  | .claimed _ => .wait []
  | .absent _ r => .wait r
  | .ok => .ready

/-- The translations and tag checks of a chunk's destination in memory. -/
def State.probePieces (s : State) (P : Party) (l : List Moved) : State × Nat × List (Moved × Xlate × Line) :=
  l.foldl
    (fun r m =>
      let va := BitVec.ofNat 64 m.piece.dst
      let q := r.1.engineProbe P va
      if q.2.1 != 0 then (q.1, worseStat r.2.1 q.2.1, r.2.2)
      else
        let t := q.1.engineTags P (lineNo va) (lineOff va) m.piece.len true
        (t.1, worseStat r.2.1 t.2.1, r.2.2 ++ [(m, q.2.2, t.2.2)])) (s, 0, [])

/-- A host caches a line that a chunk is about to write (R278): it is back-invalidated first. -/
def State.hostHolds (s : State) (l : List (Moved × Xlate × Line)) : Option (Nat × Nat) :=
  l.findSome? fun m =>
    let d := ownerOf (BitVec.ofNat 64 m.1.piece.dst)
    if s.hostCaches d m.2.1.pa then some (d, m.2.1.pa) else none

/-- Moved bytes of a line (R115, R142): its words, and their source, if those so far come from one run of it. -/
def Landing.note (l : Landing) (m : Moved) (fromMem : Bool) : Landing :=
  let p := m.piece
  if p.dst / 256 != l.line then l
  else
    let k := p.dst % 256
    let base := BitVec.ofNat 64 (p.src + 2 ^ 64 - k)
    { l with
      words := l.words ||| BitVec.ofNat 64 ((2 ^ (p.len / 4) - 1) * 2 ^ (k / 4))
      data := (l.data &&& ~~~BitVec.ofNat 2048 ((2 ^ (8 * p.len) - 1) * 2 ^ (8 * k))) ||| BitVec.ofNat 2048 (m.val * 2 ^ (8 * k))
      base := if fromMem && (l.words == 0 || l.base == some base) then some base else none
      left := l.left - p.len / 4 }

/-- A piece of a failed chunk counts as moved, and its line as failed (R117). -/
def Landing.miss (l : Landing) (p : Piece) : Landing :=
  if p.dst / 256 != l.line then l else { l with failed := true, left := l.left - p.len / 4 }

/-- The lines of a copy that have all their words land (R142). -/
def State.landReady (s : State) (cmd : Nat) : State :=
  match s.cmd cmd with
  | none => s
  | some c =>
    (c.landing.filter (·.left == 0)).foldl (fun s l => s.postOnce (.bedLineLands c.blk l.line cmd)) s

/-- The bytes of a chunk kept for the Bed lines they go to. -/
def State.putBed (s : State) (cmd : Nat) (l : List Moved) (fromMem : Bool) : State :=
  (s.updCmd cmd fun c => { c with landing := c.landing.map fun d => l.foldl (fun d m => d.note m fromMem) d }).landReady cmd

/-- A piece cut where its source enters another line. -/
def Piece.cut (p : Piece) : List Piece :=
  let k := min p.len (128 - p.src % 128)
  if k = p.len then [p] else [⟨p.src, p.dst, k⟩, ⟨p.src + k, p.dst + k, p.len - k⟩]

/-- The pieces that chunk k of a command moves: into the Bed, those of the lines that have still to land (R146). -/
def Command.pieces (c : Command) (k : Nat) : List Piece :=
  if c.linear.toMem then c.linear.chunk k
  else
    (c.linear.chunk k).flatMap fun p =>
      match c.landing.find? (·.line == p.dst / 256) with
      | some l => ({ p with src := (BitVec.ofNat 64 p.src + l.shift).toNat } : Piece).cut
      | none => []

/-- A fault of this command's chunks that has still to be noted. -/
def chunkFaultOut (s : State) (cmd : Nat) : Bool :=
  s.agenda.any fun i => match i with | .copyChunkFault c _ _ => c == cmd | _ => false

/-- The next chunk counts as moved. -/
def State.nextChunk (s : State) (cmd : Nat) : State := s.updCmd cmd fun c => { c with next := c.next + 1 }

/-- The worst status of the translations of some destinations. -/
def State.probeStat (s : State) (P : Party) (l : List Piece) : State × Nat :=
  l.foldl
    (fun r p =>
      let q := r.1.engineProbe P (BitVec.ofNat 64 p.dst)
      (q.1, worseStat r.2 q.2.1)) (s, 0)

/-- One chunk of a linear copy moved. A destination in memory is translated though the source has failed, since its fault
may come first (R142). -/
def State.moveChunk (s : State) (cmd : Nat) (c : Command) : State :=
  let a := c.linear
  let P := s.partyOf c.blk
  let again : Instr := .copyLinear cmd
  let fail (t : State) (stat : Nat) : State :=
    ((t.nextChunk cmd).post (.copyChunkFault cmd c.next stat)).post again
  let pieces := c.pieces c.next
  let source : Option (State × Nat × List Moved) :=
    if a.fromMem then some (s.readPieces P pieces (some c.hint))
    else
      match s.bedSource c.blk ((pieces.map fun p => p.src / 256).eraseDups) with
      | .wait _ => none
      | .stale => some (s, 4, [])
      | .ready => some (s, 0, pieces.map fun p => ⟨p, (s.blk c.blk).bedRead p.src p.len, 0⟩)
  match source with
  | none =>
    let lines := (pieces.map fun p => p.src / 256).eraseDups
    match s.bedSource c.blk lines with
    | .wait r => (r.foldl (fun s l => s.refetch c.blk c.grp c.pc c.pusher l) s).post again
    | _ => s.post again
  | some (t, stat, l) =>
    if !a.toMem then (if stat != 0 then fail t stat else ((t.putBed cmd l a.fromMem).nextChunk cmd).post again)
    else if stat != 0 && stat != 3 then fail (t.probeStat P pieces).1 (worseStat stat (t.probeStat P pieces).2)
    else
      let q := t.probePieces P l
      if q.2.1 != 0 then fail q.1 q.2.1
      else
        match q.1.hostHolds q.2.2 with
        | some h => (s.backInvalidate h.1 h.2).post again
        | none =>
          let u := q.2.2.foldl (fun u m =>
            u.engineWrite P (BitVec.ofNat 64 m.1.piece.dst) m.2.1 m.1.piece.len m.1.val m.1.poison m.2.2 (some c.hint)) q.1
          if stat = 3 then fail u 3 else (u.nextChunk cmd).post again

/-- The copy engine works on a linear copy: it takes it, then moves one chunk at each step, once a host has given back what
it holds of the source. A copy into the Bed completes as its last line lands. -/
def State.copyLinear (s : State) (cmd : Nat) : State :=
  match s.cmd cmd with
  | none => s
  | some c =>
    let a := c.linear
    if c.state == .pushed then
      if !(s.blk c.blk).committed c.after then s.post (.copyLinear cmd)
      else if !s.linearOk c then s.rejectCommand cmd
      else
        ((if a.toMem then s.updCmd cmd fun c => { c with state := .taken }
          else s.unland cmd c.blk a.landings).updCmd cmd
            fun c => { c with detail := a.total % 2 ^ 32 }).post (.copyLinear cmd)
    else if c.state != .taken then s
    else if 256 * c.next < a.total then
      match if a.fromMem then (c.pieces c.next).filterMap fun p => s.hostTakes (s.partyOf c.blk) (BitVec.ofNat 64 p.src) else [] with
      | [] => s.moveChunk cmd c
      | l => (s.askHost l).post (.copyLinear cmd)
    else if !a.toMem then s
    else if chunkFaultOut s cmd then s.post (.copyLinear cmd)
    else s.post (.commandCompletion cmd)

/-- COPY_LINEAR (R141). -/
def execCopyLinear (cmd : Nat) (s : State) : Host.Outcome State Fault Refusal := .next (s.copyLinear cmd)

/-! ### COPY_CHUNK_FAULT (R142) -/

/-- The Bed lines of a chunk of a copy. -/
def Command.chunkLines (c : Command) (k : Nat) : List Nat :=
  if bits (c.word 0) 60 4 = 2 then
    [((c.word 2).toNat + 256 * k) / 256, ((c.word 2).toNat + 256 * k + 255) / 256]
  else (c.linear.chunk k).map fun p => p.dst / 256

/-- A line of a copy after the failure of a chunk. -/
def Command.missChunk (c : Command) (chunk : Nat) (l : Landing) : Landing :=
  if bits (c.word 0) 60 4 = 2 then (if (c.chunkLines chunk).contains l.line then { l with failed := true } else l)
  else (c.pieces chunk).foldl Landing.miss l

/-- A chunk of a copy has failed: the lowest failing chunk is kept, and the first of the statuses for one chunk (R142). -/
def Command.chunkFails (c : Command) (chunk stat : Nat) : Command :=
  { c with
    failAt := match c.failAt with
      | none => some (chunk, stat)
      | some f => if chunk < f.1 then some (chunk, stat) else if chunk = f.1 then some (chunk, worseStat f.2 stat) else some f }

/-- COPY_CHUNK_FAULT (R142): the Bed lines of the chunk will land expired. -/
def execCopyChunkFault (cmd chunk stat : Nat) (s : State) : Host.Outcome State Fault Refusal :=
  .next ((s.updCmd cmd fun c => { c.chunkFails chunk stat with landing := c.landing.map (c.missChunk chunk) }).landReady cmd)

/-! ### Ragged copies (R143) -/

/-- The arguments of a ragged copy. -/
structure Ragged where
  src : Nat
  dst : Nat
  rlt : Nat
  ss : Nat
  nrows : Nat
  e : Nat
  cap : Nat
  smask : Nat
  deriving DecidableEq, Repr

def Command.ragged (c : Command) : Ragged :=
  ⟨(c.word 1).toNat, (c.word 2).toNat, (c.word 3).toNat, bits (c.word 4) 32 32, bits (c.word 4) 16 16,
    if (c.word 4).getLsbD 0 then 8 else 4, bits (c.word 5) 32 32, bits (c.word 5) 0 32⟩

/-- The Bed lines of a ragged copy in a region of n lines: those of its vectors and of its mask words. -/
def Ragged.lines (a : Ragged) (n : Nat) : List Nat :=
  let has (at_ len l : Nat) : Bool := decide (at_ < 256 * l + 256) && decide (256 * l < at_ + len)
  (List.range n).filter fun l => has a.dst (32 * a.cap * a.e) l || has a.smask (4 * a.cap) l

/-- A ragged copy is valid (R140, R143). -/
def State.raggedOk (s : State) (c : Command) : Bool :=
  let a := c.ragged
  let x := s.blk c.blk
  bits (c.word 0) 60 4 == 2 && bits (c.word 0) 48 8 == 5 && bits (c.word 0) 28 3 == 1 && bits (c.word 0) 0 26 == 0
    && a.dst % (32 * a.e) == 0 && a.rlt % 4 == 0 && bits (c.word 4) 1 15 == 0 && a.ss % a.e == 0 && a.src % a.e == 0
    && decide (1 ≤ a.nrows) && decide (1 ≤ a.cap) && decide (a.cap ≤ 8192) && a.smask % 4 == 0
    && x.rowsLive a.dst (32 * a.cap * a.e) 0 1 && x.rowsLive a.smask (4 * a.cap) 0 1
    && decide (a.src < 2 ^ 53) && decide (a.rlt + 4 * a.nrows ≤ 2 ^ 53)

/-- What a ragged walk has come to: the state, the elements so far, the first clipped row, the chunks that failed with
their statuses, what has been read, last first, the elements that start a row, the lines that a host must give back, and
whether an element has no address (R52). -/
structure Walked where
  s : State
  j : Nat
  clipped : Option Nat
  fail : List (Nat × Nat)
  moved : List Moved
  starts : List Nat
  asks : List (Nat × Nat)
  bad : Bool
  deriving DecidableEq, Repr

/-- A failure of a chunk noted. -/
def Walked.failed (w : Walked) (chunk stat : Nat) : Walked :=
  if w.fail.contains (chunk, stat) then w else { w with fail := w.fail ++ [(chunk, stat)] }

/-- An element of a ragged walk read, for the Bed byte where it goes. -/
def Walked.read (w : Walked) (P : Party) (src dst e chunk : Nat) (hint : Option Nat) : Walked :=
  let va : Word := BitVec.ofNat 64 src
  if 2 ^ 53 < src + e || src % e != 0 then { w with bad := true }
  else
    let r := w.s.engineRead P va e hint
    let w1 : Walked := { w with s := r.1, asks := w.asks ++ (w.s.hostTakes P va).toList }
    if r.2.stat = 0 then { w1 with moved := ⟨⟨src, dst, e⟩, r.2.val, 0⟩ :: w1.moved } else w1.failed chunk r.2.stat

/-- What a restored copy adds to the source of what goes to a line, none for a line that has landed; 0 for a copy that has
not been taken (R146). -/
def Command.shiftAt (c : Command) (line : Nat) : Option Word :=
  if c.state == .pushed then some 0 else (c.landing.find? (·.line == line)).map (·.shift)

/-- Elements k, k+1, … of row i of a ragged walk, n of them. Log 46 (DEDUCED). -/
def walkRow (c : Command) (P : Party) (i : Nat) : (n k : Nat) → Walked → Walked
  | 0, _, w => w
  | n + 1, k, w =>
    let a := c.ragged
    let dst := a.dst + a.e * w.j
    let w1 :=
      if w.j < 32 * a.cap then
        let w2 := match c.shiftAt (dst / 256) with
          | some d => w.read P (BitVec.ofNat 64 (a.src + i * a.ss + a.e * k) + d).toNat dst a.e (a.e * w.j / 256)
            (some c.hint)
          | none => w
        { w2 with j := w.j + 1, starts := if k = 0 then w.j :: w2.starts else w2.starts }
      else { w with j := w.j + 1, clipped := w.clipped.orElse fun _ => some i }
    walkRow c P i n (k + 1) w1

/-- A length that cannot be read fails every chunk from the walk's place on: where its elements belong is unknown. -/
def Walked.failRest (w : Walked) (a : Ragged) (stat : Nat) : Walked :=
  let first := a.e * w.j / 256
  (List.range ((32 * a.cap * a.e + 255) / 256 - first)).foldl (fun w k => w.failed (first + k) stat) (w.failed first stat)

/-- Rows i, i+1, … of a ragged walk, n of them. Log 46 (DEDUCED). -/
def walkRows (c : Command) (P : Party) : (n i : Nat) → Walked → Walked
  | 0, _, w => w
  | n + 1, i, w =>
    let a := c.ragged
    let va := BitVec.ofNat 64 (a.rlt + 4 * i)
    let r := w.s.engineRead P va 4 (some c.hint)
    let w1 : Walked := { w with s := r.1, asks := w.asks ++ (w.s.hostTakes P va).toList }
    let w2 := if r.2.stat = 0 then w1 else w1.failRest a r.2.stat
    let len := if r.2.stat = 0 then r.2.val else 0
    let m := min len (a.ss / a.e)
    let w3 : Walked := if a.ss / a.e < len then { w2 with clipped := w2.clipped.orElse fun _ => some i } else w2
    walkRows c P n (i + 1) (walkRow c P i m 0 w3)

/-- The remaining elements, which are zero. -/
def Walked.zeros (w : Walked) (a : Ragged) : List Moved :=
  (List.range (32 * a.cap - w.j)).map fun k => ⟨⟨0, a.dst + a.e * (w.j + k), a.e⟩, 0, 0⟩

/-- The mask words: a bit for each element that starts a row. -/
def Walked.masks (w : Walked) (a : Ragged) : List Moved :=
  (List.range a.cap).map fun v =>
    ⟨⟨0, a.smask + 4 * v, 4⟩, ((w.starts.filter fun j => j / 32 == v).map fun j => 2 ^ (j % 32)).foldl (· + ·) 0, 0⟩

/-- Moved words, in the order of their addresses, given to the lines they go to, in the same order. -/
def noteRun (fromMem : Bool) : List Landing → List Moved → List Landing
  | [], _ => []
  | l :: ls, ms =>
    let t := ms.dropWhile fun m => decide (m.piece.dst / 256 < l.line)
    (t.takeWhile fun m => m.piece.dst / 256 == l.line).foldl (fun l m => l.note m fromMem) l
      :: noteRun fromMem ls (t.dropWhile fun m => m.piece.dst / 256 == l.line)

/-- The source and the destination that a pending copy record gives a line of a ragged copy (R146): those of its first
element from memory. -/
def Walked.place (w : Walked) (l : Nat) : Nat × Nat :=
  match (w.moved.filter fun m => m.piece.dst / 256 == l).getLast? with
  | some m => (m.piece.src, m.piece.dst)
  | none => (0, 256 * l)

/-- A ragged copy takes its command and walks its rows, from vectors and masks of zeros, or walks those of the lines that a
save left absent. Its lines land once the failures of its chunks are noted. Log 46 (DEDUCED). -/
def State.walkRagged (s : State) (cmd : Nat) (c : Command) : State :=
  let a := c.ragged
  let w := walkRows c (s.partyOf c.blk) a.nrows 0 ⟨s, 0, none, [], [], [], [], false⟩
  if w.bad then s.rejectCommand cmd
  else if !w.asks.isEmpty then (s.askHost w.asks).post (.copyRagged cmd)
  else
    let lines := if c.state == .pushed
      then (a.lines (s.blk c.blk).bedLines).map fun l => Landing.start l (w.place l).1 (w.place l).2 1
      else c.landing
    let full := noteRun false (noteRun false (noteRun true lines w.moved.reverse) (w.zeros a)) (w.masks a)
    let s1 := (w.s.unland cmd c.blk (full.map fun l => { l with left := 1 })).updCmd cmd fun c => { c with
      next := 1
      stat := if w.clipped.isSome then 7 else 0
      detail := match w.clipped with
        | some i => i
        | none => (min w.j (32 * a.cap) + 31) / 32 }
    (s1.postAll (w.fail.map fun f => .copyChunkFault cmd f.1 f.2)).post (.copyRagged cmd)

/-- The copy engine works on a ragged copy: it takes it and walks it, and its lines land. -/
def State.copyRagged (s : State) (cmd : Nat) : State :=
  match s.cmd cmd with
  | none => s
  | some c =>
    if c.state == .pushed && !(s.blk c.blk).committed c.after then s.post (.copyRagged cmd)
    else if c.state == .pushed && !s.raggedOk c then s.rejectCommand cmd
    else if c.state != .pushed && c.state != .taken then s
    else if c.next = 0 then s.walkRagged cmd c
    else if chunkFaultOut s cmd then s.post (.copyRagged cmd)
    else (s.updCmd cmd fun c => { c with landing := c.landing.map fun l => { l with left := 0 } }).landReady cmd

/-- COPY_RAGGED (R143). -/
def execCopyRagged (cmd : Nat) (s : State) : Host.Outcome State Fault Refusal := .next (s.copyRagged cmd)

end Sys2Proof.Machine
end

