-- ==== Sys2Proof/Machine/MatArith.lean ====
section
/-!
DEFINITION. The arithmetic of block sums and of the matrix engine (R49, R226, R230 to R233, R239), and the terms of the
Sieve (R76).
-/

namespace Sys2Proof.Machine

/-! ### Block sums (R49) -/

/-- The exact sum of finite values whose denominators are powers of two, so that the largest is a common multiple. A sum
of zeros is −0 when every term is −0. -/
def sumFin (l : List FVal) : FVal :=
  let D := l.foldl (fun m x => match x with | .fin _ _ d => max m d | _ => m) 1
  let t : Int := l.foldl (fun a x => match x with | .fin s n d => a + intOf s (n * (D / d)) | _ => a) 0
  if t = 0 then .fin (!l.isEmpty && l.all fun x => match x with | .fin s n _ => s && n == 0 | _ => false) 0 1
  else .fin (decide (t < 0)) t.natAbs D

/-- The sum of some products: NaN and infinite ones decide it (R49). -/
def blockSum (l : List FVal) : FVal × Flags :=
  if l.any FVal.isNan then (.nan false, flagINV)
  else
    let pos := l.any fun x => x.isInf && !x.neg
    let neg := l.any fun x => x.isInf && x.neg
    if pos && neg then (.nan false, flagINV)
    else if pos then (.inf false, 0)
    else if neg then (.inf true, 0)
    else (sumFin l, 0)

/-- The flags that a float accumulation calls: those that R230 lists. Log 100 (DEDUCED). -/
def accFlags : Flags := flagINV ||| flagOVF ||| flagINX

/-- acc := RN56(acc + S) (R49, R230). A NaN cell is quiet. Log 101 (DESIGN CHOICE). -/
def addAcc (acc : Nat) (s : FVal × Flags) : Nat × Flags :=
  let e := exAdd (a56.value acc) s.1
  let r := round a56 .rn e.1
  (r.bits, (s.2 ||| e.2 ||| r.flags) &&& accFlags)

/-- An exact product. -/
def prod (a b : FVal) : FVal := (exMul a b).1

/-! ### Element formats (R226, R227) -/

/-- The element width in bits of a format code 1 to 8. -/
def fmtBits (f : Nat) : Nat := if f = 1 || f = 2 then 16 else if f = 6 || f = 7 || f = 8 then 4 else 8

/-- INT8 or INT4. -/
def fmtInt (f : Nat) : Bool := f == 5 || f == 6

/-- BF16 or FP16. -/
def fmtHalf (f : Nat) : Bool := f == 1 || f == 2

/-- A floating-point format of a code. -/
def fmtOf (f : Nat) : Fmt :=
  match f with
  | 1 => bf16
  | 2 => fp16
  | 3 => e4m3
  | 4 => e5m2
  | _ => fp32

/-- An element with its step (R40). -/
structure Elem where
  val : FVal
  step : FVal
  deriving DecidableEq, Repr

/-- An integer of n bits, two's complement, as an element. -/
def intElem (n v : Nat) : Elem :=
  let i := intBits true n v
  ⟨.fin (decide (i < 0)) i.natAbs 1, .fin false 1 1⟩

/-- The elements of a block of 32 codes and its header or scale (R38, R39). -/
def blockElems (mx : Bool) (bytes : List Byte) (h : Nat) : List Elem :=
  let c := bytes.flatMap fun b => [b.toNat % 16, b.toNat / 16]
  (List.range 32).map fun i => ⟨blockValue mx c h i, blockStep mx c h i⟩

/-- The invalid-format flag of a block. -/
def blockFlags (mx : Bool) (bytes : List Byte) (h : Nat) : Flags :=
  if mx then 0 else nx4Flags (bytes.flatMap fun b => [b.toNat % 16, b.toNat / 16]) h

/-- The footprint of a tile in Bed lines (R226). -/
def footprint (f : Nat) : Nat :=
  if f = 6 then 32 else if f = 7 then 36 else if f = 8 then 34 else if fmtBits f = 8 then 64 else 128

/-- The footprint of a spread tile. -/
def spreadFootprint : Nat := 65

/-- Bytes i to i + n − 1 of an array of bytes. -/
def slice (b : Array Byte) (i n : Nat) : List Byte := (List.range n).map fun k => b.getD (i + k) 0

/-- The elements of a tile, line by line, and the invalid-format flag of its blocks (R226). -/
def tileElems (f : Nat) (b : Array Byte) : Array Elem × Flags :=
  if f = 7 || f = 8 then
    let mx := f == 8
    let hdr (k : Nat) : Nat := if mx then (b.getD (8192 + k) 0).toNat else leBytes2 (slice b (8192 + 2 * k) 2)
    (((List.range 512).flatMap fun k => blockElems mx (slice b (16 * k) 16) (hdr k)).toArray,
      (List.range 512).foldl (fun r k => r ||| blockFlags mx (slice b (16 * k) 16) (hdr k)) 0)
  else if f = 6 then
    (((List.range 8192).flatMap fun k =>
      let v := (b.getD k 0).toNat
      [intElem 4 (v % 16), intElem 4 (v / 16)]).toArray, 0)
  else if f = 5 then (((List.range 16384).map fun k => intElem 8 (b.getD k 0).toNat).toArray, 0)
  else if fmtHalf f then
    (((List.range 16384).map fun k =>
      let v := leBytes2 (slice b (2 * k) 2)
      (⟨(fmtOf f).value v, fmtStep (fmtOf f) v⟩ : Elem)).toArray, 0)
  else
    (((List.range 16384).map fun k =>
      let v := (b.getD k 0).toNat
      (⟨(fmtOf f).value v, fmtStep (fmtOf f) v⟩ : Elem)).toArray, 0)
where
  /-- Bytes as a little-endian number. -/
  leBytes2 (l : List Byte) : Nat := l.foldr (fun b a => b.toNat + 256 * a) 0

/-- The elements of a spread tile (R226): e·2^(S − 127), NaN for a line scale of 255. -/
def spreadElems (b : Array Byte) : Array FVal :=
  ((List.range 16384).map fun k =>
    let S := (b.getD (16384 + k / 128) 0).toNat
    if S = 255 then FVal.nan false
    else
      let q := scaled 1 ((S : Int) - 127)
      (exMul (e5m2.value (b.getD k 0).toNat) (.fin false q.1 q.2)).1).toArray

/-- An element of an array of 128 lines of 128. -/
def Elem.zero : Elem := ⟨fzero, fzero⟩

/-! ### Products (R230, R231) -/

/-- One cell of a float product: 128 elements of each operand, summed by K-blocks or, with a 16-bit operand, one by
one. -/
def floatCell (single : Bool) (xs ys : List FVal) (acc : Nat) : Nat × Flags :=
  let ps := (xs.zip ys).map fun p => prod p.1 p.2
  let terms := if single then ps.map fun p => blockSum [p]
    else (List.range 4).map fun b => blockSum ((ps.drop (32 * b)).take 32)
  terms.foldl (fun r t => let q := addAcc r.1 t; (q.1, r.2 ||| q.2)) (acc, 0)

/-- An element as an integer. -/
def elemInt (x : FVal) : Int :=
  match x with
  | .fin s n d => intOf s (n / d)
  | _ => 0

/-- One cell of an integer product, clamped after each product (R231). -/
def intCell (xs ys : List FVal) (acc : Int) : Int × Flags :=
  (xs.zip ys).foldl
    (fun r p =>
      let v := r.1 + elemInt p.1 * elemInt p.2
      if v < -(2 ^ 47 : Int) then (-(2 ^ 47 : Int), r.2 ||| flagOVF)
      else if (2 ^ 47 : Int) - 1 < v then ((2 ^ 47 : Int) - 1, r.2 ||| flagOVF)
      else (v, r.2)) (acc, 0)

/-! ### The spread array (R232) -/

/-- P3: three significant bits, with the exponent range and subnormals of FP32. -/
def p3 (v : FVal) : FVal :=
  match v with
  | .fin _ n d =>
    if n = 0 then fzero
    else
      let u := max (ilog2 n d - 2) (-149)
      let q := unitsOf n d u
      let t := if goesUp .rn false q.1 q.2.1 q.2.2 then q.1 + 1 else q.1
      let r := scaled t u
      if r.2 * 2 ^ 128 ≤ r.1 then finf else .fin false r.1 r.2
  | .inf _ => finf
  | .nan _ => .nan false

/-- An operand of the spread array that comes from a spread tile or plane: NaN with the invalid flag where it is
negative or NaN. -/
def spreadOperand (v : FVal) : FVal × Flags :=
  if v.isNan || (v.neg && !v.isZero) then (.nan false, flagINV) else (v, 0)

/-- The variance of an element by its step (SSRC 2). -/
def stepOperand (e : Elem) : FVal × Flags :=
  match e.step with
  | .nan _ => (.nan false, flagINV)
  | .inf _ => (finf, 0)
  | .fin _ n d => (p3 (.fin false (n * n) (12 * (d * d))), 0)

/-- One step of a spread accumulator. -/
def spreadStep (r : FVal × Flags) (a b : FVal) : FVal × Flags :=
  let v := rn32 (exAdd r.1 (prod a b)).1
  (v, r.2 ||| flagIf (v.isInf && !v.neg) flagSOVF)

/-- The spread of one cell (R232): VX·B2 over x, then A2·VY over x. -/
def spreadCell (vx b2 a2 vy : List FVal) (acc : FVal) : FVal × Flags :=
  let r := (vx.zip b2).foldl (fun r p => spreadStep r p.1 p.2) (acc, 0)
  (a2.zip vy).foldl (fun r p => spreadStep r p.1 p.2) r

/-! ### Draining (R233) -/

/-- What a cell drains to: its bits, their flags, the variance that the rounding adds, whether it overflows and whether it
is NaN, and the LFSR. -/
structure Drained where
  bits : Nat
  flags : Flags
  add : FVal
  ovf : Bool
  nan : Bool
  lfsr : Word32
  deriving DecidableEq, Repr

/-- The value of a cell of a quarter class: 2 is integer. -/
def cellValue (cls : Nat) (c : BitVec 56) : FVal :=
  if cls = 2 then .fin (decide (c.toInt < 0)) c.toInt.natAbs 1 else a56.value c.toNat

/-- A cell drained into DFMT. A NaN cell is quiet. Log 101 (DESIGN CHOICE). -/
def drainCell (cls dfmt : Nat) (sr : Bool) (c : BitVec 56) (l : Word32) : Drained :=
  if cls = 2 && dfmt = 9 then
    ⟨(BitVec.ofInt 64 c.toInt).toNat, 0, fzero, false, false, if sr then lfsrStep l else l⟩
  else
    let F := if dfmt = 9 then fp32 else fmtOf dfmt
    let r := narrow F sr l (cellValue cls c)
    ⟨r.1.bits, r.1.flags, roundVar sr r.1, r.1.overflow, (F.value r.1.bits).isNan, r.2⟩

/-- The bytes of a drained element. -/
def drainBytes (cls dfmt : Nat) : Nat := if dfmt = 9 then (if cls = 2 then 8 else 4) else if fmtHalf dfmt then 2 else 1

/-! ### Exponentials summed exactly (R76, R239) -/

/-- RN of a scaled value to a multiple of 2^-160, in units of it. -/
def gridRound (P : Nat) (a : Int) : Nat := ((a * 2 ^ 161 / 2 ^ P + 1) / 2).toNat

/-- RN to a multiple of 2^-160 of an enclosed irrational value. -/
def gridZiv (f : Nat → Iv) : List Nat → Nat
  | [] => 0
  | P :: t =>
    let a := f P
    if gridRound P a.lo == gridRound P a.hi || t.isEmpty then gridRound P a.lo else gridZiv f t

/-- The enclosure of 2^(n/d). -/
def pow2Iv (neg : Bool) (n d P : Nat) : Iv := expIv P ((ln2Iv P).mul P (Iv.ofRat P (intOf neg n) d))

/-- A term of the Sieve: RN to a multiple of 2^-160 of 2^t, for t < 128, in units of 2^-160 (R76). Log 55 (DEDUCED). -/
def sieveTerm (t : FVal) : Nat :=
  match t with
  | .fin s n d =>
    if s && 161 * d ≤ n then 0
    else if n % d = 0 then (scaled 1 (intOf s (n / d) + 160)).1
    else gridZiv (pow2Iv s n d) zivs
  | _ => 0

/-- A term of .sumexp: exact where the exponent is an integer, else an enclosure. A term too small to matter but for its
presence counts as 2^-400. -/
inductive ExpTerm where
  | exact (n d : Nat)
  | irr (neg : Bool) (n d : Nat)
  deriving DecidableEq, Repr

/-- Log 55 (DEDUCED). -/
def expTerm (t : FVal) : ExpTerm :=
  match t with
  | .fin s n d =>
    if s && 400 * d ≤ n then .exact 1 (2 ^ 400)
    else if n % d = 0 then
      let q := scaled 1 (intOf s (n / d))
      .exact q.1 q.2
    else .irr s n d
  | _ => .exact 0 1

/-- The sum of some terms as a value that rounds to FP32 as the exact sum does. -/
def expSum (l : List ExpTerm) : FVal :=
  let ex := sumFin (l.filterMap fun t => match t with | .exact n d => some (.fin false n d) | _ => none)
  if l.all fun t => match t with | .exact .. => true | _ => false then ex
  else
    ziv (fun P => l.foldl
      (fun a t => match t with
        | .exact n d => a.add (Iv.ofRat P n d)
        | .irr s n d => a.add (pow2Iv s n d P)) ⟨0, 0⟩) zivs

/-! ### Row statistics (R239) -/

/-- The FP32 result of an exact value and its flags (R44, R45). Log 55 (DEDUCED). -/
def statRound (x : FVal) : Nat × Flags :=
  let r := round fp32 .rn x
  (r.bits, r.flags)

/-- The larger or smaller number of a row, −0 below +0; NaN when every element is. -/
def rowExtreme (max : Bool) (l : List FVal) : FVal :=
  let better (a b : FVal) : Bool :=
    if max then b.lt a || (a.isZero && b.isZero && !a.neg && b.neg)
    else a.lt b || (a.isZero && b.isZero && a.neg && !b.neg)
  l.foldl (fun m x => if x.isNan then m else if m.isNan || better x m then x else m) (.nan false)

/-- A row statistic: FP32 bits and flags. Operation 0 .max, 1 .sumexp, 2 .min, 3 .sum. -/
def rowStat (op : Nat) (row : List FVal) (r : FVal) : Nat × Flags :=
  let snan := flagIf (row.any FVal.isSnan) flagINV
  if op = 0 then (rnBits fp32 (rowExtreme true row), snan)
  else if op = 2 then (rnBits fp32 (rowExtreme false row), snan)
  else if op = 3 then
    let s := blockSum row
    let q := statRound s.1
    (q.1, q.2 ||| s.2)
  else if row.any FVal.isNan || r.isNan || r.isInf then (fp32.nan, flagINV)
  else
    let ts := row.map fun x => (exAdd x r.negate).1
    let big (t : FVal) : Bool := match t with | .inf s => !s | .fin s n d => !s && decide (128 * d ≤ n) | .nan _ => false
    if ts.any big then (fp32.infMag, flagOVF ||| flagINX)
    else statRound (expSum (ts.map expTerm))

end Sys2Proof.Machine
end

