-- ==== Sys2Proof/Machine/Matrix.lean ====
section
/-!
DEFINITION. The matrix engine (12_matrix_engine.md): the issue of its instructions, teams, and the step MATRIX_EXECUTE.
-/

namespace Sys2Proof.Machine

/-! ### The format word (R227) -/

/-- A format word. -/
structure MatFmt where
  dfmt : Nat
  drnd : Nat
  ssrc : Nat
  wfmt : Nat
  afmt : Nat
  deriving DecidableEq, Repr

def matFmt (w : BitVec 32) : MatFmt :=
  ⟨(w.extractLsb' 12 4).toNat, (w.extractLsb' 10 2).toNat, (w.extractLsb' 8 2).toNat, (w.extractLsb' 4 4).toNat,
    (w.extractLsb' 0 4).toNat⟩

/-- R228 row 2: every field of the word is one that R227 allows. -/
def fmtWordOk (w : Word) : Bool :=
  let f := matFmt (w.setWidth 32)
  let code (n : Nat) : Bool := decide (1 ≤ n) && decide (n ≤ 8)
  bits w 16 48 == 0 && code f.afmt && code f.wfmt && [1, 2, 3, 4, 9].contains f.dfmt && decide (f.drnd < 2)
    && decide (f.ssrc < 3)

/-! ### What earlier instructions leave (R228) -/

/-- The classes that a product or MZRO leaves: 1 float, 2 integer. -/
def MatInstr.classes (i : MatInstr) (cls : SMap Nat) : SMap Nat :=
  let c := if fmtInt (matFmt i.fmt).wfmt then 2 else 1
  match i.instr with
  | .mma _ _ q _ _ => sset 0 cls q.toNat c
  | .dmma _ _ q _ => sset 0 cls q.toNat c
  | .mma2 _ _ q _ => sset 0 (sset 0 cls q.toNat c) (q ^^^ 1).toNat c
  | .mzro q all _ => if all = 1 then [] else serase cls q.toNat
  | _ => cls

/-- The format of the mean plane that a load leaves. -/
def MatInstr.planeFmt (i : MatInstr) (f : Nat) : Nat :=
  match i.instr with
  | .mldn _ _ m _ => if m = 0 then (matFmt i.fmt).wfmt else f
  | .mldw _ _ m _ => if m = 0 then (matFmt i.fmt).wfmt else f
  | _ => f

/-- The instructions in the engine, in its order. -/
def Matrix.queue (m : Matrix) : List MatInstr := m.exec.toList ++ m.staged.toList

/-- The quarter classes as every earlier instruction leaves them. -/
def Matrix.clsAhead (m : Matrix) : SMap Nat := m.queue.foldl (fun c i => i.classes c) m.cls

/-- The format of the mean plane as every earlier instruction leaves it. -/
def Matrix.fmtAhead (m : Matrix) : Nat := m.queue.foldl (fun f i => i.planeFmt f) m.meanFmt

/-- A product into these quarters clashes, or meets a plane of another format (R228 row 3, R229). Log 58 (DEDUCED). -/
def Matrix.clash (m : Matrix) (w : BitVec 32) (quarters : List Nat) : Bool :=
  let f := matFmt w
  let c := if fmtInt f.afmt then 2 else 1
  fmtInt f.afmt != fmtInt f.wfmt || f.wfmt != m.fmtAhead
    || quarters.any fun q => sget 0 m.clsAhead q != 0 && sget 0 m.clsAhead q != c

/-! ### Teams (R240, R241) -/

/-- R and C of a descriptor. -/
def teamRows (d : Nat) : Nat := 2 ^ (d / 4 % 4)
def teamCols (d : Nat) : Nat := 2 ^ (d % 4)

/-- The block of a grid on a logical core. -/
def State.blockOn (s : State) (grid lcore : Nat) : Option Nat :=
  ((oitems s.blocks).find? fun b => b.2.grid == grid && b.2.lcore == lcore && b.2.job.isNone && b.2.life == .resident).map
    (·.1)

/-- The logical core of member i of the aligned set of a block under a descriptor. -/
def State.memberCore (s : State) (b d i : Nat) : Nat :=
  let n := teamRows d * teamCols d
  (s.blk b).lcore / n * n + i

/-- The members of the aligned set of a block, none where some logical core holds no block. Log 58 (DEDUCED). -/
def State.members (s : State) (b d : Nat) : Option (List Nat) :=
  let l := (List.range (teamRows d * teamCols d)).map fun i => s.blockOn (s.blk b).grid (s.memberCore b d i)
  if l.all Option.isSome then some (l.filterMap id) else none

/-- The matrix engine of a block's core. -/
def State.mxOf (s : State) (b : Nat) : Matrix := (s.core (s.blk b).core).mx

/-- The engine as a matrix instruction of the block finds it: one that no block owns is as at block start (R225). -/
def State.engineOf (s : State) (b : Nat) : Matrix :=
  if (s.mxOf b).owner.isNone then { Matrix.zero with owner := some b } else s.mxOf b

def State.updMx (s : State) (b : Nat) (f : Matrix → Matrix) : State :=
  s.updCore (s.blk b).core fun c => { c with mx := f c.mx }

/-- A group of a block stands at MTEAM with a descriptor. -/
def State.atTeam (s : State) (b d : Nat) : Bool :=
  (oitems (s.blk b).groups).any fun g => g.2.waitsFor (· == .team d)

/-- A group of a block stands at MTEAM. -/
def Await.isTeam : Await → Bool
  | .team _ => true
  | _ => false

def State.inTeam (s : State) (b : Nat) : Bool :=
  (oitems (s.blk b).groups).any fun g => g.2.waitsFor Await.isTeam

/-- Whom a descriptor waits for: its members, or for descriptor 0 those of the team in force. -/
def State.teamMembers (s : State) (b d : Nat) : Option (List Nat) :=
  s.members b (if d = 0 then (s.mxOf b).team else d)

/-- Every member has issued MTEAM with an equal descriptor, after all its earlier matrix instructions. -/
def State.teamReady (s : State) (b d : Nat) : Bool :=
  match s.teamMembers b d with
  | none => false
  | some l => l.all fun m => s.atTeam m d && (s.mxOf m).queue.isEmpty

/-- The team comes into force, or is dissolved, and its groups go on. Log 58 (DEDUCED). -/
def State.formTeam (s : State) (b d : Nat) : State :=
  ((s.teamMembers b d).getD []).foldl
    (fun s m => (s.updMx m fun x => { x with team := d, pairs := 0, sent := [] }).updBlk m fun x => { x with
        groups := x.groups.map fun kv => (kv.1, kv.2.map fun y =>
          y.withParks (y.parks.map fun p => if p.what = .team d then { p with what := .nothing } else p)) }) s

/-- The number of the member that a paired instruction takes its operands from: (0, c) for a stationary load, (r, 0)
for a product. -/
def sourceIndex (d i : Nat) (load : Bool) : Nat := if load then i % teamCols d else i / teamCols d * teamCols d

/-- The number of a block in its team. -/
def State.teamIndex (s : State) (b : Nat) : Nat :=
  (s.blk b).lcore % (teamRows (s.mxOf b).team * teamCols (s.mxOf b).team)

/-- A stationary load. -/
def isLoad : Instr → Bool
  | .mldn .. => true
  | .mldw .. => true
  | _ => false

/-- An instruction that a team pairs. -/
def isPaired : Instr → Bool
  | .mldn .. => true
  | .mldw .. => true
  | .mma .. => true
  | .dmma .. => true
  | .mma2 .. => true
  | _ => false

/-- The block reads its own Bed for an instruction: outside a team, and at its source. -/
def State.isSource (s : State) (b : Nat) (i : Instr) : Bool :=
  (s.engineOf b).team == 0 || !isPaired i || sourceIndex (s.mxOf b).team (s.teamIndex b) (isLoad i) == s.teamIndex b

/-! ### Issue (R234) -/

/-- The engine trap of a matrix instruction (R228). -/
def Issue.matTrap (I : Issue) (cause : Nat) (header : Word) : Trap := I.trapOf 6 (engineDetail cause 0 header 0) []

/-- The Bed fault of a tile (R118, R234). Log 61 (DEDUCED). -/
def Issue.tileTrap (I : Issue) (wr : Bool) (base : Word) (code : Nat) : Trap :=
  I.bedTrap 0 wr [(lowest I.act, code)] fun _ => base

/-- The first of codes 1 to 3 that some line of a footprint fails, or 0. Log 61 (DEDUCED). -/
def Block.tileCode (x : Block) (base : Word) (lines : Nat) : Nat :=
  if base.toNat % 256 != 0 then 1
  else if 256 * x.bedLines < base.toNat + 256 * lines then 2
  else if (List.range lines).any fun k => (x.plotAt (base.toNat / 256 + k)).isNone then 3
  else 0

/-- The lines of a footprint. -/
def tileLines (base : Word) (lines : Nat) : List Nat := (List.range lines).map (base.toNat / 256 + ·)

/-- A tile that is read, checked line by line (R234), then what follows. -/
def Issue.readTile (I : Issue) (s : State) (base : Word) (lines : Nat) (f : State → State) : State :=
  let c := (s.blk I.b).tileCode base lines
  if c != 0 then I.trap s (I.tileTrap false base c)
  else I.bedLines s (tileLines base lines) (fun _ => I.tileTrap false base 4) f

/-- A tile that is written: an absent line parks, and so does one that MDRN claims. -/
def Issue.writeTile (I : Issue) (s : State) (base : Word) (lines : Nat) (f : State → State) : State :=
  let c := (s.blk I.b).tileCode base lines
  let l := tileLines base lines
  let x := s.blk I.b
  if c != 0 then I.trap s (I.tileTrap true base c)
  else if l.any (s.claimed I.b).contains then I.blockOn s .matrix (.lines (l.filter (s.claimed I.b).contains))
  else if l.any fun k => (x.bedLine k).absent then
    I.blockOn s .bedAbsence (.lines (l.filter fun k => (x.bedLine k).absent))
  else f s

/-- The bytes of some lines of the Bed. -/
def Block.tileBytes (x : Block) (base lines : Nat) : List Byte := (List.range (256 * lines)).map fun i => sget 0 x.bed (base + i)

/-- The opcode of a matrix instruction that a pairing compares. -/
def matOp : Instr → Nat
  | .mldn .. => 0xC8
  | .mldw .. => 0xC9
  | .mma .. => 0xCA
  | .dmma .. => 0xCB
  | .mma2 .. => 0xCC
  | _ => 0

/-- The m field of a paired instruction (R28). Log 52 (DEDUCED). -/
def matM : Instr → Nat
  | .mldn _ _ m _ | .mldw _ _ m _ => m.toNat
  | .mma _ _ q t _ => 2 * q.toNat + t.toNat
  | .dmma _ _ q _ | .mma2 _ _ q _ => 2 * q.toNat
  | _ => 0

/-! ### Pairing (R241) -/

/-- Two paired instructions differ in opcode or format word. -/
def MatInstr.differs (i e : MatInstr) : Bool := matOp i.instr != matOp e.instr || i.fmt != e.fmt

/-- The block whose instruction of the same number a paired instruction of a block takes its operands from. -/
def State.sourceOf (s : State) (b : Nat) (i : Instr) : Option Nat :=
  s.blockOn (s.blk b).grid (s.memberCore b (s.mxOf b).team (sourceIndex (s.mxOf b).team (s.teamIndex b) (isLoad i)))

/-- What the source of a paired instruction has issued under its number; none while it has not. -/
def State.broadcast (s : State) (b : Nat) (i : MatInstr) : Option MatInstr :=
  (s.sourceOf b i.instr).bind fun m => (s.mxOf m).sent.find? fun e => e.pair == i.pair

/-- A block stands in the first row or column of its team, so that others pair with it. -/
def State.sends (s : State) (b : Nat) : Bool :=
  (s.mxOf b).team != 0 && (decide (s.teamIndex b < teamCols (s.mxOf b).team) || s.teamIndex b % teamCols (s.mxOf b).team == 0)

/-- The paired instruction of a number taken out of an engine. -/
def Matrix.dropPair (m : Matrix) (n : Nat) : Matrix :=
  let m1 := if m.staged.any (·.pair == n) then { m with staged := none } else m
  if m1.exec.any (·.pair == n) then { m1 with exec := m1.staged, staged := none, failed := false } else m1

/-- The deferred fault of a dropped paired instruction, once (R139, R241, R362). -/
def State.matrixFault (s : State) (i : MatInstr) : State :=
  let h : Word := i.fmt.setWidth 64
  let acc : Access := {
    uid := i.uid, seq := i.seq, blk := i.blk, grp := i.grp, pc := i.pc, op := matOp i.instr, m := matM i.instr, dreg := 0
    kind := 6
    logsz := 0, hint := 0, act := 0, wait := 0, fault := 0, conf := 0, va := perLane fun _ => 0
    d0 := perLane fun L => if L = 0 then h else 0, d1 := perLane fun _ => 0, lcause := List.replicate 32 0, reqs := []
    flags := 0, handler := false, after := 0, poc := false, begun := 0, last := false, body := false }
  if (s.grp i.blk i.grp).ready.any fun f => f.seq == i.seq then s
  else s.faultsReady i.blk i.grp [⟨i.seq, 6, engineDetail 5 0 h 0, some acc⟩]

/-- A member's instruction and that of its source are dropped, each where it has not run, and both groups take the fault.
Log 58 (DEDUCED). -/
def State.mismatch (s : State) (i e : MatInstr) : State :=
  (((s.updMx i.blk fun m => m.dropPair i.pair).updMx e.blk fun m => m.dropPair e.pair).matrixFault i).matrixFault e

/-- A paired instruction that has entered the engine of its block is held against its source, and against the members
that take theirs from it. Log 58 (DEDUCED). -/
def State.checkPairs (s : State) (i : MatInstr) : State :=
  let s1 := match s.broadcast i.blk i with
    | some e => if e.blk != i.blk && i.differs e then s.mismatch i e else s
    | none => s
  (((s.members i.blk (s.mxOf i.blk).team).getD []).flatMap fun m => (s.mxOf m).queue.filter fun j =>
      m != i.blk && j.pair == i.pair && s.sourceOf m j.instr == some i.blk && j.differs i).foldl
    (fun s j => s.mismatch j i) s1

/-- An instruction enters the engine, which its block owns from now on (R225): executing at once, or staged. -/
def State.enterMatrix (s : State) (b : Nat) (i : MatInstr) : State :=
  let m := s.engineOf b
  let m1 := if isPaired i.instr then { m with pairs := m.pairs + 1, sent := if s.sends b then m.sent ++ [i] else m.sent }
    else m
  let s1 := if m.exec.isNone then (s.updMx b fun _ => { m1 with exec := some i, failed := false }).post (.matrixExecute (s.blk b).core)
    else s.updMx b fun _ => { m1 with staged := some i }
  if i.pair = 0 then s1 else s1.checkPairs i

/-- The instruction of a word as the engine takes it. -/
def Issue.matInstr (I : Issue) (s : State) (i : Instr) (fmt : BitVec 32) (base : Word) : MatInstr :=
  { claims := [], uid := s.fresh, blk := I.b, grp := I.g, seq := s.fresh, instr := i, pc := I.wpc, fmt := fmt, base := base.toNat
    lanes := I.act, tile := [], tile2 := [], refs := []
    pair := if (s.engineOf I.b).team != 0 && isPaired i then (s.engineOf I.b).pairs + 1 else 0 }

/-- A matrix instruction with an active lane: it waits for the engine and for the staging slot; `f` is what follows (R225,
R234). Log 75 (DEDUCED). -/
def Issue.matrix (I : Issue) (s : State) (f : State → State) : State :=
  if I.act == 0 then s
  else
    let m := s.mxOf I.b
    if m.owner.isSome && m.owner != some I.b || m.staged.isSome || s.inTeam I.b then I.block s .matrix
    else f s

/-- One that reads a format word, with R228 rows 1 and 2; `f` gets the word. -/
def Issue.matrixFmt (I : Issue) (s : State) (b : BitVec 5) (f : State → BitVec 32 → State) : State :=
  I.matrix s fun s1 =>
    let w := I.G.rv b.toNat (lowest I.act)
    if (lanesOf I.act).any fun L => I.G.rv b.toNat L != w then I.trap s (I.matTrap 5 ((w.setWidth 32).setWidth 64))
    else if !fmtWordOk w then I.trap s (I.matTrap 6 ((w.setWidth 32).setWidth 64))
    else f s1 (w.setWidth 32)

/-- The Bed address of a word (R234). -/
def Issue.tileBase (I : Issue) (a : BitVec 5) : Word := I.G.rv a.toNat (lowest I.act)

/-- A paired instruction: its tiles are read by its source alone. -/
def Issue.paired (I : Issue) (s : State) (i : Instr) (fmt : BitVec 32) (base : Word) (n1 n2 : Nat) : State :=
  let x := s.blk I.b
  let e := I.matInstr s i fmt base
  if !s.isSource I.b i then s.tick.enterMatrix I.b e
  else
    I.readTile s base (n1 + n2) fun s => s.tick.enterMatrix I.b { e with
      tile := x.tileBytes base.toNat n1
      tile2 := x.tileBytes (base.toNat + 256 * n1) n2 }

/-- A stationary load. -/
def Issue.loadPlane (I : Issue) (s : State) (i : Instr) (a b : BitVec 5) (m : BitVec 1) : State :=
  I.matrixFmt s b fun s w =>
    I.paired s i w (I.tileBase a) (if m = 1 then spreadFootprint else footprint (matFmt w).wfmt) 0

/-- MLDN (R235). -/
def execMldn (a b : BitVec 5) (m : BitVec 1) (g : BitVec 4) (s : State) : Host.Outcome State Fault Refusal :=
  issueWord (.mldn a b m g) s fun I s => I.loadPlane s (.mldn a b m g) a b m

/-- MLDW (R235). -/
def execMldw (a b : BitVec 5) (m : BitVec 1) (g : BitVec 4) (s : State) : Host.Outcome State Fault Refusal :=
  issueWord (.mldw a b m g) s fun I s => I.loadPlane s (.mldw a b m g) a b m

/-- A product, with R228 row 3. -/
def Issue.product (I : Issue) (s : State) (i : Instr) (a b : BitVec 5) (quarters : List Nat) (spread : Bool)
    (second : MatFmt → Nat) : State :=
  I.matrixFmt s b fun s w =>
    let f := matFmt w
    if (s.engineOf I.b).clash w quarters || (spread && f.ssrc == 0) then
      I.trap s (I.matTrap 6 (w.setWidth 64))
    else I.paired s i w (I.tileBase a) (footprint f.afmt) (second f)

/-- MMA (R237). -/
def execMma (a b : BitVec 5) (q : BitVec 2) (t : BitVec 1) (g : BitVec 4) (s : State) :
    Host.Outcome State Fault Refusal :=
  issueWord (.mma a b q t g) s fun I s => I.product s (.mma a b q t g) a b [q.toNat] false fun _ => 0

/-- DMMA (R237). -/
def execDmma (a b : BitVec 5) (q : BitVec 2) (g : BitVec 4) (s : State) : Host.Outcome State Fault Refusal :=
  issueWord (.dmma a b q g) s fun I s =>
    I.product s (.dmma a b q g) a b [q.toNat] true fun f => if f.ssrc = 1 then spreadFootprint else 0

/-- MMA2 (R237). -/
def execMma2 (a b : BitVec 5) (q : BitVec 2) (g : BitVec 4) (s : State) : Host.Outcome State Fault Refusal :=
  issueWord (.mma2 a b q g) s fun I s =>
    I.product s (.mma2 a b q g) a b [q.toNat, (q ^^^ 1).toNat] false fun f => footprint f.afmt

/-- MZRO (R236). -/
def execMzro (q : BitVec 2) (l : BitVec 1) (g : BitVec 4) (s : State) : Host.Outcome State Fault Refusal :=
  issueWord (.mzro q l g) s fun I s =>
    I.matrix s fun s => s.tick.enterMatrix I.b (I.matInstr s (.mzro q l g) 0 0)

/-- MDRN (R238): its lines are claimed from now on. -/
def execMdrn (a b : BitVec 5) (q : BitVec 2) (g : BitVec 4) (s : State) : Host.Outcome State Fault Refusal :=
  issueWord (.mdrn a b q g) s fun I s =>
    I.matrixFmt s b fun s w =>
      let f := matFmt w
      let base := I.tileBase a
      let n := 64 * drainBytes (sget 0 (s.engineOf I.b).clsAhead q.toNat) f.dfmt + (if f.ssrc != 0 then 256 else 0)
      I.writeTile s base n fun s =>
        s.tick.enterMatrix I.b { I.matInstr s (.mdrn a b q g) w base with claims := tileLines base n }

/-- MSTAT (R239): vD is pending until the engine has run it. -/
def execMstat (d a b : BitVec 5) (m : BitVec 3) (g : BitVec 4) (s : State) : Host.Outcome State Fault Refusal :=
  issueWord (.mstat d a b m g) s fun I s =>
    I.matrixFmt s b fun s w =>
      let base := I.tileBase a
      let n := 16 * drainBytes 1 (matFmt w).dfmt
      I.readTile s base n fun s =>
        (s.tick.enterMatrix I.b { I.matInstr s (.mstat d a b m g) w base with
            tile := (s.blk I.b).tileBytes base.toNat n
            refs := perLane fun L => I.G.rv d.toNat L }).updGrp I.b I.g fun y => y.setPending .v d.toNat true

/-- MTEAM (R240). -/
def execMteam (a : BitVec 5) (g : BitVec 4) (s : State) : Host.Outcome State Fault Refusal :=
  issueWord (.mteam a g) s fun I s =>
    I.matrix s fun s1 =>
      let w := I.G.rv a.toNat (lowest I.act)
      if bits w 4 60 != 0 || bits w 2 2 == 3 || bits w 0 2 == 3 then I.trap s (I.matTrap 6 w)
      else (s1.updMx I.b fun _ => s1.engineOf I.b).parkOn I.b I.g .wait (.team w.toNat)

/-- MCHK (R242). -/
def execMchk (d : BitVec 5) (g : BitVec 4) (s : State) : Host.Outcome State Fault Refusal :=
  issueWord (.mchk d g) s fun I s =>
    I.matrix s fun s =>
      (s.tick.enterMatrix I.b (I.matInstr s (.mchk d g) 0 0)).updGrp I.b I.g fun y => y.setPending .v d.toNat true

/-! ### Products (R230 to R232) -/

/-- Row i of an array of 128 × 128. -/
def rowOf {α : Type} (z : α) (e : Array α) (i : Nat) : List α := (List.range 128).map fun k => e.getD (128 * i + k) z

/-- Column j. -/
def colOf {α : Type} (z : α) (e : Array α) (j : Nat) : List α := (List.range 128).map fun k => e.getD (128 * k + j) z

/-- The mean plane's row k or column n: it was filled by rows from the west and by columns from the north (R235). -/
def Matrix.planeRow (m : Matrix) (e : Array Elem) (k : Nat) : List Elem :=
  if m.west then rowOf Elem.zero e k else colOf Elem.zero e k

def Matrix.planeCol (m : Matrix) (e : Array Elem) (n : Nat) : List Elem :=
  if m.west then colOf Elem.zero e n else rowOf Elem.zero e n

/-- The cells of a quarter after a product of X and Y, with the flags. -/
def meanCells (cls : Nat) (single : Bool) (X Y : Nat → List Elem) (acc : Nat → BitVec 56) : List (BitVec 56 × Flags) :=
  (List.range 16384).map fun c =>
    let xs := (X (c / 128)).map (·.val)
    let ys := (Y (c % 128)).map (·.val)
    if cls = 2 then
      let r := intCell xs ys (acc c).toInt
      (BitVec.ofInt 56 r.1, r.2)
    else
      let r := floatCell single xs ys (acc c).toNat
      (BitVec.ofNat 56 r.1, r.2)

/-- All the flags of some results. -/
def allFlags {α : Type} (l : List (α × Flags)) : Flags := l.foldl (fun f p => f ||| p.2) 0

/-- A quarter accumulates a product (R230, R231). -/
def Matrix.accumulate (m : Matrix) (q cls : Nat) (single : Bool) (X Y : Nat → List Elem) : Matrix × Flags :=
  let l := meanCells cls single X Y fun c => sget 0 m.acc (16384 * q + c)
  let a := l.toArray
  ({ m with
      acc := sfill 0 m.acc (16384 * q) 16384 fun c => (a.getD c (0, 0)).1
      cls := sset 0 m.cls q cls }, allFlags l)

/-- The operands of the spread array for some elements: P3 of their squares, and their variances (R232). -/
def squares (l : List Elem) : List FVal := l.map fun e => p3 (prod e.val e.val)

/-- A quarter's spreads updated (R232). -/
def Matrix.spreadInto (m : Matrix) (q : Nat) (X Y : Nat → List Elem) (VX VY : Nat → List (FVal × Flags)) : Matrix × Flags :=
  let l := (List.range 16384).map fun c =>
    let vx := VX (c / 128)
    let vy := VY (c % 128)
    let r := spreadCell (vx.map (·.1)) (squares (Y (c % 128))) (squares (X (c / 128))) (vy.map (·.1))
      (fp32.value (sget 0 m.var (16384 * q + c)).toNat)
    (BitVec.ofNat 32 (rnBits fp32 r.1), r.2 ||| allFlags vx ||| allFlags vy)
  let a := l.toArray
  ({ m with var := sfill 0 m.var (16384 * q) 16384 fun c => (a.getD c (0, 0)).1 }, allFlags l)

/-- A pass counted (R242). -/
def Matrix.pass (m : Matrix) : Matrix := { m with checked := m.checked + 1 }

/-- The elements of the mean plane. -/
def Matrix.plane (m : Matrix) : Array Elem × Flags :=
  tileElems m.meanFmt ((List.range (256 * footprint m.meanFmt)).map fun i => sget 0 m.mean i).toArray

/-- The elements of the spread plane. -/
def Matrix.spreadPlane (m : Matrix) : Array FVal :=
  spreadElems ((List.range (256 * spreadFootprint)).map fun i => sget 0 m.spread i).toArray

/-- What the engine does with a load or a product, given the tiles its source has read: the engine and the flags
(R230 to R237). -/
def Matrix.run (m : Matrix) (i : MatInstr) (tile tile2 : List Byte) : Matrix × Flags :=
  let f := matFmt i.fmt
  let single := fmtHalf f.afmt || fmtHalf m.meanFmt
  let c := if fmtInt f.afmt then 2 else 1
  let T := tileElems f.afmt tile.toArray
  let S := m.plane
  let load (west spread : Bool) : Matrix :=
    if spread then { m with spread := sfill 0 [] 0 tile.length fun k => tile.getD k 0, spreadWest := west }
    else { m with mean := sfill 0 [] 0 tile.length fun k => tile.getD k 0, meanFmt := f.wfmt, west := west }
  match i.instr with
  | .mldn _ _ p _ => (load false (p == 1), 0)
  | .mldw _ _ p _ => (load true (p == 1), 0)
  | .mma _ _ q t _ =>
    let r := m.accumulate q.toNat c single
      (fun k => if t = 1 then colOf Elem.zero T.1 k else rowOf Elem.zero T.1 k) (m.planeCol S.1)
    (r.1.pass, r.2 ||| T.2 ||| S.2)
  | .dmma _ _ q _ =>
    let X := rowOf Elem.zero T.1
    let Y := m.planeCol S.1
    let r := m.accumulate q.toNat c single X Y
    let sx := spreadElems tile2.toArray
    let sy := m.spreadPlane
    let VX (k : Nat) : List (FVal × Flags) :=
      if f.ssrc = 1 then (rowOf fzero sx k).map spreadOperand else (X k).map stepOperand
    let VY (n : Nat) : List (FVal × Flags) :=
      if f.ssrc = 1 then (if m.spreadWest then colOf fzero sy n else rowOf fzero sy n).map spreadOperand
      else (Y n).map stepOperand
    let v := r.1.spreadInto q.toNat X Y VX VY
    (v.1.pass, r.2 ||| v.2 ||| T.2 ||| S.2)
  | .mma2 _ _ q _ =>
    let U := tileElems f.afmt tile2.toArray
    let r := m.accumulate q.toNat c single (colOf Elem.zero T.1) (m.planeCol S.1)
    let v := r.1.accumulate (q ^^^ 1).toNat c single (m.planeRow S.1) (colOf Elem.zero U.1)
    (v.1.pass, r.2 ||| v.2 ||| T.2 ||| U.2 ||| S.2)
  | .mzro q all _ =>
    (if all = 1 then { m with acc := [], var := [], cls := [] }
      else { m with
        acc := sfill 0 m.acc (16384 * q.toNat) 16384 fun _ => 0
        var := sfill 0 m.var (16384 * q.toNat) 16384 fun _ => 0
        cls := serase m.cls q.toNat }, 0)
  | _ => (m, 0)

/-! ### Draining (R233) -/

/-- What a quarter drains to: its cells in order, and the LFSRs of the lanes after them. -/
def drainQuarter (m : Matrix) (q : Nat) (f : MatFmt) (lf : List Word32) : List (Drained × Nat) × List Word32 :=
  let cls := sget 0 m.cls q
  let r := (List.range 16384).foldl
    (fun (r : List (Drained × Nat) × List Word32) c =>
      let L := c % 128 % 32
      let d := drainCell cls f.dfmt (f.drnd == 1) (sget 0 m.acc (16384 * q + c)) (r.2.getD L 0)
      ((d, c) :: r.1, r.2.set L d.lfsr)) ([], lf)
  (r.1.reverse, r.2)

/-- The FP32 bits of the spread of a drained cell. -/
def drainSpread (m : Matrix) (q : Nat) (p : Drained × Nat) : Nat × Flags :=
  if p.1.nan then (fp32.nan, 0)
  else
    let v := add32 (fp32.value (sget 0 m.var (16384 * q + p.2)).toNat) p.1.add
    if p.1.ovf then (fp32.infMag, flagSOVF)
    else (rnBits fp32 v, flagIf (!p.1.add.isZero && v.isInf && !v.neg) flagSOVF)

/-- MDRN: the tiles written, their lines landed, the LFSRs and the flags of the group (R233, R234). -/
def State.drainMatrix (s : State) (i : MatInstr) (q : Nat) : State :=
  let m := s.mxOf i.blk
  let f := matFmt i.fmt
  let y := s.grp i.blk i.grp
  let w := drainBytes (sget 0 m.cls q) f.dfmt
  let d := drainQuarter m q f (perLane y.lf)
  let sp := d.1.map (drainSpread m q)
  let bytes := (d.1.flatMap fun p => bytesLe w p.1.bits) ++ (if f.ssrc != 0 then sp.flatMap fun p => bytesLe 4 p.1 else [])
  let a := bytes.toArray
  let fl := (d.1.foldl (fun r p => r ||| p.1.flags) 0) ||| (if f.ssrc != 0 then allFlags sp else 0)
  (s.updBlk i.blk fun x => { x with
      bed := sfill 0 x.bed i.base bytes.length fun k => a.getD k 0
      bedMeta := x.bedMeta.filter fun kv => !(i.claims.contains kv.1) }).updGrp i.blk i.grp fun y =>
    { (if f.drnd = 1 then y.setLf (BitVec.allOnes 32) fun L => d.2.getD L 0 else y) with flags := y.flags ||| fl }

/-! ### Row statistics and counts (R239, R242) -/

/-- The elements of a row of a drained tile. -/
def drainedRow (dfmt : Nat) (b : Array Byte) (L : Nat) : List FVal :=
  let w := drainBytes 1 dfmt
  let F := if dfmt = 9 then fp32 else fmtOf dfmt
  (List.range 128).map fun j => F.value (leBytes (slice b (w * (128 * L + j)) w))

/-- MSTAT: vD of every active lane. -/
def State.rowStats (s : State) (i : MatInstr) (d op : Nat) : State :=
  let b := i.tile.toArray
  let r (L : Nat) : Nat × Flags := rowStat op (drainedRow (matFmt i.fmt).dfmt b L) (meanOf (i.refs.getD L 0))
  s.updGrp i.blk i.grp fun y =>
    let y1 := (y.wv d i.lanes fun L => certain (r L).1).setPending .v d false
    { y1 with flags := y1.flags ||| flagsOf i.lanes fun L => (r L).2 }

/-- MCHK: the counts. -/
def State.readCounts (s : State) (i : MatInstr) (d : Nat) : State :=
  let m := s.mxOf i.blk
  s.updGrp i.blk i.grp fun y =>
    (y.wv d i.lanes fun _ => BitVec.ofNat 64 (min m.retried 0xFFFF * 2 ^ 32 + m.checked.toNat)).setPending .v d false

/-! ### MATRIX_EXECUTE (R234, R241) -/

/-- An instruction performed with the tiles of its source. -/
def State.runMatrix (s : State) (i : MatInstr) (tile tile2 : List Byte) : State :=
  match i.instr with
  | .mdrn _ _ q _ => s.drainMatrix i q.toNat
  | .mstat d _ _ m _ => s.rowStats i d.toNat m.toNat
  | .mchk d _ => s.readCounts i d.toNat
  | _ =>
    let r := (s.mxOf i.blk).run i tile tile2
    (s.updMx i.blk fun _ => r.1).updGrp i.blk i.grp fun y => { y with flags := y.flags ||| r.2 }

/-- The engine of a block goes on to its staged instruction, which does not run while the block is being saved (R243). -/
def State.nextMatrix (s : State) (b : Nat) : State :=
  let m := s.mxOf b
  if (s.blk b).saving then s.updMx b fun m => { m with exec := none, failed := false } else
  let s1 := s.updMx b fun m => { m with exec := m.staged, staged := none, failed := false }
  if m.staged.isSome then s1.postOnce (.matrixExecute (s.blk b).core) else s1

/-- Every member of a block's team has done its paired instruction of a number. -/
def State.pairDone (s : State) (b n : Nat) : Bool :=
  ((s.members b (s.mxOf b).team).getD []).all fun m =>
    decide (n ≤ (s.mxOf m).pairs) && (s.mxOf m).queue.all fun j => j.pair != n

/-- What a team no longer needs of its sources' instructions is forgotten. Log 58 (DEDUCED). -/
def State.forgetSent (s : State) (b n : Nat) : State :=
  if n != 0 && s.pairDone b n then
    ((s.members b (s.mxOf b).team).getD []).foldl
      (fun s m => s.updMx m fun x => { x with sent := x.sent.filter (·.pair != n) }) s
  else s

/-- The engine of a core completes the instruction at its head and starts the staged one. A paired instruction waits until
its source has issued the one it pairs with, and takes that one's operands. -/
def State.executeMatrix (s : State) (core : Nat) : State :=
  match (s.core core).mx.exec with
  | none => s
  | some i =>
    if i.pair = 0 then (s.runMatrix i i.tile i.tile2).nextMatrix i.blk
    else
      match s.broadcast i.blk i with
      | none => s.post (.matrixExecute core)
      | some e => ((s.runMatrix i e.tile e.tile2).nextMatrix i.blk).forgetSent i.blk i.pair

/-- The engine of a core runs a pass: a product whose operands are there. -/
def State.passRuns (s : State) (core : Nat) : Bool :=
  match (s.core core).mx.exec with
  | none => false
  | some i => [0xCA, 0xCB, 0xCC].contains (matOp i.instr) && (i.pair == 0 || (s.broadcast i.blk i).isSome)

/-- The checksums of the pass that an engine runs do not agree: it runs again, and the second time the core is suspect and
its block meets a hardware error (R242). -/
def State.checksumFails (s : State) (core : Nat) : State :=
  match (s.core core).mx.exec with
  | none => s
  | some i =>
    if !s.passRuns core then s
    else if (s.core core).mx.failed then s.hwError i.blk 3
    else s.updCore core fun c => { c with mx := { c.mx with failed := true, retried := c.mx.retried + 1 } }

/-- MATRIX_EXECUTE (R234). -/
def execMatrixExecute (core : Nat) (s : State) : Host.Outcome State Fault Refusal := .next (s.executeMatrix core)

end Sys2Proof.Machine
end

