-- ==== Sys2Proof/Machine/Images.lean ====
section
/-!
DEFINITION. What a context frame holds (R295, R360 to R363): images of groups, blocks and engines, written and read
back.
-/

namespace Sys2Proof.Machine

/-- Words lowest byte first. -/
def wordsLe (l : List Word) : List Byte := l.flatMap fun w => bytesLe 8 w.toNat

/-- A word at an offset of some bytes. -/
def wordAt (l : List Byte) (off : Nat) : Word := BitVec.ofNat 64 (getLe l off 8)

/-! ### The graft slot and CAPST (R360, R361) -/

/-- The capsule state that CAPST and a graft slot describe. -/
def capOf (w : Word) (slot : List Byte) (lines : List Nat) : Option CapState :=
  let lane := bits w 0 5
  if bits w 6 2 = 0 then none
  else some {
    lane := lane
    owner := w.getLsbD 7
    slot := if w.getLsbD 5 then
        some ⟨(List.range 8).map fun r => wordAt slot (256 * r + 8 * lane), getLe slot (0x800 + lane) 1, wordAt slot 0x820⟩
      else none
    displaced := if w.getLsbD 13 then some (bits w 8 5) else none
    lines := lines }

/-! ### Group images -/

/-- The queues: a count, then 32 words, oldest first. -/
def Group.queueBytes (y : Group) : List Byte :=
  (List.range 9).flatMap fun q =>
    let l := sget [] y.queues q
    bytesLe 8 l.length ++ wordsLe (l.take 32) ++ bytesLe (0x200 - 8 - 8 * (l.take 32).length) 0

/-- Log 34 (DESIGN CHOICE). -/
def Group.loadQueues (y : Group) (l : List Byte) : Group :=
  let words (q : Nat) : List Word :=
    (List.range (min 32 (getLe l (0x200 * q) 8))).map fun k => wordAt l (0x200 * q + 8 + 8 * k)
  { y with queues := sfill [] [] 0 9 words }

/-- The segments of an image after its header, with a lane PC table for the live one. -/
def Group.imageSegs (y : Group) (table : List Byte) : List (Nat × List Byte) :=
  [(0x0100, table), (0x0900, y.pBytes 16), (0x0B00, y.sBytes 0 32),
    (0x0C00, (List.range 32).flatMap fun L => bytesLe 4 (y.lf L).toNat), (0x1000, y.queueBytes),
    (0x3000, y.vBytes 0 32), (0x5000, y.slotBytes)]

/-- The bytes of an image. -/
def imageSize : Nat := 0x6000

/-- The registers of an image loaded. -/
def Group.loadImage (y : Group) (l : List Byte) : Group :=
  let y1 := ((y.loadP 16 (l.drop 0x900)).loadS 0 32 (l.drop 0xB00)).loadV 0 32 (l.drop 0x3000)
  (y1.setLf (BitVec.allOnes 32) fun L => BitVec.ofNat 32 (getLe l (0xC00 + 4 * L) 4)).loadQueues (l.drop 0x1000)

/-- A header breaks R361: its version, a W0 field, or a count or code that has no meaning. -/
def headerBad (h : List Byte) : Bool :=
  let w := getLe h 0 8
  w / 2 ^ 56 != 1 || w / 2 ^ 4 % 2 ^ 52 != 0 || w % 2 != 0 || getLe h 0x58 8 / 2 ^ 14 != 0
    || getLe h 0x60 8 / 2 ^ 24 != 0 || decide (128 < getLe h 0x68 8) || decide (12 < getLe h 0x70 8)
    || ((h.drop 0xA0).take 96).any (· != 0)

/-- The header's registers loaded, and its capsule state. -/
def Group.loadHeader (y : Group) (h slot : List Byte) : Group :=
  { y with
    cause := wordAt h 0x08, detail0 := wordAt h 0x10, detail1 := wordAt h 0x18, detail2 := wordAt h 0x20
    epc := wordAt h 0x28, emask := wordAt h 0x30, caprec := wordAt h 0x50
    cap := capOf (wordAt h 0x58) slot ((y.cap.map (·.lines)).getD [])
    smode := BitVec.ofNat 2 (getLe h 0x60 1), flags := BitVec.ofNat 8 (getLe h 0x61 1)
    flagen := BitVec.ofNat 8 (getLe h 0x62 1), hscr0 := wordAt h 0x80, hscr1 := wordAt h 0x88
    hscr2 := wordAt h 0x90, hscr3 := wordAt h 0x98 }

/-- The pending mask of a header loaded. Log 33 (DEDUCED). -/
def Group.loadPending (y : Group) (h : List Byte) : Group :=
  { y with
    pendV := BitVec.ofNat 32 (getLe h 0x38 4)
    pendS := BitVec.ofNat 32 (getLe h 0x3C 4)
    pendP := BitVec.ofNat 128 (getLe h 0x40 16 % 2 ^ 127) }

/-- The pending bits of the trap area's registers cleared. -/
def Group.clearTrapPending (y : Group) : Group :=
  { y with pendV := y.pendV &&& ~~~trapRegsV, pendS := y.pendS &&& ~~~trapRegsV, pendP := y.pendP &&& ~~~trapRegsP }

/-- The header that a save writes. EPC and EMASK of a group at program level are those of its head run (R295); at handler
level the pending mask of the trap area stays as it is. -/
def Group.saveHeader (y : Group) (saved : Bool) (nrec : Nat) : List (Nat × List Byte) :=
  let run := y.settle.headRun
  let z := if y.level then y else { y with epc := run.2, emask := run.1.setWidth 64 }
  let h := z.header saved y.level y.level nrec ((y.kept.map fun p => p.reason.code).getD 0)
  if y.level then [(0, h.take 0x38), (0x50, h.drop 0x50)] else [(0, h)]

/-! ### The block frame (R363) -/

/-- The first 4 KiB of a block frame. Log 29 (DESIGN CHOICE). -/
def Block.frameBytes (x : Block) : List Byte :=
  let parked (n : Nat) : Nat := (oitems x.groups).foldl
    (fun a g => if (g.2.parks ++ g.2.kept.toList ++ g.2.keptMore).any fun p =>
        (match p.what with | .barrier m _ => m == n | .arrivals m .. => m == n | _ => false)
      then a + 2 ^ g.1 else a) 0
  let bar (n : Nat) : Barrier := sget Barrier.zero x.bars n
  wordsLe [x.rkey, x.rctr] ++ bytesLe 8 x.count.toNat ++ bytesLe 8 x.relaunches ++ bytesLe 0xE0 0
    ++ ((List.range 16).flatMap fun t => bytesLe 8 (sget 0 x.issued t) ++ bytesLe 8 (sget 0 x.done t))
    ++ ((List.range 16).flatMap fun n => bytesLe 4 (bar n).arr ++ bytesLe 4 (bar n).gen ++ bytesLe 8 (parked n))
    ++ ((List.range 32).flatMap fun k => bytesLe 8 (((oget x.sieve k).map (· + 1)).getD 0))
    ++ ((List.range 64).flatMap fun k => match oget x.plots k with
        | some p => bytesLe 8 (p.handle k).toNat ++ bytesLe 8 (p.life + if p.refetch then 256 else 0)
        | none => bytesLe 16 0)

/-- A plot table entry read back. -/
def plotFrom (l : List Byte) (k : Nat) : Option Plot :=
  let h := wordAt l (0x400 + 16 * k)
  let w := getLe l (0x408 + 16 * k) 8
  if h = 0 then none else some ⟨bits h 8 13, bits h 50 14, w % 64, w / 256 % 2 == 1⟩

/-- A barrier read back. Its generation counts on from the high part that the frame does not hold. -/
def barFrom (l : List Byte) (old : SMap Barrier) (n : Nat) : Barrier :=
  ⟨getLe l (0x200 + 16 * n) 4, (sget Barrier.zero old n).gen / 2 ^ 32 * 2 ^ 32 + getLe l (0x204 + 16 * n) 4⟩

/-- A Sieve slot read back. -/
def slotFrom (l : List Byte) (k : Nat) : Option Nat :=
  if getLe l (0x300 + 8 * k) 8 = 0 then none else some (getLe l (0x300 + 8 * k) 8 - 1)

/-- The block frame's registers loaded. A Sieve slot that an engine has bound or freed since the save stays as it is now
(R81, R146). -/
def Block.loadFrame (x : Block) (l : List Byte) : Block :=
  { x with
    rkey := wordAt l 0, rctr := wordAt l 8, count := BitVec.ofNat 32 (getLe l 0x10 4), relaunches := getLe l 0x18 8
    issued := sfill 0 [] 0 16 fun t => getLe l (0x100 + 16 * t) 8
    done := sfill 0 [] 0 16 fun t => getLe l (0x108 + 16 * t) 8
    bars := sfill Barrier.zero [] 0 16 (barFrom l x.bars)
    sieve := sfill none [] 0 32 fun k => if oget x.sieve k = oget x.stashSieve k then slotFrom l k else oget x.sieve k
    stashSieve := []
    plots := sfill none [] 0 64 (plotFrom l) }

/-- The lines of the live plots, in slot order and address order within each (R129). -/
def Block.savedLines (x : Block) : List Nat :=
  (oitems x.plots).flatMap fun p => (List.range p.2.lines).map (p.2.base + ·)

/-- The metadata and the bytes of the live plots; an expired line is saved without its bytes. -/
def Block.bedSegs (x : Block) : List (Nat × List Byte) :=
  x.savedLines.flatMap fun n =>
    let m := x.bedLine n
    (0x80000 + 16 * n, bytesLe 8 (m.source.getD 0).toNat
        ++ bytesLe 8 ((if m.absent then 0 else 2 ^ 62) + (if m.source.isSome then 2 ^ 61 else 0) + m.age))
      :: (if x.expired n then [] else [(0x100000 + 256 * n, bytesLe 256 (x.bedRead (256 * n) 256))])

/-! ### Pending copies (R146, R363) -/

/-- A copy command whose destination is the Bed. -/
def Command.toBed (c : Command) : Bool := c.queue == 0 && (bits (c.word 0) 60 4 == 2 || !c.linear.toMem)

/-- The kind of a copy. -/
def Command.isRagged (c : Command) : Bool := bits (c.word 0) 60 4 == 2

/-- A copy that has Bed bytes still to read for memory. -/
def Command.reading (c : Command) : Bool :=
  c.queue == 0 && !c.isRagged && c.linear.dir == 2
    && (c.state == .pushed || (c.state == .taken && decide (256 * c.next < c.linear.total)))

/-- The lines of a pending copy that have still to land: their line records. A command that no engine has taken yet has
none, since its lines are as they were; a refetch has had its own from its start. -/
def Command.unlanded (c : Command) : List Landing :=
  if c.state == .taken then c.landing else if c.refetch then c.linear.landings else []

/-- A pending copy record. Log 29 (DESIGN CHOICE). -/
def Command.pendingRecord (c : Command) : List Byte :=
  bytesLe 8 c.num ++ bytesLe 8 (c.tl + 2 ^ 8 * (if (c.word 0).getLsbD 31 then 1 else 0) + 2 ^ 16 * bits (c.word 0) 32 16)
    ++ bytesLe 16 c.unlanded.length ++ c.unlanded.flatMap fun l => bytesLe 8 l.src ++ bytesLe 8 l.dst

/-- The length of a pending copy record. -/
def Command.recordSize (c : Command) : Nat := 32 + 16 * c.unlanded.length

/-- A copy into the Bed as a save cancels it: the lines that it has still to land are all to be moved again. -/
def Command.rewind (c : Command) : Command :=
  { c with
    next := 0
    landing := c.landing.map fun l => { Landing.start l.line l.src l.dst
        (if c.isRagged then 1 else c.linear.lineWords l.line) with shift := l.shift } }

/-- A header of a record that cannot be one: a W0 field, or another number of lines. -/
def Command.recordBad (c : Command) (l : List Byte) : Bool :=
  getLe l 8 1 / 16 != 0 || 1 < getLe l 9 1 || getLe l 12 4 != 0 || getLe l 16 16 != c.unlanded.length
    || (List.range c.unlanded.length).any fun i => getLe l (40 + 16 * i) 8 != ((c.unlanded.map (·.dst)).getD i 0)

/-- A pending copy read back from its record: its number, its timeline, its tag, its completion word, and where each of its
lines comes from. Log 29 (DESIGN CHOICE). -/
def Command.reload (c : Command) (l : List Byte) : Command :=
  let h := c.word 0 &&& ~~~BitVec.ofNat 64 (0xF * 2 ^ 56 + 0xFFFF * 2 ^ 32 + 2 ^ 31)
  let src (i : Nat) : Nat := getLe l (32 + 16 * i) 8
  { c with
    num := getLe l 0 8
    tl := getLe l 8 1
    words := (h ||| BitVec.ofNat 64 (getLe l 8 1 * 2 ^ 56 + getLe l 10 2 * 2 ^ 32 + getLe l 9 1 * 2 ^ 31))
      :: (if c.refetch && c.state == .pushed then c.words.tail.set 0 (BitVec.ofNat 64 (src 0)) else c.words.tail)
    landing := (List.range c.landing.length).filterMap fun i => c.landing[i]?.map fun m =>
      { m with src := src i, shift := m.shift + BitVec.ofNat 64 (src i) - BitVec.ofNat 64 m.src } }

/-! ### The engine (R225, R243, R363) -/

/-- The cells of the quarters as a frame holds them. -/
def Matrix.cellBytes (m : Matrix) (q : Nat) : List Byte :=
  (List.range 16384).flatMap fun c =>
    bytesLe 8 (sget 0 m.acc (16384 * q + c)).toNat ++ bytesLe 4 (sget 0 m.var (16384 * q + c)).toNat

/-- The plane format, quarter classes, team, CHECKED, RETRIED, and which sides the planes were loaded from. -/
def Matrix.stateBytes (m : Matrix) : List Byte :=
  bytesLe 8 m.meanFmt ++ bytesLe 8 ((List.range 4).foldl (fun a q => a + 2 ^ (8 * q) * sget 0 m.cls q) 0)
    ++ bytesLe 8 m.team ++ bytesLe 8 m.checked.toNat ++ bytesLe 8 m.retried
    ++ bytesLe 8 ((if m.west then 1 else 0) + if m.spreadWest then 2 else 0) ++ bytesLe 8 m.pairs ++ bytesLe 8 0

/-- The bytes of a plane as a tile. -/
def planeBytes (p : SMap Byte) (n : Nat) : List Byte := (List.range n).map fun k => sget 0 p k

/-- The bytes of the two planes in a frame. Log 29 (DESIGN CHOICE). -/
def meanPlaneSize : Nat := 0x8000

def spreadPlaneSize : Nat := 256 * spreadFootprint

/-- The segments of an engine's state. -/
def Matrix.segs (m : Matrix) : List (Nat × List Byte) :=
  ((List.range 4).map fun q => (0x300000 + 0x30000 * q, m.cellBytes q))
    ++ [(0x3C0000, planeBytes m.mean meanPlaneSize), (0x3C8000, planeBytes m.spread spreadPlaneSize),
      (0x3D0000, m.stateBytes)]

/-- A quarter's cells read back. -/
def Matrix.loadCells (m : Matrix) (q : Nat) (l : List Byte) : Matrix :=
  let a := l.toArray
  let at_ (c n k : Nat) : Nat := leBytes (slice a (12 * c + k) n)
  { m with
    acc := sfill 0 m.acc (16384 * q) 16384 fun c => BitVec.ofNat 56 (at_ c 7 0)
    var := sfill 0 m.var (16384 * q) 16384 fun c => BitVec.ofNat 32 (at_ c 4 8) }

def Matrix.loadState (m : Matrix) (l : List Byte) : Matrix :=
  { m with
    meanFmt := getLe l 0 8
    cls := sfill 0 [] 0 4 fun q => getLe l (8 + q) 1
    team := getLe l 0x10 8
    checked := BitVec.ofNat 32 (getLe l 0x18 4)
    retried := getLe l 0x20 8
    west := getLe l 0x28 8 % 2 == 1
    spreadWest := getLe l 0x28 8 / 2 % 2 == 1
    pairs := getLe l 0x30 8 }

/-- A pending matrix record: the word, the format word, the group, then the staged tiles. Log 29 (DESIGN CHOICE). -/
def MatInstr.record (i : MatInstr) : List Byte :=
  bytesLe 4 ((encode i.instr).headD 0).toNat ++ bytesLe 4 i.fmt.toNat ++ bytesLe 8 i.grp ++ i.tile ++ i.tile2

/-- A pending matrix instruction read back from its record, none where the word is no instruction. -/
def MatInstr.reload (i : MatInstr) (l : List Byte) : Option MatInstr :=
  (decodeWord (getLe l 0 4) 0).toOption.map fun w =>
    { i with
      instr := w
      fmt := BitVec.ofNat 32 (getLe l 4 4)
      grp := getLe l 8 8
      tile := (l.drop 16).take i.tile.length
      tile2 := (l.drop (16 + i.tile.length)).take i.tile2.length }

end Sys2Proof.Machine
end

