-- ==== Sys2Proof/Machine/Context.lean ====
section
/-!
DEFINITION. Context saves and restores (R103, R129, R146, R243, R264, R309, R360 to R364): the steps CONTEXT_SAVE and
CONTEXT_RESTORE.
-/

namespace Sys2Proof.Machine

/-! ### The stop (R364 step 1) -/

/-- The lanes of a word stand before the word that follows it. Log 30 (DESIGN CHOICE). -/
def Group.standAfter (y : Group) (lanes : Mask) (pc : Word) : Bool := (lanesOf lanes).all fun L => y.lanePc L == pc + 4

/-- A group back before a word that is abandoned, without its park. -/
def Group.undo (y : Group) (lanes : Mask) (pc : Word) (p : Park) : Group :=
  (y.withParks (y.parks.filter (· != p))).setPc lanes fun _ => pc

/-- A park at a FENCE or STR whose access has not begun, since its commit is not complete, is abandoned (R282). A word that
others of its set follow stays and is completed. Log 31 (DEDUCED). -/
def State.abandonRelease (s : State) (b g : Nat) (p : Park) : State :=
  let y := s.grp b g
  let k := (s.blk b).core
  match p.what with
  | .commit id _ _ (some f) =>
    if (s.blk b).committed id || !y.standAfter f.2 f.1 then s else s.updGrp b g fun y => y.undo f.2 f.1 p
  | .entry uid =>
    match s.entry k uid with
    | some a =>
      if !a.poc || a.begun != 0 || (a.fault ||| a.conf) != 0 || (s.blk b).committed a.after || !a.last
          || !y.standAfter a.act a.pc then s
      else (s.setLsb k ((s.lsb k).filter (·.uid != uid))).updGrp b g fun y => y.undo a.act a.pc p
    | none => s
  | _ => s

/-- The block's issue stops, and its team's with it. -/
def State.stopBlock (s : State) (b : Nat) : State :=
  let s1 := (s.updBlk b fun x => { x with saving := true }).postAll ((s.teamSet b).map .contextSave)
  (oitems (s1.blk b).groups).foldl (fun s g => g.2.parks.foldl (fun s p => s.abandonRelease b g.1 p) s) s1

/-! ### The Bed (R129, R146, R364 step 2) -/

/-- The copy that an event belongs to. -/
def eventCopy : Instr → Option Nat
  | .copyLinear c => some c
  | .copyRagged c => some c
  | .copyChunkFault c .. => some c
  | .bedLineLands _ _ c => some c
  | _ => none

/-- The copies into the Bed of a block that have lines to land, or have still to be taken, in the order of their numbers. -/
def State.pendingCopies (s : State) (b : Nat) : List (Nat × Command) :=
  (oitems s.cmds).filter fun c =>
    c.2.blk == b && c.2.toBed && (c.2.state == .pushed || (c.2.state == .taken && !c.2.landing.isEmpty))

/-- Once no copy has Bed bytes of the block to read, its lines are read, and age no more; its copies into the Bed are
cancelled, and what they have not landed is absent. -/
def State.takeBed (s : State) (b : Nat) : State :=
  let copies := (s.pendingCopies b).map (·.1)
  let s1 := copies.foldl (fun s c => s.updCmd c Command.rewind) (s.updBlk b fun x => { x with bedTaken := true, paused := true })
  { s1 with agenda := s1.agenda.filter fun i => !((eventCopy i).any copies.contains) }

/-- A copy has still to read Bed bytes of the block. -/
def State.bedRead? (s : State) (b : Nat) : Bool := (oitems s.cmds).any fun c => c.2.blk == b && c.2.reading

/-! ### When a stopped block can be saved (R364 steps 3 and 4) -/

/-- A wait's read that has begun and can go on: LDA is completed before the save (R282). -/
def State.readsOn (s : State) (w : Await) : Bool :=
  match w with
  | .lda a _ =>
    (a.fault ||| a.conf) == 0 && (lanesOf a.wait).any fun L => !behindFault (s.lsb (s.blk a.blk).core) a L
  | _ => false

/-- The engine works on an instruction of the block. One that waits for its pair has not begun. -/
def State.mxBusy (s : State) (b : Nat) : Bool :=
  match (s.mxOf b).exec with
  | some i => i.blk == b && (i.pair == 0 || (s.broadcast b i).isSome)
  | none => false

/-- The outstanding results of a stopped block are written, its loads and store buffer entries have ended or have their
faults ready, and no pass of its engine runs. Log 80 (DEDUCED). -/
def State.settled (s : State) (b : Nat) : Bool :=
  let x := s.blk b
  let l := s.lsb x.core
  ((oitems x.groups).all fun g =>
      g.2.outs.isEmpty && (g.2.loads.all fun a => a.reqs.all fun r => r.returned || reqExcused l g.2.loads a r)
        && !g.2.waitsFor fun w => w.inFlight || s.readsOn w)
    && (l.all fun a => a.blk != b || (lanesOf (a.wait &&& ~~~(a.fault ||| a.conf))).all (behindFault l a))
    && !s.mxBusy b

/-- A COMMIT or a FENCE that goes on to its end before the save. -/
def Await.isCommit : Await → Bool
  | .commit .. => true
  | .flush _ => true
  | _ => false

/-- What the block held is committed, and no COMMIT or FENCE of it is left. -/
def State.quiet (s : State) (b : Nat) : Bool :=
  let x := s.blk b
  s.settled b && x.held.isEmpty && x.commits.isEmpty && (oitems x.groups).all fun g => !g.2.waitsFor Await.isCommit

/-! ### What a save abandons -/

/-- A park as a save leaves it (R146, R263, R282, R301, R337): a word that had not issued, or a wait that has no fault to
deliver and no word of its set after it, issues afresh; any other park stands. Log 30 (DESIGN CHOICE), 31 (DEDUCED). -/
def Group.saveParks (y : Group) : List Park → Group
  | [] => y
  | p :: t =>
    let z := y.saveParks t
    let keep : Group := z.withParks (p :: z.parks)
    let afresh (a : Access) : Bool := (a.fault ||| a.conf) == 0 && a.last && y.standAfter a.act a.pc
    let back (a : Access) : Group := z.setPc a.act fun _ => a.pc
    match p.what with
    | .reissue => z
    | .nothing => z
    | .lines _ => z
    | .queue .. => z
    | .plot .. => z
    | .waitc a .. => if (a.fault ||| a.conf) == 0 then z else keep
    | .lda a _ => if afresh a then a.markPending (back a) false else keep
    | .waitm a _ => if afresh a then a.markPending (back a) false else keep
    | .maskw a q .. => if afresh a then (back a).setPending .p q false else keep
    | _ => keep

/-- The parks of a group as a save leaves them. -/
def Group.parkForSave (y : Group) : Group := ({ y.withParks [] with waitOk := false }).saveParks y.parks

/-- A MASKW that a save has interrupted counts its timeout anew (R101, R301). -/
def Park.afresh (now : Nat) (p : Park) : Park :=
  match p.what with
  | .maskw a q n (some due) => { p with what := .maskw a q n (some (due.1, now + due.1)) }
  | _ => p

/-- The parks of a restored group. -/
def Group.parksAfresh (y : Group) (now : Nat) : Group :=
  { y with
    park := y.park.map (Park.afresh now), more := y.more.map (Park.afresh now)
    kept := y.kept.map (Park.afresh now), keptMore := y.keptMore.map (Park.afresh now) }

/-- The block that an event belongs to, for the events that a save does away with. -/
def eventBlk : Instr → Option Nat
  | .lineRequest b .. => some b
  | .loadDataReturn b .. => some b
  | .variableLatencyResultWrite b .. => some b
  | .deferredFaultDelivery b _ => some b
  | .translateProbe b .. => some b
  | .probeReply b .. => some b
  | .atomicPerform b .. => some b
  | .commitMerge b .. => some b
  | .waitReread b _ => some b
  | .groupUnpark b _ => some b
  | .cancellationTrap b _ => some b
  | .capsuleStep b _ => some b
  | .maskwTimeout b _ => some b
  | .lineExpiry b _ => some b
  | .contextSave b => some b
  | .timeSliceExpiry b => some b
  | _ => none

/-! ### The accesses that a group's records hold (R362) -/

/-- The store buffer entries of a block that belong to a group and have no fault ready. -/
def Group.openEntries (y : Group) (l : List Access) (g : Nat) : List Access :=
  l.filter fun a => a.grp == g && !y.faultLeft a.seq

/-- An entry put into a list in the order of its number, after those of the same number. -/
def insertByNum (x : Nat × α) : List (Nat × α) → List (Nat × α)
  | [] => [x]
  | y :: t => if x.1 < y.1 then x :: y :: t else y :: insertByNum x t

/-- The accesses that have records: the ready faults, the loads in flight, the store buffer entries. -/
def Group.recorded (y : Group) (opens : List Access) : List (Nat × Option Access) :=
  (y.ready.map fun f => (f.seq, f.acc)) ++ (y.loads.map fun a => (a.seq, some a)) ++ opens.map fun a => (a.seq, some a)

/-- The places of recorded accesses in issue order (R362). -/
def issueOrder (l : List (Nat × Option Access)) : List Nat :=
  ((List.range l.length).foldl (fun m i => insertByNum (((l.map (·.1)).getD i 0), i) m) []).map (·.2)

/-- The records from 1 on, in issue order. -/
def Group.records (y : Group) (l : List Access) (g : Nat) : List (List Byte) :=
  let all := y.recorded (y.openEntries l g)
  (issueOrder all).map fun i => match (all.map (·.2)).getD i none with
    | some a => a.record
    | none => bytesLe 1024 0

/-! ### CONTEXT_SAVE -/

/-- The segments of a group's frame, with SAVED still zero. -/
def Group.saveSegs (y : Group) (l : List Access) (g : Nat) : List (Nat × List Byte) :=
  let r := y.records l g
  y.saveHeader false (r.length + if y.record0.isSome then 1 else 0) ++ y.imageSegs y.tableBytes
    ++ (List.range r.length).map fun i => (0x6400 + 0x400 * i, r.getD i [])

/-- The header's first word, with SAVED set. -/
def Group.savedSeg (y : Group) : List (Nat × List Byte) := ((y.saveHeader true 0).map fun h => (h.1, h.2.take 8)).take 1

/-- The Bed, the copies and the engine of a block as its frame has them (R364 steps 2 and 3). -/
def State.blockSegs (s : State) (b : Nat) : List (Nat × List Byte) :=
  let m := s.mxOf b
  (s.blk b).bedSegs
    ++ [(0x1000, ((s.pendingCopies b).flatMap fun c => c.2.pendingRecord) ++ bytesLe 32 0)]
    ++ (if m.owner = some b then (m.queue.take 1).map (fun i => (0x40000, i.record)) ++ m.segs else [])

/-- The frames of the groups of a block written, and before them a part of its own. -/
def State.writeGroups (s : State × Bool) (P : Party) (groups : List (Nat × Group))
    (f : Nat → Group → List (Nat × List Byte)) : State × Bool :=
  groups.foldl
    (fun r g =>
      if g.2.ended || !r.2 then r
      else
        let t := r.1.writeSegs P g.2.frame.toNat (f g.1 g.2)
        (t.1, t.2 == 0)) s

/-- The frames of a block written in the order of R364, SAVED last; false where one cannot be. -/
def State.writeFrames (s : State) (b : Nat) : State × Bool :=
  let x := s.blk b
  let P := s.partyOf b
  let l := (s.lsb x.core).filter (·.blk == b)
  let r := s.writeSegs P x.bframe.toNat (s.blockSegs b)
  let t := State.writeGroups (r.1, r.2 == 0) P (oitems x.groups) fun g y => y.saveSegs l g
  let u := if t.2 then t.1.writeSegs P x.bframe.toNat [(0, x.frameBytes)] else (t.1, 1)
  State.writeGroups (u.1, u.2 == 0) P (oitems x.groups) fun _ y => y.savedSeg

/-- A saved block leaves its core: its entries and staged matrix instructions are set aside, and its events are done away
with. Log 30 (DESIGN CHOICE). -/
def State.leaveCore (s : State) (b : Nat) : State :=
  let x := s.blk b
  let mine := (s.lsb x.core).filter (·.blk == b)
  let m := s.mxOf b
  let s1 := s.setLsb x.core ((s.lsb x.core).filter (·.blk != b))
  let s2 := s1.updBlk b fun x => { x with
    life := .saved
    saving := false
    bedTaken := false
    since := s.cycles.toNat
    stash := mine
    stashSieve := x.sieve
    stashMx := if m.owner = some b then m.queue else []
    ownedMx := m.owner == some b
    keptMx := if m.owner = some b then { m with exec := none, staged := none } else Matrix.zero }
  let s3 := s2.dropMatrix b
  { s3 with agenda := s3.agenda.filter fun i => eventBlk i != some b }

/-- A stopped block whose work has ended is saved (R364). Log 30 (DESIGN CHOICE). -/
def State.performSave (s : State) (b : Nat) : State :=
  let s1 := (oitems (s.blk b).groups).foldl (fun s g => s.updGrp b g.1 Group.parkForSave) s
  let r := s1.writeFrames b
  if r.2 then (r.1.leaveCore b).freePlace b true
  else (r.1.updBlk b fun x => { x with saving := false, bedTaken := false }).hwError b 7

/-- Every capsule lane of a stopped block descheduled, once no step of it is in flight (R309, R364 step 1). -/
def State.descheduleAll (s : State) (b : Nat) : State :=
  if (oitems (s.blk b).groups).any fun g => g.2.waitsFor Await.inFlight then s
  else (oitems (s.blk b).groups).foldl (fun s g => s.deschedule b g.1) s

/-- The parts of a save in their order (R364): its capsules are descheduled; its copies out of the Bed have read; its results
and entries have ended; what it holds is committed, once. -/
def State.goSave (s0 : State) (b : Nat) : State :=
  let s := if (s0.blk b).bedTaken then s0 else s0.descheduleAll b
  if !(s.blk b).bedTaken && (s.bedRead? b || (oitems (s.blk b).groups).any fun g => g.2.waitsFor Await.inFlight) then
    s.postOnce (.contextSave b)
  else
    let s1 := if (s.blk b).bedTaken then s else s.takeBed b
    if s1.settled b && !(s1.blk b).held.isEmpty then (s1.startCommit b false).postOnce (.contextSave b)
    else if s1.quiet b then s1.performSave b
    else s1.postOnce (.contextSave b)

/-- CONTEXT_SAVE: the block's issue stops, and its team's with it; it is saved once its work has ended.
Log 32 (DEDUCED). -/
def State.contextSave (s : State) (b : Nat) : State :=
  let x := s.blk b
  if x.life != .resident || x.job.isSome then s else (if x.saving then s else s.stopBlock b).goSave b

/-- CONTEXT_SAVE (R364). -/
def execContextSave (blk : Nat) (s : State) : Host.Outcome State Fault Refusal := .next (s.contextSave blk)

/-! ### Reading frames -/

/-- n bytes of a frame, none where they cannot be read. -/
def State.readFrame (s : State) (space : Nat) (va : Word) (n : Nat) : State × Option (List Byte) :=
  let r := s.vreadBytes space va.toNat (lineFuel n) n
  (r.1, if r.2.1 = 0 then some r.2.2 else none)

/-- What a frame read has come to: the state, and the thing read; `unreadable` or `bad` where it failed. -/
inductive Got (α : Type) where
  | ok (a : α)
  | unreadable
  | bad
  deriving DecidableEq, Repr

/-- The Bed lines of the live plots read back. A line that is saved as expired has no data (R129).
Log 43 (DESIGN CHOICE). -/
def State.readBed (s : State) (x : Block) : List Nat → State × Got Block
  | [] => (s, .ok x)
  | n :: t =>
    let m := s.readFrame x.space (x.bframe + BitVec.ofNat 64 (0x80000 + 16 * n)) 16
    match m.2 with
    | none => (m.1, .unreadable)
    | some l =>
      let w := wordAt l 8
      if bits w 63 1 != 0 || bits w 6 55 != 0 then (m.1, .bad)
      else
        let x1 := x.setBedLine n ⟨bits w 0 6, !w.getLsbD 62, if w.getLsbD 61 then some (wordAt l 0) else none⟩
        if x1.expired n then { m.1 with free := m.1.free + 32 }.readBed (x1.fade n m.1.free) t
        else
          let d := m.1.readFrame x.space (x.bframe + BitVec.ofNat 64 (0x100000 + 256 * n)) 256
          match d.2 with
          | none => (d.1, .unreadable)
          | some l => d.1.readBed { x1 with bed := sfill 0 x1.bed (256 * n) 256 fun k => l.getD k 0 } t

/-- The block frame read back. -/
def State.readBlockFrame (s : State) (x : Block) : State × Got Block :=
  let r := s.readFrame x.space x.bframe 0x1000
  match r.2 with
  | none => (r.1, .unreadable)
  | some l =>
    let x1 := x.loadFrame l
    r.1.readBed { x1 with bed := [], bedMeta := [] } x1.savedLines

/-- Part of a block's frame read. -/
def State.frameSeg (s : State) (x : Block) (off n : Nat) : State × Option (List Byte) :=
  s.readFrame x.space (x.bframe + BitVec.ofNat 64 off) n

/-- The cells of the engine's quarters read back. -/
def State.readCells (s : State) (x : Block) (m : Matrix) (qs : List Nat) : State × Option Matrix :=
  qs.foldl
    (fun (r : State × Option Matrix) q =>
      match r.2 with
      | none => r
      | some m =>
        let t := r.1.frameSeg x (0x300000 + 0x30000 * q) 0x30000
        (t.1, t.2.map (m.loadCells q))) (s, some m)

/-- The engine with the planes and the state word that have been read. -/
def Matrix.withPlanes (m : Matrix) (p v w : List Byte) : Matrix :=
  { m.loadState w with
    mean := sfill 0 [] 0 meanPlaneSize fun k => p.getD k 0, spread := sfill 0 [] 0 spreadPlaneSize fun k => v.getD k 0 }

/-- The engine of parts that have been read, or not. -/
def engineOfParts (m : Option Matrix) (p v w : Option (List Byte)) : Got Matrix :=
  match m, p, v, w with
  | some m, some p, some v, some w => .ok (m.withPlanes p v w)
  | _, _, _, _ => .unreadable

/-- The engine's state read back. -/
def State.readEngine (s : State) (x : Block) (m : Matrix) : State × Got Matrix :=
  let cells := s.readCells x m [0, 1, 2, 3]
  let p := cells.1.frameSeg x 0x3C0000 meanPlaneSize
  let v := p.1.frameSeg x 0x3C8000 spreadPlaneSize
  let c := v.1.frameSeg x 0x3D0000 64
  (c.1, engineOfParts cells.2 p.2 v.2 c.2)

/-- Records from number i on read, n of them. -/
def State.readRecords (s : State) (space : Nat) (frame : Word) : (n i : Nat) → State × Option (List (List Byte))
  | 0, _ => (s, some [])
  | n + 1, i =>
    let r := s.readFrame space (frame + BitVec.ofNat 64 (0x6000 + 0x400 * i)) 0x400
    match r.2 with
    | none => (r.1, none)
    | some l =>
      let u := r.1.readRecords space frame n (i + 1)
      (u.1, u.2.map (l :: ·))

/-- The recorded accesses with what their records now hold. -/
def reloaded (all : List (Nat × Option Access)) (recs : List (List Byte)) : List (Option Access) :=
  (List.range all.length).map fun i =>
    ((all.map (·.2)).getD i none).map fun a => a.reload (recs.getD ((issueOrder all).idxOf i) [])

/-- A group read back, with the store buffer entries of its block that are its own. -/
def State.readGroup (s : State) (x : Block) (g : Nat) (y : Group) : State × Got (Group × List Access) :=
  let r := s.readFrame x.space y.frame imageSize
  match r.2 with
  | none => (r.1, .unreadable)
  | some l =>
    let w := wordAt l 0
    let table := (l.drop 0x100).take 256
    if headerBad l || !w.getLsbD 3 || tableBad table then (r.1, .bad)
    else
      let opens := y.openEntries x.stash g
      let all := y.recorded opens
      let q := r.1.readRecords x.space y.frame all.length 1
      match q.2 with
      | none => (q.1, .unreadable)
      | some l2 =>
        let recs := reloaded all l2
        let y1 := (((y.loadImage l).loadHeader l (l.drop 0x5000)).loadPending l).loadTable table
        let y2 : Group := if w.getLsbD 1 then { y1.clearTrapPending with level := true } else { y1 with level := false }
        let ready := (List.range y.ready.length).filterMap fun i =>
          y.ready[i]?.map fun f => { f with acc := recs.getD i none }
        let k := y.ready.length + y.loads.length
        (q.1, .ok ({ y2 with ready := ready },
          (x.stash.filter (·.grp == g)).map fun a => (((recs.drop k).filterMap id).find? (·.uid == a.uid)).getD a))

/-- The groups of a block read back. Log 33 (DEDUCED). -/
def State.readGroups (s : State) (x : Block) : List (Nat × Group) → State × Got (OMap Group × List Access)
  | [] => (s, .ok ([], []))
  | (g, y) :: t =>
    if y.ended then
      let u := s.readGroups x t
      (u.1, match u.2 with | .ok p => .ok ((g, some y) :: p.1, p.2) | r => r)
    else
      let r := s.readGroup x g y
      match r.2 with
      | .unreadable => (r.1, .unreadable)
      | .bad => (r.1, .bad)
      | .ok (y1, l) =>
        let u := r.1.readGroups x t
        (u.1, match u.2 with | .ok p => .ok ((g, some y1) :: p.1, l ++ p.2) | r => r)

/-! ### Pending copies and matrix instructions read back (R146, R243) -/

/-- The pending copies with what their records, from an offset of the frame on, now hold; those that the zero header comes
before are gone. Log 29 (DESIGN CHOICE). -/
def State.readPending (s : State) (x : Block) (off : Nat) : List (Nat × Command) → State × Got (List (Nat × Option Command))
  | [] => (s, .ok [])
  | (n, c) :: t =>
    let r := s.frameSeg x off c.recordSize
    match r.2 with
    | none => (r.1, .unreadable)
    | some l =>
      if (l.take 32).all (· == 0) then (r.1, .ok (((n, c) :: t).map fun p => (p.1, none)))
      else if c.recordBad l then (r.1, .bad)
      else
        let u := r.1.readPending x (off + c.recordSize) t
        (u.1, match u.2 with
          | .ok m => .ok ((n, some (c.reload l)) :: m)
          | e => e)

/-- The pending matrix instructions, the first as its record now holds it. -/
def State.readMatrix (s : State) (x : Block) : State × Got (List MatInstr) :=
  match x.stashMx with
  | [] => (s, .ok [])
  | i :: t =>
    let r := s.frameSeg x 0x40000 i.record.length
    match r.2 with
    | none => (r.1, .unreadable)
    | some l =>
      (r.1, match i.reload l with
        | some j => .ok (j :: t)
        | none => .bad)

/-- The commands of a block with some of them read back. -/
def State.putCommands (s : State) (l : List (Nat × Option Command)) : State :=
  { s with cmds := l.foldl (fun m p => match p.2 with | some c => oset m p.1 c | none => odel m p.1) s.cmds }

/-! ### CONTEXT_RESTORE -/

/-- A group goes on after a handler or a restore: its capsule by R310, its waits' reads, and what waited for its
boundary. -/
def State.resumeGroup (s : State) (b g : Nat) : State :=
  let y := s.grp b g
  if y.ended then s
  else
    let r := if y.level || y.cap.isNone then (s, false) else s.resumeCapsule b g
    let s1 := if r.2 then
        r.1.updGrp b g fun y => { y with
          kept := y.park, keptMore := y.more, park := some ⟨.wait, .capsule ((y.cap.map (·.lane)).getD 0)⟩, more := [] }
      else r.1
    let z := s1.gridOf b
    ((s1.postOnce (.waitReread b g)).postAll (if y.ready.isEmpty then [] else [.deferredFaultDelivery b g])).postAll
      (if z.cancelled && z.ctrap then [.cancellationTrap b g] else [])

/-- The requests that a group's loads have still to make sent again. -/
def State.resumeLoads (s : State) (b g : Nat) : State :=
  s.postAll ((s.grp b g).loads.flatMap fun a =>
    (a.reqs.filter fun q => !q.served).map fun q => .lineRequest b g a.uid q.line)

/-- The store buffer entries of a restored block sent again. -/
def State.resumeEntries (s : State) (b : Nat) : State :=
  let k := (s.blk b).core
  let mine := (s.lsb k).filter (·.blk == b)
  (s.settleStores k).postAll (mine.flatMap fun a =>
    let open_ := a.wait &&& ~~~(a.fault ||| a.conf)
    if a.kind = 3 then (lanesOf open_).map fun L => .atomicPerform b a.uid L
    else if a.poc then a.reqs.map fun r => .translateProbe b a.uid r.line
    else [])

/-- The pending matrix record run, or put back to wait for its pair (R243 step 5). -/
def State.resumeMatrix (s : State) (b : Nat) (l : List MatInstr) : State :=
  match l with
  | [] => s
  | i :: t =>
    if i.pair = 0 && t.isEmpty then s.runMatrix i i.tile i.tile2
    else (s.updMx b fun m => { m with exec := some i, staged := t.head? }).postOnce (.matrixExecute (s.blk b).core)

/-- The copies of a restored block go on, and the completions that were held are applied, each with its word and its
number, before a word issues (R146). -/
def State.resumeCommands (s : State) (b : Nat) : State :=
  let held := ((oitems s.cmds).filter fun c => c.2.blk == b && c.2.state == .held)
  (held.foldl (fun s c => if c.2.stat = rejectedStat then s.rejectCommand c.1
      else (s.completeCommand c.1).completeCommand c.1) s).postAll
    ((s.pendingCopies b).map fun c => if c.2.isRagged then .copyRagged c.1 else .copyLinear c.1)

/-- A block whose frames have been read is on its core again. -/
def State.takeCore (s : State) (b k : Nat) (x : Block) (groups : OMap Group) (entries : List Access) (m : Matrix) :
    State :=
  let quads := (s.updBlk b fun z => { z with groups := [] }).placeGroups k (groups.map (·.1))
  let groups1 : OMap Group := groups.map fun kv => (kv.1, kv.2.map fun y =>
    { y.parksAfresh s.cycles.toNat with
      quadrant := ((quads.find? (·.1 == kv.1)).map (·.2)).getD 0
      active := false
      bornAt := s.fresh + kv.1
      parkedAt := s.cycles.toNat })
  let x1 : Block := { x with groups := groups1, stash := [], stashMx := [], ownedMx := false }
  let s1 : State := { s.updCore k (fun c => { c with sliced := false }) with fresh := s.fresh + groups.length + 128 }
  let s2 := (s1.setBlk b x1).setLsb k (s1.lsb k ++ entries)
  let s3 := if x.ownedMx then s2.updMx b fun _ => { m with owner := some b } else s2
  let s4 := ((s3.resumeMatrix b x.stashMx).resumeCommands b).resumeEntries b
  groups.foldl (fun s kv => (s.resumeLoads b kv.1).resumeGroup b kv.1) s4

/-- A saved block is read back onto a core (R364). One whose frame another block of its logical core has used since has its
saved state kept aside (R321). Log 30 (DESIGN CHOICE). -/
def State.restoreBlock (s : State) (b k : Nat) : State :=
  let aside := (s.blk b).displaced
  let s0 := ((s.updBlk b fun x => { x with
    life := .resident
    core := k
    since := s.cycles.toNat
    paused := true
    displaced := false }).displaceOthers b).acquire b 4
  let fail (t : State) (bad : Bool) : State := if bad then t.endBlock b .failed 7 else t.hwError b 7
  if aside then
    let x := s0.blk b
    s0.takeCore b k x (x.groups.map fun kv => (kv.1, kv.2.map fun y => { y with yielded := 0 })) x.stash x.keptMx
  else
  let r := s0.readBlockFrame (s0.blk b)
  match r.2 with
  | .unreadable => fail r.1 false
  | .bad => fail r.1 true
  | .ok x =>
    let e := if x.ownedMx then r.1.readEngine x { Matrix.zero with sent := x.keptMx.sent } else (r.1, .ok Matrix.zero)
    match e.2 with
    | .unreadable => fail e.1 false
    | .bad => fail e.1 true
    | .ok m =>
      let q := e.1.readGroups x (oitems x.groups)
      match q.2 with
      | .unreadable => fail q.1 false
      | .bad => fail q.1 true
      | .ok (groups, entries) =>
        let c := q.1.readPending x 0x1000 (q.1.pendingCopies b)
        match c.2 with
        | .unreadable => fail c.1 false
        | .bad => fail c.1 true
        | .ok cmds =>
          let p := c.1.readMatrix x
          match p.2 with
          | .unreadable => fail p.1 false
          | .bad => fail p.1 true
          | .ok mats => (p.1.putCommands cmds).takeCore b k { x with stashMx := mats } groups entries m

/-- What the members of a team set beside one that is restored do with it (R320): those whose blocks are saved are restored,
and those that have a block to start, start it. Log 58 (DEDUCED). -/
def State.restoreMates (s : State) (n l : Nat) : State :=
  (s.seatsOf n l).foldl
    (fun s p =>
      if p.1 = l then s
      else
        match s.turnOf n p.1 with
        | .resume b => s.restoreBlock b p.2
        | .start id r => s.startTurn n p.1 id r p.2
        | _ => s) s

/-- A saved block of a team set waits for the engine of the core where it is to be restored (R243). -/
def State.engineTaken (s : State) (n l : Nat) : Bool :=
  (s.seatsOf n l).any fun p =>
    match s.turnOf n p.1 with
    | .resume b => (s.blk b).ownedMx && (s.core p.2).mx.owner.isSome
    | _ => false

/-- CONTEXT_RESTORE: onto a core where the block fits, once that core's engine is free if it needs one (R243), and with the
block the rest of its team set (R320). Log 32 (DEDUCED). -/
def State.contextRestore (s : State) (b k : Nat) : State :=
  let x := s.blk b
  if x.life != .saved || (oget s.grids x.grid).isNone then s
  else if !s.mayUse x.grid k || !s.fits x.grid k || !s.setFits x.grid x.lcore then s.postOnce (.blockStart x.grid x.lcore)
  else if (x.ownedMx && (s.core k).mx.owner.isSome) || s.engineTaken x.grid x.lcore then s.post (.contextRestore b k)
  else (s.restoreBlock b k).restoreMates x.grid x.lcore

/-- CONTEXT_RESTORE (R364). -/
def execContextRestore (blk core : Nat) (s : State) : Host.Outcome State Fault Refusal :=
  .next (s.contextRestore blk core)

end Sys2Proof.Machine
end

