-- ==== Sys2Proof/Machine/Control.lean ====
section
/-!
DEFINITION. The control instructions but ERET (15_control_flow.md, R338, R353, R358).
-/

namespace Sys2Proof.Machine

/-- The target of a label: 4·(N + 1 + off16), N the word's own index (R22). -/
def branchTarget (wpc : Word) (o : BitVec 16) : Word := wpc + 4 + o.signExtend 64 * 4

/-- A uniform branch whose guard holds in some lanes of the head run and not in all (R289). -/
def notUniform (I : Issue) (h : BitVec 2) : Bool := h == 3 && I.act != 0 && I.act != I.run

/-- The uniformity trap (R289). -/
def uniformTrap (I : Issue) : Trap := I.trapOf 7 (errDetail 5 I.act I.word 0 0) []

/-- Active lanes moved to their targets (R285). -/
def jump (I : Issue) (s : State) (f : Nat → Word) : State := s.updGrp I.b I.g fun y => y.setPc I.act f

/-- The link written to v31 of every active lane (R290). -/
def link (I : Issue) (s : State) : State := I.setV s 31 fun _ => (I.next, 0)

/-- BRA (R291). -/
def execBra (h : BitVec 2) (g : BitVec 4) (o : BitVec 16) (s : State) : Host.Outcome State Fault Refusal :=
  issueWord (.bra h g o) s fun I s =>
    if notUniform I h then I.trap s (uniformTrap I) else jump I s fun _ => branchTarget I.wpc o

/-- BRX (R291). -/
def execBrx (a : BitVec 5) (g : BitVec 4) (s : State) : Host.Outcome State Fault Refusal :=
  issueWord (.brx a g) s fun I s => jump I s fun L => I.G.rv a.toNat L

/-- CALL (R291). -/
def execCall (h : BitVec 2) (g : BitVec 4) (o : BitVec 16) (s : State) : Host.Outcome State Fault Refusal :=
  issueWord (.call h g o) s fun I s =>
    if notUniform I h then I.trap s (uniformTrap I) else jump I (link I s) fun _ => branchTarget I.wpc o

/-- CALLX (R291): the target is read before v31 is written. -/
def execCallx (a : BitVec 5) (g : BitVec 4) (s : State) : Host.Outcome State Fault Refusal :=
  issueWord (.callx a g) s fun I s => jump I (link I s) fun L => I.G.rv a.toNat L

/-- RET (R290). -/
def execRet (g : BitVec 4) (s : State) : Host.Outcome State Fault Refusal :=
  issueWord (.ret g) s fun I s => jump I s fun L => I.G.rv 31 L

/-- A result, a load in a load slot or a store buffer entry from before the set still keeps the last EXIT waiting
(R292). -/
def exitWaits (I : Issue) (s : State) : Bool :=
  !I.G.outs.isEmpty || I.G.slots != 0 || (s.entriesOf I.b I.g).any (fun a => decide (a.uid < I.before))
    || (s.matrixOut I.b I.g).any fun m => decide (m.uid < I.before)

/-- EXIT (R292). -/
def execExit (g : BitVec 4) (s : State) : Host.Outcome State Fault Refusal :=
  issueWord (.exit g) s fun I s =>
    if I.act == 0 then s
    else if (s.grp I.b I.g).live &&& ~~~I.act == 0 then
      if exitWaits I s then I.block s .switch
      else (s.updGrp I.b I.g fun y => { y with live := 0, yielded := 0 }).endGroup I.b I.g
    else s.updGrp I.b I.g fun y => { y with live := y.live &&& ~~~I.act, yielded := y.yielded &&& ~~~I.act }

/-- YIELD (R293). -/
def execYield (g : BitVec 4) (s : State) : Host.Outcome State Fault Refusal :=
  issueWord (.yield g) s fun I s =>
    if I.act == 0 then s
    else (s.updGrp I.b I.g fun y => { y with yielded := y.yielded ||| I.act }).parkOn I.b I.g .yield .nothing

/-- NOP (R291). -/
def execNop (g : BitVec 4) (s : State) : Host.Outcome State Fault Refusal := issueWord (.nop g) s fun _ s => s

/-- TRAP (R358, R352). -/
def execTrap (i : BitVec 12) (s : State) : Host.Outcome State Fault Refusal :=
  issueWord (.trap i) s fun I s =>
    if I.act == 0 then s
    else I.trapAfter s 0x0B (BitVec.ofNat 96 (I.act.toNat + 2 ^ 32 + 2 ^ 40 * i.toNat))

/-- BKPT (R294, R352). -/
def execBkpt (g : BitVec 4) (s : State) : Host.Outcome State Fault Refusal :=
  issueWord (.bkpt g) s fun I s =>
    if I.act == 0 then s
    else I.trapAfter s 0x0C (BitVec.ofNat 96 (I.act.toNat + 2 ^ 32 + 2 ^ 40 * bits I.wpc 0 52))

/-- The detail of an arithmetic trap (R352). -/
def arithDetail (flags en : Flags) (run : Mask) : BitVec 96 :=
  BitVec.ofNat 96 (run.toNat + 2 ^ 32 + 2 ^ 40 * (flags &&& en).toNat + 2 ^ 48 * flags.toNat)

/-- The check of TFENCE once every outstanding result is there (R353). -/
def State.checkFlags (s : State) (b g : Nat) (run : Mask) (next : Word) : State :=
  let y := s.grp b g
  if !y.level && y.flags &&& y.flagen != 0 then
    s.takeTrap b g ⟨5, arithDetail y.flags y.flagen run, next, run, [], none⟩
  else s

/-- TFENCE (R353). -/
def execTfence (g : BitVec 4) (s : State) : Host.Outcome State Fault Refusal :=
  issueWord (.tfence g) s fun I s =>
    if I.act == 0 then s
    else if s.waiting I.b I.g then s.parkOn I.b I.g .switch (.tfence I.run I.next)
    else s.checkFlags I.b I.g I.run I.next

/-- CANCK (R338); 0 in a Pruner job. -/
def execCanck (p : BitVec 7) (s : State) : Host.Outcome State Fault Refusal :=
  issueWord (.canck p) s fun I s =>
    I.setP s p.toNat
      (if (s.blk I.b).job.isNone && (s.gridOf I.b).cancelled then BitVec.allOnes 32 else 0)

end Sys2Proof.Machine
end

