-- ==== Sys2Proof/Machine/FloatOps.lean ====
section
/-!
DEFINITION. Arithmetic on distributions and the special functions (10_distribution_arithmetic.md): one meaning for
each instruction over the lane operations of Dist.lean.
-/

namespace Sys2Proof.Machine

/-- The LFSR that a lane's SR rounding steps: as the words of the set before this one left it (R47).
Log 74 (DEDUCED). -/
def lfsrOf (I : Issue) (s : State) (L : Nat) : Word32 := (s.grp I.b I.g).lf L

/-- The spread mode an SM field names, SMODE read from before the set (R182, R159). -/
def modeOf (I : Issue) (sm : BitVec 2) : SMode := effMode sm I.G.smode

/-- A variable-latency result with an SR step; the LFSR steps at issue (R205). -/
def laterF (I : Issue) (s : State) (d : BitVec 5) (sr : Bool) (f : Nat → LaneOut) : State :=
  let s1 := I.laterV s d fun L => ((f L).val, (f L).flags)
  if sr then s1.updGrp I.b I.g fun y => y.setLf I.act fun L => (f L).lfsr else s1

/-- A special function (R203). -/
def specialOf (I : Issue) (s : State) (d a : BitVec 5) (m : BitVec 2) (f : SpecialFn) : State :=
  I.laterV s d fun L =>
    let r := laneSpecial f (modeOf I m) 0 (I.G.rv a.toNat L)
    (r.val, r.flags)

/-- FADD (R189). -/
def execFadd (d a b : BitVec 5) (m : BitVec 3) (g : BitVec 4) (s : State) : Host.Outcome State Fault Refusal :=
  issueWord (.fadd d a b m g) s fun I s =>
    I.setF s d (m.getLsbD 0) fun L =>
      laneAdd (modeOf I (m.extractLsb' 1 2)) (m.getLsbD 0) (lfsrOf I s L) (I.G.rv a.toNat L) (I.G.rv b.toNat L)

/-- FSUB (R189). -/
def execFsub (d a b : BitVec 5) (m : BitVec 3) (g : BitVec 4) (s : State) : Host.Outcome State Fault Refusal :=
  issueWord (.fsub d a b m g) s fun I s =>
    I.setF s d (m.getLsbD 0) fun L =>
      laneSub (modeOf I (m.extractLsb' 1 2)) (m.getLsbD 0) (lfsrOf I s L) (I.G.rv a.toNat L) (I.G.rv b.toNat L)

/-- FMUL (R189). -/
def execFmul (d a b : BitVec 5) (m : BitVec 3) (g : BitVec 4) (s : State) : Host.Outcome State Fault Refusal :=
  issueWord (.fmul d a b m g) s fun I s =>
    I.setF s d (m.getLsbD 0) fun L =>
      laneMul (modeOf I (m.extractLsb' 1 2)) (m.getLsbD 0) (lfsrOf I s L) (I.G.rv a.toNat L) (I.G.rv b.toNat L)

/-- FDIV (R189). -/
def execFdiv (d a b : BitVec 5) (m : BitVec 3) (g : BitVec 4) (s : State) : Host.Outcome State Fault Refusal :=
  issueWord (.fdiv d a b m g) s fun I s =>
    laterF I s d (m.getLsbD 0) fun L =>
      laneDiv (modeOf I (m.extractLsb' 1 2)) (m.getLsbD 0) (lfsrOf I s L) (I.G.rv a.toNat L) (I.G.rv b.toNat L)

/-- FFMA (R190). -/
def execFfma (d a b e : BitVec 5) (n : BitVec 2) (s : State) : Host.Outcome State Fault Refusal :=
  issueWord (.ffma d a b e n) s fun I s =>
    I.setF s d false fun L => laneFma (modeOf I n) 0 (I.G.rv a.toNat L) (I.G.rv b.toNat L) (I.G.rv e.toNat L)

/-- FMIN (R191). -/
def execFmin (d a b : BitVec 5) (m : BitVec 2) (g : BitVec 4) (s : State) : Host.Outcome State Fault Refusal :=
  issueWord (.fmin d a b m g) s fun I s =>
    I.setF s d false fun L => laneMinMax false (modeOf I m) 0 (I.G.rv a.toNat L) (I.G.rv b.toNat L)

/-- FMAX (R191). -/
def execFmax (d a b : BitVec 5) (m : BitVec 2) (g : BitVec 4) (s : State) : Host.Outcome State Fault Refusal :=
  issueWord (.fmax d a b m g) s fun I s =>
    I.setF s d false fun L => laneMinMax true (modeOf I m) 0 (I.G.rv a.toNat L) (I.G.rv b.toNat L)

/-- FCPS (R192). -/
def execFcps (d a b : BitVec 5) (m : BitVec 2) (g : BitVec 4) (s : State) : Host.Outcome State Fault Refusal :=
  issueWord (.fcps d a b m g) s fun I s =>
    I.setF s d false fun L => laneSign .cps (modeOf I m) 0 (I.G.rv a.toNat L) (I.G.rv b.toNat L)

/-- FABS (R192). -/
def execFabs (d a : BitVec 5) (m : BitVec 2) (g : BitVec 4) (s : State) : Host.Outcome State Fault Refusal :=
  issueWord (.fabs d a m g) s fun I s =>
    I.setF s d false fun L => laneSign .abs (modeOf I m) 0 (I.G.rv a.toNat L) (I.G.rv a.toNat L)

/-- FNEG (R192). -/
def execFneg (d a : BitVec 5) (m : BitVec 2) (g : BitVec 4) (s : State) : Host.Outcome State Fault Refusal :=
  issueWord (.fneg d a m g) s fun I s =>
    I.setF s d false fun L => laneSign .neg (modeOf I m) 0 (I.G.rv a.toNat L) (I.G.rv a.toNat L)

/-- FRND (R193). -/
def execFrnd (d a : BitVec 5) (b m : BitVec 2) (g : BitVec 4) (s : State) : Host.Outcome State Fault Refusal :=
  issueWord (.frnd d a b m g) s fun I s =>
    I.setF s d false fun L => laneRnd (rmodeOf b.toNat) (modeOf I m) 0 (I.G.rv a.toNat L)

/-- HADD2 (R194). -/
def execHadd2 (d a b : BitVec 5) (f r : BitVec 1) (g : BitVec 4) (s : State) : Host.Outcome State Fault Refusal :=
  issueWord (.hadd2 d a b f r g) s fun I s =>
    I.setF s d (r == 1) fun L => laneHAdd (f == 1) (r == 1) (lfsrOf I s L) (I.G.rv a.toNat L) (I.G.rv b.toNat L)

/-- HMUL2 (R194). -/
def execHmul2 (d a b : BitVec 5) (f r : BitVec 1) (g : BitVec 4) (s : State) : Host.Outcome State Fault Refusal :=
  issueWord (.hmul2 d a b f r g) s fun I s =>
    I.setF s d (r == 1) fun L => laneHMul (f == 1) (r == 1) (lfsrOf I s L) (I.G.rv a.toNat L) (I.G.rv b.toNat L)

/-- HFMA2 (R194). -/
def execHfma2 (d a b e : BitVec 5) (n : BitVec 2) (s : State) : Host.Outcome State Fault Refusal :=
  issueWord (.hfma2 d a b e n) s fun I s =>
    I.setF s d (n.getLsbD 0) fun L =>
      laneHFma (n.getLsbD 1) (n.getLsbD 0) (lfsrOf I s L) (I.G.rv a.toNat L) (I.G.rv b.toNat L) (I.G.rv e.toNat L)

/-- DMAKE (R196). -/
def execDmake (d a b : BitVec 5) (g : BitVec 4) (s : State) : Host.Outcome State Fault Refusal :=
  issueWord (.dmake d a b g) s fun I s =>
    I.setF s d false fun L => laneMake 0 (I.G.rv a.toNat L) (I.G.rv b.toNat L)

/-- DMEAN (R197). -/
def execDmean (d a : BitVec 5) (g : BitVec 4) (s : State) : Host.Outcome State Fault Refusal :=
  issueWord (.dmean d a g) s fun I s =>
    I.setF s d false fun L => laneMean 0 (I.G.rv a.toNat L)

/-- DVAR (R197). -/
def execDvar (d a : BitVec 5) (g : BitVec 4) (s : State) : Host.Outcome State Fault Refusal :=
  issueWord (.dvar d a g) s fun I s =>
    I.setF s d false fun L => laneVar 0 (I.G.rv a.toNat L)

/-- DSTD (R197). -/
def execDstd (d a : BitVec 5) (g : BitVec 4) (s : State) : Host.Outcome State Fault Refusal :=
  issueWord (.dstd d a g) s fun I s =>
    I.setF s d false fun L => laneStd 0 (I.G.rv a.toNat L)

/-- DTAG (R198). -/
def execDtag (d a b : BitVec 5) (g : BitVec 4) (s : State) : Host.Outcome State Fault Refusal :=
  issueWord (.dtag d a b g) s fun I s =>
    I.setF s d false fun L => laneTag 0 (I.G.rv a.toNat L) (I.G.rv b.toNat L)

/-- DCLR (R198). -/
def execDclr (d a : BitVec 5) (g : BitVec 4) (s : State) : Host.Outcome State Fault Refusal :=
  issueWord (.dclr d a g) s fun I s =>
    I.setF s d false fun L => laneClr 0 (I.G.rv a.toNat L)

/-- DADDV (R199). -/
def execDaddv (d a b : BitVec 5) (g : BitVec 4) (s : State) : Host.Outcome State Fault Refusal :=
  issueWord (.daddv d a b g) s fun I s =>
    I.setF s d false fun L => laneAddVar 0 (I.G.rv a.toNat L) (I.G.rv b.toNat L)

/-- DCOL (R201). -/
def execDcol (d a : BitVec 5) (g : BitVec 4) (s : State) : Host.Outcome State Fault Refusal :=
  issueWord (.dcol d a g) s fun I s =>
    I.setF s d false fun L => laneCol 0 (I.G.rv a.toNat L)

/-- DSENS (R197). -/
def execDsens (d a b : BitVec 5) (g : BitVec 4) (s : State) : Host.Outcome State Fault Refusal :=
  issueWord (.dsens d a b g) s fun I s =>
    I.setF s d false fun L => laneSens 0 (I.G.rv a.toNat L) (I.G.rv b.toNat L)

/-- DS4 (R200). -/
def execDs4 (d a : BitVec 5) (r : BitVec 1) (g : BitVec 4) (s : State) : Host.Outcome State Fault Refusal :=
  issueWord (.ds4 d a r g) s fun I s =>
    I.setF s d (r == 1) fun L => laneS4 (r == 1) (lfsrOf I s L) (I.G.rv a.toNat L)

/-- EX2 (R204). -/
def execEx2 (d a : BitVec 5) (m : BitVec 2) (g : BitVec 4) (s : State) : Host.Outcome State Fault Refusal :=
  issueWord (.ex2 d a m g) s fun I s => specialOf I s d a m .ex2

/-- LG2 (R204). -/
def execLg2 (d a : BitVec 5) (m : BitVec 2) (g : BitVec 4) (s : State) : Host.Outcome State Fault Refusal :=
  issueWord (.lg2 d a m g) s fun I s => specialOf I s d a m .lg2

/-- RCP (R204). -/
def execRcp (d a : BitVec 5) (m : BitVec 2) (g : BitVec 4) (s : State) : Host.Outcome State Fault Refusal :=
  issueWord (.rcp d a m g) s fun I s => specialOf I s d a m .rcp

/-- RSQ (R204). -/
def execRsq (d a : BitVec 5) (m : BitVec 2) (g : BitVec 4) (s : State) : Host.Outcome State Fault Refusal :=
  issueWord (.rsq d a m g) s fun I s => specialOf I s d a m .rsq

/-- SQRT (R204). -/
def execSqrt (d a : BitVec 5) (m : BitVec 2) (g : BitVec 4) (s : State) : Host.Outcome State Fault Refusal :=
  issueWord (.sqrt d a m g) s fun I s => specialOf I s d a m .sqrt

/-- SIN (R204). -/
def execSin (d a : BitVec 5) (m : BitVec 2) (g : BitVec 4) (s : State) : Host.Outcome State Fault Refusal :=
  issueWord (.sin d a m g) s fun I s => specialOf I s d a m .sin

/-- COS (R204). -/
def execCos (d a : BitVec 5) (m : BitVec 2) (g : BitVec 4) (s : State) : Host.Outcome State Fault Refusal :=
  issueWord (.cos d a m g) s fun I s => specialOf I s d a m .cos

/-- TANH (R204). -/
def execTanh (d a : BitVec 5) (m : BitVec 2) (g : BitVec 4) (s : State) : Host.Outcome State Fault Refusal :=
  issueWord (.tanh d a m g) s fun I s => specialOf I s d a m .tanh

/-- SIGM (R204). -/
def execSigm (d a : BitVec 5) (m : BitVec 2) (g : BitVec 4) (s : State) : Host.Outcome State Fault Refusal :=
  issueWord (.sigm d a m g) s fun I s => specialOf I s d a m .sigm

end Sys2Proof.Machine
end

