-- ==== Sys2Proof/Machine/Convert.lean ====
section
/-!
DEFINITION. Conversion, quantisation and the Sower (11_conversion_quantisation_random.md), with DSAMP (R202): one
meaning for each instruction over the lane operations of Conv.lean and Sower.lean.
-/

namespace Sys2Proof.Machine

/-- RCTR moved on by a word with an active lane (R155, R220). Log 74 (DEDUCED). -/
def advanceStream (I : Issue) (s : State) (n : Word) : State :=
  if I.act == 0 then s else s.updBlk I.b fun x => { x with rctr := x.rctr + n }

/-- RGEN, RUNI and RGAUS (R221). Log 74 (DEDUCED). -/
def drawOf (I : Issue) (s : State) (d : BitVec 5) (k : DrawKind) : State :=
  advanceStream I (I.laterV s d fun L => (drawValue k (furrow (I.rctr + BitVec.ofNat 64 L) I.rkey), 0)) 32

/-- The block of BENC over the active lanes: the two words of each lane and its LFSR, and the flags (R215). -/
def bencOf (I : Issue) (s : State) (a : BitVec 5) (f r : BitVec 1) : (List Word × List Word × List Word32) × Flags :=
  benc (f == 1) (r == 1) (I.act.getLsbD ·) (perLane (I.G.rv a.toNat ·)) (perLane (lfsrOf I s ·))

/-- FCVT (R207). -/
def execFcvt (d a b : BitVec 5) (m : BitVec 3) (g : BitVec 4) (s : State) : Host.Outcome State Fault Refusal :=
  issueWord (.fcvt d a b m g) s fun I s =>
    I.setF s d (m.getLsbD 0) fun L =>
      if b.getLsbD 4 then laneWiden (cvtFmt (b.toNat % 16)) (modeOf I (m.extractLsb' 1 2)) (lfsrOf I s L) (I.G.rv a.toNat L)
      else laneNarrow (cvtFmt (b.toNat % 16)) (modeOf I (m.extractLsb' 1 2)) (m.getLsbD 0) (lfsrOf I s L) (I.G.rv a.toNat L)

/-- ICVT (R209). -/
def execIcvt (d a : BitVec 5) (z : BitVec 1) (w : BitVec 2) (m : BitVec 3) (g : BitVec 4) (s : State) :
    Host.Outcome State Fault Refusal :=
  issueWord (.icvt d a z w m g) s fun I s =>
    I.setF s d (m.getLsbD 0) fun L =>
      laneIcvt (z == 1) (8 * 2 ^ w.toNat) (modeOf I (m.extractLsb' 1 2)) (m.getLsbD 0) (lfsrOf I s L) (I.G.rv a.toNat L)

/-- FTOI (R210). -/
def execFtoi (d a : BitVec 5) (z : BitVec 1) (k w : BitVec 2) (r : BitVec 1) (g : BitVec 4) (s : State) :
    Host.Outcome State Fault Refusal :=
  issueWord (.ftoi d a z k w r g) s fun I s =>
    I.setF s d (r == 1) fun L =>
      laneFtoi (z == 1) (8 * 2 ^ w.toNat) (rmodeOf k.toNat) (r == 1) (lfsrOf I s L) (I.G.rv a.toNat L)

/-- QCVT (R211). -/
def execQcvt (d a b : BitVec 5) (m : BitVec 3) (g : BitVec 4) (s : State) : Host.Outcome State Fault Refusal :=
  issueWord (.qcvt d a b m g) s fun I s =>
    I.setF s d (m.getLsbD 0) fun L =>
      laneQcvt (m.getLsbD 2) (m.getLsbD 1) (m.getLsbD 0) (lfsrOf I s L) (I.G.rv a.toNat L) (I.G.rv b.toNat L)

/-- QRSC (R212). -/
def execQrsc (d a b : BitVec 5) (r : BitVec 1) (g : BitVec 4) (s : State) : Host.Outcome State Fault Refusal :=
  issueWord (.qrsc d a b r g) s fun I s =>
    I.setF s d (r == 1) fun L => laneQrsc (r == 1) (lfsrOf I s L) (I.G.rv a.toNat L) (I.G.rv b.toNat L)

/-- QZPC (R213). -/
def execQzpc (d a b : BitVec 5) (g : BitVec 4) (s : State) : Host.Outcome State Fault Refusal :=
  issueWord (.qzpc d a b g) s fun I s =>
    I.setF s d false fun L => laneQzpc 0 (I.G.rv d.toNat L) (I.G.rv a.toNat L) (I.G.rv b.toNat L)

/-- BENC (R215, R216). -/
def execBenc (d a b : BitVec 5) (f r : BitVec 1) (g : BitVec 4) (s : State) : Host.Outcome State Fault Refusal :=
  issueWord (.benc d a b f r g) s fun I s =>
    let e := bencOf I s a f r
    let s1 := s.updGrp I.b I.g fun y =>
      ((y.wv d.toNat I.act fun L => e.1.1.getD L 0).wv b.toNat I.act fun L => e.1.2.1.getD L 0).setLf I.act fun L =>
        e.1.2.2.getD L 0
    if I.act == 0 then s else I.raise s1 e.2

/-- BDEC (R218). -/
def execBdec (d a b : BitVec 5) (f : BitVec 1) (g : BitVec 4) (s : State) : Host.Outcome State Fault Refusal :=
  issueWord (.bdec d a b f g) s fun I s =>
    let c := blockCodes (perLane (I.G.rv a.toNat ·))
    let h := bits (I.G.rv b.toNat 0) 16 16
    I.setV s d fun L =>
      let r := bdecLane (f == 1) c h L
      (r.1, r.2 ||| (if f == 1 then 0 else nx4Flags c h))

/-- RGEN (R221). -/
def execRgen (d : BitVec 5) (g : BitVec 4) (s : State) : Host.Outcome State Fault Refusal :=
  issueWord (.rgen d g) s fun I s => drawOf I s d .gen

/-- RUNI (R221). -/
def execRuni (d : BitVec 5) (g : BitVec 4) (s : State) : Host.Outcome State Fault Refusal :=
  issueWord (.runi d g) s fun I s => drawOf I s d .uni

/-- RGAUS (R221). -/
def execRgaus (d : BitVec 5) (g : BitVec 4) (s : State) : Host.Outcome State Fault Refusal :=
  issueWord (.rgaus d g) s fun I s => drawOf I s d .gaus

/-- RCAT (R222). -/
def execRcat (d a : BitVec 5) (b : BitVec 3) (g : BitVec 4) (s : State) : Host.Outcome State Fault Refusal :=
  issueWord (.rcat d a b g) s fun I s =>
    let W := 2 ^ b.toNat
    advanceStream I (I.laterV s d fun L =>
      rcatRow I.rctr I.rkey (I.act.getLsbD ·) (I.G.rv a.toNat ·) W (L / W)) 64

/-- RSKIP (R223). -/
def execRskip (a : BitVec 5) (g : BitVec 4) (s : State) : Host.Outcome State Fault Refusal :=
  issueWord (.rskip a g) s fun I s => advanceStream I s (I.G.rv a.toNat (lowest I.act))

/-- DSAMP (R202). -/
def execDsamp (d a : BitVec 5) (m r : BitVec 1) (g : BitVec 4) (s : State) : Host.Outcome State Fault Refusal :=
  issueWord (.dsamp d a m r g) s fun I s =>
    advanceStream I (laterF I s d (r == 1) fun L =>
      laneSamp (r == 1) (lfsrOf I s L) (I.G.rv a.toNat L) (dsampDraw I.rctr I.rkey L)) 128

end Sys2Proof.Machine
end

