-- ==== Sys2Proof/Machine/Graph.lean ====
section
/-!
DEFINITION. Device-resident graphs (R330 to R333): the steps GRAPH_KERNEL_NODE, GRAPH_LOOP_NODE, GRAPH_ADMIT_NODE and
GRAPH_END_NODE.
-/

namespace Sys2Proof.Machine

/-- A graph may act on the node it stands before: it has no node grid running and is neither at its end nor
cancelled. -/
def State.graphReady (s : State) (n : Nat) : Bool :=
  let y := s.grid n
  (oget s.grids n).isSome && y.graph && y.child.isNone && (y.state == .accepted || y.state == .running)

/-- The graph has started a node (R318). -/
def State.graphRuns (s : State) (n : Nat) : State := s.updGrid n fun y => { y with state := .running }

/-- SLOTMASK of a grid that a graph launches now (R333 step 4). -/
def Grid.launchMask (y : Grid) : Word :=
  if y.loops.isEmpty then y.mask.getD 0 else (y.loops.findSome? (·.mask)).getD 0

/-- ITER of a grid that a graph launches now (R331). -/
def Grid.launchIter (y : Grid) : Nat := (y.loops.head?.map (·.iter)).getD 0

/-! ### Kernel nodes (R330) -/

/-- A kernel node launches its descriptor as a child of the graph. Log 59 (DEDUCED). -/
def State.kernelNode (s : State) (n : Nat) : State :=
  let y := s.grid n
  if !s.graphReady n then s
  else if y.cancelled then s.drainGraph n false
  else
    let r := s.readNode y.space y.node
    match r.2 with
    | some (1, next, arg, _) =>
      let w := r.1.readWords y.space arg 8
      match (if arg.toNat % 64 = 0 then w.2 else none) with
      | none => w.1.drainGraph n true
      | some l =>
        let d := descOf l
        if d.kind != 0 || 10 ≤ y.depth then w.1.drainGraph n true
        else if 4096 ≤ w.1.liveGrids then w.1.post (.graphKernelNode n)
        else
          let a := w.1.accept d y.space (min y.prio d.prio) y.queue (y.depth + 1) y.handler (some n) none
          ((a.1.updGrid a.2 fun c => { c with slotmask := y.launchMask, iter := y.launchIter }).updGrid n fun y =>
            { y with child := some a.2, node := next }).graphRuns n
    | _ => r.1.goNode n

/-- GRAPH_KERNEL_NODE (R330). -/
def execGraphKernelNode (grid : Nat) (s : State) : Host.Outcome State Fault Refusal := .next (s.kernelNode grid)

/-! ### Loop nodes (R331) -/

/-- The check at an iteration boundary of the innermost loop. -/
def State.loopCheck (s : State) (n : Nat) : State :=
  let y := s.grid n
  match y.loops with
  | [] => s
  | p :: outer =>
    let r := s.readNode y.space p.node
    match r.2 with
    | some (2, next, arg, cond, limit) =>
      let c := r.1.vread y.space cond 8
      if cond.toNat % 8 != 0 || c.2.1 != 0 then r.1.drainGraph n true
      else if c.2.2 = 0 || (limit != 0 && p.iter == limit.toNat) then
        (c.1.updGrid n fun y => { y with loops := outer, node := next }).goNext n
      else (c.1.updGrid n fun y => { y with loops := { p with due := false } :: outer, node := arg }).goNode n
    | _ => r.1.drainGraph n true

/-- A loop node reached, or its iteration boundary. Log 59 (DEDUCED). -/
def State.loopNode (s : State) (n : Nat) : State :=
  let y := s.grid n
  if !s.graphReady n then s
  else if y.cancelled then s.drainGraph n false
  else if y.loops.head?.any (·.due) then s.loopCheck n
  else if 4 ≤ y.loops.length then s.drainGraph n true
  else ((s.updGrid n fun y => { y with loops := ⟨y.node, 0, true, none⟩ :: y.loops }).graphRuns n).loopCheck n

/-- GRAPH_LOOP_NODE (R331). -/
def execGraphLoopNode (grid : Nat) (s : State) : Host.Outcome State Fault Refusal := .next (s.loopNode grid)

/-! ### Admit nodes (R332, R333) -/

/-- A slot as an admit node handles it. -/
structure Slot where
  /-- the STATE that it was read with, and the one it has come to -/
  was : Nat
  state : Nat
  req : Word
  ring : Word
  taken : Bool
  deriving DecidableEq, Repr

/-- A request queue as an admit node handles it: its address, CAP, PROD and CONS. -/
structure ReqQueue where
  va : Word
  cap : Word
  prod : Word
  cons : Word
  deriving DecidableEq, Repr

/-- The request queues in use, none where one is invalid. -/
def State.reqQueues (s : State) (space : Nat) : List Word → State × Option (List ReqQueue)
  | [] => (s, some [])
  | va :: t =>
    if va = 0 then s.reqQueues space t
    else
      let r := s.readWords space va 3
      match r.2 with
      | some [cap, prod, cons] =>
        if cap = 0 then (r.1, none)
        else
          let u := r.1.reqQueues space t
          (u.1, u.2.map (⟨va, cap, prod, cons⟩ :: ·))
      | _ => (r.1, none)

/-- A delivery ring is full. -/
def State.ringFull (s : State) (space : Nat) (va : Word) : State × Bool :=
  let r := s.readWords space va 3
  (r.1, match r.2 with
    | some [cap, tail, head] => decide (cap.toNat ≤ (tail - head).toNat)
    | _ => true)

/-- Steps 1 and 2 on the slots from one on, none where one cannot be read. -/
def State.readSlots (s : State) (space : Nat) (va : Word) : Nat → State × Option (List Slot)
  | 0 => (s, some [])
  | n + 1 =>
    let r := s.readWords space va 3
    match r.2 with
    | some [w, req, ring] =>
      let st := bits w 0 2
      let f := if st = 2 && ring != 0 then r.1.ringFull space ring else (r.1, false)
      let now := if st = 3 then 0 else if st = 2 && !f.2 then 1 else st
      let u := f.1.readSlots space (va + 64) n
      (u.1, u.2.map (⟨st, now, req, ring, false⟩ :: ·))
    | _ => (r.1, none)

/-- The first request queue that holds an entry takes it out: the address of the entry, and the queues after it. -/
def takeEntry : List ReqQueue → Option (Word × List ReqQueue)
  | [] => none
  | q :: t =>
    if q.prod = q.cons then (takeEntry t).map fun r => (r.1, q :: r.2)
    else some (q.va + 0x40 + 16 * (q.cons % q.cap), { q with cons := q.cons + 1 } :: t)

/-- Step 3 on the slots in ascending order, none where an entry cannot be read. -/
def State.fillSlots (s : State) (space : Nat) : List Slot → List ReqQueue → State × Option (List Slot × List ReqQueue)
  | [], q => (s, some ([], q))
  | x :: t, q =>
    let go (s : State) (x : Slot) (q : List ReqQueue) : State × Option (List Slot × List ReqQueue) :=
      let u := s.fillSlots space t q
      (u.1, u.2.map fun r => (x :: r.1, r.2))
    if x.state != 0 then go s x q
    else
      match takeEntry q with
      | none => go s x q
      | some (va, q1) =>
        let r := s.readWords space va 2
        match r.2 with
        | some [req, ring] => go r.1 { x with state := 1, req := req, ring := ring, taken := true } q1
        | _ => (r.1, none)

/-- The slots that changed written back. -/
def State.writeSlots (s : State) (space : Nat) (va : Word) : List Slot → State
  | [] => s
  | x :: t =>
    let s1 := if x.state = x.was then s else s.trellisWrite space va (BitVec.ofNat 64 x.state)
    let s2 := if x.taken then s1.trellisWords space (va + 8) [x.req, x.ring] else s1
    s2.writeSlots space (va + 64) t

/-- The mask of ACTIVE slots. -/
def activeMask (l : List Slot) : Word :=
  BitVec.ofNat 64 ((List.range l.length).foldl (fun m i => if (l[i]?.any fun x => x.state == 1) then m + 2 ^ i else m) 0)

/-- An admit node acts on its table: every read first, then the writes. -/
def State.admitSlots (s : State) (space : Nat) (table : Word) : State × Option Word :=
  let h := s.readWords space table 8
  match h.2 with
  | none => (h.1, none)
  | some w =>
    let k := (w.getD 0 0).toNat
    if k = 0 || 64 < k || (w.drop 5).any (· != 0) then (h.1, none)
    else
      let q := h.1.reqQueues space ((w.drop 1).take 4)
      match q.2 with
      | none => (q.1, none)
      | some qs =>
        let r := q.1.readSlots space (table + 64) k
        match r.2 with
        | none => (r.1, none)
        | some slots =>
          let f := r.1.fillSlots space slots qs
          match f.2 with
          | none => (f.1, none)
          | some (out, qs1) =>
            let s1 := f.1.writeSlots space (table + 64) out
            (qs1.foldl (fun s x => if qs.contains x then s else s.trellisWrite space (x.va + 0x10) x.cons) s1,
              some (activeMask out))

/-- The mask of an admit node kept for its scope. -/
def Grid.setMask (y : Grid) (m : Word) : Grid :=
  match y.loops with
  | [] => { y with mask := some m }
  | p :: t => { y with loops := { p with mask := some m } :: t }

/-- An admit node. Log 59 (DEDUCED). -/
def State.admitNode (s : State) (n : Nat) : State :=
  let y := s.grid n
  if !s.graphReady n then s
  else if y.cancelled then s.drainGraph n false
  else
    let r := s.readNode y.space y.node
    match r.2 with
    | some (3, next, arg, _) =>
      let a := r.1.admitSlots y.space arg
      match a.2 with
      | none => a.1.drainGraph n true
      | some m => ((a.1.updGrid n fun y => { (y.setMask m) with node := next }).graphRuns n).goNext n
    | _ => r.1.goNode n

/-- GRAPH_ADMIT_NODE (R333). -/
def execGraphAdmitNode (grid : Nat) (s : State) : Host.Outcome State Fault Refusal := .next (s.admitNode grid)

/-! ### End nodes (R330, R331) -/

/-- The end of the innermost loop's body, which is an iteration boundary, or of the graph. -/
def State.endNode (s : State) (n : Nat) : State :=
  let y := s.grid n
  if !s.graphReady n then s
  else if y.cancelled then s.drainGraph n false
  else
    match y.loops with
    | [] => (s.graphRuns n).drainGraph n false
    | p :: t =>
      (s.updGrid n fun y => { y with loops := { p with iter := p.iter + 1, due := true, mask := none } :: t }).post
        (.graphLoopNode n)

/-- GRAPH_END_NODE (R330). -/
def execGraphEndNode (grid : Nat) (s : State) : Host.Outcome State Fault Refusal := .next (s.endNode grid)

end Sys2Proof.Machine
end

