-- ==== Sys2Proof/Machine/Launch.lean ====
section
/-!
DEFINITION. Launches from programs and from host queues, and completion bitmaps (R322, R328, R329, R335 to R337,
R373, R374): LAUNCH, COMPL, WAITC, and the steps DESCRIPTOR_ACCEPT and PRIORITY_AGING_GRANT.
-/

namespace Sys2Proof.Machine

/-! ### LAUNCH (R335) -/

/-- LAUNCH. -/
def execLaunch (d a : BitVec 5) (g : BitVec 4) (s : State) : Host.Outcome State Fault Refusal :=
  issueWord (.launch d a g) s fun I s =>
    let va (_ : Nat) := I.G.rv a.toNat 0
    let x := s.blk I.b
    if I.act == 0 then s
    else if lowest I.act != 0 || I.g != 0 then I.trap s (I.trapOf 7 (errDetail 2 I.run I.word 0 0) [])
    else
      let s1 := s.lookUp x.core x.space 1 va
      match I.accessTrap s1 1 6 1 false 1 va with
      | some t => I.trap s1 t
      | none =>
        if !s1.releaseOk I then I.block s .commit
        else
          let s2 := s1.tick.startCommit I.b false
          let acc := { I.access s1 1 d.toNat 6 0 va (fun _ => 0) (fun _ => 0) with
            wait := 1, reqs := reqsOf 1 va, after := (s2.blk I.b).lastCommit }
          (s2.updGrp I.b I.g fun y => acc.markPending y true).parkOn I.b I.g .commit (.launch acc I.act)

/-- The two sectors of a descriptor read at the point of coherence. Log 56 (DEDUCED). -/
def State.readDesc (s : State) (b : Nat) (va : Word) : State × WordRead :=
  let r := s.readWord b va 32
  if r.2.code != 0 then r
  else
    let t := r.1.readWord b (va + 32) 32
    (t.1, { t.2 with val := r.2.val + 2 ^ 256 * t.2.val, poison := r.2.poison || t.2.poison })

/-- The eight words of a descriptor. -/
def descWords (v : Nat) : List Word := (List.range 8).map fun k => BitVec.ofNat 64 (v / 2 ^ (64 * k))

/-- A ticket of refusal. -/
def refusedTicket (n : Nat) : Word := BitVec.ofNat 64 (2 ^ 63 + n)

/-- A live grid that is a grid or descends from it. -/
def State.isUnder (s : State) (n m : Nat) : Bool := (oget s.grids m).isSome && (s.descendants 11 n).contains m

/-- What the Trellis makes of a descriptor of a group, and the ticket. -/
def State.submit (s : State) (b g : Nat) (d : Desc) : State × Word :=
  let n := (s.blk b).grid
  let y := s.grid n
  if d.kind = 2 then
    if s.isUnder n d.cgrid.toNat then (s.cancel d.cgrid.toNat, d.cgrid) else (s, refusedTicket 4)
  else if 10 ≤ y.depth then (s, refusedTicket 1)
  else
    let k := if d.kind = 0 then s.readKernel y.space d else (s, none)
    if !d.ok || (d.kind == 0 && k.2.isNone) then (k.1, refusedTicket 2)
    else if 4096 ≤ s.liveGrids then (k.1, refusedTicket 3)
    else
      let r := k.1.accept d y.space (min y.prio d.prio) y.queue (y.depth + 1) y.handler (some n)
        (if d.q8 then some (b, g) else none)
      (r.1, BitVec.ofNat 64 r.2)

/-- A LAUNCH whose release has committed reads its descriptor and submits it. Log 40 (DEDUCED), 41 (DEDUCED). -/
def State.performLaunch (s : State) (b g : Nat) (a : Access) (lanes : Mask) : State :=
  let r := s.readDesc b (a.vaAt 0)
  if r.2.code = snoopCode then r.1
  else if r.2.code != 0 then
    let acc := (a.failLanes 1 r.2.conf r.2.code).keepDest (r.1.grp b g)
    (r.1.setAwait b g (.launch acc lanes)).faultsReady b g acc.faults
  else if r.2.poison then r.1.hwError b 1
  else
    let t := r.1.submit b g (descOf (descWords r.2.val))
    (t.1.updGrp b g fun y => a.markPending (y.wv a.dreg lanes fun _ => t.2) false).setAwait b g .nothing

/-! ### Completion bitmaps (R329, R336, R337) -/

/-- The word of a block's bit. -/
def bitWord (base idx : Word) : Word := base + 8 + BitVec.ofNat 64 (8 * (idx.toNat / 64))

/-- COMPL (R336). -/
def execCompl (a b : BitVec 5) (g : BitVec 4) (s : State) : Host.Outcome State Fault Refusal :=
  issueWord (.compl a b g) s fun I s =>
    let L := lowest I.act
    let one := BitVec.twoPow 32 L
    let x := s.blk I.b
    let n := I.G.rv b.toNat L
    let va (_ : Nat) := bitWord (I.G.rv a.toNat L) n
    if I.act == 0 then s
    else
      let s1 := s.lookUp x.core x.space one va
      match I.accessTrap s1 2 3 3 true one va with
      | some t => I.trap s1 t
      | none =>
        if !s1.releaseOk I then I.block s .commit
        else if s1.lsbFull I.b then I.block s .storeBuffer
        else
          let s2 := s1.tick.startCommit I.b true
          let acc := { I.access s1 3 0 3 0 va (fun _ => BitVec.twoPow 64 (n.toNat % 64)) (fun _ => 0) with
            wait := one, reqs := reqsOf one va, after := (s2.blk I.b).lastCommit }
          ((s2.enterStore acc).post (.atomicPerform I.b acc.uid L)).parkOn I.b I.g .commit (.commit acc.after false none none)

/-- WAITC (R337). A group that waits stays before the word, which issues again once its bit has been seen set. -/
def execWaitc (a b : BitVec 5) (g : BitVec 4) (s : State) : Host.Outcome State Fault Refusal :=
  issueWord (.waitc a b g) s fun I s =>
    let L := lowest I.act
    let one := BitVec.twoPow 32 L
    let x := s.blk I.b
    let n := I.G.rv b.toNat L
    let base := I.G.rv a.toNat L
    let va (_ : Nat) := bitWord base n
    if I.act == 0 then s
    else if I.G.waitOk then (s.updGrp I.b I.g fun y => { y with waitOk := false }).acquire I.b 4
    else
      let s1 := (s.lookUp x.core x.space one va).lookUp x.core x.space one fun _ => base
      match (I.accessTrap s1 1 3 1 false one va).orElse fun _ => I.accessTrap s1 1 3 1 false one fun _ => base with
      | some t => I.trap s1 t
      | none =>
        let acc := { I.access s1 1 0 3 0 va (fun _ => 0) (fun _ => 0) with wait := one, reqs := reqsOf one va }
        (I.blockOn s1.tick .wait (.waitc acc base (n.toNat % 64))).post (.waitReread I.b I.g)

/-- The reads of a parked WAITC: its bit's word, then word 0. -/
def State.readWaitc (s : State) (b g : Nat) (a : Access) (base : Word) (bit : Nat) : State :=
  let L := lowest a.act
  let va := a.vaAt L
  if a.wait == 0 || (a.fault ||| a.conf) != 0 then s
  else if s.readWaits a a.wait then s.postOnce (.waitReread b g)
  else
    let failed (t : State) (va : Word) (r : WordRead) : State :=
      let acc := { a with va := perLane fun _ => va }.failLanes a.wait r.conf r.code
      (t.setAwait b g (.waitc { acc with va := a.va } base bit)).faultsReady b g acc.faults
    let r := s.readWord b va 8
    if r.2.code = snoopCode then r.1.postOnce (.waitReread b g)
    else if r.2.code != 0 then failed r.1 va r.2
    else
      let q := r.1.readWord b base 8
      if q.2.code = snoopCode then q.1.postOnce (.waitReread b g)
      else if q.2.code != 0 then failed q.1 base q.2
      else if r.2.poison || q.2.poison then q.1.hwError b 1
      else if r.2.val.testBit bit then q.1.setAwait b g (.waitc { a with wait := 0 } base bit)
      else if q.2.val.testBit 63 then
        let s1 := q.1.updGrp b g fun y => y.withParks y.more
        let h := (s1.grp b g).headRun
        s1.takeTrap b g
          ⟨0x0A, BitVec.ofNat 96 (h.1.toNat + 2 ^ 32 * 2 + 2 ^ 40 * bits va 0 52), h.2, h.1, [], none⟩
      else q.1

/-! ### Host queues (R322, R373, R374) -/

/-- A queue has a descriptor to accept. -/
def Queue.waits (q : Queue) : Bool := q.en && decide (q.cons < q.prod)

/-- The queues that have one, with a priority. -/
def State.waitingQueues (s : State) (p : Nat) : List Nat :=
  ((oitems s.queues).filter fun q => q.2.waits && q.2.prio == p).map (·.1)

/-- The priorities that have a queue with a descriptor, the highest first. -/
def State.waitingPrios (s : State) : List Nat :=
  ((List.range 16).reverse).filter fun p => !(s.waitingQueues p).isEmpty

/-- A priority passed over for 2^20 cycles (R322 step 3). Log 78 (DEDUCED). -/
def State.agedPrio (s : State) (p : Nat) : Bool :=
  sget 0 s.passed p != 0 && decide (sget 0 s.passed p + 2 ^ 20 ≤ s.cycles.toNat)

/-- A queue stops on an error (R374). Log 60 (DEDUCED). -/
def State.queueError (s : State) (q cause : Nat) : State :=
  (s.updQueue q fun x => { x with err := true, en := false }).logError 0 2 cause 0 q 0 0

/-- The descriptor of a queue accepted, or a cancellation carried out; nothing where as many grids are live as may
be. A queue that stops lets the others go on. The Boolean says that a descriptor was accepted. Log 60 (DEDUCED). -/
def State.acceptFrom (s : State) (q : Nat) : State × Bool :=
  let x := s.queue q
  let r := s.readWords x.space (x.ring + BitVec.ofNat 64 (64 * (x.cons % 2 ^ x.depthLog))) 8
  match r.2 with
  | none => ((r.1.queueError q 2).postOnce .descriptorAccept, false)
  | some w =>
    let d := descOf w
    let taken (s : State) : State := (s.updQueue q fun x => { x with cons := x.cons + 1 }).postOnce .descriptorAccept
    if d.kind = 2 && d.ok then
      (taken (if (oget s.grids d.cgrid.toNat).isSome then r.1.cancel d.cgrid.toNat else r.1), true)
    else if 4096 ≤ s.liveGrids then (r.1, false)
    else (taken (r.1.accept d x.space x.prio q 0 x.handler none none).1, true)

/-- The grant of a priority: its queues in turn. One that accepts no descriptor takes no queue's turn (R322). -/
def State.grant (s : State) (p : Nat) : State :=
  let l := s.waitingQueues p
  let last := sget 0 s.rr p
  match (l.find? fun q => decide (last < q + 1)).orElse fun _ => l.head? with
  | none => s
  | some q =>
    let r := s.acceptFrom q
    if r.2 then { r.1 with
      rr := sset 0 s.rr p (q + 1)
      passed := passOver s.passed p s.waitingPrios s.cycles.toNat }
    else r.1

/-- DESCRIPTOR_ACCEPT: the highest priority is served, after one that has been passed over too long. -/
def State.acceptNext (s : State) : State :=
  match (s.waitingPrios.find? s.agedPrio).orElse fun _ => s.waitingPrios.head? with
  | some p => s.grant p
  | none => s

/-- DESCRIPTOR_ACCEPT (R322). -/
def execDescriptorAccept (s : State) : Host.Outcome State Fault Refusal := .next s.acceptNext

/-- PRIORITY_AGING_GRANT (R322 step 3). -/
def execPriorityAgingGrant (prio : Nat) (s : State) : Host.Outcome State Fault Refusal :=
  .next (if s.agedPrio prio && !(s.waitingQueues prio).isEmpty then s.grant prio else s)

end Sys2Proof.Machine
end

