-- ==== Sys2Proof/Machine/Handler.lean ====
section
/-!
DEFINITION. RETURNING FROM A TRAP (R102, R251, R357), the other instructions of handler level (R365, R366), and the
step HARDWARE_ERROR (R369).
-/

namespace Sys2Proof.Machine

/-! ### The trap area (R354, R360) -/

/-- The part of a group frame up to the end of the trap area, with the block's own held bytes of it. -/
def State.readTrapArea (s : State) (b g : Nat) : State × Option (List Byte) :=
  let r := s.readSeg (s.partyOf b) (s.grp b g).frame.toNat 0x820
  (r.1, if r.2.1 = 0 then some r.2.2 else none)

/-- v0 to v3, s0 to s3, p0 to p31 and the pending mask loaded from the trap area. Log 27 (DEDUCED). -/
def Group.loadTrapArea (y : Group) (l : List Byte) : Group :=
  (((y.loadP 4 (l.drop 0x320)).loadV 0 4 (l.drop 0x400)).loadS 0 4 (l.drop 0x800)).loadPending l

/-- The graft slot of a frame, if its CAPST says that it is in use; none where it cannot be read. Log 27 (DEDUCED). -/
def State.readSlot (s : State) (b g : Nat) (l : List Byte) : State × Option (List Byte) :=
  if getLe l 0x58 1 / 32 % 2 = 0 then (s, some [])
  else
    let r := s.readSeg (s.partyOf b) ((s.grp b g).frame.toNat + 0x5000) 0x830
    (r.1, if r.2.1 = 0 then some r.2.2 else none)

/-- The capsule state that a frame holds as the handler has left it (R312): none where it has been cleared.
Log 27 (DEDUCED). -/
def Group.loadCapsule (y : Group) (l slot : List Byte) : Group :=
  let cap := if wordAt l 0x50 = 0 then none else capOf (wordAt l 0x58) slot ((y.cap.map (·.lines)).getD [])
  { y with cap := cap, caprec := if cap.isSome then wordAt l 0x50 else 0 }

/-- The trap area's lane PC table. -/
def trapTable (l : List Byte) : List Byte := (l.drop 0x200).take 256

/-! ### Lanes performed again (R102, R251) -/

/-- Lanes of `m` from one list of lane values, the others from another. -/
def mixLanes (m : Mask) (new old : List Word) : List Word :=
  perLane fun L => if m.getLsbD L then new.getD L 0 else old.getD L 0

/-- The lanes of an access that fail the checks of R98 or R246, with their codes. Log 50 (DEDUCED). -/
def State.recheck (s : State) (a : Access) (lanes : Mask) (need : Nat) : State × List (Nat × Nat) :=
  let x := s.blk a.blk
  let s1 := s.lookUp x.core x.space lanes a.vaAt
  (s1, (lanesOf lanes).filterMap fun L =>
    let c := s1.accessCode x.core x.space (a.vaAt L) a.logsz need
    if c = 0 then none else some (L, c))

/-- Lanes of an access marked failed with codes. -/
def Access.failCodes (a : Access) (l : List (Nat × Nat)) : Access :=
  l.foldl (fun a p => a.failLanes (BitVec.twoPow 32 p.1) false p.2) a

/-- An access whose faulted lanes `m` have the record's addresses and data and are free to be tried again. -/
def Access.again (a rec : Access) (m : Mask) : Access :=
  { a with
    va := mixLanes m rec.va a.va, d0 := mixLanes m rec.d0 a.d0, d1 := mixLanes m rec.d1 a.d1
    fault := a.fault &&& ~~~m, conf := a.conf &&& ~~~m }

/-- The lanes that a record stands for. -/
def Access.lanesIn (a : Access) : Mask := a.fault ||| a.conf

/-- A load's faulted lanes sent again, and for LDG every active lane (R107). Log 50 (DEDUCED). -/
def State.replayLoad (s : State) (b g : Nat) (a : Access) : State :=
  let lanes := if a.kind = 4 then a.act else a.lanesIn
  let r := s.recheck a lanes 1
  let a1 := ({ a with uid := r.1.fresh, wait := lanes, fault := 0, conf := 0 } : Access).failCodes r.2
  let a2 := { a1 with reqs := reqsOf (lanes &&& ~~~a1.fault) a1.vaAt }
  ((((r.1.tick.updGrp b g fun y => { y with loads := y.loads ++ [a2] }).postAll
    (a2.reqs.map fun q => .lineRequest b g a2.uid q.line))).finishLoad b g a2.uid)

/-- A dropped load: its lanes take their record data, and its destination is no longer pending. Log 50 (DEDUCED). -/
def State.dropLoad (s : State) (b g : Nat) (a : Access) : State :=
  s.updGrp b g fun y =>
    let y1 := y.wv a.dreg a.lanesIn fun L => a.d0.getD L 0
    let y2 := if a.logsz = 4 then y1.wv (a.dreg + 1) a.lanesIn fun L => a.d1.getD L 0 else y1
    if y2.faultLeft a.seq then y2 else a.markPending y2 false

/-- A store's or an atomic's faulted lanes tried again. -/
def State.replayEntry (s : State) (b : Nat) (a : Access) : State :=
  let k := (s.blk b).core
  let m := a.lanesIn
  match s.entry k a.uid with
  | none => s
  | some e =>
    let e1 := e.again a m
    let r := s.recheck e1 m (if e.kind = 3 then 3 else 2)
    let e2 := e1.failCodes r.2
    let e3 := { e2 with reqs := reqsOf e2.wait e2.vaAt }
    let go := m &&& ~~~e3.fault
    let s1 := (r.1.updEntry k a.uid fun _ => e3).postAll
      (if e.kind = 3 then (lanesOf go).map fun L => .atomicPerform b a.uid L
        else if e.poc then (e3.reqs.filter fun q => q.lanes &&& go != 0).map fun q => .translateProbe b a.uid q.line
        else [])
    (s1.closeEntry k a.uid).settleStores k

/-- A store's or an atomic's faulted lanes dropped. -/
def State.dropEntry (s : State) (b : Nat) (a : Access) : State :=
  let k := (s.blk b).core
  let m := a.lanesIn
  let s1 := s.updEntry k a.uid fun e => { e with
    wait := e.wait &&& ~~~m, fault := e.fault &&& ~~~m, conf := e.conf &&& ~~~m }
  if a.kind = 3 then s1.finishAtomic k a.uid else ((s1.closeEntry k a.uid).settleStores k).settleBlock b

/-! ### Waits' reads (R263, R279, R301, R335, R337, R362) -/

/-- The read that a park makes. -/
def Await.access : Await → Option Access
  | .lda a _ => some a
  | .waitm a _ => some a
  | .maskw a .. => some a
  | .waitc a .. => some a
  | .launch a _ => some a
  | _ => none

/-- The same park with another read. -/
def Await.withAccess (w : Await) (a : Access) : Await :=
  match w with
  | .lda _ n => .lda a n
  | .waitm _ c => .waitm a c
  | .maskw _ p t d => .maskw a p t d
  | .waitc _ base bit => .waitc a base bit
  | .launch _ l => .launch a l
  | w => w

/-- A wait's faulted lanes read again. `was` is the record as it was made: a WAITC whose word 0 faulted goes on with the
address that its record now holds for it. -/
def State.replayWait (s0 : State) (b g : Nat) (was a : Access) : State :=
  let s := s0.turnTo b g fun p => p.what.access.any (·.seq == a.seq)
  match (s.grp b g).await with
  | some w =>
    match w.access with
    | some e =>
      if e.seq != a.seq then s
      else
        let m := a.lanesIn
        let r := s.recheck a m 1
        let base := match w with
          | .waitc _ base _ => was.vaAt (lowest m) == base && e.vaAt (lowest m) != base
          | _ => false
        let e1 := if base then { e with fault := e.fault &&& ~~~m, conf := e.conf &&& ~~~m } else e.again a m
        let e2 := e1.failCodes r.2
        let w1 := match w.withAccess e2 with
          | .waitc x old bit => .waitc x (if base then a.vaAt (lowest m) else old) bit
          | x => x
        let bad : Access := ({ a with fault := 0, conf := 0 } : Access).failCodes r.2
        ((r.1.setAwait b g w1).faultsReady b g bad.faults).postOnce (.waitReread b g)
    | none => s
  | none => s

/-- A wait's faulted lanes dropped: LDA and WAITM go on with the others, MASKW completes with a false predicate, WAITC
completes, and LAUNCH ends without a launch. -/
def State.dropWait (s0 : State) (b g : Nat) (a : Access) : State :=
  let m := a.lanesIn
  let s := s0.turnTo b g fun p => p.what.access.any (·.seq == a.seq)
  match (s.grp b g).await with
  | some w =>
    match w.access with
    | some e =>
      if e.seq != a.seq then s
      else
        let e1 := { e.again a m with wait := e.wait &&& ~~~m }
        match w with
        | .maskw x p .. => s.finishMaskw b g x p false
        | .waitc _ base bit => s.setAwait b g (.waitc { e1 with wait := 0 } base bit)
        | .launch .. => (s.dropLoad b g a).setAwait b g .nothing
        | _ => (s.setAwait b g (w.withAccess e1)).postOnce (.waitReread b g)
    | none => s
  | none => s

/-! ### ERET (R357) -/

/-- What ERET does with the access that record 0 holds. Log 50 (DEDUCED). -/
def State.settleRecord (s : State) (b g : Nat) (replay : Bool) (was a : Access) : State :=
  if a.kind = 6 then s
  else if a.kind = 2 || a.kind = 3 then (if replay then s.replayEntry b a else s.dropEntry b a)
  else if a.op < 0xA6 then (if replay then s.replayLoad b g a else s.dropLoad b g a)
  else if replay then s.replayWait b g was a
  else s.dropWait b g a

/-- ERET once the handler's own results and entries are done. Log 27 (DEDUCED). -/
def State.finishEret (s : State) (b g : Nat) (replay : Bool) : State :=
  let r := s.readTrapArea b g
  match r.2 with
  | none => r.1.hwError b 7
  | some l =>
    let y := r.1.grp b g
    let old := y.record0.bind (·.acc)
    let k := r.1.readSlot b g l
    let q := match old with
      | some a =>
        let t := k.1.readSeg (k.1.partyOf b) (y.frame.toNat + 0x6000) 0x400
        (t.1, if t.2.1 = 0 then some (some (a.reload t.2.2)) else none)
      | none => (k.1, some none)
    match k.2, q.2 with
    | none, _ => q.1.hwError b 7
    | _, none => q.1.hwError b 7
    | some slot, some now =>
      if tableBad (trapTable l) then q.1.endBlock b .failed 7
      else
        let s1 := q.1.updGrp b g fun y =>
          { ((y.loadTrapArea l).loadTable (trapTable l)).loadCapsule l slot with
            level := false
            record0 := none
            park := if getLe l 0x70 8 % 16 = 0 then none else y.kept
            more := if getLe l 0x70 8 % 16 = 0 then [] else y.keptMore
            kept := none
            keptMore := []
            switchDue := y.keptSwitch
            keptSwitch := false }
        let s2 := match old, now with
          | some was, some a => s1.settleRecord b g replay was a
          | _, _ => s1
        s2.resumeGroup b g

/-- ERET. -/
def execEret (r : BitVec 1) (g : BitVec 4) (s : State) : Host.Outcome State Fault Refusal :=
  issueWord (.eret r g) s fun I s => if I.act == 0 then s else s.parkOn I.b I.g .switch (.eret (r == 1))

/-! ### CTXSV and CTXLD (R365) -/

/-- The image of the program state to which ERET would return. -/
def Group.programImage (y : Group) (l : List Byte) : List (Nat × List Byte) :=
  let y1 := y.loadTrapArea l
  (0, y1.header false false false 0 (getLe l 0x70 8 % 16)) :: y1.imageSegs (trapTable l)

/-- CTXSV once its release has committed: the image written at the homes. -/
def State.writeImage (s : State) (b g : Nat) (va : Word) : State :=
  let r := s.readTrapArea b g
  match r.2 with
  | none => r.1.hwError b 7
  | some l =>
    let w := r.1.writeSegs (r.1.partyOf b) va.toNat ((r.1.grp b g).programImage l)
    if w.2 != 0 then w.1.endBlock b .failed 2 else w.1.setAwait b g .nothing

/-- The address of an image: that of the lowest active lane. -/
def Issue.imageVa (I : Issue) (a : BitVec 5) : Word := I.G.rv a.toNat (lowest I.act)

/-- CTXSV. Log 98 (DEDUCED). -/
def execCtxsv (a : BitVec 5) (g : BitVec 4) (s : State) : Host.Outcome State Fault Refusal :=
  issueWord (.ctxsv a g) s fun I s =>
    let va := I.imageVa a
    if I.act == 0 then s
    else if va.toNat % 4096 != 0 then I.trap s (I.trapOf 2 (memDetail va 0 false true 1 I.act) [])
    else if !s.releaseOk I then I.block s .commit
    else
      let s1 := s.startCommit I.b false
      s1.parkOn I.b I.g .handler (.image (s1.blk I.b).lastCommit va)

/-- The trap area that an image gives, with the capsule state and the park that ERET takes up. -/
def imageTrapSegs (l : List Byte) : List (Nat × List Byte) :=
  [(0x0038, bytesLe 24 0), (0x0050, (l.drop 0x50).take 16), (0x0070, (l.drop 0x70).take 8),
    (0x5000, (l.drop 0x5000).take 0x830), (0x0200, (l.drop 0x100).take 256),
    (0x0320, (List.range 32).flatMap fun L => (l.drop (0x900 + 16 * L)).take 4),
    (0x0400, (l.drop 0x3000).take 1024), (0x0800, (l.drop 0xB00).take 32)]

/-- An image loaded into the live state, but for what belongs to the trap area. What is loaded is not pending; the
handler's own v0 to v3, s0 to s3 and p0 to p31 stay as they are. The park that its PARKR names is the one that the group
keeps, if it keeps one of that reason. Log 95 (DEDUCED). -/
def Group.takeImage (y : Group) (l : List Byte) : Group :=
  let all := BitVec.allOnes 32
  let y1 := (y.loadImage l).loadHeader l (l.drop 0x5000)
  let y2 := (List.range 4).foldl (fun z r => (z.wv r all fun L => y.rv r L).ws r (y.rs r)) y1
  let y3 := (List.range 32).foldl (fun z i => z.wp i all (y.rp i)) y2
  let kept := if y.kept.any fun p => p.reason.code == getLe l 0x70 8 % 16 then y.kept else none
  { y3 with
    pendV := y.pendV &&& trapRegsV, pendS := y.pendS &&& trapRegsV, pendP := y.pendP &&& trapRegsP
    kept := kept, keptMore := if kept.isSome then y.keptMore else [] }

/-- CTXLD's effect. -/
def State.readImage (s : State) (b g : Nat) (va : Word) : State :=
  let r := (s.acquire b 4).readSeg (s.partyOf b) va.toNat imageSize
  if r.2.1 != 0 then r.1.endBlock b .failed 1
  else
    let l := r.2.2
    if headerBad l || tableBad ((l.drop 0x100).take 256) then r.1.endBlock b .failed 7
    else
      let w := r.1.writeSegs (r.1.partyOf b) (s.grp b g).frame.toNat (imageTrapSegs l)
      if w.2 != 0 then w.1.hwError b 7
      else (w.1.updGrp b g fun y => y.takeImage l).parkOn b g .handler .nothing

/-- CTXLD. Log 98 (DEDUCED). -/
def execCtxld (a : BitVec 5) (g : BitVec 4) (s : State) : Host.Outcome State Fault Refusal :=
  issueWord (.ctxld a g) s fun I s =>
    let va := I.imageVa a
    if I.act == 0 then s
    else if va.toNat % 4096 != 0 then I.trap s (I.trapOf 1 (memDetail va 0 false false 1 I.act) [])
    else s.readImage I.b I.g va

/-! ### TLBI and PSUMI (R366) -/

/-- Every entry of a space taken out of a die's memory-side TLB, or those that map an address. -/
def Die.dropTlb (d : Die) (space : Nat) (va : Option Word) : Die :=
  { d with tlb := match va with
      | none => d.tlb.filter fun kv => kv.1 / 2 ^ 53 % 256 != space
      | some v => [0, 1, 2, 3].foldl (fun m n => odel m (tlbKey n space v)) d.tlb }

/-- The memory-side TLB entries that an operand names removed. -/
def State.invalidateTlb (s : State) (w : Word) : State :=
  let space := bits w 56 8
  if w.getLsbD 55 then
    { s with die0 := s.die0.dropTlb space none, die1 := s.die1.dropTlb space none }
  else s.updDie (ownerOf w) fun d => d.dropTlb space (some (BitVec.ofNat 64 (bits w 0 53)))

/-- TLBI. -/
def execTlbi (a : BitVec 5) (g : BitVec 4) (s : State) : Host.Outcome State Fault Refusal :=
  issueWord (.tlbi a g) s fun I s =>
    let w := I.imageVa a
    if I.act == 0 then s
    else if bits w 53 2 != 0 || bits w 0 12 != 0 then s.endBlock I.b .failed 7
    else (s.invalidateTlb w).parkOn I.b I.g .handler .nothing

/-- The permission-summary entries that an operand names removed from every core. Log 35 (DEDUCED). -/
def State.invalidateSummary (s : State) (w : Word) : State :=
  let space := bits w 56 8
  let gone (k : Nat) : Bool := if w.getLsbD 55 then k / 2 ^ 23 == space else k == summaryKey space w
  { s with cores := s.cores.map fun kv =>
      (kv.1, kv.2.map fun c => { c with summary := c.summary.filter fun e => !gone e.1 }) }

/-- PSUMI. -/
def execPsumi (a : BitVec 5) (g : BitVec 4) (s : State) : Host.Outcome State Fault Refusal :=
  issueWord (.psumi a g) s fun I s =>
    let w := I.imageVa a
    if I.act == 0 then s
    else if bits w 53 2 != 0 || bits w 0 30 != 0 then s.endBlock I.b .failed 7
    else s.invalidateSummary w

/-! ### HARDWARE_ERROR (R369) -/

/-- A block runs twinned (R368): its grid does, and it is no Pruner job. -/
def State.twinned (s : State) (b : Nat) : Bool := (s.gridOf b).twin && (s.blk b).job.isNone

/-- The issues of some words of a block have differed once, so that they may do so a second time (R368). -/
def State.twinDue (s : State) (b : Nat) : Bool := s.twinned b && (oitems (s.blk b).groups).any fun g => g.2.twinBad

/-- HARDWARE_ERROR. A twin-issue mismatch is one only where the words that it is of have been issued twice more. -/
def execHardwareError (blk cause : Nat) (s : State) : Host.Outcome State Fault Refusal :=
  .next (if cause = 2 && !s.twinDue blk then s else s.hwError blk cause)

end Sys2Proof.Machine
end

