-- ==== Sys2Proof/Machine/Host.lean ====
section
/-!
DEFINITION. The host, the second-tier ports, the fabric and the bridge (R56, R278, R370 to R380): doorbells, queues,
configuration registers, host accesses through BAR2 and CXL.mem, inbound RMA, port decoders and links. Messages that
leave the package have these kinds: 20 data of a host read, 21 Unsupported Request, 22 poisoned data, 23 a line the
host takes, 24 a coherent read; 30 an acknowledgement to a peer, 31 RMA read data, 32 poisoned RMA read data, 33 a
negative acknowledgement, 34 a not-supported one.
-/

namespace Sys2Proof.Machine

/-- What the host does reaches the device only once its ports have come up (R381). -/
def State.ifRunning (s : State) (t : State) : State := if s.boot = .running then t else s

/-! ### Queues and doorbells (R372 to R374) -/

/-- A doorbell rung with a new total count. -/
def State.doorbell (s : State) (q : Nat) (value : Word) : State :=
  let x := s.queue q
  if 65536 ≤ q then s
  else if !x.en || decide (value.toNat < x.prod) || decide (x.cons + 2 ^ x.depthLog < value.toNat) then s.queueError q 1
  else (s.updQueue q fun x => { x with prod := value.toNat }).postOnce .descriptorAccept

/-- DOORBELL_WRITE (R373, R374). -/
def execDoorbellWrite (queue : Nat) (value : BitVec 64) (s : State) : Host.Outcome State Fault Refusal :=
  .next (s.ifRunning (s.doorbell queue value))

/-- EN := 1. -/
def State.enableQueue (s : State) (q : Nat) : State :=
  if 65536 ≤ q then s else (s.updQueue q fun x => { x with en := true, err := false }).postOnce .descriptorAccept

/-- QUEUE_ENABLE (R372, R374). -/
def execQueueEnable (queue : Nat) (s : State) : Host.Outcome State Fault Refusal :=
  .next (s.ifRunning (s.enableQueue queue))

/-- EN := 0. -/
def State.disableQueue (s : State) (q : Nat) : State :=
  if 65536 ≤ q then s else s.updQueue q fun x => { x with en := false }

/-- QUEUE_DISABLE (R372). -/
def execQueueDisable (queue : Nat) (s : State) : Host.Outcome State Fault Refusal :=
  .next (s.ifRunning (s.disableQueue queue))

/-! ### Configuration registers (R56, R370 to R372, R382) -/

/-- A home agent register written (R56, R371). Log 14 (DESIGN CHOICE). -/
def Die.setReg (d : Die) (k : Nat) (v : Word) : Die :=
  match k with
  | 0 => { d with sdtBase := v }
  | 1 => { d with ownBase := v }
  | 2 => { d with cntBase := v }
  | 3 => { d with ringBase := v }
  | 4 => { d with ringSize := v }
  | 5 => { d with actThresh := v }
  | 6 => { d with peerBase := v }
  | 7 => { d with elogBase := v }
  | _ => d

/-- A word of a queue's entry written: ignored while EN = 1; CONS and PROD are read-only (R372). Log 15 (DEDUCED). -/
def Queue.setReg (x : Queue) (k : Nat) (v : Word) : Queue :=
  if x.en then x
  else
    match k with
    | 0 => { x with ring := v }
    | 1 => { x with depthLog := bits v 16 5, space := bits v 8 8, prio := bits v 4 4 }
    | 2 => { x with handler := v }
    | 3 => { x with arena := v }
    | 4 => { x with arenaSize := v }
    | _ => x

/-- The mailbox's operands written (R382). -/
def Mailbox.setReg (x : Mailbox) (k : Nat) (v : Word) : Mailbox :=
  match k with
  | 1 => { x with arg0 := v }
  | 2 => { x with arg1 := v }
  | 4 => { x with resp := v }
  | _ => x

/-- A command of the mailbox starts, which STATUS shows as running until its own step completes it (R382).
Log 19 (DESIGN CHOICE). -/
def State.startMail (s : State) (n : Word) (i : Instr) : State :=
  ({ s with mailbox := { s.mailbox with cmd := n, status := 1 } } : State).post i

/-- A write of the register CMD (R382): it starts the command of its number, and while one runs it is ignored. The image
that command 6 loads is what the host offers at this time. Log 19 (DESIGN CHOICE). -/
def State.writeCmd (s : State) (v : Word) : State :=
  if s.mailbox.status = 1 then s
  else
    match v.toNat with
    | 1 => s.startMail v .mailboxAttest
    | 2 => s.startMail v .mailboxTelemetryRead
    | 3 => s.startMail v .mailboxClearSuspect
    | 4 => s.startMail v .mailboxSetPowerCap
    | 5 => s.startMail v .mailboxReadCertificate
    | 6 => s.takeFree.2.startMail v (.mailboxLoadFirmware s.takeFree.1.toNat)
    | _ => { s with mailbox := { s.mailbox with cmd := v, status := 2 } }

/-- A word of a queue's entry written, EN included (R372); a grid for which no slice fitted is tried again where its arena may
have changed (R375). Log 15 (DEDUCED). -/
def State.setQueueWord (s : State) (q k : Nat) (v : Word) : State :=
  let s1 := s.updQueue q fun x => x.setReg k v
  if k = 1 then (if v.getLsbD 0 then s1.enableQueue q else s1.disableQueue q)
  else if k = 3 || k = 4 then s1.postAll s1.sliceWaiters
  else s1

/-- A write of 8 bytes at an offset of BAR0 (R370). Log 14 (DESIGN CHOICE). -/
def State.writeReg (s : State) (off : Nat) (v : Word) : State :=
  if off % 8 != 0 then s
  else if off = 0 then s.writeCmd v
  else if off < 0x100000 then { s with mailbox := s.mailbox.setReg (off / 8) v }
  else if off < 0x120000 then s.updDie (off / 0x10000 % 2) fun d => d.setReg (off % 0x10000 / 8) v
  else if 0x1000000 ≤ off && off < 0x1400000 then s.setQueueWord ((off - 0x1000000) / 64) (off % 64 / 8) v
  else s

/-- CONFIG_REGISTER_WRITE (R371). The mailbox answers in recovery too (R381). -/
def execConfigRegisterWrite (off : Nat) (value : BitVec 64) (s : State) : Host.Outcome State Fault Refusal :=
  .next (if s.boot = .running || (off < 0x100000 && s.boot != .rom) then s.writeReg off value else s)

/-! ### Host accesses to device memory (R62, R278, R370) -/

/-- The bytes of a mask of a physical line, as its point of coherence has them, and their poison (R278).
Log 85 (DESIGN CHOICE). -/
def State.hostView (s : State) (d line : Nat) (mask : Line) : Line × Line :=
  match s.ownerOfPa d (line * 128) with
  | some o => s.viewLine d (lineKey o.1 (lineNo o.2)) (line * 128) mask
  | none => (s.physLine d (line * 128) mask, s.physPoison d (line * 128) &&& mask)

/-- The pieces of an access of n bytes at an address that lie in one line each: the line, the place in it and the
length. -/
def linePieces (at_ n : Nat) : List (Nat × Nat × Nat) :=
  (List.range (n / 128 + 2)).filterMap fun i =>
    let line := at_ / 128 + i
    let lo := max at_ (line * 128)
    let hi := min (at_ + n) (line * 128 + 128)
    if lo < hi then some (line, lo % 128, hi - lo) else none

/-- The range of BAR2 of one die (R370). -/
def bar2Half : Nat := 0x4000000000

/-- Every byte of a BAR2 access is backed by HBM (R370). -/
def bar2Backed (off n : Nat) : Bool :=
  decide (off < 2 * bar2Half) && (linePieces off n).all fun p => decide (p.1 * 128 % bar2Half + p.2.1 + p.2.2 ≤ hbmEnd)

/-- A host read through BAR2 (R370, R277): committed bytes at the point of coherence, or Unsupported Request. -/
def State.bar2Read (s : State) (off n : Nat) : State :=
  if !bar2Backed off n then s.send 21 off []
  else
    let r := (linePieces off n).map fun p =>
      let d := p.1 * 128 / bar2Half
      let v := s.hostView d (p.1 * 128 % bar2Half / 128) (bytesMask p.2.1 p.2.2)
      (bytesLe p.2.2 (lineGet v.1 p.2.1 p.2.2), v.2 != 0)
    s.send (if r.any (·.2) then 22 else 20) off (r.flatMap (·.1))

/-- HOST_BAR2_READ (R370). -/
def execHostBar2Read (off len : Nat) (s : State) : Host.Outcome State Fault Refusal :=
  .next (s.ifRunning (s.bar2Read off len))

/-- A host write through BAR2 (R370, R277), merged line by line in the order it has. -/
def State.bar2Write (s : State) (off : Nat) (data : List Byte) : State :=
  if !bar2Backed off data.length then s
  else
    ((linePieces off data.length).foldl
      (fun (r : State × List Byte) p =>
        (r.1.hostMerge (p.1 * 128 / bar2Half) (p.1 * 128 % bar2Half / 128) (bytesMask p.2.1 p.2.2)
          (linePut (leBytes (r.2.take p.2.2)) p.2.1 p.2.2), r.2.drop p.2.2)) (s, data)).1

/-- HOST_BAR2_WRITE (R370). -/
def execHostBar2Write (off : Nat) (data : List (BitVec 8)) (s : State) : Host.Outcome State Fault Refusal :=
  .next (s.ifRunning (s.bar2Write off data))

/-- The host takes a device line for writing (R278): the die's L2 copy is written below and dropped, and the host has
the line. L1 lines and the other die's remote copies are not touched. -/
def State.takeLine (s : State) (d line : Nat) : State :=
  if 2 ≤ d || !inHbm (line * 128) then s.send 21 (physKey d (line * 128)) []
  else
    let v := s.hostView d line (BitVec.allOnes 1024)
    let s1 := match s.ownerOfPa d (line * 128) with
      | some o => s.evictL2 d (lineKey o.1 (lineNo o.2))
      | none => s
    (s1.updDie d fun x => { x with hostLines := oset x.hostLines line ⟨true, false, (oget x.hostLines line).bind (·.data)⟩ }).send (if v.2 = 0 then 23 else 22)
      (physKey d (line * 128)) (bytesLe 128 v.1.toNat)

/-- HOST_TAKE_LINE (R278). -/
def execHostTakeLine (die line : Nat) (s : State) : Host.Outcome State Fault Refusal :=
  .next (s.ifRunning (s.takeLine die line))

/-- The host gives back a line that it has, with its data (R278). Log 21 (DESIGN CHOICE). -/
def State.lineBack (s : State) (d line : Nat) (data : List Byte) : State :=
  if (oget (s.die d).hostLines line).isNone then s
  else
    (s.hostMerge d line (BitVec.allOnes 1024) (linePut (leBytes (data.take 128)) 0 128)).updDie d fun x =>
      { x with hostLines := odel x.hostLines line }

/-- HOST_LINE_WRITEBACK (R278). -/
def execHostLineWriteback (die line : Nat) (data : List (BitVec 8)) (s : State) : Host.Outcome State Fault Refusal :=
  .next (s.ifRunning (s.lineBack die line data))

/-- BACK_INVALIDATE_RESPONSE (R278): the host no longer caches the line, and what waited for that goes on. A line that the
host has changed comes back with its data, which is merged first. Log 21 (DESIGN CHOICE), 85 (DESIGN CHOICE). -/
def execBackInvalidateResponse (die line : Nat) (s : State) : Host.Outcome State Fault Refusal :=
  .next ((match (oget (s.die die).hostLines line).bind (·.data) with
      | some v => s.hostMerge die line (BitVec.allOnes 1024) v
      | none => s).updDie die fun x => { x with hostLines := odel x.hostLines line })

/-- A host coherent read (R278): the committed line, of which the host then has a copy. Log 22 (DEDUCED). -/
def State.coherentRead (s : State) (d line : Nat) : State :=
  if 2 ≤ d || !inHbm (line * 128) then s.send 21 (physKey d (line * 128)) []
  else
    let v := s.hostView d line (BitVec.allOnes 1024)
    (s.updDie d fun x => { x with hostLines := oset x.hostLines line ((oget x.hostLines line).getD ⟨false, false, none⟩) }).send
      (if v.2 = 0 then 24 else 22) (physKey d (line * 128)) (bytesLe 128 v.1.toNat)

/-- HOST_COHERENT_READ (R278). -/
def execHostCoherentRead (die line : Nat) (s : State) : Host.Outcome State Fault Refusal :=
  .next (s.ifRunning (s.coherentRead die line))

/-! ### Inbound RMA (R377 to R379) -/

/-- The space of an entry of the peer table, if it is valid and has a JOB and a RIDX (R378, R379). -/
def State.peerMatch (s : State) (d job ridx n : Nat) : Option Nat :=
  let at_ := (s.die d).peerBase.toNat + 32 * n
  let w : Word := BitVec.ofNat 64 (s.physRead 0 at_ 8)
  let z := s.physRead 0 (at_ + 0x18) 8
  if w.getLsbD 63 && bits w 48 15 == 0 && decide (z < 256) && bits w 24 24 == job && bits w 0 12 == ridx then some z
  else none

/-- The first such entry among k from entry n on. -/
def State.peerFrom (s : State) (d job ridx : Nat) : (k n : Nat) → Option Nat
  | 0, _ => none
  | k + 1, n =>
    match s.peerMatch d job ridx n with
    | some z => some z
    | none => s.peerFrom d job ridx k (n + 1)

/-- The space of the first such entry of the peer table of 4,096. -/
def State.peerSpace (s : State) (d job ridx : Nat) : Option Nat := s.peerFrom d job ridx 4096 0

/-- The pieces of an inbound access translated, in order: none where one faults. -/
def State.inboundXlate (s : State) (space need : Nat) : List (Nat × Nat × Nat) → State × Option (List Xlate)
  | [] => (s, some [])
  | p :: t =>
    let va : Word := BitVec.ofNat 64 (p.1 * 128 + p.2.1)
    if 2 ^ 53 ≤ p.1 * 128 then (s, none)
    else
      let r := s.translate space va need
      if r.2.code != 0 then (r.1, none)
      else
        let q := r.1.inboundXlate space need t
        (q.1, q.2.map (r.2 :: ·))

/-- The pieces of an inbound access with their translations, or none where it is refused. -/
def State.inbound (s : State) (d job ridx need va n : Nat) : State × Option (Nat × List ((Nat × Nat × Nat) × Xlate)) :=
  match s.peerSpace d job ridx with
  | none => (s, none)
  | some space =>
    let ps := linePieces va n
    let r := s.inboundXlate space need ps
    (r.1, r.2.map fun l => (space, ps.zip l))

/-- The first piece whose line the host caches, with its die (R278). -/
def State.inboundHeld (s : State) (l : List ((Nat × Nat × Nat) × Xlate)) : Option (Nat × Nat) :=
  l.findSome? fun p =>
    let o := ownerOfLine p.1.1
    if s.hostCaches o p.2.pa then some (o, p.2.pa) else none

/-- Bytes of a peer merged piece by piece at their points of coherence (R379), where they feed a Sieve (R76), as
the model reads it. Log 45 (DEDUCED). -/
def State.inboundMerge (s : State) (space : Nat) (l : List ((Nat × Nat × Nat) × Xlate)) (data : List Byte) : State :=
  (l.foldl
    (fun (r : State × List Byte) p =>
      (r.1.mergeLine (outsider (ownerOfLine p.1.1) space) p.1.1 (p.2.pa / 128 * 128) p.2.bitmap (p.2.entry.getLsbD 60)
        (bytesMask p.1.2.1 p.1.2.2) (linePut (leBytes (r.2.take p.1.2.2)) p.1.2.1 p.1.2.2), r.2.drop p.1.2.2)) (s, data)).1

/-- The bytes of an inbound access, and whether any is poisoned. -/
def State.inboundView (s : State) (space : Nat) (l : List ((Nat × Nat × Nat) × Xlate)) : List Byte × Bool :=
  l.foldl
    (fun r p =>
      let v := s.viewLine (ownerOfLine p.1.1) (lineKey space p.1.1) (p.2.pa / 128 * 128) (bytesMask p.1.2.1 p.1.2.2)
      (r.1 ++ bytesLe p.1.2.2 (lineGet v.1 p.1.2.1 p.1.2.2), r.2 || v.2 != 0)) ([], false)

/-- An inbound RMA write; while the host caches one of its lines it waits for the back-invalidation. -/
def State.rmaWrite (s : State) (d job ridx va : Nat) (data : List Byte) : State :=
  let r := s.inbound d job ridx 2 va data.length
  match r.2 with
  | none => r.1.send 33 va []
  | some l =>
    match s.inboundHeld l.2 with
    | some h => (s.backInvalidate h.1 h.2).post (.inboundRmaWrite d job ridx va data)
    | none => (r.1.inboundMerge l.1 l.2 data).send 30 va []

/-- INBOUND_RMA_WRITE (R379). -/
def execInboundRmaWrite (die job ridx va : Nat) (data : List (BitVec 8)) (s : State) : Host.Outcome State Fault Refusal :=
  .next (s.ifRunning (s.rmaWrite die job ridx va data))

/-- The lines of an inbound access that a host has for writing (R278). -/
def State.inboundTaken (s : State) (l : List ((Nat × Nat × Nat) × Xlate)) : List (Nat × Nat) :=
  l.filterMap fun p => if s.hostWrites (ownerOfLine p.1.1) p.2.pa then some (ownerOfLine p.1.1, p.2.pa) else none

/-- An inbound RMA read; it waits for the lines that a host has for writing. -/
def State.rmaRead (s : State) (d job ridx va len : Nat) : State :=
  let r := s.inbound d job ridx 1 va len
  match r.2 with
  | none => r.1.send 33 va []
  | some l =>
    match s.inboundTaken l.2 with
    | h :: t => (s.askHost (h :: t)).post (.inboundRmaRead d job ridx va len)
    | [] =>
    let v := r.1.inboundView l.1 l.2
    r.1.send (if v.2 then 32 else 31) va v.1

/-- INBOUND_RMA_READ (R379). -/
def execInboundRmaRead (die job ridx va len : Nat) (s : State) : Host.Outcome State Fault Refusal :=
  .next (s.ifRunning (s.rmaRead die job ridx va len))

/-- An inbound 64-bit atomic add; an address that is not a multiple of 8 is refused. Log 24 (DEDUCED). -/
def State.rmaAtomic (s : State) (d job ridx va : Nat) (addend : Word) : State :=
  let r := s.inbound d job ridx 3 va 8
  match (if va % 8 = 0 then r.2 else none) with
  | none => r.1.send 33 va []
  | some l =>
    match s.inboundHeld l.2 with
    | some h => (s.backInvalidate h.1 h.2).post (.inboundRmaAtomic d job ridx va addend)
    | none =>
      let v := r.1.inboundView l.1 l.2
      (r.1.inboundMerge l.1 l.2 (bytesLe 8 (leBytes v.1 + addend.toNat))).send 30 va []

/-- INBOUND_RMA_ATOMIC (R379). -/
def execInboundRmaAtomic (die job ridx va : Nat) (addend : BitVec 64) (s : State) : Host.Outcome State Fault Refusal :=
  .next (s.ifRunning (s.rmaAtomic die job ridx va addend))

/-- INBOUND_UNSUPPORTED_PACKET (R377). -/
def execInboundUnsupportedPacket (die kind : Nat) (s : State) : Host.Outcome State Fault Refusal :=
  .next (s.ifRunning (s.send 34 (die * 2 ^ 16 + kind) []))

/-! ### Second-tier ports (R376) -/

def Die.port (d : Die) (p : Nat) : Port := (oget d.ports p).getD Port.zero

/-- Two ranges have a byte in common. -/
def rangesMeet (b1 n1 b2 n2 : Nat) : Bool := decide (b1 < b2 + n2) && decide (b2 < b1 + n1) && n1 != 0 && n2 != 0

/-- A decoder written: the low 28 bits of BASE and SIZE are not held. A range that meets that of another enabled port of
the die leaves the port disabled and is logged. Log 16 (DESIGN CHOICE). -/
def State.setDecoder (s : State) (d p base size : Nat) : State :=
  if 2 ≤ d || 5 ≤ p then s
  else
    let b := base / 2 ^ 28 * 2 ^ 28
    let n := size / 2 ^ 28 * 2 ^ 28
    let clash := (oitems (s.die d).ports).any fun q => q.1 != p && q.2.enabled && rangesMeet q.2.base q.2.size b n
    let s1 := s.updDie d fun x => { x with ports := oset x.ports p { x.port p with base := b, size := n, enabled := !clash } }
    if clash then s1.logPort d p else s1

/-- SECOND_TIER_DECODER_WRITE (R376). -/
def execSecondTierDecoderWrite (die port base size : Nat) (s : State) : Host.Outcome State Fault Refusal :=
  .next (s.ifRunning (s.setDecoder die port base size))

/-- A port's link goes down or comes up. -/
def State.setLink (s : State) (d p : Nat) (up : Bool) : State :=
  if 2 ≤ d || 5 ≤ p then s else s.updDie d fun x => { x with ports := oset x.ports p { x.port p with up := up } }

/-- SECOND_TIER_LINK_DOWN (R376). -/
def execSecondTierLinkDown (die port : Nat) (s : State) : Host.Outcome State Fault Refusal :=
  .next (s.setLink die port false)

/-- SECOND_TIER_LINK_UP (R376). -/
def execSecondTierLinkUp (die port : Nat) (s : State) : Host.Outcome State Fault Refusal :=
  .next (s.setLink die port true)

/-! ### The bridge (R380) -/

/-- A request whose data is on its way across the bridge (R380). -/
def LineReq.crossing (r : LineReq) : Bool := r.served && !r.returned && r.crossed

/-- Data of a load that is on its way across the bridge, poisoned. Log 17 (DESIGN CHOICE). -/
def Access.poisonRemote (a : Access) : Access :=
  { a with reqs := a.reqs.map fun r => if r.crossing then { r with poison := BitVec.allOnes 1024 } else r }

/-- The lines whose data is on its way to a block, with the sectors asked for. -/
def Block.crossing (x : Block) : List (Nat × Line) :=
  (oitems x.groups).flatMap fun y => y.2.loads.flatMap fun a =>
    (a.reqs.filter LineReq.crossing).map fun r => (r.line, sectorsOf (needOf a r.lanes))

/-- The copies that such data fills in the L1 of the core and in the remote lines of its die, poisoned with it (R89).
Log 17 (DESIGN CHOICE). -/
def State.poisonCopies (s : State) (b : Nat) : State :=
  let x := s.blk b
  x.crossing.foldl
    (fun s r =>
      let key := lineKey x.space r.1
      (s.updL1 x.core fun m => oupd m key fun l => { l with poison := l.poison ||| (l.valid &&& r.2) }).updL2
        (dieOfCore x.core) key fun l => { l with poison := l.poison ||| (l.valid &&& r.2) }) s

/-- A block whose data on the bridge arrives poisoned: the lines its loads wait for and those of its commits that are
under way. Log 17 (DESIGN CHOICE). -/
def Block.poisonBridge (x : Block) : Block :=
  let d := dieOfCore x.core
  { x with
    groups := x.groups.map fun kv => (kv.1, kv.2.map fun y => { y with loads := y.loads.map Access.poisonRemote })
    commits := x.commits.map fun c =>
      { c with bad := c.bad ++ ((oitems c.lines).filter fun h => ownerOfLine h.1 != d).map (·.1) } }

/-- The Bed lines that a copy has still to land with data that has crossed the bridge to a die, each with the chunk that
brought it. Log 17 (DESIGN CHOICE). -/
def Command.crossing (c : Command) (d : Nat) : List (Nat × Nat) :=
  if c.landing.isEmpty then []
  else if bits (c.word 0) 60 4 = 2 then
    (c.landing.filter fun l => l.src != 0 && ownerOf (BitVec.ofNat 64 l.src) != d).map
      fun l => (l.line, (256 * l.line - c.ragged.dst) / 256)
  else if c.linear.fromMem then
    (List.range c.next).flatMap fun k =>
      ((c.pieces k).filter fun p => ownerOf (BitVec.ofNat 64 p.src) != d).map fun p => (p.dst / 256, k)
  else []

/-- Such a line arrives poisoned: a Bed line takes no poison, and its chunk fails (R142). -/
def Command.poisonLine (c : Command) (r : Nat × Nat) : Command :=
  { c.chunkFails r.2 3 with landing := c.landing.map fun l => if l.line = r.1 then { l with failed := true } else l }

/-- A block's copies whose data is on the bridge. Log 17 (DESIGN CHOICE). -/
def State.poisonLandings (s : State) (b : Nat) : State :=
  let d := dieOfCore (s.blk b).core
  { s with cmds := s.cmds.map fun kv => (kv.1, kv.2.map fun c =>
      if c.blk = b && c.queue = 0 then (c.crossing d).foldl Command.poisonLine c else c) }

/-- A block has accesses out that the model performs in one step: engine commands, atomics, or the read of a wait.
Log 17 (DESIGN CHOICE). -/
def State.accessesOut (s : State) (b : Nat) : Bool :=
  (oitems s.cmds).any (fun c => c.2.blk == b && c.2.state != .done)
    || (s.lsb (s.blk b).core).any (fun a => a.blk == b && a.kind == 3)
    || (oitems (s.blk b).groups).any fun y => y.2.waitsFor fun w => w.access.isSome

/-- A lane of the bridge fails its retries. Which flits it carries is not in the manual: each block's are among them or
not, by a free value. Log 17 (DESIGN CHOICE). -/
def State.laneFails (s : State) (d lane : Nat) : State :=
  let r := (oitems s.blocks).foldl
    (fun (t : State) b =>
      let f := t.takeFree
      if f.1.getLsbD 0 then ((f.2.poisonCopies b.1).poisonLandings b.1).updBlk b.1 fun x =>
        { x.poisonBridge with flawed := f.2.accessesOut b.1 }
      else f.2) s
  (r.ringPush d (r.die d).elogBase.toNat (r.die d).ringSize.toNat 32 (5 * 2 ^ 56 + lane % 2 ^ 16)).1

/-- BRIDGE_LANE_FAILURE (R380). -/
def execBridgeLaneFailure (die lane : Nat) (s : State) : Host.Outcome State Fault Refusal :=
  .next (s.laneFails die lane)

/-! ### The L2's protection and the L1's mode (R85, R88) -/

/-- SRAM_RAIL_LOW (R88): way 7 of every set is written back and left, and the L2 keeps to its other ways. No value
changes. -/
def execSramRailLow (die : Nat) (s : State) : Host.Outcome State Fault Refusal :=
  .next ((s.clearWay7 die).updDie die fun d => { d with decTed := true })

/-- L2_SECDED_RESTORE (R88): way 7 is there again, empty. -/
def execL2SecdedRestore (die : Nat) (s : State) : Host.Outcome State Fault Refusal :=
  .next (s.updDie die fun d => { d with decTed := false })

/-- A cluster's L1 set to separate or fused, while no block is resident there; a change invalidates its lines. -/
def State.setFused (s : State) (cluster : Nat) (f : Bool) : State :=
  let busy := (oitems s.blocks).any fun b => b.2.life == .resident && b.2.job.isNone && clusterOfCore b.2.core == cluster
  if 12 ≤ cluster || busy || sget false s.fused cluster == f then s
  else
    { s with
      fused := sset false s.fused cluster f
      cores := s.cores.map fun kv => if clusterOfCore kv.1 = cluster then (kv.1, kv.2.map fun c => { c with l1 := [] }) else kv }

/-- CLUSTER_L1_MODE_WRITE (R85). -/
def execClusterL1ModeWrite (cluster : Nat) (fused : Bool) (s : State) : Host.Outcome State Fault Refusal :=
  .next (s.ifRunning (s.setFused cluster fused))

end Sys2Proof.Machine
end

