-- ==== Sys2Proof/Machine/IntOps.lean ====
section
/-!
DEFINITION. Integer and address arithmetic of one lane (09_integer_and_address.md R169 to R181) and the
comparisons of ISETP and FSETP (R24, R160). Every function gives the word written and the flags raised.
-/

namespace Sys2Proof.Machine

/-- The operation width n of W32 (R170). -/
def opWidth (w32 : Bool) : Nat := if w32 then 32 else 64

/-- UIn(x) (R170). -/
def uIn (n : Nat) (x : Word) : Nat := x.toNat % 2 ^ n

/-- SIn(x) (R170). -/
def sIn (n : Nat) (x : Word) : Int := intBits true n x.toNat

/-- IOut(v) (R170): v mod 2ⁿ, bit 31 copied into the upper half under W32. -/
def iOut (w32 : Bool) (v : Int) : Word :=
  if w32 then BitVec.signExtend 64 (BitVec.ofInt 32 v) else BitVec.ofInt 64 v

/-- Sat(v) of R170 and its overflow flag. -/
def iSat (n : Nat) (v : Int) : Int × Flags :=
  let c := clampInt (rangeOf true n) v
  (c.1, flagIf c.2 flagOVF)

/-- A saturating or a wrapping result. -/
def satOut (w32 sat : Bool) (u s : Int) : Word × Flags :=
  if sat then
    let c := iSat (opWidth w32) s
    (iOut w32 c.1, c.2)
  else (iOut w32 u, 0)

def intAdd (w32 sat : Bool) (a b : Word) : Word × Flags :=
  let n := opWidth w32
  satOut w32 sat (uIn n a + uIn n b : Nat) (sIn n a + sIn n b)

def intSub (w32 sat : Bool) (a b : Word) : Word × Flags :=
  let n := opWidth w32
  satOut w32 sat ((uIn n a : Int) - uIn n b) (sIn n a - sIn n b)

def intMul (w32 sat : Bool) (a b : Word) : Word × Flags :=
  let n := opWidth w32
  satOut w32 sat (uIn n a * uIn n b : Nat) (sIn n a * sIn n b)

/-- The upper half of the product; `/` on Int with a positive divisor rounds toward −∞ (R171). -/
def intMulh (w32 s : Bool) (a b : Word) : Word × Flags :=
  let n := opWidth w32
  let p : Int := if s then sIn n a * sIn n b else ((uIn n a * uIn n b : Nat) : Int)
  (iOut w32 (p / 2 ^ n), 0)

def intMad (w32 sat : Bool) (a b c : Word) : Word × Flags :=
  let n := opWidth w32
  satOut w32 sat (uIn n a * uIn n b + uIn n c : Nat) (sIn n a * sIn n b + sIn n c)

def intMin (w32 s : Bool) (a b : Word) : Word × Flags :=
  let n := opWidth w32
  (iOut w32 (if s then min (sIn n a) (sIn n b) else (min (uIn n a) (uIn n b) : Nat)), 0)

def intMax (w32 s : Bool) (a b : Word) : Word × Flags :=
  let n := opWidth w32
  (iOut w32 (if s then max (sIn n a) (sIn n b) else (max (uIn n a) (uIn n b) : Nat)), 0)

def intAbs (w32 sat : Bool) (a : Word) : Word × Flags :=
  let v : Int := (sIn (opWidth w32) a).natAbs
  satOut w32 sat v v

def intAnd (w32 : Bool) (a b : Word) : Word × Flags := (iOut w32 (a &&& b).toNat, 0)
def intOr (w32 : Bool) (a b : Word) : Word × Flags := (iOut w32 (a ||| b).toNat, 0)
def intXor (w32 : Bool) (a b : Word) : Word × Flags := (iOut w32 (a ^^^ b).toNat, 0)
def intAndn (w32 : Bool) (a b : Word) : Word × Flags := (iOut w32 (a &&& ~~~b).toNat, 0)

/-- A shift by the whole of b (R174). -/
def intShl (w32 : Bool) (a b : Word) : Word × Flags :=
  let n := opWidth w32
  (if n ≤ b.toNat then 0 else iOut w32 (uIn n a * 2 ^ b.toNat : Nat), 0)

def intShr (w32 : Bool) (a b : Word) : Word × Flags :=
  let n := opWidth w32
  (if n ≤ b.toNat then 0 else iOut w32 (uIn n a / 2 ^ b.toNat : Nat), 0)

def intSar (w32 : Bool) (a b : Word) : Word × Flags :=
  let n := opWidth w32
  (iOut w32 (sIn n a / 2 ^ min b.toNat n), 0)

def intRotl (w32 : Bool) (a b : Word) : Word × Flags :=
  let n := opWidth w32
  let k := b.toNat % n
  (iOut w32 (uIn n a * 2 ^ k + uIn n a / 2 ^ (n - k) : Nat), 0)

/-- The number of 1 bits below position n. -/
def popGo : Nat → Nat → Nat
  | 0, _ => 0
  | n + 1, x => x % 2 + popGo n (x / 2)

def intPopc (w32 : Bool) (a : Word) : Word × Flags := (BitVec.ofNat 64 (popGo (opWidth w32) a.toNat), 0)

def intClz (w32 : Bool) (a : Word) : Word × Flags :=
  let n := opWidth w32
  let x := uIn n a
  (BitVec.ofNat 64 (if x = 0 then n else n - 1 - x.log2), 0)

/-- n bits in reverse order. -/
def revGo : Nat → Nat → Nat → Nat
  | 0, _, r => r
  | n + 1, x, r => revGo n (x / 2) (2 * r + x % 2)

def intBrev (w32 : Bool) (a : Word) : Word × Flags := (iOut w32 (revGo (opWidth w32) a.toNat 0 : Nat), 0)

/-- BFX (R176). -/
def intBfx (s : Bool) (a b c : Word) : Word × Flags :=
  let p := min b.toNat 64
  let w := min c.toNat 64
  if w = 0 then (0, 0) else
  let src : Int := if s then sIn 64 a else (a.toNat : Int)
  (BitVec.ofInt 64 (intBits s w (src / 2 ^ p % 2 ^ w).toNat), 0)

/-- BFI (R176): d[p+w−1:p] replaced by a[w−1:0]. -/
def intBfi (d a b c : Word) : Word × Flags :=
  let p := min b.toNat 64
  let w := min c.toNat 64
  let m := BitVec.ofNat 64 ((2 ^ w - 1) * 2 ^ p)
  ((d &&& ~~~m) ||| (BitVec.ofNat 64 (a.toNat * 2 ^ p) &&& m), 0)

def intBsel (w32 : Bool) (d a b : Word) : Word × Flags := (iOut w32 ((a &&& d) ||| (b &&& ~~~d)).toNat, 0)

/-- ISAT (R179). -/
def intIsat (w32 s : Bool) (a b : Word) : Word × Flags :=
  let n := opWidth w32
  let w := min b.toNat n
  let r : Int × Int := if w = 0 then (0, 0) else rangeOf s w
  let c := clampInt r (sIn n a)
  (iOut w32 c.1, flagIf c.2 flagOVF)

/-- The quotient, the remainder and the flags of R180. -/
def intQuot (n : Nat) (s : Bool) (a b : Word) : Int × Int × Flags :=
  if s then
    let x := sIn n a
    let y := sIn n b
    if y = 0 then (-1, x, flagDZ)
    else if x = -(2 ^ (n - 1)) ∧ y = -1 then (-(2 ^ (n - 1)), 0, flagOVF)
    else (x.tdiv y, x.tmod y, 0)
  else
    let x := uIn n a
    let y := uIn n b
    if y = 0 then (2 ^ n - 1, x, flagDZ) else ((x / y : Nat), (x % y : Nat), 0)

def intDiv (w32 s : Bool) (a b : Word) : Word × Flags :=
  let q := intQuot (opWidth w32) s a b
  (iOut w32 q.1, q.2.2)

def intRem (w32 s : Bool) (a b : Word) : Word × Flags :=
  let q := intQuot (opWidth w32) s a b
  (iOut w32 q.2.1, q.2.2)

/-- LEA (R181): the home is kept, and an index that leaves it gives a fenced address. -/
def intLea (k : Nat) (a b : Word) : Word × Flags :=
  let full : Int := (a.toNat % 2 ^ 51 : Nat) + sIn 64 b * 2 ^ k
  if 0 ≤ full ∧ full < 2 ^ 51 then (BitVec.ofInt 64 ((a.toNat / 2 ^ 51 * 2 ^ 51 : Nat) + full), 0)
  else ((a + (b <<< k)) ||| BitVec.ofNat 64 (2 ^ 63), 0)

/-! ### Comparisons (R24, R160) -/

/-- ISETP's condition. -/
def iCmp (cc : Nat) (a b : Word) : Bool :=
  match cc with
  | 0 => a == b
  | 1 => a != b
  | 2 => a.slt b
  | 3 => a.sle b
  | 4 => b.slt a
  | 5 => b.sle a
  | 6 => a.ult b
  | 7 => a.ule b
  | 8 => b.ult a
  | _ => b.ule a

/-- FSETP's condition on FP32 means. -/
def fCmp (cc : Nat) (a b : Word) : Bool :=
  let x := meanOf a
  let y := meanOf b
  let un := x.isNan || y.isNan
  match cc with
  | 0 => x.eq y
  | 1 => un || !x.eq y
  | 2 => x.lt y
  | 3 => !un && (x.lt y || x.eq y)
  | 4 => y.lt x
  | 5 => !un && (y.lt x || x.eq y)
  | 6 => un || x.lt y
  | 7 => un || x.lt y || x.eq y
  | 8 => un || y.lt x
  | 9 => un || y.lt x || x.eq y
  | 10 => un || x.eq y
  | 11 => !un
  | _ => un

/-- FSETP's invalid flag (R160). -/
def fCmpFlags (a b : Word) : Flags := snanFlag (meanOf a) ||| snanFlag (meanOf b)

/-! ### Reductions across lanes (R50, R51, R167) -/

/-- The eight operations of REDG and SCAN (R25). -/
inductive RedOp where
  | iadd | imin | imax | and | or | xor | fadd | fmax
  deriving DecidableEq, Repr

/-- The identity an inactive lane enters with (R51). -/
def RedOp.identity (o : RedOp) (m : SMode) : Word :=
  match o with
  | .iadd => 0
  | .imin => 0x7FFFFFFFFFFFFFFF
  | .imax => 0x8000000000000000
  | .and => 0xFFFFFFFFFFFFFFFF
  | .or => 0
  | .xor => 0
  | .fadd => if m = .smp then 0x8000800080008000 else 0x80000000
  | .fmax => if m = .smp then 0xFF80FF80FF80FF80 else 0xFF800000

/-- One node of the tree. -/
def RedOp.node (o : RedOp) (m : SMode) (a b : Word) : Word × Flags :=
  match o with
  | .iadd => (a + b, 0)
  | .imin => intMin false true a b
  | .imax => intMax false true a b
  | .and => (a &&& b, 0)
  | .or => (a ||| b, 0)
  | .xor => (a ^^^ b, 0)
  | .fadd => let r := laneAdd m false 0 a b; (r.val, r.flags)
  | .fmax => let r := laneMinMax true m 0 a b; (r.val, r.flags)

/-- One level of the tree: neighbours paired, the lower lane on the left. -/
def redLevel (o : RedOp) (m : SMode) : List Word → List Word × Flags
  | a :: b :: t =>
    let n := o.node m a b
    let r := redLevel o m t
    (n.1 :: r.1, n.2 ||| r.2)
  | l => (l, 0)

/-- The tree of R50 over 32 lanes. -/
def redTree (o : RedOp) (m : SMode) : Nat → List Word → Word × Flags
  | 0, l => (l.headD 0, 0)
  | k + 1, l =>
    let r := redLevel o m l
    let q := redTree o m k r.1
    (q.1, r.2 ||| q.2)

/-- The tree over the lanes `use` names, the others entering as identities. -/
def reduce (o : RedOp) (m : SMode) (use : Nat → Bool) (a : Nat → Word) : Word × Flags :=
  redTree o m 5 ((List.range 32).map fun L => if use L then a L else o.identity m)

end Sys2Proof.Machine
end

