-- ==== Sys2Proof/Machine/Integer.lean ====
section
/-!
DEFINITION. The integer instructions (09_integer_and_address.md): the forms of their operands, and one meaning for
each.
-/

namespace Sys2Proof.Machine

/-- A binary integer instruction, lane by lane or once on uniform registers (R170). -/
def intAB (I : Issue) (s : State) (u : Bool) (d a b : BitVec 5) (f : Word → Word → Word × Flags) : State :=
  if u then I.setS s d (f (I.G.rs a.toNat) (I.G.rs b.toNat))
  else I.setV s d fun L => f (I.G.rv a.toNat L) (I.G.rv b.toNat L)

/-- A unary one. -/
def intA (I : Issue) (s : State) (u : Bool) (d a : BitVec 5) (f : Word → Word × Flags) : State :=
  if u then I.setS s d (f (I.G.rs a.toNat)) else I.setV s d fun L => f (I.G.rv a.toNat L)

/-- One that also reads its destination. -/
def intDAB (I : Issue) (s : State) (u : Bool) (d a b : BitVec 5) (f : Word → Word → Word → Word × Flags) : State :=
  if u then I.setS s d (f (I.G.rs d.toNat) (I.G.rs a.toNat) (I.G.rs b.toNat))
  else I.setV s d fun L => f (I.G.rv d.toNat L) (I.G.rv a.toNat L) (I.G.rv b.toNat L)

/-- A binary one of variable latency. -/
def intLater (I : Issue) (s : State) (u : Bool) (d a b : BitVec 5) (f : Word → Word → Word × Flags) : State :=
  if u then I.laterS s d (f (I.G.rs a.toNat) (I.G.rs b.toNat))
  else I.laterV s d fun L => f (I.G.rv a.toNat L) (I.G.rv b.toNat L)

/-- A register with an immediate (R178). -/
def intImm (I : Issue) (s : State) (d a : BitVec 5) (f : Word → Word) : State :=
  I.setV s d fun L => (f (I.G.rv a.toNat L), 0)


/-- IADD (R171). -/
def execIadd (d a b : BitVec 5) (m : BitVec 3) (g : BitVec 4) (s : State) : Host.Outcome State Fault Refusal :=
  issueWord (.iadd d a b m g) s fun I s => intAB I s (m.getLsbD 2) d a b (intAdd (m.getLsbD 1) (m.getLsbD 0))

/-- ISUB (R171). -/
def execIsub (d a b : BitVec 5) (m : BitVec 3) (g : BitVec 4) (s : State) : Host.Outcome State Fault Refusal :=
  issueWord (.isub d a b m g) s fun I s => intAB I s (m.getLsbD 2) d a b (intSub (m.getLsbD 1) (m.getLsbD 0))

/-- IMUL (R171). -/
def execImul (d a b : BitVec 5) (m : BitVec 3) (g : BitVec 4) (s : State) : Host.Outcome State Fault Refusal :=
  issueWord (.imul d a b m g) s fun I s => intAB I s (m.getLsbD 2) d a b (intMul (m.getLsbD 1) (m.getLsbD 0))

/-- IMULH (R171). -/
def execImulh (d a b : BitVec 5) (m : BitVec 3) (g : BitVec 4) (s : State) : Host.Outcome State Fault Refusal :=
  issueWord (.imulh d a b m g) s fun I s => intAB I s (m.getLsbD 2) d a b (intMulh (m.getLsbD 1) (m.getLsbD 0))

/-- IMIN (R173). -/
def execImin (d a b : BitVec 5) (m : BitVec 3) (g : BitVec 4) (s : State) : Host.Outcome State Fault Refusal :=
  issueWord (.imin d a b m g) s fun I s => intAB I s (m.getLsbD 2) d a b (intMin (m.getLsbD 1) (m.getLsbD 0))

/-- IMAX (R173). -/
def execImax (d a b : BitVec 5) (m : BitVec 3) (g : BitVec 4) (s : State) : Host.Outcome State Fault Refusal :=
  issueWord (.imax d a b m g) s fun I s => intAB I s (m.getLsbD 2) d a b (intMax (m.getLsbD 1) (m.getLsbD 0))

/-- ISAT (R179). -/
def execIsat (d a b : BitVec 5) (m : BitVec 3) (g : BitVec 4) (s : State) : Host.Outcome State Fault Refusal :=
  issueWord (.isat d a b m g) s fun I s => intAB I s (m.getLsbD 2) d a b (intIsat (m.getLsbD 1) (m.getLsbD 0))

/-- IABS (R173). -/
def execIabs (d a : BitVec 5) (m : BitVec 3) (g : BitVec 4) (s : State) : Host.Outcome State Fault Refusal :=
  issueWord (.iabs d a m g) s fun I s => intA I s (m.getLsbD 2) d a (intAbs (m.getLsbD 1) (m.getLsbD 0))

/-- IMAD (R172). -/
def execImad (d a b e : BitVec 5) (n : BitVec 2) (s : State) : Host.Outcome State Fault Refusal :=
  issueWord (.imad d a b e n) s fun I s =>
    I.setV s d fun L =>
      intMad (n.getLsbD 1) (n.getLsbD 0) (I.G.rv a.toNat L) (I.G.rv b.toNat L) (I.G.rv e.toNat L)

/-- AND (R174). -/
def execAnd (d a b : BitVec 5) (m : BitVec 2) (g : BitVec 4) (s : State) : Host.Outcome State Fault Refusal :=
  issueWord (.and d a b m g) s fun I s => intAB I s (m.getLsbD 1) d a b (intAnd (m.getLsbD 0))

/-- OR (R174). -/
def execOr (d a b : BitVec 5) (m : BitVec 2) (g : BitVec 4) (s : State) : Host.Outcome State Fault Refusal :=
  issueWord (.or d a b m g) s fun I s => intAB I s (m.getLsbD 1) d a b (intOr (m.getLsbD 0))

/-- XOR (R174). -/
def execXor (d a b : BitVec 5) (m : BitVec 2) (g : BitVec 4) (s : State) : Host.Outcome State Fault Refusal :=
  issueWord (.xor d a b m g) s fun I s => intAB I s (m.getLsbD 1) d a b (intXor (m.getLsbD 0))

/-- ANDN (R174). -/
def execAndn (d a b : BitVec 5) (m : BitVec 2) (g : BitVec 4) (s : State) : Host.Outcome State Fault Refusal :=
  issueWord (.andn d a b m g) s fun I s => intAB I s (m.getLsbD 1) d a b (intAndn (m.getLsbD 0))

/-- SHL (R174). -/
def execShl (d a b : BitVec 5) (m : BitVec 2) (g : BitVec 4) (s : State) : Host.Outcome State Fault Refusal :=
  issueWord (.shl d a b m g) s fun I s => intAB I s (m.getLsbD 1) d a b (intShl (m.getLsbD 0))

/-- SHR (R174). -/
def execShr (d a b : BitVec 5) (m : BitVec 2) (g : BitVec 4) (s : State) : Host.Outcome State Fault Refusal :=
  issueWord (.shr d a b m g) s fun I s => intAB I s (m.getLsbD 1) d a b (intShr (m.getLsbD 0))

/-- SAR (R174). -/
def execSar (d a b : BitVec 5) (m : BitVec 2) (g : BitVec 4) (s : State) : Host.Outcome State Fault Refusal :=
  issueWord (.sar d a b m g) s fun I s => intAB I s (m.getLsbD 1) d a b (intSar (m.getLsbD 0))

/-- ROTL (R174). -/
def execRotl (d a b : BitVec 5) (m : BitVec 2) (g : BitVec 4) (s : State) : Host.Outcome State Fault Refusal :=
  issueWord (.rotl d a b m g) s fun I s => intAB I s (m.getLsbD 1) d a b (intRotl (m.getLsbD 0))

/-- POPC (R175). -/
def execPopc (d a : BitVec 5) (m : BitVec 2) (g : BitVec 4) (s : State) : Host.Outcome State Fault Refusal :=
  issueWord (.popc d a m g) s fun I s => intA I s (m.getLsbD 1) d a (intPopc (m.getLsbD 0))

/-- CLZ (R175). -/
def execClz (d a : BitVec 5) (m : BitVec 2) (g : BitVec 4) (s : State) : Host.Outcome State Fault Refusal :=
  issueWord (.clz d a m g) s fun I s => intA I s (m.getLsbD 1) d a (intClz (m.getLsbD 0))

/-- BREV (R175). -/
def execBrev (d a : BitVec 5) (m : BitVec 2) (g : BitVec 4) (s : State) : Host.Outcome State Fault Refusal :=
  issueWord (.brev d a m g) s fun I s => intA I s (m.getLsbD 1) d a (intBrev (m.getLsbD 0))

/-- BFX (R176). -/
def execBfx (d a b e : BitVec 5) (n : BitVec 1) (s : State) : Host.Outcome State Fault Refusal :=
  issueWord (.bfx d a b e n) s fun I s =>
    I.setV s d fun L => intBfx (n == 1) (I.G.rv a.toNat L) (I.G.rv b.toNat L) (I.G.rv e.toNat L)

/-- BFI (R176). -/
def execBfi (d a b e : BitVec 5) (s : State) : Host.Outcome State Fault Refusal :=
  issueWord (.bfi d a b e) s fun I s =>
    I.setV s d fun L => intBfi (I.G.rv d.toNat L) (I.G.rv a.toNat L) (I.G.rv b.toNat L) (I.G.rv e.toNat L)

/-- BSEL (R177). -/
def execBsel (d a b : BitVec 5) (m : BitVec 2) (g : BitVec 4) (s : State) : Host.Outcome State Fault Refusal :=
  issueWord (.bsel d a b m g) s fun I s => intDAB I s (m.getLsbD 1) d a b (intBsel (m.getLsbD 0))

/-- SEL (R177): the guard selects, and every lane of the head run is written. -/
def execSel (d a b : BitVec 5) (m : BitVec 1) (g : BitVec 4) (s : State) : Host.Outcome State Fault Refusal :=
  issueWord (.sel d a b m g) s fun I s =>
    s.updGrp I.b I.g fun y => y.wv d.toNat I.run fun L =>
      iOut (m == 1) ((if I.held.getLsbD L then I.G.rv a.toNat L else I.G.rv b.toNat L).toNat : Nat)

/-- LEA (R181). -/
def execLea (d a b : BitVec 5) (u : BitVec 1) (k : BitVec 2) (g : BitVec 4) (s : State) : Host.Outcome State Fault Refusal :=
  issueWord (.lea d a b u k g) s fun I s => intAB I s (u == 1) d a b (intLea k.toNat)

/-- IADDI (R178). -/
def execIaddi (d a : BitVec 5) (i : BitVec 12) (s : State) : Host.Outcome State Fault Refusal :=
  issueWord (.iaddi d a i) s fun I s => intImm I s d a (· + i.signExtend 64)

/-- ANDI (R178). -/
def execAndi (d a : BitVec 5) (i : BitVec 12) (s : State) : Host.Outcome State Fault Refusal :=
  issueWord (.andi d a i) s fun I s => intImm I s d a (· &&& i.signExtend 64)

/-- ORI (R178). -/
def execOri (d a : BitVec 5) (i : BitVec 12) (s : State) : Host.Outcome State Fault Refusal :=
  issueWord (.ori d a i) s fun I s => intImm I s d a (· ||| i.signExtend 64)

/-- XORI (R178). -/
def execXori (d a : BitVec 5) (i : BitVec 12) (s : State) : Host.Outcome State Fault Refusal :=
  issueWord (.xori d a i) s fun I s => intImm I s d a (· ^^^ i.signExtend 64)

/-- SHLI (R178). -/
def execShli (d a : BitVec 5) (i : BitVec 6) (s : State) : Host.Outcome State Fault Refusal :=
  issueWord (.shli d a i) s fun I s => intImm I s d a (· <<< i.toNat)

/-- SHRI (R178). -/
def execShri (d a : BitVec 5) (i : BitVec 6) (s : State) : Host.Outcome State Fault Refusal :=
  issueWord (.shri d a i) s fun I s => intImm I s d a (· >>> i.toNat)

/-- SARI (R178). -/
def execSari (d a : BitVec 5) (i : BitVec 6) (s : State) : Host.Outcome State Fault Refusal :=
  issueWord (.sari d a i) s fun I s => intImm I s d a (·.sshiftRight i.toNat)

/-- IDIV (R180). -/
def execIdiv (d a b : BitVec 5) (m : BitVec 3) (g : BitVec 4) (s : State) : Host.Outcome State Fault Refusal :=
  issueWord (.idiv d a b m g) s fun I s => intLater I s (m.getLsbD 2) d a b (intDiv (m.getLsbD 1) (m.getLsbD 0))

/-- IREM (R180). -/
def execIrem (d a b : BitVec 5) (m : BitVec 3) (g : BitVec 4) (s : State) : Host.Outcome State Fault Refusal :=
  issueWord (.irem d a b m g) s fun I s => intLater I s (m.getLsbD 2) d a b (intRem (m.getLsbD 1) (m.getLsbD 0))

end Sys2Proof.Machine
end

