-- ==== Sys2Proof/Machine/Jobs.lean ====
section
/-!
DEFINITION. Mask-core requests and Pruner jobs (R145, R302, R303): MASK_REQUEST and PRUNER_JOB_START.
-/

namespace Sys2Proof.Machine

/-- A mask request is valid (R78, R145): its addresses are canonical (R52, R53). -/
def Command.maskOk (c : Command) : Bool :=
  bits (c.word 0) 60 4 == 1 && bits (c.word 0) 48 8 == 3 && bits (c.word 0) 0 31 == 0 && (c.word 3).toNat % 8 == 0
    && [1, 2, 3].all fun i => canonical (c.word i)

/-- The jobs resident on a Pruner core. -/
def State.jobsOn (s : State) (die core : Nat) : Nat :=
  ((oitems s.blocks).filter fun b => b.2.life == .resident && b.2.job.any fun j => j.die == die && j.core == core).length

/-- The Pruner core of a die that has the fewest jobs. Log 73 (DEDUCED). -/
def State.prunerCore (s : State) (die : Nat) : Nat :=
  (List.range 8).foldl (fun m k => if s.jobsOn die k < s.jobsOn die m then k else m) 0

/-- MASK_REQUEST: an accepted request waits in its die's queue. -/
def State.maskRequest (s : State) (cmd : Nat) : State :=
  match s.cmd cmd with
  | none => s
  | some c =>
    if c.state != .pushed then s
    else if !(s.blk c.blk).committed c.after then s.post (.maskRequest cmd)
    else if !c.maskOk then s.rejectCommand cmd
    else
      let d := s.dieOf c.blk
      ((s.updCmd cmd fun c => { c with state := .taken }).updDie d fun x => { x with jobs := x.jobs ++ [cmd] }).post
        (.prunerJobStart d (s.prunerCore d))

/-- MASK_REQUEST (R145). -/
def execMaskRequest (cmd : Nat) (s : State) : Host.Outcome State Fault Refusal := .next (s.maskRequest cmd)

/-- The group of a job as it starts (R303). -/
def jobGroup (entry arg : Word) (tag : Nat) : Group :=
  { (Group.zero.setPc 1 fun _ => entry) with
    u := sset 0 (sset 0 [] 0 arg) 1 (BitVec.ofNat 64 tag)
    live := 1
    lfsr := sset 0 [] 0 (BitVec.ofNat 32 (furrow arg (BitVec.ofNat 64 tag)))
    smode := 1
    active := true }

/-- The block that a job of a command runs as: the issuing block's space and identity, on a Pruner core.
Log 73 (DEDUCED). -/
def State.jobBlock (s : State) (cmd : Nat) (c : Command) (die core : Nat) : Block :=
  let x := s.blk c.blk
  { Block.zero with
    grid := x.grid
    id := x.id
    lcore := x.lcore
    core := jobCore ⟨cmd, die, core⟩
    space := x.space
    life := .resident
    groups := [(0, some { jobGroup (c.word 1) (c.word 2) (bits (c.word 0) 32 16) with
      bornAt := s.fresh, activeAt := s.cycles.toNat })]
    job := some ⟨cmd, die, core⟩ }

/-- The key of a job's block: beyond those of every grid's blocks. Log 73 (DEDUCED). -/
def jobKey (n : Nat) : Nat := 2 ^ 96 + n

/-- PRUNER_JOB_START: a Pruner core with room takes the oldest waiting job, whose start acquires (R267). Where the core that
was chosen has filled since, another with room is. Log 73 (DEDUCED). -/
def State.startJob (s : State) (die core : Nat) : State :=
  match (s.die die).jobs with
  | [] => s
  | cmd :: rest =>
    if 8 ≤ core || 16 ≤ s.jobsOn die core then
      (if s.jobsOn die (s.prunerCore die) < 16 then s.post (.prunerJobStart die (s.prunerCore die)) else s)
    else
      let s1 := s.updDie die fun x => { x with jobs := rest }
      match s1.cmd cmd with
      | none => s1
      | some c => (s1.tick.setBlk (jobKey s1.fresh) (s1.jobBlock cmd c die core)).acquire (jobKey s1.fresh) 4

/-- PRUNER_JOB_START (R303). -/
def execPrunerJobStart (die core : Nat) (s : State) : Host.Outcome State Fault Refusal := .next (s.startJob die core)

end Sys2Proof.Machine
end

