-- ==== Sys2Proof/Machine/Kv.lean ====
section
/-!
DEFINITION. Transfers to and from peer packages (R144, R378): KV_PUT, KV_GET and KV_FLAG_INCREMENT. What a peer answers
lies outside the package: `Config.peerAnswer`.
-/

namespace Sys2Proof.Machine

/-! ### The command (R144) -/

/-- The arguments of a KV command. -/
structure Kv where
  rflag : Bool
  local_ : Nat
  peer : Nat
  remote : Nat
  len : Nat
  flag : Nat
  deriving DecidableEq, Repr

def Command.kv (c : Command) : Kv :=
  ⟨(c.word 0).getLsbD 30, (c.word 1).toNat, bits (c.word 2) 48 16, (c.word 3).toNat, bits (c.word 4) 0 32, (c.word 5).toNat⟩

/-- A KV command of a kind is valid (R78, R144); every address it gives is canonical (R52, R53). Log 49 (DEDUCED). -/
def Command.kvOk (c : Command) (kind : Nat) : Bool :=
  let a := c.kv
  bits (c.word 0) 60 4 == kind && bits (c.word 0) 48 8 == (if a.rflag then 5 else 4) && (!a.rflag || kind == 1)
    && bits (c.word 0) 0 30 == 0 && a.local_ % 64 == 0 && decide (a.local_ + a.len ≤ 2 ^ 53) && bits (c.word 2) 0 48 == 0
    && a.remote % 64 == 0 && bits (c.word 4) 32 32 == 0 && decide (64 ≤ a.len) && decide (a.len ≤ 2 ^ 31)
    && a.len % 64 == 0 && (!a.rflag || a.flag % 8 == 0)
    && decide (a.remote + a.len ≤ 2 ^ 53) && (!a.rflag || decide (a.flag < 2 ^ 53))

/-- The peer table entry of a command (R378): its first word and its bytes, none where there is no such peer. -/
def State.peerEntry (s : State) (c : Command) : Option (List Byte) :=
  let n := c.kv.peer
  let base := (s.die (s.dieOf c.blk)).peerBase.toNat + 32 * n
  let w : Word := BitVec.ofNat 64 (s.physRead 0 base 8)
  if decide (4096 ≤ n) || !w.getLsbD 63 || bits w 48 15 != 0 || s.physRead 0 (base + 0x18) 8 / 256 != 0 then none
  else some (bytesLe 32 (s.physRead 0 base 32))

/-- What a packet carries of the peer's entry (R378): JOB, PID and RIDX, then FEP. Log 18 (DESIGN CHOICE). -/
def peerHeader (entry : List Byte) : List Byte := entry.take 6 ++ (entry.drop 8).take 16

/-- A packet sent to the peer that a command's entry names, and what it answers: none for a failure after the transport's
retries or a refusal, or where the entry is no longer there. Log 11 (DESIGN CHOICE), 18 (DESIGN CHOICE). -/
def State.askPeer (s : State) (c : Command) (kind addr : Nat) (data : List Byte) : State × Option (List Byte) :=
  match s.peerEntry c with
  | none => (s, none)
  | some e => ({ s.send kind addr (peerHeader e ++ data) with free := s.free + 1 }, Config.peerAnswer s.free)

/-- A failure of a chunk noted: the lowest one is kept (R138). `stat` is 6 once some byte has not been acknowledged. -/
def Command.failChunk (c : Command) (stat : Nat) : Command :=
  { c with
    stat := if stat = 3 then c.stat else 6
    failAt := match c.failAt with
      | none => some (c.next, stat)
      | some f => some f }

/-- The issuing block as a party whose accesses no tag is checked for (R344). -/
def State.kvParty (s : State) (b : Nat) : Party := { s.partyOf b with det := false }

/-- The bytes of a chunk: the offset of each run of 64 bytes. -/
def Kv.runs (a : Kv) (k : Nat) : List Nat := ((List.range 4).map fun i => 256 * k + 64 * i).filter (· < a.len)

/-- A chunk of a command is over. -/
def State.kvNext (s : State) (cmd stat : Nat) : State :=
  s.updCmd cmd fun c => { (if stat = 0 then c else c.failChunk stat) with next := c.next + 1 }

/-- A KV command is taken by its engine, or is with it already: none where this step is used up by that. -/
def State.takeKv (s : State) (cmd : Nat) (c : Command) (kind : Nat) (again : Instr) : State :=
  if !(s.blk c.blk).committed c.after then s.post again
  else if !c.kvOk kind then s.rejectCommand cmd
  else
    match s.peerEntry c with
    | none => (s.updCmd cmd fun c => { c with state := .taken, stat := 6 }).post (.commandCompletion cmd)
    | some _ => (s.updCmd cmd fun c => { c with state := .taken, detail := c.kv.len % 2 ^ 32 }).post again

/-! ### KV_PUT -/

/-- One chunk of a PUT: read at home, sent with its poison, and acknowledged or not. -/
def State.putChunk (s : State) (cmd : Nat) (c : Command) : State :=
  let a := c.kv
  let r := (a.runs c.next).foldl
    (fun (r : State × Nat × List Byte) o =>
      let q := r.1.engineRead (s.kvParty c.blk) (BitVec.ofNat 64 (a.local_ + o)) 64
      (q.1, worseStat r.2.1 q.2.stat, r.2.2 ++ bytesLe 64 q.2.val)) (s, 0, [])
  if r.2.1 != 0 && r.2.1 != 3 then r.1.kvNext cmd r.2.1
  else
    let q := r.1.askPeer c (if r.2.1 = 3 then 13 else 10) (a.remote + 256 * c.next) r.2.2
    q.1.kvNext cmd (if q.2.isNone then 6 else r.2.1)

/-- KV_PUT (R144): the engine takes the command, then sends one chunk at each step, whose lines a host gives back first
(R278); the flag follows once every byte has been acknowledged. Log 49 (DEDUCED). -/
def State.kvPut (s : State) (cmd : Nat) : State :=
  match s.cmd cmd with
  | none => s
  | some c =>
    if c.state == .pushed then s.takeKv cmd c 1 (.kvPut cmd)
    else if c.state != .taken then s
    else if 256 * c.next < c.kv.len then
      match s.rangeTaken (s.kvParty c.blk) (c.kv.local_ + 256 * c.next) (min 256 (c.kv.len - 256 * c.next)) with
      | [] => (s.putChunk cmd c).post (.kvPut cmd)
      | l => (s.askHost l).post (.kvPut cmd)
    else if c.kv.rflag && c.stat == 0 then s.post (.kvFlagIncrement cmd)
    else s.post (.commandCompletion cmd)

/-- KV_PUT (R144). -/
def execKvPut (cmd : Nat) (s : State) : Host.Outcome State Fault Refusal := .next (s.kvPut cmd)

/-! ### KV_FLAG_INCREMENT -/

/-- The flag raised at the peer once every byte is acknowledged there. Log 49 (DEDUCED). -/
def State.kvFlag (s : State) (cmd : Nat) : State :=
  match s.cmd cmd with
  | none => s
  | some c =>
    if c.state != .taken then s
    else
      let q := s.askPeer c 12 c.kv.flag (bytesLe 8 1)
      (if q.2.isNone then q.1.updCmd cmd fun c => { c with stat := 6, failAt := none } else q.1).post (.commandCompletion cmd)

/-- KV_FLAG_INCREMENT (R144). -/
def execKvFlagIncrement (cmd : Nat) (s : State) : Host.Outcome State Fault Refusal := .next (s.kvFlag cmd)

/-! ### KV_GET -/

/-- One chunk of a GET: asked for, and written at home, where the runs that translate are written though another fails.
Log 49 (DEDUCED). -/
def State.getChunk (s : State) (cmd : Nat) (c : Command) : State :=
  let a := c.kv
  let n := min 256 (a.len - 256 * c.next)
  let P := s.kvParty c.blk
  let q := s.askPeer c 11 (a.remote + 256 * c.next) (bytesLe 4 n)
  match q.2 with
  | none => q.1.kvNext cmd 6
  | some data =>
    if data.length != n then q.1.kvNext cmd 6
    else
      let r := (a.runs c.next).foldl
        (fun (r : State × Nat) o =>
          let va : Word := BitVec.ofNat 64 (a.local_ + o)
          let p := r.1.engineProbe P va
          if p.2.1 != 0 then (p.1, worseStat r.2 p.2.1)
          else
            (p.1.engineWrite P va p.2.2 64 (leBytes ((data.drop (o - 256 * c.next)).take 64)) 0 0, r.2)) (q.1, 0)
      r.1.kvNext cmd r.2

/-- A line that a GET is about to write and the host caches (R278). -/
def State.getHeld (s : State) (c : Command) : Option (Nat × Nat) :=
  let a := c.kv
  (a.runs c.next).findSome? fun o =>
    let va : Word := BitVec.ofNat 64 (a.local_ + o)
    let x := (s.translate (s.blk c.blk).space va 2).2
    if x.code = 0 && s.hostCaches (ownerOf va) x.pa then some (ownerOf va, x.pa) else none

/-- KV_GET (R144): the engine takes the command, then fetches one chunk at each step. -/
def State.kvGet (s : State) (cmd : Nat) : State :=
  match s.cmd cmd with
  | none => s
  | some c =>
    if c.state == .pushed then s.takeKv cmd c 2 (.kvGet cmd)
    else if c.state != .taken then s
    else if 256 * c.next < c.kv.len then
      match s.getHeld c with
      | some h => (s.backInvalidate h.1 h.2).post (.kvGet cmd)
      | none => (s.getChunk cmd c).post (.kvGet cmd)
    else s.post (.commandCompletion cmd)

/-- KV_GET (R144). -/
def execKvGet (cmd : Nat) (s : State) : Host.Outcome State Fault Refusal := .next (s.kvGet cmd)

end Sys2Proof.Machine
end

