-- ==== Sys2Proof/Machine/Management.lean ====
section
/-!
DEFINITION. The management controller (R381 to R384): reset and boot, the mailbox, and the main clock. A response to a
mailbox command leaves as a message of kind 40 to the host physical address RESP.
-/

namespace Sys2Proof.Machine

/-! ### Reset and boot (R381, R383) -/

/-- What a reset keeps of a die: the poison of its memory and the links of its ports. Log 4 (DESIGN CHOICE). -/
def Die.cleared (d : Die) : Die :=
  { Die.zero with
    poison := d.poison
    ports := d.ports.map fun kv => (kv.1, kv.2.map fun p => { Port.zero with up := p.up }) }

/-- The package as a reset leaves it: physical memory and what has left the package stay, and the rest is as after
`State.reset`. Log 4 (DESIGN CHOICE). -/
def State.cleared (s : State) : State :=
  { State.reset with
    mem := s.mem, die0 := s.die0.cleared, die1 := s.die1.cleared, messages := s.messages, fresh := s.fresh,
    free := s.free, gridIds := s.gridIds, script := s.script }

/-- A firmware image with its signature and version passes (R381). -/
def imageOk (f : List Byte × List Byte × Nat) : Bool :=
  Config.mldsaVerify Config.fusedKeyHash (Config.sha3 f.1) f.2.1 && decide (Config.fusedRollback ≤ f.2.2)

/-- A stage's digest extended into M (R381). -/
def State.extend (s : State) (f : List Byte × List Byte × Nat) : State :=
  { s with measure := Config.sha3 (s.measure ++ Config.sha3 f.1) }

/-- The ROM runs n stages from stage k on; a stage that fails leaves the device in recovery. -/
def State.runStages (s : State) (k : Nat) : (n : Nat) → State
  | 0 => { s with boot := .running }
  | n + 1 =>
    if imageOk (Config.romStage k) then (s.extend (Config.romStage k)).runStages (k + 1) n
    else { s with boot := .recovery k }

/-- DEVICE_RESET (R381). -/
def execDeviceReset (s : State) : Host.Outcome State Fault Refusal :=
  .next (({ s.cleared with agenda := [] } : State).runStages 0 Config.stageCount)

/-- THERMAL_RESET (R383): the device is reset, and its ROM runs next. -/
def execThermalReset (s : State) : Host.Outcome State Fault Refusal := .next s.cleared

/-! ### The main clock (R383) -/

/-- The main clock a step of 100 MHz lower, 1.2 GHz at the least. -/
def State.lowerClock (s : State) : State := { s with clock := max 1200 (s.clock - 100) }

/-- THERMAL_THROTTLE (R383). -/
def execThermalThrottle (s : State) : Host.Outcome State Fault Refusal := .next s.lowerClock

/-- POWER_CAP_THROTTLE (R383). -/
def execPowerCapThrottle (s : State) : Host.Outcome State Fault Refusal := .next s.lowerClock

/-- MAIN_CLOCK_RAISE (R383): a step of 100 MHz up, to the 2.1 GHz of the part at the most. -/
def execMainClockRaise (s : State) : Host.Outcome State Fault Refusal := .next { s with clock := min 2100 (s.clock + 100) }

/-! ### The mailbox (R382) -/

/-- A command of the mailbox is done: STATUS 0, or 2 for a failure. -/
def State.mailDone (s : State) (ok : Bool) : State := { s with mailbox := { s.mailbox with status := if ok then 0 else 2 } }

/-- A response written to the host's buffer. -/
def State.respond (s : State) (data : List Byte) : State := (s.send 40 s.mailbox.resp.toNat data).mailDone true

/-- The step of a mailbox command. -/
def isMail : Instr → Bool
  | .mailboxAttest => true
  | .mailboxTelemetryRead => true
  | .mailboxClearSuspect => true
  | .mailboxSetPowerCap => true
  | .mailboxReadCertificate => true
  | .mailboxLoadFirmware _ => true
  | _ => false

/-- A write of a command's number to CMD, and the command. The write starts the command, which STATUS shows as running
until its own step completes it; while one runs, a write to CMD is ignored. Log 19 (DESIGN CHOICE). -/
def State.mailCommand (s : State) (n : Word) (i : Instr) (f : State → State) : State :=
  if s.boot = .rom then s
  else if s.mailbox.status = 1 then (if s.mailbox.cmd = n && !s.agenda.any isMail then f s else s)
  else s.startMail n i

/-- Bytes that the controller reads from a buffer in the host's memory: what the host has there at this time.
Log 20 (DESIGN CHOICE). -/
def State.readHost (s : State) (addr n : Nat) : List Byte × State :=
  ((List.range n).map fun i => Config.hostByte s.free (addr + i), { s with free := s.free + 1 })

/-- The report of R382 up to its signature; `nonce` is the part of the nonce that the host's buffer holds. -/
def State.reportHead (s : State) (nonce : List Byte) : List Byte :=
  bytesLe 8 s.mailbox.arg0.toNat ++ bytesLe 8 s.mailbox.arg1.toNat ++ nonce
    ++ s.measure ++ bytesLe 8 Config.fusedRollback ++ bytesLe 2 0x2840 ++ bytesLe 6 Config.fuseConfig.toNat

/-- The attestation report. The upper half of the nonce comes from the host's buffer. Log 20 (DESIGN CHOICE). -/
def State.attest (s0 : State) : State :=
  let r := s0.readHost s0.mailbox.resp.toNat 16
  let head := r.2.reportHead r.1
  r.2.respond (head ++ (List.range 3309).map (Config.mldsaSign (Config.sha3 head)))

/-- MAILBOX_ATTEST (R382). -/
def execMailboxAttest (s : State) : Host.Outcome State Fault Refusal :=
  .next (s.mailCommand 1 .mailboxAttest State.attest)

/-- The suspect cores, one bit each in PCORE order (R384). -/
def State.suspects (s : State) : Nat :=
  (List.range 192).foldl (fun a k => if (s.core k).suspect then a + 2 ^ k else a) 0

/-- The telemetry record (R384). Power and temperature are readings of the package that the manual leaves to it.
Log 20 (DESIGN CHOICE). -/
def State.telemetry (s : State) : State :=
  let p := s.takeFree
  let p0 := p.2.takeFree
  let p1 := p0.2.takeFree
  let t := p1.2.takeFree
  let r := t.2
  let word (n : Nat) : List Byte := bytesLe 8 n
  let errs (d : Die) : List Byte := (List.range 4).flatMap fun k => word (sget 0 d.corrected k)
  r.respond (word p.1.toNat ++ word p0.1.toNat ++ word p1.1.toNat ++ word r.clock ++ word t.1.toNat
    ++ word (if r.die0.decTed then 1 else 0) ++ word (if r.die1.decTed then 1 else 0)
    ++ errs r.die0 ++ errs r.die1 ++ bytesLe 24 r.suspects)

/-- MAILBOX_TELEMETRY_READ (R382, R384). -/
def execMailboxTelemetryRead (s : State) : Host.Outcome State Fault Refusal :=
  .next (s.mailCommand 2 .mailboxTelemetryRead State.telemetry)

/-- The suspect mark of the core that ARG0 names cleared (R152, R369, R382). -/
def State.clearSuspect (s : State) : State :=
  let w := s.mailbox.arg0
  let c := bits w 4 3
  if bits w 8 56 != 0 || 6 ≤ c then s.mailDone false
  else (s.updCore (bits w 7 1 * 96 + c * 16 + bits w 0 4) fun x => { x with suspect := false }).mailDone true

/-- MAILBOX_CLEAR_SUSPECT (R382). -/
def execMailboxClearSuspect (s : State) : Host.Outcome State Fault Refusal :=
  .next (s.mailCommand 3 .mailboxClearSuspect State.clearSuspect)

/-- The power cap (R382): 1,000 to 2,800 watts, other values fail. -/
def State.setPowerCap (s : State) : State :=
  let w := s.mailbox.arg0.toNat
  if 1000 ≤ w && w ≤ 2800 then ({ s with powerCap := w } : State).mailDone true else s.mailDone false

/-- MAILBOX_SET_POWER_CAP (R382). -/
def execMailboxSetPowerCap (s : State) : Host.Outcome State Fault Refusal :=
  .next (s.mailCommand 4 .mailboxSetPowerCap State.setPowerCap)

/-- MAILBOX_READ_CERTIFICATE (R382). -/
def execMailboxReadCertificate (s : State) : Host.Outcome State Fault Refusal :=
  .next (s.mailCommand 5 .mailboxReadCertificate fun s => s.respond ((List.range Config.certLength).map Config.certByte))

/-- A firmware image taken in recovery (R381, R382): verified as the stage that failed, and the stages after it run. -/
def State.loadFirmware (s : State) (image : Nat) : State :=
  let f := Config.firmwareImage image
  match s.boot with
  | .recovery k =>
    if imageOk f then ((s.extend f).runStages (k + 1) (Config.stageCount - (k + 1))).mailDone true else s.mailDone false
  | _ => s.mailDone false

/-- MAILBOX_LOAD_FIRMWARE (R382). -/
def execMailboxLoadFirmware (image : Nat) (s : State) : Host.Outcome State Fault Refusal :=
  .next (s.mailCommand 6 (.mailboxLoadFirmware image) fun s => s.loadFirmware image)

end Sys2Proof.Machine
end

