-- ==== Sys2Proof/Machine/Move.lean ====
section
/-!
DEFINITION. Moves, constants, special registers and lane exchange (R156 to R159, R165 to R167, R356, R359).
-/

namespace Sys2Proof.Machine

/-! ### Moves and constants -/

/-- MOV (R156). -/
def execMov (d a : BitVec 5) (m : BitVec 2) (g : BitVec 4) (s : State) : Host.Outcome State Fault Refusal :=
  issueWord (.mov d a m g) s fun I s =>
    if m = 0 then I.setV s d fun L => (I.G.rv a.toNat L, 0)
    else if m = 1 then I.setV s d fun _ => (I.G.rs a.toNat, 0)
    else if m = 2 then I.setS s d (I.G.rv a.toNat (lowest I.act), 0)
    else I.setS s d (I.G.rs a.toNat, 0)

/-- LI (R157). -/
def execLi (d : BitVec 5) (imm : BitVec 32) (s : State) : Host.Outcome State Fault Refusal :=
  issueWord (.li d imm) s fun I s => I.setV s d fun _ => (imm.setWidth 64, 0)

/-- LIH (R157). -/
def execLih (d : BitVec 5) (imm : BitVec 32) (s : State) : Host.Outcome State Fault Refusal :=
  issueWord (.lih d imm) s fun I s => I.setV s d fun L => (imm ++ (I.G.rv d.toNat L).setWidth 32, 0)

/-- MOVS (R158): lane n whatever its state. -/
def execMovs (d a b : BitVec 5) (g : BitVec 4) (s : State) : Host.Outcome State Fault Refusal :=
  issueWord (.movs d a b g) s fun I s => I.setS s d (I.G.rv a.toNat ((I.G.rs b.toNat).toNat % 32), 0)

/-! ### Special registers -/

/-- The value of a special register in lane L at the issue of a word (R152, R153, R356). A Pruner job reads one
group of its own and the identity of the block that requested it. -/
def readSpr (I : Issue) (s : State) (r : SpecialReg) (L : Nat) : Word :=
  let x := s.blk I.b
  let y := I.G
  let z := s.gridOf I.b
  match r with
  | .laneid => BitVec.ofNat 64 L
  | .groupid => BitVec.ofNat 64 I.g
  | .blockid => BitVec.ofNat 64 x.id
  | .gridid => BitVec.ofNat 64 x.grid
  | .lcore => BitVec.ofNat 64 x.lcore
  | .pcore => pcoreOf x.core
  | .ngroups => BitVec.ofNat 64 ((List.range 32).countP fun g => (oget x.groups g).isSome)
  | .griddim => BitVec.ofNat 64 (z.lcores * 2 ^ 32 + z.blocks)
  | .depth => BitVec.ofNat 64 z.depth
  | .phase => BitVec.ofNat 64 z.phase
  | .slotmask => z.slotmask
  | .iter => BitVec.ofNat 64 z.iter
  | .smode => y.smode.setWidth 64
  | .flags => y.flags.setWidth 64
  | .flagen => y.flagen.setWidth 64
  | .determ => if z.determ then 1 else 0
  | .twin => if z.twin then 1 else 0
  | .rkey => I.rkey
  | .rctr => I.rctr
  | .lfsr => (y.lf L).setWidth 64
  | .cause => y.cause
  | .detail0 => y.detail0
  | .detail1 => y.detail1
  | .detail2 => y.detail2
  | .epc => y.epc
  | .emask => y.emask
  | .handler => y.handler
  | .frame => y.frame
  | .caprec => y.caprec
  | .tl t => BitVec.ofNat 64 (sget 0 x.done t)
  | .cycles => s.cycles
  | .fadeclk => (s.core x.core).fade
  | .bframe => x.bframe
  | .hend => 0
  | .spaceid => BitVec.ofNat 64 x.space
  | .ndef => BitVec.ofNat 64 y.ready.length
  | .hscr0 => y.hscr0
  | .hscr1 => y.hscr1
  | .hscr2 => y.hscr2
  | .hscr3 => y.hscr3

/-- MFS (R159). -/
def execMfs (r : BitVec 5) (y : BitVec 12) (s : State) : Host.Outcome State Fault Refusal :=
  issueWord (.mfs r y) s fun I s =>
    match sprOf y with
    | some q => I.setV s r fun L => (readSpr I s q L, 0)
    | none => s

/-- A write of HEND (R359). -/
def State.hend (s : State) (b g : Nat) (v : Word) : State :=
  let c := (s.grp b g).cause.toNat % 32
  if bits v 0 2 = 1 then s.endBlock b .failed c
  else if bits v 0 2 = 2 then s.endBlock b (if c = 0x0A then .cancelled else .failed) c
  else s

/-- The value a special register takes from a write (R152, R153, R356); the set's own flags survive a write of
FLAGS (R159). -/
def writeSpr (I : Issue) (s : State) (r : SpecialReg) (v : Word) : State :=
  let upd (f : Group → Group) : State := s.updGrp I.b I.g f
  match r with
  | .smode => upd fun y => { y with smode := if v.setWidth 2 = 0#2 then 1 else v.setWidth 2 }
  | .flags => upd fun y => { y with flags := v.setWidth 8 ||| (s.cur.map (·.raised)).getD 0 }
  | .flagen => upd fun y => { y with flagen := v.setWidth 8 }
  | .rkey => s.updBlk I.b fun x => { x with rkey := v }
  | .rctr => s.updBlk I.b fun x => { x with rctr := v }
  | .handler => upd fun y => { y with handler := v }
  | .frame => upd fun y => { y with frame := v }
  | .bframe => s.updBlk I.b fun x => { x with bframe := v }
  | .hend => s.hend I.b I.g v
  | .hscr0 => upd fun y => { y with hscr0 := v }
  | .hscr1 => upd fun y => { y with hscr1 := v }
  | .hscr2 => upd fun y => { y with hscr2 := v }
  | .hscr3 => upd fun y => { y with hscr3 := v }
  | _ => s

/-- MTS (R159). -/
def execMts (r : BitVec 5) (y : BitVec 12) (s : State) : Host.Outcome State Fault Refusal :=
  issueWord (.mts r y) s fun I s =>
    if I.act == 0 then s
    else
      match sprOf y with
      | some .lfsr => s.updGrp I.b I.g fun z => z.setLf I.act fun L => (I.G.rv r.toNat L).setWidth 32
      | some q => writeSpr I s q (I.G.rv r.toNat (lowest I.act))
      | none => s

/-- HEND_WRITE (R359): the write of a handler as a step of its own. -/
def execHendWrite (blk grp : Nat) (value : BitVec 64) (s : State) : Host.Outcome State Fault Refusal :=
  .next (s.hend blk grp value)

/-! ### Lane exchange -/

/-- The source lane of SHFL for lane L (R165). -/
def shflLane (m : BitVec 2) (L : Nat) (w : Word) : Nat :=
  if m = 0 then w.toNat % 32
  else if m = 1 then (if w.toNat ≤ L then L - w.toNat else 32)
  else if m = 2 then L + w.toNat
  else L ^^^ (w.toNat % 32)

/-- SHFL (R165). -/
def execShfl (d a b : BitVec 5) (m : BitVec 2) (g : BitVec 4) (s : State) : Host.Outcome State Fault Refusal :=
  issueWord (.shfl d a b m g) s fun I s =>
    I.laterV s d fun L =>
      let n := shflLane m L (I.G.rv b.toNat L)
      (I.G.rv a.toNat (if n < 32 then n else L), 0)

/-- BCAST (R166). -/
def execBcast (d a b : BitVec 5) (g : BitVec 4) (s : State) : Host.Outcome State Fault Refusal :=
  issueWord (.bcast d a b g) s fun I s => I.laterV s d fun _ => (I.G.rv a.toNat b.toNat, 0)

/-- The operation of REDG and SCAN (R25). -/
def redOpOf (m : BitVec 3) : RedOp :=
  match m.toNat with
  | 0 => .iadd
  | 1 => .imin
  | 2 => .imax
  | 3 => .and
  | 4 => .or
  | 5 => .xor
  | 6 => .fadd
  | _ => .fmax

/-- REDG (R167). -/
def execRedg (d a : BitVec 5) (m : BitVec 3) (g : BitVec 4) (s : State) : Host.Outcome State Fault Refusal :=
  issueWord (.redg d a m g) s fun I s =>
    let r := reduce (redOpOf m) (effMode 0 I.G.smode) (I.act.getLsbD ·) (I.G.rv a.toNat ·)
    I.laterV s d fun _ => r

/-- SCAN (R167, R50). -/
def execScan (d a : BitVec 5) (x : BitVec 1) (m : BitVec 3) (g : BitVec 4) (s : State) :
    Host.Outcome State Fault Refusal :=
  issueWord (.scan d a x m g) s fun I s =>
    I.laterV s d fun L =>
      reduce (redOpOf m) (effMode 0 I.G.smode)
        (fun k => I.act.getLsbD k && (if x == 1 then decide (k < L) else decide (k ≤ L))) (I.G.rv a.toNat ·)

end Sys2Proof.Machine
end

