-- ==== Sys2Proof/Machine/Parks.lean ====
section
/-!
DEFINITION. When a park's reason has cleared, and what ends it (R326): the steps GROUP_UNPARK and WAIT_REREAD.
-/

namespace Sys2Proof.Machine

/-! ### WAIT_REREAD (R263) -/

/-- A parked wait reads its word again: WAITM, MASKW, LDA, WAITC, CAPB, and a capsule lane by R310. -/
def State.reread (s : State) (b g : Nat) : State :=
  match (s.grp b g).await with
  | some (.lda a scope) => s.readLda b g a scope
  | some (.waitm a cmp) => s.readWaitm b g a cmp
  | some (.maskw a p target due) => s.readMaskw b g a p target due false
  | some (.waitc a base bit) => s.readWaitc b g a base bit
  | some (.capb va lane body cend) => s.tryCapsule b g va lane body cend
  | some (.capsule _) => s.goCapsule b g
  | _ => s

/-- Each wait of a group reads its word again. -/
def State.waitReread (s : State) (b g : Nat) : State :=
  if (s.blk b).life != .resident || (s.grp b g).ended then s
  else if (s.grp b g).more.isEmpty then s.reread b g
  else (s.grp b g).parks.foldl (fun s p => (s.turnTo b g (· == p)).reread b g) s

/-- WAIT_REREAD (R263). -/
def execWaitReread (blk grp : Nat) (s : State) : Host.Outcome State Fault Refusal := .next (s.waitReread blk grp)

/-! ### When a reason has cleared (R326) -/

/-- In deterministic mode a block resumes in a phase once every lower block of its logical core has ended or has been saved
at GBAR of that phase (R321). -/
def State.myTurn (s : State) (b : Nat) : Bool :=
  let x := s.blk b
  !(s.gridOf b).determ || (oitems s.blocks).all fun o =>
    o.2.grid != x.grid || o.2.lcore != x.lcore || o.2.job.isSome || decide (x.id ≤ o.2.id) || o.2.life == .ended
      || (o.2.life == .saved && s.atGbar o.1)

/-- What lets a word that did not issue be tried again, by the reason it parked for. -/
def State.reissueCleared (s : State) (b g : Nat) : ParkReason → Bool
  | .switch =>
    (s.grp b g).outs.isEmpty && (s.grp b g).slots == 0 && (s.entriesOf b g).isEmpty && (s.matrixOut b g).isEmpty
  | .loadSlot => decide (s.slotsUsed b g < 48)
  | .storeBuffer => !s.lsbFull b
  | .commit =>
    (s.entriesOf b g).isEmpty && (s.grp b g).loads.isEmpty
  | .matrix =>
    ((s.mxOf b).owner.isNone || (s.mxOf b).owner == some b) && (s.mxOf b).staged.isNone && !s.inTeam b
  | _ => true

/-- A host has been asked for a line of the group's capsule record and has not answered (R278). -/
def State.capAsked (s : State) (b g : Nat) : Bool :=
  (s.capHost (s.blk b).space (s.grp b g).caprec).any fun h =>
    (oget (s.die h.1).hostLines (h.2 / 128)).any (·.asked)

/-- A host has been asked for the line of a LAUNCH's descriptor and has not answered (R278). -/
def State.descAsked (s : State) (b : Nat) (a : Access) : Bool :=
  (s.hostTakes (s.partyOf b) (a.vaAt 0)).any fun h => (oget (s.die h.1).hostLines (h.2 / 128)).any (·.asked)

/-- What a park waits for is there. -/
def State.awaitCleared (s : State) (b g : Nat) (r : ParkReason) : Await → Bool
  | .reissue => s.reissueCleared b g r
  | .nothing => true
  | .lines l => l.all fun k => if r = .matrix then !(s.claimed b).contains k else !((s.blk b).bedLine k).absent
  | .queue q words cmds push =>
    let n := ((s.grp b g).queue q).length
    if push then decide (n + words ≤ 32) && (cmds == 0 || decide (s.pushed b + cmds ≤ 64)) else decide (words ≤ n)
  | .results => !s.waiting b g
  | .eret _ => !s.waiting b g && (s.entriesOf b g).all fun a => !a.handler
  | .tfence .. => !s.waiting b g
  | .commit id .. => (s.blk b).committed id
  | .flush _ => true
  | .entry uid =>
    match s.entry (s.blk b).core uid with
    | none => true
    | some a => a.wait &&& ~~~(a.fault ||| a.conf) == 0
  | .timeline t n => decide (n ≤ sget 0 (s.blk b).done t)
  | .barrier n gen => ((s.blk b).bar n).gen != gen
  | .arrivals n count gen => decide (count ≤ ((s.blk b).bar n).arr) || decide (gen < ((s.blk b).bar n).gen)
  | .phase n => decide (n < (s.gridOf b).phase) && s.myTurn b
  | .gbar id => (s.blk b).committed id
  | .cape id => (s.blk b).committed id && !s.capAsked b g
  | .image id _ => (s.blk b).committed id
  | .waitc a .. => a.wait == 0
  | .launch a _ => (s.blk b).committed a.after && (a.fault ||| a.conf) == 0 && !s.descAsked b a
  | .team d => s.teamReady b d
  | .plot base lines => !s.plotCopies b base lines
  | .lda .. => false
  | .waitm .. => false
  | .maskw .. => false
  | .capb .. => false
  | .step .. => false
  | .capsule _ => false

/-- The reason of a park of a group has cleared (R326). Log 80 (DEDUCED). -/
def State.parkCleared (s : State) (b g : Nat) : Bool :=
  (s.blk b).life == .resident && !(s.grp b g).ended
    && (s.grp b g).parks.any fun p => s.awaitCleared b g p.reason p.what

/-- What the end of a park does. The second part of a word that has begun is carried out; anything else goes on to its
next word. Log 80 (DEDUCED), 81 (DEDUCED). -/
def State.endPark (s : State) (b g : Nat) : Await → State
  | .eret replay => s.finishEret b g replay
  | .tfence run next => (s.unpark b g).checkFlags b g run next
  | .commit _ flush acq _ => s.finishCommit b g flush acq
  | .flush acq => s.finishFence b g acq
  | .timeline .. => (s.acquire b 4).unpark b g
  | .phase _ => (s.acquire b 4).unpark b g
  | .gbar _ => (s.dropPark b g).arrivePhase b g
  | .cape _ =>
    match s.capHost (s.blk b).space (s.grp b g).caprec with
    | some h => s.backInvalidate h.1 h.2
    | none => (s.setAwait b g .nothing).endCapsule b g
  | .image _ va => s.writeImage b g va
  | .waitc .. => (s.updGrp b g fun y => { y with waitOk := true }).unpark b g
  | .launch a lanes => s.performLaunch b g a lanes
  | .team d => s.formTeam b d
  | _ => s.unpark b g

/-- GROUP_UNPARK (R326): the first of the group's parks whose reason has cleared ends. -/
def execGroupUnpark (blk grp : Nat) (s : State) : Host.Outcome State Fault Refusal :=
  .next (if s.parkCleared blk grp then
    (let t := s.turnTo blk grp fun p => s.awaitCleared blk grp p.reason p.what
     match (t.grp blk grp).park with
      | some p => t.endPark blk grp p.what
      | none => t)
    else s)

end Sys2Proof.Machine
end

