-- ==== Sys2Proof/Machine/Predicate.lean ====
section
/-!
DEFINITION. The predicate instructions (R160 to R164).
-/

namespace Sys2Proof.Machine

/-- A predicate of two predicates (R161). -/
def predAB (I : Issue) (s : State) (p : BitVec 7) (a b : BitVec 5) (k : BitVec 4) (f : Mask → Mask → Mask) : State :=
  I.setP s p.toNat (f (I.G.rp (predAt (k.extractLsb' 2 2) a)) (I.G.rp (predAt (k.extractLsb' 0 2) b)))

/-- The right operand of a comparison: a lane register, or a uniform one (R160). -/
def cmpRight (I : Issue) (b : BitVec 5) (u : BitVec 1) (L : Nat) : Word :=
  if u == 1 then I.G.rs b.toNat else I.G.rv b.toNat L

/-- ISETP (R160). -/
def execIsetp (p : BitVec 7) (a b : BitVec 5) (k : BitVec 4) (u : BitVec 1) (s : State) :
    Host.Outcome State Fault Refusal :=
  issueWord (.isetp p a b k u) s fun I s =>
    I.setP s p.toNat (maskOf fun L => iCmp k.toNat (I.G.rv a.toNat L) (cmpRight I b u L))

/-- FSETP (R160). -/
def execFsetp (p : BitVec 7) (a b : BitVec 5) (k : BitVec 4) (u : BitVec 1) (s : State) :
    Host.Outcome State Fault Refusal :=
  issueWord (.fsetp p a b k u) s fun I s =>
    I.raise (I.setP s p.toNat (maskOf fun L => fCmp k.toNat (I.G.rv a.toNat L) (cmpRight I b u L)))
      (flagsOf I.act fun L => fCmpFlags (I.G.rv a.toNat L) (cmpRight I b u L))

/-- PAND (R161). -/
def execPand (p : BitVec 7) (a b : BitVec 5) (k : BitVec 4) (s : State) : Host.Outcome State Fault Refusal :=
  issueWord (.pand p a b k) s fun I s => predAB I s p a b k (· &&& ·)

/-- POR (R161). -/
def execPor (p : BitVec 7) (a b : BitVec 5) (k : BitVec 4) (s : State) : Host.Outcome State Fault Refusal :=
  issueWord (.por p a b k) s fun I s => predAB I s p a b k (· ||| ·)

/-- PXOR (R161). -/
def execPxor (p : BitVec 7) (a b : BitVec 5) (k : BitVec 4) (s : State) : Host.Outcome State Fault Refusal :=
  issueWord (.pxor p a b k) s fun I s => predAB I s p a b k (· ^^^ ·)

/-- PANDN (R161). -/
def execPandn (p : BitVec 7) (a b : BitVec 5) (k : BitVec 4) (s : State) : Host.Outcome State Fault Refusal :=
  issueWord (.pandn p a b k) s fun I s => predAB I s p a b k fun x y => x &&& ~~~y

/-- PTOV (R162). -/
def execPtov (d a : BitVec 5) (m : BitVec 2) (g : BitVec 4) (s : State) : Host.Outcome State Fault Refusal :=
  issueWord (.ptov d a m g) s fun I s =>
    I.setV s d fun L => (if (I.G.rp (predAt m a)).getLsbD L then 1 else 0, 0)

/-- VTOP (R162). -/
def execVtop (p : BitVec 7) (a : BitVec 5) (u : BitVec 1) (s : State) : Host.Outcome State Fault Refusal :=
  issueWord (.vtop p a u) s fun I s =>
    I.setP s p.toNat (maskOf fun L => (if u == 1 then I.G.rs a.toNat else I.G.rv a.toNat L) != 0)

/-- The result of a vote over the active lanes V, P those in which the predicate holds (R164). -/
def voteResult (b : BitVec 5) (V P : Mask) : Word :=
  let bit (c : Bool) : Word := if c then 1 else 0
  if b = 0 then P.setWidth 64
  else if b = 1 then bit (P == V)
  else if b = 2 then bit (P != 0)
  else bit (P == 0 || P == V)

/-- VOTE (R164). -/
def execVote (d a b : BitVec 5) (m : BitVec 2) (g : BitVec 4) (s : State) : Host.Outcome State Fault Refusal :=
  issueWord (.vote d a b m g) s fun I s =>
    I.setV s d fun _ => (voteResult b I.act (I.act &&& I.G.rp (predAt m a)), 0)

/-- PLD (R163). -/
def execPld (a : BitVec 5) (m : BitVec 2) (g : BitVec 4) (s : State) : Host.Outcome State Fault Refusal :=
  issueWord (.pld a m g) s fun I s =>
    (List.range 32).foldl
      (fun s k => I.setP s (32 * m.toNat + k) (maskOf fun L => (I.G.rv a.toNat L).getLsbD k)) s

/-- PST (R163). -/
def execPst (d : BitVec 5) (m : BitVec 2) (g : BitVec 4) (s : State) : Host.Outcome State Fault Refusal :=
  issueWord (.pst d m g) s fun I s =>
    I.setV s d fun L =>
      ((maskOf fun k => (I.G.rp (32 * m.toNat + k)).getLsbD L).setWidth 64, 0)

end Sys2Proof.Machine
end

