-- ==== Sys2Proof/Machine/Stack.lean ====
section
/-!
DEFINITION. The stack engines (04_stack_engines.md): GEMV, SOPEN, SCLOSE, and the steps SOPEN_CONTEXT_BIND and
SIEVE_FEED.
-/

namespace Sys2Proof.Machine

/-! ### Taking a command (R78, R79) -/

/-- An earlier command of the block on q4 has not been taken. -/
def State.stackWaits (s : State) (c : Command) : Bool :=
  (oitems s.cmds).any fun o => o.2.blk == c.blk && o.2.queue == 4 && o.2.state == .pushed && decide (o.2.seq < c.seq)

/-- A command starts to be taken: none, where its commit or its turn is still to come. -/
def State.stackReady (s : State) (c : Command) : Bool := (s.blk c.blk).committed c.after && !s.stackWaits c

/-- KIND and NW of a header (R71). -/
def Command.isKind (c : Command) (kind nw : Nat) : Bool := bits (c.word 0) 60 4 == kind && bits (c.word 0) 48 8 == nw

/-- The addresses from `lo` to `hi` − 1 lie in home h. -/
def inHome (lo hi h : Nat) : Bool := decide (h * 2 ^ 51 ≤ lo) && decide (hi ≤ (h + 1) * 2 ^ 51)

/-! ### Reads of any length -/

/-- n bytes from any address on read by an engine: the worst status and the bytes. -/
def State.engineReadRange (s : State) (P : Party) (va : Nat) : (fuel n : Nat) → State × Nat × List Byte
  | 0, _ => (s, 0, [])
  | fuel + 1, n =>
    if n = 0 then (s, 0, [])
    else
      let k := min n (128 - va % 128)
      let r := s.engineRead P (BitVec.ofNat 64 va) k
      let t := r.1.engineReadRange P (va + k) fuel (n - k)
      (t.1, worseStat r.2.stat t.2.1, bytesLe k r.2.val ++ t.2.2)

/-! ### GEMV (R72, R73) -/

/-- The arguments of a GEMV. -/
structure Gemv where
  bfmt : Nat
  afmt : Nat
  be : Nat
  bh : Nat
  av : Nat
  yv : Nat
  m : Nat
  k : Nat
  deriving DecidableEq, Repr

def Command.gemv (c : Command) : Gemv :=
  ⟨bits (c.word 0) 28 4, bits (c.word 0) 24 4, (c.word 1).toNat, (c.word 2).toNat, (c.word 3).toNat, (c.word 4).toNat,
    bits (c.word 5) 32 32, bits (c.word 5) 0 32⟩

/-- Bytes of a row of B, of its headers or scales, and of a. -/
def Gemv.rowBytes (a : Gemv) : Nat := a.k * fmtBits a.bfmt / 8
def Gemv.hdrBytes (a : Gemv) : Nat := if a.bfmt = 7 then a.k / 32 * 2 else if a.bfmt = 8 then a.k / 32 else 0
def Gemv.vecBytes (a : Gemv) : Nat := a.k * fmtBits a.afmt / 8

/-- A GEMV command is valid (R72, R78). -/
def Command.gemvOk (c : Command) : Bool :=
  let a := c.gemv
  let h := a.be / 2 ^ 51
  let blocked := a.bfmt == 7 || a.bfmt == 8
  c.isKind 1 5 && [1, 3, 4, 7, 8].contains a.bfmt && [1, 3].contains a.afmt && bits (c.word 0) 0 24 == 0
    && decide (1 ≤ a.m) && decide (a.m ≤ 2 ^ 20) && decide (32 ≤ a.k) && decide (a.k ≤ 2 ^ 20) && a.k % 32 == 0
    && decide (h < 2) && inHome a.be (a.be + a.m * a.rowBytes) h && inHome a.av (a.av + a.vecBytes) h
    && inHome a.yv (a.yv + 4 * a.m) h && (if blocked then inHome a.bh (a.bh + a.m * a.hdrBytes) h else a.bh == 0)
    && (a.bfmt != 1 || a.be % 2 == 0) && (a.bfmt != 7 || a.bh % 2 == 0) && (a.afmt != 1 || a.av % 2 == 0)
    && a.yv % 4 == 0

/-- The elements of a row of B or of a, and how many NX4 headers and pairs are invalid (R73). -/
def rowElems (fmt k : Nat) (bytes hdr : List Byte) : List FVal × Nat :=
  if fmt = 7 || fmt = 8 then
    let mx := fmt == 8
    let b := bytes.toArray
    let g := hdr.toArray
    let head (i : Nat) : Nat :=
      if mx then (g.getD i 0).toNat else (g.getD (2 * i) 0).toNat + 256 * (g.getD (2 * i + 1) 0).toNat
    let codes (i : Nat) : List Nat := (slice b (16 * i) 16).flatMap fun x => [x.toNat % 16, x.toNat / 16]
    let bad (i : Nat) : Nat :=
      if mx then 0 else if head i / 2 ^ 14 % 4 ≠ 0 then 1
      else ((List.range 16).filter fun j => codeAt (codes i) (2 * j) == 8 && codeAt (codes i) (2 * j + 1) == 8).length
    ((List.range (k / 32)).flatMap fun i => (blockElems mx (slice b (16 * i) 16) (head i)).map (·.val),
      ((List.range (k / 32)).map bad).foldl (· + ·) 0)
  else
    let b := bytes.toArray
    ((List.range k).map fun i =>
      if fmt = 1 then bf16.value ((b.getD (2 * i) 0).toNat + 256 * (b.getD (2 * i + 1) 0).toNat)
      else (fmtOf fmt).value (b.getD i 0).toNat, 0)

/-- The block sums of a row in K order added to the accumulator. -/
def gemvGo : (fuel : Nat) → List FVal → List FVal → Nat → Nat
  | 0, _, _, acc => acc
  | fuel + 1, xs, ys, acc =>
    let s := blockSum (((xs.take 32).zip (ys.take 32)).map fun p => prod p.1 p.2)
    gemvGo fuel (xs.drop 32) (ys.drop 32) (addAcc acc s).1

/-- One element of y in FP32 (R73). Log 45 (DEDUCED). -/
def gemvElem (k : Nat) (xs ys : List FVal) : Nat := rnBits fp32 (a56.value (gemvGo (k / 32) xs ys 0))

/-- STAT of a GEMV so far: the first of 1, 2, 3 and 5 (R138), and the count for STAT 5. Log 44 (DESIGN CHOICE). -/
def Command.gemvStat (c : Command) (stat bad : Nat) : Command :=
  { c with
    stat := if stat != 0 && (c.stat = 0 || stat < c.stat) then stat else c.stat
    detail := c.detail + bad }

/-- Feeds of a range of addresses that wait. -/
def State.feedsOut (s : State) (space lo n : Nat) : Bool :=
  s.agenda.any fun i => match i with
    | .sieveFeed _ sp va len => sp == space && decide (lo < va + len) && decide (va < lo + n)
    | _ => false

/-- A GEMV starts: a is read once, and kept with the words if it could be. Log 45 (DEDUCED). -/
def State.startGemv (s : State) (cmd : Nat) (c : Command) : State :=
  let a := c.gemv
  let r := s.engineReadRange (s.partyOf c.blk) a.av (lineFuel a.vecBytes) a.vecBytes
  (r.1.updCmd cmd fun c => { (c.gemvStat r.2.1 0) with
    state := .taken
    words := c.words ++ (if r.2.1 = 0 then r.2.2.map fun b => b.setWidth 64 else []) }).post (.gemv cmd)

/-- a has been read. -/
def Command.hasVec (c : Command) : Bool := decide (6 < c.words.length)

/-- One row read and one element of y formed and stored, where a and the row could be read. Log 45 (DEDUCED). -/
def State.gemvRow (s : State) (cmd : Nat) (c : Command) : State :=
  let a := c.gemv
  let P := s.partyOf c.blk
  let again : Instr := .gemv cmd
  let r := s.engineReadRange P (a.be + c.next * a.rowBytes) (lineFuel a.rowBytes) a.rowBytes
  let h := r.1.engineReadRange P (a.bh + c.next * a.hdrBytes) (lineFuel a.hdrBytes) a.hdrBytes
  let st := worseStat r.2.1 h.2.1
  let done (t : State) (stat bad : Nat) : State :=
    (t.updCmd cmd fun c => { (c.gemvStat stat bad) with next := c.next + 1 }).post again
  if st != 0 || !c.hasVec then done h.1 st 0
  else
    let x := rowElems a.bfmt a.k r.2.2 h.2.2
    let v := rowElems a.afmt a.k ((c.words.drop 6).map fun w => w.setWidth 8) []
    let y := gemvElem a.k x.1 v.1
    let bad := x.2 + (if (fp32.value y).isNan then 1 else 0)
    let va : Word := BitVec.ofNat 64 (a.yv + 4 * c.next)
    let q := h.1.engineProbe P va
    if q.2.1 != 0 then done q.1 q.2.1 bad
    else
      let t := q.1.engineTags P (lineNo va) (lineOff va) 4 true
      if t.2.1 != 0 then done t.1 t.2.1 bad
      else if s.hostCaches (ownerOf va) q.2.2.pa then (s.backInvalidate (ownerOf va) q.2.2.pa).post again
      else
        let u := t.1.mergeLine P (lineNo va) (q.2.2.pa / 128 * 128) q.2.2.bitmap true
          (bytesMask (lineOff va) 4 &&& ~~~t.2.2) (linePut y (lineOff va) 4)
        done u (if bad = 0 then 0 else 5) bad

/-- GEMV (R73): the engine takes the command, then forms one element at each step. What DETAIL holds for a GEMV whose
STAT is 1, 2 or 3 is open. -/
def State.gemv (s : State) (cmd : Nat) : State :=
  match s.cmd cmd with
  | none => s
  | some c =>
    let a := c.gemv
    if c.state == .pushed then
      if !s.stackReady c then s.post (.gemv cmd)
      else if !c.gemvOk then s.rejectCommand cmd
      else
        match s.rangeTaken (s.partyOf c.blk) a.av a.vecBytes with
        | [] => s.startGemv cmd c
        | l => (s.askHost l).post (.gemv cmd)
    else if c.state != .taken then s
    else if c.next < a.m then
      match s.rangeTaken (s.partyOf c.blk) (a.be + c.next * a.rowBytes) a.rowBytes
          ++ s.rangeTaken (s.partyOf c.blk) (a.bh + c.next * a.hdrBytes) a.hdrBytes with
      | [] => s.gemvRow cmd c
      | l => (s.askHost l).post (.gemv cmd)
    else if s.feedsOut (s.blk c.blk).space a.yv (4 * a.m) then s.post (.gemv cmd)
    else
      let f := if c.stat = 1 || c.stat = 2 || c.stat = 3 then s.takeFree else (BitVec.ofNat 64 c.detail, s)
      (f.2.updCmd cmd fun c => { c with detail := f.1.toNat % 2 ^ 32 }).post (.commandCompletion cmd)

/-- GEMV (R73). -/
def execGemv (cmd : Nat) (s : State) : Host.Outcome State Fault Refusal := .next (s.gemv cmd)

/-! ### The Sieve (R74 to R77) -/

/-- A context with nothing fed. -/
def Sieve.fresh (blk slot space row n k ref tag : Nat) : Sieve :=
  { blk := blk, slot := slot, space := space, row := row, n := n, k := k, ref := ref, tag := tag, short := []
    max := 0xFF800000, acc := 0, count := 0, nan := false, refx := false }

def Command.slot (c : Command) : Nat := bits (c.word 0) 24 2

/-- The range of a SOPEN (R75). -/
def Command.row (c : Command) : Nat := (c.word 1).toNat
def Command.rowLen (c : Command) : Nat := bits (c.word 2) 0 32

/-- An open context of a space, or one that a SOPEN which has been taken waits for, overlaps a range (R78). -/
def State.sieveOverlap (s : State) (space row n : Nat) : Bool :=
  ((oitems s.die0.sieves ++ oitems s.die1.sieves).any fun c =>
      c.2.space == space && decide (c.2.row < row + 4 * n) && decide (row < c.2.row + 4 * c.2.n))
    || (oitems s.cmds).any fun o => o.2.queue == 4 && o.2.state == .taken && bits (o.2.word 0) 60 4 == 2
        && (s.blk o.2.blk).space == space && decide (o.2.row < row + 4 * n) && decide (row < o.2.row + 4 * o.2.rowLen)

/-- A SOPEN that has been taken and waits holds its slot. -/
def State.slotTaken (s : State) (cmd : Nat) (c : Command) : Bool :=
  (oget (s.blk c.blk).sieve c.slot).isSome
    || (oitems s.cmds).any fun o => o.1 != cmd && o.2.blk == c.blk && o.2.queue == 4 && o.2.state == .taken
        && bits (o.2.word 0) 60 4 == 2 && o.2.slot == c.slot

/-- A SOPEN is valid (R75, R78). -/
def State.sopenOk (s : State) (cmd : Nat) (c : Command) : Bool :=
  let h := c.word 0
  let row := (c.word 1).toNat
  let n := bits (c.word 2) 0 32
  c.isKind 2 2 && bits h 26 6 == 0 && bits h 23 1 == 0 && bits h 0 16 == 0
    && decide (1 ≤ bits h 16 7) && decide (bits h 16 7 ≤ 64) && row % 4 == 0 && decide (1 ≤ n) && decide (n ≤ 2 ^ 24)
    && (inHome row (row + 4 * n) 0 || inHome row (row + 4 * n) 1)
    && !(fp32.value (bits (c.word 2) 32 32)).isNan && !(fp32.value (bits (c.word 2) 32 32)).isInf
    && !s.slotTaken cmd c && !s.sieveOverlap (s.blk c.blk).space row n

/-- SOPEN (R75). Log 45 (DEDUCED). -/
def State.sopen (s : State) (cmd : Nat) : State :=
  match s.cmd cmd with
  | none => s
  | some c =>
    if c.state != .pushed then s
    else if !s.stackReady c then s.post (.sopen cmd)
    else if !s.sopenOk cmd c then s.rejectCommand cmd
    else (s.updCmd cmd fun c => { c with state := .taken }).post (.sopenContextBind cmd)

/-- SOPEN (R75). -/
def execSopen (cmd : Nat) (s : State) : Host.Outcome State Fault Refusal := .next (s.sopen cmd)

/-- A free context of the row's die is bound to the slot; the command then completes. -/
def State.sopenBind (s : State) (cmd : Nat) : State :=
  match s.cmd cmd with
  | none => s
  | some c =>
    let x := s.blk c.blk
    let d := ownerOf (c.word 1)
    let row := (c.word 1).toNat
    let n := bits (c.word 2) 0 32
    match (List.range 512).find? fun k => (oget (s.die d).sieves k).isNone with
    | none => s.post (.sopenContextBind cmd)
    | some k =>
      if s.feedsOut x.space row (4 * n) then s.post (.sopenContextBind cmd)
      else
        let v := Sieve.fresh c.blk c.slot x.space row n (bits (c.word 0) 16 7) (bits (c.word 2) 32 32) (bits (c.word 0) 32 16)
        ((s.updDie d fun y => { y with sieves := oset y.sieves k v }).updBlk c.blk fun x =>
          { x with sieve := oset x.sieve c.slot (512 * d + k) }).post (.commandCompletion cmd)

/-- SOPEN_CONTEXT_BIND (R75). -/
def execSopenContextBind (cmd : Nat) (s : State) : Host.Outcome State Fault Refusal := .next (s.sopenBind cmd)

/-- An index and a value put into a shortlist (R76). -/
def insertShort (i x : Nat) : List (Nat × Nat) → List (Nat × Nat)
  | [] => [(i, x)]
  | p :: t =>
    let a := fp32.value x
    let b := fp32.value p.2
    if b.lt a || (a.eq b && decide (i < p.1)) then (i, x) :: p :: t else p :: insertShort i x t

/-- An element fed to a context (R76). -/
def Sieve.feed (v : Sieve) (i x : Nat) : Sieve :=
  let v1 := { v with count := min (v.count + 1) (2 ^ 32 - 1) }
  let a := fp32.value x
  let r := fp32.value v.ref
  if a.isNan then { v1 with nan := true }
  else
    let t := (exAdd a r.negate).1
    let big := match t with | .inf s => !s | .fin s n d => !s && decide (128 * d ≤ n) | .nan _ => false
    { v1 with
      refx := v.refx || r.lt a
      max := if (fp32.value v.max).lt a then x else v.max
      acc := if big then 2 ^ 320 - 1 else min (v.acc + sieveTerm t) (2 ^ 320 - 1)
      short := (insertShort i x v.short).take v.k }

/-- The first of the elements that wait at an address of a space taken from the list. -/
def takeFeed (space va : Nat) : List (Nat × Nat × Nat) → Option Nat × List (Nat × Nat × Nat)
  | [] => (none, [])
  | f :: t => if f.1 = space && f.2.1 = va then (some f.2.2, t) else ((takeFeed space va t).1, f :: (takeFeed space va t).2)

/-- The elements of a written range, each as its write left it, fed to the open contexts that they lie in.
Log 45 (DEDUCED). -/
def State.sieveFeed (s : State) (d space va len : Nat) : State :=
  (List.range ((va + len + 3) / 4 - va / 4)).foldl
    (fun s k =>
      let e := (va / 4 + k) * 4
      let f := takeFeed space e (s.die d).feeds
      match f.1 with
      | none => s
      | some x =>
        s.updDie d fun y => { y with
          feeds := f.2
          sieves := y.sieves.map fun kv => (kv.1, kv.2.map fun v =>
            if v.space = space && v.row ≤ e && e < v.row + 4 * v.n then v.feed ((e - v.row) / 4) x else v) }) s

/-- SIEVE_FEED (R76). -/
def execSieveFeed (die space va len : Nat) (s : State) : Host.Outcome State Fault Refusal :=
  .next (s.sieveFeed die space va len)

/-- The words of a result (R77). -/
def Sieve.result (v : Sieve) : List Word :=
  let z := rnBits fp32 (.fin false v.acc (2 ^ 160))
  let empty := v.short.isEmpty
  BitVec.ofNat 64 (v.tag * 2 ^ 48 + v.short.length * 2 ^ 40 + (if empty then 2 ^ 36 else 0)
      + (if z = fp32.infMag then 2 ^ 34 else 0) + (if v.nan then 2 ^ 33 else 0) + (if v.refx then 2 ^ 32 else 0) + v.count)
    :: BitVec.ofNat 64 (v.max * 2 ^ 32 + z)
    :: v.short.map fun p => BitVec.ofNat 64 (p.2 * 2 ^ 32 + p.1)

/-- SCLOSE (R77): after every earlier command of its block, the result goes to q5 and the context is free. -/
def State.sclose (s : State) (cmd : Nat) : State :=
  match s.cmd cmd with
  | none => s
  | some c =>
    let h := c.word 0
    let earlier := (oitems s.cmds).any fun o =>
      o.2.blk == c.blk && decide (o.2.seq < c.seq) && o.2.state != .done && !o.2.refetch
    if c.state != .pushed then s
    else if !s.stackReady c || earlier then s.post (.sclose cmd)
    else
      match oget (s.blk c.blk).sieve c.slot with
      | none => s.rejectCommand cmd
      | some n =>
        match oget (s.die (n / 512)).sieves (n % 512) with
        | none => s.rejectCommand cmd
        | some v =>
          if !(c.isKind 3 0 && bits h 26 6 == 0 && bits h 23 1 == 0 && bits h 0 23 == 0) then s.rejectCommand cmd
          else if s.feedsOut v.space v.row (4 * v.n) then s.post (.sclose cmd)
          else
            (((s.updDie (n / 512) fun y => { y with sieves := odel y.sieves (n % 512) }).updBlk c.blk fun x =>
              { x with sieve := odel x.sieve c.slot }).updCmd cmd fun c =>
                { c with state := .taken, out := v.result }).post (.commandCompletion cmd)

/-- SCLOSE (R77). -/
def execSclose (cmd : Nat) (s : State) : Host.Outcome State Fault Refusal := .next (s.sclose cmd)

end Sys2Proof.Machine
end

