-- ==== Sys2Proof/Machine/Dispatch.lean ====
section
/-!
DEFINITION. The meaning of every instruction: one arm for each constructor of Instr.
-/

namespace Sys2Proof.Machine

def exec (i : Instr) (s : State) : Host.Outcome State Fault Refusal :=
  match i with
  | .bra h g o => Sys2Proof.Machine.execBra h g o s
  | .brx a g => Sys2Proof.Machine.execBrx a g s
  | .call h g o => Sys2Proof.Machine.execCall h g o s
  | .callx a g => Sys2Proof.Machine.execCallx a g s
  | .ret g => Sys2Proof.Machine.execRet g s
  | .exit g => Sys2Proof.Machine.execExit g s
  | .yield g => Sys2Proof.Machine.execYield g s
  | .nop g => Sys2Proof.Machine.execNop g s
  | .trap imm => Sys2Proof.Machine.execTrap imm s
  | .bkpt g => Sys2Proof.Machine.execBkpt g s
  | .tfence g => Sys2Proof.Machine.execTfence g s
  | .eret r g => Sys2Proof.Machine.execEret r g s
  | .canck p => Sys2Proof.Machine.execCanck p s
  | .isetp p a b k u => Sys2Proof.Machine.execIsetp p a b k u s
  | .fsetp p a b k u => Sys2Proof.Machine.execFsetp p a b k u s
  | .pand p a b k => Sys2Proof.Machine.execPand p a b k s
  | .por p a b k => Sys2Proof.Machine.execPor p a b k s
  | .pxor p a b k => Sys2Proof.Machine.execPxor p a b k s
  | .pandn p a b k => Sys2Proof.Machine.execPandn p a b k s
  | .ptov d a m g => Sys2Proof.Machine.execPtov d a m g s
  | .vtop p a u => Sys2Proof.Machine.execVtop p a u s
  | .vote d a b m g => Sys2Proof.Machine.execVote d a b m g s
  | .pld a m g => Sys2Proof.Machine.execPld a m g s
  | .pst d m g => Sys2Proof.Machine.execPst d m g s
  | .iadd d a b m g => Sys2Proof.Machine.execIadd d a b m g s
  | .isub d a b m g => Sys2Proof.Machine.execIsub d a b m g s
  | .imul d a b m g => Sys2Proof.Machine.execImul d a b m g s
  | .imulh d a b m g => Sys2Proof.Machine.execImulh d a b m g s
  | .imad d a b e n => Sys2Proof.Machine.execImad d a b e n s
  | .imin d a b m g => Sys2Proof.Machine.execImin d a b m g s
  | .imax d a b m g => Sys2Proof.Machine.execImax d a b m g s
  | .iabs d a m g => Sys2Proof.Machine.execIabs d a m g s
  | .and d a b m g => Sys2Proof.Machine.execAnd d a b m g s
  | .or d a b m g => Sys2Proof.Machine.execOr d a b m g s
  | .xor d a b m g => Sys2Proof.Machine.execXor d a b m g s
  | .andn d a b m g => Sys2Proof.Machine.execAndn d a b m g s
  | .shl d a b m g => Sys2Proof.Machine.execShl d a b m g s
  | .shr d a b m g => Sys2Proof.Machine.execShr d a b m g s
  | .sar d a b m g => Sys2Proof.Machine.execSar d a b m g s
  | .rotl d a b m g => Sys2Proof.Machine.execRotl d a b m g s
  | .popc d a m g => Sys2Proof.Machine.execPopc d a m g s
  | .clz d a m g => Sys2Proof.Machine.execClz d a m g s
  | .brev d a m g => Sys2Proof.Machine.execBrev d a m g s
  | .bfx d a b e n => Sys2Proof.Machine.execBfx d a b e n s
  | .bfi d a b e => Sys2Proof.Machine.execBfi d a b e s
  | .bsel d a b m g => Sys2Proof.Machine.execBsel d a b m g s
  | .sel d a b m g => Sys2Proof.Machine.execSel d a b m g s
  | .lea d a b u k g => Sys2Proof.Machine.execLea d a b u k g s
  | .iaddi d a imm => Sys2Proof.Machine.execIaddi d a imm s
  | .andi d a imm => Sys2Proof.Machine.execAndi d a imm s
  | .ori d a imm => Sys2Proof.Machine.execOri d a imm s
  | .xori d a imm => Sys2Proof.Machine.execXori d a imm s
  | .shli d a imm => Sys2Proof.Machine.execShli d a imm s
  | .shri d a imm => Sys2Proof.Machine.execShri d a imm s
  | .sari d a imm => Sys2Proof.Machine.execSari d a imm s
  | .isat d a b m g => Sys2Proof.Machine.execIsat d a b m g s
  | .idiv d a b m g => Sys2Proof.Machine.execIdiv d a b m g s
  | .irem d a b m g => Sys2Proof.Machine.execIrem d a b m g s
  | .mov d a m g => Sys2Proof.Machine.execMov d a m g s
  | .li d imm => Sys2Proof.Machine.execLi d imm s
  | .lih d imm => Sys2Proof.Machine.execLih d imm s
  | .movs d a b g => Sys2Proof.Machine.execMovs d a b g s
  | .shfl d a b m g => Sys2Proof.Machine.execShfl d a b m g s
  | .redg d a m g => Sys2Proof.Machine.execRedg d a m g s
  | .scan d a x m g => Sys2Proof.Machine.execScan d a x m g s
  | .bcast d a b g => Sys2Proof.Machine.execBcast d a b g s
  | .mfs r y => Sys2Proof.Machine.execMfs r y s
  | .mts r y => Sys2Proof.Machine.execMts r y s
  | .fadd d a b m g => Sys2Proof.Machine.execFadd d a b m g s
  | .fsub d a b m g => Sys2Proof.Machine.execFsub d a b m g s
  | .fmul d a b m g => Sys2Proof.Machine.execFmul d a b m g s
  | .fdiv d a b m g => Sys2Proof.Machine.execFdiv d a b m g s
  | .ffma d a b e n => Sys2Proof.Machine.execFfma d a b e n s
  | .fmin d a b m g => Sys2Proof.Machine.execFmin d a b m g s
  | .fmax d a b m g => Sys2Proof.Machine.execFmax d a b m g s
  | .fcps d a b m g => Sys2Proof.Machine.execFcps d a b m g s
  | .fabs d a m g => Sys2Proof.Machine.execFabs d a m g s
  | .fneg d a m g => Sys2Proof.Machine.execFneg d a m g s
  | .frnd d a b m g => Sys2Proof.Machine.execFrnd d a b m g s
  | .hadd2 d a b f r g => Sys2Proof.Machine.execHadd2 d a b f r g s
  | .hmul2 d a b f r g => Sys2Proof.Machine.execHmul2 d a b f r g s
  | .hfma2 d a b e n => Sys2Proof.Machine.execHfma2 d a b e n s
  | .dmake d a b g => Sys2Proof.Machine.execDmake d a b g s
  | .dmean d a g => Sys2Proof.Machine.execDmean d a g s
  | .dvar d a g => Sys2Proof.Machine.execDvar d a g s
  | .dstd d a g => Sys2Proof.Machine.execDstd d a g s
  | .dtag d a b g => Sys2Proof.Machine.execDtag d a b g s
  | .dclr d a g => Sys2Proof.Machine.execDclr d a g s
  | .daddv d a b g => Sys2Proof.Machine.execDaddv d a b g s
  | .ds4 d a r g => Sys2Proof.Machine.execDs4 d a r g s
  | .dcol d a g => Sys2Proof.Machine.execDcol d a g s
  | .dsamp d a m r g => Sys2Proof.Machine.execDsamp d a m r g s
  | .dsens d a b g => Sys2Proof.Machine.execDsens d a b g s
  | .ex2 d a m g => Sys2Proof.Machine.execEx2 d a m g s
  | .lg2 d a m g => Sys2Proof.Machine.execLg2 d a m g s
  | .rcp d a m g => Sys2Proof.Machine.execRcp d a m g s
  | .rsq d a m g => Sys2Proof.Machine.execRsq d a m g s
  | .sqrt d a m g => Sys2Proof.Machine.execSqrt d a m g s
  | .sin d a m g => Sys2Proof.Machine.execSin d a m g s
  | .cos d a m g => Sys2Proof.Machine.execCos d a m g s
  | .tanh d a m g => Sys2Proof.Machine.execTanh d a m g s
  | .sigm d a m g => Sys2Proof.Machine.execSigm d a m g s
  | .fcvt d a b m g => Sys2Proof.Machine.execFcvt d a b m g s
  | .icvt d a z w m g => Sys2Proof.Machine.execIcvt d a z w m g s
  | .ftoi d a z k w r g => Sys2Proof.Machine.execFtoi d a z k w r g s
  | .qcvt d a b m g => Sys2Proof.Machine.execQcvt d a b m g s
  | .qrsc d a b r g => Sys2Proof.Machine.execQrsc d a b r g s
  | .qzpc d a b g => Sys2Proof.Machine.execQzpc d a b g s
  | .benc d a b f r g => Sys2Proof.Machine.execBenc d a b f r g s
  | .bdec d a b f g => Sys2Proof.Machine.execBdec d a b f g s
  | .rgen d g => Sys2Proof.Machine.execRgen d g s
  | .runi d g => Sys2Proof.Machine.execRuni d g s
  | .rgaus d g => Sys2Proof.Machine.execRgaus d g s
  | .rcat d a b g => Sys2Proof.Machine.execRcat d a b g s
  | .rskip a g => Sys2Proof.Machine.execRskip a g s
  | .ldb t a o h g => Sys2Proof.Machine.execLdb t a o h g s
  | .ldh t a o h g => Sys2Proof.Machine.execLdh t a o h g s
  | .ldw t a o h g => Sys2Proof.Machine.execLdw t a o h g s
  | .ldd t a o h g => Sys2Proof.Machine.execLdd t a o h g s
  | .ldq t a o h g => Sys2Proof.Machine.execLdq t a o h g s
  | .ldx t a b h x g => Sys2Proof.Machine.execLdx t a b h x g s
  | .ldg d a m g => Sys2Proof.Machine.execLdg d a m g s
  | .pfet a o h g => Sys2Proof.Machine.execPfet a o h g s
  | .stb t a o h g => Sys2Proof.Machine.execStb t a o h g s
  | .sth t a o h g => Sys2Proof.Machine.execSth t a o h g s
  | .stw t a o h g => Sys2Proof.Machine.execStw t a o h g s
  | .std t a o h g => Sys2Proof.Machine.execStd t a o h g s
  | .stq t a o h g => Sys2Proof.Machine.execStq t a o h g s
  | .stx t a b h x g => Sys2Proof.Machine.execStx t a b h x g s
  | .lda d a w m g => Sys2Proof.Machine.execLda d a w m g s
  | .str w a b m g => Sys2Proof.Machine.execStr w a b m g s
  | .fence d m g => Sys2Proof.Machine.execFence d m g s
  | .atom d a b m g => Sys2Proof.Machine.execAtom d a b m g s
  | .acas d a b e n => Sys2Proof.Machine.execAcas d a b e n s
  | .afadd d a b m g => Sys2Proof.Machine.execAfadd d a b m g s
  | .red a b m g => Sys2Proof.Machine.execRed a b m g s
  | .commit g => Sys2Proof.Machine.execCommit g s
  | .waitm d a b m g => Sys2Proof.Machine.execWaitm d a b m g s
  | .lds t a o h g => Sys2Proof.Machine.execLds t a o h g s
  | .sts t a o h g => Sys2Proof.Machine.execSts t a o h g s
  | .ldsx t a b h x g => Sys2Proof.Machine.execLdsx t a b h x g s
  | .stsx t a b h x g => Sys2Proof.Machine.execStsx t a b h x g s
  | .plot d a b r g => Sys2Proof.Machine.execPlot d a b r g s
  | .unplot a g => Sys2Proof.Machine.execUnplot a g s
  | .renew a g => Sys2Proof.Machine.execRenew a g s
  | .pres p a => Sys2Proof.Machine.execPres p a s
  | .qw q r u g => Sys2Proof.Machine.execQw q r u g s
  | .qr q r u g => Sys2Proof.Machine.execQr q r u g s
  | .tlrd d b g => Sys2Proof.Machine.execTlrd d b g s
  | .tlw a b u g => Sys2Proof.Machine.execTlw a b u g s
  | .mldn a b m g => Sys2Proof.Machine.execMldn a b m g s
  | .mldw a b m g => Sys2Proof.Machine.execMldw a b m g s
  | .mma a b q t g => Sys2Proof.Machine.execMma a b q t g s
  | .dmma a b q g => Sys2Proof.Machine.execDmma a b q g s
  | .mma2 a b q g => Sys2Proof.Machine.execMma2 a b q g s
  | .mzro q l g => Sys2Proof.Machine.execMzro q l g s
  | .mdrn a b q g => Sys2Proof.Machine.execMdrn a b q g s
  | .mstat d a b m g => Sys2Proof.Machine.execMstat d a b m g s
  | .mteam a g => Sys2Proof.Machine.execMteam a g s
  | .mchk d g => Sys2Proof.Machine.execMchk d g s
  | .bar b g => Sys2Proof.Machine.execBar b g s
  | .bara b g => Sys2Proof.Machine.execBara b g s
  | .barc a b g => Sys2Proof.Machine.execBarc a b g s
  | .gbar g => Sys2Proof.Machine.execGbar g s
  | .capb a g => Sys2Proof.Machine.execCapb a g s
  | .cape g => Sys2Proof.Machine.execCape g s
  | .capr d b g => Sys2Proof.Machine.execCapr d b g s
  | .maskw d a b g => Sys2Proof.Machine.execMaskw d a b g s
  | .launch d a g => Sys2Proof.Machine.execLaunch d a g s
  | .compl a b g => Sys2Proof.Machine.execCompl a b g s
  | .waitc a b g => Sys2Proof.Machine.execWaitc a b g s
  | .tlbi a g => Sys2Proof.Machine.execTlbi a g s
  | .psumi a g => Sys2Proof.Machine.execPsumi a g s
  | .ctxsv a g => Sys2Proof.Machine.execCtxsv a g s
  | .ctxld a g => Sys2Proof.Machine.execCtxld a g s
  | .copyLinear cmd => Sys2Proof.Machine.execCopyLinear cmd s
  | .copyRagged cmd => Sys2Proof.Machine.execCopyRagged cmd s
  | .kvPut cmd => Sys2Proof.Machine.execKvPut cmd s
  | .kvGet cmd => Sys2Proof.Machine.execKvGet cmd s
  | .kvFlagIncrement cmd => Sys2Proof.Machine.execKvFlagIncrement cmd s
  | .maskRequest cmd => Sys2Proof.Machine.execMaskRequest cmd s
  | .prunerJobStart die core => Sys2Proof.Machine.execPrunerJobStart die core s
  | .gemv cmd => Sys2Proof.Machine.execGemv cmd s
  | .sopen cmd => Sys2Proof.Machine.execSopen cmd s
  | .sopenContextBind cmd => Sys2Proof.Machine.execSopenContextBind cmd s
  | .sclose cmd => Sys2Proof.Machine.execSclose cmd s
  | .sieveFeed die space va len => Sys2Proof.Machine.execSieveFeed die space va len s
  | .commandCompletion cmd => Sys2Proof.Machine.execCommandCompletion cmd s
  | .copyChunkFault cmd chunk stat => Sys2Proof.Machine.execCopyChunkFault cmd chunk stat s
  | .bedLineLands blk line cmd => Sys2Proof.Machine.execBedLineLands blk line cmd s
  | .fadeClockTick core => Sys2Proof.Machine.execFadeClockTick core s
  | .lineExpiry blk line => Sys2Proof.Machine.execLineExpiry blk line s
  | .lineRequest blk grp ld line => Sys2Proof.Machine.execLineRequest blk grp ld line s
  | .loadDataReturn blk grp ld line => Sys2Proof.Machine.execLoadDataReturn blk grp ld line s
  | .deferredFaultDelivery blk grp => Sys2Proof.Machine.execDeferredFaultDelivery blk grp s
  | .translateProbe blk entry line => Sys2Proof.Machine.execTranslateProbe blk entry line s
  | .probeReply blk entry line => Sys2Proof.Machine.execProbeReply blk entry line s
  | .commitMerge blk commit line => Sys2Proof.Machine.execCommitMerge blk commit line s
  | .atomicPerform blk entry lane => Sys2Proof.Machine.execAtomicPerform blk entry lane s
  | .waitReread blk grp => Sys2Proof.Machine.execWaitReread blk grp s
  | .mscWriteback die line => Sys2Proof.Machine.execMscWriteback die line s
  | .groupUnpark blk grp => Sys2Proof.Machine.execGroupUnpark blk grp s
  | .cancellationTrap blk grp => Sys2Proof.Machine.execCancellationTrap blk grp s
  | .priorityAgingGrant prio => Sys2Proof.Machine.execPriorityAgingGrant prio s
  | .frameSliceAllocation grid => Sys2Proof.Machine.execFrameSliceAllocation grid s
  | .coreAssignment core => Sys2Proof.Machine.execCoreAssignment core s
  | .rangeSteal grid die cluster => Sys2Proof.Machine.execRangeSteal grid die cluster s
  | .blockStart grid lcore => Sys2Proof.Machine.execBlockStart grid lcore s
  | .timeSliceExpiry blk => Sys2Proof.Machine.execTimeSliceExpiry blk s
  | .contextSave blk => Sys2Proof.Machine.execContextSave blk s
  | .contextRestore blk core => Sys2Proof.Machine.execContextRestore blk core s
  | .gridRetirement grid => Sys2Proof.Machine.execGridRetirement grid s
  | .graphKernelNode grid => Sys2Proof.Machine.execGraphKernelNode grid s
  | .graphLoopNode grid => Sys2Proof.Machine.execGraphLoopNode grid s
  | .graphAdmitNode grid => Sys2Proof.Machine.execGraphAdmitNode grid s
  | .graphEndNode grid => Sys2Proof.Machine.execGraphEndNode grid s
  | .matrixExecute core => Sys2Proof.Machine.execMatrixExecute core s
  | .capsuleStep blk grp => Sys2Proof.Machine.execCapsuleStep blk grp s
  | .maskwTimeout blk grp => Sys2Proof.Machine.execMaskwTimeout blk grp s
  | .hendWrite blk grp value => Sys2Proof.Machine.execHendWrite blk grp value s
  | .hardwareError blk cause => Sys2Proof.Machine.execHardwareError blk cause s
  | .doorbellWrite queue value => Sys2Proof.Machine.execDoorbellWrite queue value s
  | .queueEnable queue => Sys2Proof.Machine.execQueueEnable queue s
  | .queueDisable queue => Sys2Proof.Machine.execQueueDisable queue s
  | .configRegisterWrite off value => Sys2Proof.Machine.execConfigRegisterWrite off value s
  | .mailboxLoadFirmware image => Sys2Proof.Machine.execMailboxLoadFirmware image s
  | .hostBar2Read off len => Sys2Proof.Machine.execHostBar2Read off len s
  | .hostBar2Write off data => Sys2Proof.Machine.execHostBar2Write off data s
  | .hostTakeLine die line => Sys2Proof.Machine.execHostTakeLine die line s
  | .hostLineWriteback die line data => Sys2Proof.Machine.execHostLineWriteback die line data s
  | .hostCoherentRead die line => Sys2Proof.Machine.execHostCoherentRead die line s
  | .inboundRmaWrite die job ridx va data => Sys2Proof.Machine.execInboundRmaWrite die job ridx va data s
  | .inboundRmaRead die job ridx va len => Sys2Proof.Machine.execInboundRmaRead die job ridx va len s
  | .inboundRmaAtomic die job ridx va addend => Sys2Proof.Machine.execInboundRmaAtomic die job ridx va addend s
  | .inboundUnsupportedPacket die kind => Sys2Proof.Machine.execInboundUnsupportedPacket die kind s
  | .secondTierLinkDown die port => Sys2Proof.Machine.execSecondTierLinkDown die port s
  | .bridgeLaneFailure die lane => Sys2Proof.Machine.execBridgeLaneFailure die lane s
  | .sramRailLow die => Sys2Proof.Machine.execSramRailLow die s
  | .l2SecdedRestore die => Sys2Proof.Machine.execL2SecdedRestore die s
  | .variableLatencyResultWrite blk grp uid => Sys2Proof.Machine.execVariableLatencyResultWrite blk grp uid s
  | .backInvalidateResponse die line => Sys2Proof.Machine.execBackInvalidateResponse die line s
  | .clusterL1ModeWrite cluster fused => Sys2Proof.Machine.execClusterL1ModeWrite cluster fused s
  | .secondTierDecoderWrite die port base size => Sys2Proof.Machine.execSecondTierDecoderWrite die port base size s
  | .secondTierLinkUp die port => Sys2Proof.Machine.execSecondTierLinkUp die port s
  | .descriptorAccept => Sys2Proof.Machine.execDescriptorAccept s
  | .mailboxAttest => Sys2Proof.Machine.execMailboxAttest s
  | .mailboxTelemetryRead => Sys2Proof.Machine.execMailboxTelemetryRead s
  | .mailboxReadCertificate => Sys2Proof.Machine.execMailboxReadCertificate s
  | .deviceReset => Sys2Proof.Machine.execDeviceReset s
  | .thermalThrottle => Sys2Proof.Machine.execThermalThrottle s
  | .powerCapThrottle => Sys2Proof.Machine.execPowerCapThrottle s
  | .thermalReset => Sys2Proof.Machine.execThermalReset s
  | .mainClockRaise => Sys2Proof.Machine.execMainClockRaise s
  | .mailboxClearSuspect => Sys2Proof.Machine.execMailboxClearSuspect s
  | .mailboxSetPowerCap => Sys2Proof.Machine.execMailboxSetPowerCap s

end Sys2Proof.Machine
end

