-- ==== Sys2Proof/Machine/Place.lean ====
section
/-!
DEFINITION. A program of one packet put where a block's one group fetches next: the smallest space descriptor,
page tables, permission summary, grid and block that the fetch of R286 needs.
-/

namespace Sys2Proof.Machine

/-- The word of a NOP under the always-true guard (R23). Log 3 (DESIGN CHOICE). -/
def nopWord : Nat := 0x02000007

/-- A program with its tables: VA 0 to 1 GiB - 1 mapped R, W and X to PA 0x4000_0000 on die 0. Log 3 (DESIGN CHOICE). -/
def State.placeTables (s : State) : State :=
  let s1 := { s with
    die0 := { s.die0 with sdtBase := 0x10000, ownBase := 0x20000000, tlb := [], l2 := [] }
    die1 := { s.die1 with sdtBase := 0x10000, ownBase := 0x20000000, tlb := [], l2 := [] } }
  ((((s1.physWrite 0 0x10000 8 0x20001).physWrite 0 0x20000 8 0x28001).physWrite 0 0x28000 8 0x40000079).physWrite 0
    0x10020 8 0x1000000).physWrite 0 0x1000000 8 7

/-- The group that stands before the program. Log 3 (DESIGN CHOICE). -/
def startGroup : Group :=
  { Group.zero with live := BitVec.allOnes 32, active := true,
                    pc := (List.range 32).map fun L => (L, 0x3000) }

/-- The program's packet stored, and one block of one group with its head run before it; nothing else is live and
no event waits. Log 3 (DESIGN CHOICE). -/
def State.placeProgram (s : State) (v : Nat) : State :=
  let w0 := v % 2 ^ 32
  let w1 := if isWOp w0 then v / 2 ^ 32 % 2 ^ 32 else nopWord
  let s1 := s.placeTables.physWrite 0 0x40003000 12 (w0 + 2 ^ 32 * w1 + 2 ^ 64 * nopWord)
  { s1 with
    grids := [(1, some { Grid.zero with state := .running, blocks := 1, lcores := 1, groups := 1, entry := 0x3000 })]
    blocks := [(blockKey 1 0, some { Block.zero with grid := 1, life := .resident, groups := [(0, some startGroup)] })]
    cores := []
    cmds := []
    boot := .running
    cycles := 0
    agenda := []
    script := []
    cur := none }

end Sys2Proof.Machine
end

