-- ==== Sys2Proof/Machine/Sched.lean ====
section
/-!
DEFINITION. What moves next (R326, R327, R351): the issue of a set of words by a group, and one step of the
package given a meaning for each instruction.
-/

namespace Sys2Proof.Machine

/-- A meaning for every instruction. -/
abbrev Exec := Instr → State → Host.Outcome State Fault Refusal

/-- A state passed on, a stop kept. -/
def andThen (o : Host.Outcome State Fault Refusal) (f : State → Host.Outcome State Fault Refusal) :
    Host.Outcome State Fault Refusal :=
  match o with
  | .next s => f s
  | r => r

/-- How the word at issue ended. -/
def State.result (s : State) : IssueRes := (s.cur.map (·.res)).getD .none

/-- The word at issue put away. -/
def State.clearCur (s : State) : State := { s with cur := none }

/-- One word of a set at issue in its context; a word that decodes to no instruction is never reached, since
`setTrap` stops it. -/
def issueOne (ex : Exec) (s : State) (c : IssueCtx) (w : SetWord) : Host.Outcome State Fault Refusal :=
  match w.instr with
  | some i => ex i { s with cur := some c }
  | none => .next s

/-- The words of a set tried one by one on the state before it: the first that traps or does not issue decides
(R19). Log 65 (DEDUCED). -/
def trySet (ex : Exec) (s : State) (ctx : SetWord → IssueCtx) : List SetWord → Host.Outcome (Option State) Fault Refusal
  | [] => .next none
  | w :: t =>
    match issueOne ex s (ctx w) w with
    | .next s1 =>
      match s1.result with
      | .trapped _ => .next (some s1)
      | .blocked => .next (some s1)
      | _ => trySet ex s ctx t
    | .fault r => .fault r
    | .refused r => .refused r

/-- The words of a set one after another, each with the sources from before the set and the flags raised so far
(R19, R159), up to one that what the others have done keeps from issuing. Log 65 (DEDUCED). -/
def runSet (ex : Exec) (ctx : SetWord → IssueCtx) : List SetWord → State → Host.Outcome State Fault Refusal
  | [], s => .next s
  | w :: t, s =>
    andThen (issueOne ex s { ctx w with raised := (s.cur.map (·.raised)).getD 0 } w) fun s1 =>
      match s1.result with
      | .trapped _ => .next s1
      | .blocked => .next s1
      | _ => runSet ex ctx t s1

/-- Words of a group have issued: a restored block's lines age again (R129), and the two issues have agreed (R368). -/
def State.issued (s : State) (b g : Nat) : State :=
  let s1 := if (s.grp b g).twinBad then s.updGrp b g fun y => { y with twinBad := false } else s
  if (s1.blk b).paused then s1.updBlk b fun x => { x with paused := false } else s1

/-- What a set comes to once its words have run: it has acted, or, as a whole, has not, where one of its words has trapped
or has parked (R19). Log 65 (DEDUCED). -/
def setDone (s s1 : State) (b g : Nat) (switch : Bool) : State :=
  match s1.result with
  | .trapped t => (s.takeTrap b g t).clearCur
  | .blocked =>
    match (s1.grp b g).parks.getLast? with
    | some p => (s.parkOn b g p.reason p.what).clearCur
    | none => s.clearCur
  | _ => (s1.clearCur.issued b g).honourSwitch b g switch

/-- A set of words issues for the head run of a group. Log 65 (DEDUCED). -/
def issueSet (ex : Exec) (s : State) (b g : Nat) (run : Mask) (pc next : Word) (ws : List SetWord) :
    Host.Outcome State Fault Refusal :=
  match ws with
  | [w] =>
    andThen (issueOne ex s (setCtx s b g run pc next true w) w) fun s1 =>
      .next ((if s1.result == .done then s1.clearCur.issued b g else s1.clearCur).honourSwitch b g
        (w.switch && s1.result == .done))
  | _ =>
    let ctx := setCtx s b g run pc next false
    match trySet ex s ctx ws with
    | .next (some s1) => .next s1.clearCur
    | .next none =>
      andThen (runSet ex ctx (controlLast ws) s) fun s1 => .next (setDone s s1 b g (ws.any (·.switch)))
    | .fault r => .fault r
    | .refused r => .refused r

/-- A group about to issue: yielded lanes are candidates again where no other is left (R284). -/
def State.toIssue (s : State) (b g : Nat) : State := s.updGrp b g Group.settle

/-- One issue opportunity of a group (R284, R286, R29). A group with no lane left, as a handler or an image can leave it,
ends. -/
def issueGroup (ex : Exec) (s : State) (b g : Nat) : Host.Outcome State Fault Refusal :=
  if (s.grp b g).trapPend.isSome then .next (s.resumeTrap b g)
  else
    let s0 := s.toIssue b g
    let h := (s0.grp b g).headRun
    if h.1 == 0 then .next (s0.endGroup b g)
    else
      let f := s0.fetchPacket b h.2
      match f.2.words with
      | [w0, w1, w2] =>
        let entry := h.2.toNat % 12 / 4
        if f.2.code != 0 then .next (f.1.takeTrap b g (fetchTrap h.2 h.1 f.2))
        else if !packetOk w0 w1 w2 entry then
          .next (f.1.takeTrap b g (encodingTrap h.2 h.1 1 ([w0, w1, w2].getD entry 0) 0 0))
        else
          let set := entrySet w0 w1 w2 entry
          let ws := setWords 7 set
          match setTrap ws (f.1.grp b g) f.1 b with
          | some t => .next (f.1.takeTrap b g (encodingTrap h.2 h.1 t.1 t.2.1 t.2.2.1 t.2.2.2))
          | none => issueSet ex f.1 b g h.1 h.2 (afterSet h.2 set) ws
      | _ => .next (f.1.takeTrap b g (fetchTrap h.2 h.1 f.2))

/-! ### The order of things (R327, R351) -/

/-- Nothing that a last EXIT waits for is outstanding (R292). -/
def State.allDone (s : State) (b g : Nat) : Bool :=
  (s.grp b g).outs.isEmpty && (s.grp b g).slots == 0 && (s.entriesOf b g).isEmpty && (s.matrixOut b g).isEmpty

/-- A group could issue if it were active: it is not parked, its block is not being saved, and nothing that R351 puts
before its next word waits. A trap that drains outstanding results goes on whether the group is active or not. -/
def State.isReady (s : State) (b g : Nat) : Bool :=
  let x := s.blk b
  let y := s.grp b g
  let z := s.gridOf b
  x.life == .resident && !y.ended && y.park.isNone
    && if y.trapPend.isSome then s.drained b g
      else !x.saving && (y.level || y.ready.isEmpty) && (y.live != 0 || s.allDone b g)
        && (y.level || y.cancelTaken || x.job.isSome || !(z.cancelled && z.ctrap))

/-- A group may issue (R327 step 1). -/
def State.canIssue (s : State) (b g : Nat) : Bool :=
  s.isReady b g && ((s.grp b g).active || (s.grp b g).trapPend.isSome)

/-- A group of a quadrant, as its scheduler sees it. -/
structure Seat where
  /-- 4·core + quadrant -/
  quad : Nat
  blk : Nat
  grp : Nat
  born : Nat
  since : Nat
  active : Bool
  activeAt : Nat
  parked : Bool
  deriving DecidableEq, Repr

/-- The groups that have not ended of the resident blocks. -/
def State.seats (s : State) : List Seat :=
  (oitems s.blocks).flatMap fun b =>
    if b.2.life != .resident then []
    else (oitems b.2.groups).filterMap fun g =>
      if g.2.ended then none
      else some ⟨4 * b.2.core + g.2.quadrant, b.1, g.1, g.2.bornAt, g.2.parkedAt, g.2.active, g.2.activeAt, g.2.park.isSome⟩

/-- The seat with the least value of a measure. -/
def leastSeat (f : Seat → Nat) (l : List Seat) : Option Seat :=
  l.foldl
    (fun m e => match m with
      | none => some e
      | some x => if f e < f x then some e else some x) none

/-- The next group to issue: the oldest ready active group of a quadrant, the quadrants in turn (R327 step 1); on a Pruner
core its jobs in turn (R303). -/
def State.pickIssue (s : State) : Option (Nat × Nat) :=
  let l := s.seats.filter fun e => s.canIssue e.blk e.grp
  let turn := s.cycles.toNat / 2
  let quads := (l.map (·.quad)).eraseDups
  match quads.drop (turn % max 1 quads.length) with
  | [] => none
  | q :: _ =>
    let mine := l.filter (·.quad == q)
    (if 768 ≤ q then mine[turn / max 1 quads.length % max 1 mine.length]? else leastSeat (·.born) mine).map fun e =>
      (e.blk, e.grp)

/-- A schedule may have a group issue: no older one of its quadrant may (R327 step 1); on a Pruner core any. -/
def State.mayIssue (s : State) (b g : Nat) : Bool :=
  s.canIssue b g && s.seats.all fun e => e.blk != b || e.grp != g || decide (768 ≤ e.quad)
    || s.seats.all fun o => o.quad != e.quad || decide (e.born ≤ o.born) || !s.canIssue o.blk o.grp

/-- The words that a group is about to issue; none where it would trap on them (R29, R286). -/
def State.nextWords (s : State) (b g : Nat) : List PWord :=
  let s0 := s.toIssue b g
  let h := (s0.grp b g).headRun
  let f := s0.fetchPacket b h.2
  match f.2.words with
  | [w0, w1, w2] =>
    let entry := h.2.toNat % 12 / 4
    let set := entrySet w0 w1 w2 entry
    if h.1 == 0 || f.2.code != 0 || !packetOk w0 w1 w2 entry
        || (setTrap (setWords 7 set) (f.1.grp b g) f.1 b).isSome then [] else set
  | _ => []

/-- TWIN ISSUE (R368): the two issues of the words that a group is about to issue on pipes A, F, X, M and C differ. Nothing is
written and the words are issued again; a second mismatch is a hardware error. -/
def State.twinMismatch (s : State) (b g : Nat) : State :=
  if !s.mayIssue b g || !s.twinned b || (s.grp b g).trapPend.isSome
      || !(s.nextWords b g).any (fun w => w.instr?.any fun i => i.pipe != .none) then s
  else if (s.grp b g).twinBad then s.hwError b 2
  else s.updGrp b g fun y => { y with twinBad := true }

/-- The active groups of a quadrant at most. -/
def activeMax : Nat := 8

/-- The pending ready group that has been parked longest in a quadrant with a place for it, and the parked group that it is
swapped for, if no place is free (R327 steps 2 and 3). -/
def State.pickSwap (s : State) : Option (Seat × Option Seat) :=
  let l := s.seats
  let out (q : Nat) : Option (Option Seat) :=
    let on := l.filter fun e => e.quad == q && e.active
    if on.length < activeMax then some none
    else ((on.filter fun e => e.parked && decide (e.activeAt + 16 ≤ s.cycles.toNat)).head?).map some
  (leastSeat (·.since) (l.filter fun e => !e.active && s.isReady e.blk e.grp && (out e.quad).isSome)).bind fun e =>
    (out e.quad).map fun o => (e, o)

/-- A group becomes active, and the one that it is swapped for pending. -/
def State.swap (s : State) (p : Seat × Option Seat) : State :=
  let s1 := match p.2 with
    | some o => s.updGrp o.blk o.grp fun y => { y with active := false }
    | none => s
  s1.updGrp p.1.blk p.1.grp fun y => { y with active := true, activeAt := s.cycles.toNat }

/-- A parked group whose reason has cleared. -/
def State.pickUnpark (s : State) : Option (Nat × Nat) :=
  (s.seats.find? fun e => e.parked && s.parkCleared e.blk e.grp).map fun e => (e.blk, e.grp)

/-- What has fallen due by the clock: a wait's timeout, a slice of time, a priority passed over. -/
def State.pickTimer (s : State) : Option Instr :=
  ((s.seats.find? fun e => e.parked && s.timedOut e.blk e.grp).map fun e => Instr.maskwTimeout e.blk e.grp).orElse fun _ =>
    (((oitems s.blocks).find? fun b => !b.2.saving && s.sliceOver b.1).map fun b => Instr.timeSliceExpiry b.1).orElse fun _ =>
      (if s.liveGrids < 4096 then s.waitingPrios.find? s.agedPrio else none).map Instr.priorityAgingGrant

/-- Main-clock cycles from one tick of the fade clocks to the next: 0.95 µs at the clock's present rate (R114).
Log 8 (DESIGN CHOICE). -/
def State.fadePeriod (s : State) : Nat := s.clock * 20 / 21

/-- The k-th pending event is performed. A word is no event, and none is ever pending. -/
def runEvent (ex : Exec) (s : State) (k : Nat) : Host.Outcome State Fault Refusal :=
  match s.agenda[k]? with
  | some i =>
    let s1 : State := { s with agenda := s.agenda.eraseIdx k }
    if i.isWord then .next s1 else ex i s1
  | none => .next s

/-- What runs where no event is taken: what has fallen due, a swap, the end of a park, an issue. Parks that end and words
that issue take turns at going first. Log 6 (DESIGN CHOICE). -/
def workStep (ex : Exec) (s : State) : Host.Outcome State Fault Refusal :=
  match s.pickTimer with
  | some i => ex i s
  | none =>
    match s.pickSwap with
    | some p => .next (s.swap p)
    | none =>
      match s.pickUnpark, s.pickIssue with
      | some p, some q => if s.cycles.toNat % 4 == 2 then ex (.groupUnpark p.1 p.2) s else issueGroup ex s q.1 q.2
      | some p, none => ex (.groupUnpark p.1 p.2) s
      | none, some q => issueGroup ex s q.1 q.2
      | none, none => .next s

/-- Nothing can run but events. -/
def State.idle (s : State) : Bool :=
  s.pickTimer.isNone && s.pickSwap.isNone && s.pickUnpark.isNone && s.pickIssue.isNone

/-- The own order of `step`: a tick of the fade clocks, the first pending event, or work; events and work take turns at
going first. Log 6 (DESIGN CHOICE), 8 (DESIGN CHOICE). -/
def autoStep (ex : Exec) (s : State) : Host.Outcome State Fault Refusal :=
  if s.cycles.toNat % s.fadePeriod + 1 == s.fadePeriod then
    .next (s.postAll ((List.range 192).map fun k => .fadeClockTick k))
  else if !s.agenda.isEmpty && (s.cycles.toNat % 2 == 1 || s.idle) then runEvent ex s 0
  else workStep ex s

/-- What the world outside the package does to it: its host, its peers, its pins and its sensors, an error in its cells.
Log 85 (DESIGN CHOICE). -/
def isInput : Instr → Bool
  | .hardwareError .. => true
  | .doorbellWrite .. => true
  | .queueEnable _ => true
  | .queueDisable _ => true
  | .configRegisterWrite .. => true
  | .mailboxLoadFirmware _ => true
  | .hostBar2Read .. => true
  | .hostBar2Write .. => true
  | .hostTakeLine .. => true
  | .hostLineWriteback .. => true
  | .hostCoherentRead .. => true
  | .inboundRmaWrite .. => true
  | .inboundRmaRead .. => true
  | .inboundRmaAtomic .. => true
  | .inboundUnsupportedPacket .. => true
  | .secondTierLinkDown .. => true
  | .secondTierLinkUp .. => true
  | .secondTierDecoderWrite .. => true
  | .bridgeLaneFailure .. => true
  | .sramRailLow _ => true
  | .l2SecdedRestore _ => true
  | .backInvalidateResponse .. => true
  | .clusterL1ModeWrite .. => true
  | .mailboxTelemetryRead => true
  | .mailboxReadCertificate => true
  | .mailboxAttest => true
  | .mailboxClearSuspect => true
  | .mailboxSetPowerCap => true
  | .deviceReset => true
  | .thermalThrottle => true
  | .powerCapThrottle => true
  | .thermalReset => true
  | .mainClockRaise => true
  | .fadeClockTick _ => true
  | _ => false

/-- What a schedule names. Log 6 (DESIGN CHOICE). -/
def choiceStep (ex : Exec) (s : State) : Choice → Host.Outcome State Fault Refusal
  | .auto => autoStep ex s
  | .event k => runEvent ex s k
  | .issue b g => if s.mayIssue b g then issueGroup ex s b g else .next s
  | .input i => if isInput i then ex i s else .next s
  | .hostStore d n v => .next (s.hostStore d n v)
  | .evictL1 k key => .next (s.updL1 k fun m => odel m key)
  | .evictL2 d key => .next (s.replaceL2 d key)
  | .evictTlb d key => .next (s.updDie d fun x => { x with tlb := odel x.tlb key })
  | .evictSummary k key => .next (s.updCore k fun c => { c with summary := odel c.summary key })
  | .poison d a => .next (s.poisonMem d a)
  | .poisonL2 d key off => .next (s.poisonLineL2 d key off)
  | .corrected d k => .next (s.updDie d fun x => { x with corrected := supd 0 x.corrected k (· + 1) })
  | .mismatch k => .next (s.checksumFails k)
  | .twin b g => .next (s.twinMismatch b g)

/-- A step takes a cycle. Log 7 (DESIGN CHOICE). -/
def State.count (s : State) : State := { s with cycles := s.cycles + 1 }

/-- One step of the package: the schedule's choice, or the machine's own order where it names none.
Log 7 (DESIGN CHOICE), 84 (DESIGN CHOICE). -/
def stepWith (ex : Exec) (s : State) : Host.Outcome State Fault Refusal :=
  match s.script with
  | [] => andThen (autoStep ex s) fun t => .next t.count
  | c :: rest => andThen (choiceStep ex { s with script := rest } c) fun t => .next t.count

end Sys2Proof.Machine
end

