-- ==== Sys2Proof/Machine/Step.lean ====
section
/-!
DEFINITION. One step of the package, and a state in which the next step runs a given instruction.
-/

namespace Sys2Proof.Machine

/-- One step: the schedule's choice or the package's own next move, with `exec` as the meanings. -/
def step (s : State) : Host.Outcome State Fault Refusal := stepWith exec s

/-- The same state with an instruction placed where the next step fetches, and a block whose one group stands
before it. Log 3 (DESIGN CHOICE). -/
def State.withFetchWord (s : State) (nbits w : Nat) : State := s.placeProgram (w % 2 ^ nbits)

end Sys2Proof.Machine
end

