-- ==== Sys2Proof/Numbers.lean ====
section
/-!
DEFINITION. The rules of 02_number_formats.md in whole numbers, for the statements: what an encoding stands for, what an
operation on encodings gives exactly, and what a rounding of it leaves. Nothing here is used by the model.

A finite encoding stands for a whole number of the smallest subnormals of its format (R33).
-/

namespace Sys2Proof.Numbers

open Sys2Proof.Machine

/-- The smallest subnormal of a format is 2 to the power of minus this (R33). -/
def subExp (F : Fmt) : Nat := F.fbits + F.bias.toNat - 1

/-- The bits of an encoding below its sign. -/
def magBits (F : Fmt) (b : Nat) : Nat := b % 2 ^ F.mag

/-- The sign bit. -/
def signBit (F : Fmt) (b : Nat) : Bool := F.signed && b.testBit F.mag

/-- The magnitude of a finite encoding in units of the smallest subnormal. -/
def units (F : Fmt) (b : Nat) : Nat :=
  let ex := magBits F b / 2 ^ F.fbits
  let fr := magBits F b % 2 ^ F.fbits
  if ex = 0 then fr else (2 ^ F.fbits + fr) * 2 ^ (ex - 1)

/-- The same with its sign. -/
def amount (F : Fmt) (b : Nat) : Int := if signBit F b then -(units F b : Int) else units F b

/-- A NaN: in E4M3 the one pattern of all ones. -/
def isNan (F : Fmt) (b : Nat) : Bool :=
  if F.e4m3 then magBits F b == 2 ^ F.mag - 1 else decide ((2 ^ F.ebits - 1) * 2 ^ F.fbits < magBits F b)

/-- A signalling NaN: the highest bit of its fraction is 0 (R34). E4M3 has none. -/
def isSnan (F : Fmt) (b : Nat) : Bool := isNan F b && !F.e4m3 && !b.testBit (F.fbits - 1)

def isInf (F : Fmt) (b : Nat) : Bool := !F.e4m3 && magBits F b == (2 ^ F.ebits - 1) * 2 ^ F.fbits

/-- An encoding of a sign and a magnitude. -/
def encoded (F : Fmt) (neg : Bool) (mag : Nat) : Nat := if neg && F.signed then 2 ^ F.mag + mag else mag

/-- The lane LFSR after one step (R47). -/
def nextLfsr (s : BitVec 32) : BitVec 32 :=
  if s = 0 then 0x80200003 else if s.getLsbD 0 then (s >>> 1) ^^^ 0x80200003 else s >>> 1

/-- The random bits of a rounding that steps the LFSR `l`, none for RN (R47). -/
def randomBits (sr : Bool) (l : BitVec 32) : Option Nat := if sr then some ((nextLfsr l).toNat % 2 ^ 24) else none

/-- Of the bracket [t, t + 1], whether a value t + rem/den goes to t + 1: under RN the nearer one, of two as near the even
one, and under SR by D and the random bits (R44, R46, R47). -/
def goesAway (sr : Option Nat) (t rem den : Nat) : Prop :=
  match sr with
  | none => den < 2 * rem ∨ (2 * rem = den ∧ t % 2 = 1)
  | some r => rem ≠ 0 ∧ 2 ^ 24 ≤ rem * 2 ^ 24 / den + r

/-- The encoding `r` and the flags `fl` are num/den units of the smallest subnormal, rounded once: 2^k units is the spacing
of the binade of the value, t the steps of it toward zero and u those of the result (R44 to R47). Past the largest finite value
the result is infinite, or saturated in E4M3, with overflow and inexact; else it is inexact if it is not the value, and then
underflows if it is tiny, which is seen after rounding to the same precision with no bound on the exponent (R45). -/
def RoundsTo (F : Fmt) (sr : Option Nat) (neg : Bool) (num den r : Nat) (fl : Flags) : Prop :=
  ∃ k t u : Nat, (k = 0 ∨ 2 ^ (F.fbits + k) * den ≤ num) ∧ num < 2 ^ (F.fbits + k + 1) * den
    ∧ t * 2 ^ k * den ≤ num ∧ num < (t + 1) * 2 ^ k * den
    ∧ (goesAway sr t (num - t * 2 ^ k * den) (2 ^ k * den) → u = t + 1)
    ∧ (¬ goesAway sr t (num - t * 2 ^ k * den) (2 ^ k * den) → u = t)
    ∧ (units F F.maxMag < u * 2 ^ k →
      r = encoded F neg (if F.e4m3 then F.maxMag else F.infMag) ∧ fl = flagOVF ||| flagINX)
    ∧ (u * 2 ^ k ≤ units F F.maxMag →
      let inexact : Prop := num ≠ t * 2 ^ k * den
      let half := 2 ^ (F.fbits + 1) - 1
      let tiny : Prop := num < 2 ^ F.fbits * den
        ∧ ¬ (half * den ≤ 2 * num ∧ goesAway sr half (2 * num - half * den) den)
      r < 2 ^ F.width ∧ signBit F r = (neg && F.signed) ∧ units F r = u * 2 ^ k
        ∧ (¬ inexact → fl = 0) ∧ (inexact → ¬ tiny → fl = flagINX) ∧ (inexact → tiny → fl = flagINX ||| flagUFL))

/-- The exact result of an operation: NaN, with the invalid flag or not; an infinity, with divide-by-zero or not; or the
number n/d with its sign. -/
inductive Exact where
  | nan (invalid : Bool)
  | inf (neg byZero : Bool)
  | num (neg : Bool) (n d : Nat)
  deriving DecidableEq, Repr

/-- `r` and `fl` are an exact result rounded once into a format (R33, R34, R44 to R47). -/
def Exact.Rounds (F : Fmt) (sr : Option Nat) (x : Exact) (r : Nat) (fl : Flags) : Prop :=
  match x with
  | .nan invalid => r = F.nan ∧ fl = flagIf invalid flagINV
  | .inf neg byZero =>
    if F.e4m3 then r = F.nan ∧ fl = flagIf byZero flagDZ ||| flagINV
    else r = encoded F neg F.infMag ∧ fl = flagIf byZero flagDZ
  | .num neg n d =>
    if n = 0 then r = encoded F neg 0 ∧ fl = 0 else RoundsTo F sr neg (n * 2 ^ subExp F) d r fl

/-! ### Exact operations on the encodings of one format (R183, R189, R190) -/

/-- An encoding as it stands. -/
def valueOf (F : Fmt) (a : Nat) : Exact :=
  if isNan F a then .nan (isSnan F a)
  else if isInf F a then .inf (signBit F a) false
  else .num (signBit F a) (units F a) (2 ^ subExp F)

/-- A whole number. -/
def integer (i : Int) : Exact := .num (decide (i < 0)) i.natAbs 1

/-- A signed numerator, whose zero has the sign `z`. -/
def signed (z : Bool) (s : Int) (d : Nat) : Exact := if s = 0 then .num z 0 1 else .num (decide (s < 0)) s.natAbs d

/-- a + b. An exact zero is +0, but for (−0) + (−0). -/
def sumOf (F : Fmt) (a b : Nat) : Exact :=
  if isNan F a || isNan F b then .nan (isSnan F a || isSnan F b)
  else if isInf F a && isInf F b then (if signBit F a = signBit F b then .inf (signBit F a) false else .nan true)
  else if isInf F a then .inf (signBit F a) false
  else if isInf F b then .inf (signBit F b) false
  else signed (signBit F a && signBit F b) (amount F a + amount F b) (2 ^ subExp F)

/-- An encoding with its sign turned. -/
def turned (F : Fmt) (a : Nat) : Nat := a ^^^ 2 ^ F.mag

/-- a·b. -/
def productOf (F : Fmt) (a b : Nat) : Exact :=
  let neg := signBit F a != signBit F b
  if isNan F a || isNan F b then .nan (isSnan F a || isSnan F b)
  else if isInf F a || isInf F b then
    (if (!isInf F a && units F a == 0) || (!isInf F b && units F b == 0) then .nan true else .inf neg false)
  else .num neg (units F a * units F b) (2 ^ (2 * subExp F))

/-- a/b. -/
def quotientOf (F : Fmt) (a b : Nat) : Exact :=
  let neg := signBit F a != signBit F b
  if isNan F a || isNan F b then .nan (isSnan F a || isSnan F b)
  else if isInf F a then (if isInf F b then .nan true else .inf neg false)
  else if isInf F b then .num neg 0 1
  else if units F b = 0 then (if units F a = 0 then .nan true else .inf neg true)
  else .num neg (units F a) (units F b)

/-- a·b + c, fused; infinity by zero is invalid whatever c is. -/
def fusedOf (F : Fmt) (a b c : Nat) : Exact :=
  let neg := signBit F a != signBit F b
  let inf := isInf F a || isInf F b
  let undefined := inf && ((!isNan F a && !isInf F a && units F a == 0) || (!isNan F b && !isInf F b && units F b == 0))
  if isNan F a || isNan F b || isNan F c || undefined then .nan (isSnan F a || isSnan F b || isSnan F c || undefined)
  else if inf then (if isInf F c && signBit F c != neg then .nan true else .inf neg false)
  else if isInf F c then .inf (signBit F c) false
  else
    let p : Int := if neg then -(units F a * units F b : Nat) else (units F a * units F b : Nat)
    signed (neg && signBit F c) (p + amount F c * 2 ^ subExp F) (2 ^ (2 * subExp F))

/-- A cell of the accumulator and the exact sum of a block (R49, R230). A NaN cell calls nothing (log 101). -/
def cellSum (acc : Nat) (neg : Bool) (n d : Nat) : Exact :=
  if isNan a56 acc then .nan false
  else if isInf a56 acc then .inf (signBit a56 acc) false
  else signed (signBit a56 acc && neg) (amount a56 acc * d + (if neg then -(n : Int) else n) * 2 ^ subExp a56)
    (d * 2 ^ subExp a56)

/-! ### What an instruction's lane has (R183, R185) -/

/-- The IEEE flags of a result. -/
def ieee (f : Flags) : Flags := f &&& (flagINV ||| flagDZ ||| flagOVF ||| flagUFL ||| flagINX)

/-- The mean of an MV result and its flags are an exact result rounded into FP32, and the LFSR has stepped once under SR;
a NaN has the spread word 0x00FF8000, and certain operands give a certain result under RN (R42, R183, R185). -/
structure MeanOf (o : LaneOut) (sr : Bool) (l : BitVec 32) (certain : Prop) (x : Exact) : Prop where
  mean : x.Rounds fp32 (randomBits sr l) (o.val.toNat % 2 ^ 32) (ieee o.flags)
  lfsr : o.lfsr = if sr then nextLfsr l else l
  nan : isNan fp32 (o.val.toNat % 2 ^ 32) = true → o.val.toNat / 2 ^ 32 = 0x00FF8000
  spread : certain → sr = false → isNan fp32 (o.val.toNat % 2 ^ 32) = false → o.val.toNat / 2 ^ 32 = 0

/-- The integer of a finite mean under a mode: 0 nearest, 1 toward zero, 2 down, 3 up, or stochastic; and whether it is not the
mean (R210). -/
def ToInteger (mode : Nat) (sr : Option Nat) (a : Nat) (i : Int) (inexact : Prop) : Prop :=
  let one := 2 ^ subExp fp32
  let t := units fp32 a / one
  let rem := units fp32 a % one
  let neg := signBit fp32 a
  let away : Prop :=
    if sr.isSome = true ∨ mode = 0 then goesAway sr t rem one
    else rem ≠ 0 ∧ ((mode = 2 ∧ neg = true) ∨ (mode = 3 ∧ neg = false))
  (inexact ↔ rem ≠ 0) ∧ (away → i = if neg then -(t + 1 : Int) else t + 1) ∧ (¬ away → i = if neg then -(t : Int) else t)

/-- The Furrow function: four rounds on the halves of a counter under a key (R219). -/
def furrowOf (n key : BitVec 64) : BitVec 32 :=
  let k0 : BitVec 32 := key.setWidth 32
  let round (s : BitVec 32 × BitVec 32) (r : Nat) : BitVec 32 × BitVec 32 :=
    let p : BitVec 64 := s.1.setWidth 64 * 0xCD9E8D57
    ((p >>> 32).setWidth 32 ^^^ s.2 ^^^ (k0 + BitVec.ofNat 32 r * 0x9E3779B9), p.setWidth 32)
  ((List.range 4).foldl round (n.setWidth 32 ^^^ k0, (n >>> 32).setWidth 32 ^^^ (key >>> 32).setWidth 32)).1

/-- The weight of a lane in a categorical draw, in units of 2^-149 (R222). -/
def weightOf (act : Bool) (a : Word) : Nat :=
  let x := a.toNat % 2 ^ 32
  if act && !isNan fp32 x && !isInf fp32 x && !signBit fp32 x then units fp32 x else 0

/-- It is read as 0 with the invalid flag: NaN, infinite, or negative and not −0.0. -/
def weightBad (a : Word) : Bool :=
  let x := a.toNat % 2 ^ 32
  isNan fp32 x || isInf fp32 x || (signBit fp32 x && units fp32 x != 0)

/-- The sum of finite values whose denominators divide 2^K, in units of 2^-K. -/
def total (K : Nat) (l : List FVal) : Int :=
  (l.map fun x => match x with
    | .fin s n d => (if s then -(n : Int) else n) * (2 ^ K / d : Nat)
    | _ => 0).sum

/-- The formats of R33 and R41: width, largest finite value, infinity, canonical NaN, and the exponent of the smallest
subnormal. -/
def formats : List (Fmt × Nat × Nat × Nat × Nat × Nat) :=
  [(fp32, 32, 0x7F7FFFFF, 0x7F800000, 0x7FC00000, 149), (bf16, 16, 0x7F7F, 0x7F80, 0x7FC0, 133),
    (fp16, 16, 0x7BFF, 0x7C00, 0x7E00, 24), (e5m2, 8, 0x7B, 0x7C, 0x7E, 16),
    (a56, 56, 0x7F7FFFFFFFFFFF, 0x7F800000000000, 0x7FC00000000000, 173),
    (e8m16, 24, 0xFEFFFF, 0xFF0000, 0xFF8000, 142), (e8m15, 24, 0x7F7FFF, 0x7F8000, 0x7FC000, 141)]

/-- The special values of R204: function, operand, result and flags. -/
def specialCases : List (SpecialFn × Nat × Nat × Flags) :=
  [(.ex2, 0xFF800000, 0, 0), (.ex2, 0x7F800000, 0x7F800000, 0), (.ex2, 0, 0x3F800000, 0), (.ex2, 0x80000000, 0x3F800000, 0),
    (.ex2, 0x43000000, 0x7F800000, flagOVF ||| flagINX), (.ex2, 0xC3150000, 1, 0),
    (.lg2, 0, 0xFF800000, flagDZ), (.lg2, 0x80000000, 0xFF800000, flagDZ), (.lg2, 0x3F800000, 0, 0),
    (.lg2, 0x7F800000, 0x7F800000, 0), (.lg2, 0xBF800000, 0x7FC00000, flagINV),
    (.rcp, 0, 0x7F800000, flagDZ), (.rcp, 0x80000000, 0xFF800000, flagDZ), (.rcp, 0x7F800000, 0, 0),
    (.rcp, 0xFF800000, 0x80000000, 0), (.rcp, 0x1FFFFF, 0x7F800000, flagOVF ||| flagINX),
    (.rsq, 0, 0x7F800000, flagDZ), (.rsq, 0x80000000, 0xFF800000, flagDZ), (.rsq, 0x7F800000, 0, 0),
    (.rsq, 0xBF800000, 0x7FC00000, flagINV), (.rsq, 0x40800000, 0x3F000000, 0),
    (.sqrt, 0, 0, 0), (.sqrt, 0x80000000, 0x80000000, 0), (.sqrt, 0x7F800000, 0x7F800000, 0),
    (.sqrt, 0xBF800000, 0x7FC00000, flagINV), (.sqrt, 0x40800000, 0x40000000, 0),
    (.sin, 0, 0, 0), (.sin, 0x80000000, 0x80000000, 0), (.sin, 0x7F800000, 0x7FC00000, flagINV),
    (.sin, 0xFF800000, 0x7FC00000, flagINV), (.cos, 0, 0x3F800000, 0), (.cos, 0x80000000, 0x3F800000, 0),
    (.cos, 0x7F800000, 0x7FC00000, flagINV), (.cos, 0xFF800000, 0x7FC00000, flagINV),
    (.tanh, 0, 0, 0), (.tanh, 0x80000000, 0x80000000, 0), (.tanh, 0x7F800000, 0x3F800000, 0),
    (.tanh, 0xFF800000, 0xBF800000, 0), (.sigm, 0x7F800000, 0x3F800000, 0), (.sigm, 0xFF800000, 0, 0),
    (.sigm, 0, 0x3F000000, 0), (.sigm, 0x80000000, 0x3F000000, 0)]

/-- The elements of a packed result of width w, each of exact value `x j` rounded once into a format, the LFSR stepping once
for each under SR, the lowest first (R188, R194). -/
inductive Packed (F : Fmt) (sr : Bool) (w : Nat) (x : Nat → Exact) : Nat → Nat → BitVec 32 → Nat → Flags → BitVec 32 → Prop where
  | done (j : Nat) (l : BitVec 32) : Packed F sr w x j 0 l 0 0 l
  | more (j n : Nat) (l l' : BitVec 32) (r b : Nat) (f g : Flags) :
      (x j).Rounds F (randomBits sr l) r f →
      Packed F sr w x (j + 1) n (if sr then nextLfsr l else l) b g l' →
      Packed F sr w x j (n + 1) l (r + 2 ^ w * b) (f ||| g) l'

end Sys2Proof.Numbers
end

