-- ==== Sys2Proof/Safety.lean ====
section
/-!
DEFINITION. What a safe step is, and the words in which the obligations say what a word at issue does: where it
stands, what it may write, and what it leaves alone.
-/

namespace Sys2Proof.Machine

/-- An outcome that is a next state. -/
def completes (o : Host.Outcome State Fault Refusal) : Prop := ∃ t, o = .next t

/-- A run of k steps meets no fault and no refusal. -/
def runsSafely (k : Nat) (s : State) : Prop :=
  match k with
  | 0 => True
  | k + 1 => ∃ t, step s = .next t ∧ runsSafely k t

/-! ### A word at issue -/

/-- Nothing of R29 (orders 2 to 4), R303 or R342 keeps the word from its effect: its form is legal, a Pruner job may
issue it, it is at the level that it needs, no register or predicate it touches is pending, and a deterministic grid
does not forbid it in an active lane. -/
abbrev Permitted (i : Instr) (I : Issue) (s : State) : Prop :=
  i.legal = true
    ∧ ((s.blk I.b).job.isSome = true → jobIllegal i = false)
    ∧ (i.privileged = true → I.G.level = true)
    ∧ (∀ r ∈ i.touched (i.guard.getD 7), I.G.isPending r.1 r.2 = false)
    ∧ (detForbidden i = true → (s.gridOf I.b).determ = true → I.act = 0)

/-- The word `i` stands at issue in the context `c`, for a group and a block that there are, and is permitted. -/
abbrev AtIssue (i : Instr) (c : IssueCtx) (s : State) : Prop :=
  s.cur = some c ∧ c.res = .none ∧ (oget s.blocks c.blk).isSome = true
    ∧ (oget (s.blk c.blk).groups c.grp).isSome = true ∧ Permitted i (issueOf i c s) s

/-- The group that issues. -/
abbrev IssueCtx.group (c : IssueCtx) (s : State) : Group := s.grp c.blk c.grp

/-- The state after a word that changed its group to `y` and raised flags, and nothing else. -/
def wordDone (s : State) (c : IssueCtx) (y : Group) (fl : Flags) : State :=
  { s.setGrp c.blk c.grp y with cur := some { c with raised := c.raised ||| fl, res := .done } }

/-- What a rule of the manual writes in the group of a word: a value for every register, predicate bit and LFSR
that it writes, `none` for all others, and the flags that it raises. -/
structure Written where
  v : Nat → Nat → Option Word
  u : Nat → Option Word
  p : Nat → Nat → Option Bool
  lf : Nat → Option Word32
  /-- the lanes that take a transfer, and their targets (R285) -/
  pc : Nat → Option Word
  flags : Flags

/-- Nothing written. -/
def Written.nothing : Written := ⟨fun _ _ => none, fun _ => none, fun _ _ => none, fun _ => none, fun _ => none, 0⟩

/-- The flags of the lanes of a mask together. -/
def Written.flagsIn (m : Mask) (f : Nat → Flags) : Flags := flagsOf m f

/-- vd written in the lanes of a mask. -/
def Written.lanes (d : BitVec 5) (m : Mask) (f : Nat → Word × Flags) : Written :=
  { Written.nothing with
    v := fun r L => if r = d.toNat ∧ m.getLsbD L then some (f L).1 else none
    flags := Written.flagsIn m fun L => (f L).2 }

/-- sd written, if any lane is active (R150). -/
def Written.uniform (d : BitVec 5) (m : Mask) (r : Word × Flags) : Written :=
  if m = 0 then Written.nothing
  else { Written.nothing with u := fun k => if k = d.toNat then some r.1 else none, flags := r.2 }

/-- pN written in the lanes of a mask; p127 takes no write (R14). -/
def Written.pred (n : Nat) (m : Mask) (f : Nat → Bool) : Written :=
  { Written.nothing with p := fun k L => if k = n ∧ k ≠ 127 ∧ m.getLsbD L then some (f L) else none }

/-- vd written with a rounding that steps the lane's LFSR where it is stochastic (R47). -/
def Written.float (d : BitVec 5) (m : Mask) (sr : Bool) (f : Nat → LaneOut) : Written :=
  { Written.lanes d m fun L => ((f L).val, (f L).flags) with
    lf := fun L => if sr ∧ m.getLsbD L then some (f L).lfsr else none }

/-- `y'` is `y` with what is written, its head run moved to the word after the set (R285), and all else as before. -/
structure Written.Holds (W : Written) (run : Mask) (next : Word) (y y' : Group) : Prop where
  rest : { y' with v := y.v, u := y.u, p := y.p, pc := y.pc, lfsr := y.lfsr, flags := y.flags } = y
  lanes : ∀ r L, r < 32 → L < 32 → y'.rv r L = (W.v r L).getD (y.rv r L)
  uniform : ∀ r, y'.rs r = (W.u r).getD (y.rs r)
  preds : ∀ n L, L < 32 → (y'.rp n).getLsbD L = (W.p n L).getD ((y.rp n).getLsbD L)
  lfsrs : ∀ L, L < 32 → y'.lf L = (W.lf L).getD (y.lf L)
  flags : y'.flags = y.flags ||| W.flags
  pcs : ∀ L, L < 32 → y'.lanePc L = (W.pc L).getD (if run.getLsbD L then next else y.lanePc L)

/-- The word completes with what is written and no other effect: the group is as `Holds` says, every other part of the
package is as before, and so is every byte of memory. -/
def Effects (i : Instr) (c : IssueCtx) (s : State) (W : Written) : Prop :=
  ∃ y, Sys2Proof.Machine.exec i s = .next (wordDone s c y W.flags)
    ∧ W.Holds c.run c.next (c.group s) y
    ∧ ∀ d pa, (wordDone s c y W.flags).physByte d pa = s.physByte d pa

/-! ### What the rules of 09_integer_and_address.md write -/

/-- A result on lane registers, or once on uniform registers (R170). -/
def unaryRule (I : Issue) (u : Bool) (d a : BitVec 5) (f : Word → Word × Flags) : Written :=
  if u then .uniform d I.act (f (I.G.rs a.toNat)) else .lanes d I.act fun L => f (I.G.rv a.toNat L)

def binaryRule (I : Issue) (u : Bool) (d a b : BitVec 5) (f : Word → Word → Word × Flags) : Written :=
  if u then .uniform d I.act (f (I.G.rs a.toNat) (I.G.rs b.toNat))
  else .lanes d I.act fun L => f (I.G.rv a.toNat L) (I.G.rv b.toNat L)

/-- n of R170. -/
def ruleWidth (w32 : Bool) : Nat := if w32 then 32 else 64

/-- IOut(v) and no flag. -/
def outOf (w32 : Bool) (v : Int) : Word × Flags := (iOut w32 v, 0)

/-- IOut(Sat(v)) with its overflow flag (R170). -/
def satOf (w32 : Bool) (v : Int) : Word × Flags :=
  let lo : Int := -2 ^ (ruleWidth w32 - 1)
  let hi : Int := 2 ^ (ruleWidth w32 - 1) - 1
  let r : Int := if v < lo then lo else if hi < v then hi else v
  (iOut w32 r, if r = v then 0 else flagOVF)

/-- The wrapping or the saturating result of a row of R171 to R173. -/
def wrapOrSat (w32 sat : Bool) (u s : Int) : Word × Flags := if sat then satOf w32 s else outOf w32 u

/-- The fixed-latency instructions of 09_integer_and_address.md, rule by rule (R171 to R179, R181). -/
def integerRule (I : Issue) : Instr → Option Written
  | .iadd d a b m _ =>
    let w := m.getLsbD 1
    let n := ruleWidth w
    some (binaryRule I (m.getLsbD 2) d a b fun x y =>
      wrapOrSat w (m.getLsbD 0) ((uIn n x : Int) + uIn n y) (sIn n x + sIn n y))
  | .isub d a b m _ =>
    let w := m.getLsbD 1
    let n := ruleWidth w
    some (binaryRule I (m.getLsbD 2) d a b fun x y =>
      wrapOrSat w (m.getLsbD 0) ((uIn n x : Int) - uIn n y) (sIn n x - sIn n y))
  | .imul d a b m _ =>
    let w := m.getLsbD 1
    let n := ruleWidth w
    some (binaryRule I (m.getLsbD 2) d a b fun x y =>
      wrapOrSat w (m.getLsbD 0) ((uIn n x : Int) * uIn n y) (sIn n x * sIn n y))
  | .imulh d a b m _ =>
    let w := m.getLsbD 1
    let n := ruleWidth w
    some (binaryRule I (m.getLsbD 2) d a b fun x y =>
      outOf w (if m.getLsbD 0 then (sIn n x * sIn n y).fdiv (2 ^ n) else ((uIn n x : Int) * uIn n y).fdiv (2 ^ n)))
  | .imad d a b e k =>
    let w := k.getLsbD 1
    let n := ruleWidth w
    some (.lanes d I.act fun L =>
      let x := I.G.rv a.toNat L
      let y := I.G.rv b.toNat L
      let z := I.G.rv e.toNat L
      wrapOrSat w (k.getLsbD 0) ((uIn n x : Int) * uIn n y + uIn n z) (sIn n x * sIn n y + sIn n z))
  | .imin d a b m _ =>
    let w := m.getLsbD 1
    let n := ruleWidth w
    some (binaryRule I (m.getLsbD 2) d a b fun x y =>
      outOf w (if m.getLsbD 0 then (if sIn n y < sIn n x then sIn n y else sIn n x)
        else if uIn n y < uIn n x then uIn n y else uIn n x))
  | .imax d a b m _ =>
    let w := m.getLsbD 1
    let n := ruleWidth w
    some (binaryRule I (m.getLsbD 2) d a b fun x y =>
      outOf w (if m.getLsbD 0 then (if sIn n x < sIn n y then sIn n y else sIn n x)
        else if uIn n x < uIn n y then uIn n y else uIn n x))
  | .iabs d a m _ =>
    let w := m.getLsbD 1
    let n := ruleWidth w
    some (unaryRule I (m.getLsbD 2) d a fun x =>
      let v := if sIn n x < 0 then -sIn n x else sIn n x
      wrapOrSat w (m.getLsbD 0) v v)
  | .and d a b m _ => some (binaryRule I (m.getLsbD 1) d a b fun x y => outOf (m.getLsbD 0) (x &&& y).toNat)
  | .or d a b m _ => some (binaryRule I (m.getLsbD 1) d a b fun x y => outOf (m.getLsbD 0) (x ||| y).toNat)
  | .xor d a b m _ => some (binaryRule I (m.getLsbD 1) d a b fun x y => outOf (m.getLsbD 0) (x ^^^ y).toNat)
  | .andn d a b m _ => some (binaryRule I (m.getLsbD 1) d a b fun x y => outOf (m.getLsbD 0) (x &&& ~~~y).toNat)
  | .shl d a b m _ =>
    let n := ruleWidth (m.getLsbD 0)
    some (binaryRule I (m.getLsbD 1) d a b fun x k =>
      outOf (m.getLsbD 0) (if k.toNat < n then (uIn n x * 2 ^ k.toNat : Nat) else 0))
  | .shr d a b m _ =>
    let n := ruleWidth (m.getLsbD 0)
    some (binaryRule I (m.getLsbD 1) d a b fun x k =>
      outOf (m.getLsbD 0) (if k.toNat < n then (uIn n x / 2 ^ k.toNat : Nat) else 0))
  | .sar d a b m _ =>
    let n := ruleWidth (m.getLsbD 0)
    some (binaryRule I (m.getLsbD 1) d a b fun x k =>
      outOf (m.getLsbD 0) (if k.toNat < n then (sIn n x).fdiv (2 ^ k.toNat) else if sIn n x < 0 then -1 else 0))
  | .rotl d a b m _ =>
    let n := ruleWidth (m.getLsbD 0)
    some (binaryRule I (m.getLsbD 1) d a b fun x y =>
      let k := y.toNat % n
      outOf (m.getLsbD 0) (uIn n x * 2 ^ k % 2 ^ n + uIn n x / 2 ^ (n - k) : Nat))
  | .popc d a m _ =>
    let n := ruleWidth (m.getLsbD 0)
    some (unaryRule I (m.getLsbD 1) d a fun x =>
      (BitVec.ofNat 64 ((List.range n).countP fun k => x.getLsbD k), 0))
  | .clz d a m _ =>
    let n := ruleWidth (m.getLsbD 0)
    some (unaryRule I (m.getLsbD 1) d a fun x =>
      (BitVec.ofNat 64 (((List.range n).reverse.findIdx? fun k => x.getLsbD k).getD n), 0))
  | .brev d a m _ =>
    let w := m.getLsbD 0
    let n := ruleWidth w
    some (unaryRule I (m.getLsbD 1) d a fun x =>
      outOf w ((List.range n).foldl (fun r i => r + if x.getLsbD i then 2 ^ (n - 1 - i) else 0) (0 : Nat)))
  | .bfx d a b e k =>
    some (.lanes d I.act fun L =>
      let x := I.G.rv a.toNat L
      let p := min (I.G.rv b.toNat L).toNat 64
      let w := min (I.G.rv e.toNat L).toNat 64
      let bit (j : Nat) : Bool := if j < 64 then x.getLsbD j else k == 1 && x.getLsbD 63
      (BitVec.ofNat 64 ((List.range 64).foldl
        (fun r j => r + if w ≠ 0 && (if j < w then bit (p + j) else k == 1 && bit (p + w - 1)) then 2 ^ j else 0) 0), 0))
  | .bfi d a b e =>
    some (.lanes d I.act fun L =>
      let p := min (I.G.rv b.toNat L).toNat 64
      let w := min (I.G.rv e.toNat L).toNat 64
      (BitVec.ofNat 64 ((List.range 64).foldl
        (fun r j => r + if (if p ≤ j && j < p + w then (I.G.rv a.toNat L).getLsbD (j - p)
          else (I.G.rv d.toNat L).getLsbD j) then 2 ^ j else 0) 0), 0))
  | .bsel d a b m _ =>
    let f (q x y : Word) : Word × Flags := outOf (m.getLsbD 0) ((x &&& q) ||| (y &&& ~~~q)).toNat
    some (if m.getLsbD 1 then .uniform d I.act (f (I.G.rs d.toNat) (I.G.rs a.toNat) (I.G.rs b.toNat))
      else .lanes d I.act fun L => f (I.G.rv d.toNat L) (I.G.rv a.toNat L) (I.G.rv b.toNat L))
  | .sel d a b m _ =>
    some (.lanes d I.run fun L =>
      outOf (m == 1) (if I.held.getLsbD L then I.G.rv a.toNat L else I.G.rv b.toNat L).toNat)
  | .lea d a b u k _ =>
    some (binaryRule I (u == 1) d a b fun x y =>
      let full : Int := (x.toNat % 2 ^ 51 : Nat) + y.toInt * 2 ^ k.toNat
      (if 0 ≤ full ∧ full < 2 ^ 51 then BitVec.ofNat 64 (x.toNat / 2 ^ 51 * 2 ^ 51 + full.toNat)
        else (x + (y <<< k.toNat)) ||| 0x8000000000000000, 0))
  | .iaddi d a i => some (.lanes d I.act fun L => (I.G.rv a.toNat L + i.signExtend 64, 0))
  | .andi d a i => some (.lanes d I.act fun L => (I.G.rv a.toNat L &&& i.signExtend 64, 0))
  | .ori d a i => some (.lanes d I.act fun L => (I.G.rv a.toNat L ||| i.signExtend 64, 0))
  | .xori d a i => some (.lanes d I.act fun L => (I.G.rv a.toNat L ^^^ i.signExtend 64, 0))
  | .shli d a i => some (.lanes d I.act fun L => (I.G.rv a.toNat L <<< i.toNat, 0))
  | .shri d a i => some (.lanes d I.act fun L => (I.G.rv a.toNat L >>> i.toNat, 0))
  | .sari d a i => some (.lanes d I.act fun L => ((I.G.rv a.toNat L).sshiftRight i.toNat, 0))
  | .isat d a b m _ =>
    let n := ruleWidth (m.getLsbD 1)
    some (binaryRule I (m.getLsbD 2) d a b fun x y =>
      let w := min y.toNat n
      let lo : Int := if w = 0 then 0 else if m.getLsbD 0 then -2 ^ (w - 1) else 0
      let hi : Int := if w = 0 then 0 else if m.getLsbD 0 then 2 ^ (w - 1) - 1 else 2 ^ w - 1
      let v := sIn n x
      let r := if v < lo then lo else if hi < v then hi else v
      (iOut (m.getLsbD 1) r, if r = v then 0 else flagOVF))
  | _ => none


/-! ### What the rules on moves, special registers and predicates write (R14, R152 to R164, R338) -/

/-- The special register of a number, as lane L reads it (R152, R356). That a Pruner job reads its Pruner core's number in
PCORE is the model's (log 73). -/
def specialRegister (I : Issue) (s : State) (n L : Nat) : Option Word :=
  let x := s.blk I.b
  let z := s.gridOf I.b
  if 0x040 ≤ n ∧ n ≤ 0x04F then some (BitVec.ofNat 64 (sget 0 x.done (n - 0x040)))
  else match n with
  | 0x000 => some (BitVec.ofNat 64 L)
  | 0x001 => some (BitVec.ofNat 64 I.g)
  | 0x002 => some (BitVec.ofNat 64 x.id)
  | 0x003 => some (BitVec.ofNat 64 x.grid)
  | 0x004 => some (BitVec.ofNat 64 x.lcore)
  | 0x005 => some (pcoreOf x.core)
  | 0x006 => some (BitVec.ofNat 64 ((List.range 32).countP fun g => (oget x.groups g).isSome))
  | 0x007 => some (BitVec.ofNat 64 (z.lcores * 2 ^ 32 + z.blocks))
  | 0x008 => some (BitVec.ofNat 64 z.depth)
  | 0x009 => some (BitVec.ofNat 64 z.phase)
  | 0x00A => some z.slotmask
  | 0x00B => some (BitVec.ofNat 64 z.iter)
  | 0x010 => some (I.G.smode.setWidth 64)
  | 0x011 => some (I.G.flags.setWidth 64)
  | 0x012 => some (I.G.flagen.setWidth 64)
  | 0x013 => some (if z.determ then 1 else 0)
  | 0x014 => some (if z.twin then 1 else 0)
  | 0x020 => some I.rkey
  | 0x021 => some I.rctr
  | 0x022 => some ((I.G.lf L).setWidth 64)
  | 0x030 => some I.G.cause
  | 0x031 => some I.G.detail0
  | 0x032 => some I.G.detail1
  | 0x033 => some I.G.detail2
  | 0x034 => some I.G.epc
  | 0x035 => some I.G.emask
  | 0x036 => some I.G.handler
  | 0x037 => some I.G.frame
  | 0x038 => some I.G.caprec
  | 0x050 => some s.cycles
  | 0x051 => some (s.core x.core).fade
  | 0x060 => some x.bframe
  | 0x061 => some 0
  | 0x062 => some (BitVec.ofNat 64 x.space)
  | 0x063 => some (BitVec.ofNat 64 I.G.ready.length)
  | 0x064 => some I.G.hscr0
  | 0x065 => some I.G.hscr1
  | 0x066 => some I.G.hscr2
  | 0x067 => some I.G.hscr3
  | _ => none

/-- A predicate bit of lane L of a group (R14). -/
def Group.pbit (y : Group) (n L : Nat) : Bool := (y.rp n).getLsbD L

/-- A predicate made of two (R161). -/
def predRule (I : Issue) (p : BitVec 7) (a b : BitVec 5) (k : BitVec 4) (f : Bool → Bool → Bool) : Written :=
  .pred p.toNat I.act fun L =>
    f (I.G.pbit (32 * (k.extractLsb' 2 2).toNat + a.toNat) L) (I.G.pbit (32 * (k.extractLsb' 0 2).toNat + b.toNat) L)

/-- The instructions that move, compare and select (R156 to R164, R338). -/
def moveRule (I : Issue) (s : State) : Instr → Option Written
  | .mov d a m _ =>
    some (if m = 0 then .lanes d I.act fun L => (I.G.rv a.toNat L, 0)
      else if m = 1 then .lanes d I.act fun _ => (I.G.rs a.toNat, 0)
      else if m = 2 then .uniform d I.act (I.G.rv a.toNat (lowest I.act), 0)
      else .uniform d I.act (I.G.rs a.toNat, 0))
  | .li d imm => some (.lanes d I.act fun _ => (BitVec.ofNat 64 imm.toNat, 0))
  | .lih d imm => some (.lanes d I.act fun L =>
      (BitVec.ofNat 64 (imm.toNat * 2 ^ 32 + (I.G.rv d.toNat L).toNat % 2 ^ 32), 0))
  | .movs d a b _ => some (.uniform d I.act (I.G.rv a.toNat ((I.G.rs b.toNat).toNat % 32), 0))
  | .mfs r y => (specialRegister I s y.toNat 0).map fun _ =>
      .lanes r I.act fun L => ((specialRegister I s y.toNat L).getD 0, 0)
  | .isetp p a b k u => some (.pred p.toNat I.act fun L =>
      let x := I.G.rv a.toNat L
      let y := if u = 1 then I.G.rs b.toNat else I.G.rv b.toNat L
      match k.toNat with
      | 0 => decide (x = y)
      | 1 => decide (x ≠ y)
      | 2 => decide (x.toInt < y.toInt)
      | 3 => decide (x.toInt ≤ y.toInt)
      | 4 => decide (y.toInt < x.toInt)
      | 5 => decide (y.toInt ≤ x.toInt)
      | 6 => decide (x.toNat < y.toNat)
      | 7 => decide (x.toNat ≤ y.toNat)
      | 8 => decide (y.toNat < x.toNat)
      | _ => decide (y.toNat ≤ x.toNat))
  | .fsetp p a b k u =>
    let right (L : Nat) : Word := if u = 1 then I.G.rs b.toNat else I.G.rv b.toNat L
    some { Written.pred p.toNat I.act fun L => fCmp k.toNat (I.G.rv a.toNat L) (right L) with
      flags := Written.flagsIn I.act fun L => fCmpFlags (I.G.rv a.toNat L) (right L) }
  | .pand p a b k => some (predRule I p a b k fun x y => x && y)
  | .por p a b k => some (predRule I p a b k fun x y => x || y)
  | .pxor p a b k => some (predRule I p a b k fun x y => x != y)
  | .pandn p a b k => some (predRule I p a b k fun x y => x && !y)
  | .ptov d a m _ => some (.lanes d I.act fun L => (if I.G.pbit (32 * m.toNat + a.toNat) L then 1 else 0, 0))
  | .vtop p a u => some (.pred p.toNat I.act fun L => (if u = 1 then I.G.rs a.toNat else I.G.rv a.toNat L) != 0)
  | .vote d a b m _ =>
    let P (L : Nat) : Bool := I.G.pbit (32 * m.toNat + a.toNat) L
    let V := lanesOf I.act
    some (.lanes d I.act fun _ =>
      (match b.toNat with
        | 0 => BitVec.ofNat 64 (V.foldl (fun r L => r + if P L then 2 ^ L else 0) 0)
        | 1 => if V.all P then 1 else 0
        | 2 => if V.any P then 1 else 0
        | _ => if V.all P || !V.any P then 1 else 0, 0))
  | .pld a m _ => some { Written.nothing with
      p := fun n L => if 32 * m.toNat ≤ n ∧ n < 32 * m.toNat + 32 ∧ n ≠ 127 ∧ I.act.getLsbD L then
        some ((I.G.rv a.toNat L).getLsbD (n - 32 * m.toNat)) else none }
  | .pst d m _ => some (.lanes d I.act fun L =>
      (BitVec.ofNat 64 ((List.range 32).foldl (fun r k => r + if I.G.pbit (32 * m.toNat + k) L then 2 ^ k else 0) 0), 0))
  | .canck p => some (.pred p.toNat I.act fun _ => (s.blk I.b).job.isNone && (s.gridOf I.b).cancelled)
  | .nop _ => some Written.nothing
  | _ => none

/-! ### What the rules of 10 and 11 write: fixed latency -/

/-- The fixed-latency instructions on distributions and the conversions (R189 to R201, R207 to R218); the arithmetic of
one lane is that of Dist.lean and Conv.lean, and an SR rounding starts from the LFSR as it stands (R47). -/
def floatRule (I : Issue) (y : Group) : Instr → Option Written
  | .fadd d a b m _ => some (.float d I.act (m.getLsbD 0) fun L =>
      laneAdd (effMode (m.extractLsb' 1 2) I.G.smode) (m.getLsbD 0) (y.lf L) (I.G.rv a.toNat L) (I.G.rv b.toNat L))
  | .fsub d a b m _ => some (.float d I.act (m.getLsbD 0) fun L =>
      laneSub (effMode (m.extractLsb' 1 2) I.G.smode) (m.getLsbD 0) (y.lf L) (I.G.rv a.toNat L) (I.G.rv b.toNat L))
  | .fmul d a b m _ => some (.float d I.act (m.getLsbD 0) fun L =>
      laneMul (effMode (m.extractLsb' 1 2) I.G.smode) (m.getLsbD 0) (y.lf L) (I.G.rv a.toNat L) (I.G.rv b.toNat L))
  | .ffma d a b e n => some (.float d I.act false fun L =>
      laneFma (effMode n I.G.smode) 0 (I.G.rv a.toNat L) (I.G.rv b.toNat L) (I.G.rv e.toNat L))
  | .fmin d a b m _ => some (.float d I.act false fun L =>
      laneMinMax false (effMode m I.G.smode) 0 (I.G.rv a.toNat L) (I.G.rv b.toNat L))
  | .fmax d a b m _ => some (.float d I.act false fun L =>
      laneMinMax true (effMode m I.G.smode) 0 (I.G.rv a.toNat L) (I.G.rv b.toNat L))
  | .fcps d a b m _ => some (.float d I.act false fun L =>
      laneSign .cps (effMode m I.G.smode) 0 (I.G.rv a.toNat L) (I.G.rv b.toNat L))
  | .fabs d a m _ => some (.float d I.act false fun L =>
      laneSign .abs (effMode m I.G.smode) 0 (I.G.rv a.toNat L) (I.G.rv a.toNat L))
  | .fneg d a m _ => some (.float d I.act false fun L =>
      laneSign .neg (effMode m I.G.smode) 0 (I.G.rv a.toNat L) (I.G.rv a.toNat L))
  | .frnd d a b m _ => some (.float d I.act false fun L =>
      laneRnd (rmodeOf b.toNat) (effMode m I.G.smode) 0 (I.G.rv a.toNat L))
  | .hadd2 d a b f r _ => some (.float d I.act (r == 1) fun L =>
      laneHAdd (f == 1) (r == 1) (y.lf L) (I.G.rv a.toNat L) (I.G.rv b.toNat L))
  | .hmul2 d a b f r _ => some (.float d I.act (r == 1) fun L =>
      laneHMul (f == 1) (r == 1) (y.lf L) (I.G.rv a.toNat L) (I.G.rv b.toNat L))
  | .hfma2 d a b e n => some (.float d I.act (n.getLsbD 0) fun L =>
      laneHFma (n.getLsbD 1) (n.getLsbD 0) (y.lf L) (I.G.rv a.toNat L) (I.G.rv b.toNat L) (I.G.rv e.toNat L))
  | .dmake d a b _ => some (.float d I.act false fun L => laneMake 0 (I.G.rv a.toNat L) (I.G.rv b.toNat L))
  | .dmean d a _ => some (.float d I.act false fun L => laneMean 0 (I.G.rv a.toNat L))
  | .dvar d a _ => some (.float d I.act false fun L => laneVar 0 (I.G.rv a.toNat L))
  | .dstd d a _ => some (.float d I.act false fun L => laneStd 0 (I.G.rv a.toNat L))
  | .dtag d a b _ => some (.float d I.act false fun L => laneTag 0 (I.G.rv a.toNat L) (I.G.rv b.toNat L))
  | .dclr d a _ => some (.float d I.act false fun L => laneClr 0 (I.G.rv a.toNat L))
  | .daddv d a b _ => some (.float d I.act false fun L => laneAddVar 0 (I.G.rv a.toNat L) (I.G.rv b.toNat L))
  | .ds4 d a r _ => some (.float d I.act (r == 1) fun L => laneS4 (r == 1) (y.lf L) (I.G.rv a.toNat L))
  | .dcol d a _ => some (.float d I.act false fun L => laneCol 0 (I.G.rv a.toNat L))
  | .dsens d a b _ => some (.float d I.act false fun L => laneSens 0 (I.G.rv a.toNat L) (I.G.rv b.toNat L))
  | .fcvt d a b m _ => some (.float d I.act (m.getLsbD 0) fun L =>
      if b.getLsbD 4 then
        laneWiden (cvtFmt (b.toNat % 16)) (effMode (m.extractLsb' 1 2) I.G.smode) (y.lf L) (I.G.rv a.toNat L)
      else laneNarrow (cvtFmt (b.toNat % 16)) (effMode (m.extractLsb' 1 2) I.G.smode) (m.getLsbD 0) (y.lf L)
        (I.G.rv a.toNat L))
  | .icvt d a z w m _ => some (.float d I.act (m.getLsbD 0) fun L =>
      laneIcvt (z == 1) (8 * 2 ^ w.toNat) (effMode (m.extractLsb' 1 2) I.G.smode) (m.getLsbD 0) (y.lf L)
        (I.G.rv a.toNat L))
  | .ftoi d a z k w r _ => some (.float d I.act (r == 1) fun L =>
      laneFtoi (z == 1) (8 * 2 ^ w.toNat) (rmodeOf k.toNat) (r == 1) (y.lf L) (I.G.rv a.toNat L))
  | .qcvt d a b m _ => some (.float d I.act (m.getLsbD 0) fun L =>
      laneQcvt (m.getLsbD 2) (m.getLsbD 1) (m.getLsbD 0) (y.lf L) (I.G.rv a.toNat L) (I.G.rv b.toNat L))
  | .qrsc d a b r _ => some (.float d I.act (r == 1) fun L =>
      laneQrsc (r == 1) (y.lf L) (I.G.rv a.toNat L) (I.G.rv b.toNat L))
  | .qzpc d a b _ => some (.float d I.act false fun L =>
      laneQzpc 0 (I.G.rv d.toNat L) (I.G.rv a.toNat L) (I.G.rv b.toNat L))
  | .benc d a b f r _ =>
    let e := benc (f == 1) (r == 1) (I.act.getLsbD ·) (perLane (I.G.rv a.toNat ·)) (perLane (y.lf ·))
    some { Written.nothing with
      v := fun k L => if !I.act.getLsbD L then none
        else if k = b.toNat then some (e.1.2.1.getD L 0) else if k = d.toNat then some (e.1.1.getD L 0) else none
      lf := fun L => if I.act.getLsbD L then some (e.1.2.2.getD L 0) else none
      flags := if I.act = 0 then 0 else e.2 }
  | .bdec d a b f _ =>
    let codes := blockCodes (perLane (I.G.rv a.toNat ·))
    let head := bits (I.G.rv b.toNat 0) 16 16
    some (.lanes d I.act fun L => ((bdecLane (f == 1) codes head L).1,
      (bdecLane (f == 1) codes head L).2 ||| if f == 1 then 0 else nx4Flags codes head))
  | _ => none


/-! ### Transfers of control (R22, R285, R289 to R291) -/

/-- The active lanes sent to their targets. -/
def Written.jump (m : Mask) (f : Nat → Word) : Written :=
  { Written.nothing with pc := fun L => if m.getLsbD L then some (f L) else none }

/-- The same, with the link written to v31 (R290). -/
def Written.call (m : Mask) (next : Word) (f : Nat → Word) : Written :=
  { Written.lanes 31 m fun _ => (next, 0) with pc := fun L => if m.getLsbD L then some (f L) else none }

/-- The byte address 4·(N + 1 + off16) of a word at 4·N (R22). -/
def targetOf (wpc : Word) (o : BitVec 16) : Word := BitVec.ofInt 64 (wpc.toNat + 4 + 4 * o.toInt)

/-- A uniform branch passes when its guard holds in every lane of the head run or in none (R289). -/
def uniformPasses (I : Issue) (h : BitVec 2) : Prop := h = 3 → I.act = 0 ∨ I.act = I.run

/-- The control transfers (R291). -/
def controlRule (I : Issue) : Instr → Option Written
  | .bra _ _ o => some (.jump I.act fun _ => targetOf I.wpc o)
  | .brx a _ => some (.jump I.act fun L => I.G.rv a.toNat L)
  | .call _ _ o => some (.call I.act I.next fun _ => targetOf I.wpc o)
  | .callx a _ => some (.call I.act I.next fun L => I.G.rv a.toNat L)
  | .ret _ => some (.jump I.act fun L => I.G.rv 31 L)
  | _ => none

/-- The hint of a B-format word. -/
def hintOf : Instr → BitVec 2
  | .bra h _ _ => h
  | .call h _ _ => h
  | _ => 0

/-! ### Results of variable latency (R17) -/

/-- A result that a word leaves to be written later: the register file and number, a value for each lane (or the one of
a uniform register), its flags, the LFSRs that step at issue, and by how much RCTR moves on at issue (R155). -/
structure Awaited where
  file : RegFile
  reg : Nat
  vals : List Word
  flags : Flags
  lf : Nat → Option Word32
  step : Word

/-- A lane-register result. -/
def Awaited.lanes (I : Issue) (d : BitVec 5) (step : Word) (f : Nat → Word × Flags) : Awaited :=
  ⟨.v, d.toNat, perLane fun L => (f L).1, Written.flagsIn I.act fun L => (f L).2, fun _ => none, step⟩

/-- One with an SR step. -/
def Awaited.float (I : Issue) (d : BitVec 5) (sr : Bool) (step : Word) (f : Nat → LaneOut) : Awaited :=
  { Awaited.lanes I d step fun L => ((f L).val, (f L).flags) with
    lf := fun L => if sr ∧ I.act.getLsbD L then some (f L).lfsr else none }

/-- A quotient or a remainder on lane or uniform registers (R180). -/
def Awaited.int (I : Issue) (u : Bool) (d a b : BitVec 5) (f : Word → Word → Word × Flags) : Awaited :=
  if u then ⟨.s, d.toNat, [(f (I.G.rs a.toNat) (I.G.rs b.toNat)).1], (f (I.G.rs a.toNat) (I.G.rs b.toNat)).2, fun _ => none, 0⟩
  else .lanes I d 0 fun L => f (I.G.rv a.toNat L) (I.G.rv b.toNat L)

/-- q, r and the flag of R180. -/
def quotRem (w32 sgn : Bool) (a b : Word) : Int × Int × Flags :=
  let n := ruleWidth w32
  if sgn then
    if sIn n b = 0 then (-1, sIn n a, flagDZ)
    else if sIn n a = -2 ^ (n - 1) ∧ sIn n b = -1 then (-2 ^ (n - 1), 0, flagOVF)
    else ((sIn n a).tdiv (sIn n b), sIn n a - sIn n b * (sIn n a).tdiv (sIn n b), 0)
  else if uIn n b = 0 then (2 ^ n - 1, uIn n a, flagDZ)
  else ((uIn n a / uIn n b : Nat), (uIn n a - uIn n b * (uIn n a / uIn n b) : Nat), 0)

/-- The source lane of SHFL (R165), and none where it lies outside the group. -/
def shuffleFrom (m : BitVec 2) (L : Nat) (w : Word) : Option Nat :=
  if m = 0 then some (w.toNat % 32)
  else if m = 1 then (if w.toNat ≤ L then some (L - w.toNat) else none)
  else if m = 2 then (if L + w.toNat < 32 then some (L + w.toNat) else none)
  else some (L ^^^ w.toNat % 32)

/-- A special function in lane L (R203). -/
def specialLane (I : Issue) (d a : BitVec 5) (m : BitVec 2) (f : SpecialFn) : Awaited :=
  .lanes I d 0 fun L =>
    ((laneSpecial f (effMode m I.G.smode) 0 (I.G.rv a.toNat L)).val,
      (laneSpecial f (effMode m I.G.smode) 0 (I.G.rv a.toNat L)).flags)

/-- The instructions of variable latency that read registers, the stream and timelines alone (R136, R165 to R167, R180,
R189, R202 to R205, R220 to R222). -/
def laterRule (I : Issue) (s : State) : Instr → Option Awaited
  | .idiv d a b m _ => some (.int I (m.getLsbD 2) d a b fun x y =>
      (iOut (m.getLsbD 1) (quotRem (m.getLsbD 1) (m.getLsbD 0) x y).1, (quotRem (m.getLsbD 1) (m.getLsbD 0) x y).2.2))
  | .irem d a b m _ => some (.int I (m.getLsbD 2) d a b fun x y =>
      (iOut (m.getLsbD 1) (quotRem (m.getLsbD 1) (m.getLsbD 0) x y).2.1, (quotRem (m.getLsbD 1) (m.getLsbD 0) x y).2.2))
  | .shfl d a b m _ => some (.lanes I d 0 fun L =>
      (I.G.rv a.toNat ((shuffleFrom m L (I.G.rv b.toNat L)).getD L), 0))
  | .bcast d a b _ => some (.lanes I d 0 fun _ => (I.G.rv a.toNat b.toNat, 0))
  | .redg d a m _ => some (.lanes I d 0 fun _ =>
      reduce (redOpOf m) (effMode 0 I.G.smode) (I.act.getLsbD ·) (I.G.rv a.toNat ·))
  | .scan d a x m _ => some (.lanes I d 0 fun L =>
      reduce (redOpOf m) (effMode 0 I.G.smode) (fun k => I.act.getLsbD k && (decide (k < L) || (x == 0 && k == L)))
        (I.G.rv a.toNat ·))
  | .fdiv d a b m _ => some (.float I d (m.getLsbD 0) 0 fun L =>
      laneDiv (effMode (m.extractLsb' 1 2) I.G.smode) (m.getLsbD 0) ((s.grp I.b I.g).lf L) (I.G.rv a.toNat L)
        (I.G.rv b.toNat L))
  | .ex2 d a m _ => some (specialLane I d a m .ex2)
  | .lg2 d a m _ => some (specialLane I d a m .lg2)
  | .rcp d a m _ => some (specialLane I d a m .rcp)
  | .rsq d a m _ => some (specialLane I d a m .rsq)
  | .sqrt d a m _ => some (specialLane I d a m .sqrt)
  | .sin d a m _ => some (specialLane I d a m .sin)
  | .cos d a m _ => some (specialLane I d a m .cos)
  | .tanh d a m _ => some (specialLane I d a m .tanh)
  | .sigm d a m _ => some (specialLane I d a m .sigm)
  | .rgen d _ => some (.lanes I d 32 fun L => (BitVec.ofNat 64 (furrow (I.rctr + BitVec.ofNat 64 L) I.rkey), 0))
  | .runi d _ => some (.lanes I d 32 fun L =>
      (BitVec.ofNat 64 (runiBits (furrow (I.rctr + BitVec.ofNat 64 L) I.rkey)), 0))
  | .rgaus d _ => some (.lanes I d 32 fun L =>
      (BitVec.ofNat 64 (rgausBits (furrow (I.rctr + BitVec.ofNat 64 L) I.rkey)), 0))
  | .rcat d a b _ => some (.lanes I d 64 fun L =>
      rcatRow I.rctr I.rkey (I.act.getLsbD ·) (I.G.rv a.toNat ·) (2 ^ b.toNat) (L / 2 ^ b.toNat))
  | .dsamp d a _ r _ => some (.float I d (r == 1) 128 fun L =>
      laneSamp (r == 1) ((s.grp I.b I.g).lf L) (I.G.rv a.toNat L)
        fun j => rgausBits (furrow (I.rctr + BitVec.ofNat 64 (32 * j + L)) I.rkey))
  | .tlrd d b _ => some (.lanes I d 0 fun _ => (BitVec.ofNat 64 (sget 0 (s.blk I.b).issued b.toNat), 0))
  | _ => none

/-- The state after a word that left a result to be written: the group changed to `y`, RCTR moved on, the result
numbered, and its write pending. -/
def resultAwaited (s : State) (c : IssueCtx) (y : Group) (step : Word) : State :=
  { wordDone (s.setBlk c.blk { s.blk c.blk with rctr := (s.blk c.blk).rctr + step }) c y 0 with
    fresh := s.fresh + 1
    agenda := s.agenda ++ [.variableLatencyResultWrite c.blk c.grp s.fresh] }

/-- `y'` is `y` with an outstanding result, its register pending (R17, R21), its LFSRs stepped, its head run moved, and
all else as before. -/
structure Awaited.Holds (A : Awaited) (uid : Nat) (c : IssueCtx) (act : Mask) (y y' : Group) : Prop where
  rest : { y' with outs := y.outs, pendV := y.pendV, pendS := y.pendS, pendP := y.pendP, pc := y.pc, lfsr := y.lfsr } = y
  outs : y'.outs = y.outs ++ [⟨uid, uid, A.file, A.reg, act, A.vals, [], 0, A.flags, 0⟩]
  pending : ∀ f : RegFile, ∀ r, y'.isPending f.code r = (decide (f = A.file ∧ r = A.reg) || y.isPending f.code r)
  lfsrs : ∀ L, L < 32 → y'.lf L = (A.lf L).getD (y.lf L)
  pcs : ∀ L, L < 32 → y'.lanePc L = if c.run.getLsbD L then c.next else y.lanePc L


/-! ### Words that trap, stop or hand over -/

/-- The package with the head run of the word at issue on the word after its set (R285). -/
def State.moved (s : State) (c : IssueCtx) : State := s.updGrp c.blk c.grp fun y => y.setPc c.run fun _ => c.next

/-- `y'` is `y` with its head run at `at_`, and all else as before. -/
structure HeadAt (c : IssueCtx) (at_ : Word) (y y' : Group) : Prop where
  rest : { y' with pc := y.pc } = y
  pcs : ∀ L, L < 32 → y'.lanePc L = if c.run.getLsbD L then at_ else y.lanePc L

/-- The word takes the precise trap `t` in `s'`, which is `s` with what its checks have cached: its head run stands on the
first word of its set, nothing else has changed, and the trap is taken (R15, R19, R351). -/
def TrapsIn (i : Instr) (c : IssueCtx) (s s' : State) (t : Trap) : Prop :=
  ∃ y, Sys2Proof.Machine.exec i s = .next (((s'.setGrp c.blk c.grp y).takeTrap c.blk c.grp t).mark (.trapped t))
    ∧ HeadAt c c.pc (c.group s) y

/-- The word takes the precise trap `t` and has changed nothing before it. -/
def Traps (i : Instr) (c : IssueCtx) (s : State) (t : Trap) : Prop := TrapsIn i c s s t

/-- The word takes the trap `t` after its set: its head run stands on the word after the set, and the trap is taken
(R19, R353, R358). -/
def TrapsAfter (i : Instr) (c : IssueCtx) (s : State) (t : Trap) : Prop :=
  ∃ y, Sys2Proof.Machine.exec i s = .next ((s.setGrp c.blk c.grp y).takeTrap c.blk c.grp t).markDone
    ∧ HeadAt c c.next (c.group s) y

/-- A group that parks for `r` on something that a word has begun, after whatever its other words have begun (R19, R326). -/
def Group.parkedOn (y : Group) (r : ParkReason) (w : Await) (now : Nat) : Group :=
  { y.withParks (y.parks ++ [⟨r, w⟩]) with parkedAt := now }

/-- The word does not issue now: its group parks for `r` with its head run on the first word of its set, and nothing else
has changed. -/
def Blocks (i : Instr) (c : IssueCtx) (s : State) (r : ParkReason) (w : Await) : Prop :=
  ∃ y, Sys2Proof.Machine.exec i s
        = .next { s.setGrp c.blk c.grp (y.parkedOn r w s.cycles.toNat) with cur := some { c with res := .blocked } }
    ∧ HeadAt c c.pc (c.group s) y

/-- A precise trap of the word at issue: EPC names the first word of its set, and EMASK its head run (R19, R352). -/
def IssueCtx.trapOf (c : IssueCtx) (group : Nat) (detail : Nat) (lcause : List (Nat × Nat)) : Trap :=
  ⟨group, BitVec.ofNat 96 detail, c.pc, c.run, lcause, none⟩

/-- Detail bits [31:0] lanes, [35:32] cause, [71:40] word, [78:72] register, [80:79] file (R352). -/
def programError (cause : Nat) (lanes : Mask) (word : Word32) (file reg : Nat) : Nat :=
  lanes.toNat + 2 ^ 32 * cause + 2 ^ 40 * word.toNat + 2 ^ 72 * reg + 2 ^ 79 * file

/-- SIZE and WRITE of the access that an operation forbidden in a deterministic grid would make (R342, R347). Log 51. -/
def forbiddenAccess : Instr → Nat × Nat
  | .acas _ _ _ _ n => (if n.getLsbD 1 = true then 0 else 1, 1)
  | .afadd .. => (1, 1)
  | .capb .. => (1, 1)
  | .cape .. => (1, 1)
  | .capr .. => (1, 0)
  | .waitm .. => (1, 0)
  | .waitc .. => (1, 0)
  | .maskw .. => (1, 0)
  | .lda _ _ w _ _ => (w.toNat, 0)
  | .str w _ _ _ _ => (w.toNat, 1)
  | _ => (0, 0)

/-! ### Sets of chained words (R18, R19) -/

/-- The word at issue has taken effect: it has neither trapped nor been kept from issuing. -/
def State.went (s : State) : Prop := s.result ≠ .blocked ∧ ∀ t, s.result ≠ .trapped t

/-- The words of a set take effect one after another from `s` to `t`, each in its own context with the flags that those
before it have raised (R19, R159). -/
def ActsInTurn (ctx : SetWord → IssueCtx) : List SetWord → State → State → Prop
  | [], s, t => t = s
  | w :: l, s, t => ∃ i u, w.instr = some i
      ∧ Sys2Proof.Machine.exec i { s with cur := some { ctx w with raised := (s.cur.map (·.raised)).getD 0 } } = .next u
      ∧ u.went ∧ ActsInTurn ctx l u t

/-! ### Memory accesses at issue -/

/-- What an instruction that accesses memory asks for: its size, its hint, and the address and data of each lane. -/
structure Asked where
  reg : BitVec 5
  logsz : Nat
  hint : Nat
  va : Nat → Word
  lo : Nat → Word
  hi : Nat → Word

/-- vA[L] + off6 · scale (R105). -/
def displaced (I : Issue) (a : BitVec 5) (o : BitVec 6) (scale : Int) (L : Nat) : Word :=
  I.G.rv a.toNat L + BitVec.ofInt 64 (o.toInt * scale)

/-- sA + vB[L], times 4 in the scaled form (R106). -/
def indexed (I : Issue) (a b : BitVec 5) (x : BitVec 1) (L : Nat) : Word :=
  I.G.rs a.toNat + (if x = 1 then I.G.rv b.toNat L * 4 else I.G.rv b.toNat L)

/-- The loads of a load slot (R105 to R107). -/
def loadRule (I : Issue) : Instr → Option Asked
  | .ldb t a o h _ => some ⟨t, 0, h.toNat, displaced I a o 1, fun _ => 0, fun _ => 0⟩
  | .ldh t a o h _ => some ⟨t, 1, h.toNat, displaced I a o 2, fun _ => 0, fun _ => 0⟩
  | .ldw t a o h _ => some ⟨t, 2, h.toNat, displaced I a o 4, fun _ => 0, fun _ => 0⟩
  | .ldd t a o h _ => some ⟨t, 3, h.toNat, displaced I a o 8, fun _ => 0, fun _ => 0⟩
  | .ldq t a o h _ => some ⟨t, 4, h.toNat, displaced I a o 16, fun _ => 0, fun _ => 0⟩
  | .ldx t a b h x _ => some ⟨t, 2, h.toNat, indexed I a b x, fun _ => 0, fun _ => 0⟩
  | .ldg d a m _ => some ⟨d, m.toNat + 2, 2, fun L => I.G.rv a.toNat L, fun _ => 0, fun _ => 0⟩
  | _ => none

/-- The n low bits of a word. -/
def lowBits (n : Nat) (w : Word) : Word := BitVec.ofNat 64 (w.toNat % 2 ^ n)

/-- The stores (R245), with what each lane stores. -/
def storeRule (I : Issue) : Instr → Option Asked
  | .stb t a o h _ => some ⟨t, 0, h.toNat, displaced I a o 1, fun L => lowBits 8 (I.G.rv t.toNat L), fun _ => 0⟩
  | .sth t a o h _ => some ⟨t, 1, h.toNat, displaced I a o 2, fun L => lowBits 16 (I.G.rv t.toNat L), fun _ => 0⟩
  | .stw t a o h _ => some ⟨t, 2, h.toNat, displaced I a o 4, fun L => lowBits 32 (I.G.rv t.toNat L), fun _ => 0⟩
  | .std t a o h _ => some ⟨t, 3, h.toNat, displaced I a o 8, fun L => lowBits 64 (I.G.rv t.toNat L), fun _ => 0⟩
  | .stq t a o h _ => some ⟨t, 4, h.toNat, displaced I a o 16, fun L => lowBits 64 (I.G.rv t.toNat L),
      fun L => I.G.rv (t.toNat + 1) L⟩
  | .stx t a b h x _ => some ⟨t, 2, h.toNat, indexed I a b x, fun L => lowBits 32 (I.G.rv t.toNat L), fun _ => 0⟩
  | _ => none

/-- The atomics (R260 to R262): operand, swap value, and whether a destination is written. -/
def atomicRule (I : Issue) : Instr → Option (Asked × Bool)
  | .atom d a b _ _ => some (⟨d, 3, 0, fun L => I.G.rv a.toNat L, fun L => I.G.rv b.toNat L, fun _ => 0⟩, true)
  | .red a b _ _ => some (⟨b, 3, 0, fun L => I.G.rv a.toNat L, fun L => I.G.rv b.toNat L, fun _ => 0⟩, false)
  | .acas d a b e n => some (⟨d, if n.getLsbD 1 then 2 else 3, 0, fun L => I.G.rv a.toNat L, fun L => I.G.rv b.toNat L,
      fun L => I.G.rv e.toNat L⟩, true)
  | .afadd d a b _ _ => some (⟨d, 3, 0, fun L => I.G.rv a.toNat L, fun L => I.G.rv b.toNat L, fun _ => 0⟩, true)
  | _ => none

/-- The first check of R98 or R246 that an address fails, as R99 numbers it, 0 for none: alignment, the canonical rule, the
permission summary as the block's core sees it (`need`: 1 R, 2 W). -/
def State.checkOf (s : State) (b : Nat) (va : Word) (logsz need : Nat) : Nat :=
  if va.toNat % 2 ^ logsz ≠ 0 then 1
  else if va.toNat / 2 ^ 53 ≠ 0 then 2
  else if summaryPerm (s.summaryOf (s.blk b).core (s.blk b).space va) va &&& need ≠ need then 3
  else 0

/-- Every active address passes. -/
def State.passes (s : State) (I : Issue) (A : Asked) (need : Nat) : Prop :=
  ∀ L, L < 32 → I.act.getLsbD L = true → s.checkOf I.b (A.va L) A.logsz need = 0

/-- The summary entries of the active addresses cached in the block's core (R67). -/
def State.looked (s : State) (I : Issue) (A : Asked) : State := s.lookUp (s.blk I.b).core (s.blk I.b).space I.act A.va

/-- `a` is the access that the word asks for: every active lane's address and data, one request for each distinct line
with the lanes that fall into it (R94, R247). -/
structure Asks (A : Asked) (kind : Nat) (c : IssueCtx) (I : Issue) (uid : Nat) (a : Access) : Prop where
  place : a.uid = uid ∧ a.seq = uid ∧ a.blk = c.blk ∧ a.grp = c.grp ∧ a.pc = c.wpc ∧ a.handler = I.G.level
  form : a.kind = kind ∧ a.op = opOf c.word ∧ a.m = mOf c.word ∧ a.dreg = A.reg.toNat ∧ a.logsz = A.logsz ∧ a.hint = A.hint
  lanes : a.act = I.act ∧ a.wait = I.act ∧ a.fault = 0 ∧ a.conf = 0 ∧ a.flags = 0 ∧ a.body = I.inBody
  values : ∀ L, L < 32 → a.va.getD L 0 = A.va L ∧ a.d0.getD L 0 = A.lo L ∧ a.d1.getD L 0 = A.hi L
  requests : a.reqs.map (·.line) = linesOf I.act A.va
  served : ∀ r ∈ a.reqs, r.served = false ∧ r.returned = false
    ∧ ∀ L, L < 32 → r.lanes.getLsbD L = (I.act.getLsbD L && decide ((A.va L).toNat / 128 = r.line))

/-- `y'` is `y` after its word issued a load: its head run moved, the access in a load slot, its destination pending
(both registers of a pair), and in a capsule body its lines noted. -/
structure LoadHeld (A : Asked) (c : IssueCtx) (inBody : Bool) (a : Access) (y y' : Group) : Prop where
  rest : { y' with loads := y.loads, pendV := y.pendV, pc := y.pc, cap := y.cap } = y
  loads : y'.loads = y.loads ++ [a]
  cap : inBody = false → y'.cap = y.cap
  pending : ∀ r, r < 32 → y'.pendV.getLsbD r
    = (decide (r = A.reg.toNat) || (decide (A.logsz = 4) && decide (r = A.reg.toNat + 1)) || y.pendV.getLsbD r)
  pcs : ∀ L, L < 32 → y'.lanePc L = if c.run.getLsbD L then c.next else y.lanePc L


/-- A store or an atomic of a capsule body becomes the step that its group waits for (R307): its lines noted among the
capsule's, the registers as they stand at issue kept with it. -/
def StepsInBody (A : Asked) (kind : Nat) (i : Instr) (c : IssueCtx) (s : State) : Prop :=
  let I := issueOf i c s
  ∃ a y, Asks A kind c I s.fresh a ∧ a.poc = false ∧ a.after = 0 ∧ HeadAt c c.next (c.group s) y
    ∧ Sys2Proof.Machine.exec i s = .next ((({ (s.looked I A).setGrp c.blk c.grp
        (({ y with cap := y.cap.map fun k => { k with
            lines := capLines k y.caprec (linesOf I.act A.va) } } : Group).parkedOn .commit
          (.step { a with pc := c.pc } I.G.regs) s.cycles.toNat) with
      fresh := s.fresh + 1 } : State).post (.capsuleStep c.blk c.grp)).markDone)

/-- What a summary entry `e` and the byte `b` of its subtable for the address leave to it (R66): 1 R, 2 W, 4 X; nothing
where a bit that must be zero is not. -/
def summaryLeaves (e : Word) (b : Nat) : Nat :=
  if bits e 52 12 ≠ 0 ∨ bits e 4 5 ≠ 0 then 0
  else if e.getLsbD 3 = true then (if b / 8 = 0 then b else 0)
  else bits e 0 3

/-! ### The page tables (R57 to R61) -/

/-- The index of an address in a table of a level (R58). -/
def tableIndex (va : Word) (lvl : Nat) : Nat := if lvl = 3 then bits va 39 12 else bits va (12 + 9 * lvl) 9

/-- Entry n of a table at a physical address of a die. -/
def State.tableEntry (s : State) (d table n : Nat) : Word := BitVec.ofNat 64 (s.physRead d (table + 8 * n) 8)

/-- No field of an entry that must be zero is not (R59). -/
def zeroFields (e : Word) : Prop := bits e 61 3 = 0 ∧ bits e 52 6 = 0 ∧ bits e 8 4 = 0 ∧ bits e 1 2 = 0

/-- A good pointer at a level (R58, R59): it is no leaf, points into HBM, and its leaf fields are zero. -/
def goodPointer (lvl : Nat) (e : Word) : Prop :=
  zeroFields e ∧ e.getLsbD 6 = false ∧ lvl ≠ 0 ∧ bits e 58 3 = 0 ∧ e.getLsbD 7 = false ∧ bits e 3 3 = 0
    ∧ bits e 12 40 * 2 ^ 12 < 0x3B9ACA0000

/-- The leaf sizes of R58. -/
def leafSize (lvl : Nat) : Nat := if lvl = 0 then 2 ^ 12 else if lvl = 1 then 2 ^ 21 else 2 ^ 30

/-- The sixteen entries of a CONTIG group are in the order of their pages, with equal attributes (R59). -/
def State.contigGood (s : State) (d table n : Nat) : Prop :=
  ∀ k, k < 16 → s.physRead d (table + 8 * (n / 16 * 16 + k)) 8 = s.physRead d (table + 8 * (n / 16 * 16)) 8 + 4096 * k

/-- A good leaf at a level (R58, R59, R61). -/
def State.goodLeaf (s : State) (d home table n lvl : Nat) (e : Word) : Prop :=
  zeroFields e ∧ e.getLsbD 6 = true ∧ lvl ≤ 2 ∧ bits e 12 40 * 2 ^ 12 % leafSize lvl = 0
    ∧ (e.getLsbD 58 = true → lvl = 0 ∧ s.contigGood d table n) ∧ (s.die d).inRange home (bits e 12 40 * 2 ^ 12) = true

/-! ### Memory below the caches (R68, R82) -/

/-- A mask of whole bytes of a line. -/
def ByteMask (m : Line) : Prop := ∀ i, i < 128 → bytesMask i 1 &&& m = 0 ∨ bytesMask i 1 &&& m = bytesMask i 1

/-- A line stands in the memory-side cache with whole bytes valid, or a way of its set is free. -/
def State.mscFree (s : State) (d line : Nat) : Prop :=
  (∀ x, oget (s.die d).msc line = some x → ByteMask x.valid)
    ∧ ((oget (s.die d).msc line).isSome = true ∨ (setMates 16 32768 Config.mscSet (s.die d).msc line).length < 16)

/-! ### Parks (R326) -/

/-- Every commit of a block up to a number is complete (R256). -/
def Block.doneUpTo (x : Block) (id : Nat) : Prop := ∀ c ∈ x.commits, id < c.id

/-- What clears a park of group g of block b for the reason `r` (R326). The waits of LDA, WAITM, MASKW, WAITC, CAPB and of a
capsule's lane end as they read their words again, and a capsule step's as it is performed. -/
def Cleared (s : State) (b g : Nat) (r : ParkReason) : Await → Prop
  | .nothing => True
  | .flush _ => True
  | .reissue => match r with
    | .switch => (s.grp b g).outs = [] ∧ (s.grp b g).slots = 0 ∧ s.entriesOf b g = [] ∧ s.matrixOut b g = []
    | .loadSlot => s.slotsUsed b g < 48
    | .storeBuffer => (s.lsb (s.blk b).core).length < 64
    | .commit => s.entriesOf b g = [] ∧ (s.grp b g).loads = []
    | .matrix => ((s.mxOf b).owner = none ∨ (s.mxOf b).owner = some b) ∧ (s.mxOf b).staged = none ∧ s.inTeam b = false
    | _ => True
  | .lines l => ∀ k ∈ l, if r = .matrix then k ∉ s.claimed b else ((s.blk b).bedLine k).absent = false
  | .queue q words cmds push =>
    if push = true then ((s.grp b g).queue q).length + words ≤ 32 ∧ (cmds = 0 ∨ s.pushed b + cmds ≤ 64)
    else words ≤ ((s.grp b g).queue q).length
  | .results => s.waiting b g = false
  | .tfence .. => s.waiting b g = false
  | .eret _ => s.waiting b g = false ∧ ∀ a ∈ s.entriesOf b g, a.handler = false
  | .commit id .. => (s.blk b).doneUpTo id
  | .gbar id => (s.blk b).doneUpTo id
  | .image id _ => (s.blk b).doneUpTo id
  | .cape id => (s.blk b).doneUpTo id ∧ s.capAsked b g = false
  | .entry uid => ∀ a, s.entry (s.blk b).core uid = some a → a.wait &&& ~~~(a.fault ||| a.conf) = 0
  | .timeline t n => n ≤ sget 0 (s.blk b).done t
  | .barrier n gen => ((s.blk b).bar n).gen ≠ gen
  | .arrivals n k gen => k ≤ ((s.blk b).bar n).arr ∨ gen < ((s.blk b).bar n).gen
  | .phase n => n < (s.gridOf b).phase ∧ s.myTurn b = true
  | .waitc a .. => a.wait = 0
  | .launch a _ => (s.blk b).doneUpTo a.after ∧ a.fault = 0 ∧ a.conf = 0 ∧ s.descAsked b a = false
  | .team d => s.teamReady b d = true
  | .plot base lines => s.plotCopies b base lines = false
  | .lda .. => False
  | .waitm .. => False
  | .maskw .. => False
  | .capb .. => False
  | .step .. => False
  | .capsule _ => False

/-- The parks whose end is no more than that the group goes on. -/
def goesOn : Await → Bool
  | .reissue | .nothing | .lines _ | .queue .. | .results | .entry _ | .barrier .. | .arrivals .. | .plot .. => true
  | _ => false

/-- The acquire of a FENCE, if it has one. -/
def State.acquired (s : State) (b : Nat) : Option Nat → State
  | some n => s.acquire b n
  | none => s

/-! ### Taking a trap and returning (R354, R357) -/

/-- The group with its parks set aside for ERET, and every yielded lane live again (R101, R295). -/
def setAside (y : Group) : Group :=
  { y with
    kept := if y.await.any Await.isCapsule then y.kept else y.park
    keptMore := if y.await.any Await.isCapsule then y.keptMore else y.more
    keptSwitch := y.switchDue
    switchDue := false
    park := none
    more := []
    yielded := 0 }

/-- The group with what a trap saves: CAUSE, the three DETAIL registers, EPC and EMASK, the parks that it had, and the
fault that is being delivered (R354). -/
def savedByTrap (y : Group) (t : Trap) : Group :=
  { setAside y with
    cause := BitVec.ofNat 64 t.group
    detail0 := (t.detail.extractLsb' 0 32).setWidth 64
    detail1 := (t.detail.extractLsb' 32 32).setWidth 64
    detail2 := (t.detail.extractLsb' 64 32).setWidth 64
    epc := t.pc
    emask := t.mask.setWidth 64
    trapPend := none
    record0 := t.fault }

/-- The trap area and header of the group's frame written, and the code of the first write that cannot be performed, 0
for none (R354 step 4). -/
def State.frameWritten (s : State) (b g : Nat) (t : Trap) : State × Nat :=
  let y := savedByTrap (s.grp b g) t
  (((s.setGrp b g (setAside (s.grp b g))).deschedule b g).setGrp b g y).writeSegs (s.partyOf b) y.frame.toNat
    (y.trapSegs t)

/-- `z` is the handler's start (R354 steps 5 to 7) in the group `y` that the trap has saved: handler level, every lane
live at HANDLER, v0 to v3, s0 to s3 and p0 to p31 no longer pending, every other register as it was. -/
structure HandlerStart (y z : Group) : Prop where
  rest : { z with
    level := y.level, waitOk := y.waitOk, twinBad := y.twinBad, live := y.live, pc := y.pc, pendV := y.pendV
    pendS := y.pendS, pendP := y.pendP } = y
  level : z.level = true ∧ z.waitOk = false ∧ z.twinBad = false
  live : z.live = BitVec.allOnes 32
  pcs : ∀ L, L < 32 → z.lanePc L = y.handler
  pendV : ∀ r, z.pendV.getLsbD r = (decide (4 ≤ r) && y.pendV.getLsbD r)
  pendS : ∀ r, z.pendS.getLsbD r = (decide (4 ≤ r) && y.pendS.getLsbD r)
  pendP : ∀ r, z.pendP.getLsbD r = (decide (32 ≤ r) && y.pendP.getLsbD r)

/-- `z` is the group `y` after ERET has loaded the bytes `l` of its trap area, and `slot` of its graft slot (R357, R360):
the lane PC table, v0 to v3, s0 to s3, p0 to p31, the pending mask and the capsule state from the frame, program level, the
parks if PARKR still keeps them. A handler that has cleared CAPREC, or CAPST's two mode bits, has cleared the group's
capsule state (R312). -/
structure Returned (l slot : List Byte) (y z : Group) : Prop where
  rest : { z with
    v := y.v, u := y.u, p := y.p, pendV := y.pendV, pendS := y.pendS, pendP := y.pendP, pc := y.pc, live := y.live
    yielded := y.yielded, level := y.level, record0 := y.record0, park := y.park, more := y.more, kept := y.kept
    keptMore := y.keptMore, switchDue := y.switchDue, keptSwitch := y.keptSwitch, cap := y.cap, caprec := y.caprec } = y
  level : z.level = false ∧ z.record0 = none ∧ z.yielded = 0 ∧ z.kept = none ∧ z.keptMore = [] ∧ z.keptSwitch = false
  cleared : getLe l 0x50 8 = 0 ∨ getLe l 0x58 8 / 64 % 4 = 0 → z.cap = none ∧ z.caprec = 0
  capsule : getLe l 0x50 8 ≠ 0 → getLe l 0x58 8 / 64 % 4 ≠ 0 → z.caprec = BitVec.ofNat 64 (getLe l 0x50 8)
    ∧ ∃ k, z.cap = some k ∧ k.lane = getLe l 0x58 8 % 32 ∧ k.owner = (getLe l 0x58 8).testBit 7
      ∧ k.displaced = (if (getLe l 0x58 8).testBit 13 then some (getLe l 0x58 8 / 256 % 32) else none)
      ∧ k.slot.isSome = (getLe l 0x58 8).testBit 5
      ∧ ∀ v ∈ k.slot, ∀ r, r < 8 → v.v.getD r 0 = BitVec.ofNat 64 (getLe slot (256 * r + 8 * k.lane) 8)
  lanes : ∀ r L, r < 32 → L < 32 →
    z.rv r L = if r < 4 then BitVec.ofNat 64 (getLe l (0x400 + 256 * r + 8 * L) 8) else y.rv r L
  uniform : ∀ r, z.rs r = if r < 4 then BitVec.ofNat 64 (getLe l (0x800 + 8 * r) 8) else y.rs r
  preds : ∀ n L, L < 32 → z.pbit n L = if n < 32 then (getLe l (0x320 + 4 * L) 4).testBit n else y.pbit n L
  pcs : ∀ L, L < 32 → z.lanePc L = BitVec.ofNat 64 (getLe l (0x200 + 8 * L) 8 % 2 ^ 53)
  live : ∀ L, L < 32 → z.live.getLsbD L = decide (getLe l (0x200 + 8 * L) 8 / 2 ^ 62 = 0)
  pending : z.pendV = BitVec.ofNat 32 (getLe l 0x38 4) ∧ z.pendS = BitVec.ofNat 32 (getLe l 0x3C 4)
    ∧ z.pendP = BitVec.ofNat 128 (getLe l 0x40 16 % 2 ^ 127)
  park : z.park = (if getLe l 0x70 8 % 16 = 0 then none else y.kept)
    ∧ z.more = if getLe l 0x70 8 % 16 = 0 then [] else y.keptMore
  switch : z.switchDue = y.keptSwitch

/-- A deferred access with the addresses and data that record 0 holds for its lanes: an address at 0x40 and eight bytes on,
16 bytes of data from 0x140 (R362). -/
def recordIn (a : Access) (l : List Byte) : Access :=
  let word (at_ : Nat) : Word := BitVec.ofNat 64 (getLe l at_ 8)
  { a with
    va := (List.range 32).map fun L => word (0x40 + 8 * L)
    d0 := (List.range 32).map fun L => word (0x140 + 16 * L)
    d1 := (List.range 32).map fun L => word (0x148 + 16 * L) }

/-- SIZE of a fault's detail (R99): 0 for up to 4 bytes, 1 for 8, 2 for 16. -/
def sizeField (logsz : Nat) : Nat := logsz - 2

/-- The detail of a precise memory fault (R98, R99): lanes, primary cause, WRITE, SIZE, and VA[51:0] of the lowest lane. -/
def accessDetail (bad : Mask) (cause logsz : Nat) (wr : Bool) (va : Word) : Nat :=
  bad.toNat + 2 ^ 32 * cause + (if wr then 2 ^ 36 else 0) + 2 ^ 38 * sizeField logsz + 2 ^ 40 * (va.toNat % 2 ^ 52)

/-- What a load, a store or an atomic asks for, with the cause group of its faults and the permissions it needs. -/
def memoryRule (I : Issue) (i : Instr) : Option (Asked × Nat × Nat) :=
  match loadRule I i, storeRule I i, atomicRule I i with
  | some A, _, _ => some (A, 1, 1)
  | _, some A, _ => some (A, 2, 2)
  | _, _, some A => some (A.1, 2, 3)
  | _, _, _ => none

/-! ### The Bed (R111 to R126) -/

/-- The Bed loads and stores (R122): whether it stores, its register, the logarithm of its size, and each lane's address. -/
def bedRule (I : Issue) : Instr → Option (Bool × BitVec 5 × Nat × (Nat → Word))
  | .lds t a o h _ => some (false, t, h.toNat + 2, displaced I a o (2 ^ (h.toNat + 2)))
  | .sts t a o h _ => some (true, t, h.toNat + 2, displaced I a o (2 ^ (h.toNat + 2)))
  | .ldsx t a b h x _ => some (false, t, h.toNat + 2, fun L =>
      I.G.rs a.toNat + I.G.rv b.toNat L * BitVec.ofNat 64 (if x = 1 then 2 ^ (h.toNat + 2) else 1))
  | .stsx t a b h x _ => some (true, t, h.toNat + 2, fun L =>
      I.G.rs a.toNat + I.G.rv b.toNat L * BitVec.ofNat 64 (if x = 1 then 2 ^ (h.toNat + 2) else 1))
  | _ => none

/-- A present line at least as old as its plot's lifetime (R114), which cannot be refetched (R116). -/
def Block.staleLine (x : Block) (line : Nat) : Bool :=
  match x.plotAt line with
  | none => false
  | some p => !(x.bedLine line).absent && decide (p.life ≤ (x.bedLine line).age) && !(p.refetch && (x.bedLine line).source.isSome)

/-- The first check of R119 that a Bed address fails, 0 for none. -/
def Block.bedCheckOf (x : Block) (a : Word) (n : Nat) : Nat :=
  if a.toNat % n ≠ 0 then 1
  else if 256 * x.bedLines < a.toNat + n then 2
  else if x.plotAt (a.toNat / 256) = none then 3
  else if x.staleLine (a.toNat / 256) then 4
  else 0

/-- A line that an access may go to at once: present, not expired, and claimed by no MDRN. -/
def State.lineReady (s : State) (b line : Nat) : Prop :=
  ((s.blk b).bedLine line).absent = false ∧ (∀ p, (s.blk b).plotAt line = some p → ((s.blk b).bedLine line).age < p.life)
    ∧ line ∉ s.claimed b

/-- What a lane of a Bed store stores: n bytes of its register, or of its pair. -/
def storedBytes (I : Issue) (t : BitVec 5) (logsz L : Nat) : Nat :=
  (I.G.rv t.toNat L).toNat + (if logsz = 4 then 2 ^ 64 * (I.G.rv (t.toNat + 1) L).toNat else 0)

/-- A run of n lines from l on is free and in the region (R111). -/
def Block.fitsAt (x : Block) (n l : Nat) : Prop :=
  l + n ≤ x.bedLines ∧ ∀ p ∈ oitems x.plots, l + n ≤ p.2.base ∨ p.2.base + p.2.lines ≤ l

/-- Lines l to l + n − 1 have been put into the state that a plot starts in, and all other bytes and lines are as before
(R111). -/
structure LinesCleared (l n : Nat) (x x' : Block) : Prop where
  rest : { x' with bed := x.bed, bedMeta := x.bedMeta, plots := x.plots } = x
  bytes : ∀ a, sget 0 x'.bed a = if 256 * l ≤ a ∧ a < 256 * (l + n) then 0 else sget 0 x.bed a
  lines : ∀ k, x'.bedLine k = if l ≤ k ∧ k < l + n then ⟨0, false, none⟩ else x.bedLine k

/-- The detail of an invalid plot operand (R118, R119): the lowest active lane, cause 5, the operand's low bits. -/
def plotDetail (act : Mask) (v : Word) : Nat := accessDetail (BitVec.twoPow 32 (lowest act)) 5 0 false v

/-! ### Queues and engines (R131 to R147) -/

/-- An engine trap (R139). -/
def engineTrap (c : IssueCtx) (cause queue : Nat) (header : Word) (tl : Nat) : Trap :=
  c.trapOf 6 (header.toNat % 2 ^ 32 + 2 ^ 32 * cause + 2 ^ 36 * queue + 2 ^ 40 * (header.toNat / 2 ^ 32) + 2 ^ 72 * tl) []

/-- The words that QW pushes: sT, or vT of the active lanes in ascending order (R132). -/
def pushedWords (I : Issue) (r : BitVec 5) (u : BitVec 1) : List Word :=
  if u = 1 then [I.G.rs r.toNat] else (lanesOf I.act).map fun L => I.G.rv r.toNat L

/-- The words `l` are the whole commands `cmds`, each a header with as many words as it counts, and then `more`, which is
no whole command (R134). -/
structure Commands (l : List Word) (cmds : List (List Word)) (more : List Word) : Prop where
  words : l = cmds.flatten ++ more
  whole : ∀ k ∈ cmds, ∃ h t, k = h :: t ∧ t.length = bits h 48 8
  part : ∀ h t, more = h :: t → t.length < bits h 48 8

/-- What QR writes from the words of a queue: the first to sT, or one to each active lane in ascending order (R133). -/
def poppedWords (I : Issue) (r : BitVec 5) (u : BitVec 1) (l : List Word) : Awaited :=
  if u = 1 then ⟨.s, r.toNat, [l.headD 0], 0, fun _ => none, 0⟩
  else .lanes I r 0 fun L => (l.getD ((lanesOf I.act).filter (· < L)).length 0, 0)

/-! ### The matrix engine (R225 to R242) -/

/-- The instructions of the matrix engine. -/
def isMatrix : Instr → Bool
  | .mldn .. | .mldw .. | .mma .. | .dmma .. | .mma2 .. | .mzro .. | .mdrn .. | .mstat .. | .mteam .. | .mchk .. => true
  | _ => false

/-- What a load or a product asks for: its base and format registers, the lines of its two tiles, the quarters that it
adds to, and whether it is on distributions. -/
structure TileAsk where
  addr : BitVec 5
  fmt : BitVec 5
  first : MatFmt → Nat
  second : MatFmt → Nat
  quarters : Option (List Nat)
  spread : Bool

/-- The loads and products (R235, R237). -/
def matrixRule : Instr → Option TileAsk
  | .mldn a b m _ => some ⟨a, b, fun f => if m = 1 then spreadFootprint else footprint f.wfmt, fun _ => 0, none, false⟩
  | .mldw a b m _ => some ⟨a, b, fun f => if m = 1 then spreadFootprint else footprint f.wfmt, fun _ => 0, none, false⟩
  | .mma a b q _ _ => some ⟨a, b, fun f => footprint f.afmt, fun _ => 0, some [q.toNat], false⟩
  | .dmma a b q _ => some ⟨a, b, fun f => footprint f.afmt, fun f => if f.ssrc = 1 then spreadFootprint else 0,
      some [q.toNat], true⟩
  | .mma2 a b q _ => some ⟨a, b, fun f => footprint f.afmt, fun f => footprint f.afmt, some [q.toNat, (q ^^^ 1).toNat], false⟩
  | _ => none

/-- R228 row 3: the operand classes clash, the plane has another format, or DMMA has SSRC 0. -/
def TileAsk.clashes (A : TileAsk) (m : Matrix) (w : BitVec 32) : Bool :=
  match A.quarters with
  | none => false
  | some q => m.clash w q || (A.spread && (matFmt w).ssrc == 0)

/-- The engine is this block's or nobody's, its staging slot is free, and no group of the block stands at MTEAM (R225,
R234, R240). -/
def State.engineFree (s : State) (b : Nat) : Prop :=
  ((s.mxOf b).owner = none ∨ (s.mxOf b).owner = some b) ∧ (s.mxOf b).staged = none ∧ s.inTeam b = false

/-- The first check of R119 that the lines of a tile fail, 0 for none. -/
def Block.tileCheckOf (x : Block) (base : Word) (n : Nat) : Nat :=
  if base.toNat % 256 ≠ 0 then 1
  else if 256 * x.bedLines < base.toNat + 256 * n then 2
  else if ∃ k < n, x.plotAt (base.toNat / 256 + k) = none then 3
  else if ∃ k < n, x.staleLine (base.toNat / 256 + k) = true then 4
  else 0

/-- The state after a matrix word has entered the engine as `e`. -/
def State.entered (s : State) (c : IssueCtx) (y : Group) (e : MatInstr) : State :=
  (({ s.setGrp c.blk c.grp y with fresh := s.fresh + 1 } : State).enterMatrix c.blk e).markDone

/-- The mean of one cell after a product of two rows of elements (R230, R231). -/
def cellAfter (cls : Nat) (single : Bool) (X Y : List Elem) (old : BitVec 56) : BitVec 56 :=
  if cls = 2 then BitVec.ofInt 56 (intCell (X.map (·.val)) (Y.map (·.val)) old.toInt).1
  else BitVec.ofNat 56 (floatCell single (X.map (·.val)) (Y.map (·.val)) old.toNat).1

/-- A quarter of the engine holds, cell by cell, what a product of the rows X with the columns Y leaves (R230, R231). -/
structure QuarterHolds (q cls : Nat) (single : Bool) (X Y : Nat → List Elem) (m m' : Matrix) : Prop where
  cells : ∀ i j, i < 128 → j < 128 →
    sget 0 m'.acc (16384 * q + 128 * i + j) = cellAfter cls single (X i) (Y j) (sget 0 m.acc (16384 * q + 128 * i + j))
  cls : sget 0 m'.cls q = cls

/-- The cells of the other quarters are as before. -/
def OthersAs (quarters : List Nat) (m m' : Matrix) : Prop :=
  ∀ k, k / 16384 ∉ quarters → sget 0 m'.acc k = sget 0 m.acc k

/-! ### The host side (R370 to R384) -/

/-- The acts of the host and of peers that reach the device only once its ports have come up (R381). -/
def needsPorts : Instr → Bool
  | .doorbellWrite .. | .queueEnable .. | .queueDisable .. | .hostBar2Read .. | .hostBar2Write .. | .hostTakeLine ..
  | .hostLineWriteback .. | .hostCoherentRead .. | .inboundRmaWrite .. | .inboundRmaRead .. | .inboundRmaAtomic ..
  | .inboundUnsupportedPacket .. | .secondTierDecoderWrite .. | .clusterL1ModeWrite .. => true
  | _ => false

/-- The six mailbox commands with their numbers (R382). -/
def mailboxNumber : Instr → Option Word
  | .mailboxAttest => some 1
  | .mailboxTelemetryRead => some 2
  | .mailboxClearSuspect => some 3
  | .mailboxSetPowerCap => some 4
  | .mailboxReadCertificate => some 5
  | .mailboxLoadFirmware _ => some 6
  | _ => none

/-- The package with one more message sent. -/
def State.sent (s : State) (kind addr : Nat) (data : List Byte) : State :=
  { s with messages := s.messages ++ [⟨kind, addr, data⟩] }

/-- A queue that has stopped on an error (R374). -/
def State.stopped (s : State) (q : Nat) : State := s.updQueue q fun x => { x with err := true, en := false }

end Sys2Proof.Machine

namespace Sys2Proof

/-- LDG, which is returned as a whole (R107). -/
def Instr.isLdg : Instr → Bool
  | .ldg .. => true
  | _ => false

end Sys2Proof
end

