-- ==== Sys2Proof/WellFormed.lean ====
section
/-!
DEFINITION. Well-formed instructions: the words that pass R29 order 2, and the steps that name a die, a core, a
port, a cluster or a priority the package has (R6, R376, R382).
-/

namespace Sys2Proof

/-- The numbers a step names are numbers of the package's parts. -/
def Instr.stepOk : Instr → Bool
  | .prunerJobStart die core => decide (die < 2 ∧ core < 8)
  | .sieveFeed die space _ len => decide (die < 2 ∧ space < 256 ∧ len = 4)
  | .fadeClockTick core => decide (core < 192)
  | .mscWriteback die _ => decide (die < 2)
  | .priorityAgingGrant prio => decide (prio < 16)
  | .coreAssignment core => decide (core < 192)
  | .rangeSteal _ die cluster => decide (die < 2 ∧ cluster < 6)
  | .matrixExecute core => decide (core < 192)
  | .doorbellWrite queue _ => decide (queue < 65536)
  | .queueEnable queue => decide (queue < 65536)
  | .queueDisable queue => decide (queue < 65536)
  | .hostTakeLine die _ => decide (die < 2)
  | .hostLineWriteback die _ _ => decide (die < 2)
  | .hostCoherentRead die _ => decide (die < 2)
  | .inboundRmaWrite die .. => decide (die < 2)
  | .inboundRmaRead die .. => decide (die < 2)
  | .inboundRmaAtomic die .. => decide (die < 2)
  | .inboundUnsupportedPacket die _ => decide (die < 2)
  | .secondTierLinkDown die port => decide (die < 2 ∧ port < 5)
  | .secondTierLinkUp die port => decide (die < 2 ∧ port < 5)
  | .secondTierDecoderWrite die port _ _ => decide (die < 2 ∧ port < 5)
  | .bridgeLaneFailure die _ => decide (die < 2)
  | .sramRailLow die => decide (die < 2)
  | .l2SecdedRestore die => decide (die < 2)
  | .backInvalidateResponse die _ => decide (die < 2)
  | .clusterL1ModeWrite cluster _ => decide (cluster < 12)
  | _ => true

/-- An instruction that the hardware has. -/
def Instr.wf (i : Instr) : Bool := if i.isWord then i.legal else i.stepOk

end Sys2Proof
end

