-- ==== Sys2Proof/Certificates/Slice0/Obligations.lean ====
section
/-!
DEFINITION. The obligations: what the numbered rules of spec/ say the Atilo does, stated of this model.
-/

open Sys2Proof Sys2Proof.Machine

/-! ### Encoding (R9 to R12, R18, R22 to R28) -/

/-- Words of each of the tables R23 (control and predicates, with the cc codes of R24), R25, R26, R27 and R28, taken from the
manual's own encoding examples, decode to their instructions. -/
def Obligations.ManualWordsDecode : Prop :=
  decodeWord 0x08081117 0 = .ok (.iadd 4 1 2 1 7)
    ∧ decodeWord 0x090A110C 0 = .ok (.imad 5 1 2 3 0)
    ∧ decodeWord 0x0CD0110D 0 = .ok (.bfx 8 1 2 3 1)
    ∧ decodeWord 0x0F4C6003 0 = .ok (.shri 6 6 3)
    ∧ decodeWord 0x0DCE21B7 0 = .ok (.lea 7 2 3 0 3 7)
    ∧ decodeWord 0x1E4642D7 0 = .ok (.idiv 3 4 5 5 7)
    ∧ decodeWord 0x200A41B7 0 = .ok (.fcvt 5 4 3 3 7)
    ∧ decodeWord 0x02000007 0 = .ok (.nop 7) ∧ decodeWord 0x01800007 0 = .ok (.exit 7)
    ∧ decodeWord 0x0077FFF9 0 = .ok (.bra 3 7 0xFFF9) ∧ decodeWord 0x060A1007 0 = .ok (.vote 5 1 0 0 7)
    ∧ decodeWord 0x04018464 0 = .ok (.isetp 3 1 3 2 0) ∧ decodeWord 0x0441F002 0 = .ok (.fsetp 3 28 0 1 0)
    ∧ decodeWord 0x10067027 0 = .ok (.mov 3 7 1 7) ∧ decodeWord 0x10460000 0x3FC00000 = .ok (.li 3 0x3FC00000)
    ∧ decodeWord 0x12020000 0 = .ok (.mfs 1 0) ∧ decodeWord 0x12460200 0 = .ok (.mts 3 16)
    ∧ decodeWord 0x149073C7 0 = .ok (.fmul 8 7 7 4 7) ∧ decodeWord 0x21881287 0 = .ok (.benc 4 1 5 0 0 7)
    ∧ decodeWord 0x268A2087 0 = .ok (.ldw 5 2 2 0 7) ∧ decodeWord 0x274E4097 0 = .ok (.ldx 7 4 1 0 1 7)
    ∧ decodeWord 0x28C460C7 0 = .ok (.std 2 6 3 0 7) ∧ decodeWord 0x2A4642F7 0 = .ok (.atom 3 4 5 7 7)
    ∧ decodeWord 0x2C082097 0 = .ok (.lds 4 2 2 1 7) ∧ decodeWord 0x30009007 0 = .ok (.qw 0 4 1 7)
    ∧ decodeWord 0x30C05147 0 = .ok (.tlw 5 2 1 7) ∧ decodeWord 0x328034B7 0 = .ok (.mma 3 9 1 1 7)
    ∧ decodeWord 0x33CC5497 0 = .ok (.mstat 6 5 9 1 7) ∧ decodeWord 0x36000187 0 = .ok (.bar 3 7)
    ∧ decodeWord 0x37001000 0 = .ok (.capb 1 0) ∧ decodeWord 0x38064007 0 = .ok (.launch 3 4 7)
    ∧ decodeWord 0x3A002007 0 = .ok (.tlbi 2 7)

/-- Every word that the hardware has an encoding for decodes, from that encoding, to itself: no bit of any operand of
any format of R11 is dropped. -/
def Obligations.DecodeOfEncode : Prop :=
  ∀ i : Instr, i.isWord = true → i.wf = true →
    ∃ w rest, encode i = w :: rest ∧ decodeWord w.toNat (rest.headD 0).toNat = .ok i
      ∧ i.words = 1 + rest.length ∧ decode w.toNat (rest.headD 0).toNat = .ok ⟨false, false, i, i.words⟩

/-- A word that decodes is, but for its C and S bits, the encoding of what it decodes to, so that no two instructions
share a word and a bit in an unused field is refused (R12). The all-zero word is refused. -/
def Obligations.EncodeOfDecode : Prop :=
  (∀ w raw i, w < 2 ^ 32 → raw < 2 ^ 32 → decodeWord w raw = .ok i →
    i.isWord = true
      ∧ encode i = BitVec.ofNat 32 (w % 2 ^ 30) :: (if i.words = 2 then [BitVec.ofNat 32 raw] else []))
  ∧ ∀ raw, ∃ e, decodeWord 0 raw = .error e

/-! ### A step (R10, R18, R19, R284 to R286) -/

/-- A step of every state answers a next state: where a word, a command or a block cannot go on, the spec has a trap (R29, R98,
R246, R286, R354, R355), a status (R139, R145), an end of the block (R317) or a hardware error (R369), and the step takes it. -/
def Obligations.EveryStepAnswers : Prop := ∀ s : State, completes (step s)

/-- A group that may issue, and whose head run stands before one unchained word, runs what that word decodes to: `step`
is `exec` of it in a context of the head run, the guard it inherits, its own place and the place of the word after it;
then the block's lines age again if a restore had paused them (R129), the switch bit is honoured (R20) and the cycle
counted. R16, R18, R19: before a set of chained words, each word is tried alone, in order, on the state before the set, with
the guard that it inherits; the first that traps or does not issue decides what the whole set comes to. Where none does,
they take effect one after another with the sources from before the set, an MTS after the others and the control word last,
and the set is done; where what the others have done keeps one from its effect, the set as a whole takes that trap or that
park and has done nothing. A group that may not issue, for another of its quadrant is older and may (R327), leaves the package as it is.
A pending event that the schedule names is what the step performs, taken off the agenda; an act of the world outside
is performed as it comes. The cycle is counted after either.
That a schedule chooses what moves, and that a step is one cycle, is the model's choice (logs 6 and 7), as is how a set is
tried (log 65) and the place of MTS in it (log 74). -/
def Obligations.StepRunsDecodedWord : Prop :=
  (∀ (s : State) (rest : List Choice) (b g : Nat) (w0 w1 w2 : Nat) (p : PWord) (i : Instr),
     let s0 : State := { s with script := rest }
     let s1 := s0.toIssue b g
     let h := (s1.grp b g).headRun
     let f := s1.fetchPacket b h.2
     let entry := h.2.toNat % 12 / 4
     s.script = .issue b g :: rest → s0.mayIssue b g = true → (s0.grp b g).trapPend = none → h.1 ≠ 0 →
     f.2 = ⟨0, f.2.va, [w0, w1, w2]⟩ → packetOk w0 w1 w2 entry = true → entrySet w0 w1 w2 entry = [p] →
     decodeWord p.bits p.raw = .ok i →
     setTrap (setWords 7 [p]) (f.1.grp b g) f.1 b = none →
     let c : IssueCtx :=
       ⟨b, g, h.1, BitVec.allOnes 32, h.2, packetBase h.2 + BitVec.ofNat 64 (4 * p.pos),
         packetBase h.2 + BitVec.ofNat 64 (4 * (p.pos + p.len)), BitVec.ofNat 32 p.bits, none, f.1.fresh, 0, .none⟩
     ∀ t, Sys2Proof.Machine.exec i { f.1 with cur := some c } = .next t →
       step s = .next (((if t.result = .done then t.clearCur.issued b g else t.clearCur).honourSwitch b g
         (p.switch && t.result == .done)).count))
  ∧
  (∀ (s : State) (rest : List Choice) (b g : Nat) (w0 w1 w2 : Nat) (set : List PWord) (last : PWord),
     let s0 : State := { s with script := rest }
     let s1 := s0.toIssue b g
     let h := (s1.grp b g).headRun
     let f := s1.fetchPacket b h.2
     let entry := h.2.toNat % 12 / 4
     s.script = .issue b g :: rest → s0.mayIssue b g = true → (s0.grp b g).trapPend = none → h.1 ≠ 0 →
     f.2 = ⟨0, f.2.va, [w0, w1, w2]⟩ → packetOk w0 w1 w2 entry = true → entrySet w0 w1 w2 entry = set → 2 ≤ set.length →
     set.getLast? = some last → setTrap (setWords 7 set) (f.1.grp b g) f.1 b = none →
     let u := f.1
     let ws := setWords 7 set
     let ctx (w : SetWord) : IssueCtx :=
       ⟨b, g, h.1, (u.grp b g).guard w.inherited, h.2, packetBase h.2 + BitVec.ofNat 64 (4 * w.pos),
         packetBase h.2 + BitVec.ofNat 64 (4 * (last.pos + last.len)), BitVec.ofNat 32 w.bits,
         some (u.grp b g, (u.blk b).rkey, (u.blk b).rctr), u.fresh, 0, .none⟩
     let alone (w : SetWord) (t : State) : Prop := ∃ i, w.instr = some i
       ∧ Sys2Proof.Machine.exec i { u with cur := some (ctx w) } = .next t
     (∀ l w m t, ws = l ++ w :: m → (∀ v ∈ l, ∃ t, alone v t ∧ t.went) → alone w t → ¬ t.went →
       step s = .next t.clearCur.count)
     ∧ ((∀ w ∈ ws, ∃ t, alone w t ∧ t.went) →
       (∀ t, ActsInTurn ctx (controlLast ws) u t →
         step s = .next ((t.clearCur.issued b g).honourSwitch b g (ws.any (·.switch))).count)
       ∧ ∀ l w m i v t, controlLast ws = l ++ w :: m → ActsInTurn ctx l u v → w.instr = some i →
         Sys2Proof.Machine.exec i { v with cur := some { ctx w with raised := (v.cur.map (·.raised)).getD 0 } } = .next t →
         (∀ x, t.result = .trapped x → step s = .next (u.takeTrap b g x).clearCur.count)
         ∧ (t.result = .blocked → ∀ p, (t.grp b g).parks.getLast? = some p →
           step s = .next (u.parkOn b g p.reason p.what).clearCur.count)))
  ∧
  (∀ (g : BitVec 4) (p : PWord) (l : List PWord) (i : Instr), decodeWord p.bits p.raw = .ok i →
     setWords g (p :: l) = ⟨p.pos, p.bits, g, some i, p.switch⟩ :: setWords (i.guard.getD g) l)
  ∧
  (∀ (s : State) (rest : List Choice) (b g : Nat), s.script = .issue b g :: rest →
     ({ s with script := rest } : State).mayIssue b g = false →
     step s = .next { s with script := rest, cycles := s.cycles + 1 })
  ∧
  (∀ (s t : State) (rest : List Choice) (i : Instr),
     (∀ k, s.script = .event k :: rest → s.agenda[k]? = some i → i.isWord = false →
       Sys2Proof.Machine.exec i { s with script := rest, agenda := s.agenda.eraseIdx k } = .next t →
       step s = .next { t with cycles := t.cycles + 1 })
     ∧ (s.script = .input i :: rest → isInput i = true →
       Sys2Proof.Machine.exec i { s with script := rest } = .next t → step s = .next { t with cycles := t.cycles + 1 }))

/-! ### Memory -/

/-- Physical memory keeps its canonical form in every step: addresses rise and no listed byte is 0, what an unlisted one
reads as. That a byte nothing has written reads as 0, and this form with it, is the model's choice (log 1). -/
def Obligations.StepKeepsMemoryForm : Prop :=
  ∀ s t : State, Memory.wf s.mem = true → step s = .next t → Memory.wf t.mem = true

/-- After reset memory has that form, no grid or block is live and no queue is enabled; the boot ROM is about to run
(R381). The fade clocks and the cycle count stand at 0. Memory that reads as 0 and most of
the values that reset leaves are the model's choice (logs 1 and 2). -/
def Obligations.ResetState : Prop :=
  let s := State.reset
  Memory.wf s.mem = true ∧ (∀ d pa, s.physByte d pa = 0) ∧ (∀ b, oget s.blocks b = none) ∧ (∀ n, oget s.grids n = none)
    ∧ (∀ q, (s.queue q).en = false ∧ (s.queue q).err = false ∧ (s.queue q).cons = 0 ∧ (s.queue q).prod = 0)
    ∧ (∀ k, (s.core k).fade = 0 ∧ (s.core k).mx = Machine.Matrix.zero) ∧ s.boot = .rom ∧ s.cycles = 0 ∧ s.agenda = [.deviceReset]

/-! ### Integers, moves and predicates -/

/-- R169 to R179, R181: every fixed-latency integer instruction writes what its row gives, in each active lane or once on
uniform registers, sets OVF where its row says so, moves the head run on, and changes nothing else. -/
def Obligations.IntegerResults : Prop :=
  ∀ (i : Instr) (c : IssueCtx) (s : State) (W : Written),
    integerRule (issueOf i c s) i = some W → AtIssue i c s → Effects i c s W

/-- R152, R156 to R164, R291, R338: moves, constants, special-register reads, comparisons, predicate operations and votes,
CANCK and NOP write what their rules give and nothing else. What MOVS of PCORE reads in a Pruner job is read as in log 73. -/
def Obligations.MoveAndPredicateResults : Prop :=
  ∀ (i : Instr) (c : IssueCtx) (s : State) (W : Written),
    moveRule (issueOf i c s) s i = some W → AtIssue i c s → Effects i c s W

/-- R189 to R201, R207 to R218: the fixed-latency arithmetic on distributions and the conversions write their lane values,
raise their flags, step the LFSR of an active lane exactly under SR (R47), and change nothing else.
R33, R34, R44 to R47, R183, R190, R194, R207, R209, R210: of the lane values, the mean of FADD, FSUB, FMUL and FFMA, the elements
of HADD2, HMUL2 and HFMA2, FCVT and ICVT are the exact result rounded once, RN or SR, with the sign of a zero, the special
values and the flags that the rules give; FTOI is the rounded integer, or the nearest end of its range. R42, R185: certain
operands give a certain result, and FADD.ind adds its variances. R188: a sample of FADD is rounded twice.
R43, R188, R196, R197, R200, R201, R218: the examples of the manual hold. -/
def Obligations.DistributionResults : Prop :=
  (∀ (i : Instr) (c : IssueCtx) (s : State) (W : Written),
    floatRule (issueOf i c s) (c.group s) i = some W → AtIssue i c s → Effects i c s W)
  ∧ (∀ x ∈ Numbers.formats, x.1.width = x.2.1 ∧ x.1.maxMag = x.2.2.1 ∧ x.1.infMag = x.2.2.2.1 ∧ x.1.nan = x.2.2.2.2.1
      ∧ Numbers.subExp x.1 = x.2.2.2.2.2)
  ∧ (e4m3.width = 8 ∧ e4m3.maxMag = 0x7E ∧ e4m3.nan = 0x7F ∧ Numbers.subExp e4m3 = 9)
  ∧ (∀ (m : SMode) (sr : Bool) (l : BitVec 32) (a b c : Word), m ≠ .smp →
      let mean (w : Word) : Nat := w.toNat % 2 ^ 32
      let sure (w : Word) : Prop := w.toNat < 2 ^ 32
      Numbers.MeanOf (laneAdd m sr l a b) sr l (sure a ∧ sure b) (Numbers.sumOf fp32 (mean a) (mean b))
      ∧ Numbers.MeanOf (laneSub m sr l a b) sr l (sure a ∧ sure b)
          (Numbers.sumOf fp32 (mean a) (Numbers.turned fp32 (mean b)))
      ∧ Numbers.MeanOf (laneMul m sr l a b) sr l (sure a ∧ sure b) (Numbers.productOf fp32 (mean a) (mean b))
      ∧ Numbers.MeanOf (laneFma m l a b c) false l (sure a ∧ sure b ∧ sure c)
          (Numbers.fusedOf fp32 (mean a) (mean b) (mean c))
      ∧ (∀ F ∈ [bf16, fp16, e4m3, e5m2], let o := laneNarrow F m sr l a
          (Numbers.valueOf fp32 (mean a)).Rounds F (Numbers.randomBits sr l) (o.val.toNat % 2 ^ 32) (Numbers.ieee o.flags)
          ∧ o.lfsr = if sr then Numbers.nextLfsr l else l)
      ∧ (∀ (z : Bool), ∀ w ∈ [8, 16, 32, 64], let o := laneIcvt z w m sr l a
          (Numbers.integer (if z then sIn w a else uIn w a)).Rounds fp32 (Numbers.randomBits sr l) (o.val.toNat % 2 ^ 32)
            (Numbers.ieee o.flags) ∧ o.lfsr = if sr then Numbers.nextLfsr l else l))
  ∧ (∀ (l : BitVec 32) (a b : Word), let o := laneAdd .ind false l a b
      a.toNat < 2 ^ 56 → b.toNat < 2 ^ 56 → Numbers.isNan fp32 (o.val.toNat % 2 ^ 32) = false →
      ∃ y f g, (Numbers.sumOf e8m16 (a.toNat / 2 ^ 32) (b.toNat / 2 ^ 32)).Rounds fp32 none y f
        ∧ (Numbers.valueOf fp32 y).Rounds e8m16 none (o.val.toNat / 2 ^ 32) g
        ∧ (o.flags &&& flagSOVF = if o.val.toNat / 2 ^ 32 = 0xFF0000 then flagSOVF else 0))
  ∧ (∀ (l : BitVec 32) (a b : Word) (j : Nat), j < 4 → let o := laneAdd .smp false l a b
      let sample (w : Word) : Nat := w.toNat / 2 ^ (16 * j) % 2 ^ 16
      ∃ y f g, (Numbers.sumOf bf16 (sample a) (sample b)).Rounds fp32 none y f
        ∧ (Numbers.valueOf fp32 y).Rounds bf16 none (sample o.val) g ∧ (f ||| g) &&& ~~~o.flags = 0)
  ∧ (∀ (h sr : Bool) (l : BitVec 32) (a b c : Word), let F := if h then bf16 else fp16
      let elem (w : Word) (j : Nat) : Nat := w.toNat / 2 ^ (16 * j) % 2 ^ 16
      let is (o : LaneOut) (x : Nat → Numbers.Exact) : Prop := Numbers.Packed F sr 16 x 0 2 l o.val.toNat o.flags o.lfsr
      is (laneHAdd h sr l a b) (fun j => Numbers.sumOf F (elem a j) (elem b j))
      ∧ is (laneHMul h sr l a b) (fun j => Numbers.productOf F (elem a j) (elem b j))
      ∧ is (laneHFma h sr l a b c) fun j => Numbers.fusedOf F (elem a j) (elem b j) (elem c j))
  ∧ (∀ (z sr : Bool) (mode : Nat) (l : BitVec 32) (a : Word), mode < 4 → (sr = true → mode = 0) → ∀ w ∈ [8, 16, 32, 64],
      let o := laneFtoi z w (rmodeOf mode) sr l a
      let x := a.toNat % 2 ^ 32
      let lo : Int := if z then -2 ^ (w - 1) else 0
      let hi : Int := if z then 2 ^ (w - 1) - 1 else 2 ^ w - 1
      o.lfsr = (if sr then Numbers.nextLfsr l else l)
      ∧ (Numbers.isNan fp32 x = true → o.val = 0 ∧ o.flags = flagINV)
      ∧ (Numbers.isInf fp32 x = true → o.val = BitVec.ofInt 64 (if Numbers.signBit fp32 x then lo else hi) ∧ o.flags = flagINV)
      ∧ (Numbers.isNan fp32 x = false → Numbers.isInf fp32 x = false → ∃ i inexact,
          Numbers.ToInteger mode (Numbers.randomBits sr l) x i inexact
          ∧ (i < lo → o.val = BitVec.ofInt 64 lo ∧ o.flags = flagINV)
          ∧ (hi < i → o.val = BitVec.ofInt 64 hi ∧ o.flags = flagINV)
          ∧ (lo ≤ i → i ≤ hi → o.val = BitVec.ofInt 64 i ∧ (inexact → o.flags = flagINX) ∧ (¬ inexact → o.flags = 0))))
  ∧ (let v3 : Word := 0x006F00003FC00000
    let v4 : Word := 0x0071000040000000
    let v7 : Word := 0x053B80003FC00000
    let v13 : Word := 0x007D000040400000
    (laneMul .ind false 0 v3 v4).val = 0x0072A00040400000
      ∧ (laneTag 0 v3 5).val = v7 ∧ (laneMul .trk false 0 v7 v7).val = 0x053C400040100000
      ∧ (laneMul .ind false 0 v7 v7).val = 0x0071200040100000 ∧ (laneSub .trk false 0 v7 v7).val = 0x0500000000000000
      ∧ (laneSub .ind false 0 v3 v3).val = 0x0070000000000000 ∧ (laneStd 0 v4).val = 0x3C000000
      ∧ (laneMake 0 0x40400000 0x3E800000).val = v13 ∧ (laneS4 false 0 v13).val = 0x4020406040204060
      ∧ (laneCol 0 0x4020406040204060).val = v13
      ∧ (let c : List Nat := [3, 13, 8, 5]
        (bdecLane false c 0x25FD 0).1 = 0x40700000 ∧ (bdecLane false c 0x25FD 1).1 = 0xC0C80000
          ∧ (bdecLane false c 0x25FD 2).1 = 0x41020000 ∧ (bdecLane false c 0x25FD 3).1 = 0)
      ∧ (let o := laneNarrow bf16 .ind true 0x12345679 0x3F80C000
        o.val.toNat % 2 ^ 32 = 0x3F80 ∧ o.lfsr = 0x893A2B3F ∧ Numbers.ieee o.flags = flagINX))

/-- R22, R285, R290, R291: BRA, BRX, CALL, CALLX and RET send the active lanes to their targets and the other lanes of the
head run to the word after the set; a call writes the link to v31; nothing else changes. -/
def Obligations.TransfersMoveLanes : Prop :=
  ∀ (i : Instr) (c : IssueCtx) (s : State) (W : Written),
    controlRule (issueOf i c s) i = some W → uniformPasses (issueOf i c s) (hintOf i) → AtIssue i c s → Effects i c s W

/-- R29, R21, R303, R342: an illegal form, a privileged word at program level, a word that touches a pending register, and
an operation that a deterministic grid forbids, take their traps in this order and have no effect of their own.
R10, R99, R286: a group whose head run stands before a word that cannot be fetched takes the fetch fault of its packet.
R29 order 1, R18: before an illegal packet it takes that trap, whichever word it enters at, and before a set with a word that
decodes to nothing the illegal-instruction trap of the first such word.
R289: a `.uniform` branch whose guard holds in some lanes of the head run and not in all takes the precise
uniformity trap, group 7 cause 5, with the lanes of the guard; no lane moves and no link is written.
SIZE and WRITE of a forbidden operation's trap are those of the access it would make (log 51). -/
def Obligations.EncodingTraps : Prop :=
  (∀ (i : Instr) (c : IssueCtx) (s : State),
     i.isWord = true → s.cur = some c → c.res = .none → (oget s.blocks c.blk).isSome = true →
     (oget (s.blk c.blk).groups c.grp).isSome = true →
     let I := issueOf i c s
     let illegal := i.legal = false ∨ ((s.blk c.blk).job.isSome = true ∧ jobIllegal i = true)
     let privileged := i.privileged = true ∧ I.G.level = false
     (illegal → Traps i c s (c.trapOf 7 (programError 2 c.run c.word 0 0) []))
     ∧ (¬ illegal → privileged → Traps i c s (c.trapOf 7 (programError 3 c.run c.word 0 0) []))
     ∧ (¬ illegal → ¬ privileged → ∀ before f r after, i.touched (i.guard.getD 7) = before ++ (f, r) :: after →
         (∀ q ∈ before, I.G.isPending q.1 q.2 = false) → I.G.isPending f r = true →
         Traps i c s (c.trapOf 7 (programError 4 c.run c.word f r) []))
     ∧ (¬ illegal → ¬ privileged → (∀ q ∈ i.touched (i.guard.getD 7), I.G.isPending q.1 q.2 = false) →
         detForbidden i = true → (s.gridOf c.blk).determ = true → I.act ≠ 0 →
         Traps i c s (c.trapOf 8
           (I.act.toNat + 2 ^ 32 + 2 ^ 36 * (forbiddenAccess i).2 + 2 ^ 38 * (forbiddenAccess i).1) [])))
  ∧
  (∀ (i : Instr) (c : IssueCtx) (s : State), AtIssue i c s → hintOf i = 3 →
     (issueOf i c s).act ≠ 0 → (issueOf i c s).act ≠ c.run →
     Traps i c s (c.trapOf 7 (programError 5 (issueOf i c s).act c.word 0 0) []))
  ∧
  (∀ (s : State) (rest : List Choice) (b g : Nat),
     let s0 : State := { s with script := rest }
     let s1 := s0.toIssue b g
     let h := (s1.grp b g).headRun
     let f := s1.fetchPacket b h.2
     let entry := h.2.toNat % 12 / 4
     let traps (group detail : Nat) (lcause : List (Nat × Nat)) : Prop :=
       step s = .next (f.1.takeTrap b g ⟨group, BitVec.ofNat 96 detail, h.2, h.1, lcause, none⟩).count
     s.script = .issue b g :: rest → s0.mayIssue b g = true → (s0.grp b g).trapPend = none → h.1 ≠ 0 →
     (f.2.code ≠ 0 → traps 3 (accessDetail h.1 f.2.code 0 false f.2.va) ((lanesOf h.1).map fun L => (L, f.2.code)))
     ∧ (∀ w0 w1 w2, f.2 = ⟨0, f.2.va, [w0, w1, w2]⟩ →
       (packetOk w0 w1 w2 entry = false →
         traps 7 (programError 1 h.1 (BitVec.ofNat 32 ([w0, w1, w2].getD entry 0)) 0 0) [])
       ∧ ∀ l p m, packetOk w0 w1 w2 entry = true → entrySet w0 w1 w2 entry = l ++ p :: m →
         (∀ q ∈ l, ∃ i, decodeWord q.bits q.raw = .ok i ∧ i.legal = true
           ∧ ((f.1.blk b).job.isSome = true → jobIllegal i = false)) →
         (∃ e, decodeWord p.bits p.raw = .error e) → traps 7 (programError 2 h.1 (BitVec.ofNat 32 p.bits) 0 0) []))
  ∧
  (∀ w0 w1 w2 entry, let ws := packetWords w0 w1 w2
     (packetOk w0 w1 w2 entry = false ↔
       (∃ w ∈ ws, w.chain = true ∧ w.pos + w.len = 3) ∨ (∃ w ∈ ws, w.pos = 2 ∧ isWOp w.bits = true)
         ∨ (∃ set ∈ chainSets ws, setOk set = false) ∨ ∀ w ∈ ws, w.pos ≠ entry))
  ∧
  (∀ (s : State) (b : Nat) (pc : Word), let base := packetBase pc
     let k := (s.blk b).core
     let space := (s.blk b).space
     let t := s.cacheSummary k space base
     let x := t.seek space base 4 4
     let fails (u : State) (code : Nat) : Prop := s.fetchPacket b pc
       = (u, ⟨code, if base.toNat / 4096 = (base.toNat + 11) / 4096 then pc else base, []⟩)
     (pc.toNat % 4 ≠ 0 → s.fetchPacket b pc = (s, ⟨1, pc, []⟩))
     ∧ (pc.toNat % 4 = 0 → base.toNat / 2 ^ 53 ≠ 0 → fails s 2)
     ∧ (pc.toNat % 4 = 0 → base.toNat / 2 ^ 53 = 0 →
       (summaryPerm (s.summaryOf k space base) base &&& 4 ≠ 4 → fails t 3)
       ∧ (summaryPerm (s.summaryOf k space base) base &&& 4 = 4 → x.2.code ≠ 0 → fails x.1 x.2.code)))

/-! ### Variable latency -/

/-- R17, R155, R180, R202 to R205, R220 to R222: a word of variable latency computes its result from the registers and the
stream as they stand at issue, marks its destination pending, steps LFSRs and RCTR at issue, and leaves the write of the
result to VARIABLE_LATENCY_RESULT_WRITE; with no active lane it only moves the head run (R15).
R183, R189, R203, R204: FDIV and RCP are the exact quotient rounded once, with its flags; the special values of the functions,
their NaNs and the invalid ones below zero are those of R204. R219, R221: Furrow is the function of R219, RUNI is the exact
value of its draw and RGAUS has exact negatives. R222: RCAT takes the first prefix sum above the draw, or −1. -/
def Obligations.LaterResultsIssue : Prop :=
  (∀ (i : Instr) (c : IssueCtx) (s : State) (A : Awaited),
    laterRule (issueOf i c s) s i = some A → AtIssue i c s →
    if (issueOf i c s).act = 0 then Effects i c s Written.nothing
    else ∃ y, Sys2Proof.Machine.exec i s = .next (resultAwaited s c y A.step)
      ∧ A.Holds s.fresh c (issueOf i c s).act (c.group s) y
      ∧ ∀ d pa, (resultAwaited s c y A.step).physByte d pa = s.physByte d pa)
  ∧ (∀ (m : SMode) (sr : Bool) (l : BitVec 32) (a b : Word), m ≠ .smp →
      let x := a.toNat % 2 ^ 32
      let nanWord : Word := 0x00FF80007FC00000
      Numbers.MeanOf (laneDiv m sr l a b) sr l (a.toNat < 2 ^ 32 ∧ b.toNat < 2 ^ 32)
        (Numbers.quotientOf fp32 x (b.toNat % 2 ^ 32))
      ∧ Numbers.MeanOf (laneSpecial .rcp m l a) false l (a.toNat < 2 ^ 32) (Numbers.quotientOf fp32 0x3F800000 x)
      ∧ (∀ y ∈ Numbers.specialCases, let o := laneSpecial y.1 m l (BitVec.ofNat 64 y.2.1)
          o.val = (if y.2.2.1 = fp32.nan then nanWord else BitVec.ofNat 64 y.2.2.1) ∧ o.flags = y.2.2.2)
      ∧ (∀ f, Numbers.isNan fp32 x = true → (laneSpecial f m l a).val = nanWord
          ∧ (laneSpecial f m l a).flags = flagIf (Numbers.isSnan fp32 x) flagINV)
      ∧ (∀ f ∈ [SpecialFn.lg2, .rsq, .sqrt], Numbers.isNan fp32 x = false → Numbers.signBit fp32 x = true →
          Numbers.units fp32 x ≠ 0 → (laneSpecial f m l a).val = nanWord ∧ (laneSpecial f m l a).flags = flagINV))
  ∧ (∀ n key, furrow n key = (Numbers.furrowOf n key).toNat)
  ∧ (∀ out, out < 2 ^ 32 → Numbers.amount fp32 (runiBits out) = (out / 256 * 2 ^ 125 : Nat) ∧ runiBits out < 2 ^ 31)
  ∧ (∀ out, out < 2 ^ 31 → rgausBits out = rgausBits (2 ^ 32 - 1 - out) + 2 ^ 31)
  ∧ ∀ (rctr rkey : Word) (act : Nat → Bool) (a : Nat → Word) (W w : Nat), 0 < W →
      let lane (i : Nat) : Nat := w * W + i
      let upTo (i : Nat) : Nat := ((List.range (i + 1)).map fun j => Numbers.weightOf (act (lane j)) (a (lane j))).sum
      let draw (k : Nat) : Nat := (Numbers.furrowOf (rctr + BitVec.ofNat 64 (2 * w + k)) rkey).toNat
      let t := (draw 1 * 2 ^ 32 + draw 0) * upTo (W - 1) / 2 ^ 64
      let r := rcatRow rctr rkey act a W w
      (upTo (W - 1) = 0 → r.1 = BitVec.ofInt 64 (-1))
      ∧ (upTo (W - 1) ≠ 0 → ∃ i, i < W ∧ r.1 = BitVec.ofNat 64 i ∧ t < upTo i ∧ ∀ j, j < i → upTo j ≤ t)
      ∧ (r.2 &&& flagCATE ≠ 0 ↔ upTo (W - 1) = 0)
      ∧ (r.2 &&& flagINV ≠ 0 ↔ ∃ i, i < W ∧ act (lane i) = true ∧ Numbers.weightBad (a (lane i)) = true)

/-- R17, R20, R153: VARIABLE_LATENCY_RESULT_WRITE writes the oldest outstanding result of its number to its register in
its lanes, clears its pending bit, that of the second register of a pair with it, sets its flags, and is then no longer outstanding;
every other pending bit, and everything else of the package, is as before. -/
def Obligations.LaterResultsWrite : Prop :=
  ∀ (b g : Nat) (s : State) (o : VarOut), (oget s.blocks b).isSome = true → (oget (s.blk b).groups g).isSome = true →
    (s.grp b g).outs.find? (fun x => x.uid == o.uid) = some o → (o.file = .v → o.hi ≠ [] → o.reg < 31) →
    ∃ y, Sys2Proof.Machine.exec (.variableLatencyResultWrite b g o.uid) s = .next (s.setGrp b g y)
      ∧ { y with
          v := (s.grp b g).v, u := (s.grp b g).u, p := (s.grp b g).p, pendV := (s.grp b g).pendV
          pendS := (s.grp b g).pendS, pendP := (s.grp b g).pendP, flags := (s.grp b g).flags
          outs := (s.grp b g).outs } = s.grp b g
      ∧ y.flags = (s.grp b g).flags ||| o.flags
      ∧ y.outs = (s.grp b g).outs.filter (fun x => x.uid != o.uid)
      ∧ (∀ r L, r < 32 → L < 32 → y.rv r L
          = if o.file = .v ∧ o.lanes.getLsbD L ∧ r = o.reg then o.vals.getD L 0
            else if o.file = .v ∧ o.lanes.getLsbD L ∧ o.hi ≠ [] ∧ r = o.reg + 1 then o.hi.getD L 0
            else (s.grp b g).rv r L)
      ∧ (∀ r, y.rs r = if o.file = .s ∧ r = o.reg then o.vals.headD 0 else (s.grp b g).rs r)
      ∧ (∀ n L, y.pbit n L = if o.file = .p ∧ n = o.reg ∧ n ≠ 127 ∧ o.lanes.getLsbD L then o.mask.getLsbD L
          else (s.grp b g).pbit n L)
      ∧ ∀ (f : RegFile) (r : Nat), y.isPending f.code r
          = if f = o.file ∧ (r = o.reg ∨ (o.hi ≠ [] ∧ r = o.reg + 1)) then false else (s.grp b g).isPending f.code r

/-! ### Special registers and the stream -/

/-- R150, R153, R159, R356: MTS takes the value of the lowest active lane (LFSR takes each lane's own), writes the one
register that its number names, with the bits that R153 ignores dropped and a set's own flags kept, and nothing else; with
no active lane it writes nothing. HEND ends the block (R359).
R155, R223: RSKIP adds the lowest active lane's operand to RCTR, modulo 2^64, and changes nothing else. -/
def Obligations.SpecialRegisterWrites : Prop :=
  (∀ (r : BitVec 5) (n : BitVec 12) (c : IssueCtx) (s : State), AtIssue (.mts r n) c s →
     let I := issueOf (.mts r n) c s
     let v := I.G.rv r.toNat (lowest I.act)
     let x := s.blk c.blk
     let does (f : Group → Group) : Prop := ∃ y, HeadAt c c.next (c.group s) y ∧
       Sys2Proof.Machine.exec (.mts r n) s = .next (wordDone s c (f y) 0)
     let sets (x : Block) : Prop := ∃ y, HeadAt c c.next (c.group s) y ∧
       Sys2Proof.Machine.exec (.mts r n) s = .next (wordDone (s.setBlk c.blk x) c y 0)
     (I.act = 0 → Effects (.mts r n) c s Written.nothing)
     ∧ (I.act ≠ 0 →
       (n = 0x010 → does fun y => { y with smode := if v.setWidth 2 = 0#2 then 1#2 else v.setWidth 2 })
       ∧ (n = 0x011 → does fun y => { y with flags := v.setWidth 8 ||| c.raised })
       ∧ (n = 0x012 → does fun y => { y with flagen := v.setWidth 8 })
       ∧ (n = 0x020 → sets { x with rkey := v })
       ∧ (n = 0x021 → sets { x with rctr := v })
       ∧ (n = 0x022 → Effects (.mts r n) c s { Written.nothing with
           lf := fun L => if I.act.getLsbD L then some ((I.G.rv r.toNat L).setWidth 32) else none })
       ∧ (n = 0x036 → does fun y => { y with handler := v })
       ∧ (n = 0x037 → does fun y => { y with frame := v })
       ∧ (n = 0x060 → sets { x with bframe := v })
       ∧ (n = 0x061 → ∃ y, HeadAt c c.next (c.group s) y ∧
           let t := s.setGrp c.blk c.grp y
           let cause := (c.group s).cause.toNat % 32
           Sys2Proof.Machine.exec (.mts r n) s = .next (
             if v.toNat % 4 = 1 then t.endBlock c.blk .failed cause
             else if v.toNat % 4 = 2 then t.endBlock c.blk (if cause = 0x0A then .cancelled else .failed) cause
             else t).markDone)
       ∧ (n = 0x064 → does fun y => { y with hscr0 := v })
       ∧ (n = 0x065 → does fun y => { y with hscr1 := v })
       ∧ (n = 0x066 → does fun y => { y with hscr2 := v })
       ∧ (n = 0x067 → does fun y => { y with hscr3 := v })))
  ∧
  (∀ (a : BitVec 5) (g : BitVec 4) (c : IssueCtx) (s : State), AtIssue (.rskip a g) c s →
     let I := issueOf (.rskip a g) c s
     if I.act = 0 then Effects (.rskip a g) c s Written.nothing
     else ∃ y, HeadAt c c.next (c.group s) y ∧ Sys2Proof.Machine.exec (.rskip a g) s = .next (wordDone
       (s.setBlk c.blk { s.blk c.blk with rctr := (s.blk c.blk).rctr + I.G.rv a.toNat (lowest I.act) }) c y 0))

/-! ### The end of lanes, and software traps -/

/-- R292, R293: EXIT takes its active lanes out of the group, and the last one waits until no result, load or store of
the group is outstanding, no fault of a load among them waiting, and then ends it; YIELD moves on, yields its lanes and
leaves its place for a moment; with no active lane they only move the head run.
R292, R297, R300: a group that ends while another of its block has not is marked ended and inactive, and no register
or lane of any other group changes; the block stays as it is but for its barriers. -/
def Obligations.ExitAndYield : Prop :=
  (∀ (g : BitVec 4) (c : IssueCtx) (s : State),
     (AtIssue (.exit g) c s →
       let I := issueOf (.exit g) c s
       let y0 := c.group s
       let waits := I.G.outs ≠ [] ∨ I.G.slots ≠ 0 ∨ (∃ a ∈ s.entriesOf c.blk c.grp, a.uid < c.before)
         ∨ ∃ m ∈ s.matrixOut c.blk c.grp, m.uid < c.before
       (I.act = 0 → Effects (.exit g) c s Written.nothing)
       ∧ (I.act ≠ 0 → y0.live &&& ~~~I.act ≠ 0 → ∃ y, HeadAt c c.next y0 y ∧ Sys2Proof.Machine.exec (.exit g) s
           = .next (wordDone s c { y with live := y.live &&& ~~~I.act, yielded := y.yielded &&& ~~~I.act } 0))
       ∧ (I.act ≠ 0 → y0.live &&& ~~~I.act = 0 → waits → Blocks (.exit g) c s .switch .reissue)
       ∧ (I.act ≠ 0 → y0.live &&& ~~~I.act = 0 → ¬ waits → ∃ y, HeadAt c c.next y0 y ∧
           Sys2Proof.Machine.exec (.exit g) s
             = .next ((s.setGrp c.blk c.grp { y with live := 0, yielded := 0 }).endGroup c.blk c.grp).markDone))
     ∧ (AtIssue (.yield g) c s →
       let I := issueOf (.yield g) c s
       if I.act = 0 then Effects (.yield g) c s Written.nothing
       else ∃ y, HeadAt c c.next (c.group s) y ∧ Sys2Proof.Machine.exec (.yield g) s = .next (wordDone s c
         (({ y with yielded := y.yielded ||| I.act } : Group).parkedOn .yield .nothing s.cycles.toNat) 0)))
  ∧
  (∀ (s : State) (b g h : Nat), (oget s.blocks b).isSome = true → (oget (s.blk b).groups g).isSome = true → h ≠ g →
     (oget (s.blk b).groups h).any (fun y => !y.ended) = true →
     let t := s.endGroup b g
     t.grp b g = { s.grp b g with ended := true, active := false, park := none, more := [] }
       ∧ (∀ k, k ≠ g → oget (t.blk b).groups k = oget (s.blk b).groups k)
       ∧ { t.blk b with groups := (s.blk b).groups, bars := (s.blk b).bars } = s.blk b
       ∧ (∀ k, k ≠ b → oget t.blocks k = oget s.blocks k) ∧ ∀ d pa, t.physByte d pa = s.physByte d pa)

/-- R294, R352, R353, R358: TRAP and BKPT move on and then trap in groups 0x0B and 0x0C with their codes; TFENCE waits for
outstanding results and then, at program level, traps in group 5 exactly if FLAGS AND FLAGEN is not zero; with no active
lane none of them traps. -/
def Obligations.SoftwareTraps : Prop :=
  ∀ (n : BitVec 12) (g : BitVec 4) (c : IssueCtx) (s : State),
    (AtIssue (.trap n) c s →
      let I := issueOf (.trap n) c s
      if I.act = 0 then Effects (.trap n) c s Written.nothing
      else TrapsAfter (.trap n) c s
        ⟨0x0B, BitVec.ofNat 96 (I.act.toNat + 2 ^ 32 + 2 ^ 40 * n.toNat), c.next, c.run, [], none⟩)
    ∧ (AtIssue (.bkpt g) c s →
      let I := issueOf (.bkpt g) c s
      if I.act = 0 then Effects (.bkpt g) c s Written.nothing
      else TrapsAfter (.bkpt g) c s
        ⟨0x0C, BitVec.ofNat 96 (I.act.toNat + 2 ^ 32 + 2 ^ 40 * (c.wpc.toNat % 2 ^ 52)), c.next, c.run, [], none⟩)
    ∧ (AtIssue (.tfence g) c s →
      let I := issueOf (.tfence g) c s
      let y0 := c.group s
      let both := y0.flags &&& y0.flagen
      (I.act = 0 → Effects (.tfence g) c s Written.nothing)
      ∧ (I.act ≠ 0 → s.waiting c.blk c.grp = true → ∃ y, HeadAt c c.next y0 y ∧ Sys2Proof.Machine.exec (.tfence g) s
          = .next (wordDone s c
            (y.parkedOn .switch (.tfence c.run c.next) s.cycles.toNat) 0))
      ∧ (I.act ≠ 0 → s.waiting c.blk c.grp = false → y0.level = false → both ≠ 0 → TrapsAfter (.tfence g) c s
          ⟨5, BitVec.ofNat 96 (c.run.toNat + 2 ^ 32 + 2 ^ 40 * both.toNat + 2 ^ 48 * y0.flags.toNat), c.next, c.run, [],
            none⟩)
      ∧ (I.act ≠ 0 → s.waiting c.blk c.grp = false → y0.level = true ∨ both = 0 →
          Effects (.tfence g) c s Written.nothing))

/-! ### Taking a trap and returning -/

/-- R354: a trap of a group at program level with nothing outstanding and a handler saves CAUSE, DETAIL, EPC and EMASK,
writes the trap area, and starts all 32 lanes at HANDLER at handler level with the trap area's registers no longer pending;
every other register stays as the program left it. A trap area that cannot be written is a hardware error of cause 7.
R303, R354, R355: a trap at handler level, or with HANDLER 0, ends the block failed with the trap's group as CAUSE; a
trap of a Pruner job ends the job; a trap of a group with results outstanding waits for them, the group as it was.
Which areas a trap writes at once is read as in log 28. -/
def Obligations.HandlerEntry : Prop :=
  (∀ (s : State) (b g : Nat) (t : Trap), (oget s.blocks b).isSome = true → (oget (s.blk b).groups g).isSome = true →
     (s.blk b).job = none → (s.grp b g).level = false → s.drained b g = true → (s.grp b g).handler ≠ 0 →
     let w := s.frameWritten b g t
     (w.2 = 0 → ∃ z, s.takeTrap b g t = w.1.setGrp b g z ∧ HandlerStart (savedByTrap (s.grp b g) t) z)
       ∧ (w.2 ≠ 0 → s.takeTrap b g t = w.1.hwError b 7))
  ∧
  (∀ (s : State) (b g : Nat) (t : Trap), (oget s.blocks b).isSome = true → (oget (s.blk b).groups g).isSome = true →
     ((s.blk b).job = none → (s.grp b g).level = true → s.takeTrap b g t = s.endBlock b .failed t.group)
     ∧ ((s.blk b).job = none → (s.grp b g).level = false → (s.grp b g).handler = 0 → s.drained b g = true →
         (s.blk b).life = .resident → ((s.takeTrap b g t).blk b).life = .ended
           ∧ ((s.takeTrap b g t).blk b).outcome = .failed ∧ ((s.takeTrap b g t).blk b).cause = t.group)
     ∧ ((s.blk b).job = none → (s.grp b g).level = false → s.drained b g = false →
         ((s.takeTrap b g t).grp b g).trapPend = some t
           ∧ ((s.takeTrap b g t).grp b g).pc = (s.grp b g).pc ∧ ((s.takeTrap b g t).grp b g).v = (s.grp b g).v)
     ∧ (∀ j, (s.blk b).job = some j → ∃ k, s.takeTrap b g t = s.endJob b k ∧ k ∈ [1, 2, 8]))

/-- R258, R317, R420: a block that ends has no group, no held copy, no store buffer entry and no engine command left, and
keeps its outcome and cause; an ended block is not ended again. -/
def Obligations.BlockEnds : Prop :=
  ∀ (s : State) (b cause : Nat) (o : Outcome3), (oget s.blocks b).isSome = true →
    ((s.blk b).life = .ended → s.endBlock b o cause = s)
    ∧ ((s.blk b).life ≠ .ended →
      let t := s.endBlock b o cause
      (t.blk b).life = .ended ∧ (t.blk b).outcome = o ∧ (t.blk b).cause = cause ∧ (t.blk b).groups = []
        ∧ (t.blk b).held = [] ∧ (t.blk b).count = (s.blk b).count
        ∧ (∀ k q, oget t.cmds k = some q → q.blk ≠ b) ∧ (∀ a ∈ t.lsb (s.blk b).core, a.blk ≠ b))

/-- R357: ERET with an active lane parks until the handler's own results and entries are done, its head run past it; with
none it does nothing. Once they are done, and with no deferred access in record 0, a readable trap area with a valid table
is loaded and the group is at program level with the parks that PARKR keeps. An invalid table ends the block failed with
CAUSE 0x07, and an unreadable frame is a hardware error of cause 7.
R312: a handler that has cleared the group's capsule state in the frame has cleared it.
R102, R251, R357: with a deferred access in record 0 the record is read too, and its lanes are then performed again with
the addresses and data that it now holds, if they pass the checks, or dropped: a dropped load's lanes take the record's
data and its destination is no longer pending, and an LDA or WAITM reads its words again; a command's fault (KIND 6) is
neither.
The graft slot that a kept capsule state brings back, and an unreadable one, are read as in log 27, and what a replay
and a drop do with an access is log 50's. -/
def Obligations.HandlerReturn : Prop :=
  (∀ (r : BitVec 1) (g : BitVec 4) (c : IssueCtx) (s : State), AtIssue (.eret r g) c s →
    if (issueOf (.eret r g) c s).act = 0 then Effects (.eret r g) c s Written.nothing
    else ∃ y, HeadAt c c.next (c.group s) y ∧ Sys2Proof.Machine.exec (.eret r g) s
      = .next (wordDone s c (y.parkedOn .switch (.eret (r == 1)) s.cycles.toNat) 0))
  ∧ ∀ (b g : Nat) (replay : Bool) (reason : ParkReason) (s : State), (oget s.blocks b).isSome = true →
    (oget (s.blk b).groups g).isSome = true → (s.blk b).life = .resident → (s.grp b g).ended = false →
    (s.grp b g).park = some ⟨reason, .eret replay⟩ → s.waiting b g = false →
    (∀ a ∈ s.entriesOf b g, a.handler = false) →
    let r := s.readTrapArea b g
    (r.2 = none → Sys2Proof.Machine.exec (.groupUnpark b g) s = .next (r.1.hwError b 7))
    ∧ (∀ l, r.2 = some l → let k := r.1.readSlot b g l
        ((s.grp b g).record0.bind (·.acc) = none →
          (k.2 = none → Sys2Proof.Machine.exec (.groupUnpark b g) s = .next (k.1.hwError b 7))
          ∧ (k.2.isSome = true → tableBad (trapTable l) = true →
              Sys2Proof.Machine.exec (.groupUnpark b g) s = .next (k.1.endBlock b .failed 7))
          ∧ (∀ slot, k.2 = some slot → tableBad (trapTable l) = false →
              ∃ z, Sys2Proof.Machine.exec (.groupUnpark b g) s = .next ((k.1.setGrp b g z).resumeGroup b g)
                ∧ Returned l slot (s.grp b g) z))
        ∧ (∀ a, (s.grp b g).record0.bind (·.acc) = some a →
          let t := k.1.readSeg (k.1.partyOf b) ((s.grp b g).frame.toNat + 0x6000) 0x400
          (k.2 = none ∨ t.2.1 ≠ 0 → Sys2Proof.Machine.exec (.groupUnpark b g) s = .next (t.1.hwError b 7))
          ∧ (k.2.isSome = true → t.2.1 = 0 → tableBad (trapTable l) = true →
              Sys2Proof.Machine.exec (.groupUnpark b g) s = .next (t.1.endBlock b .failed 7))
          ∧ (∀ slot, k.2 = some slot → t.2.1 = 0 → tableBad (trapTable l) = false →
              ∃ z, Sys2Proof.Machine.exec (.groupUnpark b g) s
                = .next (((t.1.setGrp b g z).settleRecord b g replay a (recordIn a t.2.2)).resumeGroup b g)
                ∧ Returned l slot (s.grp b g) z)))
    ∧ ∀ (was a : Access), let k := (s.blk b).core
      let m := a.fault ||| a.conf
      let y0 := s.grp b g
      let look (m : Mask) : State := s.lookUp k (s.blk b).space m a.vaAt
      (a.kind = 6 → s.settleRecord b g replay was a = s)
      ∧ (a.kind ≠ 6 → a.kind ≠ 2 → a.kind ≠ 3 → a.op < 0xA6 →
        (∀ lanes, lanes = (if a.kind = 4 then a.act else m) →
          lanes ≠ 0 → (∀ L, L < 32 → lanes.getLsbD L = true → s.checkOf b (a.vaAt L) a.logsz 1 = 0) →
          (∀ e ∈ y0.loads, e.uid ≠ s.fresh) →
          let n := { a with uid := s.fresh, wait := lanes, fault := 0, conf := 0, reqs := reqsOf lanes a.vaAt }
          s.settleRecord b g true was a = { ((look lanes).tick.setGrp b g { y0 with loads := y0.loads ++ [n] }) with
            agenda := s.agenda ++ n.reqs.map fun q => Instr.lineRequest b g s.fresh q.line })
        ∧ ∃ y, s.settleRecord b g false was a = s.setGrp b g y ∧ { y with v := y0.v, pendV := y0.pendV } = y0
          ∧ (∀ r L, r < 32 → L < 32 → y.rv r L =
              if r = a.dreg ∧ m.getLsbD L = true then a.d0.getD L 0
              else if a.logsz = 4 ∧ r = a.dreg + 1 ∧ m.getLsbD L = true then a.d1.getD L 0 else y0.rv r L)
          ∧ (y0.faultLeft a.seq = true → y.pendV = y0.pendV)
          ∧ (y0.faultLeft a.seq = false → a.dreg + (if a.logsz = 4 then 1 else 0) < 32 → ∀ n, y.pendV.getLsbD n
              = if n = a.dreg ∨ (a.logsz = 4 ∧ n = a.dreg + 1) then false else y0.pendV.getLsbD n))
      ∧ (∀ e, a.kind = 2 ∨ a.kind = 3 → s.entry k a.uid = some e → e.kind = a.kind →
        ((∀ L, L < 32 → m.getLsbD L = true → s.checkOf b (a.vaAt L) e.logsz (if a.kind = 3 then 3 else 2) = 0) →
          ∃ n, s.settleRecord b g true was a = ((((look m).updEntry k a.uid fun _ => n).postAll
              (if a.kind = 3 then (lanesOf m).map fun L => Instr.atomicPerform b a.uid L
                else if e.poc then (n.reqs.filter fun q => q.lanes &&& m != 0).map fun q => Instr.translateProbe b a.uid q.line
                else [])).closeEntry k a.uid).settleStores k
            ∧ n.fault = e.fault &&& ~~~m ∧ n.conf = e.conf &&& ~~~m ∧ n.wait = e.wait ∧ n.reqs = reqsOf e.wait n.vaAt
            ∧ (∀ L, L < 32 → n.vaAt L = (if m.getLsbD L = true then a.vaAt L else e.vaAt L)
              ∧ n.d0.getD L 0 = (if m.getLsbD L = true then a.d0.getD L 0 else e.d0.getD L 0)
              ∧ n.d1.getD L 0 = if m.getLsbD L = true then a.d1.getD L 0 else e.d1.getD L 0))
        ∧ let u := s.updEntry k a.uid fun e => { e with
            wait := e.wait &&& ~~~m, fault := e.fault &&& ~~~m, conf := e.conf &&& ~~~m }
          s.settleRecord b g false was a = if a.kind = 3 then u.finishAtomic k a.uid
            else ((u.closeEntry k a.uid).settleStores k).settleBlock b)
      ∧ ((a.kind = 2 ∨ a.kind = 3) → s.entry k a.uid = none → s.settleRecord b g true was a = s)
      ∧ (∀ e w, a.kind ≠ 6 → a.kind ≠ 2 → a.kind ≠ 3 → 0xA6 ≤ a.op → y0.await = some w →
        ((∃ n, w = .lda e n) ∨ (∃ n, w = .waitm e n)) → e.seq = a.seq →
        ((∀ L, L < 32 → m.getLsbD L = true → s.checkOf b (a.vaAt L) e.logsz 1 = 0) → s.settleRecord b g true was a
          = ((look m).setAwait b g (w.withAccess (e.again a m))).postOnce (.waitReread b g))
        ∧ s.settleRecord b g false was a
          = (s.setAwait b g (w.withAccess { e.again a m with wait := e.wait &&& ~~~m })).postOnce (.waitReread b g))

/-- R295, R354, R357, R360: the registers that a trap writes to the trap area come back from it: a frame that holds, at the
places of R360, what the group's lane PC table, v0 to v3, s0 to s3 and p0 to p31 were recorded as, loads them again. -/
def Obligations.TrapAreaRoundTrip : Prop :=
  ∀ (y z : Group) (l : List Byte),
    (l.drop 0x200).take 256 = y.tableBytes → (l.drop 0x400).take 1024 = y.vBytes 0 4 →
    (l.drop 0x800).take 32 = y.sBytes 0 4 → (l.drop 0x320).take 128 = y.pBytes 4 →
    let w := (z.loadTrapArea l).loadTable (trapTable l)
    tableBad (trapTable l) = false
      ∧ (∀ r L, r < 4 → L < 32 → w.rv r L = y.rv r L) ∧ (∀ r, r < 4 → w.rs r = y.rs r)
      ∧ (∀ n L, n < 32 → L < 32 → w.pbit n L = y.pbit n L)
      ∧ (∀ L, L < 32 → (w.lanePc L).toNat = (y.lanePc L).toNat % 2 ^ 53) ∧ w.live = y.live ∧ w.yielded = 0

/-! ### Loads -/

/-- R94, R95, R97, R105 to R107: a load all of whose active addresses pass the checks of R98, with a load slot free, takes
the slot with one request for each distinct line, marks its destination pending, moves its head run on, and changes neither
a register nor a byte of memory. With no active lane it only moves the head run; with every slot taken it parks.
R108: a prefetch writes no register, raises no fault, and leaves every block as it is but for its head run, which moves
on. -/
def Obligations.LoadsIssue : Prop :=
  (∀ (i : Instr) (c : IssueCtx) (s : State) (A : Asked), loadRule (issueOf i c s) i = some A → AtIssue i c s →
     let I := issueOf i c s
     let kind := if i.isLdg then 4 else 1
     (I.act = 0 → Effects i c s Written.nothing)
     ∧ (I.act ≠ 0 → s.passes I A 1 → I.capTrap I.act A.va = none →
       (48 ≤ (s.moved c).slotsUsed c.blk c.grp → Blocks i c s .loadSlot .reissue)
       ∧ ((s.moved c).slotsUsed c.blk c.grp < 48 → ∃ a y, Asks A kind c I s.fresh a ∧ LoadHeld A c I.inBody a (c.group s) y
           ∧ Sys2Proof.Machine.exec i s = .next
             { wordDone (s.looked I A) c y 0 with
               fresh := s.fresh + 1
               agenda := s.agenda ++ a.reqs.map fun r => .lineRequest c.blk c.grp s.fresh r.line }
           ∧ ∀ d pa, (wordDone (s.looked I A) c y 0).physByte d pa = s.physByte d pa)))
  ∧
  (∀ (a : BitVec 5) (o : BitVec 6) (h : BitVec 2) (g : BitVec 4) (c : IssueCtx) (s : State), AtIssue (.pfet a o h g) c s →
     ∃ y t, Sys2Proof.Machine.exec (.pfet a o h g) s = .next t ∧ HeadAt c c.next (c.group s) y
       ∧ t.blocks = (s.setGrp c.blk c.grp y).blocks ∧ t.cur = some { c with res := .done } ∧ t.grids = s.grids
       ∧ ((issueOf (.pfet a o h g) c s).act = 0 → Effects (.pfet a o h g) c s Written.nothing))

/-- R98, R99, R246: a load, store or atomic of which some active address is misaligned, not canonical or not granted by the
permission summary takes a precise fault in cause group 1, or 2 for a write, that names the failing lanes, the lowest of
their causes, the size and the address of the lowest failing lane; no lane is performed.
R66, R67: what the summary leaves to an address is read from its space's table, as R66 lays that out, and kept by the core
that looked.
R307, R312: in a capsule body an access to a ninth line takes the precise capsule trap 3, and one outside the home of the
lock takes 4. -/
def Obligations.AccessFaults : Prop :=
  ∀ (i : Instr) (c : IssueCtx) (s : State) (A : Asked) (group need cause : Nat),
    memoryRule (issueOf i c s) i = some (A, group, need) → AtIssue i c s →
    let I := issueOf i c s
    let code (L : Nat) : Nat := s.checkOf c.blk (A.va L) A.logsz need
    let bad := maskOf fun L => I.act.getLsbD L && code L != 0
    (bad ≠ 0 → (∃ L ∈ lanesOf bad, code L = cause) → (∀ L ∈ lanesOf bad, cause ≤ code L) →
      TrapsIn i c s (s.looked I A) (c.trapOf group (accessDetail bad cause A.logsz (group == 2) (A.va (lowest bad)))
        ((lanesOf bad).map fun L => (L, code L))))
    ∧ (∀ k, I.act ≠ 0 → bad = 0 → I.inBody = true → I.G.cap = some k →
      let n := (capLines k I.G.caprec (linesOf I.act A.va)).length
      let out : Prop := ∃ L ∈ lanesOf I.act, bits (A.va L) 51 2 ≠ bits I.G.caprec 51 2
      let trap (cause : Nat) : Trap := c.trapOf 9 (I.act.toNat + 2 ^ 32 * cause + 2 ^ 40 * (I.G.caprec.toNat % 2 ^ 52)) []
      (8 < n → TrapsIn i c s (s.looked I A) (trap 3)) ∧ (n ≤ 8 → out → TrapsIn i c s (s.looked I A) (trap 4)))
    ∧ ∀ (k space : Nat) (va : Word),
      let base := s.physRead 0 (s.die0.sdtBase.toNat + 64 * space + 32) 8
      let e : Word := BitVec.ofNat 64 (s.physRead 0 (base + bits va 51 2 * 2 ^ 24 + 8 * bits va 30 21) 8)
      let b := (s.physByte 0 (bits e 9 43 * 512 + bits va 21 9)).toNat
      let key := summaryKey space va
      (oget (s.core k).summary key = none → summaryPerm (s.summaryOf k space va) va = summaryLeaves e b)
      ∧ (∀ f, oget (s.core k).summary key = some f → s.cacheSummary k space va = s ∧ s.summaryOf k space va = f)
      ∧ (oget (s.core k).summary key = none → oget ((s.cacheSummary k space va).core k).summary key
          = some (s.summaryOf k space va) ∧ (s.cacheSummary k space va).mem = s.mem)

/-- R83, R94: a line request that its core's L1 answers is served with the line's bytes, under the bytes that the block
itself holds, and its return is due; no cache and no byte of memory changes.
R83, R86, R87, R99: one that misses there is answered by the L2 of its die, where that has the line's sectors with their R
mark, else by the owning die's, else by the home, whose answer fills the owning L2 with the sectors that are needed; a host
window fills nothing; a translation that fails, fails every lane with its cause, and a line that a host has for writing is
asked back first (R278). A fill of the L1 brings in those sectors alone.
R343, R344: a read, a write and an atomic of a deterministic grid check the tag of their sector at the owning L2 row by row;
a tag that is not current counts as reset, and one that finds no room in the overflow store takes cause 6 (log 66). -/
def Obligations.LineRequestHits : Prop :=
  (∀ (s : State) (b g uid line : Nat) (a : Access) (r : LineReq) (x : L1Line),
    (oget s.blocks b).isSome = true → (oget (s.blk b).groups g).isSome = true →
    (s.grp b g).loads.find? (fun e => e.uid == uid) = some a → a.blk = b → a.poc = false →
    a.reqs.find? (fun q => q.line == line && !q.served) = some r → r.lanes ≠ 0 →
    s.lsb (s.blk b).core = [] → behindLoad (s.grp b g).loads a line = false →
    s.l1Hit (s.partyOf b) line a.hint (needOf a r.lanes) = some x →
    let q : LineReq := { r with
      served := true
      data := (s.blk b).overlay line x.data
      poison := x.poison &&& ~~~(s.blk b).heldMask line
      cause := 0 }
    Sys2Proof.Machine.exec (.lineRequest b g uid line) s = .next ((s.updLoad b g uid fun _ =>
      { a with reqs := updFirst (fun q => q.line == line && !q.served) (fun _ => q) a.reqs }).post
        (.loadDataReturn b g uid line)))
  ∧
  (∀ (s : State) (b g uid line : Nat) (a : Access) (r : LineReq), (oget s.blocks b).isSome = true →
     (oget (s.blk b).groups g).isSome = true → (s.grp b g).loads.find? (fun e => e.uid == uid) = some a → a.blk = b →
     a.poc = false → a.fault = 0 → a.conf = 0 → a.reqs.find? (fun q => q.line == line && !q.served) = some r → r.lanes ≠ 0 →
     s.lsb (s.blk b).core = [] → behindLoad (s.grp b g).loads a line = false → (s.partyOf b).det = false →
     s.l1Hit (s.partyOf b) line a.hint (needOf a r.lanes) = none →
     let q := s.fetchLine (s.partyOf b) line a.hint (needOf a r.lanes) true
     let back (e : Access) (f : LineReq) : Prop := Sys2Proof.Machine.exec (.lineRequest b g uid line) s
       = .next ((q.1.updLoad b g uid fun _ =>
         { e with reqs := updFirst (fun q => q.line == line && !q.served) (fun _ => f) e.reqs }).post
           (.loadDataReturn b g uid line))
     (q.2.code = 16 → Sys2Proof.Machine.exec (.lineRequest b g uid line) s = .next (q.1.post (.lineRequest b g uid line)))
     ∧ (q.2.code = 0 → back a { r with
         served := true, crossed := q.2.crossed, data := (s.blk b).overlay line q.2.data
         poison := q.2.poison &&& ~~~(s.blk b).heldMask line, cause := 0 })
     ∧ (q.2.code ≠ 16 → q.2.code ≠ 0 → back (a.failLanes r.lanes false q.2.code) { r with
         served := true, crossed := false, data := 0, poison := 0, cause := q.2.code }))
  ∧
  (∀ (s : State) (P : Party) (line hint : Nat) (need : Line) (l1 : Bool), P.det = false →
     let q := s.fetchLine P line hint need l1
     let d := dieOfCore P.core
     let o := ownerOfLine line
     let key := lineKey P.space line
     let hits (e : Nat) (x : L2Line) : Prop :=
       oget (s.die e).l2 key = some x ∧ x.rMark = true ∧ x.unc = false ∧ sectorsOf need &&& ~~~x.valid = 0
     (∀ x, d ≠ o → hits d x → q.2 = ⟨0, x.data, x.poison, false⟩ ∧ q.1.die0 = s.die0 ∧ q.1.die1 = s.die1 ∧ q.1.mem = s.mem)
     ∧ (∀ x, (d ≠ o → ∀ z, ¬ hits d z) → hits o x → q.2 = ⟨0, x.data, x.poison, d != o⟩
       ∧ (q.1.die o).tlb = (s.die o).tlb ∧ (d = o → q.1.die0 = s.die0 ∧ q.1.die1 = s.die1))
     ∧ ((∀ z, ¬ hits d z) → (∀ z, ¬ hits o z) →
       let r := s.translate P.space (BitVec.ofNat 64 (line * 128)) 1
       let pa := r.2.pa / 128 * 128
       let u := r.1.fillL2 o key r.2 need (if hint = 2 then 0 else hint)
       (r.2.code ≠ 0 → q = (r.1, ⟨r.2.code, 0, 0, d != o⟩))
       ∧ (r.2.code = 0 → inHost r.2.pa = true → oget (r.1.die o).l2 key = none →
         q = (r.1, ⟨0, r.1.physLine o r.2.pa need, 0, d != o⟩))
       ∧ (r.2.code = 0 → inHost r.2.pa = false → r.1.hostWrites o r.2.pa = true →
         q = (r.1.backInvalidate o r.2.pa, ⟨16, 0, 0, d != o⟩))
       ∧ (r.2.code = 0 → inHost r.2.pa = false → r.1.hostWrites o r.2.pa = false →
         q.2 = ⟨0, (u.viewLine o key pa (sectorsOf need)).1, (u.viewLine o key pa (sectorsOf need)).2, d != o⟩
         ∧ (oget (r.1.die o).l2 key = none → (∀ z ∈ r.1.copiesOn o, z.1 ≠ key) → ∀ w, r.1.roomL2 o key false = (r.1, some w) → r.1.mscFree o (r.2.pa / 128) →
           ∃ y, oget (u.die o).l2 key = some y ∧ y.valid = sectorsOf need ∧ y.dirty = 0 ∧ y.pa = pa
             ∧ y.rMark = r.2.entry.getLsbD 3 ∧ y.wMark = r.2.entry.getLsbD 4 ∧ y.unc = false ∧ y.way7 = w
             ∧ y.data &&& y.valid = r.1.physLine o pa (sectorsOf need)))))
  ∧
  (∀ (s : State) (P : Party) (line hint : Nat) (add data poison : Line), s.l1At P.core (lineKey P.space line) = none →
     ∃ y, (s.fillL1 P line hint add data poison).l1At P.core (lineKey P.space line) = some y ∧ y.valid = add ∧ y.rMark = true
       ∧ y.cls = hint ∧ y.data = (s.blk P.blk).overlay line data &&& add)
  ∧
  (∀ (t : Tag) (X : Nat),
     let others : Prop := t.aop ≠ 0 ∧ (t.aid ≠ X ∨ t.amany = true)
     let written : Prop := t.wid ≠ none ∧ t.wid ≠ some X
     let readers : Prop := t.rsum = 2 ∨ (t.rsum = 1 ∧ t.rid ≠ X)
     (written → t.step X .read = (t, 2)) ∧ (¬ written → others → t.step X .read = (t, 5))
     ∧ (¬ written → ¬ others → t.step X .read
       = (if t.rsum = 0 then { t with rsum := 1, rid := X } else if t.rsum = 1 ∧ t.rid ≠ X then { t with rsum := 2 } else t, 0))
     ∧ (∀ m, (readers → t.step X (.write m) = (t, 3)) ∧ (¬ readers → others → t.step X (.write m) = (t, 5))
       ∧ (¬ readers → ¬ others →
         (¬ written → t.step X (.write m) = ({ t with wid := some X, wmask := t.wmask ||| m }, 0))
         ∧ (written → m ≠ t.wmask → t.step X (.write m) = (t, 4))
         ∧ (∀ w, t.wid = some w → m = t.wmask → (w < X → t.step X (.write m) = ({ t with wid := some X }, 0))
           ∧ (X < w → t.step X (.write m) = (t, 1)))))
     ∧ (∀ code ret,
       let clash : Prop := t.wid ≠ none ∨ (t.rsum ≠ 0 ∧ t.rid ≠ X) ∨ t.rsum = 2 ∨ (t.aop ≠ 0 ∧ t.aop ≠ code + 1)
         ∨ ((t.aret = true ∨ ret = true) ∧ t.aop ≠ 0 ∧ t.aid ≠ X)
       (clash → t.step X (.atomic code ret) = (t, 5))
       ∧ (¬ clash → t.step X (.atomic code ret) = ({ t with
           aop := code + 1
           aid := if t.aop = 0 then X else t.aid
           amany := t.amany || decide (t.aop ≠ 0 ∧ t.aid ≠ X)
           aret := t.aret || ret }, 0))))
  ∧
  (∀ (s : State) (P : Party) (line off : Nat) (a : Nat → TagAcc),
     let d := ownerOfLine line
     let key := lineKey P.space line * 4 + off / 32
     let slot := (s.grid P.grid).gslot
     let current (t : Tag) : Prop := oget (s.die d).tags key = some t ∧ t.gslot = slot ∧ t.phase = P.phase
     let checked (t : Tag) : Prop := let r := t.step P.ident (a (off % 32))
       (r.2 ≠ 0 → s.tagCheck P line off a = (s, r.2))
       ∧ (r.2 = 0 → ∃ u, s.tagCheck P line off a = (u, 0) ∧ oget (u.die d).tags key = some r.1 ∧ u.mem = s.mem
         ∧ ∀ n, n ≠ key → oget (u.die d).tags n = oget (s.die d).tags n)
     (P.det = false → s.tagCheck P line off a = (s, 0))
     ∧ (P.det = true → (oget (s.die d).l2 (lineKey P.space line)).isSome = true →
       (∀ t, current t → (s.die d).lostTags.contains key = false → checked t)
       ∧ ((∀ t, ¬ current t) → checked ⟨slot, P.phase, none, 0, 0, 0, 0, false, 0, false⟩))
     ∧ (P.det = true → oget (s.die d).l2 (lineKey P.space line) = none → (s.die d).overflow.contains key = false →
       2 ^ 20 ≤ ((s.dropStale d).die d).overflow.length → s.tagCheck P line off a = (s, 6)))

/-- R95: data that returns for a load is written, zero-extended, to its destination in the lanes of its line, the second
register of a pair taking the upper half; while another line is out the load keeps its slot and its destination stays
pending; once every line has returned and no lane has failed, the load leaves its slot and its destination, with the second
register of a pair, is no longer pending; every other register and pending bit of the group is as before.
R107: LDG writes nothing before its last line, and then every lane. R89: poisoned data is a hardware error of cause 1. -/
def Obligations.LoadDataReturns : Prop :=
  ∀ (s : State) (b g uid line : Nat) (a : Access) (r : LineReq) (l1 l2 : List LineReq),
    (oget s.blocks b).isSome = true → (oget (s.blk b).groups g).isSome = true →
    (s.grp b g).loads.find? (fun e => e.uid == uid) = some a → a.reqs = l1 ++ r :: l2 → r.line = line → r.served = true →
    r.returned = false → (∀ q ∈ l1, q.line = line → q.served = true → q.returned = true) → a.fault = 0 → a.conf = 0 →
    let y0 := s.grp b g
    let hi : Bool := a.logsz == 4
    let val (q : LineReq) (L : Nat) : Nat := lineGet q.data (lineOff (a.vaAt L)) a.size
    (a.poisoned r = true → Sys2Proof.Machine.exec (.loadDataReturn b g uid line) s = .next (s.hwError b 1))
    ∧ (a.poisoned r = false → a.dreg + (if hi then 1 else 0) < 32 →
      ∃ y, Sys2Proof.Machine.exec (.loadDataReturn b g uid line) s = .next (s.setGrp b g y)
        ∧ { y with v := y0.v, loads := y0.loads, pendV := y0.pendV } = y0
        ∧ ((∃ q ∈ l1 ++ l2, q.returned = false) → y.pendV = y0.pendV
          ∧ y.loads = y0.loads.map fun e => if e.uid = uid then { e with
              reqs := updFirst (fun q => q.line == line && q.served && !q.returned) (fun q => { q with returned := true }) e.reqs
              wait := e.wait &&& ~~~(r.lanes &&& ~~~(e.fault ||| e.conf)) } else e)
        ∧ ((∀ q ∈ l1 ++ l2, q.returned = true) → y0.ready = [] → y0.record0 = none →
            (∀ e ∈ y0.loads, e.uid ≠ uid → e.seq ≠ a.seq) →
          y.loads = y0.loads.filter (fun e => e.uid != uid)
          ∧ ∀ n, y.pendV.getLsbD n = if n = a.dreg ∨ (hi = true ∧ n = a.dreg + 1) then false else y0.pendV.getLsbD n)
        ∧ (a.kind ≠ 4 → ∀ k L, k < 32 → L < 32 → y.rv k L =
            if r.lanes.getLsbD L ∧ k = a.dreg then BitVec.ofNat 64 (val r L)
            else if r.lanes.getLsbD L ∧ hi = true ∧ k = a.dreg + 1 then BitVec.ofNat 64 (val r L / 2 ^ 64) else y0.rv k L)
        ∧ (a.kind = 4 → (∃ q ∈ l1 ++ l2, q.returned = false) → y.v = y0.v)
        ∧ (a.kind = 4 → (∀ q ∈ l1 ++ l2, q.returned = true) → y0.ready = [] → y0.record0 = none →
            (∀ e ∈ y0.loads, e.uid ≠ uid → e.seq ≠ a.seq) → ∀ q ∈ a.reqs, ∀ k L, k < 32 → L < 32 → q.lanes.getLsbD L = true →
            (∀ p ∈ a.reqs, p.lanes.getLsbD L = true → p = q) → y.rv k L =
              if k = a.dreg then BitVec.ofNat 64 (val q L)
              else if hi = true ∧ k = a.dreg + 1 then BitVec.ofNat 64 (val q L / 2 ^ 64) else y0.rv k L))

/-! ### Stores and atomics -/

/-- R245 to R247: a store outside a capsule body whose active addresses pass the checks takes an entry of the late store
buffer with the address of every active lane and the low bytes of its data register; the entry is then tried at once.
With no active lane it only moves the head run; with a full buffer it parks.
R307: in a capsule body it is a step instead, which its group waits for; it issues once the group's earlier entries, and
the results from before it, are done (log 26 has what it waits for). -/
def Obligations.StoresIssue : Prop :=
  ∀ (i : Instr) (c : IssueCtx) (s : State) (A : Asked), storeRule (issueOf i c s) i = some A → AtIssue i c s →
    let I := issueOf i c s
    (I.act = 0 → Effects i c s Written.nothing)
    ∧ (I.act ≠ 0 → s.passes I A 2 → I.inBody = false →
      (64 ≤ (s.lsb (s.blk c.blk).core).length → Blocks i c s .storeBuffer .reissue)
      ∧ ((s.lsb (s.blk c.blk).core).length < 64 → ∃ a y, Asks A 2 c I s.fresh a ∧ a.poc = false ∧ a.after = 0
          ∧ HeadAt c c.next (c.group s) y
          ∧ Sys2Proof.Machine.exec i s
            = .next (({ (s.looked I A).setGrp c.blk c.grp y with fresh := s.fresh + 1 } : State).enterStore a).markDone))
    ∧ (I.act ≠ 0 → s.passes I A 2 → I.inBody = true → I.capTrap I.act A.va = none →
      (s.releaseOk I = false ∨ s.bodyOut I = true → Blocks i c s .commit .reissue)
      ∧ (s.releaseOk I = true → s.bodyOut I = false → StepsInBody A 2 i c s))

/-- R247, R248, R252: the one lane of a store whose line carries the write mark of a cacheable translation goes into the
block's held copy of the line, and its entry leaves the buffer. The block then reads its stored bytes over what it read
before; no byte of memory, no register and no commit count changes, and of no cached line anything but the way it stands in
(R88). The copy is one that there is, or one that finds a way free in an L2 where no commit is needed first (R253). -/
def Obligations.StoreIsHeld : Prop :=
  ∀ (s : State) (a : Access) (L : Nat) (m : L2Line), L < 32 → a.act = BitVec.twoPow 32 L → a.wait = a.act → a.kind = 2 →
    a.poc = false → a.fault = 0 → a.conf = 0 → a.after = 0 →
    (oget s.blocks a.blk).isSome = true → (oget (s.blk a.blk).groups a.grp).isSome = true →
    (s.gridOf a.blk).determ = false → s.lsb (s.blk a.blk).core = [] → (s.grp a.blk a.grp).loads = [] →
    (s.blk a.blk).commits = [] → (∀ o ∈ oitems s.blocks, ∀ k ∈ o.2.commits, k.id ≠ 0) →
    let line := lineNo (a.vaAt L)
    let d := dieOfCore (s.blk a.blk).core
    let key := lineKey (s.blk a.blk).space line
    (oget (s.blk a.blk).held line).isSome = true
      ∨ ((s.blk a.blk).held.length < 1024 ∧ (s.copiesIn d key).length < 7 ∧ s.roomL2 d key true = (s, some false)) →
    oget (s.die d).l2 key = some m → m.wMark = true → m.unc = false →
    let t := s.enterStore a
    t.lsb (s.blk a.blk).core = []
      ∧ (∀ d, (t.blk a.blk).overlay line d = lineMerge ((s.blk a.blk).overlay line d)
          (linePut (a.dataAt L) (lineOff (a.vaAt L)) a.size) (bytesMask (lineOff (a.vaAt L)) a.size))
      ∧ (∀ n d, n ≠ line → (t.blk a.blk).overlay n d = (s.blk a.blk).overlay n d)
      ∧ (t.blk a.blk).groups = (s.blk a.blk).groups ∧ (t.blk a.blk).count = (s.blk a.blk).count
      ∧ t.mem = s.mem
      ∧ ∀ e, { t.die e with l2 := (s.die e).l2 } = s.die e
        ∧ ∀ k, (oget (t.die e).l2 k).map (fun x => { x with way7 := false })
          = (oget (s.die e).l2 k).map fun x => { x with way7 := false }

/-- R248: a probe of a waiting line is translated for a write at its home and answered. The answer of a good translation
marks the line in the L2 that is to hold the block's copy (R252): its physical address, its R and W marks, SIEVE, and
whether it is uncacheable; the bytes that a line there holds stay. Where copies hold every way of its set the oldest is
committed first (R253). R57 to R61, R64: a home translates by its TLB, else by the walk of the tables from the root, level by
level, which ends in a leaf, as not present or as a walk error; R62: a leaf's frame is checked against the owner table and
given its record; R60, R69, R70: the answer is a fault of translation or permission, or the physical address, a counted
request moving its counter, and the driver is notified in the die's ring.
That a fill of 64 KiB has a record for each of its frames, and an entry that is not valid is not present whatever else it
holds, are the model's (logs 102 and 103). A fault fails every waiting lane, with its cause, of every
store of the core that waits on the line, and no other lane. Then the core's stores are tried again. -/
def Obligations.ProbesTranslate : Prop :=
  (∀ (s : State) (b uid line : Nat) (a : Access), s.entry (s.blk b).core uid = some a →
    (a.waitsOn line ≠ 0 →
      let r := s.translate (s.blk b).space (BitVec.ofNat 64 (line * 128)) 2
      Sys2Proof.Machine.exec (.translateProbe b uid line) s = .next ((r.1.updEntry (s.blk b).core uid fun a =>
        a.updReq line fun q => { q with served := true, x := r.2 }).post (.probeReply b uid line)))
    ∧ (∀ q, a.poc = false → a.req line = some q →
      Sys2Proof.Machine.exec (.probeReply b uid line) s = .next
        (if q.x.code = 0 then
          ((s.markLine (s.partyOf b) line q.x (if a.hint = 2 then 0 else a.hint)).settleStores (s.blk b).core).settleBlock b
        else ((s.failLine (s.blk b).core (s.blk b).space line q.x.code).settleStores (s.blk b).core).settleBlock b)))
  ∧
  (∀ (s : State) (P : Party) (line cls : Nat) (x : Xlate),
     let d := if P.det then ownerOfLine line else dieOfCore P.core
     let key := lineKey P.space line
     let t := s.markL2 d key x cls
     (oget (t.die d).l2 key = none →
       oget (s.die d).l2 key = none ∧ (s.roomL2 d key false).2 = none ∧ s.markLine P line x cls = (t.pressure P line).1)
     ∧ ∀ y, oget (t.die d).l2 key = some y → s.markLine P line x cls = t ∧ y.pa = x.pa / 128 * 128 ∧ y.bitmap = x.bitmap
       ∧ y.rMark = x.entry.getLsbD 3 ∧ y.wMark = x.entry.getLsbD 4 ∧ y.sieve = x.entry.getLsbD 60 ∧ y.unc = inHost x.pa
       ∧ (oget (s.die d).l2 key = none → y.valid = 0 ∧ y.dirty = 0 ∧ y.cls = cls)
       ∧ (∀ o, oget (s.die d).l2 key = some o → y.data = o.data ∧ y.valid = o.valid ∧ y.dirty = o.dirty ∧ y.poison = o.poison
         ∧ (o.valid ≠ 0 → y.cls = o.cls)))
  ∧
  (∀ (s : State) (k space line code : Nat), (s.lsb k).Pairwise (fun e f => e.uid ≠ f.uid) →
     (s.failLine k space line code).lsb k = (s.lsb k).map fun e =>
       if e.kind = 2 ∧ e.poc = false ∧ (s.blk e.blk).space = space ∧ e.waitsOn line ≠ 0 then
         e.failLanes (e.waitsOn line) false code else e)
  ∧
  (∀ (a : Access) (m : Mask) (line code L : Nat), L < 32 →
     ((a.waitsOn line).getLsbD L = true ↔ a.wait.getLsbD L = true ∧ a.fault.getLsbD L = false ∧ a.conf.getLsbD L = false
       ∧ lineNo (a.vaAt L) = line)
     ∧ (a.failLanes m false code).fault = a.fault ||| m ∧ (a.failLanes m false code).conf = a.conf
     ∧ (a.failLanes m false code).wait = a.wait
     ∧ (a.lcause.length = 32 → (a.failLanes m false code).lcause.getD L 0 = if m.getLsbD L then code else a.lcause.getD L 0))
  ∧
  (∀ (s : State) (space : Nat) (va : Word), let h := bits va 51 2
     let root : Word := BitVec.ofNat 64 (s.physRead 0 ((s.die (h % 2)).sdtBase.toNat + 64 * space + 8 * h) 8)
     let good : Prop := bits root 52 12 = 0 ∧ bits root 1 14 = 0 ∧ bits root 15 37 * 2 ^ 15 < 0x3B9ACA0000
     (root.getLsbD 0 = false → s.walk space va = .absent) ∧ (root.getLsbD 0 = true → ¬ good → s.walk space va = .bad 0)
     ∧ (root.getLsbD 0 = true → good → s.walk space va = s.walkFrom (h % 2) h va 3 (bits root 15 37 * 2 ^ 15)))
  ∧
  (∀ (s : State) (d home lvl table : Nat) (va : Word), lvl ≤ 3 →
     let n := tableIndex va lvl
     let e := s.tableEntry d table n
     let pa := bits e 12 40 * 2 ^ 12
     let w := s.walkFrom d home va lvl table
     (e.getLsbD 0 = false → w = .absent)
     ∧ (e.getLsbD 0 = true →
       (goodPointer lvl e → ∀ l, lvl = l + 1 → w = s.walkFrom d home va l pa)
       ∧ (s.goodLeaf d home table n lvl e → e.getLsbD 58 = false →
         w = .leaf lvl pa e (if lvl = 1 then table + 0x1000 + 64 * n else 0))
       ∧ (s.goodLeaf d home table n lvl e → e.getLsbD 58 = true →
         let e0 := s.tableEntry d table (n / 16 * 16)
         w = .leaf 3 (bits e0 12 40 * 2 ^ 12) e0 0)
       ∧ (¬ goodPointer lvl e → ¬ s.goodLeaf d home table n lvl e → w = .bad pa)))
  ∧
  (∀ (s : State) (space : Nat) (va : Word) (need : Nat) (count : Bool), let d := bits va 51 2 % 2
     let t := s.translate space va need count
     let answer (e : TlbEntry) : State × Xlate := s.finishXlate d space va need e count
     let told (pa info : Nat) : State := (s.notify d space va 1 (need &&& 2 != 0) pa info).1
     let cached : Option TlbEntry := (s.die d).tlbFind space va
     (cached = none ↔ ∀ z, z < 4 → oget (s.die d).tlb (tlbKey z space va) = none)
     ∧ (∀ e, cached = some e → t = answer e ∧ ∃ z, z < 4 ∧ oget (s.die d).tlb (tlbKey z space va) = some e)
     ∧ (cached = none → s.walk space va = .absent → t = (s, ⟨4, 0, 0, 0⟩))
     ∧ (∀ f, cached = none → s.walk space va = .bad f → t = (told f 1, ⟨4, 0, 0, 0⟩))
     ∧ (∀ z base entry bitmap, cached = none → s.walk space va = .leaf z base entry bitmap →
       let n := if z = 3 then 16 else 1
       let at_ (k : Nat) : Nat := (s.die d).ownBase.toNat + 8 * ((base + 4096 * k) / 4096)
       let shared : Bool := entry.getLsbD 59 && !entry.getLsbD 4
       let size := if z = 3 then 0 else z
       let vpn (k : Nat) : Nat := bits va 0 53 / leafBytes z * (leafBytes z / 4096) + k
       let clash (k : Nat) : Prop := let old : Word := BitVec.ofNat 64 (s.physRead d (at_ k) 8)
         old.getLsbD 63 = true ∧ ¬ (old.getLsbD 62 = true ∧ shared = true)
           ∧ (bits old 54 8 ≠ space ∨ bits old 52 2 ≠ size ∨ bits old 0 52 ≠ vpn k)
       space < 256 → z < 4 →
       ((∃ k, k < n ∧ clash k) → t = (told base 2, ⟨4, 0, 0, 0⟩))
       ∧ ((∀ k, k < n → ¬ clash k) → t.2 = (answer ⟨z, entry, bitmap⟩).2
         ∧ (t.2.code ≠ 0 → t.1 = (answer ⟨z, entry, bitmap⟩).1)
         ∧ (t.2.code = 0 → oget (t.1.die d).tlb (tlbKey z space va) = some ⟨z, entry, bitmap⟩)))
     ∧ ∀ e, let pa := bits e.entry 12 40 * 2 ^ 12 + bits va 0 53 % leafBytes e.size
       let here := (s.die d).inRange (bits va 51 2) pa
       (here = false → answer e = (told pa 1, ⟨4, 0, 0, 0⟩))
       ∧ (here = true → bits e.entry 3 3 &&& need ≠ need → answer e = (s, ⟨5, pa, e.entry, e.bitmap⟩))
       ∧ (here = true → bits e.entry 3 3 &&& need = need →
         answer e = (if count = true then s.countAccess d space va (need &&& 2 != 0) e.entry pa else s,
           ⟨0, pa, e.entry, e.bitmap⟩)))
  ∧
  (∀ (s : State) (d space : Nat) (va entry : Word) (wr : Bool) (pa : Nat), let at_ := (s.die d).cntBase.toNat + 2 * ((pa - 0x100000000000) / 65536)
     let old := s.physRead d at_ 2
     let n := old % 2 ^ 15 + 1
     let th := (s.die d).actThresh.toNat
     let r := s.notify d space va 0 wr pa th
     let t := s.countAccess d space va wr entry pa
     (bits va 51 2 < 2 ∨ entry.getLsbD 7 = false → t = s)
     ∧ (2 ≤ bits va 51 2 → entry.getLsbD 7 = true →
       (old / 2 ^ 15 = 1 → t = s.physWrite d at_ 2 (2 ^ 15 + min n 0x7FFF))
       ∧ (old / 2 ^ 15 ≠ 1 → n < th → t = s.physWrite d at_ 2 n)
       ∧ (old / 2 ^ 15 ≠ 1 → th ≤ n → r.2 = true → t = r.1.physWrite d at_ 2 (2 ^ 15 + min n 0x7FFF))
       ∧ (old / 2 ^ 15 ≠ 1 → th ≤ n → r.2 = false → t = r.1.physWrite d at_ 2 th)))
  ∧
  ∀ (s : State) (d space : Nat) (va : Word) (kind : Nat) (wr : Bool) (pa info : Nat), space < 256 → kind < 4 → info < 2 ^ 16 →
    let base := (s.die d).ringBase.toNat
    let cap := (s.die d).ringSize.toNat
    let prod := s.ringRead d base 8
    let full : Prop := prod = (s.ringRead d (base + 8) 8 + cap) % 2 ^ 64
    (full → s.notify d space va kind wr pa info
      = (s.ringWrite d (base + 16) 8 (s.ringRead d (base + 16) 8 / 2 * 2 + 1), false))
    ∧ (¬ full → ∃ v : Nat, s.notify d space va kind wr pa info
        = ((s.ringWrite d (base + 64 + 16 * (prod % cap)) 16 v).ringWrite d base 8 ((prod + 1) % 2 ^ 64), true)
      ∧ v / 2 ^ 56 % 2 ^ 8 = space ∧ v / 2 ^ 53 % 2 ^ 3 = 0 ∧ v / 2 ^ 16 % 2 ^ 37 = bits va 16 37 ∧ v / 2 ^ 4 % 2 ^ 12 = 0
      ∧ v / 2 ^ 2 % 2 ^ 2 = kind ∧ v / 2 % 2 = (if wr = true then 1 else 0) ∧ v % 2 = 0
      ∧ v / 2 ^ 80 % 2 ^ 36 = pa / 2 ^ 16 % 2 ^ 36 ∧ v / 2 ^ 64 % 2 ^ 16 = info ∧ v / 2 ^ 116 = 0)

/-- R257, R259: an atomic outside a capsule body whose addresses pass the checks for reading and writing is performed after
a release and a commit of all that the block holds, which raises COMMITS; it takes an entry of the late store buffer, its
destination is pending, and each active lane is performed by itself. It waits while an earlier store is unacknowledged or an
earlier load unread, and parks with a full buffer.
R307: in a capsule body it is a step instead, which its group waits for (log 26 has what that waits for). -/
def Obligations.AtomicsIssue : Prop :=
  ∀ (i : Instr) (c : IssueCtx) (s : State) (A : Asked) (dest : Bool),
    atomicRule (issueOf i c s) i = some (A, dest) → AtIssue i c s →
    let I := issueOf i c s
    (I.act = 0 → Effects i c s Written.nothing)
    ∧ (I.act ≠ 0 → s.passes I A 3 → I.inBody = false →
      (s.releaseOk I = false → Blocks i c s .commit .reissue)
      ∧ (s.releaseOk I = true → (s.lsb (s.blk c.blk).core).length < 64 → ∃ a y, Asks A 3 c I s.fresh a
          ∧ HeadAt c c.next (c.group s) y
          ∧ let u := ({ (s.looked I A).setGrp c.blk c.grp y with fresh := s.fresh + 1 } : State).startCommit c.blk true
            (u.blk c.blk).count = (s.blk c.blk).count + 1
            ∧ Sys2Proof.Machine.exec i s = .next
              (((u.enterStore { a with after := (u.blk c.blk).lastCommit }).updGrp c.blk c.grp fun y =>
                if dest then a.markPending y true else y).postAll
                  ((lanesOf I.act).map fun L => .atomicPerform c.blk s.fresh L)).markDone)
      ∧ (s.releaseOk I = true → 64 ≤ (s.lsb (s.blk c.blk).core).length → Blocks i c s .storeBuffer .reissue))
    ∧ (I.act ≠ 0 → s.passes I A 3 → I.inBody = true → I.capTrap I.act A.va = none →
      (s.releaseOk I = false ∨ s.bodyOut I = true → Blocks i c s .commit .reissue)
      ∧ (s.releaseOk I = true → s.bodyOut I = false → StepsInBody A 3 i c s))

/-- R259, R262: the only open lane of an atomic, with its commit complete and nothing of its group before it on its bytes, is
performed on what its block reads at the point of coherence: the operation's result is merged there, the old value is
written to the destination register of that lane, and the lane is acknowledged.
R260, R261, R336: what a lane of an atomic writes over the old value: the eight operations of ATOM, RED and COMPL on 64
bits, modulo 2^64, the sum of AFADD, of independent operands, with its flags, and the compare or exchange of ACAS at its
width, which writes nothing where the values differ.
That an atomic sees its block's own held bytes is the model's (log 53). -/
def Obligations.AtomicLanePerforms : Prop :=
  (∀ (s : State) (b uid L : Nat) (a : Access),
     let k := (s.blk b).core
     let va := a.vaAt L
     let P := s.partyOf b
     let line := lineNo va
     s.entry k uid = some a → a.uid = uid → a.blk = b → L < 32 → a.wait = BitVec.twoPow 32 L → a.fault = 0 → a.conf = 0 →
     (s.blk b).committed a.after = true → behindStore (s.lsb k) a L = false →
     behindLoad (s.grp b a.grp).loads a line = false → P.det = false → (s.blk b).flawed = false →
     let r := s.translate P.space va 3
     r.2.code = 0 → inHost r.2.pa = false → s.hostCaches (ownerOf va) r.2.pa = false →
     let pa := r.2.pa / 128 * 128
     let mask := bytesMask (lineOff va) a.size
     let v := r.1.viewLine (ownerOfLine line) (lineKey P.space line) pa mask
     v.2 &&& ~~~(r.1.blk b).heldMask line = 0 →
     let old := lineGet ((r.1.blk b).overlay line v.1) (lineOff va) a.size
     let u := match (a.atomicNew old L).1 with
       | some n => (r.1.mergeLine P line pa r.2.bitmap (r.2.entry.getLsbD 60) mask (linePut n (lineOff va) a.size)).dropL1 k
           (lineKey P.space line) mask
       | none => r.1
     let w := if a.hasDest then u.updGrp b a.grp fun y => y.wv a.dreg (BitVec.twoPow 32 L) fun _ => BitVec.ofNat 64 old else u
     Sys2Proof.Machine.exec (.atomicPerform b uid L) s
       = .next ((w.updEntry k uid fun a => a.ackLane L (a.atomicNew old L).2).finishAtomic k uid))
  ∧
  (∀ (a : Access) (old L : Nat),
     let b := a.d0.getD L 0
     let new := a.d1.getD L 0
     let o : Word := BitVec.ofNat 64 old
     ((a.op = 0xA9 ∨ a.op = 0xAC) →
       (a.m = 0 → (a.atomicNew old L).1 = some (o + b).toNat) ∧ (a.m = 1 → (a.atomicNew old L).1 = some (o &&& b).toNat)
       ∧ (a.m = 2 → (a.atomicNew old L).1 = some (o ||| b).toNat) ∧ (a.m = 3 → (a.atomicNew old L).1 = some (o ^^^ b).toNat)
       ∧ (a.m = 4 → ∃ w : Word, (a.atomicNew old L).1 = some w.toNat ∧ w.toInt = min o.toInt b.toInt)
       ∧ (a.m = 5 → ∃ w : Word, (a.atomicNew old L).1 = some w.toNat ∧ w.toInt = max o.toInt b.toInt)
       ∧ (a.m = 6 → (a.atomicNew old L).1 = some (min o.toNat b.toNat))
       ∧ (a.m = 7 → (a.atomicNew old L).1 = some (max o.toNat b.toNat)))
     ∧ (a.op = 0xE1 → (a.atomicNew old L).1 = some (o ||| b).toNat)
     ∧ (a.op = 0xAB → (a.atomicNew old L).1 = some (laneAdd .ind false 0 o b).val.toNat
         ∧ (a.atomicNew old L).2 = (laneAdd .ind false 0 o b).flags)
     ∧ (a.op = 0xAA → (a.logsz = 2 ∨ a.logsz = 3) → old < 2 ^ (8 * a.size) →
       (a.atomicNew old L).1 = if a.m % 2 = 1 ∨ old = b.toNat % 2 ^ (8 * a.size) then some (new.toNat % 2 ^ (8 * a.size))
         else none))

/-! ### Reads and writes that synchronise -/

/-- R263, R279: LDA and WAITM whose addresses pass the checks mark their destination pending and park for a read at the
point of coherence, LDA with a load slot free and its acquire's scope, WAITM with its comparands; no register and no byte of
memory changes yet.
That LDA takes a load slot is read so (log 38). -/
def Obligations.WaitingReadsIssue : Prop :=
  ∀ (d a b : BitVec 5) (w : BitVec 1) (m : BitVec 3) (g : BitVec 4) (c : IssueCtx) (s : State),
    (AtIssue (.lda d a w m g) c s →
      let i : Instr := .lda d a w m g
      let I := issueOf i c s
      let A : Asked := ⟨d, if w = 1 then 3 else 2, 0, fun L => I.G.rv a.toNat L, fun _ => 0, fun _ => 0⟩
      (I.act = 0 → Effects i c s Written.nothing)
      ∧ (I.act ≠ 0 → s.passes I A 1 → 48 ≤ (s.moved c).slotsUsed c.blk c.grp → Blocks i c s .loadSlot .reissue)
      ∧ (I.act ≠ 0 → s.passes I A 1 → (s.moved c).slotsUsed c.blk c.grp < 48 → ∃ e y, Asks A 1 c I s.fresh e
          ∧ HeadAt c c.next (c.group s) y
          ∧ Sys2Proof.Machine.exec i s = .next
            { wordDone (s.looked I A) c
                (({ y with pendV := y.pendV ||| BitVec.twoPow 32 d.toNat } : Group).parkedOn .wait (.lda e m.toNat)
                  s.cycles.toNat) 0 with
              fresh := s.fresh + 1
              agenda := s.agenda ++ [.waitReread c.blk c.grp] }))
    ∧ (AtIssue (.waitm d a b m g) c s →
      let i : Instr := .waitm d a b m g
      let I := issueOf i c s
      let A : Asked := ⟨d, 3, 0, fun L => I.G.rv a.toNat L, fun _ => 0, fun _ => 0⟩
      (I.act = 0 → Effects i c s Written.nothing)
      ∧ (I.act ≠ 0 → s.passes I A 1 → ∃ e y, Asks A 1 c I s.fresh e ∧ e.m = mOf c.word
          ∧ HeadAt c c.next (c.group s) y
          ∧ Sys2Proof.Machine.exec i s = .next
            { wordDone (s.looked I A) c
                (({ y with pendV := y.pendV ||| BitVec.twoPow 32 d.toNat } : Group).parkedOn .wait
                  (.waitm e ((List.range 32).map fun L => I.G.rv b.toNat L)) s.cycles.toNat) 0 with
              fresh := s.fresh + 1
              agenda := s.agenda ++ [.waitReread c.blk c.grp] }))

/-- R263, R279: a reread of a parked WAITM whose lanes all read well either finds every comparison true, and then acquires
and writes the values in every active lane at once and clears the pending bit, or leaves the group parked as it was. LDA
does the first without a comparison. Where several words of a set wait, each reads again.
The comparisons of WAITM (R263), on 64 bits: equal, not equal, unsigned at least and less, signed at least and less.
That all comparisons must hold in one reading is the model's (log 37). -/
def Obligations.WaitingReadsFinish : Prop :=
  (∀ (s : State) (b g : Nat) (e : Access) (cmp : List Word) (reason : ParkReason),
     (oget s.blocks b).isSome = true → (oget (s.blk b).groups g).isSome = true → (s.blk b).life = .resident →
     (s.grp b g).ended = false → e.fault = 0 → e.conf = 0 → e.blk = b → s.readWaits e e.wait = false →
     let r := s.readLanes e e.wait
     r.2.2.poison = false → r.2.2.again = false → r.2.1.fault = 0 → r.2.1.conf = 0 → (s.grp b g).more = [] →
     ((s.grp b g).park = some ⟨reason, .waitm e cmp⟩ →
       let holds := (lanesOf e.wait).all fun L => waitHolds e.m (r.2.1.d0.getD L 0) (cmp.getD L 0)
       Sys2Proof.Machine.exec (.waitReread b g) s = .next (if holds then r.1.finishLda b g r.2.1 4 else r.1))
     ∧ (∀ scope, (s.grp b g).park = some ⟨reason, .lda e scope⟩ →
       Sys2Proof.Machine.exec (.waitReread b g) s
         = .next (r.1.finishLda b g r.2.1 (if r.2.2.host = true ∨ (s.grp b g).posted ≠ [] then 5 else scope)))
     ∧ (let t := s.finishLda b g r.2.1 4
       ∀ k L, k < 32 → L < 32 → r.2.1.dreg < 32 → r.2.1.logsz < 4 →
         (t.grp b g).rv k L = (if k = r.2.1.dreg ∧ r.2.1.act.getLsbD L then r.2.1.d0.getD L 0 else (s.grp b g).rv k L)
           ∧ ∀ n, (t.grp b g).pendV.getLsbD n = if n = r.2.1.dreg then false else (s.grp b g).pendV.getLsbD n))
  ∧
  (∀ (s : State) (b g : Nat), (s.blk b).life = .resident → (s.grp b g).ended = false → (s.grp b g).more ≠ [] →
     Sys2Proof.Machine.exec (.waitReread b g) s
       = .next ((s.grp b g).parks.foldl (fun u p => (u.turnTo b g (· == p)).reread b g) s))
  ∧
  (∀ v x : Word,
     (waitHolds 0 v x = true ↔ v = x) ∧ (waitHolds 1 v x = true ↔ v ≠ x) ∧ (waitHolds 2 v x = true ↔ x.toNat ≤ v.toNat)
       ∧ (waitHolds 3 v x = true ↔ v.toNat < x.toNat) ∧ (waitHolds 4 v x = true ↔ x.toInt ≤ v.toInt)
       ∧ (waitHolds 5 v x = true ↔ v.toInt < x.toInt))

/-- R256, R257, R280, R281: STR, FENCE and COMMIT wait until the group's earlier entries are acknowledged (FENCE also for
its loads, and not for its entries in the acquire form); then a release of more than block scope, and COMMIT, start a
commit of what the block holds and park until it is complete; STR enters its store, which at cluster scope or wider, and
where its group has posted writes to a host window (R272), is performed at the point of coherence after that commit, and
parks until it is. With a full store buffer STR parks.
The park's reason and the count of COMMITS are read as in logs 39 and 40. -/
def Obligations.ReleasesIssue : Prop :=
  ∀ (d a b : BitVec 5) (w : BitVec 1) (m : BitVec 3) (g : BitVec 4) (c : IssueCtx) (s : State),
    (AtIssue (.commit g) c s →
      let I := issueOf (.commit g) c s
      (I.act = 0 → Effects (.commit g) c s Written.nothing)
      ∧ (I.act ≠ 0 → s.releaseOk I = false → Blocks (.commit g) c s .commit .reissue)
      ∧ (I.act ≠ 0 → s.releaseOk I = true → ∃ y, HeadAt c c.next (c.group s) y
          ∧ let u := (s.setGrp c.blk c.grp y).startCommit c.blk false
            Sys2Proof.Machine.exec (.commit g) s
              = .next (u.parkOn c.blk c.grp .commit (.commit (u.blk c.blk).lastCommit false none none)).markDone))
    ∧ (AtIssue (.fence d m g) c s →
      let I := issueOf (.fence d m g) c s
      let scope := if I.G.posted ≠ [] then 5 else if m = 2 ∨ m = 3 then 4 else m.toNat
      let wide := d ≠ 1 ∧ 2 ≤ scope
      (I.act = 0 → Effects (.fence d m g) c s Written.nothing)
      ∧ (I.act ≠ 0 → (s.moved c).loadsOut I = true ∨ (d ≠ 1 ∧ s.releaseOk I = false) →
          Blocks (.fence d m g) c s .commit .reissue)
      ∧ (I.act ≠ 0 → (s.moved c).loadsOut I = false → (d ≠ 1 → s.releaseOk I = true) → ∃ y, HeadAt c c.next (c.group s) y
          ∧ let v := s.setGrp c.blk c.grp y
            let acq := if d = 2 then none else some (if scope = 5 then 5 else m.toNat)
            (wide → Sys2Proof.Machine.exec (.fence d m g) s = .next (((v.startCommit c.blk false).parkOn c.blk c.grp .commit
                (.commit ((v.startCommit c.blk false).blk c.blk).lastCommit (scope == 5) acq (some (I.wpc, I.act)))).markDone))
            ∧ (¬ wide → Sys2Proof.Machine.exec (.fence d m g) s
                = .next (v.parkOn c.blk c.grp .commit (.commit 0 false acq (some (I.wpc, I.act)))).markDone)))
    ∧ (AtIssue (.str w a b m g) c s →
      let i : Instr := .str w a b m g
      let I := issueOf i c s
      let logsz := if w = 1 then 3 else 2
      let A : Asked := ⟨b, logsz, 0, fun L => I.G.rv a.toNat L, fun L => lowBits (8 * 2 ^ logsz) (I.G.rv b.toNat L), fun _ => 0⟩
      (I.act = 0 → Effects i c s Written.nothing)
      ∧ (I.act ≠ 0 → s.passes I A 2 → s.releaseOk I = false → Blocks i c s .commit .reissue)
      ∧ (I.act ≠ 0 → s.passes I A 2 → s.releaseOk I = true → 64 ≤ (s.lsb (s.blk c.blk).core).length →
          Blocks i c s .storeBuffer .reissue)
      ∧ (I.act ≠ 0 → s.passes I A 2 → s.releaseOk I = true → (s.lsb (s.blk c.blk).core).length < 64 →
          ∃ e y, Asks A 2 c I s.fresh e ∧ e.poc = false ∧ e.after = 0 ∧ HeadAt c c.next (c.group s) y
          ∧ let v : State := { (s.looked I A).setGrp c.blk c.grp y with fresh := s.fresh + 1 }
            let u := v.startCommit c.blk true
            (m.toNat < 2 → I.G.posted = [] → Sys2Proof.Machine.exec i s
              = .next ((v.enterStore e).parkOn c.blk c.grp .commit (.entry s.fresh)).markDone)
            ∧ (2 ≤ m.toNat ∨ I.G.posted ≠ [] → Sys2Proof.Machine.exec i s
              = .next ((((u.enterStore { e with poc := true, after := (u.blk c.blk).lastCommit }).parkOn c.blk c.grp
                .commit (.entry s.fresh)).postAll (e.reqs.map fun r => .translateProbe c.blk s.fresh r.line)).markDone))))

/-- R254, R255: a commit takes every held copy of its block, raises COMMITS by 1 if it takes anything or must, and has one
merge due for each line; what the block reads of any line is the same before and after.
R254, R278: a line of a commit that no host caches is merged at its owning die's point of coherence, with the bytes the
commit took and no others, under the marks that its copy brought, and leaves the commit; the issuing core's L1 keeps no stale
copy of its sectors (R269); a line that the host caches is back-invalidated first, and the merge waits, as it does while an
earlier commit of the block has yet to merge its bytes of the line. -/
def Obligations.CommitsTakeHeldCopies : Prop :=
  (∀ (s : State) (b : Nat) (always : Bool), (oget s.blocks b).isSome = true → (s.blk b).commits = [] →
     let x := s.blk b
     let t := s.startCommit b always
     (t.blk b).held = [] ∧ (t.blk b).groups = x.groups
       ∧ (t.blk b).count = (if always = true ∨ x.held ≠ [] then x.count + 1 else x.count)
       ∧ (∀ line d, (t.blk b).overlay line d = x.overlay line d)
       ∧ t.agenda = s.agenda ++ (if x.held = [] then [] else (oitems x.held).map fun h => .commitMerge b s.fresh h.1)
       ∧ t.mem = s.mem)
  ∧
  (∀ (s : State) (b id line : Nat) (k : Commit) (h : Held),
     (s.blk b).commits.find? (fun c => c.id == id) = some k → oget k.lines line = some h →
     let o := ownerOfLine line
     let P := s.partyOf b
     let first : Prop := ∀ c ∈ (s.blk b).commits, c.id < id → oget c.lines line = none
     (¬ first → Sys2Proof.Machine.exec (.commitMerge b id line) s = .next (s.post (.commitMerge b id line)))
     ∧ (first → s.hostCaches o h.pa = true → Sys2Proof.Machine.exec (.commitMerge b id line) s
       = .next ((s.backInvalidate o h.pa).post (.commitMerge b id line)))
     ∧ (first → s.hostCaches o h.pa = false → P.det = false → k.bad = [] → Sys2Proof.Machine.exec (.commitMerge b id line) s
       = .next (((((s.takeHeld b id line).landHeld o (lineKey P.space line) h).mergeLine P line h.pa h.bitmap h.sieve h.mask h.data).mergeL1 P line
           h.mask h.mask).commitDone b id line)))
  ∧
  (∀ (s : State) (d key : Nat) (h : Held) (x : L2Line), oget ((s.landHeld d key h).die d).l2 key = some x →
     (∀ o, oget (s.die d).l2 key = some o → x = { o with cls := x.cls } ∧ (o.valid ≠ 0 → x = o))
     ∧ (oget (s.die d).l2 key = none → x.valid = 0 ∧ x.dirty = 0 ∧ x.pa = h.pa ∧ x.bitmap = h.bitmap ∧ x.rMark = h.rMark
       ∧ x.wMark = true ∧ x.sieve = h.sieve ∧ x.unc = false ∧ x.cls = h.cls))

/-- R254, R268: bytes merged into a line of HBM at its point of coherence are read back there under their mask, from the L2
where the line stands in it and else from below; every other byte of that line, every other line of the L2 and every
other byte of the memory below reads as before. A way of the line's set in the memory-side cache is free.
R68, R82, R87: bytes written below the caches to an address of HBM with no host and no expander there read back at once
through the memory-side cache, a way of whose set is free; every other physical byte reads as before, and the write-back is
due. MSC_WRITEBACK of a line with no dirty bitmap puts its dirty bytes in the memory behind the cache, the line staying there
clean, and changes what no byte reads as. BACK_INVALIDATE_RESPONSE (R278) takes the line from the host; one that the host
has changed is merged first, and with no change nothing else moves. -/
def Obligations.HomeWritesAndWritesBack : Prop :=
  (∀ (s : State) (P : Party) (line pa bitmap : Nat) (mask data need : Line), pa < hbmEnd → pa % 128 = 0 →
     ByteMask mask → ByteMask need →
     let o := ownerOfLine line
     let key := lineKey P.space line
     (∀ x, oget (s.die o).l2 key = some x → x.unc = false) → s.mscFree o (pa / 128) →
     let t := s.mergeLine P line pa bitmap false mask data
     (t.viewLine o key pa need).1 = lineMerge (s.viewLine o key pa need).1 data (mask &&& need)
       ∧ (∀ k, k ≠ key → oget (t.die o).l2 k = oget (s.die o).l2 k)
       ∧ (∀ e q, e < 2 → q < 2 ^ 52 → (e ≠ o ∨ q / 128 ≠ pa / 128) → t.physByte e q = s.physByte e q)
       ∧ (∀ i, i < 128 → bytesMask i 1 &&& mask = 0 → t.physByte o (pa + i) = s.physByte o (pa + i)))
  ∧ (∀ (s : State) (d pa bitmap : Nat) (mask data : Line), d < 2 → pa < hbmEnd → pa % 128 = 0 → ByteMask mask →
    s.mscFree d (pa / 128) →
    let t := s.homeWrite d pa bitmap mask data
    (∀ i, i < 128 → mask.getLsbD (8 * i) = true → t.physByte d (pa + i) = BitVec.ofNat 8 (lineGet data i 1))
      ∧ (∀ e q, e < 2 → q < 2 ^ 52 → (e ≠ d ∨ q / 128 ≠ pa / 128 ∨ mask.getLsbD (8 * (q % 128)) = false) →
        t.physByte e q = s.physByte e q)
      ∧ .mscWriteback d (pa / 128) ∈ t.agenda)
  ∧ (∀ (s : State) (d line : Nat) (x : MscLine), d < 2 → line < 2 ^ 45 → oget (s.die d).msc line = some x → x.bitmap = 0 →
    (s.die d).linkDown (128 * line) = false → x.dirty &&& ~~~x.valid = 0 → ByteMask x.valid →
    ∃ t, Sys2Proof.Machine.exec (.mscWriteback d line) s = .next t ∧ oget (t.die d).msc line = some { x with dirty := 0 }
      ∧ (∀ e q, e < 2 → q < 2 ^ 52 → t.physByte e q = s.physByte e q)
      ∧ ∀ i, i < 128 → x.dirty.getLsbD (8 * i) = true →
        sget 0 t.mem (physKey d (128 * line + i)) = BitVec.ofNat 8 (lineGet x.data i 1))
  ∧ (∀ (s : State) (d line : Nat), (oget (s.die d).hostLines line).bind (·.data) = none →
      ∃ t, Sys2Proof.Machine.exec (.backInvalidateResponse d line) s = .next t
      ∧ oget (t.die d).hostLines line = none ∧ t.mem = s.mem ∧ t.blocks = s.blocks)
  ∧ ∀ (s : State) (d line : Nat) (v : Line), (oget (s.die d).hostLines line).bind (·.data) = some v →
      Sys2Proof.Machine.exec (.backInvalidateResponse d line) s
        = .next ((s.hostMerge d line (BitVec.allOnes 1024) v).updDie d fun x => { x with hostLines := odel x.hostLines line })

/-! ### Parks, deferred faults and cancellation -/

/-- R326: what clears each park, reason by reason: a generation that is over, a count of arrivals, a timeline, a phase, room
or words in a queue, lines present or free, results, entries and commits complete, a team that has formed. The first of a
group's parks whose reason has cleared ends, the others staying: a word goes on, with the acquires that R137, R281 and R300
give; a .sys FENCE makes its flushing reads first (R277); GBAR arrives, CAPE acts on its record, LAUNCH submits its
descriptor, CTXSV writes its image and TFENCE checks its flags. A group none of whose parks has cleared stays as it is. A
group that leaves its last park is ready, a handler's parks having been set aside for it.
That the reasons of one set's words end one by one is the model's (logs 80 and 81), as is when a flushing park ends and that
it acquires (log 93). -/
def Obligations.ParksEnd : Prop :=
  (∀ (s : State) (b g : Nat),
     (∀ r w, s.awaitCleared b g r w = true ↔ Cleared s b g r w)
     ∧ (s.parkCleared b g = true ↔ (s.blk b).life = .resident ∧ (s.grp b g).ended = false
         ∧ ∃ p ∈ (s.grp b g).parks, Cleared s b g p.reason p.what)
     ∧ (s.parkCleared b g = false → Sys2Proof.Machine.exec (.groupUnpark b g) s = .next s)
     ∧ (∀ l p m, (oget s.blocks b).isSome = true → (oget (s.blk b).groups g).isSome = true → (s.blk b).life = .resident →
         (s.grp b g).ended = false → (s.grp b g).park.isSome = true → (s.grp b g).parks = l ++ p :: m → (∀ q ∈ l, ¬ Cleared s b g q.reason q.what) →
         Cleared s b g p.reason p.what →
         Sys2Proof.Machine.exec (.groupUnpark b g) s = .next ((if l = [] then s
           else s.setGrp b g ((s.grp b g).withParks (p :: (m ++ l)))).endPark b g p.what)))
  ∧
  (∀ (s : State) (b g : Nat), (oget s.blocks b).isSome = true → (oget (s.blk b).groups g).isSome = true →
     let y := s.grp b g
     let ends (w : Await) (t : State) : Prop := s.endPark b g w = t
     (∀ w, goesOn w = true → ends w (s.unpark b g))
     ∧ (∀ run next, let u := s.unpark b g
         let z := u.grp b g
         let both := z.flags &&& z.flagen
         ends (.tfence run next) (if z.level = false ∧ both ≠ 0 then u.takeTrap b g
           ⟨5, BitVec.ofNat 96 (run.toNat + 2 ^ 32 + 2 ^ 40 * both.toNat + 2 ^ 48 * z.flags.toNat), next, run, [], none⟩
           else u))
     ∧ (∀ id acq fence, ends (.commit id false acq fence) ((s.acquired b acq).setAwait b g .nothing)
         ∧ ends (.commit id true acq fence) ((s.flushPosted b g).setAwait b g (.flush acq))
         ∧ ends (.flush acq) ((s.acquired b acq).setAwait b g .nothing))
     ∧ (∀ t n, ends (.timeline t n) ((s.acquire b 4).unpark b g) ∧ ends (.phase n) ((s.acquire b 4).unpark b g))
     ∧ (∀ id, ends (.gbar id) ((s.setGrp b g (y.withParks y.more)).arrivePhase b g))
     ∧ (∀ id, (s.capHost (s.blk b).space y.caprec = none → ends (.cape id) ((s.setAwait b g .nothing).endCapsule b g))
         ∧ ∀ h, s.capHost (s.blk b).space y.caprec = some h → ends (.cape id) (s.backInvalidate h.1 h.2))
     ∧ (∀ id va u, (s.readTrapArea b g = (u, none) → ends (.image id va) (u.hwError b 7))
         ∧ ∀ l v, s.readTrapArea b g = (u, some l) →
           u.writeSegs (u.partyOf b) va.toNat ((u.grp b g).programImage l) = (v, 0) →
           ends (.image id va) (v.setAwait b g .nothing))
     ∧ (∀ a base bit, ends (.waitc a base bit) ((s.setGrp b g { y with waitOk := true }).unpark b g))
     ∧ (∀ a lanes u r, s.readDesc b (a.vaAt 0) = (u, r) → r.code = 0 → r.poison = false →
         let q := u.submit b g (descOf (descWords r.val))
         ends (.launch a lanes) ((q.1.updGrp b g fun y =>
           a.markPending (y.wv a.dreg lanes fun _ => q.2) false).setAwait b g .nothing))
     ∧ (∀ d l, s.teamMembers b d = some l → ∀ m ∈ l, let t := s.endPark b g (.team d)
         (t.mxOf m).team = d ∧ ∀ k, ∀ p ∈ (t.grp m k).parks, p.what ≠ .team d)
     ∧ (∀ p l, y.more = p :: l → s.unpark b g = (s.setGrp b g (y.withParks (p :: l))).postOnce (.waitReread b g))
     ∧ (∀ p, y.more = [] → y.level = false → y.kept = some p → s.unpark b g
         = (s.setGrp b g { y with park := y.kept, more := y.keptMore, kept := none, keptMore := [] }).postOnce
           (.waitReread b g))
     ∧ (y.more = [] → (y.level = true ∨ y.kept = none) →
         let u := s.setGrp b g { y with park := none, switchDue := false }
         s.unpark b g = if y.switchDue = true ∧ u.waiting b g = true then u.parkOn b g .switch .results else u)
     ∧ (∀ w, s.setAwait b g w = s.setGrp b g { y with park := y.park.map fun p => { p with what := w } }))
  ∧
  (∀ (y : Group) (r : ParkReason) (w : Await) (now : Nat), let z := y.parkedOn r w now
     z.parks = y.parks ++ [⟨r, w⟩] ∧ { z with park := y.park, more := y.more, parkedAt := y.parkedAt } = y ∧ z.parkedAt = now)

/-- R100, R351, R354: the first ready fault of a group at program level is delivered at its boundary as a trap of its group
and detail, with EPC and EMASK from the head run and the fault as record 0; while a set of the group is in flight (R309), or
its block is being saved, it waits; at handler level the program's faults wait, and a fault of the handler's own ends the
block failed (R355). -/
def Obligations.DeferredFaultsDeliver : Prop :=
  ∀ (s : State) (b g : Nat) (f : DefFault) (rest : List DefFault), (s.blk b).life = .resident →
    (s.grp b g).ended = false → (s.grp b g).trapPend = none → (s.grp b g).ready = f :: rest →
    ((s.grp b g).level = false → (∀ p ∈ (s.grp b g).parks, p.what.inFlight = false) → (s.blk b).saving = false →
      let u := s.setGrp b g ({ s.grp b g with ready := rest } : Group).settle
      let h := (u.grp b g).headRun
      Sys2Proof.Machine.exec (.deferredFaultDelivery b g) s = .next (u.takeTrap b g ⟨f.group, f.detail, h.2, h.1, [], some f⟩))
    ∧ ((s.grp b g).level = false → (∃ p ∈ (s.grp b g).parks, p.what.inFlight = true) ∨ (s.blk b).saving = true →
      Sys2Proof.Machine.exec (.deferredFaultDelivery b g) s = .next (s.postOnce (.deferredFaultDelivery b g)))
    ∧ ((s.grp b g).level = true → (∀ x ∈ f :: rest, ∀ a ∈ x.acc, a.handler = false) →
      Sys2Proof.Machine.exec (.deferredFaultDelivery b g) s = .next s)
    ∧ (∀ l x m a, (s.grp b g).level = true → f :: rest = l ++ x :: m → (∀ z ∈ l, ∀ a ∈ z.acc, a.handler = false) →
      x.acc = some a → a.handler = true →
      Sys2Proof.Machine.exec (.deferredFaultDelivery b g) s = .next (s.endBlock b .failed x.group))

/-- R334: a cancelled grid with CTRAP traps each of its groups once, in group 0x0A with cause 1 and the low bits of GRIDID; a
group with a deferred fault to deliver, or a set in flight, waits for its boundary; a group at handler level, one already
trapped, and one of another grid are left as they are. -/
def Obligations.CancellationTraps : Prop :=
  ∀ (s : State) (b g : Nat), (oget s.blocks b).isSome = true → (oget (s.blk b).groups g).isSome = true →
    let y := s.grp b g
    ((s.blk b).life = .resident → (s.blk b).job = none → y.ended = false → y.level = false → y.cancelTaken = false →
      (s.gridOf b).cancelled = true → (s.gridOf b).ctrap = true → y.trapPend = none →
      let u := s.setGrp b g ({ y with cancelTaken := true } : Group).settle
      let h := (u.grp b g).headRun
      (y.ready = [] → (∀ p ∈ y.parks, p.what.inFlight = false) → (s.blk b).saving = false →
        Sys2Proof.Machine.exec (.cancellationTrap b g) s = .next (u.takeTrap b g
          ⟨0x0A, BitVec.ofNat 96 (h.1.toNat + 2 ^ 32 + 2 ^ 40 * ((s.blk b).grid % 2 ^ 52)), h.2, h.1, [], none⟩))
      ∧ (y.ready ≠ [] ∨ (∃ p ∈ y.parks, p.what.inFlight = true) ∨ (s.blk b).saving = true →
        Sys2Proof.Machine.exec (.cancellationTrap b g) s = .next (s.postOnce (.cancellationTrap b g))))
    ∧ (y.level = true ∨ y.cancelTaken = true ∨ (s.gridOf b).cancelled = false ∨ (s.gridOf b).ctrap = false →
      Sys2Proof.Machine.exec (.cancellationTrap b g) s = .next s)

/-! ### Barriers, phases and mask waits -/

/-- R257, R297, R298: BAR and BARA arrive at their barrier after a release; an arrival that makes ARR reach the number of
groups that have not ended completes the generation and zeroes ARR; BAR parks until its generation is over, BARA goes on,
BARC waits for a count without arriving. Without an active lane none does anything. -/
def Obligations.BlockBarriers : Prop :=
  ∀ (a : BitVec 5) (n g : BitVec 4) (c : IssueCtx) (s : State),
    let x := s.blk c.blk
    let k := n.toNat
    let arrived (x : Block) : Block := { x with
      bars := sset Barrier.zero x.bars k (if x.expect ≤ (x.bar k).arr + 1 then ⟨0, (x.bar k).gen + 1⟩
        else ⟨(x.bar k).arr + 1, (x.bar k).gen⟩) }
    (AtIssue (.bar n g) c s →
      let I := issueOf (.bar n g) c s
      (I.act = 0 → Effects (.bar n g) c s Written.nothing)
      ∧ (I.act ≠ 0 → s.releaseOk I = false → Blocks (.bar n g) c s .commit .reissue)
      ∧ (I.act ≠ 0 → s.releaseOk I = true → ∃ y, HeadAt c c.next (c.group s) y ∧ Sys2Proof.Machine.exec (.bar n g) s
          = .next ((((s.setGrp c.blk c.grp y).updBlk c.blk arrived).parkOn c.blk c.grp .wait
              (.barrier k (x.bar k).gen)).markDone)))
    ∧ (AtIssue (.bara n g) c s →
      let I := issueOf (.bara n g) c s
      (I.act = 0 → Effects (.bara n g) c s Written.nothing)
      ∧ (I.act ≠ 0 → s.releaseOk I = false → Blocks (.bara n g) c s .commit .reissue)
      ∧ (I.act ≠ 0 → s.releaseOk I = true → ∃ y, HeadAt c c.next (c.group s) y ∧ Sys2Proof.Machine.exec (.bara n g) s
          = .next ((s.setGrp c.blk c.grp y).updBlk c.blk arrived).markDone))
    ∧ (AtIssue (.barc a n g) c s →
      let I := issueOf (.barc a n g) c s
      (I.act = 0 → Effects (.barc a n g) c s Written.nothing)
      ∧ (I.act ≠ 0 → ∃ y, HeadAt c c.next (c.group s) y ∧ Sys2Proof.Machine.exec (.barc a n g) s
          = .next (wordDone s c (y.parkedOn .wait
            (.arrivals k (I.G.rv a.toNat (lowest I.act)).toNat (x.bar k).gen) s.cycles.toNat) 0)))

/-- R267, R300: GBAR commits what its block holds and then counts its group as arrived at the grid's phase, where it waits;
the phase of a grid moves on exactly when every block has arrived or ended, a block whose groups have all ended counting as
arrived, and one of them at least has a group that has arrived; its saved blocks may then come back.
R321: in deterministic mode a resident block then makes way for a lower one of its logical core.
That one block at least must really have arrived is the model's reading (log 77). -/
def Obligations.GridBarrier : Prop :=
  (∀ (g : BitVec 4) (c : IssueCtx) (s : State), AtIssue (.gbar g) c s →
    let I := issueOf (.gbar g) c s
    (I.act = 0 → Effects (.gbar g) c s Written.nothing)
    ∧ (I.act ≠ 0 → s.releaseOk I = false → Blocks (.gbar g) c s .commit .reissue)
    ∧ (I.act ≠ 0 → s.releaseOk I = true → ∃ y, HeadAt c c.next (c.group s) y
        ∧ let u := (s.setGrp c.blk c.grp y).startCommit c.blk false
          Sys2Proof.Machine.exec (.gbar g) s = .next
            (if (u.blk c.blk).commits = [] then u.arrivePhase c.blk c.grp
              else u.parkOn c.blk c.grp .wait (.gbar (u.blk c.blk).lastCommit)).markDone))
  ∧ ∀ (s : State) (n : Nat), (oget s.grids n).isSome = true →
    let y := s.grid n
    let here := (oitems s.blocks).filter fun b =>
      b.2.grid == n && b.2.job.isNone && b.2.life != .ended && b.2.life != .waiting
        && (oitems b.2.groups).all fun g => g.2.ended || decide (y.phase < g.2.phases)
    let moves : Prop := (∃ b ∈ here, b.2.expect ≠ 0) ∧ here.length + y.ended.length = y.blocks
    ((s.settlePhase n).grid n).phase = (if moves then y.phase + 1 else y.phase)
      ∧ (moves → ∀ b ∈ here, b.2.life = .saved → .blockStart n b.2.lcore ∈ (s.settlePhase n).agenda)
      ∧ (moves → y.determ = true → ∀ b ∈ here, b.2.life = .resident →
          (∃ a ∈ here, a.2.lcore = b.2.lcore ∧ a.2.id < b.2.id) → .contextSave b.1 ∈ (s.settlePhase n).agenda)
      ∧ (s.settlePhase n).blocks = s.blocks ∧ (s.settlePhase n).mem = s.mem

/-- R301: MASKW reads the mask-ready word of its lowest active lane: it parks with its predicate pending and its timeout
counted from issue. A reread that finds the target reached acquires and sets the predicate in every active lane; one that
does not, once the timeout has passed, clears it, so that a timeout of 0 reads the word once. In deterministic mode only the
endless timeout is permitted (R342); the trap of any other has the size and direction of the read that MASKW would make
(log 51). -/
def Obligations.MaskWaits : Prop :=
  (∀ (d a b : BitVec 5) (g : BitVec 4) (c : IssueCtx) (s : State), AtIssue (.maskw d a b g) c s →
    let i : Instr := .maskw d a b g
    let I := issueOf i c s
    let L := lowest I.act
    let va := I.G.rv a.toNat L
    let tmo := (I.G.rv b.toNat L).toNat / 2 ^ 32
    let k := (s.blk c.blk).core
    let space := (s.blk c.blk).space
    (I.act = 0 → Effects i c s Written.nothing)
    ∧ (I.act ≠ 0 → (s.gridOf c.blk).determ = true → tmo ≠ 0xFFFFFFFF →
        Traps i c s (c.trapOf 8 (I.act.toNat + 2 ^ 32 + 2 ^ 38) []))
    ∧ (I.act ≠ 0 → (s.gridOf c.blk).determ = false ∨ tmo = 0xFFFFFFFF → s.checkOf c.blk va 3 1 = 0 → ∃ e y,
        HeadAt c c.next (c.group s) y ∧ e.wait = BitVec.twoPow 32 L ∧ e.act = I.act ∧ e.uid = s.fresh ∧ e.vaAt L = va
        ∧ Sys2Proof.Machine.exec i s = .next
          { wordDone (s.lookUp k space (BitVec.twoPow 32 L) fun _ => va) c
              (({ y with pendP := if d.toNat = 127 then y.pendP else y.pendP ||| BitVec.twoPow 128 d.toNat } : Group).parkedOn
                .wait (.maskw e d.toNat ((I.G.rv b.toNat L).toNat % 2 ^ 32)
                  (if tmo = 0xFFFFFFFF then none else some (tmo, s.cycles.toNat + tmo))) s.cycles.toNat) 0 with
            fresh := s.fresh + 1
            agenda := s.agenda ++ [.waitReread c.blk c.grp] }))
  ∧ ∀ (s : State) (b g p target : Nat) (e : Access) (due : Option (Nat × Nat)) (reason : ParkReason),
    (oget s.blocks b).isSome = true → (oget (s.blk b).groups g).isSome = true → (s.blk b).life = .resident →
    (s.grp b g).ended = false → (s.grp b g).park = some ⟨reason, .maskw e p target due⟩ → (s.grp b g).more = [] →
    e.fault = 0 → e.conf = 0 → s.readWaits e e.wait = false →
    let r := s.readLanes e e.wait
    r.2.2.poison = false → r.2.2.again = false → r.2.1.fault = 0 → r.2.1.conf = 0 →
    let met := target ≤ (r.2.1.d0.getD (lowest e.wait) 0).toNat
    let late := ∃ n, due = some n ∧ n.2 ≤ s.cycles.toNat
    (met → Sys2Proof.Machine.exec (.waitReread b g) s = .next (r.1.finishMaskw b g e p true))
    ∧ (¬ met → late → Sys2Proof.Machine.exec (.waitReread b g) s = .next (r.1.finishMaskw b g e p false))
    ∧ (¬ met → ¬ late → Sys2Proof.Machine.exec (.waitReread b g) s = .next r.1)
    ∧ (late → Sys2Proof.Machine.exec (.maskwTimeout b g) s = .next (r.1.finishMaskw b g e p (decide met)))
    ∧ (¬ late → Sys2Proof.Machine.exec (.maskwTimeout b g) s = .next s)
    ∧ (∀ ok n L, L < 32 → ((s.finishMaskw b g e p ok).grp b g).pbit n L
        = if n = p ∧ n ≠ 127 ∧ e.act.getLsbD L then ok else (s.grp b g).pbit n L)

/-! ### The Bed -/

/-- R114 to R122: LDS, STS, LDSX and STSX check each active lane's address in the order of R119 and take a precise fault in
cause group 4 that names the lanes of a misaligned, outside or plotless address; with none, one that names the lanes of an
expired line that cannot be refetched and that no MDRN claims; an access to a line that MDRN claims waits for it (R234); an
access to an expired line that can be refetched starts its refetch and parks, and one to an absent line parks; any other
load leaves the bytes of the Bed to be written to its register or pair, and any other store writes its bytes, the highest
lane's byte standing, and leaves every line it writes with age 0 and no source record. No byte of memory changes.
That a line expires only while it is present, so that an access to an absent line waits whatever its age, is the model's
reading (log 42). -/
def Obligations.BedAccesses : Prop :=
  ∀ (i : Instr) (c : IssueCtx) (s : State) (wr : Bool) (t : BitVec 5) (lz : Nat) (ba : Nat → Word),
    bedRule (issueOf i c s) i = some (wr, t, lz, ba) → AtIssue i c s →
    let I := issueOf i c s
    let x := s.blk c.blk
    let code (L : Nat) : Nat := x.bedCheckOf (ba L) (2 ^ lz)
    let bad := maskOf fun L => I.act.getLsbD L && code L != 0 && code L != 4
    let line (L : Nat) : Nat := (ba L).toNat / 256
    let stale := maskOf fun L => I.act.getLsbD L && code L == 4 && !(s.claimed c.blk).contains (line L)
    let touched (k : Nat) : Prop := ∃ L, L < 32 ∧ I.act.getLsbD L = true ∧ line L = k
    let covers (L a : Nat) : Prop := I.act.getLsbD L = true ∧ (ba L).toNat ≤ a ∧ a < (ba L).toNat + 2 ^ lz
    (I.act = 0 → Effects i c s Written.nothing)
    ∧ (∀ cause, bad ≠ 0 → (∃ L ∈ lanesOf bad, code L = cause) → (∀ L ∈ lanesOf bad, cause ≤ code L) →
        Traps i c s (c.trapOf 4 (accessDetail bad cause lz wr (ba (lowest bad))) ((lanesOf bad).map fun L => (L, code L))))
    ∧ (bad = 0 → stale ≠ 0 →
        Traps i c s (c.trapOf 4 (accessDetail stale 4 lz wr (ba (lowest stale))) ((lanesOf stale).map fun L => (L, 4))))
    ∧ (bad = 0 → stale = 0 → (∃ k ∈ s.claimed c.blk, touched k) →
        ∃ l, Blocks i c s .matrix (.lines l) ∧ ∀ k, k ∈ l ↔ touched k ∧ k ∈ s.claimed c.blk)
    ∧ (bad = 0 → (∀ k, touched k → k ∉ s.claimed c.blk ∧ x.expired k = false) → (∃ k, touched k ∧ (x.bedLine k).absent = true) →
        ∃ l, Blocks i c s .bedAbsence (.lines l) ∧ ∀ k, k ∈ l ↔ touched k ∧ (x.bedLine k).absent = true)
    ∧ (∀ L src, L < 32 → I.act = BitVec.twoPow 32 L → bad = 0 → line L ∉ s.claimed c.blk → x.expired (line L) = true →
        x.refetchFrom (line L) = some src → ∃ y, HeadAt c c.pc (c.group s) y
          ∧ Sys2Proof.Machine.exec i s = .next { (s.refetch c.blk c.grp c.wpc c.word (line L)).setGrp c.blk c.grp
              (y.parkedOn .bedAbsence (.lines [line L]) s.cycles.toNat) with cur := some { c with res := .blocked } })
    ∧ (I.act ≠ 0 → bad = 0 → stale = 0 → (∀ L, L < 32 → I.act.getLsbD L = true → s.lineReady c.blk (line L)) →
      (wr = false → ∃ y, HeadAt c c.next (c.group s) y ∧
        let v (L : Nat) : Nat := if I.act.getLsbD L then x.bedRead (ba L).toNat (2 ^ lz) else 0
        let o : VarOut := ⟨s.fresh, s.fresh, .v, t.toNat, I.act, perLane fun L => BitVec.ofNat 64 (v L),
          if lz = 4 then perLane fun L => BitVec.ofNat 64 (v L / 2 ^ 64) else [], 0, 0, 0⟩
        Sys2Proof.Machine.exec i s = .next { wordDone s c { y with
              outs := y.outs ++ [o]
              pendV := y.pendV ||| BitVec.twoPow 32 t.toNat ||| (if lz = 4 then BitVec.twoPow 32 (t.toNat + 1) else 0) } 0 with
            fresh := s.fresh + 1
            agenda := s.agenda ++ [.variableLatencyResultWrite c.blk c.grp s.fresh] })
      ∧ (wr = true → ∃ x' y, HeadAt c c.next (c.group s) y
        ∧ Sys2Proof.Machine.exec i s = .next (wordDone (s.setBlk c.blk x') c y 0)
        ∧ { x' with bed := x.bed, bedMeta := x.bedMeta } = x
        ∧ (∀ a, (∀ L, ¬ covers L a) → sget 0 x'.bed a = sget 0 x.bed a)
        ∧ (∀ L a, L < 32 → covers L a → (∀ K, L < K → ¬ covers K a) →
            sget 0 x'.bed a = BitVec.ofNat 8 (storedBytes I t lz L / 256 ^ (a - (ba L).toNat)))
        ∧ (∀ L, L < 32 → I.act.getLsbD L = true → x'.bedLine (line L) = ⟨0, false, none⟩)
        ∧ (∀ k, (∀ L, L < 32 → I.act.getLsbD L = true → line L ≠ k) → x'.bedLine k = x.bedLine k)))

/-- R111, R112, R118, R123 to R126: PLOT puts a plot of zeros in the lowest free slot at the lowest line where it fits and
leaves its handle to be written, or all ones where there is no slot or no room; UNPLOT frees the lines of a valid handle,
once no MDRN claims one (R234) and no copy touches one; RENEW sets the age of its present lines that are not expired to 0;
an operand out of range or an invalid handle takes cause 5; PRES leaves, for each active lane, whether its address is readable.
The detail of an invalid operand is the model's choice (log 94), as is that a handle is the whole word (log 104). -/
def Obligations.BedPlots : Prop :=
  ∀ (c : IssueCtx) (s : State),
    let x := s.blk c.blk
    (∀ (d a b : BitVec 5) (r : BitVec 1) (g : BitVec 4), let i : Instr := .plot d a b r g
      AtIssue i c s →
      let I := issueOf i c s
      let n := (I.G.rv a.toNat (lowest I.act)).toNat
      let life := (I.G.rv b.toNat (lowest I.act)).toNat
      (I.act = 0 → Effects i c s Written.nothing)
      ∧ (I.act ≠ 0 → (n = 0 ∨ 8192 < n) → Traps i c s (c.trapOf 4 (plotDetail I.act (I.G.rv a.toNat (lowest I.act)))
          [(lowest I.act, 5)]))
      ∧ (I.act ≠ 0 → 1 ≤ n → n ≤ 8192 → (life = 0 ∨ 50 < life) →
          Traps i c s (c.trapOf 4 (plotDetail I.act (I.G.rv b.toNat (lowest I.act))) [(lowest I.act, 5)]))
      ∧ (I.act ≠ 0 → 1 ≤ n → n ≤ 8192 → 1 ≤ life → life ≤ 50 →
        (∀ k l, k < 64 → oget x.plots k = none → (∀ j, j < k → (oget x.plots j).isSome = true) → x.fitsAt n l →
          (∀ m, m < l → ¬ x.fitsAt n m) →
          ∃ x' y, Sys2Proof.Machine.exec i s = .next (resultAwaited (s.setBlk c.blk x') c y 0)
            ∧ LinesCleared l n x x' ∧ x'.plots = oset x.plots k ⟨l, n, life, r == 1⟩
            ∧ (Awaited.lanes I d 0 fun _ => (BitVec.ofNat 64 (n * 2 ^ 50 + k * 2 ^ 32 + l * 256), 0)).Holds s.fresh c I.act
                (c.group s) y)
        ∧ (((∀ j, j < 64 → (oget x.plots j).isSome = true) ∨ ∀ l, ¬ x.fitsAt n l) →
          ∃ y, Sys2Proof.Machine.exec i s = .next (resultAwaited s c y 0)
            ∧ (Awaited.lanes I d 0 fun _ => (BitVec.allOnes 64, 0)).Holds s.fresh c I.act (c.group s) y)))
    ∧ (∀ (a : BitVec 5) (g : BitVec 4), let i : Instr := .unplot a g
      AtIssue i c s →
      let I := issueOf i c s
      let h := I.G.rv a.toNat (lowest I.act)
      (I.act = 0 → Effects i c s Written.nothing)
      ∧ (I.act ≠ 0 → x.plotOf h = none → Traps i c s (c.trapOf 4 (plotDetail I.act h) [(lowest I.act, 5)]))
      ∧ (∀ k p, I.act ≠ 0 → x.plotOf h = some (k, p) → (∃ l ∈ s.claimed c.blk, p.base ≤ l ∧ l < p.base + p.lines) →
        ∃ l, Blocks i c s .matrix (.lines l) ∧ ∀ n, n ∈ l ↔ n ∈ s.claimed c.blk ∧ p.base ≤ n ∧ n < p.base + p.lines)
      ∧ (∀ k p, I.act ≠ 0 → x.plotOf h = some (k, p) → (∀ l ∈ s.claimed c.blk, l < p.base ∨ p.base + p.lines ≤ l) →
        (s.plotCopies c.blk p.base p.lines = true → Blocks i c s .plotCopies (.plot p.base p.lines))
        ∧ (s.plotCopies c.blk p.base p.lines = false → ∃ x' y, HeadAt c c.next (c.group s) y
            ∧ Sys2Proof.Machine.exec i s = .next (wordDone (s.setBlk c.blk x') c y 0)
            ∧ LinesCleared p.base p.lines x x' ∧ oget x'.plots k = none ∧ ∀ j, j ≠ k → oget x'.plots j = oget x.plots j)))
    ∧ (∀ (a : BitVec 5) (g : BitVec 4), let i : Instr := .renew a g
      AtIssue i c s →
      let I := issueOf i c s
      let h := I.G.rv a.toNat (lowest I.act)
      (I.act = 0 → Effects i c s Written.nothing)
      ∧ (I.act ≠ 0 → x.plotOf h = none → Traps i c s (c.trapOf 4 (plotDetail I.act h) [(lowest I.act, 5)]))
      ∧ (∀ k p, I.act ≠ 0 → x.plotOf h = some (k, p) → ∃ x' y, HeadAt c c.next (c.group s) y
          ∧ Sys2Proof.Machine.exec i s = .next (wordDone (s.setBlk c.blk x') c y 0) ∧ { x' with bedMeta := x.bedMeta } = x
          ∧ ∀ l, x'.bedLine l = if p.base ≤ l ∧ l < p.base + p.lines ∧ (x.bedLine l).absent = false ∧ x.expired l = false
              then { x.bedLine l with age := 0 } else x.bedLine l))
    ∧ (∀ (p : BitVec 7) (a : BitVec 5), let i : Instr := .pres p a
      AtIssue i c s →
      let I := issueOf i c s
      (I.act = 0 → Effects i c s Written.nothing)
      ∧ (I.act ≠ 0 → ∃ y m, HeadAt c c.next (c.group s) y
          ∧ Sys2Proof.Machine.exec i s = .next { wordDone s c { y with
                outs := y.outs ++ [⟨s.fresh, s.fresh, .p, p.toNat, I.act, [], [], m, 0, 0⟩]
                pendP := if p = 127 then y.pendP else y.pendP ||| BitVec.twoPow 128 p.toNat } 0 with
              fresh := s.fresh + 1
              agenda := s.agenda ++ [.variableLatencyResultWrite c.blk c.grp s.fresh] }
          ∧ ∀ L, L < 32 → m.getLsbD L = let v := I.G.rv a.toNat L
              decide (v.toNat < 256 * x.bedLines) && (x.plotAt (v.toNat / 256)).isSome
                && !(x.bedLine (v.toNat / 256)).absent && !x.expired (v.toNat / 256)))

/-- R114 to R117: a tick of a core's fade clock counts it and ages each line of a live plot of a block that is resident there
and has issued since its restore, saturating at 63; an expired line keeps its bytes, until it has been held past the
retention that R114 guarantees, 50 ticks, from when on they are open; a refetch makes its line absent
and gives the copy engine 256 bytes from the source record to it; a line of a copy lands with the words that the copy
brought, present with age 0 and its source record, or failed, and the last one completes the copy.
The words of such a line that a copy did not bring are open as well (log 43). -/
def Obligations.BedMoments : Prop :=
  ∀ s : State,
    (∀ core, Sys2Proof.Machine.exec (.fadeClockTick core) s = .next
      (((oitems s.blocks).filter fun b => b.2.core == core && b.2.life == .resident && b.2.job.isNone && !b.2.paused).foldl
        (fun s b => s.tickBlock b.1) (s.updCore core fun k => { k with fade := k.fade + 1 })))
    ∧ (∀ b l, (oget s.blocks b).isSome = true →
        let m := (s.blk b).bedLine l
        ((s.blk b).liveLines.count l = 1 → ((s.tickBlock b).blk b).bedLine l = { m with age := min 63 (m.age + 1) })
        ∧ (l ∉ (s.blk b).liveLines → ((s.tickBlock b).blk b).bedLine l = m))
    ∧ (∀ b line, (oget s.blocks b).isSome = true → let x := s.blk b
        let lost : Prop := x.expired line = true ∧ 50 ≤ (x.bedLine line).age
        (¬ lost → Sys2Proof.Machine.exec (.lineExpiry b line) s = .next s)
        ∧ (lost → ∃ x', Sys2Proof.Machine.exec (.lineExpiry b line) s = .next (({ s with free := s.free + 32 } : State).setBlk b x')
          ∧ { x' with bed := x.bed } = x ∧ ∀ a, a / 256 ≠ line → sget 0 x'.bed a = sget 0 x.bed a))
    ∧ (∀ b g pc w line src, (oget s.blocks b).isSome = true → (s.blk b).refetchFrom line = some src →
        let t := s.refetch b g pc w line
        ((t.blk b).bedLine line).absent = true ∧ t.mem = s.mem ∧ t.agenda = s.agenda ++ [.copyLinear s.fresh]
          ∧ ∃ k, t.cmd s.fresh = some k ∧ k.refetch = true ∧ k.blk = b ∧ k.linear = ⟨1, src.toNat,
              (BitVec.ofNat 64 (256 * line) : Word).toNat, 1, 256, 0, 0⟩)
    ∧ (∀ b line cmd k l, (oget s.blocks b).isSome = true → s.cmd cmd = some k →
        k.landing.find? (fun e => e.line == line) = some l →
        let old := decide (50 ≤ ((s.blk b).bedLine line).age)
        (line ∈ s.claimed b → Sys2Proof.Machine.exec (.bedLineLands b line cmd) s
          = .next { s with agenda := s.agenda ++ [.bedLineLands b line cmd] })
        ∧ (line ∉ s.claimed b → ∃ t, Sys2Proof.Machine.exec (.bedLineLands b line cmd) s = .next t
            ∧ t.cmd cmd = some { k with landing := k.landing.filter fun e => e.line != line }
            ∧ (t.blk b).bedLine line = (if (s.blk b).plotAt line = none then (s.blk b).bedLine line
                else if l.failed then ⟨63, false, none⟩
                else ⟨0, false, if l.words = BitVec.allOnes 64 then l.base else none⟩)
            ∧ (∀ n, n ≠ line → (t.blk b).bedLine n = (s.blk b).bedLine n) ∧ t.mem = s.mem
            ∧ (∀ a, a / 256 ≠ line ∨ (s.blk b).plotAt line = none → sget 0 (t.blk b).bed a = sget 0 (s.blk b).bed a)
            ∧ (∀ a, a / 256 = line → (s.blk b).plotAt line ≠ none → l.words.getLsbD (a % 256 / 4) = true →
                sget 0 (t.blk b).bed a = l.data.extractLsb' (8 * (a % 256)) 8)
            ∧ (∀ a, a / 256 = line → l.words.getLsbD (a % 256 / 4) = false → old = false →
                sget 0 (t.blk b).bed a = sget 0 (s.blk b).bed a)
            ∧ t.agenda = s.agenda ++ if k.landing.all (fun e => e.line == line) then [.commandCompletion cmd] else []))

/-! ### Queues -/

/-- R132 to R134, R136, R137, R139: QW appends its words to a command queue and pushes every command that they complete, in
order, each of which counts on its timeline, releases and raises COMMITS; it parks where its queue has no room for its
words or the block would have more than 64 commands outstanding, and where a release may not be made yet; QR takes its words from the front of
a result queue and leaves them to be written, and a status word acquires; TLW goes on once its timeline has come far enough, and parks until then; a queue
used against its direction and a value not yet issued take an engine trap; a queue without room or words parks.
That a command's words leave its queue as it is pushed is the model's (log 47). -/
def Obligations.QueueWords : Prop :=
  ∀ (c : IssueCtx) (s : State),
    (∀ (q : BitVec 4) (r : BitVec 5) (u : BitVec 1) (g : BitVec 4), let i : Instr := .qw q r u g
      AtIssue i c s →
      let I := issueOf i c s
      let new := pushedWords I r u
      let all := (c.group s).queue q.toNat ++ new
      (I.act = 0 → Effects i c s Written.nothing)
      ∧ (I.act ≠ 0 → q.toNat ∉ [0, 2, 4, 6] → Traps i c s (engineTrap c 4 q.toNat 0 0))
      ∧ (I.act ≠ 0 → q.toNat ∈ [0, 2, 4, 6] →
        ∀ cmds more, Commands all cmds more →
          let full : Prop := 32 < all.length ∨ (cmds ≠ [] ∧ 64 < s.pushed c.blk + cmds.length)
          (full → Blocks i c s .queue (.queue q.toNat new.length cmds.length true))
          ∧ (¬ full → cmds ≠ [] → s.releaseOk I = false → Blocks i c s .commit .reissue)
          ∧ (¬ full → (cmds ≠ [] → s.releaseOk I = true) → ∃ y, HeadAt c c.next (c.group s) y
            ∧ Sys2Proof.Machine.exec i s = .next (cmds.foldl (fun t w => t.pushCommand c.blk c.grp q.toNat c.wpc c.word w)
                (s.setGrp c.blk c.grp (y.setQueue q.toNat more))).markDone)))
    ∧ (∀ b g q pc w words, (oget s.blocks b).isSome = true →
        let h : Word := words.getD 0 0
        let tl := bits h 56 4
        let t := s.pushCommand b g q pc w words
        sget 0 (t.blk b).issued tl = sget 0 (s.blk b).issued tl + 1 ∧ (t.blk b).count = (s.blk b).count + 1
          ∧ ∃ id k, t.cmd id = some k ∧ k.words = words ∧ k.num = sget 0 (s.blk b).issued tl + 1 ∧ k.state = .pushed
            ∧ takeEvent q (bits h 60 4) id ∈ t.agenda)
    ∧ (∀ (q : BitVec 4) (r : BitVec 5) (u : BitVec 1) (g : BitVec 4), let i : Instr := .qr q r u g
      AtIssue i c s →
      let I := issueOf i c s
      let old := (c.group s).queue q.toNat
      let n := if u = 1 then 1 else (lanesOf I.act).length
      (I.act = 0 → Effects i c s Written.nothing)
      ∧ (I.act ≠ 0 → q.toNat ∈ [0, 2, 4, 6] → Traps i c s (engineTrap c 4 q.toNat 0 0))
      ∧ (I.act ≠ 0 → q.toNat ∉ [0, 2, 4, 6] →
        (old.length < n → Blocks i c s .queue (.queue q.toNat n 0 false))
        ∧ (n ≤ old.length → ∃ y, Sys2Proof.Machine.exec i s
              = .next (resultAwaited (if q = 8 then (s.moved c).acquire c.blk 4 else s) c y 0)
            ∧ (poppedWords I r u old).Holds s.fresh c I.act ((c.group s).setQueue q.toNat (old.drop n)) y)))
    ∧ (∀ (a : BitVec 5) (b : BitVec 4) (u : BitVec 1) (g : BitVec 4), let i : Instr := .tlw a b u g
      AtIssue i c s →
      let I := issueOf i c s
      let n := if u = 1 then I.G.rs a.toNat else I.G.rv a.toNat (lowest I.act)
      (I.act = 0 → Effects i c s Written.nothing)
      ∧ (I.act ≠ 0 → sget 0 (s.blk c.blk).issued b.toNat < n.toNat →
          Traps i c s (engineTrap c 3 0 (BitVec.ofNat 64 (n.toNat % 2 ^ 32)) b.toNat))
      ∧ (I.act ≠ 0 → n.toNat ≤ sget 0 (s.blk c.blk).issued b.toNat → ∃ y, HeadAt c c.next (c.group s) y ∧
        Sys2Proof.Machine.exec i s = .next (
          if n.toNat ≤ sget 0 (s.blk c.blk).done b.toNat then wordDone ((s.moved c).acquire c.blk 4) c y 0
          else wordDone s c (y.parkedOn .timeline (.timeline b.toNat n.toNat) s.cycles.toNat) 0)))

/-! ### Engines -/

/-- R117, R135, R140 to R143: the copy engine takes a committed linear or ragged copy whose words are valid and rejects any
other; a linear copy then moves one chunk of 256 bytes at a step, from memory at the point of coherence or from the Bed,
into memory or to the Bed lines it goes to, each of which lands as it has all its words; after its last chunk a copy into
memory completes; a ragged copy is walked row by row, each element going to the next place of its vectors and the first
of a row setting its head bit, and then lands its lines; a chunk that fails is noted, the lowest one standing and the first
status of 1, 2, 4, 3 of one chunk, and its lines will land failed.
The accesses of a copy carry the cache hint of its header (R140), as log 99 reads it. The failures of a ragged copy are read
as in log 46, and that the count of a linear copy of 4 GiB or more is taken modulo 2^32 is the model's choice (log 96). -/
def Obligations.CopyCommands : Prop :=
  ∀ (s : State) (cmd : Nat) (k : Command), s.cmd cmd = some k → (oget s.blocks k.blk).isSome = true →
    let a := k.linear
    let e := k.ragged
    let P := s.partyOf k.blk
    let pieces := k.pieces k.next
    let lines := (pieces.map fun p => p.src / 256).eraseDups
    let ready : Prop := k.state = .taken ∧ 256 * k.next < a.total
      ∧ (a.fromMem = true → ∀ p, p ∈ pieces → s.hostTakes P (BitVec.ofNat 64 p.src) = none)
    let source (t : State) (stat : Nat) (l : List Moved) : Prop :=
      if a.fromMem then s.readPieces P pieces (some k.hint) = (t, stat, l)
      else t = s ∧ (s.bedSource k.blk lines = .ready ∧ stat = 0
            ∧ l = pieces.map (fun p => ⟨p, (s.blk k.blk).bedRead p.src p.len, 0⟩)
          ∨ s.bedSource k.blk lines = .stale ∧ stat = 4)
    let rejected : Host.Outcome State Fault Refusal := .next ((s.commandFault k 1).closeCommand cmd)
    (k.state = .pushed → (s.blk k.blk).committed k.after = true →
      (s.linearOk k = true → ∃ t l, Sys2Proof.Machine.exec (.copyLinear cmd) s = .next t
        ∧ t.cmd cmd = some { k with state := .taken, detail := a.total % 2 ^ 32, landing := l }
        ∧ (a.toMem = false → l.map (fun e => e.line) = rowLines a.dst a.rb a.ds a.rows)
        ∧ (a.toMem = false → ∀ n, n ∈ rowLines a.dst a.rb a.ds a.rows → ((t.blk k.blk).bedLine n).absent = true)
        ∧ t.mem = s.mem ∧ t.agenda = s.agenda ++ [.copyLinear cmd])
      ∧ (s.linearOk k = false → (s.blk k.blk).life ≠ .saved → Sys2Proof.Machine.exec (.copyLinear cmd) s = rejected)
      ∧ (s.raggedOk k = false → (s.blk k.blk).life ≠ .saved → Sys2Proof.Machine.exec (.copyRagged cmd) s = rejected))
    ∧ (ready → ∀ t stat l, source t stat l →
        (stat = 0 → a.toMem = false → Sys2Proof.Machine.exec (.copyLinear cmd) s
          = .next (((t.putBed cmd l a.fromMem).nextChunk cmd).post (.copyLinear cmd)))
        ∧ (stat ≠ 0 → a.toMem = false → Sys2Proof.Machine.exec (.copyLinear cmd) s
          = .next (((t.nextChunk cmd).post (.copyChunkFault cmd k.next stat)).post (.copyLinear cmd)))
        ∧ (stat = 0 → a.toMem = true → ∀ u w, t.probePieces P l = (u, 0, w) → u.hostHolds w = none →
          Sys2Proof.Machine.exec (.copyLinear cmd) s = .next (((w.foldl (fun u m =>
            u.engineWrite P (BitVec.ofNat 64 m.1.piece.dst) m.2.1 m.1.piece.len m.1.val m.1.poison m.2.2 (some k.hint)) u).nextChunk
              cmd).post (.copyLinear cmd))))
    ∧ (∀ p v z fm, p.dst % 4 = 0 → p.len % 4 = 0 → p.dst % 256 + p.len ≤ 256 → v < 256 ^ p.len →
        let t := s.putBed cmd [⟨p, v, z⟩] fm
        let off := p.dst % 256
        { t with cmds := s.cmds, agenda := s.agenda } = s ∧ ∃ l', t.cmd cmd = some { k with landing := l' }
          ∧ l'.length = k.landing.length
          ∧ (∀ l, l ∈ l' → l.left = 0 → .bedLineLands k.blk l.line cmd ∈ t.agenda)
          ∧ ∀ (i : Nat) (h : i < k.landing.length) (h' : i < l'.length),
            (k.landing[i].line ≠ p.dst / 256 → l'[i] = k.landing[i])
            ∧ (k.landing[i].line = p.dst / 256 →
              { l'[i] with base := k.landing[i].base, words := k.landing[i].words, data := k.landing[i].data } =
                { k.landing[i] with left := k.landing[i].left - p.len / 4 }
              ∧ (∀ j, l'[i].words.getLsbD j
                  = (k.landing[i].words.getLsbD j || decide (off ≤ 4 * j ∧ 4 * j < off + p.len)))
              ∧ (∀ b, b < 256 → l'[i].data.extractLsb' (8 * b) 8
                  = if off ≤ b ∧ b < off + p.len then BitVec.ofNat 8 (v / 256 ^ (b - off))
                    else k.landing[i].data.extractLsb' (8 * b) 8)))
    ∧ (k.state = .taken → a.total ≤ 256 * k.next → chunkFaultOut s cmd = false → a.toMem = true →
        Sys2Proof.Machine.exec (.copyLinear cmd) s = .next (s.post (.commandCompletion cmd)))
    ∧ (k.state = .taken → a.total ≤ 256 * k.next → a.toMem = false → Sys2Proof.Machine.exec (.copyLinear cmd) s = .next s)
    ∧ (k.state = .pushed → k.next = 0 → (s.blk k.blk).committed k.after = true → s.raggedOk k = true →
        let w := walkRows k P e.nrows 0 ⟨s, 0, none, [], [], [], [], false⟩
        let ls := e.lines (s.blk k.blk).bedLines
        (w.bad = true → (s.blk k.blk).life ≠ .saved → Sys2Proof.Machine.exec (.copyRagged cmd) s = rejected)
        ∧ (w.bad = false → w.asks = [] → w.s.cmd cmd = some k → (oget w.s.blocks k.blk).isSome = true →
          ∃ t, Sys2Proof.Machine.exec (.copyRagged cmd) s = .next t
            ∧ t.cmd cmd = some { k with
              state := .taken, next := 1, stat := if w.clipped = none then 0 else 7
              detail := match w.clipped with
                | some i => i
                | none => (min w.j (32 * e.cap) + 31) / 32
              landing := (noteRun false (noteRun false (noteRun true
                  (ls.map fun l => Landing.start l (w.place l).1 (w.place l).2 1) w.moved.reverse) (w.zeros e))
                (w.masks e)).map fun l => { l with left := 1 } }
            ∧ (∀ n, n ∈ ls → ((t.blk k.blk).bedLine n).absent = true)
            ∧ t.mem = w.s.mem
            ∧ t.agenda = w.s.agenda ++ w.fail.map (fun f => .copyChunkFault cmd f.1 f.2) ++ [.copyRagged cmd]))
    ∧ (k.state = .taken → k.next ≠ 0 → chunkFaultOut s cmd = false → ∃ t,
        Sys2Proof.Machine.exec (.copyRagged cmd) s = .next t ∧ { t with cmds := s.cmds, agenda := s.agenda } = s
          ∧ ∀ l, l ∈ k.landing → .bedLineLands k.blk l.line cmd ∈ t.agenda)
    ∧ (∀ (w : Walked) (i n : Nat), k.state = .pushed →
        let src := e.src + i * e.ss + e.e * n
        let r := w.s.engineRead P (BitVec.ofNat 64 src) e.e (some k.hint)
        let w' := walkRow k P i 1 n w
        (w.j < 32 * e.cap → src % e.e = 0 → src + e.e ≤ 2 ^ 53 →
          w'.j = w.j + 1 ∧ w'.starts = (if n = 0 then w.j :: w.starts else w.starts)
          ∧ (r.2.stat = 0 → w'.moved = ⟨⟨src, e.dst + e.e * w.j, e.e⟩, r.2.val, 0⟩ :: w.moved ∧ w'.fail = w.fail)
          ∧ (r.2.stat ≠ 0 → w'.moved = w.moved ∧ (e.e * w.j / 256, r.2.stat) ∈ w'.fail))
        ∧ (32 * e.cap ≤ w.j → w'.j = w.j + 1 ∧ w'.moved = w.moved
          ∧ w'.clipped = (match w.clipped with
              | some m => some m
              | none => some i))
        ∧ (∀ v b, v < e.cap → b < 32 → w.starts.Nodup → ∀ (h : v < (w.masks e).length),
            (w.masks e)[v].piece = ⟨0, e.smask + 4 * v, 4⟩
            ∧ (w.masks e)[v].val.testBit b = decide (32 * v + b ∈ w.starts)))
    ∧ (∀ fm l m, noteRun fm [l] [m] = if m.piece.dst / 256 = l.line then [l.note m fm] else [l])
    ∧ (∀ n stat, ∃ t k', Sys2Proof.Machine.exec (.copyChunkFault cmd n stat) s = .next t ∧ t.cmd cmd = some k'
        ∧ k' = { k with failAt := k'.failAt, landing := k'.landing }
        ∧ (k.failAt = none → k'.failAt = some (n, stat))
        ∧ (∀ f, k.failAt = some f → (n < f.1 → k'.failAt = some (n, stat)) ∧ (f.1 < n → k'.failAt = some f)
          ∧ (n = f.1 → stat ∈ [1, 2, 4, 3] → f.2 ∈ [1, 2, 4, 3] →
            k'.failAt = some (n, if [1, 2, 4, 3].idxOf stat < [1, 2, 4, 3].idxOf f.2 then stat else f.2)))
        ∧ (let hit := if bits (k.word 0) 60 4 = 2 then k.chunkLines n else (k.pieces n).map fun p => p.dst / 256
          k'.landing.map (fun l => (l.line, l.failed))
            = k.landing.map fun l => (l.line, l.failed || decide (l.line ∈ hit)))
        ∧ ∀ l, l ∈ k'.landing → l.left = 0 → .bedLineLands k.blk l.line cmd ∈ t.agenda)

/-- R135, R138, R139, R144: a command that reports enters its completion word in its result queue and is then done; one that
does not is done at once, with an engine fault where it failed; done, DONE of its timeline becomes the greatest number up to
which every command of the timeline is done. A PUT sends a peer the bytes it reads at home, chunk by chunk; a GET asks for them and writes them at
home; the flag follows once all is acknowledged, and a peer that cannot be asked ends the command with status 6.
What a peer answers is an opaque function of Config, and status 6 is read so (logs 11 and 49); the kinds and headers of the
messages to a peer are the model's choice (log 18), as is that a completion's count is taken modulo 2^32 (log 96). -/
def Obligations.CommandsComplete : Prop :=
  ∀ (s : State) (cmd : Nat) (k : Command), s.cmd cmd = some k → (oget s.blocks k.blk).isSome = true →
    (s.blk k.blk).life = .resident →
    let a := k.kv
    let P := s.kvParty k.blk
    let old := (s.grp k.blk k.grp).queue (k.queue + 1)
    (k.state ≠ .done → k.sending = false → k.out = [] → k.failAt = none → k.stat = 0 →
      (k.reports = true → (s.grp k.blk k.grp).ended = false → old.length < 32 →
        s.queueBusy cmd { k with sending := true, out := [completionWord k] } = false →
        Sys2Proof.Machine.exec (.commandCompletion cmd) s
          = .next (((s.updGrp k.blk k.grp fun y => y.setQueue (k.queue + 1) (old ++ [completionWord k])).updCmd cmd
              fun _ => { k with sending := true, out := [] }).post (.commandCompletion cmd)))
      ∧ (k.reports = false → Sys2Proof.Machine.exec (.commandCompletion cmd) s
          = .next ((s.updCmd cmd fun _ => { k with sending := true, out := [] }).closeCommand cmd)))
    ∧ (∀ n stat, k.state ≠ .done → k.sending = false → k.out = [] → k.failAt = some (n, stat) → stat ∈ [1, 2, 3, 4] →
        k.queue < 4 → k.reports = false →
        let k' : Command := { k with stat := stat, detail := 256 * n, sending := true, out := [] }
        Sys2Proof.Machine.exec (.commandCompletion cmd) s
          = .next (((s.updCmd cmd fun _ => k').commandFault k' 2).closeCommand cmd))
    ∧ (let w := completionWord k
      k.stat < 16 → k.tl < 16 → bits w 48 16 = bits (k.words.getD 0 0) 32 16 ∧ bits w 36 4 = k.stat ∧ bits w 32 4 = k.tl
        ∧ bits w 0 32 = k.detail % 2 ^ 32 ∧ bits w 40 8 = if k.queue = 4 then 0xFF else 0)
    ∧ (k.state ≠ .done → k.sending = true → k.out = [] → k.reports = true →
        Sys2Proof.Machine.exec (.commandCompletion cmd) s = .next ((s.updCmd cmd fun _ => k).closeCommand cmd))
    ∧ (k.refetch = false → s.closeCommand cmd = ((s.updCmd cmd fun c => { c with state := .done }).advanceDone k.blk k.tl
        (s.cmds.length + 1)).settleBlock k.blk)
    ∧ (∀ b t, (oget s.blocks b).isSome = true → swf none s.cmds = true →
        let doneAt (n : Nat) : Prop := ∃ c ∈ oitems s.cmds, c.2.blk = b ∧ c.2.tl = t ∧ c.2.num = n ∧ c.2.state = .done
        let old := sget 0 (s.blk b).done t
        let new := sget 0 ((s.advanceDone b t (s.cmds.length + 1)).blk b).done t
        old ≤ new ∧ (∀ n, old < n → n ≤ new → doneAt n) ∧ ¬ doneAt (new + 1))
    ∧ (∀ (put : Bool), let i : Instr := if put then .kvPut cmd else .kvGet cmd
        k.state = .pushed → (s.blk k.blk).committed k.after = true →
        (k.kvOk (if put then 1 else 2) = true →
          (s.peerEntry k = none → Sys2Proof.Machine.exec i s
            = .next ((s.updCmd cmd fun k => { k with state := .taken, stat := 6 }).post (.commandCompletion cmd)))
          ∧ (∀ e, s.peerEntry k = some e → Sys2Proof.Machine.exec i s
            = .next ((s.updCmd cmd fun k => { k with state := .taken, detail := k.kv.len % 2 ^ 32 }).post i)))
        ∧ (k.kvOk (if put then 1 else 2) = false →
            Sys2Proof.Machine.exec i s = .next ((s.commandFault k 1).closeCommand cmd)))
    ∧ (k.state = .taken → a.len ≤ 256 * k.next →
        Sys2Proof.Machine.exec (.kvPut cmd) s
          = .next (s.post (if a.rflag = true ∧ k.stat = 0 then .kvFlagIncrement cmd else .commandCompletion cmd))
        ∧ Sys2Proof.Machine.exec (.kvGet cmd) s = .next (s.post (.commandCompletion cmd)))
    ∧ (k.state = .taken → 256 * k.next < a.len →
        (s.rangeTaken P (a.local_ + 256 * k.next) (min 256 (a.len - 256 * k.next)) = [] →
          Sys2Proof.Machine.exec (.kvPut cmd) s = .next ((s.putChunk cmd k).post (.kvPut cmd)))
        ∧ (a.runs k.next = [256 * k.next] → ∀ t v e, s.engineRead P (BitVec.ofNat 64 (a.local_ + 256 * k.next)) 64
            = (t, ⟨0, v, 0⟩) → t.peerEntry k = some e →
          (s.putChunk cmd k).messages = t.messages ++ [⟨10, a.remote + 256 * k.next, peerHeader e ++ bytesLe 64 v⟩])
        ∧ (s.getHeld k = none → Sys2Proof.Machine.exec (.kvGet cmd) s = .next ((s.getChunk cmd k).post (.kvGet cmd)))
        ∧ (∀ d e, a.runs k.next = [256 * k.next] → a.len - 256 * k.next = 64 → Config.peerAnswer s.free = some d →
            d.length = 64 → s.peerEntry k = some e →
            let q : State := { s with
              messages := s.messages ++ [⟨11, a.remote + 256 * k.next, peerHeader e ++ bytesLe 4 64⟩]
              free := s.free + 1 }
            let va : Word := BitVec.ofNat 64 (a.local_ + 256 * k.next)
            ∀ t x, q.engineProbe P va = (t, 0, x) →
              s.getChunk cmd k = (t.engineWrite P va x 64 (leBytes d) 0 0).kvNext cmd 0))
    ∧ (k.state = .taken → ∀ e, s.peerEntry k = some e →
        let sent : State := { s with
          messages := s.messages ++ [⟨12, a.flag, peerHeader e ++ bytesLe 8 1⟩]
          free := s.free + 1 }
        (∀ d, Config.peerAnswer s.free = some d →
          Sys2Proof.Machine.exec (.kvFlagIncrement cmd) s = .next (sent.post (.commandCompletion cmd)))
        ∧ (Config.peerAnswer s.free = none → Sys2Proof.Machine.exec (.kvFlagIncrement cmd) s
          = .next ((sent.updCmd cmd fun c => { c with stat := 6, failAt := none }).post (.commandCompletion cmd))))

/-- R73, R75 to R79, R145, R303: a stack command is taken in its turn; a GEMV reads its vector once and then forms and stores
one element at a step, or notes what kept a row from it; SOPEN binds a free context of the row's die to its slot, elements
written to an open row are fed to it as their writes left them, and SCLOSE delivers its result and frees it; a mask request waits in its die's queue, and a Pruner core with room
starts the oldest as a one-lane block.
What a GEMV counts and when a slot is taken are read as in log 45, and a job's identity as in log 73; that the counts of GEMV
and SCLOSE are taken modulo 2^32 is the model's choice (log 96). -/
def Obligations.StackAndMaskEngines : Prop :=
  ∀ (s : State) (cmd : Nat) (k : Command), s.cmd cmd = some k → (oget s.blocks k.blk).isSome = true →
    let g := k.gemv
    let P := s.partyOf k.blk
    (k.state = .pushed → s.stackReady k = true → k.gemvOk = true → s.rangeTaken P g.av g.vecBytes = [] → ∀ t stat l,
        s.engineReadRange P g.av (lineFuel g.vecBytes) g.vecBytes = (t, stat, l) →
        Sys2Proof.Machine.exec (.gemv cmd) s = .next ((t.updCmd cmd fun k => { (k.gemvStat stat 0) with
          state := .taken
          words := k.words ++ (if stat = 0 then l.map fun b => b.setWidth 64 else []) }).post (.gemv cmd)))
    ∧ (∀ stat bad, k.gemvStat stat bad = { k with
        stat := if stat ≠ 0 ∧ (k.stat = 0 ∨ stat < k.stat) then stat else k.stat
        detail := k.detail + bad })
    ∧ (k.state = .taken → k.next < g.m → s.rangeTaken P (g.be + k.next * g.rowBytes) g.rowBytes = [] →
        s.rangeTaken P (g.bh + k.next * g.hdrBytes) g.hdrBytes = [] → ∀ t u l hd st st',
        s.engineReadRange P (g.be + k.next * g.rowBytes) (lineFuel g.rowBytes) g.rowBytes = (t, st, l) →
        t.engineReadRange P (g.bh + k.next * g.hdrBytes) (lineFuel g.hdrBytes) g.hdrBytes = (u, st', hd) →
        (worseStat st st' ≠ 0 ∨ k.words.length ≤ 6) →
        Sys2Proof.Machine.exec (.gemv cmd) s = .next ((u.updCmd cmd fun k =>
          { k.gemvStat (worseStat st st') 0 with next := k.next + 1 }).post (.gemv cmd)))
    ∧ (k.state = .taken → k.next < g.m → 6 < k.words.length →
        s.rangeTaken P (g.be + k.next * g.rowBytes) g.rowBytes = [] →
        s.rangeTaken P (g.bh + k.next * g.hdrBytes) g.hdrBytes = [] → ∀ t u v l hd q x z dr,
        s.engineReadRange P (g.be + k.next * g.rowBytes) (lineFuel g.rowBytes) g.rowBytes = (t, 0, l) →
        t.engineReadRange P (g.bh + k.next * g.hdrBytes) (lineFuel g.hdrBytes) g.hdrBytes = (u, 0, hd) →
        let va : Word := BitVec.ofNat 64 (g.yv + 4 * k.next)
        let B := rowElems g.bfmt g.k l hd
        let A := rowElems g.afmt g.k ((k.words.drop 6).map fun w => w.setWidth 8) []
        let e := gemvElem g.k B.1 A.1
        let bad := B.2 + (if (fp32.value e).isNan then 1 else 0)
        u.engineProbe P va = (v, 0, x) → v.engineTags P (lineNo va) (lineOff va) 4 true = (q, 0, dr) →
        s.hostCaches (ownerOf va) x.pa = false →
        z = q.mergeLine P (lineNo va) (x.pa / 128 * 128) x.bitmap true (bytesMask (lineOff va) 4 &&& ~~~dr)
          (linePut e (lineOff va) 4) →
        Sys2Proof.Machine.exec (.gemv cmd) s = .next ((z.updCmd cmd fun k =>
          { k.gemvStat (if bad = 0 then 0 else 5) bad with next := k.next + 1 }).post (.gemv cmd)))
    ∧ (k.state = .taken → g.m ≤ k.next → k.stat ∉ [1, 2, 3] → s.feedsOut (s.blk k.blk).space g.yv (4 * g.m) = false →
        Sys2Proof.Machine.exec (.gemv cmd) s = .next ((s.updCmd cmd fun k => { k with
          detail := (BitVec.ofNat 64 k.detail : Word).toNat % 2 ^ 32 }).post (.commandCompletion cmd)))
    ∧ (k.state = .pushed → s.stackReady k = true → (s.blk k.blk).life ≠ .saved →
        Sys2Proof.Machine.exec (.sopen cmd) s = .next (if s.sopenOk cmd k = true
          then (s.updCmd cmd fun k => { k with state := .taken }).post (.sopenContextBind cmd)
          else (s.commandFault k 1).closeCommand cmd))
    ∧ (∀ n, let d := ownerOf (k.word 1)
        n < 512 → oget (s.die d).sieves n = none → (∀ j, j < n → (oget (s.die d).sieves j).isSome = true) →
        s.feedsOut (s.blk k.blk).space (k.word 1).toNat (4 * bits (k.word 2) 0 32) = false → d < 2 →
        ∃ t v, Sys2Proof.Machine.exec (.sopenContextBind cmd) s = .next t ∧ oget (t.die d).sieves n = some v
          ∧ v = Sieve.fresh k.blk k.slot (s.blk k.blk).space (k.word 1).toNat (bits (k.word 2) 0 32) (bits (k.word 0) 16 7)
              (bits (k.word 2) 32 32) (bits (k.word 0) 32 16)
          ∧ oget (t.blk k.blk).sieve k.slot = some (512 * d + n) ∧ t.mem = s.mem
          ∧ t.agenda = s.agenda ++ [.commandCompletion cmd])
    ∧ (∀ die space va x rest, va % 4 = 0 → takeFeed space va (s.die die).feeds = (some x, rest) →
        Sys2Proof.Machine.exec (.sieveFeed die space va 4) s = .next (s.updDie die fun y => { y with
          feeds := rest
          sieves := y.sieves.map fun kv => (kv.1, kv.2.map fun v =>
            if v.space = space ∧ v.row ≤ va ∧ va < v.row + 4 * v.n then v.feed ((va - v.row) / 4) x else v) }))
    ∧ (∀ (v : Sieve) (i x : Nat), (v.feed i x).count = min (v.count + 1) (2 ^ 32 - 1)
        ∧ ((fp32.value x).isNan = true → v.feed i x = { v with nan := true, count := (v.feed i x).count })
        ∧ ((fp32.value x).isNan = false →
            (v.feed i x).max = (if (fp32.value v.max).lt (fp32.value x) then x else v.max)
            ∧ (v.feed i x).nan = v.nan ∧ (v.feed i x).short.length ≤ v.k
            ∧ (v.feed i x).short = (insertShort i x v.short).take v.k))
    ∧ (∀ n v, k.state = .pushed → s.stackReady k = true → k.isKind 3 0 = true → bits (k.word 0) 26 6 = 0 →
        bits (k.word 0) 23 1 = 0 → bits (k.word 0) 0 23 = 0 →
        (∀ o ∈ oitems s.cmds, o.2.blk = k.blk → o.2.seq < k.seq → o.2.state = .done ∨ o.2.refetch = true) →
        oget (s.blk k.blk).sieve k.slot = some n → oget (s.die (n / 512)).sieves (n % 512) = some v →
        s.feedsOut v.space v.row (4 * v.n) = false →
        ∃ t, Sys2Proof.Machine.exec (.sclose cmd) s = .next t ∧ t.cmd cmd = some { k with state := .taken, out := v.result }
          ∧ oget (t.blk k.blk).sieve k.slot = none ∧ oget (t.die (n / 512)).sieves (n % 512) = none ∧ t.mem = s.mem
          ∧ t.agenda = s.agenda ++ [.commandCompletion cmd])
    ∧ (k.state = .pushed → (s.blk k.blk).committed k.after = true → (s.blk k.blk).life ≠ .saved →
        let d := s.dieOf k.blk
        Sys2Proof.Machine.exec (.maskRequest cmd) s = .next (if k.maskOk = true
          then ((s.updCmd cmd fun k => { k with state := .taken }).updDie d fun x => { x with
            jobs := x.jobs ++ [cmd] }).post (.prunerJobStart d (s.prunerCore d))
          else (s.commandFault k 1).closeCommand cmd))
    ∧ (∀ die core rest, (s.die die).jobs = cmd :: rest → core < 8 → s.jobsOn die core < 16 → die < 2 →
        ∃ t x y, Sys2Proof.Machine.exec (.prunerJobStart die core) s = .next t ∧ (t.die die).jobs = rest
          ∧ t.blk (jobKey s.fresh) = x ∧ x.job = some ⟨cmd, die, core⟩ ∧ x.space = (s.blk k.blk).space
          ∧ x.core = 192 + 8 * die + core ∧ x.grp 0 = y ∧ y.live = 1 ∧ y.lanePc 0 = k.word 1 ∧ y.rs 0 = k.word 2
          ∧ y.rs 1 = BitVec.ofNat 64 (bits (k.word 0) 32 16) ∧ t.mem = s.mem)

/-! ### The matrix engine -/

/-- R225, R228, R229, R234 to R241: every matrix instruction waits, with its group parked, while the engine is another
block's or its staging slot is taken; it checks its format word and its Bed lines, with no effect where it traps; else it
enters the engine, executing or staged, with the bytes its tiles hold at issue, MDRN claims its lines, MSTAT and MCHK leave
their register pending, and MTEAM stands until its members do; a tile with a line that an executing MDRN claims waits for it,
whatever its age.
That MSTAT of claimed lines parks is read so (log 75); the detail of a tile's fault, SIZE 0 among it, is the model's choice
(log 61), and so is what a team does to the groups outside it (log 58). -/
def Obligations.MatrixIssues : Prop :=
  ∀ (i : Instr) (c : IssueCtx) (s : State), isMatrix i = true → AtIssue i c s →
    let I := issueOf i c s
    let x := s.blk c.blk
    let m := s.engineOf c.blk
    let low := lowest I.act
    let agree (b : BitVec 5) : Prop := ∀ L, L < 32 → I.act.getLsbD L = true → I.G.rv b.toNat L = I.G.rv b.toNat low
    let header (b : BitVec 5) : Word := BitVec.ofNat 64 ((I.G.rv b.toNat low).toNat % 2 ^ 32)
    let word (b : BitVec 5) : BitVec 32 := (I.G.rv b.toNat low).setWidth 32
    let good (b : BitVec 5) : Prop := agree b ∧ fmtWordOk (I.G.rv b.toNat low) = true
    let whole (base : Word) (n : Nat) : Prop := x.tileCheckOf base n = 0
      ∧ ∀ k, k < n → s.lineReady c.blk (base.toNat / 256 + k)
    let line (base : Word) (k : Nat) : Nat := base.toNat / 256 + k
    let tileTrap (wr : Bool) (base : Word) (code : Nat) : Prop :=
      Traps i c s (c.trapOf 4 (accessDetail (BitVec.twoPow 32 low) code 0 wr base) [(low, code)])
    let claimWait (base : Word) (n : Nat) : Prop := (∃ k, k < n ∧ line base k ∈ s.claimed c.blk) →
      ∃ l, Blocks i c s .matrix (.lines l)
        ∧ ∀ j, j ∈ l ↔ j ∈ s.claimed c.blk ∧ base.toNat / 256 ≤ j ∧ j < base.toNat / 256 + n
    let reads (base : Word) (n : Nat) : Prop := let code := x.tileCheckOf base n
      let stale : Prop := ∃ k, k < n ∧ x.staleLine (line base k) = true ∧ line base k ∉ s.claimed c.blk
      (code ≠ 0 → code ≠ 4 → tileTrap false base code) ∧ (code = 4 → stale → tileTrap false base 4)
        ∧ (code = 0 ∨ code = 4 → ¬ stale → claimWait base n)
    (I.act = 0 → Effects i c s Written.nothing)
    ∧ (I.act ≠ 0 → ¬ s.engineFree c.blk → Blocks i c s .matrix .reissue)
    ∧ (I.act ≠ 0 → s.engineFree c.blk →
      (∀ A, matrixRule i = some A →
        let w := word A.fmt
        let f := matFmt w
        let base := I.G.rv A.addr.toNat low
        let n := A.first f + A.second f
        (¬ agree A.fmt → Traps i c s (engineTrap c 5 0 (header A.fmt) 0))
        ∧ (agree A.fmt → fmtWordOk (I.G.rv A.fmt.toNat low) = false → Traps i c s (engineTrap c 6 0 (header A.fmt) 0))
        ∧ (good A.fmt → A.clashes m w = true → Traps i c s (engineTrap c 6 0 (w.setWidth 64) 0))
        ∧ (good A.fmt → A.clashes m w = false →
          (s.isSource c.blk i = true → reads base n)
          ∧ (s.isSource c.blk i = true → whole base n → ∃ y, HeadAt c c.next (c.group s) y
            ∧ Sys2Proof.Machine.exec i s = .next (s.entered c y { I.matInstr s i w base with
                tile := x.tileBytes base.toNat (A.first f)
                tile2 := x.tileBytes (base.toNat + 256 * A.first f) (A.second f) }))
          ∧ (s.isSource c.blk i = false → ∃ y, HeadAt c c.next (c.group s) y
            ∧ Sys2Proof.Machine.exec i s = .next (s.entered c y (I.matInstr s i w base)))))
      ∧ (∀ q l g, i = .mzro q l g → ∃ y, HeadAt c c.next (c.group s) y
          ∧ Sys2Proof.Machine.exec i s = .next (s.entered c y (I.matInstr s i 0 0)))
      ∧ (∀ a b q g, i = .mdrn a b q g → good b →
          let w := word b
          let base := I.G.rv a.toNat low
          let n := 64 * drainBytes (sget 0 m.clsAhead q.toNat) (matFmt w).dfmt + (if (matFmt w).ssrc ≠ 0 then 256 else 0)
          (x.tileCode base n ≠ 0 → tileTrap true base (x.tileCode base n))
          ∧ (x.tileCode base n = 0 → claimWait base n)
          ∧ (x.tileCode base n = 0 → (∀ k, k < n → (x.bedLine (base.toNat / 256 + k)).absent = false
            ∧ base.toNat / 256 + k ∉ s.claimed c.blk) → ∃ y, HeadAt c c.next (c.group s) y
            ∧ Sys2Proof.Machine.exec i s = .next (s.entered c y { I.matInstr s i w base with claims := tileLines base n })))
      ∧ (∀ d a b o g, i = .mstat d a b o g → good b →
          let w := word b
          let base := I.G.rv a.toNat low
          let n := 16 * drainBytes 1 (matFmt w).dfmt
          reads base n ∧ (whole base n → ∃ y, HeadAt c c.next (c.group s) y
            ∧ Sys2Proof.Machine.exec i s = .next (s.entered c { y with pendV := y.pendV ||| BitVec.twoPow 32 d.toNat }
              { I.matInstr s i w base with
                tile := x.tileBytes base.toNat n, refs := perLane fun L => I.G.rv d.toNat L })))
      ∧ (∀ d g, i = .mchk d g → ∃ y, HeadAt c c.next (c.group s) y ∧ Sys2Proof.Machine.exec i s
          = .next (s.entered c { y with pendV := y.pendV ||| BitVec.twoPow 32 d.toNat } (I.matInstr s i 0 0)))
      ∧ (∀ a g, i = .mteam a g → let w := I.G.rv a.toNat low
          (w.toNat < 16 → w.toNat / 4 ≠ 3 → w.toNat % 4 ≠ 3 → ∃ y, HeadAt c c.next (c.group s) y
            ∧ Sys2Proof.Machine.exec i s = .next (((s.setGrp c.blk c.grp y).updMx c.blk fun _ => m).parkOn c.blk c.grp .wait
                (.team w.toNat)).markDone)
          ∧ (¬ (w.toNat < 16 ∧ w.toNat / 4 ≠ 3 ∧ w.toNat % 4 ≠ 3) → Traps i c s (engineTrap c 6 0 w 0))))

/-- R225, R230 to R242: MATRIX_EXECUTE performs the instruction at the head of a core's engine and goes on to the staged
one, a paired one with the tiles that its source has sent, or not yet; one that enters its engine is held against its
source's, and two that differ are both dropped and both groups take the fault; a load fills its plane, a product adds its
rows and columns cell by cell to its quarter, MMA2 to both, and counts a pass, MZRO empties, MDRN writes the drained cells and lands its
lines, MSTAT and MCHK write their lanes; the flags go to the group.
R49, R230, R231, R233: a block sum is the exact sum of its products, a NaN or infinite one as R49 says; a cell takes one after
another, each sum rounded once to A56, or clamped after each integer product; a drained cell is the cell rounded once.
What a mismatch in a team drops is read as in log 58, that a NaN cell is quiet as in log 101, and which flags a sum calls
as in log 100. -/
def Obligations.MatrixExecutes : Prop :=
  (∀ (s : State) (core : Nat) (i : MatInstr), (s.core core).mx.exec = some i →
    (i.pair = 0 → Sys2Proof.Machine.exec (.matrixExecute core) s = .next ((s.runMatrix i i.tile i.tile2).nextMatrix i.blk))
    ∧ (i.pair ≠ 0 → s.broadcast i.blk i = none →
        Sys2Proof.Machine.exec (.matrixExecute core) s = .next (s.post (.matrixExecute core)))
    ∧ (∀ e, i.pair ≠ 0 → s.broadcast i.blk i = some e → Sys2Proof.Machine.exec (.matrixExecute core) s
        = .next (((s.runMatrix i e.tile e.tile2).nextMatrix i.blk).forgetSent i.blk i.pair)))
  ∧ (∀ (s : State) (i : MatInstr),
    (∀ m ∈ (s.members i.blk (s.mxOf i.blk).team).getD [], ∀ j ∈ (s.mxOf m).queue, s.sourceOf m j.instr ≠ some i.blk) →
    (∀ e, s.broadcast i.blk i = some e → e.blk ≠ i.blk → s.checkPairs i = if matOp i.instr = matOp e.instr ∧ i.fmt = e.fmt
      then s else s.mismatch i e)
    ∧ (s.broadcast i.blk i = none → s.checkPairs i = s))
  ∧ (∀ (s : State) (i e : MatInstr), let t := s.mismatch i e
    (∀ j ∈ (t.mxOf i.blk).queue, j.pair ≠ i.pair) ∧ (∀ j ∈ (t.mxOf e.blk).queue, j.pair ≠ e.pair)
    ∧ ∀ k ∈ [i, e], (oget s.blocks k.blk).isSome = true → (oget (s.blk k.blk).groups k.grp).isSome = true →
        ∃ f ∈ (t.grp k.blk k.grp).ready, f.seq = k.seq)
  ∧ (∀ (m : Machine.Matrix) (i : MatInstr) (tile tile2 : List Byte),
    let f := matFmt i.fmt
    let r := (m.run i tile tile2).1
    let single := fmtHalf f.afmt || fmtHalf m.meanFmt
    let cls := if fmtInt f.afmt = true then 2 else 1
    let T := (tileElems f.afmt tile.toArray).1
    let U := (tileElems f.afmt tile2.toArray).1
    let S := m.plane.1
    (∀ a b p g w, (i.instr = .mldn a b p g ∧ w = false) ∨ (i.instr = .mldw a b p g ∧ w = true) →
      (p = 0 → r = { m with mean := r.mean, meanFmt := f.wfmt, west := w } ∧ ∀ k, sget 0 r.mean k = tile.getD k 0)
      ∧ (p = 1 → r = { m with spread := r.spread, spreadWest := w } ∧ ∀ k, sget 0 r.spread k = tile.getD k 0))
    ∧ (∀ a b q t g, i.instr = .mma a b q t g →
      QuarterHolds q.toNat cls single (fun k => if t = 1 then colOf Elem.zero T k else rowOf Elem.zero T k) (m.planeCol S) m r
      ∧ OthersAs [q.toNat] m r ∧ r = { m with acc := r.acc, cls := r.cls, checked := m.checked + 1 })
    ∧ (∀ a b q g, i.instr = .dmma a b q g →
      let X := rowOf Elem.zero T
      let Y := m.planeCol S
      let VX (k : Nat) : List FVal := if f.ssrc = 1 then (rowOf fzero (spreadElems tile2.toArray) k).map fun v => (spreadOperand v).1
        else (X k).map fun v => (stepOperand v).1
      let VY (n : Nat) : List FVal := if f.ssrc = 1 then (if m.spreadWest then colOf fzero m.spreadPlane n
          else rowOf fzero m.spreadPlane n).map fun v => (spreadOperand v).1
        else (Y n).map fun v => (stepOperand v).1
      QuarterHolds q.toNat cls single X Y m r ∧ OthersAs [q.toNat] m r
      ∧ r = { m with acc := r.acc, cls := r.cls, var := r.var, checked := m.checked + 1 }
      ∧ ∀ a b, a < 128 → b < 128 → sget 0 r.var (16384 * q.toNat + 128 * a + b) = BitVec.ofNat 32 (rnBits fp32
          (spreadCell (VX a) (squares (Y b)) (squares (X a)) (VY b)
            (fp32.value (sget 0 m.var (16384 * q.toNat + 128 * a + b)).toNat)).1))
    ∧ (∀ a b q g, i.instr = .mma2 a b q g →
      QuarterHolds q.toNat cls single (colOf Elem.zero T) (m.planeCol S) m r
      ∧ QuarterHolds (q ^^^ 1).toNat cls single (m.planeRow S) (colOf Elem.zero U) m r
      ∧ OthersAs [q.toNat, (q ^^^ 1).toNat] m r ∧ r = { m with acc := r.acc, cls := r.cls, checked := m.checked + 1 })
    ∧ (∀ q all g, i.instr = .mzro q all g →
      (∀ k, sget 0 r.acc k = if all = 1 ∨ k / 16384 = q.toNat then 0 else sget 0 m.acc k)
      ∧ (∀ k, sget 0 r.var k = if all = 1 ∨ k / 16384 = q.toNat then 0 else sget 0 m.var k)
      ∧ (∀ k, sget 0 r.cls k = if all = 1 ∨ k = q.toNat then 0 else sget 0 m.cls k)
      ∧ r = { m with acc := r.acc, var := r.var, cls := r.cls }))
  ∧ (∀ (s : State) (i : MatInstr), (oget s.blocks i.blk).isSome = true → (oget (s.blk i.blk).groups i.grp).isSome = true →
    let y := s.grp i.blk i.grp
    let z (t : State) : Group := t.grp i.blk i.grp
    let m := s.mxOf i.blk
    let f := matFmt i.fmt
    (∀ d a b o g, i.instr = .mstat d a b o g → ∀ L, L < 32 → i.lanes.getLsbD L = true →
        (z (s.runMatrix i i.tile i.tile2)).rv d.toNat L = certain (rowStat o.toNat (drainedRow f.dfmt i.tile.toArray L)
          (meanOf (i.refs.getD L 0))).1)
    ∧ (∀ d g, i.instr = .mchk d g → ∀ L, L < 32 → i.lanes.getLsbD L = true → (z (s.runMatrix i i.tile i.tile2)).rv d.toNat L
        = BitVec.ofNat 64 (min m.retried 0xFFFF * 2 ^ 32 + m.checked.toNat))
    ∧ (∀ a b q g, i.instr = .mdrn a b q g →
        let t := s.runMatrix i i.tile i.tile2
        let w := drainBytes (sget 0 m.cls q.toNat) f.dfmt
        (∀ n ∈ i.claims, (t.blk i.blk).bedLine n = ⟨0, false, none⟩)
        ∧ (∀ k p j, (drainQuarter m q.toNat f (perLane y.lf)).1[k]? = some p → j < w →
            sget 0 (t.blk i.blk).bed (i.base + w * k + j) = BitVec.ofNat 8 (p.1.bits / 256 ^ j))
        ∧ (f.drnd = 0 → ∀ L, (z t).lf L = y.lf L) ∧ t.mem = s.mem)
    ∧ (isPaired i.instr = true → (z (s.runMatrix i i.tile i.tile2)).flags = y.flags ||| (m.run i i.tile i.tile2).2))
  ∧ (∀ l : List FVal, let up := ∃ x ∈ l, x = .inf false
      let down := ∃ x ∈ l, x = .inf true
      let bad := ∃ x ∈ l, x.isNan = true
      (bad ∨ (up ∧ down) → blockSum l = (.nan false, flagINV))
      ∧ (¬ bad → up → ¬ down → blockSum l = (.inf false, 0)) ∧ (¬ bad → ¬ up → down → blockSum l = (.inf true, 0))
      ∧ ((∀ x ∈ l, ∃ s n k, x = .fin s n (2 ^ k)) → ∃ s n k, blockSum l = (.fin s n (2 ^ k), 0)
        ∧ (∀ K, (∀ s n j, FVal.fin s n (2 ^ j) ∈ l → j ≤ K) →
            k ≤ K ∧ (if s then -(n : Int) else n) * 2 ^ (K - k) = Numbers.total K l)
        ∧ (n = 0 → (s = true ↔ l ≠ [] ∧ ∀ x ∈ l, ∃ d, x = .fin true 0 d))))
  ∧ (∀ (acc : Nat) (f : Flags), acc < 2 ^ 56 → let kept := flagINV ||| flagOVF ||| flagINX
      (∀ neg n d, 0 < d → ∃ fl, (Numbers.cellSum acc neg n d).Rounds a56 none (addAcc acc (.fin neg n d, f)).1 fl
        ∧ (addAcc acc (.fin neg n d, f)).2 = (f ||| fl) &&& kept)
      ∧ (∀ s, addAcc acc (.inf s, f) = if Numbers.isNan a56 acc then (0x7FC00000000000, f &&& kept)
          else if Numbers.isInf a56 acc ∧ Numbers.signBit a56 acc ≠ s then (0x7FC00000000000, (f ||| flagINV) &&& kept)
          else (Numbers.encoded a56 s 0x7F800000000000, f &&& kept))
      ∧ (∀ q, addAcc acc (.nan q, f) = (0x7FC00000000000, f &&& kept)))
  ∧ (∀ (xs ys : List FVal) (acc : Nat), xs.length = 128 → ys.length = 128 →
      let p (x : Nat) : FVal := prod (xs.getD x fzero) (ys.getD x fzero)
      ∃ f g : Nat → Nat, f 0 = acc ∧ g 0 = acc ∧ f 4 = (floatCell false xs ys acc).1 ∧ g 128 = (floatCell true xs ys acc).1
        ∧ (∀ b, b < 4 → f (b + 1) = (addAcc (f b) (blockSum ((List.range 32).map fun x => p (32 * b + x)))).1)
        ∧ ∀ x, x < 128 → g (x + 1) = (addAcc (g x) (blockSum [p x])).1)
  ∧ (∀ (xs ys : List FVal) (acc : Int), xs.length = 128 → ys.length = 128 →
      ∃ f : Nat → Int, f 0 = acc ∧ f 128 = (intCell xs ys acc).1
        ∧ ∀ x, x < 128 → f (x + 1) = max (-2 ^ 47) (min (2 ^ 47 - 1) (f x + elemInt (xs.getD x fzero) * elemInt (ys.getD x fzero))))
  ∧ ∀ (c : BitVec 56) (sr : Bool) (l : BitVec 32), ∀ d ∈ [1, 2, 3, 4, 9], ∀ cls, let o := drainCell cls d sr c l
      let F := if d = 9 then fp32 else fmtOf d
      o.lfsr = (if sr then Numbers.nextLfsr l else l)
      ∧ (cls ≠ 2 → Numbers.isNan a56 c.toNat = true → o.bits = F.nan ∧ o.flags = 0)
      ∧ (cls ≠ 2 → Numbers.isNan a56 c.toNat = false →
          (Numbers.valueOf a56 c.toNat).Rounds F (Numbers.randomBits sr l) o.bits o.flags)
      ∧ (cls = 2 → d ≠ 9 → (Numbers.integer c.toInt).Rounds F (Numbers.randomBits sr l) o.bits o.flags)
      ∧ (cls = 2 → d = 9 → o.bits = (c.signExtend 64).toNat ∧ o.flags = 0)

/-! ### Capsules -/

/-- R304 to R313: CAPB by one lane with a good record, body and lock address parks for the lock, and its other lanes go past
the body; a free lock is acquired, a capsule that its own group or a stopped executor left unfinished is grafted, and any
other is waited for. CAPE by the executing lane commits the block and then acts on the record; CAPR leaves a value of the
last owned capsule; a step first commits the block and is then performed with its checkpoint, one that its home refuses
faults as if it had not issued, and one whose executor is stale is discarded, its lane taking back its graft slot. The traps
of R312 are precise.
What CAPB and CAPE leave in the lock and in CAPREC is read as in log 25, and what of its body a step waits for as in log
26. -/
def Obligations.Capsules : Prop :=
  ∀ (c : IssueCtx) (s : State),
    let x := s.blk c.blk
    let trap (I : Issue) (cause : Nat) (lk : Word) : Trap :=
      c.trapOf 9 (I.act.toNat + 2 ^ 32 * cause + 2 ^ 40 * (lk.toNat % 2 ^ 52)) []
    (∀ (a : BitVec 5) (g : BitVec 4), let i : Instr := .capb a g
      AtIssue i c s →
      let I := issueOf i c s
      let L := lowest I.act
      let lk := I.G.rv a.toNat L
      (I.act = 0 → Effects i c s Written.nothing)
      ∧ (I.act ≠ 0 → I.act ≠ BitVec.twoPow 32 L → Traps i c s (trap I 2 lk))
      ∧ (I.act ≠ 0 → I.act = BitVec.twoPow 32 L →
        (I.G.caprec ≠ 0 → I.G.caprec ≠ lk → Traps i c s (trap I 5 lk))
        ∧ ((I.G.caprec = 0 ∨ I.G.caprec = lk) → lk.toNat % 256 ≠ 0 → Traps i c s (trap I 7 lk))
        ∧ ((I.G.caprec = 0 ∨ I.G.caprec = lk) → lk.toNat % 256 = 0 → s.checkOf c.blk lk 3 3 = 0 →
          let f := ((s.moved c).lookUp x.core x.space I.act fun _ => lk).fetchBody c.blk (c.wpc + 4) 64
          let r := f.1.translate x.space lk 3
          let past := ((f.2.words.getLast?.map fun w => w.va).getD 0) + 4
          let code := if r.2.code = 0 then 5 else r.2.code
          let good : Prop := f.2.code = 0 ∧ f.2.ok = true ∧ c.pc = c.wpc ∧ c.word.getLsbD 31 = false
          (f.2.code = 0 → ¬ good → TrapsIn i c s f.1 (trap I 1 lk))
          ∧ (good → (r.2.code ≠ 0 ∨ inHost r.2.pa = true) →
            TrapsIn i c s r.1 (c.trapOf 2 (accessDetail I.act code 3 true lk) ((lanesOf I.act).map fun K => (K, code))))
          ∧ (good → r.2.code = 0 → inHost r.2.pa = false → r.1.capBad x.space lk = true → TrapsIn i c s r.1 (trap I 8 lk))
          ∧ (good → r.2.code = 0 →
          inHost r.2.pa = false → r.1.capBad x.space lk = false →
          Sys2Proof.Machine.exec i s = .next ((((r.1.updGrp c.blk c.grp fun y =>
              (y.setPc (c.run &&& ~~~I.act) fun _ => past).setPc I.act fun _ => c.wpc).parkOn c.blk c.grp .wait
                (.capb lk L (c.wpc + 4) past)).post (.waitReread c.blk c.grp)).markDone)))))
    ∧ (∀ b g r lk L body past, (oget s.blocks b).isSome = true → (oget (s.blk b).groups g).isSome = true →
        (s.blk b).life = .resident → (s.grp b g).ended = false → (s.grp b g).park = some ⟨r, .capb lk L body past⟩ →
        (s.grp b g).more = [] → s.capPoison (s.blk b).space lk = false →
        let w := s.capWord (s.blk b).space lk 0
        let mine : Prop := lockExec w / 32 = execFields (s.blk b).space (s.blk b).lcore g 0 / 32
          ∧ (s.capWord (s.blk b).space lk 8).toNat = (s.blk b).grid
        let graft : Prop := lockDone w = false ∧ (mine ∨ (lockRun w = false ∧ bits w 48 8 = (s.blk b).space))
        let good : Prop := s.capBad (s.blk b).space lk = false ∧ s.capHost (s.blk b).space lk = none
        (s.capBad (s.blk b).space lk = true → Sys2Proof.Machine.exec (.waitReread b g) s
          = .next ((s.updGrp b g fun y => { y with park := none }).takeTrap b g
              ⟨9, BitVec.ofNat 96 ((BitVec.twoPow 32 L).toNat + 2 ^ 32 * 8 + 2 ^ 40 * (lk.toNat % 2 ^ 52)),
                (s.grp b g).lanePc L, BitVec.twoPow 32 L, [], none⟩))
        ∧ (good → lockHeld w = false → Sys2Proof.Machine.exec (.waitReread b g) s
          = .next ((s.capAcquire b g L lk body past).setAwait b g .nothing))
        ∧ (good → lockHeld w = true → graft → Sys2Proof.Machine.exec (.waitReread b g) s
          = .next ((s.capGraft b g L lk true).setAwait b g .nothing))
        ∧ (good → lockHeld w = true → ¬ graft → Sys2Proof.Machine.exec (.waitReread b g) s = .next s)
        ∧ (let y := (s.capAcquire b g L lk body past).grp b g
          L < 32 → y.lanePc L = body ∧ y.caprec = lk ∧ y.cap = some ⟨L, true, none, none, []⟩)
        ∧ (let y := (s.capGraft b g L lk true).grp b g
          let from_ := s.capWords (s.blk b).space lk 0x40
          L < 32 → y.caprec = lk ∧ (y.cap.map fun k => k.lane) = some L ∧ ∀ n, n < 8 → y.rv n L = from_.getD n 0))
    ∧ (∀ (g : BitVec 4), let i : Instr := .cape g
      AtIssue i c s →
      let I := issueOf i c s
      let lk := I.G.caprec
      (I.act = 0 → Effects i c s Written.nothing)
      ∧ (I.act ≠ 0 → (lk = 0 ∨ ∀ k, I.G.cap = some k → I.act ≠ BitVec.twoPow 32 k.lane) → Traps i c s (trap I 9 lk))
      ∧ (∀ k, I.act ≠ 0 → lk ≠ 0 → I.G.cap = some k → I.act = BitVec.twoPow 32 k.lane →
        ((s.releaseOk I = false ∨ s.bodyOut I = true) → Blocks i c s .commit .reissue)
        ∧ (s.releaseOk I = true → s.bodyOut I = false → (s.moved c).stale c.blk c.grp (lowest I.act) lk = true →
            Sys2Proof.Machine.exec i s = .next ((s.moved c).goCapsule c.blk c.grp false).markDone)
        ∧ (s.releaseOk I = true → s.bodyOut I = false → (s.moved c).stale c.blk c.grp (lowest I.act) lk = false →
            let u := (s.moved c).startCommit c.blk true
            (u.blk c.blk).count = x.count + 1 ∧ Sys2Proof.Machine.exec i s = .next
              (if (u.blk c.blk).commits = [] ∧ u.capHost (u.blk c.blk).space lk = none then u.endCapsule c.blk c.grp
                else u.parkOn c.blk c.grp .commit (.cape (u.blk c.blk).lastCommit)).markDone)))
    ∧ (∀ b g k, (oget s.blocks b).isSome = true → (oget (s.blk b).groups g).isSome = true → (s.grp b g).cap = some k →
        s.stale b g k.lane (s.grp b g).caprec = false →
        let t := s.endCapsule b g
        (t.grp b g).cap = none ∧ (t.grp b g).caprec = 0
          ∧ (s.ownerIs b g k.lane (s.grp b g).caprec = true → (t.grp b g).lastCap
              = some ((s.grp b g).caprec, lockGen (s.capWord (s.blk b).space (s.grp b g).caprec 0))))
    ∧ (∀ (d : BitVec 5) (b : BitVec 3) (g : BitVec 4), let i : Instr := .capr d b g
      AtIssue i c s →
      let I := issueOf i c s
      let w (lk : Word) : Word := (s.moved c).capWord x.space lk 0
      (I.act = 0 → Effects i c s Written.nothing)
      ∧ (I.act ≠ 0 → I.G.lastCap = none → Traps i c s (trap I 6 0))
      ∧ (∀ lk n, I.act ≠ 0 → I.G.lastCap = some (lk, n) → (lockGen (w lk) ≠ n ∨ lockDone (w lk) = false) →
          Traps i c s (trap I 6 lk))
      ∧ (∀ lk n, I.act ≠ 0 → I.G.lastCap = some (lk, n) → lockGen (w lk) = n → lockDone (w lk) = true →
          ∃ y, Sys2Proof.Machine.exec i s = .next (resultAwaited ((s.moved c).acquire c.blk 4) c y 0)
            ∧ (Awaited.lanes I d 0 fun _ => ((s.moved c).capWord x.space lk (0x80 + 8 * b.toNat), 0)).Holds s.fresh c I.act
                (c.group s) y))
    ∧ (∀ b g r a old, (oget s.blocks b).isSome = true → (oget (s.blk b).groups g).isSome = true →
        (s.grp b g).park = some ⟨r, .step a old⟩ →
        let L := lowest a.act
        let va := a.vaAt L
        let need := if a.kind = 3 then 3 else 2
        let z := s.translate (s.blk b).space va need false
        let refused : Prop := z.2.code ≠ 0 ∨ (a.kind = 3 ∧ inHost z.2.pa = true)
        let code := if z.2.code = 0 then 5 else z.2.code
        (s.stale b g L (s.grp b g).caprec = true → Sys2Proof.Machine.exec (.capsuleStep b g) s = .next (s.goCapsule b g false))
        ∧ (s.stale b g L (s.grp b g).caprec = false → refused → Sys2Proof.Machine.exec (.capsuleStep b g) s
          = .next ((z.1.updGrp b g fun y =>
              { (y.setPc a.act fun _ => a.pc).withRegs old with park := none }).takeTrap b g
                ⟨2, BitVec.ofNat 96 (accessDetail a.act code a.logsz true va), a.pc, a.act,
                  (lanesOf a.act).map fun K => (K, code), none⟩))
        ∧ (s.stale b g L (s.grp b g).caprec = false → ¬ refused →
          s.hostCaches (ownerOf va) z.2.pa = false → s.capHost (s.blk b).space (s.grp b g).caprec = none →
          (a.poc = false → Sys2Proof.Machine.exec (.capsuleStep b g) s = .next (((z.1.startCommit b true).setAwait b g
            (.step { a with poc := true, after := ((z.1.startCommit b true).blk b).lastCommit } old)).post
              (.capsuleStep b g)))
          ∧ (a.poc = true → (s.blk b).committed a.after = true →
              let here := (s.die (ownerOf va)).l2Has (lineKey (s.blk b).space (lineNo va)) (bytesMask (lineOff va) a.size)
              let h := s.translate (s.blk b).space va need (!here)
              Sys2Proof.Machine.exec (.capsuleStep b g) s = .next (h.1.performStep b g a h.2))
          ∧ (a.poc = true → (s.blk b).committed a.after = false →
              Sys2Proof.Machine.exec (.capsuleStep b g) s = .next (z.1.post (.capsuleStep b g)))))
    ∧ (∀ b g k l, (oget s.blocks b).isSome = true → (oget (s.blk b).groups g).isSome = true → (s.grp b g).level = false →
        (s.grp b g).cap = some k → k.lane < 32 → k.displaced = none → k.slot = some l →
        let z := s.setAwait b g (.capsule k.lane)
        z.capHost (z.blk b).space (z.grp b g).caprec = none → (z.acquire b 4).ownerIs b g k.lane (z.grp b g).caprec = false →
        let y := (s.goCapsule b g false).grp b g
        y.cap = none ∧ y.caprec = 0 ∧ y.lanePc k.lane = l.pc ∧ ∀ n, n < 8 → y.rv n k.lane = l.v.getD n 0)

/-! ### Launches, bitmaps and the privileged words -/

/-- R255, R328, R335 to R337: LAUNCH by lane 0 of group 0 commits what its block holds, parks, and then submits its descriptor,
whose ticket is a live GRIDID or says why it was refused; COMPL commits its block and sets its bit by an atomic OR after
that; WAITC waits before its word until its bit has been seen, and then goes on with an acquire.
That COMPL always counts as a commit is read so (log 40). -/
def Obligations.LaunchesAndBitmaps : Prop :=
  ∀ (c : IssueCtx) (s : State),
    let core := (s.blk c.blk).core
    let space := (s.blk c.blk).space
    (∀ (d a : BitVec 5) (g : BitVec 4), let i : Instr := .launch d a g
      AtIssue i c s →
      let I := issueOf i c s
      let va := I.G.rv a.toNat 0
      (I.act = 0 → Effects i c s Written.nothing)
      ∧ (I.act ≠ 0 → (lowest I.act ≠ 0 ∨ c.grp ≠ 0) → Traps i c s (c.trapOf 7 (programError 2 c.run c.word 0 0) []))
      ∧ (I.act.getLsbD 0 = true → c.grp = 0 → s.checkOf c.blk va 6 1 = 0 →
        (s.releaseOk I = false → Blocks i c s .commit .reissue)
        ∧ (s.releaseOk I = true → ∃ (e : Access) (y : Group), HeadAt c c.next (c.group s) y ∧ e.vaAt 0 = va ∧ e.wait = 1 ∧ e.dreg = d.toNat
          ∧ let u := ({ (s.lookUp core space 1 fun _ => va).setGrp c.blk c.grp y with
              fresh := s.fresh + 1 } : State).startCommit c.blk false
            Sys2Proof.Machine.exec i s = .next (u.updGrp c.blk c.grp fun y => { y with
              pendV := y.pendV ||| BitVec.twoPow 32 d.toNat }.parkedOn .commit
                (.launch { e with after := (u.blk c.blk).lastCommit } I.act) s.cycles.toNat).markDone)))
    ∧ (∀ (b g : Nat) (d : Desc), let n := (s.blk b).grid
        let y := s.grid n
        let k := if d.kind = 0 then s.readKernel y.space d else (s, none)
        let known : Prop := d.ok = true ∧ (d.kind = 0 → k.2.isSome = true)
        (d.kind = 2 → s.submit b g d = if s.isUnder n d.cgrid.toNat = true then (s.cancel d.cgrid.toNat, d.cgrid)
          else (s, BitVec.ofNat 64 (2 ^ 63 + 4)))
        ∧ (d.kind ≠ 2 → 10 ≤ y.depth → s.submit b g d = (s, BitVec.ofNat 64 (2 ^ 63 + 1)))
        ∧ (d.kind ≠ 2 → y.depth < 10 → ¬ known → s.submit b g d = (k.1, BitVec.ofNat 64 (2 ^ 63 + 2)))
        ∧ (d.kind ≠ 2 → y.depth < 10 → known → 4096 ≤ s.liveGrids → s.submit b g d = (k.1, BitVec.ofNat 64 (2 ^ 63 + 3)))
        ∧ (d.kind ≠ 2 → y.depth < 10 → known → s.liveGrids < 4096 →
          let r := k.1.accept d y.space (min y.prio d.prio) y.queue (y.depth + 1) y.handler (some n)
            (if d.q8 then some (b, g) else none)
          s.submit b g d = (r.1, BitVec.ofNat 64 r.2)))
    ∧ (∀ (a b : BitVec 5) (g : BitVec 4), let i : Instr := .compl a b g
      AtIssue i c s →
      let I := issueOf i c s
      let L := lowest I.act
      let n := (I.G.rv b.toNat L).toNat
      let va := I.G.rv a.toNat L + 8 + BitVec.ofNat 64 (8 * (n / 64))
      (I.act = 0 → Effects i c s Written.nothing)
      ∧ (I.act ≠ 0 → s.checkOf c.blk va 3 3 = 0 →
        (s.releaseOk I = false → Blocks i c s .commit .reissue)
        ∧ (s.releaseOk I = true → (s.lsb core).length < 64 → ∃ (e : Access) (y : Group), HeadAt c c.next (c.group s) y ∧ e.wait = BitVec.twoPow 32 L
          ∧ e.vaAt L = va ∧ e.d0.getD L 0 = BitVec.twoPow 64 (n % 64) ∧ e.kind = 3
          ∧ let u := ({ (s.lookUp core space (BitVec.twoPow 32 L) fun _ => va).setGrp c.blk c.grp y with
              fresh := s.fresh + 1 } : State).startCommit c.blk true
            let last := (u.blk c.blk).lastCommit
            (u.blk c.blk).count = (s.blk c.blk).count + 1
            ∧ Sys2Proof.Machine.exec i s = .next (((u.enterStore { e with after := last }).post
                (.atomicPerform c.blk s.fresh L)).parkOn c.blk c.grp .commit (.commit last false none none)).markDone)))
    ∧ (∀ (a b : BitVec 5) (g : BitVec 4), let i : Instr := .waitc a b g
      AtIssue i c s →
      let I := issueOf i c s
      let L := lowest I.act
      let n := (I.G.rv b.toNat L).toNat
      let base := I.G.rv a.toNat L
      let va := base + 8 + BitVec.ofNat 64 (8 * (n / 64))
      (I.act = 0 → Effects i c s Written.nothing)
      ∧ (I.act ≠ 0 → I.G.waitOk = true → ∃ y, HeadAt c c.next (c.group s) y ∧
          Sys2Proof.Machine.exec i s = .next (wordDone ((s.moved c).acquire c.blk 4) c { y with waitOk := false } 0))
      ∧ (I.act ≠ 0 → I.G.waitOk = false → s.checkOf c.blk va 3 1 = 0 → s.checkOf c.blk base 3 1 = 0 → ∃ (e : Access) (y : Group),
          HeadAt c c.pc (c.group s) y ∧ e.wait = BitVec.twoPow 32 L ∧ e.vaAt L = va
          ∧ let u := (s.lookUp core space (BitVec.twoPow 32 L) fun _ => va).lookUp core space (BitVec.twoPow 32 L) fun _ => base
            Sys2Proof.Machine.exec i s = .next { u.setGrp c.blk c.grp (y.parkedOn .wait (.waitc e base (n % 64))
                s.cycles.toNat) with
              fresh := s.fresh + 1
              agenda := s.agenda ++ [.waitReread c.blk c.grp]
              cur := some { c with res := .blocked } }))

/-- R365, R366: CTXSV with a good address commits its block and parks until it writes the image; CTXLD reads an image and,
where it is valid, loads the group from it; TLBI takes the named entries from the memory-side TLBs and PSUMI from every
core's permission summary, and an operand with a reserved bit ends the block failed.
Bad addresses, what CTXLD leaves pending and PSUMI with ALL are read as in logs 98, 95 and 35. -/
def Obligations.PrivilegedWords : Prop :=
  ∀ (c : IssueCtx) (s : State) (a : BitVec 5) (g : BitVec 4),
    (AtIssue (.ctxsv a g) c s →
      let i : Instr := .ctxsv a g
      let I := issueOf i c s
      let va := I.G.rv a.toNat (lowest I.act)
      (I.act = 0 → Effects i c s Written.nothing)
      ∧ (I.act ≠ 0 → va.toNat % 4096 ≠ 0 → Traps i c s (c.trapOf 2 (accessDetail I.act 1 0 true va) []))
      ∧ (I.act ≠ 0 → va.toNat % 4096 = 0 → s.releaseOk I = false → Blocks i c s .commit .reissue)
      ∧ (I.act ≠ 0 → va.toNat % 4096 = 0 → s.releaseOk I = true → ∃ y, HeadAt c c.next (c.group s) y ∧
          let u := (s.setGrp c.blk c.grp y).startCommit c.blk false
          Sys2Proof.Machine.exec i s
            = .next (u.parkOn c.blk c.grp .handler (.image (u.blk c.blk).lastCommit va)).markDone))
    ∧ (AtIssue (.ctxld a g) c s →
      let i : Instr := .ctxld a g
      let I := issueOf i c s
      let va := I.G.rv a.toNat (lowest I.act)
      let r := ((s.moved c).acquire c.blk 4).readSeg ((s.moved c).partyOf c.blk) va.toNat imageSize
      (I.act = 0 → Effects i c s Written.nothing)
      ∧ (I.act ≠ 0 → va.toNat % 4096 ≠ 0 → Traps i c s (c.trapOf 1 (accessDetail I.act 1 0 false va) []))
      ∧ (I.act ≠ 0 → va.toNat % 4096 = 0 → r.2.1 = 0 →
        (headerBad r.2.2 = true ∨ tableBad ((r.2.2.drop 0x100).take 256) = true →
          Sys2Proof.Machine.exec i s = .next (r.1.endBlock c.blk .failed 7).markDone)
        ∧ (headerBad r.2.2 = false → tableBad ((r.2.2.drop 0x100).take 256) = false →
          ∀ u, r.1.writeSegs (r.1.partyOf c.blk) ((s.moved c).grp c.blk c.grp).frame.toNat (imageTrapSegs r.2.2) = (u, 0) →
          Sys2Proof.Machine.exec i s = .next ((u.updGrp c.blk c.grp fun y => y.takeImage r.2.2).parkOn c.blk c.grp .handler
            .nothing).markDone)))
    ∧ (AtIssue (.tlbi a g) c s →
      let i : Instr := .tlbi a g
      let I := issueOf i c s
      let w := I.G.rv a.toNat (lowest I.act)
      let t := s.invalidateTlb w
      (I.act = 0 → Effects i c s Written.nothing)
      ∧ (I.act ≠ 0 → bits w 53 2 ≠ 0 ∨ bits w 0 12 ≠ 0 →
          Sys2Proof.Machine.exec i s = .next ((s.moved c).endBlock c.blk .failed 7).markDone)
      ∧ (I.act ≠ 0 → bits w 53 2 = 0 → bits w 0 12 = 0 → ∃ y, HeadAt c c.next (c.group s) y ∧ Sys2Proof.Machine.exec i s
          = .next (wordDone t c (y.parkedOn .handler .nothing s.cycles.toNat) 0))
      ∧ (w.getLsbD 55 = true → ∀ d k, k / 2 ^ 53 % 256 = bits w 56 8 → oget (t.die d).tlb k = none)
      ∧ (w.getLsbD 55 = false → ∀ size, size < 4 → oget (t.die (ownerOf w)).tlb
          (tlbKey size (bits w 56 8) (BitVec.ofNat 64 (bits w 0 53))) = none))
    ∧ (AtIssue (.psumi a g) c s →
      let i : Instr := .psumi a g
      let I := issueOf i c s
      let w := I.G.rv a.toNat (lowest I.act)
      let t := s.invalidateSummary w
      (I.act = 0 → Effects i c s Written.nothing)
      ∧ (I.act ≠ 0 → bits w 53 2 ≠ 0 ∨ bits w 0 30 ≠ 0 →
          Sys2Proof.Machine.exec i s = .next ((s.moved c).endBlock c.blk .failed 7).markDone)
      ∧ (I.act ≠ 0 → bits w 53 2 = 0 → bits w 0 30 = 0 → ∃ y, HeadAt c c.next (c.group s) y
          ∧ Sys2Proof.Machine.exec i s = .next (wordDone t c y 0))
      ∧ (w.getLsbD 55 = true → ∀ n k, k / 2 ^ 23 = bits w 56 8 → oget (t.core n).summary k = none)
      ∧ (w.getLsbD 55 = false → ∀ n, oget (t.core n).summary (summaryKey (bits w 56 8) w) = none))

/-! ### Blocks and grids -/

/-- R258, R319, R320, R359, R364, R368, R369: a save stops its block and its team set, deschedules its capsules once no step of
one is in flight, reads the Bed once no copy has bytes to read there, commits what the block holds once its work has settled,
and writes its frames, SAVED last, once nothing of it is under way; a frame that cannot be written is a hardware error of
cause 7. A restore brings a saved block back onto a core where it and its team set fit, with its set; a hardware error rolls
a block that has committed nothing back to be relaunched on another cluster, at most twice, and ends any other failed, one
of a cancelled grid cancelled; HEND ends the block of its handler.
What a save keeps beside its frames and where a relaunched block goes are the model's (logs 30 and 82), and that a block of a
cancelled grid ends cancelled is read as in log 32. -/
def Obligations.ContextsAndErrors : Prop :=
  ∀ (s : State) (b : Nat), (oget s.blocks b).isSome = true →
    let x := s.blk b
    (x.life ≠ .resident ∨ x.job.isSome = true → Sys2Proof.Machine.exec (.contextSave b) s = .next s)
    ∧ (x.life = .resident → x.job = none →
        let u0 := if x.saving = true then s else s.stopBlock b
        let u := if (u0.blk b).bedTaken = true then u0 else u0.descheduleAll b
        let v := if (u.blk b).bedTaken = true then u else u.takeBed b
        let steps : Bool := (oitems (u.blk b).groups).any fun g => g.2.waitsFor Await.inFlight
        ((u.blk b).bedTaken = false → (u.bedRead? b = true ∨ steps = true) →
          Sys2Proof.Machine.exec (.contextSave b) s = .next (u.postOnce (.contextSave b)))
        ∧ ((u.blk b).bedTaken = true ∨ (u.bedRead? b = false ∧ steps = false) →
          Sys2Proof.Machine.exec (.contextSave b) s = .next (
            if v.settled b = true ∧ (v.blk b).held ≠ [] then (v.startCommit b false).postOnce (.contextSave b)
            else if v.quiet b = true then v.performSave b else v.postOnce (.contextSave b))))
    ∧ ((∀ g ∈ oitems x.groups, g.2.parks = []) →
        s.stopBlock b = (s.updBlk b fun x => { x with saving := true }).postAll ((s.teamSet b).map .contextSave))
    ∧ (s.quiet b = true → x.held = [] ∧ x.commits = [] ∧ s.settled b = true)
    ∧ (((oitems x.groups).any fun g => g.2.waitsFor Await.inFlight) = true → s.descheduleAll b = s)
    ∧ (∀ t ok, ((oitems x.groups).foldl (fun s g => s.updGrp b g.1 Group.parkForSave) s).writeFrames b = (t, ok) →
        (ok = true → s.performSave b = (t.leaveCore b).freePlace b true
            ∧ ((oget t.blocks b).isSome = true → ((t.leaveCore b).blk b).life = .saved))
        ∧ (ok = false → s.performSave b
            = (t.updBlk b fun x => { x with saving := false, bedTaken := false }).hwError b 7))
    ∧ (∀ y : Group, (∃ h, y.savedSeg = [(0, h)] ∧ h.length = 8 ∧ (getLe h 0 8).testBit 3 = true)
        ∧ ∀ n, ∃ h t, y.saveHeader false n = (0, h) :: t ∧ (getLe h 0 8).testBit 3 = false)
    ∧ (∀ k, x.life ≠ .saved → Sys2Proof.Machine.exec (.contextRestore b k) s = .next s)
    ∧ (∀ k, x.life = .saved → (oget s.grids x.grid).isSome = true →
        let room : Prop := s.mayUse x.grid k = true ∧ s.fits x.grid k = true ∧ s.setFits x.grid x.lcore = true
        let engines : Prop := (x.ownedMx = true → (s.core k).mx.owner = none) ∧ s.engineTaken x.grid x.lcore = false
        (¬ room → Sys2Proof.Machine.exec (.contextRestore b k) s = .next (s.postOnce (.blockStart x.grid x.lcore)))
        ∧ (room → ¬ engines → Sys2Proof.Machine.exec (.contextRestore b k) s = .next (s.post (.contextRestore b k)))
        ∧ (room → engines → Sys2Proof.Machine.exec (.contextRestore b k) s
            = .next ((s.restoreBlock b k).restoreMates x.grid x.lcore)))
    ∧ (∀ n l : Nat, (∀ p ∈ s.seatsOf n l, p.1 = l) → s.restoreMates n l = s)
    ∧ (∀ g v, let cause := (s.grp b g).cause.toNat % 32
        Sys2Proof.Machine.exec (.hendWrite b g v) s = .next (if v.toNat % 4 = 1 then s.endBlock b .failed cause
          else if v.toNat % 4 = 2 then s.endBlock b (if cause = 0x0A then .cancelled else .failed) cause else s))
    ∧ (Sys2Proof.Machine.exec (.hardwareError b 2) s = .next (if s.twinDue b = true then s.hwError b 2 else s))
    ∧ (∀ cause, x.life ≠ .resident → x.life ≠ .saved → Sys2Proof.Machine.exec (.hardwareError b cause) s = .next s)
    ∧ (∀ cause, cause ≠ 2 → x.life = .resident ∨ x.life = .saved → x.job.isSome = true →
        Sys2Proof.Machine.exec (.hardwareError b cause) s = .next (s.endJob b (if cause = 1 then 3 else 8)))
    ∧ (∀ cause, x.life = .resident ∨ x.life = .saved → x.job = none → (cause = 2 → s.twinDue b = true) →
        let again : Prop := x.count = 0 ∧ x.relaunches < 2 ∧ s.capsuleCommitted b = false
        let log (o : Nat) : State := s.logError (dieOfCore x.core) 1 cause o (pcoreOf x.core).toNat x.grid x.id
        let sus (t : State) : State := if cause = 2 ∨ cause = 3 then t.suspectCore b x.core else t
        (¬ again → Sys2Proof.Machine.exec (.hardwareError b cause) s = .next ((sus (log 2)).endBlock b .failed 0x0D))
        ∧ (again → (s.grid x.grid).cancelled = true →
            Sys2Proof.Machine.exec (.hardwareError b cause) s = .next ((sus (log 1)).endBlock b .cancelled 0))
        ∧ (again → (s.grid x.grid).cancelled = false → ∃ t, Sys2Proof.Machine.exec (.hardwareError b cause) s = .next t ∧ oget t.blocks b = none
            ∧ .blockStart x.grid x.lcore ∈ t.agenda ∧ .coreAssignment x.core ∈ t.agenda ∧ (∀ m, m ∈ s.teamSet b → .contextSave m ∈ t.agenda)
            ∧ ((oget s.grids x.grid).isSome = true → (t.grid x.grid).rebound
                = (s.grid x.grid).rebound ++ [(x.id, x.lcore, x.relaunches + 1, x.core / 16)]
              ∧ oget (t.grid x.grid).remap x.lcore = some (otherCluster x.core))))
    ∧ (∀ k, k < 192 → otherCluster k / 16 ≠ k / 16 ∧ otherCluster k < 192)

/-- R154, R318 to R329, R373 to R375: the Trellis serves the queue of the highest priority, or one passed over too long;
a queue keeps its turn until it has been served; a grid gets a slice of its queue's arena that no other holds; a cluster
node without blocks steals the upper half of the largest range of its die, or its die node that of the other die, for its
six clusters, in whole team sets; a block starts with every group in its start state, once no other that would take its core
goes before it; a freed core goes to its first claimant; a slice of time that is over saves its block; a drained grid whose
children are gone writes its header, and leaves once its status word is delivered.
Placement, fairness, identifiers and how a queue takes a CANCEL descriptor, or stops, are the model's where the spec leaves
them open (logs 36, 60, 70, 71 and 78). -/
def Obligations.GridsRun : Prop :=
  ∀ s : State,
    (∀ p, s.waitingPrios.find? s.agedPrio = some p → Sys2Proof.Machine.exec .descriptorAccept s = .next (s.grant p))
    ∧ (∀ p l, s.waitingPrios.find? s.agedPrio = none → s.waitingPrios = p :: l →
        Sys2Proof.Machine.exec .descriptorAccept s = .next (s.grant p))
    ∧ (∀ p, Sys2Proof.Machine.exec (.priorityAgingGrant p) s
        = .next (if s.agedPrio p = true ∧ s.waitingQueues p ≠ [] then s.grant p else s))
    ∧ (∀ q r w, let x := s.queue q
        let d := descOf w
        s.readWords x.space (x.ring + BitVec.ofNat 64 (64 * (x.cons % 2 ^ x.depthLog))) 8 = (r, some w) →
        (d.kind = 2 ∧ d.ok = true → (s.acceptFrom q).2 = true ∧ ((s.acceptFrom q).1.queue q).cons = ((if (oget s.grids d.cgrid.toNat).isSome = true then
          r.cancel d.cgrid.toNat else r).queue q).cons + 1)
        ∧ (¬ (d.kind = 2 ∧ d.ok = true) → s.liveGrids < 4096 → let a := (r.accept d x.space x.prio q 0 x.handler none none).1
          s.acceptFrom q = ((a.updQueue q fun x => { x with cons := x.cons + 1 }).postOnce .descriptorAccept, true))
        ∧ (¬ (d.kind = 2 ∧ d.ok = true) → 4096 ≤ s.liveGrids → s.acceptFrom q = (r, false)))
    ∧ (∀ q r, let x := s.queue q
        s.readWords x.space (x.ring + BitVec.ofNat 64 (64 * (x.cons % 2 ^ x.depthLog))) 8 = (r, none) →
        s.acceptFrom q = (((r.stopped q).logError 0 2 2 0 q 0 0).postOnce .descriptorAccept, false))
    ∧ (∀ p q, s.waitingQueues p = [q] → let r := s.acceptFrom q
        s.grant p = if r.2 = true then { r.1 with
            rr := sset 0 s.rr p (q + 1), passed := passOver s.passed p s.waitingPrios s.cycles.toNat } else r.1)
    ∧ (∀ n b, let y := s.grid n
        let q := s.queue y.queue
        let len := y.lcores * 0x8C0000
        (oget s.grids n).isSome = true → y.state = .accepted → y.graph = false → y.slice = none →
        s.firstSlice y.queue len = some b → ∃ t, Sys2Proof.Machine.exec (.frameSliceAllocation n) s = .next t
          ∧ (t.grid n).slice = some (BitVec.ofNat 64 b) ∧ t.arenas = s.arenas ++ [(n, y.queue, b, len)]
          ∧ q.arena.toNat ≤ b ∧ b + len ≤ q.arena.toNat + q.arenaSize.toNat
          ∧ (∀ u ∈ s.arenas, u.2.1 = y.queue → b + len ≤ u.2.2.1 ∨ u.2.2.1 + u.2.2.2 ≤ b)
          ∧ ∀ l, l < min y.lcores y.blocks → .blockStart n l ∈ t.agenda)
    ∧ (∀ n die cl j, let y := s.grid n
        let k := 6 * die + cl
        let r := y.range j
        let first := (r.1 + y.unit - 1) / y.unit * y.unit
        let sets := (r.2 - first + y.unit - 1) / y.unit
        let cut := first + (sets - max 1 (sets / 2)) * y.unit
        (oget s.grids n).isSome = true → y.determ = false → y.left k = 0 → k < 12 → y.stealFrom k = some j →
        ∃ t, Sys2Proof.Machine.exec (.rangeSteal n die cl) s = .next t ∧ (t.grid n).range j = (r.1, cut)
          ∧ cut % y.unit = 0 ∧ r.1 ≤ cut ∧ cut < r.2
          ∧ (j / 6 = k / 6 → (t.grid n).range k = (cut, r.2))
          ∧ (j / 6 ≠ k / 6 → ∀ i, i < 6 → (t.grid n).range (k / 6 * 6 + i)
              = (splitDie r.2 y.unit (cut / y.unit) ((r.2 - cut + y.unit - 1) / y.unit)).getD i (0, 0)))
    ∧ (∀ n l id rel k, let y := s.grid n
        let t := s.startBlock n l id rel k
        let x := t.blk (blockKey n id)
        x.life = .resident ∧ x.grid = n ∧ x.id = id ∧ x.lcore = l ∧ x.core = k ∧ x.space = y.space ∧ x.rkey = y.rkey
          ∧ x.rctr = y.rctr ∧ x.count = 0 ∧ t.mem = s.mem
          ∧ ∀ g, g < y.groups → let z := x.grp g
            z.live = BitVec.allOnes 32 ∧ z.rs 0 = y.args ∧ z.smode = y.smode ∧ z.handler = y.handler ∧ z.level = false
              ∧ z.phases = y.phase ∧ z.frame = x.bframe + 0x400000 + BitVec.ofNat 64 (g * 0x26000)
              ∧ ∀ L, L < 32 → z.lanePc L = y.entry ∧ z.lf L = seedLfsr y.rkey id g L ∧ ∀ r, z.rv r L = 0)
    ∧ (∀ n l id rel k, let y := s.grid n
        (oget s.grids n).isSome = true → y.slice.isSome = true → (y.state = .accepted ∨ y.state = .running) → l < y.lcores →
        s.turnOf n l = .start id rel → y.unit = 1 → oget y.remap l = some k → s.mayUse n k = true →
        s.fits n k = true → y.avoid l ≠ some (k / 16) →
        (s.ahead n l k = none → ∃ u : State,
          Sys2Proof.Machine.exec (.blockStart n l) s = .next (u.startBlock n l id rel k)
            ∧ u.blocks = s.blocks ∧ u.mem = s.mem ∧ (u.grid n).rebound = y.rebound.filter (·.1 != id))
        ∧ (∀ c, s.ahead n l k = some c → ∃ u, Sys2Proof.Machine.exec (.blockStart n l) s = .next u
            ∧ u.blocks = s.blocks ∧ u.mem = s.mem ∧ .blockStart c.gid c.lcore ∈ u.agenda ∧ .blockStart n l ∈ u.agenda))
    ∧ (∀ k, s.claimants k = [] → Sys2Proof.Machine.exec (.coreAssignment k) s = .next s)
    ∧ (∀ k e l, s.claimants k = e :: l → ∃ t, Sys2Proof.Machine.exec (.coreAssignment k) s = .next t
        ∧ .blockStart e.gid e.lcore ∈ t.agenda ∧ t.blocks = s.blocks
        ∧ (s.fits e.gid k = true → e.placed = false → (s.grid e.gid).unit = 1 → (oget s.grids e.gid).isSome = true →
            oget (t.grid e.gid).remap e.lcore = some k))
    ∧ (∀ b, Sys2Proof.Machine.exec (.timeSliceExpiry b) s
        = .next (if s.sliceOver b = true then s.postOnce (.contextSave b) else s))
    ∧ (∀ n y, oget s.grids n = some y →
        (y.state = .draining → s.children n = [] → Sys2Proof.Machine.exec (.gridRetirement n) s
          = .next ((s.writeHeader n).post (.gridRetirement n)))
        ∧ (y.state = .draining → s.children n ≠ [] → Sys2Proof.Machine.exec (.gridRetirement n) s = .next s)
        ∧ (y.state = .retired → y.q8 = none → Sys2Proof.Machine.exec (.gridRetirement n) s = .next (s.removeGrid n)
            ∧ oget (s.removeGrid n).grids n = none)
        ∧ (∀ b g, y.state = .retired → y.q8 = some (b, g) → (oget s.blocks b).isSome = true → (s.blk b).life = .resident →
            (oget (s.blk b).groups g).isSome = true → (s.grp b g).ended = false → ((s.grp b g).queue 8).length < 32 →
            Sys2Proof.Machine.exec (.gridRetirement n) s = .next ((s.updGrp b g fun z =>
              z.setQueue 8 ((s.grp b g).queue 8 ++ [y.statusWord n])).removeGrid n)))

/-- R330 to R333: a graph that may act on the node it stands before launches a kernel node's descriptor as its child, enters a
loop or tests its condition and limit, keeps the mask that an admit node's table gives, and at an end node goes round its
innermost loop or drains; one that may not act is as before, and a cancelled one drains.
Where a graph stops on a bad node is read as in log 59. -/
def Obligations.GraphsRun : Prop :=
  ∀ (s : State) (n : Nat), let y := s.grid n
    (s.graphReady n = false → Sys2Proof.Machine.exec (.graphKernelNode n) s = .next s
      ∧ Sys2Proof.Machine.exec (.graphLoopNode n) s = .next s ∧ Sys2Proof.Machine.exec (.graphAdmitNode n) s = .next s
      ∧ Sys2Proof.Machine.exec (.graphEndNode n) s = .next s)
    ∧ (s.graphReady n = true → y.cancelled = true → let t := s.drainGraph n false
        Sys2Proof.Machine.exec (.graphKernelNode n) s = .next t ∧ Sys2Proof.Machine.exec (.graphLoopNode n) s = .next t
        ∧ Sys2Proof.Machine.exec (.graphAdmitNode n) s = .next t ∧ Sys2Proof.Machine.exec (.graphEndNode n) s = .next t)
    ∧ (s.graphReady n = true → y.cancelled = false →
      (∀ r next arg z u l, s.readNode y.space y.node = (r, some (1, next, arg, z)) → arg.toNat % 64 = 0 →
        r.readWords y.space arg 8 = (u, some l) → (descOf l).kind = 0 → y.depth < 10 → u.liveGrids < 4096 →
        let d := descOf l
        let a := u.accept d y.space (min y.prio d.prio) y.queue (y.depth + 1) y.handler (some n) none
        Sys2Proof.Machine.exec (.graphKernelNode n) s = .next (((a.1.updGrid a.2 fun k => { k with
            slotmask := y.launchMask, iter := y.launchIter }).updGrid n fun y => { y with
              child := some a.2, node := next }).graphRuns n))
      ∧ (y.loops.head?.any (·.due) = false → y.loops.length < 4 → Sys2Proof.Machine.exec (.graphLoopNode n) s
          = .next (((s.updGrid n fun y => { y with loops := ⟨y.node, 0, true, none⟩ :: y.loops }).graphRuns n).loopCheck n))
      ∧ (y.loops.head?.any (·.due) = false → 4 ≤ y.loops.length →
          Sys2Proof.Machine.exec (.graphLoopNode n) s = .next (s.drainGraph n true))
      ∧ (∀ p l r next arg cond limit u v, y.loops = p :: l → p.due = true →
          s.readNode y.space p.node = (r, some (2, next, arg, cond, limit)) → cond.toNat % 8 = 0 →
          r.vread y.space cond 8 = (u, 0, v) → Sys2Proof.Machine.exec (.graphLoopNode n) s
            = .next (if v = 0 ∨ (limit ≠ 0 ∧ p.iter = limit.toNat)
              then (u.updGrid n fun y => { y with loops := l, node := next }).goNext n
              else (u.updGrid n fun y => { y with loops := { p with due := false } :: l, node := arg }).goNode n))
      ∧ (∀ r next arg z u m, s.readNode y.space y.node = (r, some (3, next, arg, z)) →
          r.admitSlots y.space arg = (u, some m) → Sys2Proof.Machine.exec (.graphAdmitNode n) s
            = .next (((u.updGrid n fun y => { (y.setMask m) with node := next }).graphRuns n).goNext n))
      ∧ (y.loops = [] → Sys2Proof.Machine.exec (.graphEndNode n) s = .next ((s.graphRuns n).drainGraph n false))
      ∧ (∀ p l, y.loops = p :: l → Sys2Proof.Machine.exec (.graphEndNode n) s = .next ((s.updGrid n fun y => { y with
          loops := { p with iter := p.iter + 1, due := true, mask := none } :: l }).post (.graphLoopNode n))))

/-! ### The host, the fabric and the management controller -/

/-- R62, R278, R370, R377 to R379: the host reads and writes committed bytes through BAR2 line by line, takes, returns and
copies lines over CXL.mem, and a peer's RMA reads, writes and adds where the peer table admits it and its pages allow; an
access that is not backed or not admitted is answered so; nothing of this happens before the ports are up.
The message kinds, a write-back that gives the line up, a coherent read of a cached line and an unaligned atomic are
the model's (logs 18, 21, 22 and 24). -/
def Obligations.HostAccesses : Prop :=
  ∀ s : State,
    (∀ i, needsPorts i = true → s.boot ≠ .running → Sys2Proof.Machine.exec i s = .next s)
    ∧ (s.boot = .running →
      (∀ off n, bar2Backed off n = false → Sys2Proof.Machine.exec (.hostBar2Read off n) s = .next (s.sent 21 off []))
      ∧ (∀ off data, bar2Backed off data.length = false → Sys2Proof.Machine.exec (.hostBar2Write off data) s = .next s)
      ∧ (∀ off n, bar2Backed off n = true → 1 ≤ n → off % 128 + n ≤ 128 →
          let v := s.hostView (off / bar2Half) (off % bar2Half / 128) (bytesMask (off % 128) n)
          Sys2Proof.Machine.exec (.hostBar2Read off n) s
            = .next (s.sent (if v.2 = 0 then 20 else 22) off (bytesLe n (lineGet v.1 (off % 128) n))))
      ∧ (∀ off data, let n := data.length
          bar2Backed off n = true → 1 ≤ n → off % 128 + n ≤ 128 → Sys2Proof.Machine.exec (.hostBar2Write off data) s
            = .next (s.hostMerge (off / bar2Half) (off % bar2Half / 128) (bytesMask (off % 128) n)
              (linePut (leBytes data) (off % 128) n)))
      ∧ (∀ d line, d < 2 → inHbm (line * 128) = true →
          let v := s.hostView d line (BitVec.allOnes 1024)
          let bytes := bytesLe 128 v.1.toNat
          (∃ t, Sys2Proof.Machine.exec (.hostTakeLine d line) s = .next t ∧ oget (t.die d).hostLines line
              = some ⟨true, false, (oget (s.die d).hostLines line).bind (·.data)⟩
            ∧ t.messages = s.messages ++ [⟨if v.2 = 0 then 23 else 22, physKey d (line * 128), bytes⟩])
          ∧ Sys2Proof.Machine.exec (.hostCoherentRead d line) s = .next ((s.updDie d fun x => { x with
              hostLines := oset x.hostLines line ((oget x.hostLines line).getD ⟨false, false, none⟩) }).sent (if v.2 = 0 then 24 else 22)
                (physKey d (line * 128)) bytes))
      ∧ (∀ d line, (2 ≤ d ∨ inHbm (line * 128) = false) →
          Sys2Proof.Machine.exec (.hostTakeLine d line) s = .next (s.sent 21 (physKey d (line * 128)) [])
          ∧ Sys2Proof.Machine.exec (.hostCoherentRead d line) s = .next (s.sent 21 (physKey d (line * 128)) []))
      ∧ (∀ d line data, (oget (s.die d).hostLines line = none →
            Sys2Proof.Machine.exec (.hostLineWriteback d line data) s = .next s)
          ∧ (data.length = 128 → (oget (s.die d).hostLines line).isSome = true →
            Sys2Proof.Machine.exec (.hostLineWriteback d line data) s
              = .next ((s.hostMerge d line (BitVec.allOnes 1024) (linePut (leBytes data) 0 128)).updDie d fun x => { x with
                hostLines := odel x.hostLines line })))
      ∧ (∀ d job ridx va data, let r := s.inbound d job ridx 2 va data.length
          (r.2 = none → Sys2Proof.Machine.exec (.inboundRmaWrite d job ridx va data) s = .next (r.1.sent 33 va []))
          ∧ (∀ sp l, r.2 = some (sp, l) → s.inboundHeld l = none → Sys2Proof.Machine.exec (.inboundRmaWrite d job ridx va data) s
              = .next ((r.1.inboundMerge sp l data).sent 30 va [])))
      ∧ (∀ d job ridx va n, let r := s.inbound d job ridx 1 va n
          (r.2 = none → Sys2Proof.Machine.exec (.inboundRmaRead d job ridx va n) s = .next (r.1.sent 33 va []))
          ∧ (∀ sp l, r.2 = some (sp, l) → s.inboundTaken l = [] → let v := r.1.inboundView sp l
              Sys2Proof.Machine.exec (.inboundRmaRead d job ridx va n) s
                = .next (r.1.sent (if v.2 = true then 32 else 31) va v.1)))
      ∧ (∀ d job ridx va w, let r := s.inbound d job ridx 3 va 8
          (r.2 = none ∨ va % 8 ≠ 0 → Sys2Proof.Machine.exec (.inboundRmaAtomic d job ridx va w) s = .next (r.1.sent 33 va []))
          ∧ (∀ sp l, r.2 = some (sp, l) → va % 8 = 0 → s.inboundHeld l = none →
              Sys2Proof.Machine.exec (.inboundRmaAtomic d job ridx va w) s = .next ((r.1.inboundMerge sp l
                (bytesLe 8 (leBytes (r.1.inboundView sp l).1 + w.toNat))).sent 30 va [])))
      ∧ (∀ d kind, Sys2Proof.Machine.exec (.inboundUnsupportedPacket d kind) s = .next (s.sent 34 (d * 2 ^ 16 + kind) [])))

/-- R85, R88, R376, R380: a port decoder keeps the upper bits of its range, and one that meets another enabled port's stays
disabled and is logged; a link goes down and comes up; a failed bridge lane is logged, and data that crosses it for the blocks whose
flits it carried arrives poisoned, in their loads, in the caches, in the Bed lines that their copies still land and in the
accesses that they have out; the L2's protection changes as it is told, way 7 of
every set being left for DEC-TED, and so does a cluster's L1 mode, a change dropping its lines.
The dropped low bits, the port that a clash disables and the free bit of a failed lane are the model's (logs 16 and
17). -/
def Obligations.PortsAndProtection : Prop :=
  ∀ s : State,
    (s.boot = .running → ∀ d p base size, d < 2 → p < 5 →
      let b := base / 2 ^ 28 * 2 ^ 28
      let n := size / 2 ^ 28 * 2 ^ 28
      let clash : Prop := ∃ q ∈ oitems (s.die d).ports, q.1 ≠ p ∧ q.2.enabled = true ∧ rangesMeet q.2.base q.2.size b n = true
      let port (e : Bool) : State := s.updDie d fun x => { x with
        ports := oset x.ports p { x.port p with base := b, size := n, enabled := e } }
      (¬ clash → Sys2Proof.Machine.exec (.secondTierDecoderWrite d p base size) s = .next (port true))
      ∧ (clash → Sys2Proof.Machine.exec (.secondTierDecoderWrite d p base size) s = .next ((port false).logPort d p)))
    ∧ (∀ (d p : Nat) (up : Bool), d < 2 → p < 5 →
      let i : Instr := if up then .secondTierLinkUp d p else .secondTierLinkDown d p
      ∃ t, Sys2Proof.Machine.exec i s = .next t ∧ (t.die d).port p = { (s.die d).port p with up := up }
        ∧ (∀ q, q ≠ p → (t.die d).port q = (s.die d).port q) ∧ t.mem = s.mem ∧ t.blocks = s.blocks)
    ∧ (∀ d lane, ∃ r : State, Sys2Proof.Machine.exec (.bridgeLaneFailure d lane) s
        = .next (r.ringPush d (r.die d).elogBase.toNat (r.die d).ringSize.toNat 32 (5 * 2 ^ 56 + lane % 2 ^ 16)).1
        ∧ r.mem = s.mem
        ∧ (∀ b x, s.blocks = [(b, some x)] → let u : State := { s with free := s.free + 1 }
            r = if (Config.freeWord s.free).getLsbD 0 = true then ((u.poisonCopies b).poisonLandings b).updBlk b
              fun y => { y.poisonBridge with flawed := u.accessesOut b } else u))
    ∧ (∀ b id c, let d := dieOfCore (s.blk b).core
        oget s.cmds id = some c → oget (s.poisonLandings b).cmds id
          = some (if c.blk = b ∧ c.queue = 0 then (c.crossing d).foldl Command.poisonLine c else c))
    ∧ (∀ (c : Command) r l, l ∈ (c.poisonLine r).landing → l.line = r.1 → l.failed = true)
    ∧ (∀ a : Access, ∀ q ∈ a.poisonRemote.reqs, ∃ r ∈ a.reqs, q = if r.served = true ∧ r.returned = false
        ∧ r.crossed = true then { r with poison := BitVec.allOnes 1024 } else r)
    ∧ (∀ b line m l, let x := s.blk b
        let k := s.l1Core x.core
        x.crossing = [(line, m)] → oget (s.core k).l1 (lineKey x.space line) = some l →
        oget ((s.poisonCopies b).core k).l1 (lineKey x.space line) = some { l with poison := l.poison ||| (l.valid &&& m) })
    ∧ (∀ d k x, d < 2 → oget ((s.clearWay7 d).die d).l2 k = some x → x.way7 = false)
    ∧ (∀ d, Sys2Proof.Machine.exec (.sramRailLow d) s = .next ((s.clearWay7 d).updDie d fun x => { x with decTed := true })
        ∧ Sys2Proof.Machine.exec (.l2SecdedRestore d) s = .next (s.updDie d fun x => { x with decTed := false }))
    ∧ (s.boot = .running → ∀ cl f,
        let busy := ∃ b ∈ oitems s.blocks, b.2.life = .resident ∧ b.2.job = none ∧ clusterOfCore b.2.core = cl
        (12 ≤ cl ∨ busy ∨ sget false s.fused cl = f → Sys2Proof.Machine.exec (.clusterL1ModeWrite cl f) s = .next s)
        ∧ (cl < 12 → ¬ busy → sget false s.fused cl ≠ f → ∃ t, Sys2Proof.Machine.exec (.clusterL1ModeWrite cl f) s = .next t
          ∧ sget false t.fused cl = f ∧ (∀ k, clusterOfCore k = cl → (t.core k).l1 = [])
          ∧ (∀ k, clusterOfCore k ≠ cl → t.core k = s.core k) ∧ t.mem = s.mem ∧ t.blocks = s.blocks))

/-- R56, R370 to R374: a doorbell moves PROD on within its ring and wakes the Trellis, and any other value or a disabled queue
stops the queue with ERR; EN is set and cleared; a register write lands in the one register of its offset, a queue's
entry keeping its words while EN is 1 and its counters always.
The offsets of the home agent registers and the write of EN are the model's (logs 14 and 15), as are how a write of the mailbox's
CMD starts it (log 19) and the error that a bad doorbell logs on die 0 (log 60). -/
def Obligations.HostRegisters : Prop :=
  ∀ s : State, s.boot = .running →
    (∀ q v, q < 65536 → let x := s.queue q
      (x.en = true → x.prod ≤ v.toNat → v.toNat ≤ x.cons + 2 ^ x.depthLog → Sys2Proof.Machine.exec (.doorbellWrite q v) s
        = .next ((s.updQueue q fun x => { x with prod := v.toNat }).postOnce .descriptorAccept))
      ∧ ((x.en = false ∨ v.toNat < x.prod ∨ x.cons + 2 ^ x.depthLog < v.toNat) →
        Sys2Proof.Machine.exec (.doorbellWrite q v) s = .next ((s.stopped q).logError 0 2 1 0 q 0 0)))
    ∧ (∀ q, q < 65536 →
      Sys2Proof.Machine.exec (.queueEnable q) s
        = .next ((s.updQueue q fun x => { x with en := true, err := false }).postOnce .descriptorAccept)
      ∧ Sys2Proof.Machine.exec (.queueDisable q) s = .next (s.updQueue q fun x => { x with en := false }))
    ∧ (∀ off v, off % 8 ≠ 0 → Sys2Proof.Machine.exec (.configRegisterWrite off v) s = .next s)
    ∧ (s.mailbox.status = 1 → ∀ v, Sys2Proof.Machine.exec (.configRegisterWrite 0 v) s = .next s)
    ∧ (s.mailbox.status ≠ 1 →
        (∀ i n, mailboxNumber i = some n → n ≠ 6 → Sys2Proof.Machine.exec (.configRegisterWrite 0 n) s = .next { s with
          mailbox := { s.mailbox with cmd := n, status := 1 }, agenda := s.agenda ++ [i] })
        ∧ Sys2Proof.Machine.exec (.configRegisterWrite 0 6) s = .next { s with
          free := s.free + 1, mailbox := { s.mailbox with cmd := 6, status := 1 }
          agenda := s.agenda ++ [.mailboxLoadFirmware (Config.freeWord s.free).toNat] }
        ∧ (∀ v : Word, v = 0 ∨ 6 < v.toNat → Sys2Proof.Machine.exec (.configRegisterWrite 0 v) s
          = .next { s with mailbox := { s.mailbox with cmd := v, status := 2 } }))
    ∧ (∀ v, Sys2Proof.Machine.exec (.configRegisterWrite 0x08 v) s = .next { s with mailbox := { s.mailbox with arg0 := v } }
        ∧ Sys2Proof.Machine.exec (.configRegisterWrite 0x10 v) s = .next { s with mailbox := { s.mailbox with arg1 := v } }
        ∧ Sys2Proof.Machine.exec (.configRegisterWrite 0x18 v) s = .next s
        ∧ Sys2Proof.Machine.exec (.configRegisterWrite 0x20 v) s = .next { s with mailbox := { s.mailbox with resp := v } })
    ∧ (∀ q v, q < 65536 → let x := s.queue q
        let put (k : Nat) (y : Queue) : Prop := ∃ t, Sys2Proof.Machine.exec (.configRegisterWrite (0x1000000 + 64 * q + 8 * k) v) s
          = .next t ∧ t.queue q = y ∧ (∀ p, p ≠ q → t.queue p = s.queue p) ∧ t.mem = s.mem
        (x.en = true → put 0 x ∧ put 2 x ∧ put 3 x ∧ put 4 x
          ∧ put 1 { x with en := v.getLsbD 0, err := if v.getLsbD 0 = true then false else x.err })
        ∧ (x.en = false → put 0 { x with ring := v } ∧ put 2 { x with handler := v } ∧ put 3 { x with arena := v }
          ∧ put 4 { x with arenaSize := v }
          ∧ put 1 { x with
            depthLog := bits v 16 5, space := bits v 8 8, prio := bits v 4 4
            en := v.getLsbD 0, err := if v.getLsbD 0 = true then false else x.err })
        ∧ (∀ k, 5 ≤ k → k < 8 → put k x))
    ∧ (∀ d k v, d < 2 → k < 8 → ∃ t, Sys2Proof.Machine.exec (.configRegisterWrite (0x100000 + 0x10000 * d + 8 * k) v) s = .next t
        ∧ t.die d = (s.die d).setReg k v ∧ t.die (1 - d) = s.die (1 - d) ∧ t.mem = s.mem ∧ t.queues = s.queues)

/-- R381 to R384: a reset leaves memory and messages and nothing else that runs, and its ROM runs the device only where every
stage's image passes; the clock moves by 100 MHz within its range; a mailbox command shows itself running and is then done,
with its response in the host's buffer, or has failed.
What a reset keeps, the two steps of a command and the record's layout are the model's (logs 4, 19 and 20). -/
def Obligations.ManagementController : Prop :=
  ∀ s : State,
    (∃ t, Sys2Proof.Machine.exec .deviceReset s = .next t ∧ t.mem = s.mem ∧ t.messages = s.messages ∧ t.blocks = []
      ∧ t.grids = [] ∧ t.cmds = [] ∧ t.queues = [] ∧ t.cores = [] ∧ t.agenda = [] ∧ t.arenas = []
      ∧ (t.boot = .running ↔ ∀ k, k < Config.stageCount → imageOk (Config.romStage k) = true)
      ∧ (∀ k, t.boot = .recovery k → k < Config.stageCount ∧ imageOk (Config.romStage k) = false))
    ∧ (∃ t, Sys2Proof.Machine.exec .thermalReset s = .next t ∧ t.mem = s.mem ∧ t.blocks = [] ∧ t.boot = .rom
        ∧ t.agenda = [.deviceReset])
    ∧ Sys2Proof.Machine.exec .thermalThrottle s = .next { s with clock := max 1200 (s.clock - 100) }
    ∧ Sys2Proof.Machine.exec .powerCapThrottle s = .next { s with clock := max 1200 (s.clock - 100) }
    ∧ Sys2Proof.Machine.exec .mainClockRaise s = .next { s with clock := min 2100 (s.clock + 100) }
    ∧ (∀ i n, mailboxNumber i = some n → s.boot ≠ .rom → s.mailbox.status ≠ 1 → Sys2Proof.Machine.exec i s = .next { s with
        mailbox := { s.mailbox with cmd := n, status := 1 }, agenda := s.agenda ++ [i] })
    ∧ (∀ i n, mailboxNumber i = some n → (s.boot = .rom ∨ (s.mailbox.status = 1 ∧ (s.mailbox.cmd ≠ n ∨ ∃ j ∈ s.agenda, isMail j = true))) →
        Sys2Proof.Machine.exec i s = .next s)
    ∧ (s.boot ≠ .rom → s.mailbox.status = 1 →
      let ends (i : Instr) (t : State) (ok : Bool) : Prop := (∀ j ∈ s.agenda, isMail j = false) → mailboxNumber i = some s.mailbox.cmd →
        Sys2Proof.Machine.exec i s = .next { t with mailbox := { t.mailbox with status := if ok then 0 else 2 } }
      let w := s.mailbox.arg0
      ends .mailboxReadCertificate (s.sent 40 s.mailbox.resp.toNat ((List.range Config.certLength).map Config.certByte)) true
      ∧ (1000 ≤ w.toNat → w.toNat ≤ 2800 → ends .mailboxSetPowerCap { s with powerCap := w.toNat } true)
      ∧ (w.toNat < 1000 ∨ 2800 < w.toNat → ends .mailboxSetPowerCap s false)
      ∧ (∀ d cl k, d < 2 → cl < 6 → k < 16 → w = BitVec.ofNat 64 (d * 128 + cl * 16 + k) →
          ends .mailboxClearSuspect (s.updCore (d * 96 + cl * 16 + k) fun x => { x with suspect := false }) true)
      ∧ (256 ≤ w.toNat ∨ 6 ≤ w.toNat / 16 % 8 → ends .mailboxClearSuspect s false)
      ∧ (∀ n k, s.boot = .recovery k → imageOk (Config.firmwareImage n) = false → ends (.mailboxLoadFirmware n) s false)
      ∧ (∀ n k, s.boot = .recovery k → imageOk (Config.firmwareImage n) = true → ends (.mailboxLoadFirmware n)
          ((s.extend (Config.firmwareImage n)).runStages (k + 1) (Config.stageCount - (k + 1))) true)
      ∧ (∀ n, s.boot = .running → ends (.mailboxLoadFirmware n) s false)
      ∧ (let head := s.reportHead ((List.range 16).map fun i => Config.hostByte s.free (s.mailbox.resp.toNat + i))
        ends .mailboxAttest ({ s with free := s.free + 1 }.sent 40 s.mailbox.resp.toNat
          (head ++ (List.range 3309).map (Config.mldsaSign (Config.sha3 head)))) true)
      ∧ (s.mailbox.cmd = 2 → (∀ j ∈ s.agenda, isMail j = false) → ∃ t l, Sys2Proof.Machine.exec .mailboxTelemetryRead s = .next t
        ∧ t.messages = s.messages ++ [⟨40, s.mailbox.resp.toNat, l⟩] ∧ t.mailbox.status = 0 ∧ t.mem = s.mem
        ∧ getLe l 24 8 = s.clock % 2 ^ 64 ∧ (∀ k, k < 192 → (getLe l (l.length - 24) 24).testBit k = (s.core k).suspect)))
end

