-- ==== Sys2Proof/Laws/Float.lean ====
section
/-!
SUPPORT. The model's rounding is the rounding of 02_number_formats.md in whole numbers, and the value of an encoding is its
units.
-/

namespace Sys2Proof.Laws

open Sys2Proof.Machine Sys2Proof.Numbers

/-- The numbers of a format that the rounding rests on. -/
structure GoodFmt (F : Fmt) (b K : Nat) : Prop where
  bias : F.bias = b
  biasPos : 0 < b
  frac : 0 < F.fbits
  top : units F F.maxMag = F.maxMan * 2 ^ K
  umax : F.umax + subExp F = K
  manLe : F.maxMan < 2 ^ (F.fbits + 1)
  leMan : 2 ^ F.fbits ≤ F.maxMan
  expo : K + 2 < 2 ^ F.ebits ∨ (K + 2 = 2 ^ F.ebits ∧ F.maxMan + 1 < 2 ^ (F.fbits + 1))

theorem goodFmt_fp32 : GoodFmt fp32 127 253 := by constructor <;> decide
theorem goodFmt_bf16 : GoodFmt bf16 127 253 := by constructor <;> decide
theorem goodFmt_fp16 : GoodFmt fp16 15 29 := by constructor <;> decide
theorem goodFmt_e4m3 : GoodFmt e4m3 7 14 := by constructor <;> decide
theorem goodFmt_e5m2 : GoodFmt e5m2 15 29 := by constructor <;> decide
theorem goodFmt_a56 : GoodFmt a56 127 253 := by constructor <;> decide
theorem goodFmt_e8m16 : GoodFmt e8m16 127 253 := by constructor <;> decide
theorem goodFmt_e8m15 : GoodFmt e8m15 127 253 := by constructor <;> decide

theorem scaled_ratio (e : Int) : ((scaled 1 e).1 : ℚ) = 2 ^ e * (scaled 1 e).2 := by
  unfold scaled
  split
  · rename_i h
    obtain ⟨n, rfl⟩ := Int.eq_ofNat_of_zero_le h
    simp
  · rename_i h
    obtain ⟨n, hn⟩ := Int.eq_ofNat_of_zero_le (show 0 ≤ -e by omega)
    have : e = -(n : ℤ) := by omega
    subst this
    simp [zpow_neg]

theorem scaled_pos (e : Int) : 0 < (scaled 1 e).2 := by
  unfold scaled; split <;> simp

theorem log2_lt (n : Nat) (h : 0 < n) : (2 : ℚ) ^ ((n.log2 : Nat) : ℤ) ≤ n ∧ (n : ℚ) < 2 ^ ((n.log2 : ℤ) + 1) := by
  have h0 : n ≠ 0 := by omega
  constructor
  · rw [zpow_natCast]; exact_mod_cast Nat.log2_self_le h0
  · have := Nat.lt_log2_self (n := n)
    have e : ((n.log2 : ℤ) + 1) = ((n.log2 + 1 : Nat) : ℤ) := by push_cast; ring
    rw [e, zpow_natCast]; exact_mod_cast this

/-- The exponent of a magnitude. -/
theorem ilog2_spec (n d : Nat) (hn : 0 < n) (hd : 0 < d) :
    (2 : ℚ) ^ ilog2 n d * d ≤ n ∧ (n : ℚ) < 2 ^ (ilog2 n d + 1) * d := by
  obtain ⟨n1, n2⟩ := log2_lt n hn
  obtain ⟨d1, d2⟩ := log2_lt d hd
  have hd' : (0 : ℚ) < d := by exact_mod_cast hd
  have two : (2 : ℚ) ≠ 0 := by norm_num
  unfold ilog2
  simp only
  set e : ℤ := (n.log2 : ℤ) - d.log2 with he
  have key : d * (scaled 1 e).1 ≤ n * (scaled 1 e).2 ↔ (2 : ℚ) ^ e * d ≤ n := by
    have p : (0 : ℚ) < (scaled 1 e).2 := by exact_mod_cast scaled_pos e
    rw [← Nat.cast_le (α := ℚ)]
    push_cast
    rw [scaled_ratio]
    constructor
    · intro h; nlinarith [mul_comm (d : ℚ) (2 ^ e * (scaled 1 e).2)]
    · intro h; nlinarith
  have up : (n : ℚ) < 2 ^ (e + 1) * d := by
    calc (n : ℚ) < 2 ^ ((n.log2 : ℤ) + 1) := n2
      _ = 2 ^ (e + 1) * 2 ^ ((d.log2 : Nat) : ℤ) := by rw [← zpow_add₀ two]; congr 1; omega
      _ ≤ 2 ^ (e + 1) * d := by gcongr
  have lo : (2 : ℚ) ^ (e - 1) * d ≤ n := by
    calc (2 : ℚ) ^ (e - 1) * d ≤ 2 ^ (e - 1) * 2 ^ ((d.log2 : ℤ) + 1) := by gcongr
      _ = 2 ^ ((n.log2 : Nat) : ℤ) := by rw [← zpow_add₀ two]; congr 1; omega
      _ ≤ n := n1
  split
  · rename_i h; exact ⟨key.mp h, up⟩
  · rename_i h
    refine ⟨lo, ?_⟩
    have : (n : ℚ) < 2 ^ e * d := lt_of_not_ge fun h' => h (key.mpr h')
    simpa using this

/-- The random bits of a mode that a rounding statement names. -/
def srOf : RMode → Option Nat
  | .sr r => some r
  | _ => none

/-- RN, or SR with 24 random bits. -/
def Nearest : RMode → Prop
  | .rn => True
  | .sr r => r < 2 ^ 24
  | _ => False

theorem goesUp_iff (m : RMode) (hm : Nearest m) (neg : Bool) (t rem den c : Nat) (hc : 0 < c) (hd : 0 < den) :
    goesUp m neg t rem den = true ↔ goesAway (srOf m) t (rem * c) (den * c) := by
  have e1 : den * c < 2 * (rem * c) ↔ den < 2 * rem := by
    rw [← mul_assoc]; exact Nat.mul_lt_mul_right hc
  have e2 : 2 * (rem * c) = den * c ↔ 2 * rem = den := by
    rw [← mul_assoc]; exact Nat.mul_left_inj hc.ne'
  have e3 : rem * c * 2 ^ 24 / (den * c) = rem * 2 ^ 24 / den := by
    rw [mul_right_comm]; exact Nat.mul_div_mul_right _ _ hc
  cases m with
  | rn =>
    simp only [goesUp, goesAway, srOf, e1, e2]
    split
    · subst_vars; simp; omega
    · simp
  | sr r =>
    simp only [goesUp, goesAway, srOf, e3, fracD]
    split
    · subst_vars; simp
    · rename_i h; simp only [ne_eq, mul_eq_zero, h, hc.ne', or_self, not_false_eq_true, true_and]; exact decide_eq_true_iff
  | rz => cases hm
  | rd => cases hm
  | ru => cases hm

/-- What units of 2^u of a value are, in units of the smallest subnormal. -/
theorem unitsOf_eq (n d S : Nat) (u : Int) (hu : 0 ≤ u + S) :
    ∃ c, 0 < c ∧ n * 2 ^ S = n * (scaled 1 u).2 * c ∧ 2 ^ (u + S).toNat * d = d * (scaled 1 u).1 * c := by
  unfold scaled
  split
  · rename_i h
    obtain ⟨v, rfl⟩ := Int.eq_ofNat_of_zero_le h
    refine ⟨2 ^ S, by positivity, by simp, ?_⟩
    have : ((v : ℤ) + S).toNat = v + S := by omega
    simp only [this, Int.toNat_natCast, one_mul, pow_add]; ring
  · rename_i h
    obtain ⟨v, hv⟩ := Int.eq_ofNat_of_zero_le (show 0 ≤ -u by omega)
    refine ⟨2 ^ (u + S).toNat, by positivity, ?_, by simp; ring⟩
    have : S = (-u).toNat + (u + S).toNat := by omega
    conv_lhs => rw [this, pow_add]
    ring

theorem units_of (F : Fmt) (k t : Nat) (neg : Bool) (ht : t ≤ 2 ^ (F.fbits + 1))
    (hk : 0 < k → 2 ^ F.fbits ≤ t) (hm : k * 2 ^ F.fbits + t < 2 ^ F.mag) :
    encoded F neg (k * 2 ^ F.fbits + t) < 2 ^ F.width
      ∧ signBit F (encoded F neg (k * 2 ^ F.fbits + t)) = (neg && F.signed)
      ∧ units F (encoded F neg (k * 2 ^ F.fbits + t)) = t * 2 ^ k := by
  set g := k * 2 ^ F.fbits + t with hg
  have mb : magBits F (encoded F neg g) = g := by
    unfold magBits encoded
    split
    · rw [Nat.add_mod_left, Nat.mod_eq_of_lt hm]
    · exact Nat.mod_eq_of_lt hm
  refine ⟨?_, ?_, ?_⟩
  · unfold encoded Fmt.width
    cases neg <;> cases h : F.signed <;> simp <;> omega
  · unfold signBit encoded
    cases neg <;> cases h : F.signed <;> simp
    · exact Nat.testBit_lt_two_pow hm
    · rw [Nat.testBit_two_pow_add_eq, Nat.testBit_lt_two_pow hm]; rfl
  · unfold units
    simp only [mb]
    have p : 0 < 2 ^ F.fbits := by positivity
    have p2 : 2 ^ (F.fbits + 1) = 2 * 2 ^ F.fbits := by ring
    rcases lt_or_ge t (2 ^ F.fbits) with h | h
    · have k0 : k = 0 := by
        by_contra hk0; have := hk (by omega); omega
      subst k0
      have : g = t := by simp [hg]
      rw [this, Nat.div_eq_of_lt h, Nat.mod_eq_of_lt h]; simp
    · rcases lt_or_ge t (2 * 2 ^ F.fbits) with h2 | h2
      · have q : g / 2 ^ F.fbits = k + 1 := by
          apply Nat.div_eq_of_lt_le <;> nlinarith
        have r : g % 2 ^ F.fbits = t - 2 ^ F.fbits := by
          have := Nat.div_add_mod g (2 ^ F.fbits); rw [q] at this; nlinarith [Nat.sub_add_cancel h]
        rw [q, r]; simp [Nat.add_sub_cancel' h]
      · have tt : t = 2 * 2 ^ F.fbits := by omega
        have q : g / 2 ^ F.fbits = k + 2 := by
          apply Nat.div_eq_of_lt_le <;> nlinarith
        have r : g % 2 ^ F.fbits = 0 := by
          have := Nat.div_add_mod g (2 ^ F.fbits); rw [q] at this; nlinarith
        rw [q, r, tt]; simp [pow_succ]; ring

/-- A magnitude against a power of two, in units of 2^-S. -/
theorem le_scaled (n d S : Nat) (j : Int) (h : 0 ≤ j + S) :
    (2 : ℚ) ^ j * d ≤ n ↔ 2 ^ (j + S).toNat * d ≤ n * 2 ^ S := by
  have two : (2 : ℚ) ≠ 0 := by norm_num
  rw [← Nat.cast_le (α := ℚ)]
  have : ((2 ^ (j + S).toNat : Nat) : ℚ) = 2 ^ j * 2 ^ S := by
    push_cast; rw [← zpow_natCast, ← zpow_natCast (2 : ℚ) S, ← zpow_add₀ two]; congr 1; omega
  rw [Nat.cast_mul, this]; push_cast
  rw [show (2 : ℚ) ^ j * 2 ^ S * d = 2 ^ j * d * 2 ^ S by ring]
  exact (mul_le_mul_iff_left₀ (by positivity)).symm

theorem pow_mono (d : Nat) (i j : Int) (h : i ≤ j) : (2 : ℚ) ^ i * d ≤ 2 ^ j * d := by
  gcongr; norm_num

/-- Tininess after rounding (R45): the value rounded with no bound on the exponent stays below the smallest normal one. -/
theorem tiny_iff (F : Fmt) (m : RMode) (hm : Nearest m) (neg : Bool) (n d S : Nat) (e : Int) (frac : 0 < F.fbits)
    (eS : F.emin - F.fbits = -(S : ℤ)) (hd : 0 < d) (hi : (n : ℚ) < 2 ^ (e + 1) * d) {t2 r2 d2 : Nat}
    (h2 : unitsOf n d (e - F.fbits) = (t2, r2, d2)) (hlt : e < F.emin) :
    (e = F.emin - 1 ∧ goesUp m neg t2 r2 d2 = true ∧ t2 + 1 = 2 ^ (F.fbits + 1)) ↔
      ((2 ^ (F.fbits + 1) - 1) * d ≤ 2 * (n * 2 ^ S)
        ∧ goesAway (srOf m) (2 ^ (F.fbits + 1) - 1) (2 * (n * 2 ^ S) - (2 ^ (F.fbits + 1) - 1) * d) d) := by
  have one := Nat.one_le_two_pow (n := F.fbits + 1)
  have P2 : 2 ^ (F.fbits + 1) = 2 * 2 ^ F.fbits := by ring
  by_cases h : e = F.emin - 1
  · have hq : scaled 1 (e - F.fbits) = (1, 2 ^ (S + 1)) := by
      have : e - F.fbits = -((S + 1 : Nat) : ℤ) := by push_cast; omega
      rw [this]; unfold scaled
      rw [if_neg (by omega)]; simp
    unfold unitsOf at h2
    rw [hq] at h2
    simp only [mul_one, Prod.mk.injEq] at h2
    obtain ⟨rfl, rfl, rfl⟩ := h2
    rw [show n * 2 ^ (S + 1) = 2 * (n * 2 ^ S) by ring]
    have hl : n * 2 ^ S < 2 ^ F.fbits * d := by
      have h5 : ¬ (2 : ℚ) ^ (e + 1) * d ≤ n := not_le.mpr hi
      rw [le_scaled n d S _ (by omega)] at h5
      rw [show (e + 1 + S).toNat = F.fbits by omega] at h5
      omega
    generalize hN : 2 * (n * 2 ^ S) = N
    have ND : N < 2 ^ (F.fbits + 1) * d := by rw [P2, mul_assoc]; omega
    have dm := Nat.div_add_mod N d
    have ml := Nat.mod_lt N hd
    have up := goesUp_iff m hm neg (N / d) (N % d) d 1 one_pos hd
    simp only [mul_one] at up
    have e1 : N - N / d * d = N % d := by rw [mul_comm]; omega
    constructor
    · rintro ⟨-, hg, ht⟩
      have ht : N / d = 2 ^ (F.fbits + 1) - 1 := by omega
      rw [← ht, e1]
      exact ⟨Nat.div_mul_le_self _ _, up.mp hg⟩
    · rintro ⟨hle, hg⟩
      have ht : N / d = 2 ^ (F.fbits + 1) - 1 := by
        apply Nat.div_eq_of_lt_le hle
        rw [Nat.sub_add_cancel one]; exact ND
      rw [← ht, e1] at hg
      exact ⟨h, up.mpr hg, by omega⟩
  · constructor
    · exact fun h' => absurd h'.1 h
    · rintro ⟨hle, -⟩
      exfalso
      have h4 := pow_mono d (e + 1) (F.emin - 1) (by omega)
      have h5 : ¬ (2 : ℚ) ^ (F.emin - 1) * d ≤ n := by intro h'; linarith
      rw [le_scaled n d S _ (by omega)] at h5
      rw [show (F.emin - 1 + S).toNat = F.fbits - 1 by omega] at h5
      have p3 : 2 ^ F.fbits = 2 * 2 ^ (F.fbits - 1) := by
        rw [← pow_succ']; congr 1; omega
      have : 2 * (n * 2 ^ S) < 2 ^ F.fbits * d := by rw [p3, mul_assoc]; omega
      have : 2 ^ F.fbits * d ≤ (2 ^ (F.fbits + 1) - 1) * d := Nat.mul_le_mul_right _ (by omega)
      omega

/-- The magnitude of a result that is not too large fits below the sign bit. -/
theorem mag_fits (F : Fmt) (b K k t : Nat) (G : GoodFmt F b K) (ht : t ≤ 2 ^ (F.fbits + 1)) (kK : k ≤ K)
    (h : k = K → t ≤ F.maxMan) : k * 2 ^ F.fbits + t < 2 ^ F.mag := by
  have P : 0 < 2 ^ F.fbits := by positivity
  have P2 : 2 ^ (F.fbits + 1) = 2 * 2 ^ F.fbits := by ring
  have manLe := G.manLe
  unfold Fmt.mag
  rw [pow_add]
  have up (x : Nat) (hx : x < 2 ^ F.ebits) : x * 2 ^ F.fbits < 2 ^ F.ebits * 2 ^ F.fbits :=
    Nat.mul_lt_mul_of_pos_right hx P
  rcases Nat.lt_or_ge k K with h' | h'
  · have h1 : K + 1 < 2 ^ F.ebits := by rcases G.expo with h | h <;> omega
    have h2 : (k + 2) * 2 ^ F.fbits ≤ (K + 1) * 2 ^ F.fbits := Nat.mul_le_mul_right _ (by omega)
    have h3 := up _ h1
    rw [add_mul] at h2
    omega
  · have kE : k = K := by omega
    have tm := h kE
    rcases G.expo with h3 | ⟨h3, h4⟩
    · have h5 := up _ h3
      rw [add_mul] at h5
      rw [kE]; omega
    · rw [← h3, add_mul, kE]; omega

/-- A rounding of a positive magnitude is the one of R44 to R47. -/
theorem roundFin_spec (F : Fmt) (b K : Nat) (G : GoodFmt F b K) (m : RMode) (hm : Nearest m) (neg : Bool) (n d : Nat)
    (hn : 0 < n) (hd : 0 < d) :
    RoundsTo F (srOf m) neg (n * 2 ^ subExp F) d (roundFin F m neg n d).bits (roundFin F m neg n d).flags := by
  obtain ⟨lo, hi⟩ := ilog2_spec n d hn hd
  set e := ilog2 n d with he
  set S := subExp F with hS
  have bias := G.bias
  have frac := G.frac
  have bpos := G.biasPos
  have eS : F.emin - F.fbits = -(S : ℤ) := by
    simp only [hS, subExp, Fmt.emin, bias, Int.toNat_natCast]; omega
  set u : ℤ := max e F.emin - F.fbits with hu
  have uS : 0 ≤ u + S := by have : F.emin ≤ max e F.emin := le_max_right _ _; omega
  set k := (u + S).toNat with hk
  have kk : (k : ℤ) = u + S := by omega
  obtain ⟨c, hc, c1, c2⟩ := unitsOf_eq n d S u uS
  have den0 : 0 < d * (scaled 1 u).1 := by
    have : 0 < (scaled 1 u).1 := by unfold scaled; split <;> simp
    positivity
  set num' := n * (scaled 1 u).2 with hnum
  set den' := d * (scaled 1 u).1 with hden
  set t := num' / den' with ht
  set r := num' % den' with hr
  have split0 : num' = t * den' + r := by rw [ht, hr, mul_comm]; exact (Nat.div_add_mod _ _).symm
  have rlt : r < den' := Nat.mod_lt _ den0
  have d2 : (0 : ℚ) < d := by exact_mod_cast hd
  have two : (2 : ℚ) ≠ 0 := by norm_num
  -- the binade
  have nat := fun j h => le_scaled n d S j h
  have mono := fun i j h => pow_mono d i j h
  have below : n * 2 ^ S < 2 ^ (F.fbits + k + 1) * d := by
    have h1 : ¬ (2 : ℚ) ^ (max e F.emin + 1) * d ≤ n := by
      have := mono (e + 1) (max e F.emin + 1) (by have := le_max_left e F.emin; omega)
      intro h; linarith
    rw [nat _ (by omega)] at h1
    have : (max e F.emin + 1 + S).toNat = F.fbits + k + 1 := by omega
    rw [this] at h1; omega
  have above : k = 0 ∨ 2 ^ (F.fbits + k) * d ≤ n * 2 ^ S := by
    rcases Nat.eq_zero_or_pos k with h | h
    · exact .inl h
    · right
      have : e = max e F.emin := by
        rcases le_total e F.emin with h' | h'
        · rw [max_eq_right h'] at hu; omega
        · rw [max_eq_left h']
      have h1 := (nat e (by omega)).mp lo
      have : (e + S).toNat = F.fbits + k := by omega
      rwa [this] at h1
  -- the steps
  have tlo : t * 2 ^ k * d ≤ n * 2 ^ S := by
    rw [mul_assoc, c1, c2, ← mul_assoc]; exact Nat.mul_le_mul_right _ (by omega)
  have thi : n * 2 ^ S < (t + 1) * 2 ^ k * d := by
    rw [mul_assoc, c1, c2, ← mul_assoc]
    exact Nat.mul_lt_mul_of_pos_right (by rw [add_mul]; omega) hc
  have rest : n * 2 ^ S - t * 2 ^ k * d = r * c := by
    rw [mul_assoc, c1, c2, ← mul_assoc, ← Nat.sub_mul]; congr 1; omega
  have away := goesUp_iff m hm neg t r den' c hc den0
  have inex : n * 2 ^ S ≠ t * 2 ^ k * d ↔ r ≠ 0 := by
    constructor
    · intro h h0; apply h
      have : n * 2 ^ S - t * 2 ^ k * d = 0 := by rw [rest, h0, zero_mul]
      omega
    · intro h h0
      have : r * c = 0 := by rw [← rest, h0, Nat.sub_self]
      rcases Nat.mul_eq_zero.mp this with h' | h' <;> omega
  set t' := if goesUp m neg t r den' then t + 1 else t with ht'
  have P : 0 < 2 ^ F.fbits := by positivity
  have P2 : 2 ^ (F.fbits + 1) = 2 * 2 ^ F.fbits := by ring
  have tbig : 0 < k → 2 ^ F.fbits ≤ t := by
    intro h
    have a := above.resolve_left (by omega)
    by_contra h'
    have : (t + 1) * 2 ^ k * d ≤ 2 ^ (F.fbits + k) * d := by
      rw [pow_add]; exact Nat.mul_le_mul_right _ (Nat.mul_le_mul_right _ (by omega))
    omega
  have tsmall : t < 2 ^ (F.fbits + 1) := by
    by_contra h'
    have : 2 ^ (F.fbits + k + 1) * d ≤ t * 2 ^ k * d := by
      rw [show F.fbits + k + 1 = F.fbits + 1 + k by omega, pow_add]
      exact Nat.mul_le_mul_right _ (Nat.mul_le_mul_right _ (by omega))
    omega
  have t1 : t ≤ t' ∧ t' ≤ t + 1 := by rw [ht']; split <;> omega
  have top := G.top
  have umax := G.umax
  have manLe := G.manLe
  have leMan := G.leMan
  -- past the largest finite value
  have big : (F.umax < u ∨ (u = F.umax ∧ F.maxMan < t')) ↔ units F F.maxMag < t' * 2 ^ k := by
    rw [top]
    rcases lt_trichotomy k K with h | h | h
    · have h1 : ¬ F.umax < u := by omega
      have h2 : u ≠ F.umax := by omega
      simp only [h1, h2, false_and, or_self, false_iff, not_lt]
      calc t' * 2 ^ k ≤ 2 ^ (F.fbits + 1) * 2 ^ k := Nat.mul_le_mul_right _ (by omega)
        _ = 2 ^ F.fbits * 2 ^ (k + 1) := by ring
        _ ≤ F.maxMan * 2 ^ K := Nat.mul_le_mul leMan (Nat.pow_le_pow_right (by norm_num) h)
    · have h1 : ¬ F.umax < u := by omega
      have h2 : u = F.umax := by omega
      have h3 : F.maxMan * 2 ^ K < t' * 2 ^ K ↔ F.maxMan < t' := Nat.mul_lt_mul_right (by positivity)
      rw [h, h3]
      exact ⟨fun x => (x.resolve_left h1).2, fun x => .inr ⟨h2, x⟩⟩
    · have h1 : F.umax < u := by omega
      simp only [h1, true_or, true_iff]
      calc F.maxMan * 2 ^ K < 2 ^ (F.fbits + 1) * 2 ^ K := Nat.mul_lt_mul_of_pos_right manLe (by positivity)
        _ = 2 ^ F.fbits * 2 ^ (K + 1) := by ring
        _ ≤ t' * 2 ^ k := Nat.mul_le_mul (by have := tbig (by omega); omega) (Nat.pow_le_pow_right (by norm_num) h)
  -- tininess
  have low : e < F.emin ↔ n * 2 ^ S < 2 ^ F.fbits * d := by
    have h1 := nat F.emin (by omega)
    have : (F.emin + S).toNat = F.fbits := by omega
    rw [this] at h1
    constructor
    · intro h
      have := mono (e + 1) F.emin (by omega)
      have : ¬ (2 : ℚ) ^ F.emin * d ≤ n := by intro h'; linarith
      rw [h1] at this; omega
    · intro h
      by_contra h'
      have := mono F.emin e (by omega)
      have := h1.mp (by linarith)
      omega
  have tinyEq := fun t2 r2 d2 => tiny_iff F m hm neg n d S e frac eS hd hi (t2 := t2) (r2 := r2) (d2 := d2)
  have un : unitsOf n d u = (t, r, den') := rfl
  refine ⟨k, t, t', above, below, tlo, thi, ?_, ?_, ?_, ?_⟩
  · intro h
    rw [rest, c2] at h
    rw [ht', if_pos (away.mpr h)]
  · intro h
    rw [rest, c2] at h
    rw [ht', if_neg (fun h' => h (away.mp h'))]
  · intro h
    have hb := big.mpr h
    have : (decide (F.umax < u) || (u == F.umax && decide (F.maxMan < t'))) = true := by
      simpa [Bool.or_eq_true] using hb
    unfold roundFin
    simp only [← he, ← hu, un, ← ht', this, if_true]
    refine ⟨?_, trivial⟩
    simp only [encoded, Fmt.pack, overflowMag]
    cases m <;> first | rfl | cases hm
  · intro h
    have hb : ¬ _ := fun h' => absurd (big.mp h') (by omega)
    have nb : (decide (F.umax < u) || (u == F.umax && decide (F.maxMan < t'))) = false := by
      rw [Bool.eq_false_iff]
      intro h'; exact hb (by simpa [Bool.or_eq_true] using h')
    have kK : k ≤ K := by
      by_contra h'
      exact hb (.inl (by omega))
    have fits : k * 2 ^ F.fbits + t' < 2 ^ F.mag := by
      refine mag_fits F b K k t' G (by omega) kK fun kE => ?_
      by_contra h3; exact hb (.inr ⟨by omega, by omega⟩)
    have mag : (u - (F.emin - F.fbits)).toNat = k := by omega
    obtain ⟨w1, w2, w3⟩ := units_of F k t' neg (by omega) (fun h' => by have := tbig h'; omega) fits
    unfold roundFin
    simp only [← he, ← hu, un, ← ht', nb, Bool.false_eq_true, if_false, mag]
    refine ⟨w1, w2, w3, ?_, ?_, ?_⟩
    · intro h'
      have : r = 0 := by by_contra h3; exact h' (inex.mpr h3)
      simp [this, flagIf]
    · intro h' h3
      have r0 := inex.mp h'
      have rb : (r != 0) = true := by simpa using r0
      simp only [rb, Bool.true_and]
      generalize hx : unitsOf n d (e - F.fbits) = x
      obtain ⟨t2, r2, d2⟩ := x
      simp only
      by_cases hl : e < F.emin
      · have := (tinyEq t2 r2 d2 hx hl)
        have h4 : (e = F.emin - 1 ∧ goesUp m neg t2 r2 d2 = true ∧ t2 + 1 = 2 ^ (F.fbits + 1)) := by
          rw [this]; by_contra h5; exact h3 ⟨low.mp hl, h5⟩
        simp [h4.1, h4.2.1, h4.2.2, flagIf]
      · simp [hl, flagIf]
    · intro h' ⟨h3, h4⟩
      have r0 := inex.mp h'
      have rb : (r != 0) = true := by simpa using r0
      simp only [rb, Bool.true_and]
      generalize hx : unitsOf n d (e - F.fbits) = x
      obtain ⟨t2, r2, d2⟩ := x
      simp only
      have hl := low.mpr h3
      have h5 : ¬ _ := fun h5 => h4 ((tinyEq t2 r2 d2 hx hl).mp h5)
      have : (decide (e = F.emin - 1) && goesUp m neg t2 r2 d2 && t2 + 1 == 2 ^ (F.fbits + 1)) = false := by
        rw [Bool.eq_false_iff]; intro h6
        simp only [Bool.and_eq_true, decide_eq_true_eq, beq_iff_eq] at h6
        exact h5 ⟨h6.1.1, h6.1.2, h6.2⟩
      simp [hl, this, flagIf]

/-- A rounding of a finite value is the one of R33 and R44 to R47. -/
theorem round_fin (F : Fmt) (b K : Nat) (G : GoodFmt F b K) (m : RMode) (hm : Nearest m) (neg : Bool) (n d : Nat)
    (hd : 0 < d) :
    (Exact.num neg n d).Rounds F (srOf m) (Machine.round F m (.fin neg n d)).bits (Machine.round F m (.fin neg n d)).flags := by
  unfold Exact.Rounds Machine.round
  by_cases h : n = 0
  · simp [h, encoded, Fmt.pack]
  · simpa [h] using roundFin_spec F b K G m hm neg n d (by omega) hd

/-- The value of a finite encoding is its units (R33). -/
theorem value_units (F : Fmt) (b : Nat) (hb : F.bias = b) (b0 : 0 < b) (frac : 0 < F.fbits) (x : Nat)
    (h1 : isNan F x = false) (h2 : isInf F x = false) :
    ∃ n d, F.value x = .fin (signBit F x) n d ∧ 0 < d ∧ n * 2 ^ subExp F = units F x * d := by
  have P : 0 < 2 ^ F.fbits := by positivity
  have sgn : (F.signed && x / 2 ^ F.mag % 2 == 1) = signBit F x := by
    unfold signBit; congr 1; rw [Nat.testBit_eq_decide_div_mod_eq]; rfl
  have eS : F.emin - F.fbits = -(subExp F : ℤ) := by
    simp only [subExp, Fmt.emin, hb, Int.toNat_natCast]; omega
  have small : scaled (magBits F x % 2 ^ F.fbits) (F.emin - F.fbits)
      = (magBits F x % 2 ^ F.fbits, 2 ^ subExp F) ∨ subExp F = 0 := by
    rcases Nat.eq_zero_or_pos (subExp F) with h | h
    · exact .inr h
    · left; rw [eS]; unfold scaled; rw [if_neg (by omega)]; simp
  have pos : 0 < subExp F := by simp only [subExp, hb, Int.toNat_natCast]; omega
  replace small := small.resolve_right (by omega)
  have nn : ¬ (F.e4m3 = true ∧ magBits F x = 2 ^ F.mag - 1) := by
    rintro ⟨ha, hc⟩; simp [isNan, ha, hc] at h1
  have ni : F.e4m3 = false → ¬ magBits F x / 2 ^ F.fbits = 2 ^ F.ebits - 1 := by
    intro ha hc
    simp only [isNan, isInf, ha, Bool.false_eq_true, if_false, Bool.not_false, Bool.true_and, decide_eq_false_iff_not,
      beq_eq_false_iff_ne, ne_eq] at h1 h2
    have := Nat.div_add_mod (magBits F x) (2 ^ F.fbits)
    rw [hc, mul_comm] at this
    omega
  unfold Fmt.value
  simp only [sgn]
  change ∃ n d, (if (F.e4m3 && magBits F x == 2 ^ F.mag - 1) = true then _ else _) = _ ∧ _
  rw [if_neg (by simpa using nn)]
  rw [if_neg (by
    simp only [Bool.and_eq_true, Bool.not_eq_true', beq_iff_eq, not_and]
    exact ni)]
  unfold units
  simp only [beq_iff_eq]
  change ∃ n d, (if magBits F x / 2 ^ F.fbits = 0 then _ else _) = _ ∧ _
  by_cases h : magBits F x / 2 ^ F.fbits = 0
  · rw [if_pos h]
    refine ⟨_, _, rfl, ?_, ?_⟩
    · change 0 < (scaled (magBits F x % 2 ^ F.fbits) (F.emin - F.fbits)).2
      rw [small]; positivity
    · change (scaled (magBits F x % 2 ^ F.fbits) (F.emin - F.fbits)).1 * _
        = _ * (scaled (magBits F x % 2 ^ F.fbits) (F.emin - F.fbits)).2
      rw [small, if_pos h]
  · rw [if_neg h]
    refine ⟨_, _, rfl, ?_, ?_⟩
    · unfold scaled; split <;> simp
    · rw [if_neg h]
      change (scaled (2 ^ F.fbits + magBits F x % 2 ^ F.fbits) (((magBits F x / 2 ^ F.fbits : Nat) : ℤ) - F.bias - F.fbits)).1 * _
        = _ * (scaled (2 ^ F.fbits + magBits F x % 2 ^ F.fbits) (((magBits F x / 2 ^ F.fbits : Nat) : ℤ) - F.bias - F.fbits)).2
      generalize 2 ^ F.fbits + magBits F x % 2 ^ F.fbits = a
      generalize hq : magBits F x / 2 ^ F.fbits = q at h
      have sS : (subExp F : ℤ) = F.bias + F.fbits - 1 := by rw [hb]; simp only [subExp, hb, Int.toNat_natCast]; omega
      unfold scaled
      split
      · rename_i h'
        simp only [mul_one]
        rw [mul_assoc, ← pow_add]; congr 2; omega
      · rename_i h'
        simp only
        rw [mul_assoc, ← pow_add]; congr 2; omega

end Sys2Proof.Laws
end

