-- ==== Sys2Proof/Laws/SMap.lean ====
section
/-!
SUPPORT. The laws of sparse maps: read after write, and that every operation keeps the canonical form.
-/

namespace Sys2Proof.Machine

variable {α : Type} [DecidableEq α] (d : α)

omit [DecidableEq α] in
theorem sget_serase_same (m : SMap α) (k : Nat) : sget d (serase m k) k = d := by
  induction m with
  | nil => rfl
  | cons h t ih =>
    obtain ⟨k', v⟩ := h
    by_cases e : k' = k
    · simp [serase, e, ih]
    · simp [serase, sget, e, ih]

omit [DecidableEq α] in
theorem sget_serase_ne (m : SMap α) {k j : Nat} (h : j ≠ k) : sget d (serase m k) j = sget d m j := by
  induction m with
  | nil => rfl
  | cons hd t ih =>
    obtain ⟨k', v⟩ := hd
    by_cases e : k' = k
    · subst e
      simp [serase, sget, ih, Ne.symm h]
    · by_cases e2 : k' = j
      · subst e2; simp [serase, sget, h]
      · simp [serase, sget, e, e2, ih]

omit [DecidableEq α] in
theorem sget_sinsert_same (m : SMap α) (k : Nat) (v : α) (h : ∀ w, (k, w) ∉ m) :
    sget d (sinsert m k v) k = v := by
  induction m with
  | nil => simp [sinsert, sget]
  | cons hd t ih =>
    obtain ⟨k', v'⟩ := hd
    by_cases e : k < k'
    · simp [sinsert, sget, e]
    · have hk : k' ≠ k := by
        intro hh; subst hh; exact h v' (by simp)
      simp [sinsert, sget, e, hk, ih (fun w hw => h w (by simp [hw]))]

omit [DecidableEq α] in
theorem sget_sinsert_ne (m : SMap α) {k j : Nat} (v : α) (h : j ≠ k) :
    sget d (sinsert m k v) j = sget d m j := by
  induction m with
  | nil => simp [sinsert, sget, Ne.symm h]
  | cons hd t ih =>
    obtain ⟨k', v'⟩ := hd
    by_cases e : k < k'
    · simp [sinsert, sget, e, Ne.symm h]
    · by_cases e2 : k' = j
      · subst e2; simp [sinsert, sget, e]
      · simp [sinsert, sget, e, e2, ih]

omit [DecidableEq α] in
theorem not_mem_serase (m : SMap α) (k : Nat) (w : α) : (k, w) ∉ serase m k := by
  induction m with
  | nil => simp [serase]
  | cons hd t ih =>
    obtain ⟨k', v'⟩ := hd
    by_cases e : k' = k
    · simp [serase, e, ih]
    · simp [serase, e, ih, Ne.symm e]

/-- A read after a write to the same key gives the value written. -/
@[simp] theorem sget_sset_same (m : SMap α) (k : Nat) (v : α) : sget d (sset d m k v) k = v := by
  unfold sset
  by_cases e : v = d
  · simp [e, sget_serase_same]
  · simp [e, sget_sinsert_same d _ k v (not_mem_serase m k)]

/-- A write leaves every other key alone. -/
theorem sget_sset_ne (m : SMap α) {k j : Nat} (v : α) (h : j ≠ k) :
    sget d (sset d m k v) j = sget d m j := by
  unfold sset
  by_cases e : v = d
  · simp [e, sget_serase_ne d m h]
  · simp [e, sget_sinsert_ne d _ v h, sget_serase_ne d m h]

/-- A read after a write, in one equation. -/
theorem sget_sset (m : SMap α) (k j : Nat) (v : α) :
    sget d (sset d m k v) j = if j = k then v else sget d m j := by
  by_cases h : j = k
  · subst h; simp
  · simp [h, sget_sset_ne d m v h]

@[simp] theorem sget_supd_same (m : SMap α) (k : Nat) (f : α → α) :
    sget d (supd d m k f) k = f (sget d m k) := by simp [supd]

theorem sget_supd_ne (m : SMap α) {k j : Nat} (f : α → α) (h : j ≠ k) :
    sget d (supd d m k f) j = sget d m j := by simp [supd, sget_sset_ne d m _ h]

theorem swfFrom_mono {m : SMap α} {a b : Option Nat} (h : swfFrom d b m = true)
    (hab : a = none ∨ ∃ x y, a = some x ∧ b = some y ∧ x ≤ y) : swfFrom d a m = true := by
  cases m with
  | nil => rfl
  | cons hd t =>
    obtain ⟨k, v⟩ := hd
    rcases hab with rfl | ⟨x, y, rfl, rfl, hxy⟩
    · simp_all [swfFrom]
    · simp only [swfFrom, Bool.and_eq_true, decide_eq_true_eq] at h ⊢
      exact ⟨⟨by omega, h.1.2⟩, h.2⟩

theorem swfFrom_serase {m : SMap α} {lo : Option Nat} (k : Nat) (h : swfFrom d lo m = true) :
    swfFrom d lo (serase m k) = true := by
  induction m generalizing lo with
  | nil => rfl
  | cons hd t ih =>
    obtain ⟨k', v⟩ := hd
    simp only [swfFrom, Bool.and_eq_true] at h
    by_cases e : k' = k
    · simp only [serase, e, if_true]
      refine ih (swfFrom_mono d h.2 ?_)
      cases lo with
      | none => exact .inl rfl
      | some l =>
        refine .inr ⟨l, k', rfl, rfl, ?_⟩
        have := h.1.1; simp at this; omega
    · simp only [serase, e, if_false, swfFrom, Bool.and_eq_true]
      exact ⟨h.1, ih h.2⟩

theorem swfFrom_sinsert {m : SMap α} {lo : Option Nat} {k : Nat} {v : α} (hv : v ≠ d)
    (hlo : ∀ l, lo = some l → l < k) (hk : ∀ w, (k, w) ∉ m) (h : swfFrom d lo m = true) :
    swfFrom d lo (sinsert m k v) = true := by
  induction m generalizing lo with
  | nil =>
    cases lo with
    | none => simp [sinsert, swfFrom, hv]
    | some l => simp [sinsert, swfFrom, hv, hlo l rfl]
  | cons hd t ih =>
    obtain ⟨k', v'⟩ := hd
    by_cases e : k < k'
    · simp only [sinsert, e, if_true]
      simp only [swfFrom, Bool.and_eq_true, decide_eq_true_eq] at h ⊢
      refine ⟨⟨?_, hv⟩, ⟨e, h.1.2⟩, h.2⟩
      cases lo with
      | none => rfl
      | some l => simp [hlo l rfl]
    · simp only [sinsert, e, if_false]
      simp only [swfFrom, Bool.and_eq_true, decide_eq_true_eq] at h ⊢
      refine ⟨h.1, ih ?_ (fun w hw => hk w (by simp [hw])) h.2⟩
      intro l hl
      have hne : k' ≠ k := by intro hh; subst hh; exact hk v' (by simp)
      injection hl with hl; subst hl
      omega

/-- Writing keeps the canonical form. -/
theorem swf_sset {m : SMap α} (k : Nat) (v : α) (h : swf d m = true) : swf d (sset d m k v) = true := by
  unfold sset swf at *
  by_cases e : v = d
  · simpa [e] using swfFrom_serase d k h
  · simp only [e, if_false]
    exact swfFrom_sinsert d e (by simp) (not_mem_serase m k) (swfFrom_serase d k h)

theorem swf_supd {m : SMap α} (k : Nat) (f : α → α) (h : swf d m = true) : swf d (supd d m k f) = true :=
  swf_sset d k _ h

@[simp] theorem oget_oset_same (m : OMap α) (k : Nat) (v : α) : oget (oset m k v) k = some v := by
  simp [oget, oset]

theorem oget_oset_ne (m : OMap α) {k j : Nat} (v : α) (h : j ≠ k) : oget (oset m k v) j = oget m j := by
  simp [oget, oset, sget_sset_ne none m _ h]

omit [DecidableEq α] in
theorem serase_serase (m : SMap α) (k : Nat) : serase (serase m k) k = serase m k := by
  induction m with
  | nil => rfl
  | cons h t ih => obtain ⟨k', v⟩ := h; by_cases e : k' = k <;> simp [serase, e, ih]

omit [DecidableEq α] in
theorem serase_sinsert (m : SMap α) (k : Nat) (v : α) : serase (sinsert m k v) k = serase m k := by
  induction m with
  | nil => simp [sinsert, serase]
  | cons h t ih =>
    obtain ⟨k', v'⟩ := h
    by_cases e : k < k'
    · simp [sinsert, e, serase]
    · by_cases e2 : k' = k <;> simp [sinsert, e, serase, ih, e2]

/-- The later of two writes to one key stands. -/
theorem sset_sset (m : SMap α) (k : Nat) (v w : α) : sset d (sset d m k v) k w = sset d m k w := by
  unfold sset
  have h : serase (if v = d then serase m k else sinsert (serase m k) k v) k = serase m k := by
    split <;> simp [serase_sinsert, serase_serase]
  rw [h]

theorem oset_oset (m : OMap α) (k : Nat) (v w : α) : oset (oset m k v) k w = oset m k w := sset_sset none m k _ _

omit [DecidableEq α] in
@[simp] theorem oget_odel_same (m : OMap α) (k : Nat) : oget (odel m k) k = none := sget_serase_same none m k

omit [DecidableEq α] in
theorem oget_odel_ne (m : OMap α) {k j : Nat} (h : j ≠ k) : oget (odel m k) j = oget m j := sget_serase_ne none m h

/-! ### The canonical form and `sfill` -/

/-- Every key of a canonical map lies above the bound that its form is told from. -/
theorem swfFrom_lt {m : SMap α} {l : Nat} (h : swfFrom d (some l) m = true) : ∀ p ∈ m, l < p.1 := by
  induction m generalizing l with
  | nil => simp
  | cons hd t ih =>
    obtain ⟨k, v⟩ := hd
    simp only [swfFrom, Bool.and_eq_true, decide_eq_true_eq] at h
    intro p hp
    rcases List.mem_cons.1 hp with rfl | hp
    · exact h.1.1
    · exact Nat.lt_trans h.1.1 (ih h.2 p hp)

/-- The canonical form, as a relation on the list. -/
theorem swf_iff (m : SMap α) :
    swf d m = true ↔ m.Pairwise (fun p q => p.1 < q.1) ∧ ∀ p ∈ m, p.2 ≠ d := by
  suffices h : ∀ lo, swfFrom d lo m = true ↔
      (∀ l, lo = some l → ∀ p ∈ m, l < p.1) ∧ m.Pairwise (fun p q => p.1 < q.1) ∧ ∀ p ∈ m, p.2 ≠ d by
    simpa [swf] using h none
  induction m with
  | nil => simp [swfFrom]
  | cons hd t ih =>
    obtain ⟨k, v⟩ := hd
    intro lo
    simp only [swfFrom, Bool.and_eq_true, decide_eq_true_eq, ih, List.pairwise_cons, List.mem_cons, forall_eq_or_imp,
      Option.some.injEq, forall_eq']
    constructor
    · rintro ⟨⟨h1, h2⟩, h3, h4, h5⟩
      refine ⟨?_, ⟨h3, h4⟩, h2, h5⟩
      intro l hl
      subst hl
      simp only [decide_eq_true_eq] at h1
      exact ⟨h1, fun p hp => Nat.lt_trans h1 (h3 p hp)⟩
    · rintro ⟨h1, ⟨h3, h4⟩, h2, h5⟩
      refine ⟨⟨?_, h2⟩, h3, h4, h5⟩
      cases lo with
      | none => rfl
      | some l => simpa using (h1 l rfl).1

/-- Filling a range of keys keeps the canonical form. -/
theorem swf_sfill {m : SMap α} (lo n : Nat) (f : Nat → α) (h : swf d m = true) : swf d (sfill d m lo n f) = true := by
  rw [swf_iff] at *
  obtain ⟨hp, hv⟩ := h
  have hmid : (((List.range n).map fun i => (lo + i, f i)).filter fun kv => decide (kv.2 ≠ d)).Pairwise
      (fun p q => p.1 < q.1) := by
    refine List.Pairwise.filter _ ?_
    rw [List.pairwise_map]
    exact List.pairwise_lt_range.imp fun {a b} hab => by simpa using hab
  constructor
  · rw [sfill, List.pairwise_append, List.pairwise_append]
    refine ⟨⟨hp.filter _, hmid, ?_⟩, hp.filter _, ?_⟩
    · intro a ha b hb
      simp only [List.mem_filter, List.mem_map, List.mem_range, decide_eq_true_eq] at ha hb
      obtain ⟨⟨i, hi, rfl⟩, _⟩ := hb
      simp only
      omega
    · intro a ha b hb
      simp only [List.mem_append, List.mem_filter, List.mem_map, List.mem_range, decide_eq_true_eq] at ha hb
      rcases ha with ha | ⟨⟨i, hi, rfl⟩, _⟩
      · omega
      · simp only; omega
  · intro p hm
    simp only [sfill, List.mem_append, List.mem_filter, decide_eq_true_eq] at hm
    rcases hm with (hm | hm) | hm
    · exact hv p hm.1
    · exact hm.2
    · exact hv p hm.1

end Sys2Proof.Machine
end

