-- ==== Sys2Proof/Laws/State.lean ====
section
/-!
SUPPORT. One lemma for each field and each update of the state and of a group: what an update leaves as it was.
-/

namespace Sys2Proof.Machine


/-! ### State.setBlk -/

@[simp] theorem State.setBlk_mem (s : State) (b : Nat) (x : Block) :
    (s.setBlk b x).mem = s.mem := rfl
@[simp] theorem State.setBlk_grids (s : State) (b : Nat) (x : Block) :
    (s.setBlk b x).grids = s.grids := rfl
@[simp] theorem State.setBlk_cmds (s : State) (b : Nat) (x : Block) :
    (s.setBlk b x).cmds = s.cmds := rfl
@[simp] theorem State.setBlk_cores (s : State) (b : Nat) (x : Block) :
    (s.setBlk b x).cores = s.cores := rfl
@[simp] theorem State.setBlk_die0 (s : State) (b : Nat) (x : Block) :
    (s.setBlk b x).die0 = s.die0 := rfl
@[simp] theorem State.setBlk_die1 (s : State) (b : Nat) (x : Block) :
    (s.setBlk b x).die1 = s.die1 := rfl
@[simp] theorem State.setBlk_queues (s : State) (b : Nat) (x : Block) :
    (s.setBlk b x).queues = s.queues := rfl
@[simp] theorem State.setBlk_arenas (s : State) (b : Nat) (x : Block) :
    (s.setBlk b x).arenas = s.arenas := rfl
@[simp] theorem State.setBlk_passed (s : State) (b : Nat) (x : Block) :
    (s.setBlk b x).passed = s.passed := rfl
@[simp] theorem State.setBlk_passedCore (s : State) (b : Nat) (x : Block) :
    (s.setBlk b x).passedCore = s.passedCore := rfl
@[simp] theorem State.setBlk_rr (s : State) (b : Nat) (x : Block) :
    (s.setBlk b x).rr = s.rr := rfl
@[simp] theorem State.setBlk_fused (s : State) (b : Nat) (x : Block) :
    (s.setBlk b x).fused = s.fused := rfl
@[simp] theorem State.setBlk_mailbox (s : State) (b : Nat) (x : Block) :
    (s.setBlk b x).mailbox = s.mailbox := rfl
@[simp] theorem State.setBlk_boot (s : State) (b : Nat) (x : Block) :
    (s.setBlk b x).boot = s.boot := rfl
@[simp] theorem State.setBlk_measure (s : State) (b : Nat) (x : Block) :
    (s.setBlk b x).measure = s.measure := rfl
@[simp] theorem State.setBlk_powerCap (s : State) (b : Nat) (x : Block) :
    (s.setBlk b x).powerCap = s.powerCap := rfl
@[simp] theorem State.setBlk_clock (s : State) (b : Nat) (x : Block) :
    (s.setBlk b x).clock = s.clock := rfl
@[simp] theorem State.setBlk_messages (s : State) (b : Nat) (x : Block) :
    (s.setBlk b x).messages = s.messages := rfl
@[simp] theorem State.setBlk_cycles (s : State) (b : Nat) (x : Block) :
    (s.setBlk b x).cycles = s.cycles := rfl
@[simp] theorem State.setBlk_fresh (s : State) (b : Nat) (x : Block) :
    (s.setBlk b x).fresh = s.fresh := rfl
@[simp] theorem State.setBlk_free (s : State) (b : Nat) (x : Block) :
    (s.setBlk b x).free = s.free := rfl
@[simp] theorem State.setBlk_gridIds (s : State) (b : Nat) (x : Block) :
    (s.setBlk b x).gridIds = s.gridIds := rfl
@[simp] theorem State.setBlk_agenda (s : State) (b : Nat) (x : Block) :
    (s.setBlk b x).agenda = s.agenda := rfl
@[simp] theorem State.setBlk_script (s : State) (b : Nat) (x : Block) :
    (s.setBlk b x).script = s.script := rfl
@[simp] theorem State.setBlk_cur (s : State) (b : Nat) (x : Block) :
    (s.setBlk b x).cur = s.cur := rfl

/-! ### State.setGrp -/

@[simp] theorem State.setGrp_mem (s : State) (b g : Nat) (y : Group) :
    (s.setGrp b g y).mem = s.mem := rfl
@[simp] theorem State.setGrp_grids (s : State) (b g : Nat) (y : Group) :
    (s.setGrp b g y).grids = s.grids := rfl
@[simp] theorem State.setGrp_cmds (s : State) (b g : Nat) (y : Group) :
    (s.setGrp b g y).cmds = s.cmds := rfl
@[simp] theorem State.setGrp_cores (s : State) (b g : Nat) (y : Group) :
    (s.setGrp b g y).cores = s.cores := rfl
@[simp] theorem State.setGrp_die0 (s : State) (b g : Nat) (y : Group) :
    (s.setGrp b g y).die0 = s.die0 := rfl
@[simp] theorem State.setGrp_die1 (s : State) (b g : Nat) (y : Group) :
    (s.setGrp b g y).die1 = s.die1 := rfl
@[simp] theorem State.setGrp_queues (s : State) (b g : Nat) (y : Group) :
    (s.setGrp b g y).queues = s.queues := rfl
@[simp] theorem State.setGrp_arenas (s : State) (b g : Nat) (y : Group) :
    (s.setGrp b g y).arenas = s.arenas := rfl
@[simp] theorem State.setGrp_passed (s : State) (b g : Nat) (y : Group) :
    (s.setGrp b g y).passed = s.passed := rfl
@[simp] theorem State.setGrp_passedCore (s : State) (b g : Nat) (y : Group) :
    (s.setGrp b g y).passedCore = s.passedCore := rfl
@[simp] theorem State.setGrp_rr (s : State) (b g : Nat) (y : Group) :
    (s.setGrp b g y).rr = s.rr := rfl
@[simp] theorem State.setGrp_fused (s : State) (b g : Nat) (y : Group) :
    (s.setGrp b g y).fused = s.fused := rfl
@[simp] theorem State.setGrp_mailbox (s : State) (b g : Nat) (y : Group) :
    (s.setGrp b g y).mailbox = s.mailbox := rfl
@[simp] theorem State.setGrp_boot (s : State) (b g : Nat) (y : Group) :
    (s.setGrp b g y).boot = s.boot := rfl
@[simp] theorem State.setGrp_measure (s : State) (b g : Nat) (y : Group) :
    (s.setGrp b g y).measure = s.measure := rfl
@[simp] theorem State.setGrp_powerCap (s : State) (b g : Nat) (y : Group) :
    (s.setGrp b g y).powerCap = s.powerCap := rfl
@[simp] theorem State.setGrp_clock (s : State) (b g : Nat) (y : Group) :
    (s.setGrp b g y).clock = s.clock := rfl
@[simp] theorem State.setGrp_messages (s : State) (b g : Nat) (y : Group) :
    (s.setGrp b g y).messages = s.messages := rfl
@[simp] theorem State.setGrp_cycles (s : State) (b g : Nat) (y : Group) :
    (s.setGrp b g y).cycles = s.cycles := rfl
@[simp] theorem State.setGrp_fresh (s : State) (b g : Nat) (y : Group) :
    (s.setGrp b g y).fresh = s.fresh := rfl
@[simp] theorem State.setGrp_free (s : State) (b g : Nat) (y : Group) :
    (s.setGrp b g y).free = s.free := rfl
@[simp] theorem State.setGrp_gridIds (s : State) (b g : Nat) (y : Group) :
    (s.setGrp b g y).gridIds = s.gridIds := rfl
@[simp] theorem State.setGrp_agenda (s : State) (b g : Nat) (y : Group) :
    (s.setGrp b g y).agenda = s.agenda := rfl
@[simp] theorem State.setGrp_script (s : State) (b g : Nat) (y : Group) :
    (s.setGrp b g y).script = s.script := rfl
@[simp] theorem State.setGrp_cur (s : State) (b g : Nat) (y : Group) :
    (s.setGrp b g y).cur = s.cur := rfl

/-! ### State.updBlk -/

@[simp] theorem State.updBlk_mem (s : State) (b : Nat) (f : Block → Block) :
    (s.updBlk b f).mem = s.mem := by unfold State.updBlk; split <;> rfl
@[simp] theorem State.updBlk_grids (s : State) (b : Nat) (f : Block → Block) :
    (s.updBlk b f).grids = s.grids := by unfold State.updBlk; split <;> rfl
@[simp] theorem State.updBlk_cmds (s : State) (b : Nat) (f : Block → Block) :
    (s.updBlk b f).cmds = s.cmds := by unfold State.updBlk; split <;> rfl
@[simp] theorem State.updBlk_cores (s : State) (b : Nat) (f : Block → Block) :
    (s.updBlk b f).cores = s.cores := by unfold State.updBlk; split <;> rfl
@[simp] theorem State.updBlk_die0 (s : State) (b : Nat) (f : Block → Block) :
    (s.updBlk b f).die0 = s.die0 := by unfold State.updBlk; split <;> rfl
@[simp] theorem State.updBlk_die1 (s : State) (b : Nat) (f : Block → Block) :
    (s.updBlk b f).die1 = s.die1 := by unfold State.updBlk; split <;> rfl
@[simp] theorem State.updBlk_queues (s : State) (b : Nat) (f : Block → Block) :
    (s.updBlk b f).queues = s.queues := by unfold State.updBlk; split <;> rfl
@[simp] theorem State.updBlk_arenas (s : State) (b : Nat) (f : Block → Block) :
    (s.updBlk b f).arenas = s.arenas := by unfold State.updBlk; split <;> rfl
@[simp] theorem State.updBlk_passed (s : State) (b : Nat) (f : Block → Block) :
    (s.updBlk b f).passed = s.passed := by unfold State.updBlk; split <;> rfl
@[simp] theorem State.updBlk_passedCore (s : State) (b : Nat) (f : Block → Block) :
    (s.updBlk b f).passedCore = s.passedCore := by unfold State.updBlk; split <;> rfl
@[simp] theorem State.updBlk_rr (s : State) (b : Nat) (f : Block → Block) :
    (s.updBlk b f).rr = s.rr := by unfold State.updBlk; split <;> rfl
@[simp] theorem State.updBlk_fused (s : State) (b : Nat) (f : Block → Block) :
    (s.updBlk b f).fused = s.fused := by unfold State.updBlk; split <;> rfl
@[simp] theorem State.updBlk_mailbox (s : State) (b : Nat) (f : Block → Block) :
    (s.updBlk b f).mailbox = s.mailbox := by unfold State.updBlk; split <;> rfl
@[simp] theorem State.updBlk_boot (s : State) (b : Nat) (f : Block → Block) :
    (s.updBlk b f).boot = s.boot := by unfold State.updBlk; split <;> rfl
@[simp] theorem State.updBlk_measure (s : State) (b : Nat) (f : Block → Block) :
    (s.updBlk b f).measure = s.measure := by unfold State.updBlk; split <;> rfl
@[simp] theorem State.updBlk_powerCap (s : State) (b : Nat) (f : Block → Block) :
    (s.updBlk b f).powerCap = s.powerCap := by unfold State.updBlk; split <;> rfl
@[simp] theorem State.updBlk_clock (s : State) (b : Nat) (f : Block → Block) :
    (s.updBlk b f).clock = s.clock := by unfold State.updBlk; split <;> rfl
@[simp] theorem State.updBlk_messages (s : State) (b : Nat) (f : Block → Block) :
    (s.updBlk b f).messages = s.messages := by unfold State.updBlk; split <;> rfl
@[simp] theorem State.updBlk_cycles (s : State) (b : Nat) (f : Block → Block) :
    (s.updBlk b f).cycles = s.cycles := by unfold State.updBlk; split <;> rfl
@[simp] theorem State.updBlk_fresh (s : State) (b : Nat) (f : Block → Block) :
    (s.updBlk b f).fresh = s.fresh := by unfold State.updBlk; split <;> rfl
@[simp] theorem State.updBlk_free (s : State) (b : Nat) (f : Block → Block) :
    (s.updBlk b f).free = s.free := by unfold State.updBlk; split <;> rfl
@[simp] theorem State.updBlk_gridIds (s : State) (b : Nat) (f : Block → Block) :
    (s.updBlk b f).gridIds = s.gridIds := by unfold State.updBlk; split <;> rfl
@[simp] theorem State.updBlk_agenda (s : State) (b : Nat) (f : Block → Block) :
    (s.updBlk b f).agenda = s.agenda := by unfold State.updBlk; split <;> rfl
@[simp] theorem State.updBlk_script (s : State) (b : Nat) (f : Block → Block) :
    (s.updBlk b f).script = s.script := by unfold State.updBlk; split <;> rfl
@[simp] theorem State.updBlk_cur (s : State) (b : Nat) (f : Block → Block) :
    (s.updBlk b f).cur = s.cur := by unfold State.updBlk; split <;> rfl

/-! ### State.updGrp -/

@[simp] theorem State.updGrp_mem (s : State) (b g : Nat) (f : Group → Group) :
    (s.updGrp b g f).mem = s.mem := State.updBlk_mem ..
@[simp] theorem State.updGrp_grids (s : State) (b g : Nat) (f : Group → Group) :
    (s.updGrp b g f).grids = s.grids := State.updBlk_grids ..
@[simp] theorem State.updGrp_cmds (s : State) (b g : Nat) (f : Group → Group) :
    (s.updGrp b g f).cmds = s.cmds := State.updBlk_cmds ..
@[simp] theorem State.updGrp_cores (s : State) (b g : Nat) (f : Group → Group) :
    (s.updGrp b g f).cores = s.cores := State.updBlk_cores ..
@[simp] theorem State.updGrp_die0 (s : State) (b g : Nat) (f : Group → Group) :
    (s.updGrp b g f).die0 = s.die0 := State.updBlk_die0 ..
@[simp] theorem State.updGrp_die1 (s : State) (b g : Nat) (f : Group → Group) :
    (s.updGrp b g f).die1 = s.die1 := State.updBlk_die1 ..
@[simp] theorem State.updGrp_queues (s : State) (b g : Nat) (f : Group → Group) :
    (s.updGrp b g f).queues = s.queues := State.updBlk_queues ..
@[simp] theorem State.updGrp_arenas (s : State) (b g : Nat) (f : Group → Group) :
    (s.updGrp b g f).arenas = s.arenas := State.updBlk_arenas ..
@[simp] theorem State.updGrp_passed (s : State) (b g : Nat) (f : Group → Group) :
    (s.updGrp b g f).passed = s.passed := State.updBlk_passed ..
@[simp] theorem State.updGrp_passedCore (s : State) (b g : Nat) (f : Group → Group) :
    (s.updGrp b g f).passedCore = s.passedCore := State.updBlk_passedCore ..
@[simp] theorem State.updGrp_rr (s : State) (b g : Nat) (f : Group → Group) :
    (s.updGrp b g f).rr = s.rr := State.updBlk_rr ..
@[simp] theorem State.updGrp_fused (s : State) (b g : Nat) (f : Group → Group) :
    (s.updGrp b g f).fused = s.fused := State.updBlk_fused ..
@[simp] theorem State.updGrp_mailbox (s : State) (b g : Nat) (f : Group → Group) :
    (s.updGrp b g f).mailbox = s.mailbox := State.updBlk_mailbox ..
@[simp] theorem State.updGrp_boot (s : State) (b g : Nat) (f : Group → Group) :
    (s.updGrp b g f).boot = s.boot := State.updBlk_boot ..
@[simp] theorem State.updGrp_measure (s : State) (b g : Nat) (f : Group → Group) :
    (s.updGrp b g f).measure = s.measure := State.updBlk_measure ..
@[simp] theorem State.updGrp_powerCap (s : State) (b g : Nat) (f : Group → Group) :
    (s.updGrp b g f).powerCap = s.powerCap := State.updBlk_powerCap ..
@[simp] theorem State.updGrp_clock (s : State) (b g : Nat) (f : Group → Group) :
    (s.updGrp b g f).clock = s.clock := State.updBlk_clock ..
@[simp] theorem State.updGrp_messages (s : State) (b g : Nat) (f : Group → Group) :
    (s.updGrp b g f).messages = s.messages := State.updBlk_messages ..
@[simp] theorem State.updGrp_cycles (s : State) (b g : Nat) (f : Group → Group) :
    (s.updGrp b g f).cycles = s.cycles := State.updBlk_cycles ..
@[simp] theorem State.updGrp_fresh (s : State) (b g : Nat) (f : Group → Group) :
    (s.updGrp b g f).fresh = s.fresh := State.updBlk_fresh ..
@[simp] theorem State.updGrp_free (s : State) (b g : Nat) (f : Group → Group) :
    (s.updGrp b g f).free = s.free := State.updBlk_free ..
@[simp] theorem State.updGrp_gridIds (s : State) (b g : Nat) (f : Group → Group) :
    (s.updGrp b g f).gridIds = s.gridIds := State.updBlk_gridIds ..
@[simp] theorem State.updGrp_agenda (s : State) (b g : Nat) (f : Group → Group) :
    (s.updGrp b g f).agenda = s.agenda := State.updBlk_agenda ..
@[simp] theorem State.updGrp_script (s : State) (b g : Nat) (f : Group → Group) :
    (s.updGrp b g f).script = s.script := State.updBlk_script ..
@[simp] theorem State.updGrp_cur (s : State) (b g : Nat) (f : Group → Group) :
    (s.updGrp b g f).cur = s.cur := State.updBlk_cur ..

/-! ### State.setGrid -/

@[simp] theorem State.setGrid_mem (s : State) (n : Nat) (x : Grid) :
    (s.setGrid n x).mem = s.mem := rfl
@[simp] theorem State.setGrid_blocks (s : State) (n : Nat) (x : Grid) :
    (s.setGrid n x).blocks = s.blocks := rfl
@[simp] theorem State.setGrid_cmds (s : State) (n : Nat) (x : Grid) :
    (s.setGrid n x).cmds = s.cmds := rfl
@[simp] theorem State.setGrid_cores (s : State) (n : Nat) (x : Grid) :
    (s.setGrid n x).cores = s.cores := rfl
@[simp] theorem State.setGrid_die0 (s : State) (n : Nat) (x : Grid) :
    (s.setGrid n x).die0 = s.die0 := rfl
@[simp] theorem State.setGrid_die1 (s : State) (n : Nat) (x : Grid) :
    (s.setGrid n x).die1 = s.die1 := rfl
@[simp] theorem State.setGrid_queues (s : State) (n : Nat) (x : Grid) :
    (s.setGrid n x).queues = s.queues := rfl
@[simp] theorem State.setGrid_arenas (s : State) (n : Nat) (x : Grid) :
    (s.setGrid n x).arenas = s.arenas := rfl
@[simp] theorem State.setGrid_passed (s : State) (n : Nat) (x : Grid) :
    (s.setGrid n x).passed = s.passed := rfl
@[simp] theorem State.setGrid_passedCore (s : State) (n : Nat) (x : Grid) :
    (s.setGrid n x).passedCore = s.passedCore := rfl
@[simp] theorem State.setGrid_rr (s : State) (n : Nat) (x : Grid) :
    (s.setGrid n x).rr = s.rr := rfl
@[simp] theorem State.setGrid_fused (s : State) (n : Nat) (x : Grid) :
    (s.setGrid n x).fused = s.fused := rfl
@[simp] theorem State.setGrid_mailbox (s : State) (n : Nat) (x : Grid) :
    (s.setGrid n x).mailbox = s.mailbox := rfl
@[simp] theorem State.setGrid_boot (s : State) (n : Nat) (x : Grid) :
    (s.setGrid n x).boot = s.boot := rfl
@[simp] theorem State.setGrid_measure (s : State) (n : Nat) (x : Grid) :
    (s.setGrid n x).measure = s.measure := rfl
@[simp] theorem State.setGrid_powerCap (s : State) (n : Nat) (x : Grid) :
    (s.setGrid n x).powerCap = s.powerCap := rfl
@[simp] theorem State.setGrid_clock (s : State) (n : Nat) (x : Grid) :
    (s.setGrid n x).clock = s.clock := rfl
@[simp] theorem State.setGrid_messages (s : State) (n : Nat) (x : Grid) :
    (s.setGrid n x).messages = s.messages := rfl
@[simp] theorem State.setGrid_cycles (s : State) (n : Nat) (x : Grid) :
    (s.setGrid n x).cycles = s.cycles := rfl
@[simp] theorem State.setGrid_fresh (s : State) (n : Nat) (x : Grid) :
    (s.setGrid n x).fresh = s.fresh := rfl
@[simp] theorem State.setGrid_free (s : State) (n : Nat) (x : Grid) :
    (s.setGrid n x).free = s.free := rfl
@[simp] theorem State.setGrid_gridIds (s : State) (n : Nat) (x : Grid) :
    (s.setGrid n x).gridIds = s.gridIds := rfl
@[simp] theorem State.setGrid_agenda (s : State) (n : Nat) (x : Grid) :
    (s.setGrid n x).agenda = s.agenda := rfl
@[simp] theorem State.setGrid_script (s : State) (n : Nat) (x : Grid) :
    (s.setGrid n x).script = s.script := rfl
@[simp] theorem State.setGrid_cur (s : State) (n : Nat) (x : Grid) :
    (s.setGrid n x).cur = s.cur := rfl

/-! ### State.updGrid -/

@[simp] theorem State.updGrid_mem (s : State) (n : Nat) (f : Grid → Grid) :
    (s.updGrid n f).mem = s.mem := by unfold State.updGrid; split <;> rfl
@[simp] theorem State.updGrid_blocks (s : State) (n : Nat) (f : Grid → Grid) :
    (s.updGrid n f).blocks = s.blocks := by unfold State.updGrid; split <;> rfl
@[simp] theorem State.updGrid_cmds (s : State) (n : Nat) (f : Grid → Grid) :
    (s.updGrid n f).cmds = s.cmds := by unfold State.updGrid; split <;> rfl
@[simp] theorem State.updGrid_cores (s : State) (n : Nat) (f : Grid → Grid) :
    (s.updGrid n f).cores = s.cores := by unfold State.updGrid; split <;> rfl
@[simp] theorem State.updGrid_die0 (s : State) (n : Nat) (f : Grid → Grid) :
    (s.updGrid n f).die0 = s.die0 := by unfold State.updGrid; split <;> rfl
@[simp] theorem State.updGrid_die1 (s : State) (n : Nat) (f : Grid → Grid) :
    (s.updGrid n f).die1 = s.die1 := by unfold State.updGrid; split <;> rfl
@[simp] theorem State.updGrid_queues (s : State) (n : Nat) (f : Grid → Grid) :
    (s.updGrid n f).queues = s.queues := by unfold State.updGrid; split <;> rfl
@[simp] theorem State.updGrid_arenas (s : State) (n : Nat) (f : Grid → Grid) :
    (s.updGrid n f).arenas = s.arenas := by unfold State.updGrid; split <;> rfl
@[simp] theorem State.updGrid_passed (s : State) (n : Nat) (f : Grid → Grid) :
    (s.updGrid n f).passed = s.passed := by unfold State.updGrid; split <;> rfl
@[simp] theorem State.updGrid_passedCore (s : State) (n : Nat) (f : Grid → Grid) :
    (s.updGrid n f).passedCore = s.passedCore := by unfold State.updGrid; split <;> rfl
@[simp] theorem State.updGrid_rr (s : State) (n : Nat) (f : Grid → Grid) :
    (s.updGrid n f).rr = s.rr := by unfold State.updGrid; split <;> rfl
@[simp] theorem State.updGrid_fused (s : State) (n : Nat) (f : Grid → Grid) :
    (s.updGrid n f).fused = s.fused := by unfold State.updGrid; split <;> rfl
@[simp] theorem State.updGrid_mailbox (s : State) (n : Nat) (f : Grid → Grid) :
    (s.updGrid n f).mailbox = s.mailbox := by unfold State.updGrid; split <;> rfl
@[simp] theorem State.updGrid_boot (s : State) (n : Nat) (f : Grid → Grid) :
    (s.updGrid n f).boot = s.boot := by unfold State.updGrid; split <;> rfl
@[simp] theorem State.updGrid_measure (s : State) (n : Nat) (f : Grid → Grid) :
    (s.updGrid n f).measure = s.measure := by unfold State.updGrid; split <;> rfl
@[simp] theorem State.updGrid_powerCap (s : State) (n : Nat) (f : Grid → Grid) :
    (s.updGrid n f).powerCap = s.powerCap := by unfold State.updGrid; split <;> rfl
@[simp] theorem State.updGrid_clock (s : State) (n : Nat) (f : Grid → Grid) :
    (s.updGrid n f).clock = s.clock := by unfold State.updGrid; split <;> rfl
@[simp] theorem State.updGrid_messages (s : State) (n : Nat) (f : Grid → Grid) :
    (s.updGrid n f).messages = s.messages := by unfold State.updGrid; split <;> rfl
@[simp] theorem State.updGrid_cycles (s : State) (n : Nat) (f : Grid → Grid) :
    (s.updGrid n f).cycles = s.cycles := by unfold State.updGrid; split <;> rfl
@[simp] theorem State.updGrid_fresh (s : State) (n : Nat) (f : Grid → Grid) :
    (s.updGrid n f).fresh = s.fresh := by unfold State.updGrid; split <;> rfl
@[simp] theorem State.updGrid_free (s : State) (n : Nat) (f : Grid → Grid) :
    (s.updGrid n f).free = s.free := by unfold State.updGrid; split <;> rfl
@[simp] theorem State.updGrid_gridIds (s : State) (n : Nat) (f : Grid → Grid) :
    (s.updGrid n f).gridIds = s.gridIds := by unfold State.updGrid; split <;> rfl
@[simp] theorem State.updGrid_agenda (s : State) (n : Nat) (f : Grid → Grid) :
    (s.updGrid n f).agenda = s.agenda := by unfold State.updGrid; split <;> rfl
@[simp] theorem State.updGrid_script (s : State) (n : Nat) (f : Grid → Grid) :
    (s.updGrid n f).script = s.script := by unfold State.updGrid; split <;> rfl
@[simp] theorem State.updGrid_cur (s : State) (n : Nat) (f : Grid → Grid) :
    (s.updGrid n f).cur = s.cur := by unfold State.updGrid; split <;> rfl

/-! ### State.updCmd -/

@[simp] theorem State.updCmd_mem (s : State) (n : Nat) (f : Command → Command) :
    (s.updCmd n f).mem = s.mem := rfl
@[simp] theorem State.updCmd_blocks (s : State) (n : Nat) (f : Command → Command) :
    (s.updCmd n f).blocks = s.blocks := rfl
@[simp] theorem State.updCmd_grids (s : State) (n : Nat) (f : Command → Command) :
    (s.updCmd n f).grids = s.grids := rfl
@[simp] theorem State.updCmd_cores (s : State) (n : Nat) (f : Command → Command) :
    (s.updCmd n f).cores = s.cores := rfl
@[simp] theorem State.updCmd_die0 (s : State) (n : Nat) (f : Command → Command) :
    (s.updCmd n f).die0 = s.die0 := rfl
@[simp] theorem State.updCmd_die1 (s : State) (n : Nat) (f : Command → Command) :
    (s.updCmd n f).die1 = s.die1 := rfl
@[simp] theorem State.updCmd_queues (s : State) (n : Nat) (f : Command → Command) :
    (s.updCmd n f).queues = s.queues := rfl
@[simp] theorem State.updCmd_arenas (s : State) (n : Nat) (f : Command → Command) :
    (s.updCmd n f).arenas = s.arenas := rfl
@[simp] theorem State.updCmd_passed (s : State) (n : Nat) (f : Command → Command) :
    (s.updCmd n f).passed = s.passed := rfl
@[simp] theorem State.updCmd_passedCore (s : State) (n : Nat) (f : Command → Command) :
    (s.updCmd n f).passedCore = s.passedCore := rfl
@[simp] theorem State.updCmd_rr (s : State) (n : Nat) (f : Command → Command) :
    (s.updCmd n f).rr = s.rr := rfl
@[simp] theorem State.updCmd_fused (s : State) (n : Nat) (f : Command → Command) :
    (s.updCmd n f).fused = s.fused := rfl
@[simp] theorem State.updCmd_mailbox (s : State) (n : Nat) (f : Command → Command) :
    (s.updCmd n f).mailbox = s.mailbox := rfl
@[simp] theorem State.updCmd_boot (s : State) (n : Nat) (f : Command → Command) :
    (s.updCmd n f).boot = s.boot := rfl
@[simp] theorem State.updCmd_measure (s : State) (n : Nat) (f : Command → Command) :
    (s.updCmd n f).measure = s.measure := rfl
@[simp] theorem State.updCmd_powerCap (s : State) (n : Nat) (f : Command → Command) :
    (s.updCmd n f).powerCap = s.powerCap := rfl
@[simp] theorem State.updCmd_clock (s : State) (n : Nat) (f : Command → Command) :
    (s.updCmd n f).clock = s.clock := rfl
@[simp] theorem State.updCmd_messages (s : State) (n : Nat) (f : Command → Command) :
    (s.updCmd n f).messages = s.messages := rfl
@[simp] theorem State.updCmd_cycles (s : State) (n : Nat) (f : Command → Command) :
    (s.updCmd n f).cycles = s.cycles := rfl
@[simp] theorem State.updCmd_fresh (s : State) (n : Nat) (f : Command → Command) :
    (s.updCmd n f).fresh = s.fresh := rfl
@[simp] theorem State.updCmd_free (s : State) (n : Nat) (f : Command → Command) :
    (s.updCmd n f).free = s.free := rfl
@[simp] theorem State.updCmd_gridIds (s : State) (n : Nat) (f : Command → Command) :
    (s.updCmd n f).gridIds = s.gridIds := rfl
@[simp] theorem State.updCmd_agenda (s : State) (n : Nat) (f : Command → Command) :
    (s.updCmd n f).agenda = s.agenda := rfl
@[simp] theorem State.updCmd_script (s : State) (n : Nat) (f : Command → Command) :
    (s.updCmd n f).script = s.script := rfl
@[simp] theorem State.updCmd_cur (s : State) (n : Nat) (f : Command → Command) :
    (s.updCmd n f).cur = s.cur := rfl

/-! ### State.updCore -/

@[simp] theorem State.updCore_mem (s : State) (k : Nat) (f : Core → Core) :
    (s.updCore k f).mem = s.mem := rfl
@[simp] theorem State.updCore_blocks (s : State) (k : Nat) (f : Core → Core) :
    (s.updCore k f).blocks = s.blocks := rfl
@[simp] theorem State.updCore_grids (s : State) (k : Nat) (f : Core → Core) :
    (s.updCore k f).grids = s.grids := rfl
@[simp] theorem State.updCore_cmds (s : State) (k : Nat) (f : Core → Core) :
    (s.updCore k f).cmds = s.cmds := rfl
@[simp] theorem State.updCore_die0 (s : State) (k : Nat) (f : Core → Core) :
    (s.updCore k f).die0 = s.die0 := rfl
@[simp] theorem State.updCore_die1 (s : State) (k : Nat) (f : Core → Core) :
    (s.updCore k f).die1 = s.die1 := rfl
@[simp] theorem State.updCore_queues (s : State) (k : Nat) (f : Core → Core) :
    (s.updCore k f).queues = s.queues := rfl
@[simp] theorem State.updCore_arenas (s : State) (k : Nat) (f : Core → Core) :
    (s.updCore k f).arenas = s.arenas := rfl
@[simp] theorem State.updCore_passed (s : State) (k : Nat) (f : Core → Core) :
    (s.updCore k f).passed = s.passed := rfl
@[simp] theorem State.updCore_passedCore (s : State) (k : Nat) (f : Core → Core) :
    (s.updCore k f).passedCore = s.passedCore := rfl
@[simp] theorem State.updCore_rr (s : State) (k : Nat) (f : Core → Core) :
    (s.updCore k f).rr = s.rr := rfl
@[simp] theorem State.updCore_fused (s : State) (k : Nat) (f : Core → Core) :
    (s.updCore k f).fused = s.fused := rfl
@[simp] theorem State.updCore_mailbox (s : State) (k : Nat) (f : Core → Core) :
    (s.updCore k f).mailbox = s.mailbox := rfl
@[simp] theorem State.updCore_boot (s : State) (k : Nat) (f : Core → Core) :
    (s.updCore k f).boot = s.boot := rfl
@[simp] theorem State.updCore_measure (s : State) (k : Nat) (f : Core → Core) :
    (s.updCore k f).measure = s.measure := rfl
@[simp] theorem State.updCore_powerCap (s : State) (k : Nat) (f : Core → Core) :
    (s.updCore k f).powerCap = s.powerCap := rfl
@[simp] theorem State.updCore_clock (s : State) (k : Nat) (f : Core → Core) :
    (s.updCore k f).clock = s.clock := rfl
@[simp] theorem State.updCore_messages (s : State) (k : Nat) (f : Core → Core) :
    (s.updCore k f).messages = s.messages := rfl
@[simp] theorem State.updCore_cycles (s : State) (k : Nat) (f : Core → Core) :
    (s.updCore k f).cycles = s.cycles := rfl
@[simp] theorem State.updCore_fresh (s : State) (k : Nat) (f : Core → Core) :
    (s.updCore k f).fresh = s.fresh := rfl
@[simp] theorem State.updCore_free (s : State) (k : Nat) (f : Core → Core) :
    (s.updCore k f).free = s.free := rfl
@[simp] theorem State.updCore_gridIds (s : State) (k : Nat) (f : Core → Core) :
    (s.updCore k f).gridIds = s.gridIds := rfl
@[simp] theorem State.updCore_agenda (s : State) (k : Nat) (f : Core → Core) :
    (s.updCore k f).agenda = s.agenda := rfl
@[simp] theorem State.updCore_script (s : State) (k : Nat) (f : Core → Core) :
    (s.updCore k f).script = s.script := rfl
@[simp] theorem State.updCore_cur (s : State) (k : Nat) (f : Core → Core) :
    (s.updCore k f).cur = s.cur := rfl

/-! ### State.updQueue -/

@[simp] theorem State.updQueue_mem (s : State) (q : Nat) (f : Queue → Queue) :
    (s.updQueue q f).mem = s.mem := rfl
@[simp] theorem State.updQueue_blocks (s : State) (q : Nat) (f : Queue → Queue) :
    (s.updQueue q f).blocks = s.blocks := rfl
@[simp] theorem State.updQueue_grids (s : State) (q : Nat) (f : Queue → Queue) :
    (s.updQueue q f).grids = s.grids := rfl
@[simp] theorem State.updQueue_cmds (s : State) (q : Nat) (f : Queue → Queue) :
    (s.updQueue q f).cmds = s.cmds := rfl
@[simp] theorem State.updQueue_cores (s : State) (q : Nat) (f : Queue → Queue) :
    (s.updQueue q f).cores = s.cores := rfl
@[simp] theorem State.updQueue_die0 (s : State) (q : Nat) (f : Queue → Queue) :
    (s.updQueue q f).die0 = s.die0 := rfl
@[simp] theorem State.updQueue_die1 (s : State) (q : Nat) (f : Queue → Queue) :
    (s.updQueue q f).die1 = s.die1 := rfl
@[simp] theorem State.updQueue_arenas (s : State) (q : Nat) (f : Queue → Queue) :
    (s.updQueue q f).arenas = s.arenas := rfl
@[simp] theorem State.updQueue_passed (s : State) (q : Nat) (f : Queue → Queue) :
    (s.updQueue q f).passed = s.passed := rfl
@[simp] theorem State.updQueue_passedCore (s : State) (q : Nat) (f : Queue → Queue) :
    (s.updQueue q f).passedCore = s.passedCore := rfl
@[simp] theorem State.updQueue_rr (s : State) (q : Nat) (f : Queue → Queue) :
    (s.updQueue q f).rr = s.rr := rfl
@[simp] theorem State.updQueue_fused (s : State) (q : Nat) (f : Queue → Queue) :
    (s.updQueue q f).fused = s.fused := rfl
@[simp] theorem State.updQueue_mailbox (s : State) (q : Nat) (f : Queue → Queue) :
    (s.updQueue q f).mailbox = s.mailbox := rfl
@[simp] theorem State.updQueue_boot (s : State) (q : Nat) (f : Queue → Queue) :
    (s.updQueue q f).boot = s.boot := rfl
@[simp] theorem State.updQueue_measure (s : State) (q : Nat) (f : Queue → Queue) :
    (s.updQueue q f).measure = s.measure := rfl
@[simp] theorem State.updQueue_powerCap (s : State) (q : Nat) (f : Queue → Queue) :
    (s.updQueue q f).powerCap = s.powerCap := rfl
@[simp] theorem State.updQueue_clock (s : State) (q : Nat) (f : Queue → Queue) :
    (s.updQueue q f).clock = s.clock := rfl
@[simp] theorem State.updQueue_messages (s : State) (q : Nat) (f : Queue → Queue) :
    (s.updQueue q f).messages = s.messages := rfl
@[simp] theorem State.updQueue_cycles (s : State) (q : Nat) (f : Queue → Queue) :
    (s.updQueue q f).cycles = s.cycles := rfl
@[simp] theorem State.updQueue_fresh (s : State) (q : Nat) (f : Queue → Queue) :
    (s.updQueue q f).fresh = s.fresh := rfl
@[simp] theorem State.updQueue_free (s : State) (q : Nat) (f : Queue → Queue) :
    (s.updQueue q f).free = s.free := rfl
@[simp] theorem State.updQueue_gridIds (s : State) (q : Nat) (f : Queue → Queue) :
    (s.updQueue q f).gridIds = s.gridIds := rfl
@[simp] theorem State.updQueue_agenda (s : State) (q : Nat) (f : Queue → Queue) :
    (s.updQueue q f).agenda = s.agenda := rfl
@[simp] theorem State.updQueue_script (s : State) (q : Nat) (f : Queue → Queue) :
    (s.updQueue q f).script = s.script := rfl
@[simp] theorem State.updQueue_cur (s : State) (q : Nat) (f : Queue → Queue) :
    (s.updQueue q f).cur = s.cur := rfl

/-! ### State.updDie -/

@[simp] theorem State.updDie_mem (s : State) (d : Nat) (f : Die → Die) :
    (s.updDie d f).mem = s.mem := by unfold State.updDie; split <;> rfl
@[simp] theorem State.updDie_blocks (s : State) (d : Nat) (f : Die → Die) :
    (s.updDie d f).blocks = s.blocks := by unfold State.updDie; split <;> rfl
@[simp] theorem State.updDie_grids (s : State) (d : Nat) (f : Die → Die) :
    (s.updDie d f).grids = s.grids := by unfold State.updDie; split <;> rfl
@[simp] theorem State.updDie_cmds (s : State) (d : Nat) (f : Die → Die) :
    (s.updDie d f).cmds = s.cmds := by unfold State.updDie; split <;> rfl
@[simp] theorem State.updDie_cores (s : State) (d : Nat) (f : Die → Die) :
    (s.updDie d f).cores = s.cores := by unfold State.updDie; split <;> rfl
@[simp] theorem State.updDie_queues (s : State) (d : Nat) (f : Die → Die) :
    (s.updDie d f).queues = s.queues := by unfold State.updDie; split <;> rfl
@[simp] theorem State.updDie_arenas (s : State) (d : Nat) (f : Die → Die) :
    (s.updDie d f).arenas = s.arenas := by unfold State.updDie; split <;> rfl
@[simp] theorem State.updDie_passed (s : State) (d : Nat) (f : Die → Die) :
    (s.updDie d f).passed = s.passed := by unfold State.updDie; split <;> rfl
@[simp] theorem State.updDie_passedCore (s : State) (d : Nat) (f : Die → Die) :
    (s.updDie d f).passedCore = s.passedCore := by unfold State.updDie; split <;> rfl
@[simp] theorem State.updDie_rr (s : State) (d : Nat) (f : Die → Die) :
    (s.updDie d f).rr = s.rr := by unfold State.updDie; split <;> rfl
@[simp] theorem State.updDie_fused (s : State) (d : Nat) (f : Die → Die) :
    (s.updDie d f).fused = s.fused := by unfold State.updDie; split <;> rfl
@[simp] theorem State.updDie_mailbox (s : State) (d : Nat) (f : Die → Die) :
    (s.updDie d f).mailbox = s.mailbox := by unfold State.updDie; split <;> rfl
@[simp] theorem State.updDie_boot (s : State) (d : Nat) (f : Die → Die) :
    (s.updDie d f).boot = s.boot := by unfold State.updDie; split <;> rfl
@[simp] theorem State.updDie_measure (s : State) (d : Nat) (f : Die → Die) :
    (s.updDie d f).measure = s.measure := by unfold State.updDie; split <;> rfl
@[simp] theorem State.updDie_powerCap (s : State) (d : Nat) (f : Die → Die) :
    (s.updDie d f).powerCap = s.powerCap := by unfold State.updDie; split <;> rfl
@[simp] theorem State.updDie_clock (s : State) (d : Nat) (f : Die → Die) :
    (s.updDie d f).clock = s.clock := by unfold State.updDie; split <;> rfl
@[simp] theorem State.updDie_messages (s : State) (d : Nat) (f : Die → Die) :
    (s.updDie d f).messages = s.messages := by unfold State.updDie; split <;> rfl
@[simp] theorem State.updDie_cycles (s : State) (d : Nat) (f : Die → Die) :
    (s.updDie d f).cycles = s.cycles := by unfold State.updDie; split <;> rfl
@[simp] theorem State.updDie_fresh (s : State) (d : Nat) (f : Die → Die) :
    (s.updDie d f).fresh = s.fresh := by unfold State.updDie; split <;> rfl
@[simp] theorem State.updDie_free (s : State) (d : Nat) (f : Die → Die) :
    (s.updDie d f).free = s.free := by unfold State.updDie; split <;> rfl
@[simp] theorem State.updDie_gridIds (s : State) (d : Nat) (f : Die → Die) :
    (s.updDie d f).gridIds = s.gridIds := by unfold State.updDie; split <;> rfl
@[simp] theorem State.updDie_agenda (s : State) (d : Nat) (f : Die → Die) :
    (s.updDie d f).agenda = s.agenda := by unfold State.updDie; split <;> rfl
@[simp] theorem State.updDie_script (s : State) (d : Nat) (f : Die → Die) :
    (s.updDie d f).script = s.script := by unfold State.updDie; split <;> rfl
@[simp] theorem State.updDie_cur (s : State) (d : Nat) (f : Die → Die) :
    (s.updDie d f).cur = s.cur := by unfold State.updDie; split <;> rfl

/-! ### State.tick -/

@[simp] theorem State.tick_mem (s : State) :
    (s.tick).mem = s.mem := rfl
@[simp] theorem State.tick_blocks (s : State) :
    (s.tick).blocks = s.blocks := rfl
@[simp] theorem State.tick_grids (s : State) :
    (s.tick).grids = s.grids := rfl
@[simp] theorem State.tick_cmds (s : State) :
    (s.tick).cmds = s.cmds := rfl
@[simp] theorem State.tick_cores (s : State) :
    (s.tick).cores = s.cores := rfl
@[simp] theorem State.tick_die0 (s : State) :
    (s.tick).die0 = s.die0 := rfl
@[simp] theorem State.tick_die1 (s : State) :
    (s.tick).die1 = s.die1 := rfl
@[simp] theorem State.tick_queues (s : State) :
    (s.tick).queues = s.queues := rfl
@[simp] theorem State.tick_arenas (s : State) :
    (s.tick).arenas = s.arenas := rfl
@[simp] theorem State.tick_passed (s : State) :
    (s.tick).passed = s.passed := rfl
@[simp] theorem State.tick_passedCore (s : State) :
    (s.tick).passedCore = s.passedCore := rfl
@[simp] theorem State.tick_rr (s : State) :
    (s.tick).rr = s.rr := rfl
@[simp] theorem State.tick_fused (s : State) :
    (s.tick).fused = s.fused := rfl
@[simp] theorem State.tick_mailbox (s : State) :
    (s.tick).mailbox = s.mailbox := rfl
@[simp] theorem State.tick_boot (s : State) :
    (s.tick).boot = s.boot := rfl
@[simp] theorem State.tick_measure (s : State) :
    (s.tick).measure = s.measure := rfl
@[simp] theorem State.tick_powerCap (s : State) :
    (s.tick).powerCap = s.powerCap := rfl
@[simp] theorem State.tick_clock (s : State) :
    (s.tick).clock = s.clock := rfl
@[simp] theorem State.tick_messages (s : State) :
    (s.tick).messages = s.messages := rfl
@[simp] theorem State.tick_cycles (s : State) :
    (s.tick).cycles = s.cycles := rfl
@[simp] theorem State.tick_free (s : State) :
    (s.tick).free = s.free := rfl
@[simp] theorem State.tick_gridIds (s : State) :
    (s.tick).gridIds = s.gridIds := rfl
@[simp] theorem State.tick_agenda (s : State) :
    (s.tick).agenda = s.agenda := rfl
@[simp] theorem State.tick_script (s : State) :
    (s.tick).script = s.script := rfl
@[simp] theorem State.tick_cur (s : State) :
    (s.tick).cur = s.cur := rfl

/-! ### State.post -/

@[simp] theorem State.post_mem (s : State) (i : Instr) :
    (s.post i).mem = s.mem := rfl
@[simp] theorem State.post_blocks (s : State) (i : Instr) :
    (s.post i).blocks = s.blocks := rfl
@[simp] theorem State.post_grids (s : State) (i : Instr) :
    (s.post i).grids = s.grids := rfl
@[simp] theorem State.post_cmds (s : State) (i : Instr) :
    (s.post i).cmds = s.cmds := rfl
@[simp] theorem State.post_cores (s : State) (i : Instr) :
    (s.post i).cores = s.cores := rfl
@[simp] theorem State.post_die0 (s : State) (i : Instr) :
    (s.post i).die0 = s.die0 := rfl
@[simp] theorem State.post_die1 (s : State) (i : Instr) :
    (s.post i).die1 = s.die1 := rfl
@[simp] theorem State.post_queues (s : State) (i : Instr) :
    (s.post i).queues = s.queues := rfl
@[simp] theorem State.post_arenas (s : State) (i : Instr) :
    (s.post i).arenas = s.arenas := rfl
@[simp] theorem State.post_passed (s : State) (i : Instr) :
    (s.post i).passed = s.passed := rfl
@[simp] theorem State.post_passedCore (s : State) (i : Instr) :
    (s.post i).passedCore = s.passedCore := rfl
@[simp] theorem State.post_rr (s : State) (i : Instr) :
    (s.post i).rr = s.rr := rfl
@[simp] theorem State.post_fused (s : State) (i : Instr) :
    (s.post i).fused = s.fused := rfl
@[simp] theorem State.post_mailbox (s : State) (i : Instr) :
    (s.post i).mailbox = s.mailbox := rfl
@[simp] theorem State.post_boot (s : State) (i : Instr) :
    (s.post i).boot = s.boot := rfl
@[simp] theorem State.post_measure (s : State) (i : Instr) :
    (s.post i).measure = s.measure := rfl
@[simp] theorem State.post_powerCap (s : State) (i : Instr) :
    (s.post i).powerCap = s.powerCap := rfl
@[simp] theorem State.post_clock (s : State) (i : Instr) :
    (s.post i).clock = s.clock := rfl
@[simp] theorem State.post_messages (s : State) (i : Instr) :
    (s.post i).messages = s.messages := rfl
@[simp] theorem State.post_cycles (s : State) (i : Instr) :
    (s.post i).cycles = s.cycles := rfl
@[simp] theorem State.post_fresh (s : State) (i : Instr) :
    (s.post i).fresh = s.fresh := rfl
@[simp] theorem State.post_free (s : State) (i : Instr) :
    (s.post i).free = s.free := rfl
@[simp] theorem State.post_gridIds (s : State) (i : Instr) :
    (s.post i).gridIds = s.gridIds := rfl
@[simp] theorem State.post_script (s : State) (i : Instr) :
    (s.post i).script = s.script := rfl
@[simp] theorem State.post_cur (s : State) (i : Instr) :
    (s.post i).cur = s.cur := rfl

/-! ### State.postAll -/

@[simp] theorem State.postAll_mem (s : State) (l : List Instr) :
    (s.postAll l).mem = s.mem := rfl
@[simp] theorem State.postAll_blocks (s : State) (l : List Instr) :
    (s.postAll l).blocks = s.blocks := rfl
@[simp] theorem State.postAll_grids (s : State) (l : List Instr) :
    (s.postAll l).grids = s.grids := rfl
@[simp] theorem State.postAll_cmds (s : State) (l : List Instr) :
    (s.postAll l).cmds = s.cmds := rfl
@[simp] theorem State.postAll_cores (s : State) (l : List Instr) :
    (s.postAll l).cores = s.cores := rfl
@[simp] theorem State.postAll_die0 (s : State) (l : List Instr) :
    (s.postAll l).die0 = s.die0 := rfl
@[simp] theorem State.postAll_die1 (s : State) (l : List Instr) :
    (s.postAll l).die1 = s.die1 := rfl
@[simp] theorem State.postAll_queues (s : State) (l : List Instr) :
    (s.postAll l).queues = s.queues := rfl
@[simp] theorem State.postAll_arenas (s : State) (l : List Instr) :
    (s.postAll l).arenas = s.arenas := rfl
@[simp] theorem State.postAll_passed (s : State) (l : List Instr) :
    (s.postAll l).passed = s.passed := rfl
@[simp] theorem State.postAll_passedCore (s : State) (l : List Instr) :
    (s.postAll l).passedCore = s.passedCore := rfl
@[simp] theorem State.postAll_rr (s : State) (l : List Instr) :
    (s.postAll l).rr = s.rr := rfl
@[simp] theorem State.postAll_fused (s : State) (l : List Instr) :
    (s.postAll l).fused = s.fused := rfl
@[simp] theorem State.postAll_mailbox (s : State) (l : List Instr) :
    (s.postAll l).mailbox = s.mailbox := rfl
@[simp] theorem State.postAll_boot (s : State) (l : List Instr) :
    (s.postAll l).boot = s.boot := rfl
@[simp] theorem State.postAll_measure (s : State) (l : List Instr) :
    (s.postAll l).measure = s.measure := rfl
@[simp] theorem State.postAll_powerCap (s : State) (l : List Instr) :
    (s.postAll l).powerCap = s.powerCap := rfl
@[simp] theorem State.postAll_clock (s : State) (l : List Instr) :
    (s.postAll l).clock = s.clock := rfl
@[simp] theorem State.postAll_messages (s : State) (l : List Instr) :
    (s.postAll l).messages = s.messages := rfl
@[simp] theorem State.postAll_cycles (s : State) (l : List Instr) :
    (s.postAll l).cycles = s.cycles := rfl
@[simp] theorem State.postAll_fresh (s : State) (l : List Instr) :
    (s.postAll l).fresh = s.fresh := rfl
@[simp] theorem State.postAll_free (s : State) (l : List Instr) :
    (s.postAll l).free = s.free := rfl
@[simp] theorem State.postAll_gridIds (s : State) (l : List Instr) :
    (s.postAll l).gridIds = s.gridIds := rfl
@[simp] theorem State.postAll_script (s : State) (l : List Instr) :
    (s.postAll l).script = s.script := rfl
@[simp] theorem State.postAll_cur (s : State) (l : List Instr) :
    (s.postAll l).cur = s.cur := rfl

/-! ### State.postOnce -/

@[simp] theorem State.postOnce_mem (s : State) (i : Instr) :
    (s.postOnce i).mem = s.mem := by unfold State.postOnce; split <;> rfl
@[simp] theorem State.postOnce_blocks (s : State) (i : Instr) :
    (s.postOnce i).blocks = s.blocks := by unfold State.postOnce; split <;> rfl
@[simp] theorem State.postOnce_grids (s : State) (i : Instr) :
    (s.postOnce i).grids = s.grids := by unfold State.postOnce; split <;> rfl
@[simp] theorem State.postOnce_cmds (s : State) (i : Instr) :
    (s.postOnce i).cmds = s.cmds := by unfold State.postOnce; split <;> rfl
@[simp] theorem State.postOnce_cores (s : State) (i : Instr) :
    (s.postOnce i).cores = s.cores := by unfold State.postOnce; split <;> rfl
@[simp] theorem State.postOnce_die0 (s : State) (i : Instr) :
    (s.postOnce i).die0 = s.die0 := by unfold State.postOnce; split <;> rfl
@[simp] theorem State.postOnce_die1 (s : State) (i : Instr) :
    (s.postOnce i).die1 = s.die1 := by unfold State.postOnce; split <;> rfl
@[simp] theorem State.postOnce_queues (s : State) (i : Instr) :
    (s.postOnce i).queues = s.queues := by unfold State.postOnce; split <;> rfl
@[simp] theorem State.postOnce_arenas (s : State) (i : Instr) :
    (s.postOnce i).arenas = s.arenas := by unfold State.postOnce; split <;> rfl
@[simp] theorem State.postOnce_passed (s : State) (i : Instr) :
    (s.postOnce i).passed = s.passed := by unfold State.postOnce; split <;> rfl
@[simp] theorem State.postOnce_passedCore (s : State) (i : Instr) :
    (s.postOnce i).passedCore = s.passedCore := by unfold State.postOnce; split <;> rfl
@[simp] theorem State.postOnce_rr (s : State) (i : Instr) :
    (s.postOnce i).rr = s.rr := by unfold State.postOnce; split <;> rfl
@[simp] theorem State.postOnce_fused (s : State) (i : Instr) :
    (s.postOnce i).fused = s.fused := by unfold State.postOnce; split <;> rfl
@[simp] theorem State.postOnce_mailbox (s : State) (i : Instr) :
    (s.postOnce i).mailbox = s.mailbox := by unfold State.postOnce; split <;> rfl
@[simp] theorem State.postOnce_boot (s : State) (i : Instr) :
    (s.postOnce i).boot = s.boot := by unfold State.postOnce; split <;> rfl
@[simp] theorem State.postOnce_measure (s : State) (i : Instr) :
    (s.postOnce i).measure = s.measure := by unfold State.postOnce; split <;> rfl
@[simp] theorem State.postOnce_powerCap (s : State) (i : Instr) :
    (s.postOnce i).powerCap = s.powerCap := by unfold State.postOnce; split <;> rfl
@[simp] theorem State.postOnce_clock (s : State) (i : Instr) :
    (s.postOnce i).clock = s.clock := by unfold State.postOnce; split <;> rfl
@[simp] theorem State.postOnce_messages (s : State) (i : Instr) :
    (s.postOnce i).messages = s.messages := by unfold State.postOnce; split <;> rfl
@[simp] theorem State.postOnce_cycles (s : State) (i : Instr) :
    (s.postOnce i).cycles = s.cycles := by unfold State.postOnce; split <;> rfl
@[simp] theorem State.postOnce_fresh (s : State) (i : Instr) :
    (s.postOnce i).fresh = s.fresh := by unfold State.postOnce; split <;> rfl
@[simp] theorem State.postOnce_free (s : State) (i : Instr) :
    (s.postOnce i).free = s.free := by unfold State.postOnce; split <;> rfl
@[simp] theorem State.postOnce_gridIds (s : State) (i : Instr) :
    (s.postOnce i).gridIds = s.gridIds := by unfold State.postOnce; split <;> rfl
@[simp] theorem State.postOnce_script (s : State) (i : Instr) :
    (s.postOnce i).script = s.script := by unfold State.postOnce; split <;> rfl
@[simp] theorem State.postOnce_cur (s : State) (i : Instr) :
    (s.postOnce i).cur = s.cur := by unfold State.postOnce; split <;> rfl

/-! ### State.send -/

@[simp] theorem State.send_mem (s : State) (kind addr : Nat) (data : List Byte) :
    (s.send kind addr data).mem = s.mem := rfl
@[simp] theorem State.send_blocks (s : State) (kind addr : Nat) (data : List Byte) :
    (s.send kind addr data).blocks = s.blocks := rfl
@[simp] theorem State.send_grids (s : State) (kind addr : Nat) (data : List Byte) :
    (s.send kind addr data).grids = s.grids := rfl
@[simp] theorem State.send_cmds (s : State) (kind addr : Nat) (data : List Byte) :
    (s.send kind addr data).cmds = s.cmds := rfl
@[simp] theorem State.send_cores (s : State) (kind addr : Nat) (data : List Byte) :
    (s.send kind addr data).cores = s.cores := rfl
@[simp] theorem State.send_die0 (s : State) (kind addr : Nat) (data : List Byte) :
    (s.send kind addr data).die0 = s.die0 := rfl
@[simp] theorem State.send_die1 (s : State) (kind addr : Nat) (data : List Byte) :
    (s.send kind addr data).die1 = s.die1 := rfl
@[simp] theorem State.send_queues (s : State) (kind addr : Nat) (data : List Byte) :
    (s.send kind addr data).queues = s.queues := rfl
@[simp] theorem State.send_arenas (s : State) (kind addr : Nat) (data : List Byte) :
    (s.send kind addr data).arenas = s.arenas := rfl
@[simp] theorem State.send_passed (s : State) (kind addr : Nat) (data : List Byte) :
    (s.send kind addr data).passed = s.passed := rfl
@[simp] theorem State.send_passedCore (s : State) (kind addr : Nat) (data : List Byte) :
    (s.send kind addr data).passedCore = s.passedCore := rfl
@[simp] theorem State.send_rr (s : State) (kind addr : Nat) (data : List Byte) :
    (s.send kind addr data).rr = s.rr := rfl
@[simp] theorem State.send_fused (s : State) (kind addr : Nat) (data : List Byte) :
    (s.send kind addr data).fused = s.fused := rfl
@[simp] theorem State.send_mailbox (s : State) (kind addr : Nat) (data : List Byte) :
    (s.send kind addr data).mailbox = s.mailbox := rfl
@[simp] theorem State.send_boot (s : State) (kind addr : Nat) (data : List Byte) :
    (s.send kind addr data).boot = s.boot := rfl
@[simp] theorem State.send_measure (s : State) (kind addr : Nat) (data : List Byte) :
    (s.send kind addr data).measure = s.measure := rfl
@[simp] theorem State.send_powerCap (s : State) (kind addr : Nat) (data : List Byte) :
    (s.send kind addr data).powerCap = s.powerCap := rfl
@[simp] theorem State.send_clock (s : State) (kind addr : Nat) (data : List Byte) :
    (s.send kind addr data).clock = s.clock := rfl
@[simp] theorem State.send_cycles (s : State) (kind addr : Nat) (data : List Byte) :
    (s.send kind addr data).cycles = s.cycles := rfl
@[simp] theorem State.send_fresh (s : State) (kind addr : Nat) (data : List Byte) :
    (s.send kind addr data).fresh = s.fresh := rfl
@[simp] theorem State.send_free (s : State) (kind addr : Nat) (data : List Byte) :
    (s.send kind addr data).free = s.free := rfl
@[simp] theorem State.send_gridIds (s : State) (kind addr : Nat) (data : List Byte) :
    (s.send kind addr data).gridIds = s.gridIds := rfl
@[simp] theorem State.send_agenda (s : State) (kind addr : Nat) (data : List Byte) :
    (s.send kind addr data).agenda = s.agenda := rfl
@[simp] theorem State.send_script (s : State) (kind addr : Nat) (data : List Byte) :
    (s.send kind addr data).script = s.script := rfl
@[simp] theorem State.send_cur (s : State) (kind addr : Nat) (data : List Byte) :
    (s.send kind addr data).cur = s.cur := rfl

/-! ### State.mark -/

@[simp] theorem State.mark_mem (s : State) (r : IssueRes) :
    (s.mark r).mem = s.mem := rfl
@[simp] theorem State.mark_blocks (s : State) (r : IssueRes) :
    (s.mark r).blocks = s.blocks := rfl
@[simp] theorem State.mark_grids (s : State) (r : IssueRes) :
    (s.mark r).grids = s.grids := rfl
@[simp] theorem State.mark_cmds (s : State) (r : IssueRes) :
    (s.mark r).cmds = s.cmds := rfl
@[simp] theorem State.mark_cores (s : State) (r : IssueRes) :
    (s.mark r).cores = s.cores := rfl
@[simp] theorem State.mark_die0 (s : State) (r : IssueRes) :
    (s.mark r).die0 = s.die0 := rfl
@[simp] theorem State.mark_die1 (s : State) (r : IssueRes) :
    (s.mark r).die1 = s.die1 := rfl
@[simp] theorem State.mark_queues (s : State) (r : IssueRes) :
    (s.mark r).queues = s.queues := rfl
@[simp] theorem State.mark_arenas (s : State) (r : IssueRes) :
    (s.mark r).arenas = s.arenas := rfl
@[simp] theorem State.mark_passed (s : State) (r : IssueRes) :
    (s.mark r).passed = s.passed := rfl
@[simp] theorem State.mark_passedCore (s : State) (r : IssueRes) :
    (s.mark r).passedCore = s.passedCore := rfl
@[simp] theorem State.mark_rr (s : State) (r : IssueRes) :
    (s.mark r).rr = s.rr := rfl
@[simp] theorem State.mark_fused (s : State) (r : IssueRes) :
    (s.mark r).fused = s.fused := rfl
@[simp] theorem State.mark_mailbox (s : State) (r : IssueRes) :
    (s.mark r).mailbox = s.mailbox := rfl
@[simp] theorem State.mark_boot (s : State) (r : IssueRes) :
    (s.mark r).boot = s.boot := rfl
@[simp] theorem State.mark_measure (s : State) (r : IssueRes) :
    (s.mark r).measure = s.measure := rfl
@[simp] theorem State.mark_powerCap (s : State) (r : IssueRes) :
    (s.mark r).powerCap = s.powerCap := rfl
@[simp] theorem State.mark_clock (s : State) (r : IssueRes) :
    (s.mark r).clock = s.clock := rfl
@[simp] theorem State.mark_messages (s : State) (r : IssueRes) :
    (s.mark r).messages = s.messages := rfl
@[simp] theorem State.mark_cycles (s : State) (r : IssueRes) :
    (s.mark r).cycles = s.cycles := rfl
@[simp] theorem State.mark_fresh (s : State) (r : IssueRes) :
    (s.mark r).fresh = s.fresh := rfl
@[simp] theorem State.mark_free (s : State) (r : IssueRes) :
    (s.mark r).free = s.free := rfl
@[simp] theorem State.mark_gridIds (s : State) (r : IssueRes) :
    (s.mark r).gridIds = s.gridIds := rfl
@[simp] theorem State.mark_agenda (s : State) (r : IssueRes) :
    (s.mark r).agenda = s.agenda := rfl
@[simp] theorem State.mark_script (s : State) (r : IssueRes) :
    (s.mark r).script = s.script := rfl

/-! ### State.markDone -/

@[simp] theorem State.markDone_mem (s : State) :
    (s.markDone).mem = s.mem := rfl
@[simp] theorem State.markDone_blocks (s : State) :
    (s.markDone).blocks = s.blocks := rfl
@[simp] theorem State.markDone_grids (s : State) :
    (s.markDone).grids = s.grids := rfl
@[simp] theorem State.markDone_cmds (s : State) :
    (s.markDone).cmds = s.cmds := rfl
@[simp] theorem State.markDone_cores (s : State) :
    (s.markDone).cores = s.cores := rfl
@[simp] theorem State.markDone_die0 (s : State) :
    (s.markDone).die0 = s.die0 := rfl
@[simp] theorem State.markDone_die1 (s : State) :
    (s.markDone).die1 = s.die1 := rfl
@[simp] theorem State.markDone_queues (s : State) :
    (s.markDone).queues = s.queues := rfl
@[simp] theorem State.markDone_arenas (s : State) :
    (s.markDone).arenas = s.arenas := rfl
@[simp] theorem State.markDone_passed (s : State) :
    (s.markDone).passed = s.passed := rfl
@[simp] theorem State.markDone_passedCore (s : State) :
    (s.markDone).passedCore = s.passedCore := rfl
@[simp] theorem State.markDone_rr (s : State) :
    (s.markDone).rr = s.rr := rfl
@[simp] theorem State.markDone_fused (s : State) :
    (s.markDone).fused = s.fused := rfl
@[simp] theorem State.markDone_mailbox (s : State) :
    (s.markDone).mailbox = s.mailbox := rfl
@[simp] theorem State.markDone_boot (s : State) :
    (s.markDone).boot = s.boot := rfl
@[simp] theorem State.markDone_measure (s : State) :
    (s.markDone).measure = s.measure := rfl
@[simp] theorem State.markDone_powerCap (s : State) :
    (s.markDone).powerCap = s.powerCap := rfl
@[simp] theorem State.markDone_clock (s : State) :
    (s.markDone).clock = s.clock := rfl
@[simp] theorem State.markDone_messages (s : State) :
    (s.markDone).messages = s.messages := rfl
@[simp] theorem State.markDone_cycles (s : State) :
    (s.markDone).cycles = s.cycles := rfl
@[simp] theorem State.markDone_fresh (s : State) :
    (s.markDone).fresh = s.fresh := rfl
@[simp] theorem State.markDone_free (s : State) :
    (s.markDone).free = s.free := rfl
@[simp] theorem State.markDone_gridIds (s : State) :
    (s.markDone).gridIds = s.gridIds := rfl
@[simp] theorem State.markDone_agenda (s : State) :
    (s.markDone).agenda = s.agenda := rfl
@[simp] theorem State.markDone_script (s : State) :
    (s.markDone).script = s.script := rfl

/-! ### State.parkOn -/

@[simp] theorem State.parkOn_mem (s : State) (b g : Nat) (r : ParkReason) (w : Await) :
    (s.parkOn b g r w).mem = s.mem := State.updGrp_mem ..
@[simp] theorem State.parkOn_grids (s : State) (b g : Nat) (r : ParkReason) (w : Await) :
    (s.parkOn b g r w).grids = s.grids := State.updGrp_grids ..
@[simp] theorem State.parkOn_cmds (s : State) (b g : Nat) (r : ParkReason) (w : Await) :
    (s.parkOn b g r w).cmds = s.cmds := State.updGrp_cmds ..
@[simp] theorem State.parkOn_cores (s : State) (b g : Nat) (r : ParkReason) (w : Await) :
    (s.parkOn b g r w).cores = s.cores := State.updGrp_cores ..
@[simp] theorem State.parkOn_die0 (s : State) (b g : Nat) (r : ParkReason) (w : Await) :
    (s.parkOn b g r w).die0 = s.die0 := State.updGrp_die0 ..
@[simp] theorem State.parkOn_die1 (s : State) (b g : Nat) (r : ParkReason) (w : Await) :
    (s.parkOn b g r w).die1 = s.die1 := State.updGrp_die1 ..
@[simp] theorem State.parkOn_queues (s : State) (b g : Nat) (r : ParkReason) (w : Await) :
    (s.parkOn b g r w).queues = s.queues := State.updGrp_queues ..
@[simp] theorem State.parkOn_arenas (s : State) (b g : Nat) (r : ParkReason) (w : Await) :
    (s.parkOn b g r w).arenas = s.arenas := State.updGrp_arenas ..
@[simp] theorem State.parkOn_passed (s : State) (b g : Nat) (r : ParkReason) (w : Await) :
    (s.parkOn b g r w).passed = s.passed := State.updGrp_passed ..
@[simp] theorem State.parkOn_passedCore (s : State) (b g : Nat) (r : ParkReason) (w : Await) :
    (s.parkOn b g r w).passedCore = s.passedCore := State.updGrp_passedCore ..
@[simp] theorem State.parkOn_rr (s : State) (b g : Nat) (r : ParkReason) (w : Await) :
    (s.parkOn b g r w).rr = s.rr := State.updGrp_rr ..
@[simp] theorem State.parkOn_fused (s : State) (b g : Nat) (r : ParkReason) (w : Await) :
    (s.parkOn b g r w).fused = s.fused := State.updGrp_fused ..
@[simp] theorem State.parkOn_mailbox (s : State) (b g : Nat) (r : ParkReason) (w : Await) :
    (s.parkOn b g r w).mailbox = s.mailbox := State.updGrp_mailbox ..
@[simp] theorem State.parkOn_boot (s : State) (b g : Nat) (r : ParkReason) (w : Await) :
    (s.parkOn b g r w).boot = s.boot := State.updGrp_boot ..
@[simp] theorem State.parkOn_measure (s : State) (b g : Nat) (r : ParkReason) (w : Await) :
    (s.parkOn b g r w).measure = s.measure := State.updGrp_measure ..
@[simp] theorem State.parkOn_powerCap (s : State) (b g : Nat) (r : ParkReason) (w : Await) :
    (s.parkOn b g r w).powerCap = s.powerCap := State.updGrp_powerCap ..
@[simp] theorem State.parkOn_clock (s : State) (b g : Nat) (r : ParkReason) (w : Await) :
    (s.parkOn b g r w).clock = s.clock := State.updGrp_clock ..
@[simp] theorem State.parkOn_messages (s : State) (b g : Nat) (r : ParkReason) (w : Await) :
    (s.parkOn b g r w).messages = s.messages := State.updGrp_messages ..
@[simp] theorem State.parkOn_cycles (s : State) (b g : Nat) (r : ParkReason) (w : Await) :
    (s.parkOn b g r w).cycles = s.cycles := State.updGrp_cycles ..
@[simp] theorem State.parkOn_fresh (s : State) (b g : Nat) (r : ParkReason) (w : Await) :
    (s.parkOn b g r w).fresh = s.fresh := State.updGrp_fresh ..
@[simp] theorem State.parkOn_free (s : State) (b g : Nat) (r : ParkReason) (w : Await) :
    (s.parkOn b g r w).free = s.free := State.updGrp_free ..
@[simp] theorem State.parkOn_gridIds (s : State) (b g : Nat) (r : ParkReason) (w : Await) :
    (s.parkOn b g r w).gridIds = s.gridIds := State.updGrp_gridIds ..
@[simp] theorem State.parkOn_agenda (s : State) (b g : Nat) (r : ParkReason) (w : Await) :
    (s.parkOn b g r w).agenda = s.agenda := State.updGrp_agenda ..
@[simp] theorem State.parkOn_script (s : State) (b g : Nat) (r : ParkReason) (w : Await) :
    (s.parkOn b g r w).script = s.script := State.updGrp_script ..
@[simp] theorem State.parkOn_cur (s : State) (b g : Nat) (r : ParkReason) (w : Await) :
    (s.parkOn b g r w).cur = s.cur := State.updGrp_cur ..

/-! ### State.count -/

@[simp] theorem State.count_mem (s : State) :
    (s.count).mem = s.mem := rfl
@[simp] theorem State.count_blocks (s : State) :
    (s.count).blocks = s.blocks := rfl
@[simp] theorem State.count_grids (s : State) :
    (s.count).grids = s.grids := rfl
@[simp] theorem State.count_cmds (s : State) :
    (s.count).cmds = s.cmds := rfl
@[simp] theorem State.count_cores (s : State) :
    (s.count).cores = s.cores := rfl
@[simp] theorem State.count_die0 (s : State) :
    (s.count).die0 = s.die0 := rfl
@[simp] theorem State.count_die1 (s : State) :
    (s.count).die1 = s.die1 := rfl
@[simp] theorem State.count_queues (s : State) :
    (s.count).queues = s.queues := rfl
@[simp] theorem State.count_arenas (s : State) :
    (s.count).arenas = s.arenas := rfl
@[simp] theorem State.count_passed (s : State) :
    (s.count).passed = s.passed := rfl
@[simp] theorem State.count_passedCore (s : State) :
    (s.count).passedCore = s.passedCore := rfl
@[simp] theorem State.count_rr (s : State) :
    (s.count).rr = s.rr := rfl
@[simp] theorem State.count_fused (s : State) :
    (s.count).fused = s.fused := rfl
@[simp] theorem State.count_mailbox (s : State) :
    (s.count).mailbox = s.mailbox := rfl
@[simp] theorem State.count_boot (s : State) :
    (s.count).boot = s.boot := rfl
@[simp] theorem State.count_measure (s : State) :
    (s.count).measure = s.measure := rfl
@[simp] theorem State.count_powerCap (s : State) :
    (s.count).powerCap = s.powerCap := rfl
@[simp] theorem State.count_clock (s : State) :
    (s.count).clock = s.clock := rfl
@[simp] theorem State.count_messages (s : State) :
    (s.count).messages = s.messages := rfl
@[simp] theorem State.count_fresh (s : State) :
    (s.count).fresh = s.fresh := rfl
@[simp] theorem State.count_free (s : State) :
    (s.count).free = s.free := rfl
@[simp] theorem State.count_gridIds (s : State) :
    (s.count).gridIds = s.gridIds := rfl
@[simp] theorem State.count_agenda (s : State) :
    (s.count).agenda = s.agenda := rfl
@[simp] theorem State.count_script (s : State) :
    (s.count).script = s.script := rfl
@[simp] theorem State.count_cur (s : State) :
    (s.count).cur = s.cur := rfl

/-! ### A value taken -/

@[simp] theorem State.takeFree_mem (s : State) : s.takeFree.2.mem = s.mem := rfl
@[simp] theorem State.takeFree_blocks (s : State) : s.takeFree.2.blocks = s.blocks := rfl
@[simp] theorem State.takeFree_grids (s : State) : s.takeFree.2.grids = s.grids := rfl
@[simp] theorem State.takeFree_cmds (s : State) : s.takeFree.2.cmds = s.cmds := rfl
@[simp] theorem State.takeFree_cores (s : State) : s.takeFree.2.cores = s.cores := rfl
@[simp] theorem State.takeFree_die0 (s : State) : s.takeFree.2.die0 = s.die0 := rfl
@[simp] theorem State.takeFree_die1 (s : State) : s.takeFree.2.die1 = s.die1 := rfl
@[simp] theorem State.takeFree_queues (s : State) : s.takeFree.2.queues = s.queues := rfl
@[simp] theorem State.takeFree_arenas (s : State) : s.takeFree.2.arenas = s.arenas := rfl
@[simp] theorem State.takeFree_passed (s : State) : s.takeFree.2.passed = s.passed := rfl
@[simp] theorem State.takeFree_passedCore (s : State) : s.takeFree.2.passedCore = s.passedCore := rfl
@[simp] theorem State.takeFree_rr (s : State) : s.takeFree.2.rr = s.rr := rfl
@[simp] theorem State.takeFree_fused (s : State) : s.takeFree.2.fused = s.fused := rfl
@[simp] theorem State.takeFree_mailbox (s : State) : s.takeFree.2.mailbox = s.mailbox := rfl
@[simp] theorem State.takeFree_boot (s : State) : s.takeFree.2.boot = s.boot := rfl
@[simp] theorem State.takeFree_measure (s : State) : s.takeFree.2.measure = s.measure := rfl
@[simp] theorem State.takeFree_powerCap (s : State) : s.takeFree.2.powerCap = s.powerCap := rfl
@[simp] theorem State.takeFree_clock (s : State) : s.takeFree.2.clock = s.clock := rfl
@[simp] theorem State.takeFree_messages (s : State) : s.takeFree.2.messages = s.messages := rfl
@[simp] theorem State.takeFree_cycles (s : State) : s.takeFree.2.cycles = s.cycles := rfl
@[simp] theorem State.takeFree_fresh (s : State) : s.takeFree.2.fresh = s.fresh := rfl
@[simp] theorem State.takeFree_gridIds (s : State) : s.takeFree.2.gridIds = s.gridIds := rfl
@[simp] theorem State.takeFree_agenda (s : State) : s.takeFree.2.agenda = s.agenda := rfl
@[simp] theorem State.takeFree_script (s : State) : s.takeFree.2.script = s.script := rfl
@[simp] theorem State.takeFree_cur (s : State) : s.takeFree.2.cur = s.cur := rfl

/-! ### Group.wv -/

@[simp] theorem Group.wv_u (y : Group) (r : Nat) (m : Mask) (f : Nat → Word) :
    (y.wv r m f).u = y.u := rfl
@[simp] theorem Group.wv_p (y : Group) (r : Nat) (m : Mask) (f : Nat → Word) :
    (y.wv r m f).p = y.p := rfl
@[simp] theorem Group.wv_pc (y : Group) (r : Nat) (m : Mask) (f : Nat → Word) :
    (y.wv r m f).pc = y.pc := rfl
@[simp] theorem Group.wv_live (y : Group) (r : Nat) (m : Mask) (f : Nat → Word) :
    (y.wv r m f).live = y.live := rfl
@[simp] theorem Group.wv_yielded (y : Group) (r : Nat) (m : Mask) (f : Nat → Word) :
    (y.wv r m f).yielded = y.yielded := rfl
@[simp] theorem Group.wv_lfsr (y : Group) (r : Nat) (m : Mask) (f : Nat → Word) :
    (y.wv r m f).lfsr = y.lfsr := rfl
@[simp] theorem Group.wv_smode (y : Group) (r : Nat) (m : Mask) (f : Nat → Word) :
    (y.wv r m f).smode = y.smode := rfl
@[simp] theorem Group.wv_flags (y : Group) (r : Nat) (m : Mask) (f : Nat → Word) :
    (y.wv r m f).flags = y.flags := rfl
@[simp] theorem Group.wv_flagen (y : Group) (r : Nat) (m : Mask) (f : Nat → Word) :
    (y.wv r m f).flagen = y.flagen := rfl
@[simp] theorem Group.wv_cause (y : Group) (r : Nat) (m : Mask) (f : Nat → Word) :
    (y.wv r m f).cause = y.cause := rfl
@[simp] theorem Group.wv_detail0 (y : Group) (r : Nat) (m : Mask) (f : Nat → Word) :
    (y.wv r m f).detail0 = y.detail0 := rfl
@[simp] theorem Group.wv_detail1 (y : Group) (r : Nat) (m : Mask) (f : Nat → Word) :
    (y.wv r m f).detail1 = y.detail1 := rfl
@[simp] theorem Group.wv_detail2 (y : Group) (r : Nat) (m : Mask) (f : Nat → Word) :
    (y.wv r m f).detail2 = y.detail2 := rfl
@[simp] theorem Group.wv_epc (y : Group) (r : Nat) (m : Mask) (f : Nat → Word) :
    (y.wv r m f).epc = y.epc := rfl
@[simp] theorem Group.wv_emask (y : Group) (r : Nat) (m : Mask) (f : Nat → Word) :
    (y.wv r m f).emask = y.emask := rfl
@[simp] theorem Group.wv_handler (y : Group) (r : Nat) (m : Mask) (f : Nat → Word) :
    (y.wv r m f).handler = y.handler := rfl
@[simp] theorem Group.wv_frame (y : Group) (r : Nat) (m : Mask) (f : Nat → Word) :
    (y.wv r m f).frame = y.frame := rfl
@[simp] theorem Group.wv_caprec (y : Group) (r : Nat) (m : Mask) (f : Nat → Word) :
    (y.wv r m f).caprec = y.caprec := rfl
@[simp] theorem Group.wv_hscr0 (y : Group) (r : Nat) (m : Mask) (f : Nat → Word) :
    (y.wv r m f).hscr0 = y.hscr0 := rfl
@[simp] theorem Group.wv_hscr1 (y : Group) (r : Nat) (m : Mask) (f : Nat → Word) :
    (y.wv r m f).hscr1 = y.hscr1 := rfl
@[simp] theorem Group.wv_hscr2 (y : Group) (r : Nat) (m : Mask) (f : Nat → Word) :
    (y.wv r m f).hscr2 = y.hscr2 := rfl
@[simp] theorem Group.wv_hscr3 (y : Group) (r : Nat) (m : Mask) (f : Nat → Word) :
    (y.wv r m f).hscr3 = y.hscr3 := rfl
@[simp] theorem Group.wv_level (y : Group) (r : Nat) (m : Mask) (f : Nat → Word) :
    (y.wv r m f).level = y.level := rfl
@[simp] theorem Group.wv_pendV (y : Group) (r : Nat) (m : Mask) (f : Nat → Word) :
    (y.wv r m f).pendV = y.pendV := rfl
@[simp] theorem Group.wv_pendS (y : Group) (r : Nat) (m : Mask) (f : Nat → Word) :
    (y.wv r m f).pendS = y.pendS := rfl
@[simp] theorem Group.wv_pendP (y : Group) (r : Nat) (m : Mask) (f : Nat → Word) :
    (y.wv r m f).pendP = y.pendP := rfl
@[simp] theorem Group.wv_queues (y : Group) (r : Nat) (m : Mask) (f : Nat → Word) :
    (y.wv r m f).queues = y.queues := rfl
@[simp] theorem Group.wv_outs (y : Group) (r : Nat) (m : Mask) (f : Nat → Word) :
    (y.wv r m f).outs = y.outs := rfl
@[simp] theorem Group.wv_loads (y : Group) (r : Nat) (m : Mask) (f : Nat → Word) :
    (y.wv r m f).loads = y.loads := rfl
@[simp] theorem Group.wv_ready (y : Group) (r : Nat) (m : Mask) (f : Nat → Word) :
    (y.wv r m f).ready = y.ready := rfl
@[simp] theorem Group.wv_record0 (y : Group) (r : Nat) (m : Mask) (f : Nat → Word) :
    (y.wv r m f).record0 = y.record0 := rfl
@[simp] theorem Group.wv_park (y : Group) (r : Nat) (m : Mask) (f : Nat → Word) :
    (y.wv r m f).park = y.park := rfl
@[simp] theorem Group.wv_more (y : Group) (r : Nat) (m : Mask) (f : Nat → Word) :
    (y.wv r m f).more = y.more := rfl
@[simp] theorem Group.wv_switchDue (y : Group) (r : Nat) (m : Mask) (f : Nat → Word) :
    (y.wv r m f).switchDue = y.switchDue := rfl
@[simp] theorem Group.wv_twinBad (y : Group) (r : Nat) (m : Mask) (f : Nat → Word) :
    (y.wv r m f).twinBad = y.twinBad := rfl
@[simp] theorem Group.wv_kept (y : Group) (r : Nat) (m : Mask) (f : Nat → Word) :
    (y.wv r m f).kept = y.kept := rfl
@[simp] theorem Group.wv_keptMore (y : Group) (r : Nat) (m : Mask) (f : Nat → Word) :
    (y.wv r m f).keptMore = y.keptMore := rfl
@[simp] theorem Group.wv_keptSwitch (y : Group) (r : Nat) (m : Mask) (f : Nat → Word) :
    (y.wv r m f).keptSwitch = y.keptSwitch := rfl
@[simp] theorem Group.wv_trapPend (y : Group) (r : Nat) (m : Mask) (f : Nat → Word) :
    (y.wv r m f).trapPend = y.trapPend := rfl
@[simp] theorem Group.wv_waitOk (y : Group) (r : Nat) (m : Mask) (f : Nat → Word) :
    (y.wv r m f).waitOk = y.waitOk := rfl
@[simp] theorem Group.wv_cap (y : Group) (r : Nat) (m : Mask) (f : Nat → Word) :
    (y.wv r m f).cap = y.cap := rfl
@[simp] theorem Group.wv_posted (y : Group) (r : Nat) (m : Mask) (f : Nat → Word) :
    (y.wv r m f).posted = y.posted := rfl
@[simp] theorem Group.wv_lastCap (y : Group) (r : Nat) (m : Mask) (f : Nat → Word) :
    (y.wv r m f).lastCap = y.lastCap := rfl
@[simp] theorem Group.wv_cancelTaken (y : Group) (r : Nat) (m : Mask) (f : Nat → Word) :
    (y.wv r m f).cancelTaken = y.cancelTaken := rfl
@[simp] theorem Group.wv_ended (y : Group) (r : Nat) (m : Mask) (f : Nat → Word) :
    (y.wv r m f).ended = y.ended := rfl
@[simp] theorem Group.wv_phases (y : Group) (r : Nat) (m : Mask) (f : Nat → Word) :
    (y.wv r m f).phases = y.phases := rfl
@[simp] theorem Group.wv_seq (y : Group) (r : Nat) (m : Mask) (f : Nat → Word) :
    (y.wv r m f).seq = y.seq := rfl
@[simp] theorem Group.wv_quadrant (y : Group) (r : Nat) (m : Mask) (f : Nat → Word) :
    (y.wv r m f).quadrant = y.quadrant := rfl
@[simp] theorem Group.wv_active (y : Group) (r : Nat) (m : Mask) (f : Nat → Word) :
    (y.wv r m f).active = y.active := rfl
@[simp] theorem Group.wv_activeAt (y : Group) (r : Nat) (m : Mask) (f : Nat → Word) :
    (y.wv r m f).activeAt = y.activeAt := rfl
@[simp] theorem Group.wv_bornAt (y : Group) (r : Nat) (m : Mask) (f : Nat → Word) :
    (y.wv r m f).bornAt = y.bornAt := rfl
@[simp] theorem Group.wv_parkedAt (y : Group) (r : Nat) (m : Mask) (f : Nat → Word) :
    (y.wv r m f).parkedAt = y.parkedAt := rfl

/-! ### Group.ws -/

@[simp] theorem Group.ws_v (y : Group) (r : Nat) (x : Word) :
    (y.ws r x).v = y.v := rfl
@[simp] theorem Group.ws_p (y : Group) (r : Nat) (x : Word) :
    (y.ws r x).p = y.p := rfl
@[simp] theorem Group.ws_pc (y : Group) (r : Nat) (x : Word) :
    (y.ws r x).pc = y.pc := rfl
@[simp] theorem Group.ws_live (y : Group) (r : Nat) (x : Word) :
    (y.ws r x).live = y.live := rfl
@[simp] theorem Group.ws_yielded (y : Group) (r : Nat) (x : Word) :
    (y.ws r x).yielded = y.yielded := rfl
@[simp] theorem Group.ws_lfsr (y : Group) (r : Nat) (x : Word) :
    (y.ws r x).lfsr = y.lfsr := rfl
@[simp] theorem Group.ws_smode (y : Group) (r : Nat) (x : Word) :
    (y.ws r x).smode = y.smode := rfl
@[simp] theorem Group.ws_flags (y : Group) (r : Nat) (x : Word) :
    (y.ws r x).flags = y.flags := rfl
@[simp] theorem Group.ws_flagen (y : Group) (r : Nat) (x : Word) :
    (y.ws r x).flagen = y.flagen := rfl
@[simp] theorem Group.ws_cause (y : Group) (r : Nat) (x : Word) :
    (y.ws r x).cause = y.cause := rfl
@[simp] theorem Group.ws_detail0 (y : Group) (r : Nat) (x : Word) :
    (y.ws r x).detail0 = y.detail0 := rfl
@[simp] theorem Group.ws_detail1 (y : Group) (r : Nat) (x : Word) :
    (y.ws r x).detail1 = y.detail1 := rfl
@[simp] theorem Group.ws_detail2 (y : Group) (r : Nat) (x : Word) :
    (y.ws r x).detail2 = y.detail2 := rfl
@[simp] theorem Group.ws_epc (y : Group) (r : Nat) (x : Word) :
    (y.ws r x).epc = y.epc := rfl
@[simp] theorem Group.ws_emask (y : Group) (r : Nat) (x : Word) :
    (y.ws r x).emask = y.emask := rfl
@[simp] theorem Group.ws_handler (y : Group) (r : Nat) (x : Word) :
    (y.ws r x).handler = y.handler := rfl
@[simp] theorem Group.ws_frame (y : Group) (r : Nat) (x : Word) :
    (y.ws r x).frame = y.frame := rfl
@[simp] theorem Group.ws_caprec (y : Group) (r : Nat) (x : Word) :
    (y.ws r x).caprec = y.caprec := rfl
@[simp] theorem Group.ws_hscr0 (y : Group) (r : Nat) (x : Word) :
    (y.ws r x).hscr0 = y.hscr0 := rfl
@[simp] theorem Group.ws_hscr1 (y : Group) (r : Nat) (x : Word) :
    (y.ws r x).hscr1 = y.hscr1 := rfl
@[simp] theorem Group.ws_hscr2 (y : Group) (r : Nat) (x : Word) :
    (y.ws r x).hscr2 = y.hscr2 := rfl
@[simp] theorem Group.ws_hscr3 (y : Group) (r : Nat) (x : Word) :
    (y.ws r x).hscr3 = y.hscr3 := rfl
@[simp] theorem Group.ws_level (y : Group) (r : Nat) (x : Word) :
    (y.ws r x).level = y.level := rfl
@[simp] theorem Group.ws_pendV (y : Group) (r : Nat) (x : Word) :
    (y.ws r x).pendV = y.pendV := rfl
@[simp] theorem Group.ws_pendS (y : Group) (r : Nat) (x : Word) :
    (y.ws r x).pendS = y.pendS := rfl
@[simp] theorem Group.ws_pendP (y : Group) (r : Nat) (x : Word) :
    (y.ws r x).pendP = y.pendP := rfl
@[simp] theorem Group.ws_queues (y : Group) (r : Nat) (x : Word) :
    (y.ws r x).queues = y.queues := rfl
@[simp] theorem Group.ws_outs (y : Group) (r : Nat) (x : Word) :
    (y.ws r x).outs = y.outs := rfl
@[simp] theorem Group.ws_loads (y : Group) (r : Nat) (x : Word) :
    (y.ws r x).loads = y.loads := rfl
@[simp] theorem Group.ws_ready (y : Group) (r : Nat) (x : Word) :
    (y.ws r x).ready = y.ready := rfl
@[simp] theorem Group.ws_record0 (y : Group) (r : Nat) (x : Word) :
    (y.ws r x).record0 = y.record0 := rfl
@[simp] theorem Group.ws_park (y : Group) (r : Nat) (x : Word) :
    (y.ws r x).park = y.park := rfl
@[simp] theorem Group.ws_more (y : Group) (r : Nat) (x : Word) :
    (y.ws r x).more = y.more := rfl
@[simp] theorem Group.ws_switchDue (y : Group) (r : Nat) (x : Word) :
    (y.ws r x).switchDue = y.switchDue := rfl
@[simp] theorem Group.ws_twinBad (y : Group) (r : Nat) (x : Word) :
    (y.ws r x).twinBad = y.twinBad := rfl
@[simp] theorem Group.ws_kept (y : Group) (r : Nat) (x : Word) :
    (y.ws r x).kept = y.kept := rfl
@[simp] theorem Group.ws_keptMore (y : Group) (r : Nat) (x : Word) :
    (y.ws r x).keptMore = y.keptMore := rfl
@[simp] theorem Group.ws_keptSwitch (y : Group) (r : Nat) (x : Word) :
    (y.ws r x).keptSwitch = y.keptSwitch := rfl
@[simp] theorem Group.ws_trapPend (y : Group) (r : Nat) (x : Word) :
    (y.ws r x).trapPend = y.trapPend := rfl
@[simp] theorem Group.ws_waitOk (y : Group) (r : Nat) (x : Word) :
    (y.ws r x).waitOk = y.waitOk := rfl
@[simp] theorem Group.ws_cap (y : Group) (r : Nat) (x : Word) :
    (y.ws r x).cap = y.cap := rfl
@[simp] theorem Group.ws_posted (y : Group) (r : Nat) (x : Word) :
    (y.ws r x).posted = y.posted := rfl
@[simp] theorem Group.ws_lastCap (y : Group) (r : Nat) (x : Word) :
    (y.ws r x).lastCap = y.lastCap := rfl
@[simp] theorem Group.ws_cancelTaken (y : Group) (r : Nat) (x : Word) :
    (y.ws r x).cancelTaken = y.cancelTaken := rfl
@[simp] theorem Group.ws_ended (y : Group) (r : Nat) (x : Word) :
    (y.ws r x).ended = y.ended := rfl
@[simp] theorem Group.ws_phases (y : Group) (r : Nat) (x : Word) :
    (y.ws r x).phases = y.phases := rfl
@[simp] theorem Group.ws_seq (y : Group) (r : Nat) (x : Word) :
    (y.ws r x).seq = y.seq := rfl
@[simp] theorem Group.ws_quadrant (y : Group) (r : Nat) (x : Word) :
    (y.ws r x).quadrant = y.quadrant := rfl
@[simp] theorem Group.ws_active (y : Group) (r : Nat) (x : Word) :
    (y.ws r x).active = y.active := rfl
@[simp] theorem Group.ws_activeAt (y : Group) (r : Nat) (x : Word) :
    (y.ws r x).activeAt = y.activeAt := rfl
@[simp] theorem Group.ws_bornAt (y : Group) (r : Nat) (x : Word) :
    (y.ws r x).bornAt = y.bornAt := rfl
@[simp] theorem Group.ws_parkedAt (y : Group) (r : Nat) (x : Word) :
    (y.ws r x).parkedAt = y.parkedAt := rfl

/-! ### Group.wp -/

@[simp] theorem Group.wp_v (y : Group) (n : Nat) (m x : Mask) :
    (y.wp n m x).v = y.v := by unfold Group.wp; split <;> rfl
@[simp] theorem Group.wp_u (y : Group) (n : Nat) (m x : Mask) :
    (y.wp n m x).u = y.u := by unfold Group.wp; split <;> rfl
@[simp] theorem Group.wp_pc (y : Group) (n : Nat) (m x : Mask) :
    (y.wp n m x).pc = y.pc := by unfold Group.wp; split <;> rfl
@[simp] theorem Group.wp_live (y : Group) (n : Nat) (m x : Mask) :
    (y.wp n m x).live = y.live := by unfold Group.wp; split <;> rfl
@[simp] theorem Group.wp_yielded (y : Group) (n : Nat) (m x : Mask) :
    (y.wp n m x).yielded = y.yielded := by unfold Group.wp; split <;> rfl
@[simp] theorem Group.wp_lfsr (y : Group) (n : Nat) (m x : Mask) :
    (y.wp n m x).lfsr = y.lfsr := by unfold Group.wp; split <;> rfl
@[simp] theorem Group.wp_smode (y : Group) (n : Nat) (m x : Mask) :
    (y.wp n m x).smode = y.smode := by unfold Group.wp; split <;> rfl
@[simp] theorem Group.wp_flags (y : Group) (n : Nat) (m x : Mask) :
    (y.wp n m x).flags = y.flags := by unfold Group.wp; split <;> rfl
@[simp] theorem Group.wp_flagen (y : Group) (n : Nat) (m x : Mask) :
    (y.wp n m x).flagen = y.flagen := by unfold Group.wp; split <;> rfl
@[simp] theorem Group.wp_cause (y : Group) (n : Nat) (m x : Mask) :
    (y.wp n m x).cause = y.cause := by unfold Group.wp; split <;> rfl
@[simp] theorem Group.wp_detail0 (y : Group) (n : Nat) (m x : Mask) :
    (y.wp n m x).detail0 = y.detail0 := by unfold Group.wp; split <;> rfl
@[simp] theorem Group.wp_detail1 (y : Group) (n : Nat) (m x : Mask) :
    (y.wp n m x).detail1 = y.detail1 := by unfold Group.wp; split <;> rfl
@[simp] theorem Group.wp_detail2 (y : Group) (n : Nat) (m x : Mask) :
    (y.wp n m x).detail2 = y.detail2 := by unfold Group.wp; split <;> rfl
@[simp] theorem Group.wp_epc (y : Group) (n : Nat) (m x : Mask) :
    (y.wp n m x).epc = y.epc := by unfold Group.wp; split <;> rfl
@[simp] theorem Group.wp_emask (y : Group) (n : Nat) (m x : Mask) :
    (y.wp n m x).emask = y.emask := by unfold Group.wp; split <;> rfl
@[simp] theorem Group.wp_handler (y : Group) (n : Nat) (m x : Mask) :
    (y.wp n m x).handler = y.handler := by unfold Group.wp; split <;> rfl
@[simp] theorem Group.wp_frame (y : Group) (n : Nat) (m x : Mask) :
    (y.wp n m x).frame = y.frame := by unfold Group.wp; split <;> rfl
@[simp] theorem Group.wp_caprec (y : Group) (n : Nat) (m x : Mask) :
    (y.wp n m x).caprec = y.caprec := by unfold Group.wp; split <;> rfl
@[simp] theorem Group.wp_hscr0 (y : Group) (n : Nat) (m x : Mask) :
    (y.wp n m x).hscr0 = y.hscr0 := by unfold Group.wp; split <;> rfl
@[simp] theorem Group.wp_hscr1 (y : Group) (n : Nat) (m x : Mask) :
    (y.wp n m x).hscr1 = y.hscr1 := by unfold Group.wp; split <;> rfl
@[simp] theorem Group.wp_hscr2 (y : Group) (n : Nat) (m x : Mask) :
    (y.wp n m x).hscr2 = y.hscr2 := by unfold Group.wp; split <;> rfl
@[simp] theorem Group.wp_hscr3 (y : Group) (n : Nat) (m x : Mask) :
    (y.wp n m x).hscr3 = y.hscr3 := by unfold Group.wp; split <;> rfl
@[simp] theorem Group.wp_level (y : Group) (n : Nat) (m x : Mask) :
    (y.wp n m x).level = y.level := by unfold Group.wp; split <;> rfl
@[simp] theorem Group.wp_pendV (y : Group) (n : Nat) (m x : Mask) :
    (y.wp n m x).pendV = y.pendV := by unfold Group.wp; split <;> rfl
@[simp] theorem Group.wp_pendS (y : Group) (n : Nat) (m x : Mask) :
    (y.wp n m x).pendS = y.pendS := by unfold Group.wp; split <;> rfl
@[simp] theorem Group.wp_pendP (y : Group) (n : Nat) (m x : Mask) :
    (y.wp n m x).pendP = y.pendP := by unfold Group.wp; split <;> rfl
@[simp] theorem Group.wp_queues (y : Group) (n : Nat) (m x : Mask) :
    (y.wp n m x).queues = y.queues := by unfold Group.wp; split <;> rfl
@[simp] theorem Group.wp_outs (y : Group) (n : Nat) (m x : Mask) :
    (y.wp n m x).outs = y.outs := by unfold Group.wp; split <;> rfl
@[simp] theorem Group.wp_loads (y : Group) (n : Nat) (m x : Mask) :
    (y.wp n m x).loads = y.loads := by unfold Group.wp; split <;> rfl
@[simp] theorem Group.wp_ready (y : Group) (n : Nat) (m x : Mask) :
    (y.wp n m x).ready = y.ready := by unfold Group.wp; split <;> rfl
@[simp] theorem Group.wp_record0 (y : Group) (n : Nat) (m x : Mask) :
    (y.wp n m x).record0 = y.record0 := by unfold Group.wp; split <;> rfl
@[simp] theorem Group.wp_park (y : Group) (n : Nat) (m x : Mask) :
    (y.wp n m x).park = y.park := by unfold Group.wp; split <;> rfl
@[simp] theorem Group.wp_more (y : Group) (n : Nat) (m x : Mask) :
    (y.wp n m x).more = y.more := by unfold Group.wp; split <;> rfl
@[simp] theorem Group.wp_switchDue (y : Group) (n : Nat) (m x : Mask) :
    (y.wp n m x).switchDue = y.switchDue := by unfold Group.wp; split <;> rfl
@[simp] theorem Group.wp_twinBad (y : Group) (n : Nat) (m x : Mask) :
    (y.wp n m x).twinBad = y.twinBad := by unfold Group.wp; split <;> rfl
@[simp] theorem Group.wp_kept (y : Group) (n : Nat) (m x : Mask) :
    (y.wp n m x).kept = y.kept := by unfold Group.wp; split <;> rfl
@[simp] theorem Group.wp_keptMore (y : Group) (n : Nat) (m x : Mask) :
    (y.wp n m x).keptMore = y.keptMore := by unfold Group.wp; split <;> rfl
@[simp] theorem Group.wp_keptSwitch (y : Group) (n : Nat) (m x : Mask) :
    (y.wp n m x).keptSwitch = y.keptSwitch := by unfold Group.wp; split <;> rfl
@[simp] theorem Group.wp_trapPend (y : Group) (n : Nat) (m x : Mask) :
    (y.wp n m x).trapPend = y.trapPend := by unfold Group.wp; split <;> rfl
@[simp] theorem Group.wp_waitOk (y : Group) (n : Nat) (m x : Mask) :
    (y.wp n m x).waitOk = y.waitOk := by unfold Group.wp; split <;> rfl
@[simp] theorem Group.wp_cap (y : Group) (n : Nat) (m x : Mask) :
    (y.wp n m x).cap = y.cap := by unfold Group.wp; split <;> rfl
@[simp] theorem Group.wp_posted (y : Group) (n : Nat) (m x : Mask) :
    (y.wp n m x).posted = y.posted := by unfold Group.wp; split <;> rfl
@[simp] theorem Group.wp_lastCap (y : Group) (n : Nat) (m x : Mask) :
    (y.wp n m x).lastCap = y.lastCap := by unfold Group.wp; split <;> rfl
@[simp] theorem Group.wp_cancelTaken (y : Group) (n : Nat) (m x : Mask) :
    (y.wp n m x).cancelTaken = y.cancelTaken := by unfold Group.wp; split <;> rfl
@[simp] theorem Group.wp_ended (y : Group) (n : Nat) (m x : Mask) :
    (y.wp n m x).ended = y.ended := by unfold Group.wp; split <;> rfl
@[simp] theorem Group.wp_phases (y : Group) (n : Nat) (m x : Mask) :
    (y.wp n m x).phases = y.phases := by unfold Group.wp; split <;> rfl
@[simp] theorem Group.wp_seq (y : Group) (n : Nat) (m x : Mask) :
    (y.wp n m x).seq = y.seq := by unfold Group.wp; split <;> rfl
@[simp] theorem Group.wp_quadrant (y : Group) (n : Nat) (m x : Mask) :
    (y.wp n m x).quadrant = y.quadrant := by unfold Group.wp; split <;> rfl
@[simp] theorem Group.wp_active (y : Group) (n : Nat) (m x : Mask) :
    (y.wp n m x).active = y.active := by unfold Group.wp; split <;> rfl
@[simp] theorem Group.wp_activeAt (y : Group) (n : Nat) (m x : Mask) :
    (y.wp n m x).activeAt = y.activeAt := by unfold Group.wp; split <;> rfl
@[simp] theorem Group.wp_bornAt (y : Group) (n : Nat) (m x : Mask) :
    (y.wp n m x).bornAt = y.bornAt := by unfold Group.wp; split <;> rfl
@[simp] theorem Group.wp_parkedAt (y : Group) (n : Nat) (m x : Mask) :
    (y.wp n m x).parkedAt = y.parkedAt := by unfold Group.wp; split <;> rfl

/-! ### Group.setPc -/

@[simp] theorem Group.setPc_v (y : Group) (m : Mask) (f : Nat → Word) :
    (y.setPc m f).v = y.v := rfl
@[simp] theorem Group.setPc_u (y : Group) (m : Mask) (f : Nat → Word) :
    (y.setPc m f).u = y.u := rfl
@[simp] theorem Group.setPc_p (y : Group) (m : Mask) (f : Nat → Word) :
    (y.setPc m f).p = y.p := rfl
@[simp] theorem Group.setPc_live (y : Group) (m : Mask) (f : Nat → Word) :
    (y.setPc m f).live = y.live := rfl
@[simp] theorem Group.setPc_yielded (y : Group) (m : Mask) (f : Nat → Word) :
    (y.setPc m f).yielded = y.yielded := rfl
@[simp] theorem Group.setPc_lfsr (y : Group) (m : Mask) (f : Nat → Word) :
    (y.setPc m f).lfsr = y.lfsr := rfl
@[simp] theorem Group.setPc_smode (y : Group) (m : Mask) (f : Nat → Word) :
    (y.setPc m f).smode = y.smode := rfl
@[simp] theorem Group.setPc_flags (y : Group) (m : Mask) (f : Nat → Word) :
    (y.setPc m f).flags = y.flags := rfl
@[simp] theorem Group.setPc_flagen (y : Group) (m : Mask) (f : Nat → Word) :
    (y.setPc m f).flagen = y.flagen := rfl
@[simp] theorem Group.setPc_cause (y : Group) (m : Mask) (f : Nat → Word) :
    (y.setPc m f).cause = y.cause := rfl
@[simp] theorem Group.setPc_detail0 (y : Group) (m : Mask) (f : Nat → Word) :
    (y.setPc m f).detail0 = y.detail0 := rfl
@[simp] theorem Group.setPc_detail1 (y : Group) (m : Mask) (f : Nat → Word) :
    (y.setPc m f).detail1 = y.detail1 := rfl
@[simp] theorem Group.setPc_detail2 (y : Group) (m : Mask) (f : Nat → Word) :
    (y.setPc m f).detail2 = y.detail2 := rfl
@[simp] theorem Group.setPc_epc (y : Group) (m : Mask) (f : Nat → Word) :
    (y.setPc m f).epc = y.epc := rfl
@[simp] theorem Group.setPc_emask (y : Group) (m : Mask) (f : Nat → Word) :
    (y.setPc m f).emask = y.emask := rfl
@[simp] theorem Group.setPc_handler (y : Group) (m : Mask) (f : Nat → Word) :
    (y.setPc m f).handler = y.handler := rfl
@[simp] theorem Group.setPc_frame (y : Group) (m : Mask) (f : Nat → Word) :
    (y.setPc m f).frame = y.frame := rfl
@[simp] theorem Group.setPc_caprec (y : Group) (m : Mask) (f : Nat → Word) :
    (y.setPc m f).caprec = y.caprec := rfl
@[simp] theorem Group.setPc_hscr0 (y : Group) (m : Mask) (f : Nat → Word) :
    (y.setPc m f).hscr0 = y.hscr0 := rfl
@[simp] theorem Group.setPc_hscr1 (y : Group) (m : Mask) (f : Nat → Word) :
    (y.setPc m f).hscr1 = y.hscr1 := rfl
@[simp] theorem Group.setPc_hscr2 (y : Group) (m : Mask) (f : Nat → Word) :
    (y.setPc m f).hscr2 = y.hscr2 := rfl
@[simp] theorem Group.setPc_hscr3 (y : Group) (m : Mask) (f : Nat → Word) :
    (y.setPc m f).hscr3 = y.hscr3 := rfl
@[simp] theorem Group.setPc_level (y : Group) (m : Mask) (f : Nat → Word) :
    (y.setPc m f).level = y.level := rfl
@[simp] theorem Group.setPc_pendV (y : Group) (m : Mask) (f : Nat → Word) :
    (y.setPc m f).pendV = y.pendV := rfl
@[simp] theorem Group.setPc_pendS (y : Group) (m : Mask) (f : Nat → Word) :
    (y.setPc m f).pendS = y.pendS := rfl
@[simp] theorem Group.setPc_pendP (y : Group) (m : Mask) (f : Nat → Word) :
    (y.setPc m f).pendP = y.pendP := rfl
@[simp] theorem Group.setPc_queues (y : Group) (m : Mask) (f : Nat → Word) :
    (y.setPc m f).queues = y.queues := rfl
@[simp] theorem Group.setPc_outs (y : Group) (m : Mask) (f : Nat → Word) :
    (y.setPc m f).outs = y.outs := rfl
@[simp] theorem Group.setPc_loads (y : Group) (m : Mask) (f : Nat → Word) :
    (y.setPc m f).loads = y.loads := rfl
@[simp] theorem Group.setPc_ready (y : Group) (m : Mask) (f : Nat → Word) :
    (y.setPc m f).ready = y.ready := rfl
@[simp] theorem Group.setPc_record0 (y : Group) (m : Mask) (f : Nat → Word) :
    (y.setPc m f).record0 = y.record0 := rfl
@[simp] theorem Group.setPc_park (y : Group) (m : Mask) (f : Nat → Word) :
    (y.setPc m f).park = y.park := rfl
@[simp] theorem Group.setPc_more (y : Group) (m : Mask) (f : Nat → Word) :
    (y.setPc m f).more = y.more := rfl
@[simp] theorem Group.setPc_switchDue (y : Group) (m : Mask) (f : Nat → Word) :
    (y.setPc m f).switchDue = y.switchDue := rfl
@[simp] theorem Group.setPc_twinBad (y : Group) (m : Mask) (f : Nat → Word) :
    (y.setPc m f).twinBad = y.twinBad := rfl
@[simp] theorem Group.setPc_kept (y : Group) (m : Mask) (f : Nat → Word) :
    (y.setPc m f).kept = y.kept := rfl
@[simp] theorem Group.setPc_keptMore (y : Group) (m : Mask) (f : Nat → Word) :
    (y.setPc m f).keptMore = y.keptMore := rfl
@[simp] theorem Group.setPc_keptSwitch (y : Group) (m : Mask) (f : Nat → Word) :
    (y.setPc m f).keptSwitch = y.keptSwitch := rfl
@[simp] theorem Group.setPc_trapPend (y : Group) (m : Mask) (f : Nat → Word) :
    (y.setPc m f).trapPend = y.trapPend := rfl
@[simp] theorem Group.setPc_waitOk (y : Group) (m : Mask) (f : Nat → Word) :
    (y.setPc m f).waitOk = y.waitOk := rfl
@[simp] theorem Group.setPc_cap (y : Group) (m : Mask) (f : Nat → Word) :
    (y.setPc m f).cap = y.cap := rfl
@[simp] theorem Group.setPc_posted (y : Group) (m : Mask) (f : Nat → Word) :
    (y.setPc m f).posted = y.posted := rfl
@[simp] theorem Group.setPc_lastCap (y : Group) (m : Mask) (f : Nat → Word) :
    (y.setPc m f).lastCap = y.lastCap := rfl
@[simp] theorem Group.setPc_cancelTaken (y : Group) (m : Mask) (f : Nat → Word) :
    (y.setPc m f).cancelTaken = y.cancelTaken := rfl
@[simp] theorem Group.setPc_ended (y : Group) (m : Mask) (f : Nat → Word) :
    (y.setPc m f).ended = y.ended := rfl
@[simp] theorem Group.setPc_phases (y : Group) (m : Mask) (f : Nat → Word) :
    (y.setPc m f).phases = y.phases := rfl
@[simp] theorem Group.setPc_seq (y : Group) (m : Mask) (f : Nat → Word) :
    (y.setPc m f).seq = y.seq := rfl
@[simp] theorem Group.setPc_quadrant (y : Group) (m : Mask) (f : Nat → Word) :
    (y.setPc m f).quadrant = y.quadrant := rfl
@[simp] theorem Group.setPc_active (y : Group) (m : Mask) (f : Nat → Word) :
    (y.setPc m f).active = y.active := rfl
@[simp] theorem Group.setPc_activeAt (y : Group) (m : Mask) (f : Nat → Word) :
    (y.setPc m f).activeAt = y.activeAt := rfl
@[simp] theorem Group.setPc_bornAt (y : Group) (m : Mask) (f : Nat → Word) :
    (y.setPc m f).bornAt = y.bornAt := rfl
@[simp] theorem Group.setPc_parkedAt (y : Group) (m : Mask) (f : Nat → Word) :
    (y.setPc m f).parkedAt = y.parkedAt := rfl

/-! ### Group.setLf -/

@[simp] theorem Group.setLf_v (y : Group) (m : Mask) (f : Nat → Word32) :
    (y.setLf m f).v = y.v := rfl
@[simp] theorem Group.setLf_u (y : Group) (m : Mask) (f : Nat → Word32) :
    (y.setLf m f).u = y.u := rfl
@[simp] theorem Group.setLf_p (y : Group) (m : Mask) (f : Nat → Word32) :
    (y.setLf m f).p = y.p := rfl
@[simp] theorem Group.setLf_pc (y : Group) (m : Mask) (f : Nat → Word32) :
    (y.setLf m f).pc = y.pc := rfl
@[simp] theorem Group.setLf_live (y : Group) (m : Mask) (f : Nat → Word32) :
    (y.setLf m f).live = y.live := rfl
@[simp] theorem Group.setLf_yielded (y : Group) (m : Mask) (f : Nat → Word32) :
    (y.setLf m f).yielded = y.yielded := rfl
@[simp] theorem Group.setLf_smode (y : Group) (m : Mask) (f : Nat → Word32) :
    (y.setLf m f).smode = y.smode := rfl
@[simp] theorem Group.setLf_flags (y : Group) (m : Mask) (f : Nat → Word32) :
    (y.setLf m f).flags = y.flags := rfl
@[simp] theorem Group.setLf_flagen (y : Group) (m : Mask) (f : Nat → Word32) :
    (y.setLf m f).flagen = y.flagen := rfl
@[simp] theorem Group.setLf_cause (y : Group) (m : Mask) (f : Nat → Word32) :
    (y.setLf m f).cause = y.cause := rfl
@[simp] theorem Group.setLf_detail0 (y : Group) (m : Mask) (f : Nat → Word32) :
    (y.setLf m f).detail0 = y.detail0 := rfl
@[simp] theorem Group.setLf_detail1 (y : Group) (m : Mask) (f : Nat → Word32) :
    (y.setLf m f).detail1 = y.detail1 := rfl
@[simp] theorem Group.setLf_detail2 (y : Group) (m : Mask) (f : Nat → Word32) :
    (y.setLf m f).detail2 = y.detail2 := rfl
@[simp] theorem Group.setLf_epc (y : Group) (m : Mask) (f : Nat → Word32) :
    (y.setLf m f).epc = y.epc := rfl
@[simp] theorem Group.setLf_emask (y : Group) (m : Mask) (f : Nat → Word32) :
    (y.setLf m f).emask = y.emask := rfl
@[simp] theorem Group.setLf_handler (y : Group) (m : Mask) (f : Nat → Word32) :
    (y.setLf m f).handler = y.handler := rfl
@[simp] theorem Group.setLf_frame (y : Group) (m : Mask) (f : Nat → Word32) :
    (y.setLf m f).frame = y.frame := rfl
@[simp] theorem Group.setLf_caprec (y : Group) (m : Mask) (f : Nat → Word32) :
    (y.setLf m f).caprec = y.caprec := rfl
@[simp] theorem Group.setLf_hscr0 (y : Group) (m : Mask) (f : Nat → Word32) :
    (y.setLf m f).hscr0 = y.hscr0 := rfl
@[simp] theorem Group.setLf_hscr1 (y : Group) (m : Mask) (f : Nat → Word32) :
    (y.setLf m f).hscr1 = y.hscr1 := rfl
@[simp] theorem Group.setLf_hscr2 (y : Group) (m : Mask) (f : Nat → Word32) :
    (y.setLf m f).hscr2 = y.hscr2 := rfl
@[simp] theorem Group.setLf_hscr3 (y : Group) (m : Mask) (f : Nat → Word32) :
    (y.setLf m f).hscr3 = y.hscr3 := rfl
@[simp] theorem Group.setLf_level (y : Group) (m : Mask) (f : Nat → Word32) :
    (y.setLf m f).level = y.level := rfl
@[simp] theorem Group.setLf_pendV (y : Group) (m : Mask) (f : Nat → Word32) :
    (y.setLf m f).pendV = y.pendV := rfl
@[simp] theorem Group.setLf_pendS (y : Group) (m : Mask) (f : Nat → Word32) :
    (y.setLf m f).pendS = y.pendS := rfl
@[simp] theorem Group.setLf_pendP (y : Group) (m : Mask) (f : Nat → Word32) :
    (y.setLf m f).pendP = y.pendP := rfl
@[simp] theorem Group.setLf_queues (y : Group) (m : Mask) (f : Nat → Word32) :
    (y.setLf m f).queues = y.queues := rfl
@[simp] theorem Group.setLf_outs (y : Group) (m : Mask) (f : Nat → Word32) :
    (y.setLf m f).outs = y.outs := rfl
@[simp] theorem Group.setLf_loads (y : Group) (m : Mask) (f : Nat → Word32) :
    (y.setLf m f).loads = y.loads := rfl
@[simp] theorem Group.setLf_ready (y : Group) (m : Mask) (f : Nat → Word32) :
    (y.setLf m f).ready = y.ready := rfl
@[simp] theorem Group.setLf_record0 (y : Group) (m : Mask) (f : Nat → Word32) :
    (y.setLf m f).record0 = y.record0 := rfl
@[simp] theorem Group.setLf_park (y : Group) (m : Mask) (f : Nat → Word32) :
    (y.setLf m f).park = y.park := rfl
@[simp] theorem Group.setLf_more (y : Group) (m : Mask) (f : Nat → Word32) :
    (y.setLf m f).more = y.more := rfl
@[simp] theorem Group.setLf_switchDue (y : Group) (m : Mask) (f : Nat → Word32) :
    (y.setLf m f).switchDue = y.switchDue := rfl
@[simp] theorem Group.setLf_twinBad (y : Group) (m : Mask) (f : Nat → Word32) :
    (y.setLf m f).twinBad = y.twinBad := rfl
@[simp] theorem Group.setLf_kept (y : Group) (m : Mask) (f : Nat → Word32) :
    (y.setLf m f).kept = y.kept := rfl
@[simp] theorem Group.setLf_keptMore (y : Group) (m : Mask) (f : Nat → Word32) :
    (y.setLf m f).keptMore = y.keptMore := rfl
@[simp] theorem Group.setLf_keptSwitch (y : Group) (m : Mask) (f : Nat → Word32) :
    (y.setLf m f).keptSwitch = y.keptSwitch := rfl
@[simp] theorem Group.setLf_trapPend (y : Group) (m : Mask) (f : Nat → Word32) :
    (y.setLf m f).trapPend = y.trapPend := rfl
@[simp] theorem Group.setLf_waitOk (y : Group) (m : Mask) (f : Nat → Word32) :
    (y.setLf m f).waitOk = y.waitOk := rfl
@[simp] theorem Group.setLf_cap (y : Group) (m : Mask) (f : Nat → Word32) :
    (y.setLf m f).cap = y.cap := rfl
@[simp] theorem Group.setLf_posted (y : Group) (m : Mask) (f : Nat → Word32) :
    (y.setLf m f).posted = y.posted := rfl
@[simp] theorem Group.setLf_lastCap (y : Group) (m : Mask) (f : Nat → Word32) :
    (y.setLf m f).lastCap = y.lastCap := rfl
@[simp] theorem Group.setLf_cancelTaken (y : Group) (m : Mask) (f : Nat → Word32) :
    (y.setLf m f).cancelTaken = y.cancelTaken := rfl
@[simp] theorem Group.setLf_ended (y : Group) (m : Mask) (f : Nat → Word32) :
    (y.setLf m f).ended = y.ended := rfl
@[simp] theorem Group.setLf_phases (y : Group) (m : Mask) (f : Nat → Word32) :
    (y.setLf m f).phases = y.phases := rfl
@[simp] theorem Group.setLf_seq (y : Group) (m : Mask) (f : Nat → Word32) :
    (y.setLf m f).seq = y.seq := rfl
@[simp] theorem Group.setLf_quadrant (y : Group) (m : Mask) (f : Nat → Word32) :
    (y.setLf m f).quadrant = y.quadrant := rfl
@[simp] theorem Group.setLf_active (y : Group) (m : Mask) (f : Nat → Word32) :
    (y.setLf m f).active = y.active := rfl
@[simp] theorem Group.setLf_activeAt (y : Group) (m : Mask) (f : Nat → Word32) :
    (y.setLf m f).activeAt = y.activeAt := rfl
@[simp] theorem Group.setLf_bornAt (y : Group) (m : Mask) (f : Nat → Word32) :
    (y.setLf m f).bornAt = y.bornAt := rfl
@[simp] theorem Group.setLf_parkedAt (y : Group) (m : Mask) (f : Nat → Word32) :
    (y.setLf m f).parkedAt = y.parkedAt := rfl

/-! ### Group.setPending -/

@[simp] theorem Group.setPending_v (y : Group) (f : RegFile) (r : Nat) (on : Bool) :
    (y.setPending f r on).v = y.v := by
  cases f <;> first | rfl | (unfold Group.setPending; simp only; split <;> rfl)
@[simp] theorem Group.setPending_u (y : Group) (f : RegFile) (r : Nat) (on : Bool) :
    (y.setPending f r on).u = y.u := by
  cases f <;> first | rfl | (unfold Group.setPending; simp only; split <;> rfl)
@[simp] theorem Group.setPending_p (y : Group) (f : RegFile) (r : Nat) (on : Bool) :
    (y.setPending f r on).p = y.p := by
  cases f <;> first | rfl | (unfold Group.setPending; simp only; split <;> rfl)
@[simp] theorem Group.setPending_pc (y : Group) (f : RegFile) (r : Nat) (on : Bool) :
    (y.setPending f r on).pc = y.pc := by
  cases f <;> first | rfl | (unfold Group.setPending; simp only; split <;> rfl)
@[simp] theorem Group.setPending_live (y : Group) (f : RegFile) (r : Nat) (on : Bool) :
    (y.setPending f r on).live = y.live := by
  cases f <;> first | rfl | (unfold Group.setPending; simp only; split <;> rfl)
@[simp] theorem Group.setPending_yielded (y : Group) (f : RegFile) (r : Nat) (on : Bool) :
    (y.setPending f r on).yielded = y.yielded := by
  cases f <;> first | rfl | (unfold Group.setPending; simp only; split <;> rfl)
@[simp] theorem Group.setPending_lfsr (y : Group) (f : RegFile) (r : Nat) (on : Bool) :
    (y.setPending f r on).lfsr = y.lfsr := by
  cases f <;> first | rfl | (unfold Group.setPending; simp only; split <;> rfl)
@[simp] theorem Group.setPending_smode (y : Group) (f : RegFile) (r : Nat) (on : Bool) :
    (y.setPending f r on).smode = y.smode := by
  cases f <;> first | rfl | (unfold Group.setPending; simp only; split <;> rfl)
@[simp] theorem Group.setPending_flags (y : Group) (f : RegFile) (r : Nat) (on : Bool) :
    (y.setPending f r on).flags = y.flags := by
  cases f <;> first | rfl | (unfold Group.setPending; simp only; split <;> rfl)
@[simp] theorem Group.setPending_flagen (y : Group) (f : RegFile) (r : Nat) (on : Bool) :
    (y.setPending f r on).flagen = y.flagen := by
  cases f <;> first | rfl | (unfold Group.setPending; simp only; split <;> rfl)
@[simp] theorem Group.setPending_cause (y : Group) (f : RegFile) (r : Nat) (on : Bool) :
    (y.setPending f r on).cause = y.cause := by
  cases f <;> first | rfl | (unfold Group.setPending; simp only; split <;> rfl)
@[simp] theorem Group.setPending_detail0 (y : Group) (f : RegFile) (r : Nat) (on : Bool) :
    (y.setPending f r on).detail0 = y.detail0 := by
  cases f <;> first | rfl | (unfold Group.setPending; simp only; split <;> rfl)
@[simp] theorem Group.setPending_detail1 (y : Group) (f : RegFile) (r : Nat) (on : Bool) :
    (y.setPending f r on).detail1 = y.detail1 := by
  cases f <;> first | rfl | (unfold Group.setPending; simp only; split <;> rfl)
@[simp] theorem Group.setPending_detail2 (y : Group) (f : RegFile) (r : Nat) (on : Bool) :
    (y.setPending f r on).detail2 = y.detail2 := by
  cases f <;> first | rfl | (unfold Group.setPending; simp only; split <;> rfl)
@[simp] theorem Group.setPending_epc (y : Group) (f : RegFile) (r : Nat) (on : Bool) :
    (y.setPending f r on).epc = y.epc := by
  cases f <;> first | rfl | (unfold Group.setPending; simp only; split <;> rfl)
@[simp] theorem Group.setPending_emask (y : Group) (f : RegFile) (r : Nat) (on : Bool) :
    (y.setPending f r on).emask = y.emask := by
  cases f <;> first | rfl | (unfold Group.setPending; simp only; split <;> rfl)
@[simp] theorem Group.setPending_handler (y : Group) (f : RegFile) (r : Nat) (on : Bool) :
    (y.setPending f r on).handler = y.handler := by
  cases f <;> first | rfl | (unfold Group.setPending; simp only; split <;> rfl)
@[simp] theorem Group.setPending_frame (y : Group) (f : RegFile) (r : Nat) (on : Bool) :
    (y.setPending f r on).frame = y.frame := by
  cases f <;> first | rfl | (unfold Group.setPending; simp only; split <;> rfl)
@[simp] theorem Group.setPending_caprec (y : Group) (f : RegFile) (r : Nat) (on : Bool) :
    (y.setPending f r on).caprec = y.caprec := by
  cases f <;> first | rfl | (unfold Group.setPending; simp only; split <;> rfl)
@[simp] theorem Group.setPending_hscr0 (y : Group) (f : RegFile) (r : Nat) (on : Bool) :
    (y.setPending f r on).hscr0 = y.hscr0 := by
  cases f <;> first | rfl | (unfold Group.setPending; simp only; split <;> rfl)
@[simp] theorem Group.setPending_hscr1 (y : Group) (f : RegFile) (r : Nat) (on : Bool) :
    (y.setPending f r on).hscr1 = y.hscr1 := by
  cases f <;> first | rfl | (unfold Group.setPending; simp only; split <;> rfl)
@[simp] theorem Group.setPending_hscr2 (y : Group) (f : RegFile) (r : Nat) (on : Bool) :
    (y.setPending f r on).hscr2 = y.hscr2 := by
  cases f <;> first | rfl | (unfold Group.setPending; simp only; split <;> rfl)
@[simp] theorem Group.setPending_hscr3 (y : Group) (f : RegFile) (r : Nat) (on : Bool) :
    (y.setPending f r on).hscr3 = y.hscr3 := by
  cases f <;> first | rfl | (unfold Group.setPending; simp only; split <;> rfl)
@[simp] theorem Group.setPending_level (y : Group) (f : RegFile) (r : Nat) (on : Bool) :
    (y.setPending f r on).level = y.level := by
  cases f <;> first | rfl | (unfold Group.setPending; simp only; split <;> rfl)
@[simp] theorem Group.setPending_queues (y : Group) (f : RegFile) (r : Nat) (on : Bool) :
    (y.setPending f r on).queues = y.queues := by
  cases f <;> first | rfl | (unfold Group.setPending; simp only; split <;> rfl)
@[simp] theorem Group.setPending_outs (y : Group) (f : RegFile) (r : Nat) (on : Bool) :
    (y.setPending f r on).outs = y.outs := by
  cases f <;> first | rfl | (unfold Group.setPending; simp only; split <;> rfl)
@[simp] theorem Group.setPending_loads (y : Group) (f : RegFile) (r : Nat) (on : Bool) :
    (y.setPending f r on).loads = y.loads := by
  cases f <;> first | rfl | (unfold Group.setPending; simp only; split <;> rfl)
@[simp] theorem Group.setPending_ready (y : Group) (f : RegFile) (r : Nat) (on : Bool) :
    (y.setPending f r on).ready = y.ready := by
  cases f <;> first | rfl | (unfold Group.setPending; simp only; split <;> rfl)
@[simp] theorem Group.setPending_record0 (y : Group) (f : RegFile) (r : Nat) (on : Bool) :
    (y.setPending f r on).record0 = y.record0 := by
  cases f <;> first | rfl | (unfold Group.setPending; simp only; split <;> rfl)
@[simp] theorem Group.setPending_park (y : Group) (f : RegFile) (r : Nat) (on : Bool) :
    (y.setPending f r on).park = y.park := by
  cases f <;> first | rfl | (unfold Group.setPending; simp only; split <;> rfl)
@[simp] theorem Group.setPending_more (y : Group) (f : RegFile) (r : Nat) (on : Bool) :
    (y.setPending f r on).more = y.more := by
  cases f <;> first | rfl | (unfold Group.setPending; simp only; split <;> rfl)
@[simp] theorem Group.setPending_switchDue (y : Group) (f : RegFile) (r : Nat) (on : Bool) :
    (y.setPending f r on).switchDue = y.switchDue := by
  cases f <;> first | rfl | (unfold Group.setPending; simp only; split <;> rfl)
@[simp] theorem Group.setPending_twinBad (y : Group) (f : RegFile) (r : Nat) (on : Bool) :
    (y.setPending f r on).twinBad = y.twinBad := by
  cases f <;> first | rfl | (unfold Group.setPending; simp only; split <;> rfl)
@[simp] theorem Group.setPending_kept (y : Group) (f : RegFile) (r : Nat) (on : Bool) :
    (y.setPending f r on).kept = y.kept := by
  cases f <;> first | rfl | (unfold Group.setPending; simp only; split <;> rfl)
@[simp] theorem Group.setPending_keptMore (y : Group) (f : RegFile) (r : Nat) (on : Bool) :
    (y.setPending f r on).keptMore = y.keptMore := by
  cases f <;> first | rfl | (unfold Group.setPending; simp only; split <;> rfl)
@[simp] theorem Group.setPending_keptSwitch (y : Group) (f : RegFile) (r : Nat) (on : Bool) :
    (y.setPending f r on).keptSwitch = y.keptSwitch := by
  cases f <;> first | rfl | (unfold Group.setPending; simp only; split <;> rfl)
@[simp] theorem Group.setPending_trapPend (y : Group) (f : RegFile) (r : Nat) (on : Bool) :
    (y.setPending f r on).trapPend = y.trapPend := by
  cases f <;> first | rfl | (unfold Group.setPending; simp only; split <;> rfl)
@[simp] theorem Group.setPending_waitOk (y : Group) (f : RegFile) (r : Nat) (on : Bool) :
    (y.setPending f r on).waitOk = y.waitOk := by
  cases f <;> first | rfl | (unfold Group.setPending; simp only; split <;> rfl)
@[simp] theorem Group.setPending_cap (y : Group) (f : RegFile) (r : Nat) (on : Bool) :
    (y.setPending f r on).cap = y.cap := by
  cases f <;> first | rfl | (unfold Group.setPending; simp only; split <;> rfl)
@[simp] theorem Group.setPending_posted (y : Group) (f : RegFile) (r : Nat) (on : Bool) :
    (y.setPending f r on).posted = y.posted := by
  cases f <;> first | rfl | (unfold Group.setPending; simp only; split <;> rfl)
@[simp] theorem Group.setPending_lastCap (y : Group) (f : RegFile) (r : Nat) (on : Bool) :
    (y.setPending f r on).lastCap = y.lastCap := by
  cases f <;> first | rfl | (unfold Group.setPending; simp only; split <;> rfl)
@[simp] theorem Group.setPending_cancelTaken (y : Group) (f : RegFile) (r : Nat) (on : Bool) :
    (y.setPending f r on).cancelTaken = y.cancelTaken := by
  cases f <;> first | rfl | (unfold Group.setPending; simp only; split <;> rfl)
@[simp] theorem Group.setPending_ended (y : Group) (f : RegFile) (r : Nat) (on : Bool) :
    (y.setPending f r on).ended = y.ended := by
  cases f <;> first | rfl | (unfold Group.setPending; simp only; split <;> rfl)
@[simp] theorem Group.setPending_phases (y : Group) (f : RegFile) (r : Nat) (on : Bool) :
    (y.setPending f r on).phases = y.phases := by
  cases f <;> first | rfl | (unfold Group.setPending; simp only; split <;> rfl)
@[simp] theorem Group.setPending_seq (y : Group) (f : RegFile) (r : Nat) (on : Bool) :
    (y.setPending f r on).seq = y.seq := by
  cases f <;> first | rfl | (unfold Group.setPending; simp only; split <;> rfl)
@[simp] theorem Group.setPending_quadrant (y : Group) (f : RegFile) (r : Nat) (on : Bool) :
    (y.setPending f r on).quadrant = y.quadrant := by
  cases f <;> first | rfl | (unfold Group.setPending; simp only; split <;> rfl)
@[simp] theorem Group.setPending_active (y : Group) (f : RegFile) (r : Nat) (on : Bool) :
    (y.setPending f r on).active = y.active := by
  cases f <;> first | rfl | (unfold Group.setPending; simp only; split <;> rfl)
@[simp] theorem Group.setPending_activeAt (y : Group) (f : RegFile) (r : Nat) (on : Bool) :
    (y.setPending f r on).activeAt = y.activeAt := by
  cases f <;> first | rfl | (unfold Group.setPending; simp only; split <;> rfl)
@[simp] theorem Group.setPending_bornAt (y : Group) (f : RegFile) (r : Nat) (on : Bool) :
    (y.setPending f r on).bornAt = y.bornAt := by
  cases f <;> first | rfl | (unfold Group.setPending; simp only; split <;> rfl)
@[simp] theorem Group.setPending_parkedAt (y : Group) (f : RegFile) (r : Nat) (on : Bool) :
    (y.setPending f r on).parkedAt = y.parkedAt := by
  cases f <;> first | rfl | (unfold Group.setPending; simp only; split <;> rfl)

end Sys2Proof.Machine
end

