-- ==== Sys2Proof/Laws/Objects.lean ====
section
/-!
SUPPORT. Reading an object of the state back after it, or another one, has been changed.
-/

namespace Sys2Proof.Machine

/-! ### Blocks and groups -/

@[simp] theorem blk_setBlk_same (s : State) (b : Nat) (x : Block) : (s.setBlk b x).blk b = x := by
  simp [State.setBlk, State.blk]

theorem blk_setBlk_ne (s : State) {b c : Nat} (x : Block) (h : c ≠ b) : (s.setBlk b x).blk c = s.blk c := by
  simp [State.setBlk, State.blk, oget_oset_ne _ x h]

@[simp] theorem grp_setGrp_same (x : Block) (g : Nat) (y : Group) : (x.setGrp g y).grp g = y := by
  simp [Block.setGrp, Block.grp]

theorem grp_setGrp_ne (x : Block) {g k : Nat} (y : Group) (h : k ≠ g) : (x.setGrp g y).grp k = x.grp k := by
  simp [Block.setGrp, Block.grp, oget_oset_ne _ y h]

@[simp] theorem blk_setGrp (s : State) (b g : Nat) (y : Group) : (s.setGrp b g y).blk b = (s.blk b).setGrp g y := by
  simp [State.setGrp]

@[simp] theorem State.grp_setGrp (s : State) (b g : Nat) (y : Group) : (s.setGrp b g y).grp b g = y := by
  simp [State.grp]

theorem setBlk_setBlk (s : State) (b : Nat) (x z : Block) : (s.setBlk b x).setBlk b z = s.setBlk b z := by
  simp [State.setBlk, oset_oset]

/-- The later of two changes of one group stands. -/
theorem setGrp_setGrp (s : State) (b g : Nat) (y z : Group) : (s.setGrp b g y).setGrp b g z = s.setGrp b g z := by
  simp [State.setGrp, setBlk_setBlk, Block.setGrp, oset_oset]

/-- A block that there is, changed. -/
theorem updBlk_of {s : State} {b : Nat} (hb : (oget s.blocks b).isSome = true) (f : Block → Block) :
    s.updBlk b f = s.setBlk b (f (s.blk b)) := by
  obtain ⟨x, hx⟩ := Option.isSome_iff_exists.1 hb
  simp [State.updBlk, State.blk, hx]

/-- A group that there is, changed. -/
theorem updGrp_of {s : State} {b g : Nat} (hb : (oget s.blocks b).isSome = true)
    (hg : (oget (s.blk b).groups g).isSome = true) (f : Group → Group) :
    s.updGrp b g f = s.setGrp b g (f (s.grp b g)) := by
  obtain ⟨y, hy⟩ := Option.isSome_iff_exists.1 hg
  simp [State.updGrp, updBlk_of hb, hy, State.setGrp, State.grp, Block.grp]

theorem updGrp_setGrp (s : State) (b g : Nat) (y : Group) (f : Group → Group) :
    (s.setGrp b g y).updGrp b g f = s.setGrp b g (f y) := by
  rw [updGrp_of (by simp [State.setGrp, State.setBlk]) (by simp [Block.setGrp]), State.grp_setGrp, setGrp_setGrp]

/-- A change of one group leaves every other block. -/
theorem oget_blocks_setGrp_ne (s : State) {b c : Nat} (g : Nat) (y : Group) (h : c ≠ b) :
    oget (s.setGrp b g y).blocks c = oget s.blocks c := by
  simp [State.setGrp, State.setBlk, oget_oset_ne _ _ h]

/-! ### Grids, commands, cores, queues and dies -/

@[simp] theorem grid_setGrid_same (s : State) (n : Nat) (x : Grid) : (s.setGrid n x).grid n = x := by
  simp [State.setGrid, State.grid]

theorem grid_setGrid_ne (s : State) {n k : Nat} (x : Grid) (h : k ≠ n) : (s.setGrid n x).grid k = s.grid k := by
  simp [State.setGrid, State.grid, oget_oset_ne _ x h]

theorem updGrid_of {s : State} {n : Nat} (h : (oget s.grids n).isSome = true) (f : Grid → Grid) :
    s.updGrid n f = s.setGrid n (f (s.grid n)) := by
  obtain ⟨x, hx⟩ := Option.isSome_iff_exists.1 h
  simp [State.updGrid, State.grid, hx]

@[simp] theorem core_updCore_same (s : State) (k : Nat) (f : Core → Core) : (s.updCore k f).core k = f (s.core k) := by
  simp [State.updCore, State.core]

theorem core_updCore_ne (s : State) {k j : Nat} (f : Core → Core) (h : j ≠ k) : (s.updCore k f).core j = s.core j := by
  simp [State.updCore, State.core, oget_oset_ne _ _ h]

@[simp] theorem queue_updQueue_same (s : State) (q : Nat) (f : Queue → Queue) :
    (s.updQueue q f).queue q = f (s.queue q) := by
  simp [State.updQueue, State.queue]

theorem queue_updQueue_ne (s : State) {q j : Nat} (f : Queue → Queue) (h : j ≠ q) :
    (s.updQueue q f).queue j = s.queue j := by
  simp [State.updQueue, State.queue, oget_oset_ne _ _ h]

/-- There are two dies, and every number but 0 names the second. -/
theorem die_updDie (s : State) (d e : Nat) (f : Die → Die) :
    (s.updDie d f).die e = if (e = 0 ↔ d = 0) then f (s.die e) else s.die e := by
  by_cases hd : d = 0 <;> by_cases he : e = 0 <;> simp [State.updDie, State.die, hd, he]

end Sys2Proof.Machine
end

