-- ==== Sys2Proof/Laws/Registers.lean ====
section
/-!
SUPPORT. Reading a register, predicate, LFSR or lane PC of a group after a write of it or of another.
-/

namespace Sys2Proof.Machine

theorem mem_lanesOf (m : Mask) (L : Nat) : L ∈ lanesOf m ↔ L < 32 ∧ m.getLsbD L = true := by
  simp [lanesOf]

theorem nodup_lanesOf (m : Mask) : (lanesOf m).Nodup := by
  unfold lanesOf; exact List.Pairwise.filter _ List.nodup_range

/-- A map written lane by lane. -/
theorem sget_foldl_lanes {α : Type} [DecidableEq α] (d : α) (f : Nat → α) (l : List Nat) (hn : l.Nodup) (v : SMap α)
    (L : Nat) : sget d (l.foldl (fun v L => sset d v L (f L)) v) L = if L ∈ l then f L else sget d v L := by
  induction l generalizing v with
  | nil => simp
  | cons x t ih =>
    rw [List.foldl_cons, ih (by simp_all)]
    by_cases e2 : L = x
    · subst e2; simp_all
    · simp [e2, sget_sset_ne]

/-- vR after a write of lanes of vD: the written lanes of vD, and nothing else (R149). -/
theorem rv_wv (y : Group) (r L d : Nat) (m : Mask) (f : Nat → Word) (hL : L < 32) :
    (y.wv d m f).rv r L = if r = d ∧ m.getLsbD L then f L else y.rv r L := by
  unfold Group.wv Group.rv setLanes
  simp only
  have key : ∀ (l : List Nat) (v : SMap Word), l.Nodup → (∀ x ∈ l, x < 32) →
      sget 0 (l.foldl (fun v L => sset 0 v (32 * d + L) (f L)) v) (32 * r + L)
        = if r = d ∧ L ∈ l then f L else sget 0 v (32 * r + L) := by
    intro l
    induction l with
    | nil => intro v _ _; simp
    | cons x t ih =>
      intro v hn hx
      have hx0 := hx x (by simp)
      rw [List.foldl_cons, ih _ (by simp_all) (by intro z hz; exact hx z (by simp [hz]))]
      by_cases e : r = d
      · subst e
        by_cases e2 : L = x
        · subst e2; simp_all
        · simp [e2, sget_sset_ne]
      · have : 32 * r + L ≠ 32 * d + x := by omega
        simp [e, sget_sset_ne, this]
  rw [key _ _ (nodup_lanesOf m) (by intro x hx; exact ((mem_lanesOf m x).1 hx).1)]
  simp [mem_lanesOf, hL]

/-- sR after a write of sD (R150). -/
theorem rs_ws (y : Group) (r d : Nat) (x : Word) : (y.ws d x).rs r = if r = d then x else y.rs r := by
  simp [Group.ws, Group.rs, sget_sset]

/-- pN after a write of lanes of pM; p127 keeps reading as true (R14). -/
theorem rp_wp (y : Group) (n k : Nat) (m x : Mask) :
    (y.wp k m x).rp n = if n = k ∧ k ≠ 127 then (y.rp n &&& ~~~m) ||| (x &&& m) else y.rp n := by
  unfold Group.wp Group.rp
  by_cases hk : k = 127
  · simp [hk]
  · by_cases hn : n = k
    · subst hn; simp [hk]
    · by_cases h7 : n = 127
      · simp [h7, Ne.symm hk]
      · simp [hk, hn, h7, sget_sset_ne]

/-- The PC of a lane after PCs of lanes are set (R283). -/
theorem lanePc_setPc (y : Group) (L : Nat) (m : Mask) (f : Nat → Word) (hL : L < 32) :
    (y.setPc m f).lanePc L = if m.getLsbD L then f L else y.lanePc L := by
  unfold Group.setPc Group.lanePc
  simp only
  rw [sget_foldl_lanes 0 f _ (nodup_lanesOf m)]
  simp [mem_lanesOf, hL]

/-- The LFSR of a lane after LFSRs of lanes are set (R47). -/
theorem lf_setLf (y : Group) (L : Nat) (m : Mask) (f : Nat → Word32) (hL : L < 32) :
    (y.setLf m f).lf L = if m.getLsbD L then f L else y.lf L := by
  unfold Group.setLf Group.lf
  simp only
  rw [sget_foldl_lanes 0 f _ (nodup_lanesOf m)]
  simp [mem_lanesOf, hL]

/-- A write of one kind of register leaves the others. -/
@[simp] theorem rs_wv (y : Group) (r d : Nat) (m : Mask) (f : Nat → Word) : (y.wv d m f).rs r = y.rs r := rfl
@[simp] theorem rp_wv (y : Group) (n d : Nat) (m : Mask) (f : Nat → Word) : (y.wv d m f).rp n = y.rp n := rfl
@[simp] theorem rv_ws (y : Group) (r L d : Nat) (x : Word) : (y.ws d x).rv r L = y.rv r L := rfl
@[simp] theorem rp_ws (y : Group) (n d : Nat) (x : Word) : (y.ws d x).rp n = y.rp n := rfl
@[simp] theorem rv_wp (y : Group) (r L n : Nat) (m x : Mask) : (y.wp n m x).rv r L = y.rv r L := by
  simp [Group.rv]
@[simp] theorem rs_wp (y : Group) (r n : Nat) (m x : Mask) : (y.wp n m x).rs r = y.rs r := by
  simp [Group.rs]
@[simp] theorem rv_setPc (y : Group) (r L : Nat) (m : Mask) (f : Nat → Word) : (y.setPc m f).rv r L = y.rv r L := rfl
@[simp] theorem rs_setPc (y : Group) (r : Nat) (m : Mask) (f : Nat → Word) : (y.setPc m f).rs r = y.rs r := rfl
@[simp] theorem rp_setPc (y : Group) (n : Nat) (m : Mask) (f : Nat → Word) : (y.setPc m f).rp n = y.rp n := rfl
@[simp] theorem lf_setPc (y : Group) (L : Nat) (m : Mask) (f : Nat → Word) : (y.setPc m f).lf L = y.lf L := rfl
@[simp] theorem lf_wv (y : Group) (L d : Nat) (m : Mask) (f : Nat → Word) : (y.wv d m f).lf L = y.lf L := rfl
@[simp] theorem lanePc_wv (y : Group) (L d : Nat) (m : Mask) (f : Nat → Word) : (y.wv d m f).lanePc L = y.lanePc L := rfl
@[simp] theorem lanePc_ws (y : Group) (L d : Nat) (x : Word) : (y.ws d x).lanePc L = y.lanePc L := rfl
@[simp] theorem lf_ws (y : Group) (L d : Nat) (x : Word) : (y.ws d x).lf L = y.lf L := rfl
@[simp] theorem lanePc_wp (y : Group) (L n : Nat) (m x : Mask) : (y.wp n m x).lanePc L = y.lanePc L := by
  simp [Group.lanePc]
@[simp] theorem lf_wp (y : Group) (L n : Nat) (m x : Mask) : (y.wp n m x).lf L = y.lf L := by
  simp [Group.lf]
@[simp] theorem rv_setLf (y : Group) (r L : Nat) (m : Mask) (f : Nat → Word32) : (y.setLf m f).rv r L = y.rv r L := rfl
@[simp] theorem rs_setLf (y : Group) (r : Nat) (m : Mask) (f : Nat → Word32) : (y.setLf m f).rs r = y.rs r := rfl
@[simp] theorem rp_setLf (y : Group) (n : Nat) (m : Mask) (f : Nat → Word32) : (y.setLf m f).rp n = y.rp n := rfl
@[simp] theorem lanePc_setLf (y : Group) (L : Nat) (m : Mask) (f : Nat → Word32) :
    (y.setLf m f).lanePc L = y.lanePc L := rfl

end Sys2Proof.Machine
end

