-- ==== Sys2Proof/Laws/Issue.lean ====
section
/-!
SUPPORT. What the issue of a word can do, and the words that write registers of their group and nothing else.
-/

namespace Sys2Proof.Machine

/-! ### The issue of a word -/

/-- A word at issue either takes the trap of its checks or has its effect; without a word at issue there is a fault. -/
theorem issueWord_cases (i : Instr) (s : State) (f : Issue → State → State) :
    (s.cur = none ∧ issueWord i s f = .fault .notAtIssue)
    ∨ ∃ c, s.cur = some c ∧
      ((∃ t, wordTrap i (issueOf i c s) s = some t ∧ issueWord i s f = .next ((issueOf i c s).trap s t))
      ∨ (wordTrap i (issueOf i c s) s = none
        ∧ issueWord i s f = .next (f (issueOf i c s) (s.advance (issueOf i c s))).markDone)) := by
  unfold issueWord
  cases h : s.cur with
  | none => exact .inl ⟨rfl, rfl⟩
  | some c =>
    refine .inr ⟨c, rfl, ?_⟩
    cases ht : wordTrap i (issueOf i c s) s with
    | none => exact .inr ⟨rfl, by simp [ht]⟩
    | some t => exact .inl ⟨t, rfl, by simp [ht]⟩

/-- A word at issue answers a next state. -/
theorem issueWord_completes {i : Instr} {s : State} {c : IssueCtx} (f : Issue → State → State) (h : s.cur = some c) :
    completes (issueWord i s f) := by
  rcases issueWord_cases i s f with ⟨h0, _⟩ | ⟨c', _, ⟨t, _, e⟩ | ⟨_, e⟩⟩
  · simp [h] at h0
  · exact ⟨_, e⟩
  · exact ⟨_, e⟩

/-- A permitted word passes the checks. -/
theorem wordTrap_none {i : Instr} {c : IssueCtx} {s : State} (h : AtIssue i c s) :
    wordTrap i (issueOf i c s) s = none := by
  obtain ⟨hc, hr, hb, hg, h1, h2, h3, h4, h5⟩ := h
  unfold wordTrap wordIllegal wordPrivileged
  have e1 : (!i.legal || (s.blk (issueOf i c s).b).job.isSome && jobIllegal i) = false := by
    cases hj : (s.blk (issueOf i c s).b).job.isSome <;> simp_all
  have e2 : (i.privileged && !(issueOf i c s).G.level) = false := by
    cases hp : i.privileged <;> simp_all
  have e3 : wordPending i 7 (issueOf i c s).G = none := by
    unfold wordPending
    rw [List.find?_eq_none]
    intro r hr; simpa using h4 r hr
  simp only [e1, e2, e3]
  simp
  intro a b; exact h5 a b

/-- A permitted word has its effect. -/
theorem issueWord_done {i : Instr} {c : IssueCtx} {s : State} (h : AtIssue i c s) (f : Issue → State → State) :
    issueWord i s f = .next (f (issueOf i c s) (s.advance (issueOf i c s))).markDone := by
  simp [issueWord, h.1, wordTrap_none h]

/-- The head run of a group that there is moves on. -/
theorem advance_of {i : Instr} {c : IssueCtx} {s : State} (h : AtIssue i c s) :
    s.advance (issueOf i c s) = s.setGrp c.blk c.grp ((s.grp c.blk c.grp).setPc c.run fun _ => c.next) := by
  obtain ⟨-, -, hb, hg, -⟩ := h
  exact updGrp_of hb hg _

/-- A word that changes its group and raises flags ends as `wordDone`. -/
theorem raised_done {i : Instr} {c : IssueCtx} {s : State} (h : AtIssue i c s) (y : Group) (fl : Flags) :
    ((issueOf i c s).raise (s.setGrp c.blk c.grp y) fl).markDone
      = wordDone s c { y with flags := y.flags ||| fl } fl := by
  obtain ⟨hc, hr, -⟩ := h
  unfold Issue.raise
  simp only [show (issueOf i c s).b = c.blk from rfl, show (issueOf i c s).g = c.grp from rfl]
  rw [updGrp_setGrp]
  simp [State.markDone, wordDone, State.setGrp, State.setBlk, hc, hr]

/-- Flags raised before the LFSRs of a group step. -/
theorem raised_setLf {i : Instr} {c : IssueCtx} {s : State} (h : AtIssue i c s) (y : Group) (fl : Flags)
    (f : Nat → Word32) :
    State.markDone (State.updGrp
        { s.setGrp c.blk c.grp { y with flags := y.flags ||| fl } with
          cur := (s.setGrp c.blk c.grp { y with flags := y.flags ||| fl }).cur.map fun c => { c with
            raised := c.raised ||| fl } } c.blk c.grp fun y => y.setLf (issueOf i c s).act f)
      = wordDone s c (Group.setLf { y with flags := y.flags ||| fl } (issueOf i c s).act f) fl := by
  obtain ⟨hc, hr, -⟩ := h
  rw [updGrp_of (by simp [State.setGrp, State.setBlk]) (by simp [State.blk, State.setGrp, State.setBlk, Block.setGrp])]
  simp [State.markDone, wordDone, State.setGrp, State.setBlk, hc, hr, oset_oset, Block.setGrp, State.grp, Block.grp,
    State.blk]

/-- A word that changes its group and nothing else. -/
theorem setGrp_done {i : Instr} {c : IssueCtx} {s : State} (h : AtIssue i c s) (y : Group) :
    (s.setGrp c.blk c.grp y).markDone = wordDone s c y 0 := by
  obtain ⟨hc, hr, -⟩ := h
  simp [State.markDone, wordDone, State.setGrp, State.setBlk, hc, hr]

/-- From the group that a word leaves to its `Effects`. -/
theorem effects_of {i : Instr} {c : IssueCtx} {s : State} {W : Written} (h : AtIssue i c s) (y : Group)
    {f : Issue → State → State} (he : Sys2Proof.Machine.exec i s = issueWord i s f)
    (hf : (f (issueOf i c s) (s.advance (issueOf i c s))).markDone = wordDone s c y W.flags)
    (hW : W.Holds c.run c.next (c.group s) y) : Effects i c s W :=
  ⟨y, by rw [he, issueWord_done h, hf], hW, fun _ _ => rfl⟩

/-! ### Words that write one register -/

/-- A word that writes nothing only moves its head run. -/
theorem nothing_effects {i : Instr} {c : IssueCtx} {s : State} (h : AtIssue i c s) {f : Issue → State → State}
    (he : Sys2Proof.Machine.exec i s = issueWord i s f)
    (hf : f (issueOf i c s) (s.advance (issueOf i c s)) = s.advance (issueOf i c s)) :
    Effects i c s Written.nothing := by
  refine effects_of h ((s.grp c.blk c.grp).setPc c.run fun _ => c.next) he ?_ ?_
  · rw [hf, advance_of h, setGrp_done h]; rfl
  · constructor <;> intros <;> first | rfl | simp [Written.nothing]
    rw [lanePc_setPc _ _ _ _ ‹_›]

/-- A word that writes one lane register in its active lanes. -/
theorem lanes_effects {i : Instr} {c : IssueCtx} {s : State} (h : AtIssue i c s) (d : BitVec 5) (g : Nat → Word × Flags)
    {f : Issue → State → State} (he : Sys2Proof.Machine.exec i s = issueWord i s f)
    (hf : f (issueOf i c s) (s.advance (issueOf i c s)) = (issueOf i c s).setV (s.advance (issueOf i c s)) d g) :
    Effects i c s (.lanes d (issueOf i c s).act g) := by
  refine effects_of h _ he (by
    rw [hf, Issue.setV, advance_of h]
    simp only [show (issueOf i c s).b = c.blk from rfl, show (issueOf i c s).g = c.grp from rfl]
    rw [updGrp_setGrp, raised_done h]; rfl) ?_
  constructor
  · rfl
  · intro r L _ hL
    show Group.rv (Group.wv _ _ _ _) r L = _
    rw [rv_wv _ _ _ _ _ _ hL]
    simp only [Written.lanes]
    split <;> rfl
  · intro r; rfl
  · intro n L _; rfl
  · intro L _; rfl
  · rfl
  · intro L hL
    show Group.lanePc (Group.setPc _ _ _) L = _
    rw [lanePc_setPc _ _ _ _ hL]; rfl

/-- A word that writes one uniform register, if any lane is active (R150). -/
theorem uniform_effects {i : Instr} {c : IssueCtx} {s : State} (h : AtIssue i c s) (d : BitVec 5) (r : Word × Flags)
    {f : Issue → State → State} (he : Sys2Proof.Machine.exec i s = issueWord i s f)
    (hf : f (issueOf i c s) (s.advance (issueOf i c s)) = (issueOf i c s).setS (s.advance (issueOf i c s)) d r) :
    Effects i c s (.uniform d (issueOf i c s).act r) := by
  by_cases ha : (issueOf i c s).act = 0
  · simp only [Written.uniform, ha, if_true]
    exact nothing_effects h he (by rw [hf, Issue.setS]; simp [ha])
  · simp only [Written.uniform, ha, if_false]
    refine effects_of h _ he (by
      rw [hf, Issue.setS, if_neg (by simpa using ha), advance_of h]
      simp only [show (issueOf i c s).b = c.blk from rfl, show (issueOf i c s).g = c.grp from rfl]
      rw [updGrp_setGrp, raised_done h]) ?_
    constructor
    · rfl
    · intro r L _ _; rfl
    · intro k
      show Group.rs (Group.ws _ _ _) k = _
      rw [rs_ws]
      simp only
      split <;> rfl
    · intro n L _; rfl
    · intro L _; rfl
    · rfl
    · intro L hL
      show Group.lanePc (Group.setPc _ _ _) L = _
      rw [lanePc_setPc _ _ _ _ hL]; rfl

/-- A word that writes one predicate in its active lanes; p127 takes no write (R14). -/
theorem pred_effects {i : Instr} {c : IssueCtx} {s : State} (h : AtIssue i c s) (n : Nat) (val : Mask)
    {f : Issue → State → State} (he : Sys2Proof.Machine.exec i s = issueWord i s f)
    (hf : f (issueOf i c s) (s.advance (issueOf i c s)) = (issueOf i c s).setP (s.advance (issueOf i c s)) n val) :
    Effects i c s (.pred n (issueOf i c s).act fun L => val.getLsbD L) := by
  refine effects_of h _ he (by
    rw [hf, Issue.setP, advance_of h]
    simp only [show (issueOf i c s).b = c.blk from rfl, show (issueOf i c s).g = c.grp from rfl]
    rw [updGrp_setGrp, setGrp_done h]; rfl) ?_
  constructor
  · unfold Group.wp; split <;> rfl
  · intro r L _ _; rw [rv_wp]; rfl
  · intro r; rw [rs_wp]; rfl
  · intro k L hL
    rw [rp_wp]
    simp only [Written.pred, rp_setPc]
    by_cases h1 : k = n
    · by_cases h2 : n = 127
      · simp [h1, h2]
      · by_cases h3 : (issueOf i c s).act.getLsbD L
        · simp [h1, h2, h3]
        · rw [Bool.not_eq_true] at h3
          simp [h1, h2, h3, hL, BitVec.getLsbD_or, BitVec.getLsbD_and, BitVec.getLsbD_not, -BitVec.getLsbD_eq_getElem]
    · simp [h1]
  · intro L _; rw [lf_wp]; rfl
  · rw [Group.wp_flags]; simp [Written.pred, Written.nothing]
  · intro L hL
    rw [lanePc_wp, lanePc_setPc _ _ _ _ hL]; rfl

/-- A word that writes one lane register, with a rounding that may step the LFSR of its active lanes (R47). -/
theorem float_effects {i : Instr} {c : IssueCtx} {s : State} (h : AtIssue i c s) (d : BitVec 5) (sr : Bool)
    (g : Nat → LaneOut) {f : Issue → State → State} (he : Sys2Proof.Machine.exec i s = issueWord i s f)
    (hf : f (issueOf i c s) (s.advance (issueOf i c s)) = (issueOf i c s).setF (s.advance (issueOf i c s)) d sr g) :
    Effects i c s (.float d (issueOf i c s).act sr g) := by
  cases sr with
  | false =>
    have e := lanes_effects h d (fun L => ((g L).val, (g L).flags)) he (by rw [hf]; rfl)
    have hw : Written.float d (issueOf i c s).act false g
        = Written.lanes d (issueOf i c s).act fun L => ((g L).val, (g L).flags) := by
      simp [Written.float, Written.lanes, Written.nothing]
    rw [hw]; exact e
  | true =>
    refine effects_of h _ he (by
      rw [hf, Issue.setF, Issue.setV, advance_of h]
      simp only [show (issueOf i c s).b = c.blk from rfl, show (issueOf i c s).g = c.grp from rfl, if_true]
      rw [updGrp_setGrp, Issue.raise]
      simp only [show (issueOf i c s).b = c.blk from rfl, show (issueOf i c s).g = c.grp from rfl]
      rw [updGrp_setGrp]
      exact raised_setLf h _ _ _) ?_
    constructor
    · rfl
    · intro r L _ hL
      show Group.rv (Group.wv _ _ _ _) r L = _
      rw [rv_wv _ _ _ _ _ _ hL]
      simp only [Written.float, Written.lanes]
      split <;> rfl
    · intro r; rfl
    · intro n L _; rfl
    · intro L hL
      rw [lf_setLf _ _ _ _ hL]
      simp only [Written.float, true_and]
      split <;> rfl
    · rfl
    · intro L hL
      show Group.lanePc (Group.setPc _ _ _) L = _
      rw [lanePc_setPc _ _ _ _ hL]; rfl

/-! ### Words that trap or do not issue -/

/-- A head run moved to a place. -/
theorem headAt_setPc (c : IssueCtx) (at_ : Word) (y : Group) : HeadAt c at_ y (y.setPc c.run fun _ => at_) where
  rest := rfl
  pcs L hL := by rw [lanePc_setPc _ _ _ _ hL]

/-- A head run moved on and then put back. -/
theorem headAt_setPc_setPc (c : IssueCtx) (b at_ : Word) (y : Group) :
    HeadAt c at_ y ((y.setPc c.run fun _ => b).setPc c.run fun _ => at_) where
  rest := rfl
  pcs L hL := by
    rw [lanePc_setPc _ _ _ _ hL]
    split
    · rfl
    · rename_i h
      rw [lanePc_setPc _ _ _ _ hL, if_neg h]

/-- A word whose meaning stops it parks its group on the word. -/
theorem blocks_of {i : Instr} {c : IssueCtx} {s : State} (h : AtIssue i c s) (r : ParkReason)
    {f : Issue → State → State} (he : Sys2Proof.Machine.exec i s = issueWord i s f)
    (hf : f (issueOf i c s) (s.advance (issueOf i c s)) = (issueOf i c s).block (s.advance (issueOf i c s)) r) :
    Blocks i c s r .reissue := by
  refine ⟨_, ?_, headAt_setPc_setPc c c.next c.pc (c.group s)⟩
  rw [he, issueWord_done h, hf, advance_of h, Issue.block, Issue.blockOn, State.parkOn, State.putBack]
  obtain ⟨hc, hr, -⟩ := h
  simp only [show (issueOf i c s).b = c.blk from rfl, show (issueOf i c s).g = c.grp from rfl]
  rw [updGrp_setGrp, updGrp_setGrp]
  simp [State.mark, State.markDone, hc]
  rfl

/-- A word that its checks stop takes their trap, with its head run on its first word. -/
theorem traps_of {i : Instr} {c : IssueCtx} {s : State} (hc : s.cur = some c) (hb : (oget s.blocks c.blk).isSome = true)
    (hg : (oget (s.blk c.blk).groups c.grp).isSome = true) {t : Trap} (ht : wordTrap i (issueOf i c s) s = some t)
    {f : Issue → State → State} (he : Sys2Proof.Machine.exec i s = issueWord i s f) : Traps i c s t := by
  refine ⟨(s.grp c.blk c.grp).setPc c.run fun _ => c.pc, ?_, headAt_setPc c c.pc (c.group s)⟩
  rw [he, issueWord, hc]
  simp only [ht, Issue.trap, State.putBack]
  rw [show (issueOf i c s).b = c.blk from rfl, show (issueOf i c s).g = c.grp from rfl, updGrp_of hb hg]
  rfl

end Sys2Proof.Machine
end

