-- ==== Sys2Proof/Laws/Memory.lean ====
section
/-!
SUPPORT. What the operations on physical memory can do: each is made of writes of one byte, of writes of one masked
line, and of changes that leave memory alone. A property that these keep, such as the canonical form, is kept by all.
-/

namespace Sys2Proof.Machine

/-- A property of states that the primitive writes of memory keep. -/
structure Kept (P : State → Prop) : Prop where
  byte : ∀ (s : State) (d pa : Nat) (b : Byte), P s → P (s.setPhysByte d pa b)
  line : ∀ (s : State) (d n : Nat) (mask data : Line), P s → P (s.memWriteMask d n mask data)
  die : ∀ (s : State) (d : Nat) (f : Die → Die), P s → P (s.updDie d f)
  post : ∀ (s : State) (i : Instr), P s → P (s.postOnce i)

theorem ite_kept {α : Type} {P : α → Prop} {c : Prop} [Decidable c] {a b : α} (ha : P a) (hb : P b) :
    P (if c then a else b) := by
  split <;> assumption

theorem ite_fst_kept {α : Type} {P : State → Prop} {c : Prop} [Decidable c] {a b : State × α} (ha : P a.1)
    (hb : P b.1) : P (if c then a else b).1 := by
  split <;> assumption

variable {P : State → Prop} {s : State}

theorem Kept.physWriteBytes (K : Kept P) (d pa : Nat) (l : List Byte) (h : P s) : P (s.physWriteBytes d pa l) := by
  induction l generalizing s pa with
  | nil => exact h
  | cons b t ih => exact ih (pa + 1) (K.byte _ _ _ _ h)

theorem Kept.physWrite (K : Kept P) (d pa n v : Nat) (h : P s) : P (s.physWrite d pa n v) :=
  K.physWriteBytes d pa _ h

theorem foldl_kept {α : Type} {P : State → Prop} {f : State → α → State} (hf : ∀ s a, P s → P (f s a)) (l : List α)
    (s : State) (h : P s) : P (l.foldl f s) := by
  induction l generalizing s with
  | nil => exact h
  | cons a t ih => exact ih _ (hf _ _ h)

theorem Kept.wake (K : Kept P) (space line : Nat) (h : P s) : P (s.wake space line) := by
  unfold State.wake
  refine foldl_kept (fun s b h => ite_kept h (foldl_kept (fun s g h => ?_) _ _ h)) _ _ h
  exact ite_kept (K.post _ _ h) h

theorem Kept.ringWrite (K : Kept P) (d pa n v : Nat) (h : P s) : P (s.ringWrite d pa n v) := by
  unfold State.ringWrite
  split
  · exact K.wake _ _ (K.die _ _ _ h)
  · dsimp only
    split
    · exact K.wake _ _ (K.physWrite _ _ _ _ h)
    · exact K.physWrite _ _ _ _ h

theorem Kept.ringPush (K : Kept P) (d base cap size v : Nat) (h : P s) : P (s.ringPush d base cap size v).1 := by
  unfold State.ringPush
  exact ite_fst_kept (K.ringWrite _ _ _ _ h) (K.ringWrite _ _ _ _ (K.ringWrite _ _ _ _ h))

theorem Kept.logPort (K : Kept P) (d p : Nat) (h : P s) : P (s.logPort d p) := by
  unfold State.logPort
  exact K.ringPush _ _ _ _ _ h

theorem Kept.notify (K : Kept P) (d space : Nat) (va : Word) (kind : Nat) (wr : Bool) (pa info : Nat) (h : P s) :
    P (s.notify d space va kind wr pa info).1 := by
  unfold State.notify
  exact K.ringPush _ _ _ _ _ h

theorem Kept.countAccess (K : Kept P) (d space : Nat) (va : Word) (wr : Bool) (e : Word) (pa : Nat) (h : P s) :
    P (s.countAccess d space va wr e pa) := by
  unfold State.countAccess
  refine ite_kept h (ite_kept (K.physWrite _ _ _ _ h) (ite_kept (K.physWrite _ _ _ _ h) (ite_kept ?_ ?_)))
  · exact K.physWrite _ _ _ _ (K.notify _ _ _ _ _ _ _ h)
  · exact K.physWrite _ _ _ _ (K.notify _ _ _ _ _ _ _ h)

theorem Kept.finishXlate (K : Kept P) (d space : Nat) (va : Word) (need : Nat) (e : TlbEntry) (count : Bool) (h : P s) :
    P (s.finishXlate d space va need e count).1 := by
  unfold State.finishXlate
  refine ite_fst_kept ?_ (ite_fst_kept h ?_)
  · dsimp only
    exact K.notify _ _ _ _ _ _ _ h
  · dsimp only
    exact ite_kept (K.countAccess _ _ _ _ _ _ h) h

/-- A translation writes only owner records, counters and notifications, and fills the TLB of its die. -/
theorem Kept.translate (K : Kept P) (space : Nat) (va : Word) (need : Nat) (count : Bool) (h : P s) :
    P (s.translate space va need count).1 := by
  unfold State.translate
  dsimp only
  generalize (s.die (ownerOf va)).tlbFind space va = f
  generalize s.walk space va = w
  cases f with
  | some e => exact K.finishXlate _ _ _ _ _ _ h
  | none =>
    cases w with
    | absent => exact h
    | bad f =>
      dsimp only
      exact K.notify _ _ _ _ _ _ _ h
    | leaf size base entry bitmap =>
      refine ite_fst_kept ?_ (ite_fst_kept ?_ (K.finishXlate _ _ _ _ _ _ h))
      · dsimp only
        exact K.notify _ _ _ _ _ _ _ h
      dsimp only
      refine K.die _ _ _ (foldl_kept (fun t x h => ?_) _ _ (K.finishXlate _ _ _ _ _ _ h))
      exact ite_kept (K.physWrite _ _ _ _ h) h

theorem Kept.setDirtyBit (K : Kept P) (d line bitmap : Nat) (h : P s) : P (s.setDirtyBit d line bitmap) := by
  unfold State.setDirtyBit
  exact ite_kept h (K.physWrite _ _ _ _ h)

theorem Kept.mscWriteBack (K : Kept P) (d line : Nat) (h : P s) : P (s.mscWriteBack d line) := by
  unfold State.mscWriteBack
  cases oget (s.die d).msc line with
  | none => exact h
  | some x =>
    exact ite_kept h (ite_kept (K.logPort _ _ (K.die _ _ _ h)) (K.line _ _ _ _ _ (K.die _ _ _ (K.setDirtyBit _ _ _ h))))

theorem Kept.mscFill (K : Kept P) (d line : Nat) (mask : Line) (h : P s) : P (s.mscFill d line mask) := by
  have h1 : P (if (oget (s.die d).msc line).isSome then s
      else
        match if (setMates 16 32768 Config.mscSet (s.die d).msc line).length < 16 then none
          else victim ((setMates 16 32768 Config.mscSet (s.die d).msc line).map fun e => (e.1, 0, e.2.age)) with
        | some v => (s.mscWriteBack d v).updDie d fun y => { y with msc := odel y.msc v }
        | none => s) := by
    refine ite_kept h ?_
    split
    · exact K.die _ _ _ (K.mscWriteBack _ _ h)
    · exact h
  unfold State.mscFill
  exact ite_kept h1 (K.die _ _ _ h1)

theorem Kept.homeWrite (K : Kept P) (d pa bitmap : Nat) (mask data : Line) (h : P s) :
    P (s.homeWrite d pa bitmap mask data) := by
  unfold State.homeWrite
  refine ite_kept (K.logPort _ _ h) (ite_kept (K.line _ _ _ _ _ (K.setDirtyBit _ _ _ h)) ?_)
  exact K.post _ _ (K.die _ _ _ (K.mscFill _ _ _ h))

theorem Kept.poisonHome (K : Kept P) (d pa : Nat) (mask : Line) (h : P s) : P (s.poisonHome d pa mask) := by
  unfold State.poisonHome State.poisonStored
  exact ite_kept h (ite_kept (K.die _ _ _ h) (K.die _ _ _ h))

theorem Kept.dropStale (K : Kept P) (d : Nat) (h : P s) : P (s.dropStale d) := by
  unfold State.dropStale
  exact ite_kept h (K.die _ _ _ h)

theorem Kept.moveTags (K : Kept P) (d key : Nat) (h : P s) : P (s.moveTags d key) := by
  unfold State.moveTags
  exact ite_kept h (K.die _ _ _ (K.dropStale _ h))

theorem Kept.evictL2 (K : Kept P) (d key : Nat) (h : P s) : P (s.evictL2 d key) := by
  unfold State.evictL2
  cases (s.die d).l2At key with
  | none => exact h
  | some x =>
    have h1 := K.die _ d (fun y => { y with l2 := odel y.l2 key }) (K.moveTags d key h)
    exact ite_kept h1 (K.poisonHome _ _ _ (K.homeWrite _ _ _ _ _ h1))

theorem Kept.roomL2 (K : Kept P) (d key : Nat) (copy : Bool) (h : P s) : P (s.roomL2 d key copy).1 := by
  unfold State.roomL2
  refine ite_fst_kept h (ite_fst_kept h (ite_fst_kept h ?_))
  split
  · exact K.evictL2 _ _ h
  · exact h

theorem Kept.ownWay (K : Kept P) (d key : Nat) (h : P s) : P (s.ownWay d key).1 := by
  have h1 := K.roomL2 d key false h
  unfold State.ownWay
  cases (s.die d).l2At key with
  | none => exact h
  | some x =>
    refine ite_fst_kept h ?_
    generalize s.roomL2 d key false = r at h1
    obtain ⟨t, _ | w⟩ := r
    · exact h1
    · show P (t.updL2 d key _)
      exact K.die _ _ _ h1

theorem Kept.pocWrite (K : Kept P) (d key pa bitmap : Nat) (mask data : Line) (h : P s) :
    P (s.pocWrite d key pa bitmap mask data) := by
  have h1 := K.ownWay d key h
  unfold State.pocWrite
  dsimp only
  split
  · exact ite_kept (K.homeWrite _ _ _ _ _ h1) (K.die _ _ _ h1)
  · exact K.homeWrite _ _ _ _ _ h1

theorem Kept.clearWay7 (K : Kept P) (d : Nat) (h : P s) : P (s.clearWay7 d) :=
  foldl_kept (fun _ _ h => K.evictL2 _ _ h) _ _ h

/-! ### The canonical form -/

/-- Reset memory has the canonical form. -/
theorem memory_wf_reset : Memory.wf State.reset.mem = true := rfl

theorem memory_wf_setPhysByte (s : State) (d pa : Nat) (b : Byte) (h : Memory.wf s.mem = true) :
    Memory.wf (s.setPhysByte d pa b).mem = true := by
  have h1 := swf_sset 0 (k := physKey d pa) b h
  unfold State.setPhysByte
  dsimp only
  split
  · rw [State.updDie_mem]; exact h1
  · exact h1

/-- The states whose memory has the canonical form. -/
def WfState (s : State) : Prop := Memory.wf s.mem = true

/-- Every memory operation keeps the canonical form. -/
theorem memory_wf_kept : Kept WfState where
  byte s d pa b h := memory_wf_setPhysByte s d pa b h
  line _ _ _ _ _ h := swf_sfill 0 _ _ _ h
  die s d f h := by unfold WfState at *; rwa [State.updDie_mem]
  post s i h := by unfold WfState at *; rwa [State.postOnce_mem]

end Sys2Proof.Machine
end

