-- ==== Sys2Proof/Laws/PerInstr.lean ====
section
/-!
SUPPORT. The family Coded, instruction by instruction: a word is encoded in as many words as it takes, and a step that is
no word has no encoding.
-/

namespace Sys2Proof.Laws.Coded

/-- The encoding of a word has its length in words (R9, R18), and a machine step has none. -/
def Statement (i : Instr) : Prop := (encode i).length = if i.isWord then i.words else 0

theorem bra : ∀ x0 x1 x2, Statement (.bra x0 x1 x2) := by intros; rfl
theorem brx : ∀ x0 x1, Statement (.brx x0 x1) := by intros; rfl
theorem call : ∀ x0 x1 x2, Statement (.call x0 x1 x2) := by intros; rfl
theorem callx : ∀ x0 x1, Statement (.callx x0 x1) := by intros; rfl
theorem ret : ∀ x0, Statement (.ret x0) := by intros; rfl
theorem exit : ∀ x0, Statement (.exit x0) := by intros; rfl
theorem yield : ∀ x0, Statement (.yield x0) := by intros; rfl
theorem nop : ∀ x0, Statement (.nop x0) := by intros; rfl
theorem trap : ∀ x0, Statement (.trap x0) := by intros; rfl
theorem bkpt : ∀ x0, Statement (.bkpt x0) := by intros; rfl
theorem tfence : ∀ x0, Statement (.tfence x0) := by intros; rfl
theorem eret : ∀ x0 x1, Statement (.eret x0 x1) := by intros; rfl
theorem canck : ∀ x0, Statement (.canck x0) := by intros; rfl
theorem isetp : ∀ x0 x1 x2 x3 x4, Statement (.isetp x0 x1 x2 x3 x4) := by intros; rfl
theorem fsetp : ∀ x0 x1 x2 x3 x4, Statement (.fsetp x0 x1 x2 x3 x4) := by intros; rfl
theorem pand : ∀ x0 x1 x2 x3, Statement (.pand x0 x1 x2 x3) := by intros; rfl
theorem por : ∀ x0 x1 x2 x3, Statement (.por x0 x1 x2 x3) := by intros; rfl
theorem pxor : ∀ x0 x1 x2 x3, Statement (.pxor x0 x1 x2 x3) := by intros; rfl
theorem pandn : ∀ x0 x1 x2 x3, Statement (.pandn x0 x1 x2 x3) := by intros; rfl
theorem ptov : ∀ x0 x1 x2 x3, Statement (.ptov x0 x1 x2 x3) := by intros; rfl
theorem vtop : ∀ x0 x1 x2, Statement (.vtop x0 x1 x2) := by intros; rfl
theorem vote : ∀ x0 x1 x2 x3 x4, Statement (.vote x0 x1 x2 x3 x4) := by intros; rfl
theorem pld : ∀ x0 x1 x2, Statement (.pld x0 x1 x2) := by intros; rfl
theorem pst : ∀ x0 x1 x2, Statement (.pst x0 x1 x2) := by intros; rfl
theorem iadd : ∀ x0 x1 x2 x3 x4, Statement (.iadd x0 x1 x2 x3 x4) := by intros; rfl
theorem isub : ∀ x0 x1 x2 x3 x4, Statement (.isub x0 x1 x2 x3 x4) := by intros; rfl
theorem imul : ∀ x0 x1 x2 x3 x4, Statement (.imul x0 x1 x2 x3 x4) := by intros; rfl
theorem imulh : ∀ x0 x1 x2 x3 x4, Statement (.imulh x0 x1 x2 x3 x4) := by intros; rfl
theorem imad : ∀ x0 x1 x2 x3 x4, Statement (.imad x0 x1 x2 x3 x4) := by intros; rfl
theorem imin : ∀ x0 x1 x2 x3 x4, Statement (.imin x0 x1 x2 x3 x4) := by intros; rfl
theorem imax : ∀ x0 x1 x2 x3 x4, Statement (.imax x0 x1 x2 x3 x4) := by intros; rfl
theorem iabs : ∀ x0 x1 x2 x3, Statement (.iabs x0 x1 x2 x3) := by intros; rfl
theorem and : ∀ x0 x1 x2 x3 x4, Statement (.and x0 x1 x2 x3 x4) := by intros; rfl
theorem or : ∀ x0 x1 x2 x3 x4, Statement (.or x0 x1 x2 x3 x4) := by intros; rfl
theorem xor : ∀ x0 x1 x2 x3 x4, Statement (.xor x0 x1 x2 x3 x4) := by intros; rfl
theorem andn : ∀ x0 x1 x2 x3 x4, Statement (.andn x0 x1 x2 x3 x4) := by intros; rfl
theorem shl : ∀ x0 x1 x2 x3 x4, Statement (.shl x0 x1 x2 x3 x4) := by intros; rfl
theorem shr : ∀ x0 x1 x2 x3 x4, Statement (.shr x0 x1 x2 x3 x4) := by intros; rfl
theorem sar : ∀ x0 x1 x2 x3 x4, Statement (.sar x0 x1 x2 x3 x4) := by intros; rfl
theorem rotl : ∀ x0 x1 x2 x3 x4, Statement (.rotl x0 x1 x2 x3 x4) := by intros; rfl
theorem popc : ∀ x0 x1 x2 x3, Statement (.popc x0 x1 x2 x3) := by intros; rfl
theorem clz : ∀ x0 x1 x2 x3, Statement (.clz x0 x1 x2 x3) := by intros; rfl
theorem brev : ∀ x0 x1 x2 x3, Statement (.brev x0 x1 x2 x3) := by intros; rfl
theorem bfx : ∀ x0 x1 x2 x3 x4, Statement (.bfx x0 x1 x2 x3 x4) := by intros; rfl
theorem bfi : ∀ x0 x1 x2 x3, Statement (.bfi x0 x1 x2 x3) := by intros; rfl
theorem bsel : ∀ x0 x1 x2 x3 x4, Statement (.bsel x0 x1 x2 x3 x4) := by intros; rfl
theorem sel : ∀ x0 x1 x2 x3 x4, Statement (.sel x0 x1 x2 x3 x4) := by intros; rfl
theorem lea : ∀ x0 x1 x2 x3 x4 x5, Statement (.lea x0 x1 x2 x3 x4 x5) := by intros; rfl
theorem iaddi : ∀ x0 x1 x2, Statement (.iaddi x0 x1 x2) := by intros; rfl
theorem andi : ∀ x0 x1 x2, Statement (.andi x0 x1 x2) := by intros; rfl
theorem ori : ∀ x0 x1 x2, Statement (.ori x0 x1 x2) := by intros; rfl
theorem xori : ∀ x0 x1 x2, Statement (.xori x0 x1 x2) := by intros; rfl
theorem shli : ∀ x0 x1 x2, Statement (.shli x0 x1 x2) := by intros; rfl
theorem shri : ∀ x0 x1 x2, Statement (.shri x0 x1 x2) := by intros; rfl
theorem sari : ∀ x0 x1 x2, Statement (.sari x0 x1 x2) := by intros; rfl
theorem isat : ∀ x0 x1 x2 x3 x4, Statement (.isat x0 x1 x2 x3 x4) := by intros; rfl
theorem idiv : ∀ x0 x1 x2 x3 x4, Statement (.idiv x0 x1 x2 x3 x4) := by intros; rfl
theorem irem : ∀ x0 x1 x2 x3 x4, Statement (.irem x0 x1 x2 x3 x4) := by intros; rfl
theorem mov : ∀ x0 x1 x2 x3, Statement (.mov x0 x1 x2 x3) := by intros; rfl
theorem li : ∀ x0 x1, Statement (.li x0 x1) := by intros; rfl
theorem lih : ∀ x0 x1, Statement (.lih x0 x1) := by intros; rfl
theorem movs : ∀ x0 x1 x2 x3, Statement (.movs x0 x1 x2 x3) := by intros; rfl
theorem shfl : ∀ x0 x1 x2 x3 x4, Statement (.shfl x0 x1 x2 x3 x4) := by intros; rfl
theorem redg : ∀ x0 x1 x2 x3, Statement (.redg x0 x1 x2 x3) := by intros; rfl
theorem scan : ∀ x0 x1 x2 x3 x4, Statement (.scan x0 x1 x2 x3 x4) := by intros; rfl
theorem bcast : ∀ x0 x1 x2 x3, Statement (.bcast x0 x1 x2 x3) := by intros; rfl
theorem mfs : ∀ x0 x1, Statement (.mfs x0 x1) := by intros; rfl
theorem mts : ∀ x0 x1, Statement (.mts x0 x1) := by intros; rfl
theorem fadd : ∀ x0 x1 x2 x3 x4, Statement (.fadd x0 x1 x2 x3 x4) := by intros; rfl
theorem fsub : ∀ x0 x1 x2 x3 x4, Statement (.fsub x0 x1 x2 x3 x4) := by intros; rfl
theorem fmul : ∀ x0 x1 x2 x3 x4, Statement (.fmul x0 x1 x2 x3 x4) := by intros; rfl
theorem fdiv : ∀ x0 x1 x2 x3 x4, Statement (.fdiv x0 x1 x2 x3 x4) := by intros; rfl
theorem ffma : ∀ x0 x1 x2 x3 x4, Statement (.ffma x0 x1 x2 x3 x4) := by intros; rfl
theorem fmin : ∀ x0 x1 x2 x3 x4, Statement (.fmin x0 x1 x2 x3 x4) := by intros; rfl
theorem fmax : ∀ x0 x1 x2 x3 x4, Statement (.fmax x0 x1 x2 x3 x4) := by intros; rfl
theorem fcps : ∀ x0 x1 x2 x3 x4, Statement (.fcps x0 x1 x2 x3 x4) := by intros; rfl
theorem fabs : ∀ x0 x1 x2 x3, Statement (.fabs x0 x1 x2 x3) := by intros; rfl
theorem fneg : ∀ x0 x1 x2 x3, Statement (.fneg x0 x1 x2 x3) := by intros; rfl
theorem frnd : ∀ x0 x1 x2 x3 x4, Statement (.frnd x0 x1 x2 x3 x4) := by intros; rfl
theorem hadd2 : ∀ x0 x1 x2 x3 x4 x5, Statement (.hadd2 x0 x1 x2 x3 x4 x5) := by intros; rfl
theorem hmul2 : ∀ x0 x1 x2 x3 x4 x5, Statement (.hmul2 x0 x1 x2 x3 x4 x5) := by intros; rfl
theorem hfma2 : ∀ x0 x1 x2 x3 x4, Statement (.hfma2 x0 x1 x2 x3 x4) := by intros; rfl
theorem dmake : ∀ x0 x1 x2 x3, Statement (.dmake x0 x1 x2 x3) := by intros; rfl
theorem dmean : ∀ x0 x1 x2, Statement (.dmean x0 x1 x2) := by intros; rfl
theorem dvar : ∀ x0 x1 x2, Statement (.dvar x0 x1 x2) := by intros; rfl
theorem dstd : ∀ x0 x1 x2, Statement (.dstd x0 x1 x2) := by intros; rfl
theorem dtag : ∀ x0 x1 x2 x3, Statement (.dtag x0 x1 x2 x3) := by intros; rfl
theorem dclr : ∀ x0 x1 x2, Statement (.dclr x0 x1 x2) := by intros; rfl
theorem daddv : ∀ x0 x1 x2 x3, Statement (.daddv x0 x1 x2 x3) := by intros; rfl
theorem ds4 : ∀ x0 x1 x2 x3, Statement (.ds4 x0 x1 x2 x3) := by intros; rfl
theorem dcol : ∀ x0 x1 x2, Statement (.dcol x0 x1 x2) := by intros; rfl
theorem dsamp : ∀ x0 x1 x2 x3 x4, Statement (.dsamp x0 x1 x2 x3 x4) := by intros; rfl
theorem dsens : ∀ x0 x1 x2 x3, Statement (.dsens x0 x1 x2 x3) := by intros; rfl
theorem ex2 : ∀ x0 x1 x2 x3, Statement (.ex2 x0 x1 x2 x3) := by intros; rfl
theorem lg2 : ∀ x0 x1 x2 x3, Statement (.lg2 x0 x1 x2 x3) := by intros; rfl
theorem rcp : ∀ x0 x1 x2 x3, Statement (.rcp x0 x1 x2 x3) := by intros; rfl
theorem rsq : ∀ x0 x1 x2 x3, Statement (.rsq x0 x1 x2 x3) := by intros; rfl
theorem sqrt : ∀ x0 x1 x2 x3, Statement (.sqrt x0 x1 x2 x3) := by intros; rfl
theorem sin : ∀ x0 x1 x2 x3, Statement (.sin x0 x1 x2 x3) := by intros; rfl
theorem cos : ∀ x0 x1 x2 x3, Statement (.cos x0 x1 x2 x3) := by intros; rfl
theorem tanh : ∀ x0 x1 x2 x3, Statement (.tanh x0 x1 x2 x3) := by intros; rfl
theorem sigm : ∀ x0 x1 x2 x3, Statement (.sigm x0 x1 x2 x3) := by intros; rfl
theorem fcvt : ∀ x0 x1 x2 x3 x4, Statement (.fcvt x0 x1 x2 x3 x4) := by intros; rfl
theorem icvt : ∀ x0 x1 x2 x3 x4 x5, Statement (.icvt x0 x1 x2 x3 x4 x5) := by intros; rfl
theorem ftoi : ∀ x0 x1 x2 x3 x4 x5 x6, Statement (.ftoi x0 x1 x2 x3 x4 x5 x6) := by intros; rfl
theorem qcvt : ∀ x0 x1 x2 x3 x4, Statement (.qcvt x0 x1 x2 x3 x4) := by intros; rfl
theorem qrsc : ∀ x0 x1 x2 x3 x4, Statement (.qrsc x0 x1 x2 x3 x4) := by intros; rfl
theorem qzpc : ∀ x0 x1 x2 x3, Statement (.qzpc x0 x1 x2 x3) := by intros; rfl
theorem benc : ∀ x0 x1 x2 x3 x4 x5, Statement (.benc x0 x1 x2 x3 x4 x5) := by intros; rfl
theorem bdec : ∀ x0 x1 x2 x3 x4, Statement (.bdec x0 x1 x2 x3 x4) := by intros; rfl
theorem rgen : ∀ x0 x1, Statement (.rgen x0 x1) := by intros; rfl
theorem runi : ∀ x0 x1, Statement (.runi x0 x1) := by intros; rfl
theorem rgaus : ∀ x0 x1, Statement (.rgaus x0 x1) := by intros; rfl
theorem rcat : ∀ x0 x1 x2 x3, Statement (.rcat x0 x1 x2 x3) := by intros; rfl
theorem rskip : ∀ x0 x1, Statement (.rskip x0 x1) := by intros; rfl
theorem ldb : ∀ x0 x1 x2 x3 x4, Statement (.ldb x0 x1 x2 x3 x4) := by intros; rfl
theorem ldh : ∀ x0 x1 x2 x3 x4, Statement (.ldh x0 x1 x2 x3 x4) := by intros; rfl
theorem ldw : ∀ x0 x1 x2 x3 x4, Statement (.ldw x0 x1 x2 x3 x4) := by intros; rfl
theorem ldd : ∀ x0 x1 x2 x3 x4, Statement (.ldd x0 x1 x2 x3 x4) := by intros; rfl
theorem ldq : ∀ x0 x1 x2 x3 x4, Statement (.ldq x0 x1 x2 x3 x4) := by intros; rfl
theorem ldx : ∀ x0 x1 x2 x3 x4 x5, Statement (.ldx x0 x1 x2 x3 x4 x5) := by intros; rfl
theorem ldg : ∀ x0 x1 x2 x3, Statement (.ldg x0 x1 x2 x3) := by intros; rfl
theorem pfet : ∀ x0 x1 x2 x3, Statement (.pfet x0 x1 x2 x3) := by intros; rfl
theorem stb : ∀ x0 x1 x2 x3 x4, Statement (.stb x0 x1 x2 x3 x4) := by intros; rfl
theorem sth : ∀ x0 x1 x2 x3 x4, Statement (.sth x0 x1 x2 x3 x4) := by intros; rfl
theorem stw : ∀ x0 x1 x2 x3 x4, Statement (.stw x0 x1 x2 x3 x4) := by intros; rfl
theorem std : ∀ x0 x1 x2 x3 x4, Statement (.std x0 x1 x2 x3 x4) := by intros; rfl
theorem stq : ∀ x0 x1 x2 x3 x4, Statement (.stq x0 x1 x2 x3 x4) := by intros; rfl
theorem stx : ∀ x0 x1 x2 x3 x4 x5, Statement (.stx x0 x1 x2 x3 x4 x5) := by intros; rfl
theorem lda : ∀ x0 x1 x2 x3 x4, Statement (.lda x0 x1 x2 x3 x4) := by intros; rfl
theorem str : ∀ x0 x1 x2 x3 x4, Statement (.str x0 x1 x2 x3 x4) := by intros; rfl
theorem fence : ∀ x0 x1 x2, Statement (.fence x0 x1 x2) := by intros; rfl
theorem atom : ∀ x0 x1 x2 x3 x4, Statement (.atom x0 x1 x2 x3 x4) := by intros; rfl
theorem acas : ∀ x0 x1 x2 x3 x4, Statement (.acas x0 x1 x2 x3 x4) := by intros; rfl
theorem afadd : ∀ x0 x1 x2 x3 x4, Statement (.afadd x0 x1 x2 x3 x4) := by intros; rfl
theorem red : ∀ x0 x1 x2 x3, Statement (.red x0 x1 x2 x3) := by intros; rfl
theorem commit : ∀ x0, Statement (.commit x0) := by intros; rfl
theorem waitm : ∀ x0 x1 x2 x3 x4, Statement (.waitm x0 x1 x2 x3 x4) := by intros; rfl
theorem lds : ∀ x0 x1 x2 x3 x4, Statement (.lds x0 x1 x2 x3 x4) := by intros; rfl
theorem sts : ∀ x0 x1 x2 x3 x4, Statement (.sts x0 x1 x2 x3 x4) := by intros; rfl
theorem ldsx : ∀ x0 x1 x2 x3 x4 x5, Statement (.ldsx x0 x1 x2 x3 x4 x5) := by intros; rfl
theorem stsx : ∀ x0 x1 x2 x3 x4 x5, Statement (.stsx x0 x1 x2 x3 x4 x5) := by intros; rfl
theorem plot : ∀ x0 x1 x2 x3 x4, Statement (.plot x0 x1 x2 x3 x4) := by intros; rfl
theorem unplot : ∀ x0 x1, Statement (.unplot x0 x1) := by intros; rfl
theorem renew : ∀ x0 x1, Statement (.renew x0 x1) := by intros; rfl
theorem pres : ∀ x0 x1, Statement (.pres x0 x1) := by intros; rfl
theorem qw : ∀ x0 x1 x2 x3, Statement (.qw x0 x1 x2 x3) := by intros; rfl
theorem qr : ∀ x0 x1 x2 x3, Statement (.qr x0 x1 x2 x3) := by intros; rfl
theorem tlrd : ∀ x0 x1 x2, Statement (.tlrd x0 x1 x2) := by intros; rfl
theorem tlw : ∀ x0 x1 x2 x3, Statement (.tlw x0 x1 x2 x3) := by intros; rfl
theorem mldn : ∀ x0 x1 x2 x3, Statement (.mldn x0 x1 x2 x3) := by intros; rfl
theorem mldw : ∀ x0 x1 x2 x3, Statement (.mldw x0 x1 x2 x3) := by intros; rfl
theorem mma : ∀ x0 x1 x2 x3 x4, Statement (.mma x0 x1 x2 x3 x4) := by intros; rfl
theorem dmma : ∀ x0 x1 x2 x3, Statement (.dmma x0 x1 x2 x3) := by intros; rfl
theorem mma2 : ∀ x0 x1 x2 x3, Statement (.mma2 x0 x1 x2 x3) := by intros; rfl
theorem mzro : ∀ x0 x1 x2, Statement (.mzro x0 x1 x2) := by intros; rfl
theorem mdrn : ∀ x0 x1 x2 x3, Statement (.mdrn x0 x1 x2 x3) := by intros; rfl
theorem mstat : ∀ x0 x1 x2 x3 x4, Statement (.mstat x0 x1 x2 x3 x4) := by intros; rfl
theorem mteam : ∀ x0 x1, Statement (.mteam x0 x1) := by intros; rfl
theorem mchk : ∀ x0 x1, Statement (.mchk x0 x1) := by intros; rfl
theorem bar : ∀ x0 x1, Statement (.bar x0 x1) := by intros; rfl
theorem bara : ∀ x0 x1, Statement (.bara x0 x1) := by intros; rfl
theorem barc : ∀ x0 x1 x2, Statement (.barc x0 x1 x2) := by intros; rfl
theorem gbar : ∀ x0, Statement (.gbar x0) := by intros; rfl
theorem capb : ∀ x0 x1, Statement (.capb x0 x1) := by intros; rfl
theorem cape : ∀ x0, Statement (.cape x0) := by intros; rfl
theorem capr : ∀ x0 x1 x2, Statement (.capr x0 x1 x2) := by intros; rfl
theorem maskw : ∀ x0 x1 x2 x3, Statement (.maskw x0 x1 x2 x3) := by intros; rfl
theorem launch : ∀ x0 x1 x2, Statement (.launch x0 x1 x2) := by intros; rfl
theorem compl : ∀ x0 x1 x2, Statement (.compl x0 x1 x2) := by intros; rfl
theorem waitc : ∀ x0 x1 x2, Statement (.waitc x0 x1 x2) := by intros; rfl
theorem tlbi : ∀ x0 x1, Statement (.tlbi x0 x1) := by intros; rfl
theorem psumi : ∀ x0 x1, Statement (.psumi x0 x1) := by intros; rfl
theorem ctxsv : ∀ x0 x1, Statement (.ctxsv x0 x1) := by intros; rfl
theorem ctxld : ∀ x0 x1, Statement (.ctxld x0 x1) := by intros; rfl
theorem copyLinear : ∀ x0, Statement (.copyLinear x0) := by intros; rfl
theorem copyRagged : ∀ x0, Statement (.copyRagged x0) := by intros; rfl
theorem kvPut : ∀ x0, Statement (.kvPut x0) := by intros; rfl
theorem kvGet : ∀ x0, Statement (.kvGet x0) := by intros; rfl
theorem kvFlagIncrement : ∀ x0, Statement (.kvFlagIncrement x0) := by intros; rfl
theorem maskRequest : ∀ x0, Statement (.maskRequest x0) := by intros; rfl
theorem prunerJobStart : ∀ x0 x1, Statement (.prunerJobStart x0 x1) := by intros; rfl
theorem gemv : ∀ x0, Statement (.gemv x0) := by intros; rfl
theorem sopen : ∀ x0, Statement (.sopen x0) := by intros; rfl
theorem sopenContextBind : ∀ x0, Statement (.sopenContextBind x0) := by intros; rfl
theorem sclose : ∀ x0, Statement (.sclose x0) := by intros; rfl
theorem sieveFeed : ∀ x0 x1 x2 x3, Statement (.sieveFeed x0 x1 x2 x3) := by intros; rfl
theorem commandCompletion : ∀ x0, Statement (.commandCompletion x0) := by intros; rfl
theorem copyChunkFault : ∀ x0 x1 x2, Statement (.copyChunkFault x0 x1 x2) := by intros; rfl
theorem bedLineLands : ∀ x0 x1 x2, Statement (.bedLineLands x0 x1 x2) := by intros; rfl
theorem fadeClockTick : ∀ x0, Statement (.fadeClockTick x0) := by intros; rfl
theorem lineExpiry : ∀ x0 x1, Statement (.lineExpiry x0 x1) := by intros; rfl
theorem lineRequest : ∀ x0 x1 x2 x3, Statement (.lineRequest x0 x1 x2 x3) := by intros; rfl
theorem loadDataReturn : ∀ x0 x1 x2 x3, Statement (.loadDataReturn x0 x1 x2 x3) := by intros; rfl
theorem deferredFaultDelivery : ∀ x0 x1, Statement (.deferredFaultDelivery x0 x1) := by intros; rfl
theorem translateProbe : ∀ x0 x1 x2, Statement (.translateProbe x0 x1 x2) := by intros; rfl
theorem probeReply : ∀ x0 x1 x2, Statement (.probeReply x0 x1 x2) := by intros; rfl
theorem commitMerge : ∀ x0 x1 x2, Statement (.commitMerge x0 x1 x2) := by intros; rfl
theorem atomicPerform : ∀ x0 x1 x2, Statement (.atomicPerform x0 x1 x2) := by intros; rfl
theorem waitReread : ∀ x0 x1, Statement (.waitReread x0 x1) := by intros; rfl
theorem mscWriteback : ∀ x0 x1, Statement (.mscWriteback x0 x1) := by intros; rfl
theorem groupUnpark : ∀ x0 x1, Statement (.groupUnpark x0 x1) := by intros; rfl
theorem cancellationTrap : ∀ x0 x1, Statement (.cancellationTrap x0 x1) := by intros; rfl
theorem priorityAgingGrant : ∀ x0, Statement (.priorityAgingGrant x0) := by intros; rfl
theorem frameSliceAllocation : ∀ x0, Statement (.frameSliceAllocation x0) := by intros; rfl
theorem coreAssignment : ∀ x0, Statement (.coreAssignment x0) := by intros; rfl
theorem rangeSteal : ∀ x0 x1 x2, Statement (.rangeSteal x0 x1 x2) := by intros; rfl
theorem blockStart : ∀ x0 x1, Statement (.blockStart x0 x1) := by intros; rfl
theorem timeSliceExpiry : ∀ x0, Statement (.timeSliceExpiry x0) := by intros; rfl
theorem contextSave : ∀ x0, Statement (.contextSave x0) := by intros; rfl
theorem contextRestore : ∀ x0 x1, Statement (.contextRestore x0 x1) := by intros; rfl
theorem gridRetirement : ∀ x0, Statement (.gridRetirement x0) := by intros; rfl
theorem graphKernelNode : ∀ x0, Statement (.graphKernelNode x0) := by intros; rfl
theorem graphLoopNode : ∀ x0, Statement (.graphLoopNode x0) := by intros; rfl
theorem graphAdmitNode : ∀ x0, Statement (.graphAdmitNode x0) := by intros; rfl
theorem graphEndNode : ∀ x0, Statement (.graphEndNode x0) := by intros; rfl
theorem matrixExecute : ∀ x0, Statement (.matrixExecute x0) := by intros; rfl
theorem capsuleStep : ∀ x0 x1, Statement (.capsuleStep x0 x1) := by intros; rfl
theorem maskwTimeout : ∀ x0 x1, Statement (.maskwTimeout x0 x1) := by intros; rfl
theorem hendWrite : ∀ x0 x1 x2, Statement (.hendWrite x0 x1 x2) := by intros; rfl
theorem hardwareError : ∀ x0 x1, Statement (.hardwareError x0 x1) := by intros; rfl
theorem doorbellWrite : ∀ x0 x1, Statement (.doorbellWrite x0 x1) := by intros; rfl
theorem queueEnable : ∀ x0, Statement (.queueEnable x0) := by intros; rfl
theorem queueDisable : ∀ x0, Statement (.queueDisable x0) := by intros; rfl
theorem configRegisterWrite : ∀ x0 x1, Statement (.configRegisterWrite x0 x1) := by intros; rfl
theorem mailboxLoadFirmware : ∀ x0, Statement (.mailboxLoadFirmware x0) := by intros; rfl
theorem hostBar2Read : ∀ x0 x1, Statement (.hostBar2Read x0 x1) := by intros; rfl
theorem hostBar2Write : ∀ x0 x1, Statement (.hostBar2Write x0 x1) := by intros; rfl
theorem hostTakeLine : ∀ x0 x1, Statement (.hostTakeLine x0 x1) := by intros; rfl
theorem hostLineWriteback : ∀ x0 x1 x2, Statement (.hostLineWriteback x0 x1 x2) := by intros; rfl
theorem hostCoherentRead : ∀ x0 x1, Statement (.hostCoherentRead x0 x1) := by intros; rfl
theorem inboundRmaWrite : ∀ x0 x1 x2 x3 x4, Statement (.inboundRmaWrite x0 x1 x2 x3 x4) := by intros; rfl
theorem inboundRmaRead : ∀ x0 x1 x2 x3 x4, Statement (.inboundRmaRead x0 x1 x2 x3 x4) := by intros; rfl
theorem inboundRmaAtomic : ∀ x0 x1 x2 x3 x4, Statement (.inboundRmaAtomic x0 x1 x2 x3 x4) := by intros; rfl
theorem inboundUnsupportedPacket : ∀ x0 x1, Statement (.inboundUnsupportedPacket x0 x1) := by intros; rfl
theorem secondTierLinkDown : ∀ x0 x1, Statement (.secondTierLinkDown x0 x1) := by intros; rfl
theorem bridgeLaneFailure : ∀ x0 x1, Statement (.bridgeLaneFailure x0 x1) := by intros; rfl
theorem sramRailLow : ∀ x0, Statement (.sramRailLow x0) := by intros; rfl
theorem l2SecdedRestore : ∀ x0, Statement (.l2SecdedRestore x0) := by intros; rfl
theorem variableLatencyResultWrite : ∀ x0 x1 x2, Statement (.variableLatencyResultWrite x0 x1 x2) := by intros; rfl
theorem backInvalidateResponse : ∀ x0 x1, Statement (.backInvalidateResponse x0 x1) := by intros; rfl
theorem clusterL1ModeWrite : ∀ x0 x1, Statement (.clusterL1ModeWrite x0 x1) := by intros; rfl
theorem secondTierDecoderWrite : ∀ x0 x1 x2 x3, Statement (.secondTierDecoderWrite x0 x1 x2 x3) := by intros; rfl
theorem secondTierLinkUp : ∀ x0 x1, Statement (.secondTierLinkUp x0 x1) := by intros; rfl
theorem descriptorAccept : Statement (.descriptorAccept) := rfl
theorem mailboxTelemetryRead : Statement (.mailboxTelemetryRead) := rfl
theorem mailboxReadCertificate : Statement (.mailboxReadCertificate) := rfl
theorem deviceReset : Statement (.deviceReset) := rfl
theorem thermalThrottle : Statement (.thermalThrottle) := rfl
theorem powerCapThrottle : Statement (.powerCapThrottle) := rfl
theorem thermalReset : Statement (.thermalReset) := rfl
theorem mainClockRaise : Statement (.mainClockRaise) := rfl
theorem mailboxAttest : Statement (.mailboxAttest) := rfl
theorem mailboxClearSuspect : Statement (.mailboxClearSuspect) := rfl
theorem mailboxSetPowerCap : Statement (.mailboxSetPowerCap) := rfl

end Sys2Proof.Laws.Coded
end

