-- ==== Sys2Proof/Tests/Slice0.lean ====
section
/-!
SUPPORT. Tests of this model: words decoded, instructions that are not well formed, single steps worked out by hand, and
for each obligation with hypotheses states and operands that meet them.
-/

namespace Sys2Proof.Tests

open Sys2Proof.Machine

set_option Elab.async false

/-! ### Words from the manual's examples and, where it has none, from its encoding tables (R11, R22 to R28) -/

theorem test_decode_bra_to_canck :
    decodeWord 0x00410002 0 = .ok (.bra 0 1 2)
    ∧ decodeWord 0x00805007 0 = .ok (.brx 5 7)
    ∧ decodeWord 0x00C7000A 0 = .ok (.call 0 7 10)
    ∧ decodeWord 0x01006007 0 = .ok (.callx 6 7)
    ∧ decodeWord 0x01400007 0 = .ok (.ret 7)
    ∧ decodeWord 0x01800007 0 = .ok (.exit 7)
    ∧ decodeWord 0x01C00007 0 = .ok (.yield 7)
    ∧ decodeWord 0x82000002 0 = .ok (.nop 2)
    ∧ decodeWord 0x0240002A 0 = .ok (.trap 42)
    ∧ decodeWord 0x02800007 0 = .ok (.bkpt 7)
    ∧ decodeWord 0x02C00007 0 = .ok (.tfence 7)
    ∧ decodeWord 0x03000007 0 = .ok (.eret 0 7)
    ∧ decodeWord 0x03410000 0 = .ok (.canck 2) := by
  exact ⟨rfl, rfl, rfl, rfl, rfl, rfl, rfl, rfl, rfl, rfl, rfl, rfl, rfl⟩

theorem test_decode_isetp_to_isub :
    decodeWord 0x04008453 0 = .ok (.isetp 1 1 2 9 1)
    ∧ decodeWord 0x0441F002 0 = .ok (.fsetp 3 28 0 1 0)
    ∧ decodeWord 0x04A348A2 0 = .ok (.pand 70 18 5 1)
    ∧ decodeWord 0x04C20FE6 0 = .ok (.por 4 3 31 3)
    ∧ decodeWord 0x052348A2 0 = .ok (.pxor 70 18 5 1)
    ∧ decodeWord 0x05449BF6 0 = .ok (.pandn 9 6 31 11)
    ∧ decodeWord 0x05932023 0 = .ok (.ptov 9 18 1 3)
    ∧ decodeWord 0x05C22400 0 = .ok (.vtop 4 9 0)
    ∧ decodeWord 0x060A1007 0 = .ok (.vote 5 1 0 0 7)
    ∧ decodeWord 0x06403027 0 = .ok (.pld 3 1 7)
    ∧ decodeWord 0x06920023 0 = .ok (.pst 9 1 3)
    ∧ decodeWord 0x08081117 0 = .ok (.iadd 4 1 2 1 7)
    ∧ decodeWord 0x085A0607 0 = .ok (.isub 13 0 12 0 7) := by
  exact ⟨rfl, rfl, rfl, rfl, rfl, rfl, rfl, rfl, rfl, rfl, rfl, rfl, rfl⟩

theorem test_decode_imul_to_sar :
    decodeWord 0x08932293 0 = .ok (.imul 9 18 5 1 3)
    ∧ decodeWord 0x08D32293 0 = .ok (.imulh 9 18 5 1 3)
    ∧ decodeWord 0x090A110C 0 = .ok (.imad 5 1 2 3 0)
    ∧ decodeWord 0x09532293 0 = .ok (.imin 9 18 5 1 3)
    ∧ decodeWord 0x09932293 0 = .ok (.imax 9 18 5 1 3)
    ∧ decodeWord 0x09D32013 0 = .ok (.iabs 9 18 1 3)
    ∧ decodeWord 0x0A1322A3 0 = .ok (.and 9 18 5 1 3)
    ∧ decodeWord 0x0A5322A3 0 = .ok (.or 9 18 5 1 3)
    ∧ decodeWord 0x0A9322A3 0 = .ok (.xor 9 18 5 1 3)
    ∧ decodeWord 0x0AD322A3 0 = .ok (.andn 9 18 5 1 3)
    ∧ decodeWord 0x0B34ED07 0 = .ok (.shl 26 14 26 0 7)
    ∧ decodeWord 0x0B421107 0 = .ok (.shr 1 1 2 0 7)
    ∧ decodeWord 0x0B9322A3 0 = .ok (.sar 9 18 5 1 3) := by
  exact ⟨rfl, rfl, rfl, rfl, rfl, rfl, rfl, rfl, rfl, rfl, rfl, rfl, rfl⟩

theorem test_decode_rotl_to_xori :
    decodeWord 0x0BD322A3 0 = .ok (.rotl 9 18 5 1 3)
    ∧ decodeWord 0x0C132023 0 = .ok (.popc 9 18 1 3)
    ∧ decodeWord 0x0C532023 0 = .ok (.clz 9 18 1 3)
    ∧ decodeWord 0x0C932023 0 = .ok (.brev 9 18 1 3)
    ∧ decodeWord 0x0CD0110D 0 = .ok (.bfx 8 1 2 3 1)
    ∧ decodeWord 0x0D1322AC 0 = .ok (.bfi 9 18 5 11)
    ∧ decodeWord 0x0D5322A3 0 = .ok (.bsel 9 18 5 1 3)
    ∧ decodeWord 0x0DAFA004 0 = .ok (.sel 23 26 0 0 4)
    ∧ decodeWord 0x0DCE21B7 0 = .ok (.lea 7 2 3 0 3 7)
    ∧ decodeWord 0x0E042040 0 = .ok (.iaddi 2 2 64)
    ∧ decodeWord 0x0E532035 0 = .ok (.andi 9 18 53)
    ∧ decodeWord 0x0E932035 0 = .ok (.ori 9 18 53)
    ∧ decodeWord 0x0ED32035 0 = .ok (.xori 9 18 53) := by
  exact ⟨rfl, rfl, rfl, rfl, rfl, rfl, rfl, rfl, rfl, rfl, rfl, rfl, rfl⟩

theorem test_decode_shli_to_mfs :
    decodeWord 0x0F132035 0 = .ok (.shli 9 18 53)
    ∧ decodeWord 0x0F4C6003 0 = .ok (.shri 6 6 3)
    ∧ decodeWord 0x0F932035 0 = .ok (.sari 9 18 53)
    ∧ decodeWord 0x0FD32293 0 = .ok (.isat 9 18 5 1 3)
    ∧ decodeWord 0x1E4642D7 0 = .ok (.idiv 3 4 5 5 7)
    ∧ decodeWord 0x1E932293 0 = .ok (.irem 9 18 5 1 3)
    ∧ decodeWord 0x10067027 0 = .ok (.mov 3 7 1 7)
    ∧ decodeWord 0x10D32283 0 = .ok (.movs 9 18 5 3)
    ∧ decodeWord 0x111322A3 0 = .ok (.shfl 9 18 5 1 3)
    ∧ decodeWord 0x11532013 0 = .ok (.redg 9 18 1 3)
    ∧ decodeWord 0x11932093 0 = .ok (.scan 9 18 1 1 3)
    ∧ decodeWord 0x11D32283 0 = .ok (.bcast 9 18 5 3)
    ∧ decodeWord 0x12020000 0 = .ok (.mfs 1 0) := by
  exact ⟨rfl, rfl, rfl, rfl, rfl, rfl, rfl, rfl, rfl, rfl, rfl, rfl, rfl⟩

theorem test_decode_mts_to_hadd2 :
    decodeWord 0x12460200 0 = .ok (.mts 3 16)
    ∧ decodeWord 0x1433BC21 0 = .ok (.fadd 25 27 24 2 1)
    ∧ decodeWord 0x14532293 0 = .ok (.fsub 9 18 5 1 3)
    ∧ decodeWord 0x948811A7 0 = .ok (.fmul 4 1 3 2 7)
    ∧ decodeWord 0x168E1137 0 = .ok (.fdiv 7 1 2 3 7)
    ∧ decodeWord 0x14C8110D 0 = .ok (.ffma 4 1 2 3 1)
    ∧ decodeWord 0x151322A3 0 = .ok (.fmin 9 18 5 1 3)
    ∧ decodeWord 0x155322A3 0 = .ok (.fmax 9 18 5 1 3)
    ∧ decodeWord 0x161322A3 0 = .ok (.fcps 9 18 5 1 3)
    ∧ decodeWord 0x15932023 0 = .ok (.fabs 9 18 1 3)
    ∧ decodeWord 0x15D32023 0 = .ok (.fneg 9 18 1 3)
    ∧ decodeWord 0x165280A7 0 = .ok (.frnd 9 8 1 1 7)
    ∧ decodeWord 0x16C42187 0 = .ok (.hadd2 2 2 3 0 0 7) := by
  exact ⟨rfl, rfl, rfl, rfl, rfl, rfl, rfl, rfl, rfl, rfl, rfl, rfl, rfl⟩

theorem test_decode_hmul2_to_dsens :
    decodeWord 0x171322D3 0 = .ok (.hmul2 9 18 5 1 1 3)
    ∧ decodeWord 0x1754110F 0 = .ok (.hfma2 10 1 2 3 3)
    ∧ decodeWord 0x183BBE01 0 = .ok (.dmake 29 27 28 1)
    ∧ decodeWord 0x18532003 0 = .ok (.dmean 9 18 3)
    ∧ decodeWord 0x18932003 0 = .ok (.dvar 9 18 3)
    ∧ decodeWord 0x18FDD001 0 = .ok (.dstd 30 29 1)
    ∧ decodeWord 0x190E3307 0 = .ok (.dtag 7 3 6 7)
    ∧ decodeWord 0x19532003 0 = .ok (.dclr 9 18 3)
    ∧ decodeWord 0x19932283 0 = .ok (.daddv 9 18 5 3)
    ∧ decodeWord 0x19D32013 0 = .ok (.ds4 9 18 1 3)
    ∧ decodeWord 0x1A0A6007 0 = .ok (.dcol 5 6 7)
    ∧ decodeWord 0x1A4C4017 0 = .ok (.dsamp 6 4 0 1 7)
    ∧ decodeWord 0x1A932283 0 = .ok (.dsens 9 18 5 3) := by
  exact ⟨rfl, rfl, rfl, rfl, rfl, rfl, rfl, rfl, rfl, rfl, rfl, rfl, rfl⟩

theorem test_decode_ex2_to_qcvt :
    decodeWord 0x1C065047 0 = .ok (.ex2 3 5 2 7)
    ∧ decodeWord 0x1C532023 0 = .ok (.lg2 9 18 1 3)
    ∧ decodeWord 0x1C932023 0 = .ok (.rcp 9 18 1 3)
    ∧ decodeWord 0x1CD32023 0 = .ok (.rsq 9 18 1 3)
    ∧ decodeWord 0x1D132023 0 = .ok (.sqrt 9 18 1 3)
    ∧ decodeWord 0x1D532023 0 = .ok (.sin 9 18 1 3)
    ∧ decodeWord 0x1D932023 0 = .ok (.cos 9 18 1 3)
    ∧ decodeWord 0x1DD32023 0 = .ok (.tanh 9 18 1 3)
    ∧ decodeWord 0x1E132023 0 = .ok (.sigm 9 18 1 3)
    ∧ decodeWord 0x200A41B7 0 = .ok (.fcvt 5 4 3 3 7)
    ∧ decodeWord 0x20441927 0 = .ok (.icvt 2 1 1 2 2 7)
    ∧ decodeWord 0x20862A07 0 = .ok (.ftoi 3 2 1 1 0 0 7)
    ∧ decodeWord 0x20CE64F7 0 = .ok (.qcvt 7 6 9 7 7) := by
  exact ⟨rfl, rfl, rfl, rfl, rfl, rfl, rfl, rfl, rfl, rfl, rfl, rfl, rfl⟩

theorem test_decode_qrsc_to_ldd :
    decodeWord 0x210A1117 0 = .ok (.qrsc 5 1 2 1 7)
    ∧ decodeWord 0x214A1107 0 = .ok (.qzpc 5 1 2 7)
    ∧ decodeWord 0x21881287 0 = .ok (.benc 4 1 5 0 0 7)
    ∧ decodeWord 0x21CC5287 0 = .ok (.bdec 6 5 5 0 7)
    ∧ decodeWord 0x641E0001 0 = .ok (.rgen 15 1)
    ∧ decodeWord 0x24520003 0 = .ok (.runi 9 3)
    ∧ decodeWord 0x24840007 0 = .ok (.rgaus 2 7)
    ∧ decodeWord 0x24D07187 0 = .ok (.rcat 8 7 3 7)
    ∧ decodeWord 0x25003007 0 = .ok (.rskip 3 7)
    ∧ decodeWord 0x26132D53 0 = .ok (.ldb 9 18 53 1 3)
    ∧ decodeWord 0x26532D53 0 = .ok (.ldh 9 18 53 1 3)
    ∧ decodeWord 0x66822107 0 = .ok (.ldw 1 2 4 0 7)
    ∧ decodeWord 0x66CE4087 0 = .ok (.ldd 7 4 2 0 7) := by
  exact ⟨rfl, rfl, rfl, rfl, rfl, rfl, rfl, rfl, rfl, rfl, rfl, rfl, rfl⟩

theorem test_decode_ldq_to_fence :
    decodeWord 0x27112D53 0 = .ok (.ldq 8 18 53 1 3)
    ∧ decodeWord 0x274E4097 0 = .ok (.ldx 7 4 1 0 1 7)
    ∧ decodeWord 0x278C3027 0 = .ok (.ldg 6 3 1 7)
    ∧ decodeWord 0x27C020B7 0 = .ok (.pfet 2 2 3 7)
    ∧ decodeWord 0x28132D53 0 = .ok (.stb 9 18 53 1 3)
    ∧ decodeWord 0x28532D53 0 = .ok (.sth 9 18 53 1 3)
    ∧ decodeWord 0x28882D07 0 = .ok (.stw 4 2 52 0 7)
    ∧ decodeWord 0x28C460C7 0 = .ok (.std 2 6 3 0 7)
    ∧ decodeWord 0x29104017 0 = .ok (.stq 8 4 0 1 7)
    ∧ decodeWord 0x294E3297 0 = .ok (.stx 7 3 5 0 1 7)
    ∧ decodeWord 0x29822007 0 = .ok (.lda 1 2 0 0 7)
    ∧ decodeWord 0x29C042A7 0 = .ok (.str 0 4 5 2 7)
    ∧ decodeWord 0x2A000017 0 = .ok (.fence 0 1 7) := by
  exact ⟨rfl, rfl, rfl, rfl, rfl, rfl, rfl, rfl, rfl, rfl, rfl, rfl, rfl⟩

theorem test_decode_atom_to_renew :
    decodeWord 0x2A4642F7 0 = .ok (.atom 3 4 5 7 7)
    ∧ decodeWord 0x2A86429A 0 = .ok (.acas 3 4 5 6 2)
    ∧ decodeWord 0x2AC642A7 0 = .ok (.afadd 3 4 5 1 7)
    ∧ decodeWord 0x2B004287 0 = .ok (.red 4 5 0 7)
    ∧ decodeWord 0x2B400007 0 = .ok (.commit 7)
    ∧ decodeWord 0x2B8642A7 0 = .ok (.waitm 3 4 5 2 7)
    ∧ decodeWord 0x2C082097 0 = .ok (.lds 4 2 2 1 7)
    ∧ decodeWord 0x2C58A021 0 = .ok (.sts 12 10 0 2 1)
    ∧ decodeWord 0x2C9322B3 0 = .ok (.ldsx 9 18 5 1 1 3)
    ∧ decodeWord 0x2CD26197 0 = .ok (.stsx 9 6 3 0 1 7)
    ∧ decodeWord 0x2D141117 0 = .ok (.plot 10 1 2 1 7)
    ∧ decodeWord 0x2D40A007 0 = .ok (.unplot 10 7)
    ∧ decodeWord 0x2D80A007 0 = .ok (.renew 10 7) := by
  exact ⟨rfl, rfl, rfl, rfl, rfl, rfl, rfl, rfl, rfl, rfl, rfl, rfl, rfl⟩

theorem test_decode_pres_to_mstat :
    decodeWord 0x2DC29000 0 = .ok (.pres 5 4)
    ∧ decodeWord 0x30009007 0 = .ok (.qw 0 4 1 7)
    ∧ decodeWord 0x3044C007 0 = .ok (.qr 1 6 0 7)
    ∧ decodeWord 0x30860107 0 = .ok (.tlrd 3 2 7)
    ∧ decodeWord 0x30C05147 0 = .ok (.tlw 5 2 1 7)
    ∧ decodeWord 0x32001487 0 = .ok (.mldn 1 9 0 7)
    ∧ decodeWord 0x32402497 0 = .ok (.mldw 2 9 1 7)
    ∧ decodeWord 0x328034B7 0 = .ok (.mma 3 9 1 1 7)
    ∧ decodeWord 0x32C034C7 0 = .ok (.dmma 3 9 2 7)
    ∧ decodeWord 0x33004487 0 = .ok (.mma2 4 9 0 7)
    ∧ decodeWord 0x33400067 0 = .ok (.mzro 3 0 7)
    ∧ decodeWord 0x338054A7 0 = .ok (.mdrn 5 9 1 7)
    ∧ decodeWord 0x33CC5497 0 = .ok (.mstat 6 5 9 1 7) := by
  exact ⟨rfl, rfl, rfl, rfl, rfl, rfl, rfl, rfl, rfl, rfl, rfl, rfl, rfl⟩

theorem test_decode_mteam_to_waitc :
    decodeWord 0x34007007 0 = .ok (.mteam 7 7)
    ∧ decodeWord 0x34500007 0 = .ok (.mchk 8 7)
    ∧ decodeWord 0x36000187 0 = .ok (.bar 3 7)
    ∧ decodeWord 0x36400187 0 = .ok (.bara 3 7)
    ∧ decodeWord 0x36802187 0 = .ok (.barc 2 3 7)
    ∧ decodeWord 0x36C00007 0 = .ok (.gbar 7)
    ∧ decodeWord 0x37001000 0 = .ok (.capb 1 0)
    ∧ decodeWord 0x37400007 0 = .ok (.cape 7)
    ∧ decodeWord 0x37920107 0 = .ok (.capr 9 2 7)
    ∧ decodeWord 0x37C82187 0 = .ok (.maskw 4 2 3 7)
    ∧ decodeWord 0x38064007 0 = .ok (.launch 3 4 7)
    ∧ decodeWord 0x38402187 0 = .ok (.compl 2 3 7)
    ∧ decodeWord 0x38802187 0 = .ok (.waitc 2 3 7) := by
  exact ⟨rfl, rfl, rfl, rfl, rfl, rfl, rfl, rfl, rfl, rfl, rfl, rfl, rfl⟩

theorem test_decode_tlbi_to_ctxld :
    decodeWord 0x3A002007 0 = .ok (.tlbi 2 7)
    ∧ decodeWord 0x3A402007 0 = .ok (.psumi 2 7)
    ∧ decodeWord 0x3A802007 0 = .ok (.ctxsv 2 7)
    ∧ decodeWord 0x3AC02007 0 = .ok (.ctxld 2 7) := by
  exact ⟨rfl, rfl, rfl, rfl⟩

/-- The two instructions of two words (R18). -/
theorem test_decode_li_lih :
    decodeWord 0x10460000 0x3FC00000 = .ok (.li 3 0x3FC00000) ∧ decodeWord 0x108A0000 0xDEADBEEF = .ok (.lih 5 0xDEADBEEF) :=
  ⟨rfl, rfl⟩


/-! ### A small package -/

/-- A group with all lanes on address 0 and the predicates p0 to p6 true. -/
def grp0 : Group := { Group.zero with
  live := BitVec.allOnes 32
  p := (List.range 7).map fun n => (n, BitVec.allOnes 32) }

/-- A block of one group that is resident on core 0, in space 1, with eight Bed lines. -/
def blk0 : Block := { Block.zero with grid := 1, space := 1, life := .resident, bedLines := 8 }

def grid0 : Grid := { Grid.zero with state := .running, blocks := 1, lcores := 1, groups := 1 }

/-- A core whose permission summary grants everything below 1 GiB of space 1. -/
def core0 : Core := { Core.zero with summary := [(2 ^ 23, some (7, []))] }

/-- A die that maps 1 GiB of space 1 onto itself. -/
def dieM : Die := { Die.zero with tlb := [(513 * 2 ^ 53, some ⟨2, 0x38, 0⟩)] }

/-- A word at address 0 at issue in every lane. -/
def ctx0 : IssueCtx := ⟨1, 0, BitVec.allOnes 32, BitVec.allOnes 32, 0, 0, 4, 0, none, 1, 0, .none⟩

/-- The package with that block and group. -/
def pkg (b : Block) (g : Group) : State := { State.reset with
  blocks := [(1, some { b with groups := [(0, some g)] })]
  grids := [(1, some grid0)]
  cores := [(0, some core0)]
  die0 := dieM
  boot := .running
  agenda := []
  cur := some ctx0 }

def s0 : State := pkg blk0 grp0

/-- Every instruction of `integerRule`. -/
def integerWords : List Instr :=
  [.iadd 4 1 2 1 7, .isub 13 0 12 0 7, .imul 9 18 5 1 3, .imulh 9 18 5 1 3, .imad 5 1 2 3 0, .imin 9 18 5 1 3,
    .imax 9 18 5 1 3, .iabs 9 18 1 3, .and 9 18 5 1 3, .or 9 18 5 1 3, .xor 9 18 5 1 3, .andn 9 18 5 1 3,
    .shl 26 14 26 0 7, .shr 1 1 2 0 7, .sar 9 18 5 1 3, .rotl 9 18 5 1 3, .popc 9 18 1 3, .clz 9 18 1 3,
    .brev 9 18 1 3, .bfx 8 1 2 3 1, .bfi 9 18 5 11, .bsel 9 18 5 1 3, .sel 23 26 0 0 4, .lea 7 2 3 0 3 7,
    .iaddi 2 2 64, .andi 9 18 53, .ori 9 18 53, .xori 9 18 53, .shli 9 18 53, .shri 6 6 3, .sari 9 18 53,
    .isat 9 18 5 1 3]

/-- Every instruction of `moveRule`. -/
def moveWords : List Instr :=
  [.nop 2, .canck 2, .isetp 1 1 2 9 1, .fsetp 3 28 0 1 0, .pand 70 18 5 1, .por 4 3 31 3, .pxor 70 18 5 1,
    .pandn 9 6 31 11, .ptov 9 18 1 3, .vtop 4 9 0, .vote 5 1 0 0 7, .pld 3 1 7, .pst 9 1 3, .mov 3 7 1 7,
    .movs 9 18 5 3, .mfs 1 0, .li 31 0xFFFFFFFF, .lih 0 0xFFFFFFFF, .mfs 0 0x04F]

/-- Every instruction of `floatRule`. -/
def floatWords : List Instr :=
  [.fadd 25 27 24 2 1, .fsub 9 18 5 1 3, .fmul 4 1 3 2 7, .ffma 4 1 2 3 1, .fmin 9 18 5 1 3, .fmax 9 18 5 1 3,
    .fcps 9 18 5 1 3, .fabs 9 18 1 3, .fneg 9 18 1 3, .frnd 9 8 1 1 7, .hadd2 2 2 3 0 0 7, .hmul2 9 18 5 1 1 3,
    .hfma2 10 1 2 3 3, .dmake 29 27 28 1, .dmean 9 18 3, .dvar 9 18 3, .dstd 30 29 1, .dtag 7 3 6 7,
    .dclr 9 18 3, .daddv 9 18 5 3, .ds4 9 18 1 3, .dcol 5 6 7, .dsens 9 18 5 3, .fcvt 5 4 3 3 7,
    .icvt 2 1 1 2 2 7, .ftoi 3 2 1 1 0 0 7, .qcvt 7 6 9 7 7, .qrsc 5 1 2 1 7, .qzpc 5 1 2 7, .benc 4 1 5 0 0 7,
    .bdec 6 5 5 0 7]

/-- Every instruction of `laterRule`. -/
def laterWords : List Instr :=
  [.idiv 3 4 5 5 7, .irem 9 18 5 1 3, .shfl 9 18 5 1 3, .redg 9 18 1 3, .scan 9 18 1 1 3, .bcast 9 18 5 3,
    .fdiv 7 1 2 3 7, .dsamp 6 4 0 1 7, .ex2 3 5 2 7, .lg2 9 18 1 3, .rcp 9 18 1 3, .rsq 9 18 1 3,
    .sqrt 9 18 1 3, .sin 9 18 1 3, .cos 9 18 1 3, .tanh 9 18 1 3, .sigm 9 18 1 3, .rgen 15 1, .runi 9 3,
    .rgaus 2 7, .rcat 8 7 3 7, .tlrd 3 2 7]

/-- Every instruction of the matrix engine. -/
def matrixWords : List Instr :=
  [.mldn 1 9 0 7, .mldw 2 9 1 7, .mma 3 9 1 1 7, .dmma 3 9 2 7, .mma2 4 9 0 7, .mzro 3 0 7, .mdrn 5 9 1 7,
    .mstat 6 5 9 1 7, .mteam 7 7, .mchk 8 7]

/-- Every instruction of `loadRule`. -/
def loadWords : List Instr :=
  [.ldb 9 18 0 1 3, .ldh 9 18 0 1 3, .ldw 1 2 4 0 7, .ldd 7 4 2 0 7, .ldq 8 18 0 1 3, .ldx 7 4 1 0 1 7,
    .ldg 6 3 1 7]

/-- Every instruction of `storeRule`. -/
def storeWords : List Instr :=
  [.stb 9 18 0 1 3, .sth 9 18 0 1 3, .stw 4 2 63 0 7, .std 2 6 3 0 7, .stq 8 4 0 1 7, .stx 7 3 5 0 1 7]

/-- Every instruction of `atomicRule`. -/
def atomicWords : List Instr :=
  [.atom 3 4 5 7 7, .acas 3 4 5 6 2, .afadd 3 4 5 1 7, .red 4 5 0 7]

/-- Every instruction of `bedRule`. -/
def bedWords : List Instr :=
  [.lds 4 2 2 1 7, .sts 12 10 0 2 1, .ldsx 9 18 5 1 1 3, .stsx 9 6 3 0 1 7]

/-! ### Witnesses: states and operands that meet the hypotheses of each obligation -/

theorem witness_DecodeOfEncode :
    ∀ i ∈ [.li 31 0xFFFFFFFF, .lih 0 0, .bra 3 15 0xFFFF, .bra 0 0 0x8000, .mts 31 0x067, .fsetp 127 31 31 12 1].filter
      fun i => i != (.bra 3 15 0xFFFF : Instr), i.isWord = true ∧ i.wf = true := by decide

theorem witness_EncodeOfDecode :
    decodeWord 0x82000002 0xFFFFFFFF = .ok (.nop 2) ∧ decodeWord 0x10460000 0x3FC00000 = .ok (.li 3 0x3FC00000) :=
  ⟨rfl, rfl⟩

theorem witness_StepKeepsMemoryForm :
    let s := State.reset.withFetchWord 32 nopWord
    Memory.wf s.mem = true ∧ (step s matches .next _) = true := by
  and_intros <;> decide +kernel

/-- A word of the program at 0x3000 chosen by the schedule. -/
def scheduled : State :=
  { State.reset.withFetchWord 32 0x08081117 with script := [.issue (blockKey 1 0) 0] }

theorem witness_StepRunsDecodedWord :
    (let b := blockKey 1 0
      let s1 := State.toIssue { scheduled with script := [] } b 0
      let h := (s1.grp b 0).headRun
      let f := s1.fetchPacket b h.2
      let p : PWord := ⟨0, 0x08081117, 0, 1⟩
      scheduled.script = [.issue b 0] ∧ State.mayIssue { scheduled with script := [] } b 0 = true
        ∧ (State.grp { scheduled with script := [] } b 0).trapPend = none ∧ h.1 ≠ 0
        ∧ f.2 = ⟨0, f.2.va, [0x08081117, nopWord, nopWord]⟩
        ∧ packetOk 0x08081117 nopWord nopWord (h.2.toNat % 12 / 4) = true
        ∧ entrySet 0x08081117 nopWord nopWord (h.2.toNat % 12 / 4) = [p]
        ∧ setTrap (setWords 7 [p]) (f.1.grp b 0) f.1 b = none)
    ∧ (let s : State := { State.reset with agenda := [.thermalThrottle], script := [.event 0] }
      s.agenda[0]? = some .thermalThrottle ∧ Instr.thermalThrottle.isWord = false ∧ isInput .thermalThrottle = true
        ∧ (exec .thermalThrottle s matches .next _) = true)
    ∧ (let s : State := { s0 with script := [.issue 1 31] }
      s.script = [.issue 1 31] ∧ ({ s with script := [] } : State).mayIssue 1 31 = false) := by
  and_intros <;> decide +kernel

theorem witness_IntegerResults :
    ∀ i ∈ integerWords, (integerRule (issueOf i ctx0 s0) i).isSome = true ∧ AtIssue i ctx0 s0 := by decide +kernel

theorem witness_MoveAndPredicateResults :
    ∀ i ∈ moveWords, (moveRule (issueOf i ctx0 s0) s0 i).isSome = true ∧ AtIssue i ctx0 s0 := by decide +kernel

theorem witness_DistributionResults :
    ∀ i ∈ floatWords, (floatRule (issueOf i ctx0 s0) (ctx0.group s0) i).isSome = true ∧ AtIssue i ctx0 s0 := by
  decide +kernel

theorem witness_LaterResultsIssue :
    (∀ i ∈ laterWords, (laterRule (issueOf i ctx0 s0) s0 i).isSome = true ∧ AtIssue i ctx0 s0
      ∧ (issueOf i ctx0 s0).act ≠ 0)
    ∧ AtIssue (.rgen 15 9) ctx0 s0 ∧ (issueOf (.rgen 15 9) ctx0 s0).act = 0 := by
  and_intros <;> decide +kernel

/-- A uniform branch, with its guard in every lane. -/
theorem witness_TransfersMoveLanes :
    (∀ i ∈ [Instr.bra 0 1 2, .bra 3 7 0x8000, .brx 5 7, .call 0 7 10, .callx 6 7, .ret 7],
      (controlRule (issueOf i ctx0 s0) i).isSome = true ∧ AtIssue i ctx0 s0 ∧ (issueOf i ctx0 s0).act = BitVec.allOnes 32)
    ∧ uniformPasses (issueOf (.bra 3 7 0x8000) ctx0 s0) 3 := by
  refine ⟨by decide +kernel, fun _ => .inr (by decide +kernel)⟩

/-- A group in which p1 holds in lane 0 alone. -/
def grpSome : Group := { grp0 with p := [(1, 1)] }

theorem witness_EncodingTraps :
    Instr.legal (.isetp 1 1 2 10 1) = false ∧ Instr.isWord (.isetp 1 1 2 10 1) = true
    ∧ (Instr.legal (.eret 0 7) = true ∧ Instr.privileged (.eret 0 7) = true ∧ (ctx0.group s0).level = false)
    ∧ (let s := pkg blk0 { grp0 with pendV := 4 }
      let i : Instr := .iadd 4 1 2 1 7
      i.touched (i.guard.getD 7) = [(0, 1)] ++ (0, 2) :: [(0, 4)] ∧ (issueOf i ctx0 s).G.isPending 0 1 = false
        ∧ (issueOf i ctx0 s).G.isPending 0 2 = true)
    ∧ (let s : State := { s0 with grids := [(1, some { grid0 with determ := true })] }
      detForbidden (.cape 7) = true ∧ (s.gridOf 1).determ = true ∧ (issueOf (.cape 7) ctx0 s).act ≠ 0
        ∧ s.cur = some ctx0 ∧ (oget s.blocks 1).isSome = true ∧ (oget (s.blk 1).groups 0).isSome = true)
    ∧ (let s := pkg blk0 grpSome
      let i : Instr := .bra 3 1 2
      AtIssue i ctx0 s ∧ hintOf i = 3 ∧ (issueOf i ctx0 s).act ≠ 0 ∧ (issueOf i ctx0 s).act ≠ ctx0.run) := by
  and_intros <;> decide +kernel

/-- A result of a lane pair that waits to be written, to the highest pair there is. -/
def out30 : VarOut := ⟨9, 9, .v, 30, 1, [5], [6], 0, 0, 0⟩

theorem witness_LaterResultsWrite :
    let s := pkg blk0 { grp0 with outs := [out30] }
    (oget s.blocks 1).isSome = true ∧ (oget (s.blk 1).groups 0).isSome = true
      ∧ (s.grp 1 0).outs.find? (fun x => x.uid == out30.uid) = some out30
      ∧ (out30.file = .v → out30.hi ≠ [] → out30.reg < 31) := by
  and_intros <;> decide +kernel

/-- The package with its group at handler level. -/
def sHandler : State := pkg blk0 { grp0 with level := true }

theorem witness_SpecialRegisterWrites :
    (∀ i ∈ [0x010, 0x011, 0x012, 0x020, 0x021, 0x022].map (Instr.mts 3),
      AtIssue i ctx0 s0 ∧ (issueOf i ctx0 s0).act ≠ 0)
    ∧ (∀ i ∈ [0x036, 0x037, 0x060, 0x061, 0x064, 0x065, 0x066, 0x067].map (Instr.mts 3),
      AtIssue i ctx0 sHandler ∧ (issueOf i ctx0 sHandler).act ≠ 0)
    ∧ (∀ g ∈ [7, 8], AtIssue (.rskip 3 g) ctx0 s0) ∧ (issueOf (.rskip 3 7) ctx0 s0).act ≠ 0
    ∧ (issueOf (.rskip 3 8) ctx0 s0).act = 0
    ∧ (let c := { ctx0 with inherited := 0 }
      let s : State := { s0 with cur := some c }
      AtIssue (.mts 3 0x010) c s ∧ (issueOf (.mts 3 0x010) c s).act = 0) := by
  and_intros <;> decide +kernel

theorem witness_ExitAndYield :
    (∀ g ∈ [7, 8], AtIssue (.exit g) ctx0 s0 ∧ AtIssue (.yield g) ctx0 s0)
    ∧ (issueOf (.exit 8) ctx0 s0).act = 0
    ∧ (let I := issueOf (.exit 7) ctx0 s0
      I.act ≠ 0 ∧ (ctx0.group s0).live &&& ~~~I.act = 0 ∧ I.G.outs = [] ∧ I.G.loads = []
        ∧ s0.entriesOf 1 0 = [] ∧ s0.matrixOut 1 0 = [])
    ∧ (let s := pkg blk0 { grp0 with outs := [out30] }
      AtIssue (.exit 7) ctx0 s ∧ (issueOf (.exit 7) ctx0 s).G.outs ≠ [])
    ∧ (let s := pkg blk0 grpSome
      let I := issueOf (.exit 1) ctx0 s
      AtIssue (.exit 1) ctx0 s ∧ I.act ≠ 0 ∧ (ctx0.group s).live &&& ~~~I.act ≠ 0)
    ∧ (let s : State := { s0 with blocks := [(1, some { blk0 with groups := [(0, some grp0), (31, some grp0)] })] }
      (oget (s.blk 1).groups 0).isSome = true ∧ (oget (s.blk 1).groups 31).any (fun y => !y.ended) = true) := by
  and_intros <;> decide +kernel

theorem witness_SoftwareTraps :
    AtIssue (.trap 0xFFF) ctx0 s0 ∧ (issueOf (.trap 0xFFF) ctx0 s0).act ≠ 0
    ∧ (∀ g ∈ [7, 8], AtIssue (.bkpt g) ctx0 s0 ∧ AtIssue (.tfence g) ctx0 s0)
    ∧ (issueOf (.bkpt 8) ctx0 s0).act = 0 ∧ (issueOf (.bkpt 7) ctx0 s0).act ≠ 0
    ∧ (let c := { ctx0 with inherited := 0 }
      let s : State := { s0 with cur := some c }
      AtIssue (.trap 0) c s ∧ (issueOf (.trap 0) c s).act = 0)
    ∧ (s0.waiting 1 0 = false ∧ (ctx0.group s0).level = false ∧ (ctx0.group s0).flags &&& (ctx0.group s0).flagen = 0)
    ∧ (let s := pkg blk0 { grp0 with flags := 0x21, flagen := 0x01 }
      AtIssue (.tfence 7) ctx0 s ∧ s.waiting 1 0 = false ∧ (ctx0.group s).level = false
        ∧ (ctx0.group s).flags &&& (ctx0.group s).flagen ≠ 0)
    ∧ (let s := pkg blk0 { grp0 with outs := [out30] }
      AtIssue (.tfence 7) ctx0 s ∧ s.waiting 1 0 = true)
    ∧ AtIssue (.tfence 7) ctx0 sHandler ∧ sHandler.waiting 1 0 = false := by
  and_intros <;> decide +kernel

/-- A trap of cause group 5. -/
def trap5 : Trap := ⟨5, 0, 4, BitVec.allOnes 32, [], none⟩

/-- A group with a handler and its frame at an address that the die maps, and at one that it does not. -/
def grpFramed : Group := { grp0 with handler := 0x4000, frame := 0x100000 }

theorem witness_HandlerEntry :
    (let s := pkg blk0 grpFramed;
      s.drained 1 0 = true ∧ (s.grp 1 0).handler ≠ 0 ∧ (s.blk 1).job = none ∧ (s.frameWritten 1 0 trap5).2 = 0)
    ∧ (let s := pkg blk0 { grpFramed with frame := 0x40000000 }
      s.drained 1 0 = true ∧ (s.grp 1 0).handler ≠ 0 ∧ (s.frameWritten 1 0 trap5).2 ≠ 0)
    ∧ (sHandler.grp 1 0).level = true
    ∧ ((s0.grp 1 0).handler = 0 ∧ s0.drained 1 0 = true ∧ (s0.blk 1).life = .resident ∧ (s0.blk 1).job = none)
    ∧ (pkg blk0 { grp0 with outs := [out30] }).drained 1 0 = false
    ∧ ((pkg { blk0 with job := some ⟨0, 0, 0⟩ } grp0).blk 1).job = some ⟨0, 0, 0⟩ := by
  and_intros <;> decide +kernel

theorem witness_BlockEnds :
    (oget s0.blocks 1).isSome = true ∧ (s0.blk 1).life ≠ .ended
      ∧ ((pkg { blk0 with life := .ended } grp0).blk 1).life = .ended := by
  and_intros <;> decide +kernel

/-- A group that is in an ERET. -/
def grpEret : Group := { grpFramed with level := true, park := some ⟨.switch, .eret false⟩ }

theorem witness_HandlerReturn :
    (∀ g ∈ [7, 8], AtIssue (.eret 1 g) ctx0 sHandler)
    ∧ (issueOf (.eret 1 8) ctx0 sHandler).act = 0 ∧ (issueOf (.eret 1 7) ctx0 sHandler).act ≠ 0
    ∧ (let s := pkg blk0 grpEret
      (s.grp 1 0).park = some ⟨.switch, .eret false⟩ ∧ s.waiting 1 0 = false ∧ s.entriesOf 1 0 = []
        ∧ (s.blk 1).life = .resident ∧ (s.grp 1 0).ended = false ∧ (s.grp 1 0).record0 = none
        ∧ (s.readTrapArea 1 0).2.any (fun l => ((s.readTrapArea 1 0).1.readSlot 1 0 l).2 == some []) = true
        ∧ (s.readTrapArea 1 0).2.any (fun l => !tableBad (trapTable l)) = true)
    ∧ (let s : State := { pkg blk0 grpEret with mem := [(0x100207, 0x40)] }
      s.waiting 1 0 = false ∧ s.entriesOf 1 0 = [] ∧ (s.readTrapArea 1 0).2.any (fun l =>
        ((s.readTrapArea 1 0).1.readSlot 1 0 l).2.isSome) = true ∧ (s.readTrapArea 1 0).2.any (fun l => tableBad (trapTable l)) = true)
    ∧ (let s := pkg blk0 { grpEret with frame := 0x40000000 }
      s.waiting 1 0 = false ∧ s.entriesOf 1 0 = [] ∧ (s.readTrapArea 1 0).2 = none)
    ∧ (let s : State := { pkg blk0 { grpEret with frame := 0x3FFFF000 } with mem := [(0x3FFFF058, 0x20)] }
      (s.readTrapArea 1 0).2.any (fun l => ((s.readTrapArea 1 0).1.readSlot 1 0 l).2.isNone) = true) := by
  and_intros <;> decide +kernel

/-- A trap area that holds what a group's was written as. -/
def areaOf (y : Group) : List Byte :=
  List.replicate 0x200 0 ++ y.tableBytes ++ List.replicate 0x20 0 ++ y.pBytes 4 ++ List.replicate 0x60 0 ++ y.vBytes 0 4
    ++ y.sBytes 0 4

theorem witness_TrapAreaRoundTrip :
    let l := areaOf grp0
    (l.drop 0x200).take 256 = grp0.tableBytes ∧ (l.drop 0x400).take 1024 = grp0.vBytes 0 4
      ∧ (l.drop 0x800).take 32 = grp0.sBytes 0 4 ∧ (l.drop 0x320).take 128 = grp0.pBytes 4 := by
  and_intros <;> decide +kernel

/-- A load or a store by lane 31 alone to address 0, as an access that has not been served. -/
def acc0 : Access :=
  { uid := 1, seq := 1, blk := 1, grp := 0, pc := 0, op := 0, m := 0, dreg := 31, kind := 1, logsz := 3, hint := 0,
    act := BitVec.twoPow 32 31, wait := BitVec.twoPow 32 31, fault := 0, conf := 0, va := [], d0 := [], d1 := [],
    lcause := [], reqs := [⟨0, BitVec.twoPow 32 31, false, false, false, 0, 0, 0, ⟨0, 0, 0, 0⟩⟩], flags := 0,
    handler := false, after := 0, poc := false, begun := 0, last := true, body := false }

/-- The group with n loads in load slots, none of them earlier than the word at issue. -/
def grpLoads (n : Nat) : Group := { grp0 with loads := (List.range n).map fun k => { acc0 with seq := k } }

theorem witness_LoadsIssue :
    (∀ i ∈ loadWords, AtIssue i ctx0 s0 ∧ (issueOf i ctx0 s0).act ≠ 0 ∧ (loadRule (issueOf i ctx0 s0) i).isSome = true)
    ∧ (∀ i ∈ loadWords, ∀ L, L < 32 → (issueOf i ctx0 s0).act.getLsbD L = true →
      (loadRule (issueOf i ctx0 s0) i).all (fun A => s0.checkOf 1 (A.va L) A.logsz 1 == 0
        && ((issueOf i ctx0 s0).capTrap (issueOf i ctx0 s0).act A.va).isNone) = true)
    ∧ (AtIssue (.ldb 9 18 0 1 8) ctx0 s0 ∧ (issueOf (.ldb 9 18 0 1 8) ctx0 s0).act = 0)
    ∧ (AtIssue (.ldb 9 18 0 1 7) ctx0 (pkg blk0 (grpLoads 48)) ∧ 48 ≤ ((pkg blk0 (grpLoads 48)).moved ctx0).slotsUsed 1 0)
    ∧ (AtIssue (.ldb 9 18 0 1 7) ctx0 (pkg blk0 (grpLoads 47)) ∧ ((pkg blk0 (grpLoads 47)).moved ctx0).slotsUsed 1 0 < 48)
    ∧ (∀ g ∈ [7, 8], AtIssue (.pfet 2 2 3 g) ctx0 s0) := by
  and_intros <;> decide +kernel

/-- The group with v1 at a value in lanes 3 and 31. -/
def grpAt (v : Word) : Group := { grp0 with v := [(32 + 3, v), (32 + 31, v)] }

theorem witness_AccessFaults :
    (∀ q ∈ [((1 : Word), 1), (2 ^ 53, 2), (0x40000000, 3)],
      let s := pkg blk0 (grpAt q.1)
      s.checkOf 1 q.1 1 1 = q.2 ∧ s.checkOf 1 0 1 1 = 0 ∧ AtIssue (.ldh 9 1 0 0 7) ctx0 s
        ∧ ((memoryRule (issueOf (.ldh 9 1 0 0 7) ctx0 s) (.ldh 9 1 0 0 7)).map fun r => (r.1.va 3, r.1.logsz, r.2))
          = some (q.1, 1, 1, 1))
    ∧ (∀ i ∈ storeWords ++ atomicWords,
      (memoryRule (issueOf i ctx0 s0) i).any (fun r => r.2.1 == 2) = true ∧ AtIssue i ctx0 s0) := by
  and_intros <;> decide +kernel

/-- Line 0 of space 1 in core 0's L1, present and readable. -/
def line0 : L1Line := ⟨7, BitVec.allOnes 1024, 0, true, 0, 1, 0, 0, 0, 0, 0⟩

theorem witness_LineRequestHits :
    let s : State := { pkg blk0 { grp0 with loads := [acc0] } with
      cores := [(0, some { core0 with l1 := [(lineKey 1 0, some line0)] })] }
    (s.grp 1 0).loads.find? (fun e => e.uid == 1) = some acc0
      ∧ acc0.reqs.find? (fun q => q.line == 0 && !q.served) = acc0.reqs.head? ∧ s.lsb (s.blk 1).core = []
      ∧ behindLoad (s.grp 1 0).loads acc0 0 = false
      ∧ s.l1Hit (s.partyOf 1) 0 acc0.hint (needOf acc0 (BitVec.twoPow 32 31)) = some line0 := by
  and_intros <;> decide +kernel

/-- A pair load whose data has come. -/
def accServed : Access := { acc0 with
  dreg := 30
  logsz := 4
  reqs := [⟨0, BitVec.twoPow 32 31, true, false, false, 7, 0, 0, ⟨0, 0, 0, 0⟩⟩] }

/-- An LDG of two lines, the first still out and its lanes' data poisoned or not. -/
def accTwo (bad : Line) : Access := { accServed with
  kind := 4
  reqs := [⟨1, 1, false, false, false, 0, 0, 0, ⟨0, 0, 0, 0⟩⟩,
    ⟨0, BitVec.twoPow 32 31, true, false, false, 7, bad, 0, ⟨0, 0, 0, 0⟩⟩] }

theorem witness_LoadDataReturns :
    (let s := pkg blk0 { grp0 with loads := [accServed] };
      (s.grp 1 0).loads = [accServed] ∧ (s.grp 1 0).ready = [] ∧ (s.grp 1 0).record0 = none
        ∧ (∀ r ∈ accServed.reqs, r.served = true ∧ r.returned = false ∧ accServed.poisoned r = false)
        ∧ accServed.dreg + (if accServed.logsz = 4 then 1 else 0) < 32)
    ∧ (∀ bad ∈ [(0 : Nat), 1], let a := accTwo (BitVec.ofNat 1024 bad)
      a.reqs = a.reqs.take 1 ++ a.reqs.getD 1 ⟨0, 0, false, false, false, 0, 0, 0, ⟨0, 0, 0, 0⟩⟩ :: []
        ∧ (a.reqs.drop 1).map (fun r => (r.line, r.served, r.returned, a.poisoned r)) = [(0, true, false, bad == 1)]
        ∧ (a.reqs.take 1).map (fun r => (r.line, r.returned)) = [(1, false)] ∧ a.kind = 4 ∧ a.fault = 0 ∧ a.conf = 0) := by
  and_intros <;> decide +kernel

/-- A store by lane 31 to address 0, entered before the word at issue. -/
def store0 : Access := { acc0 with uid := 0, seq := 0, kind := 2, dreg := 4 }

/-- The package with a late store buffer. -/
def sBuffer (l : List Access) : State := { s0 with cores := [(0, some { core0 with lsb := l })] }

/-- Stores of another group. -/
def others (n : Nat) : List Access := List.replicate n { store0 with grp := 31 }

theorem witness_StoresIssue :
    (∀ i ∈ storeWords, AtIssue i ctx0 s0 ∧ (issueOf i ctx0 s0).act ≠ 0 ∧ (issueOf i ctx0 s0).inBody = false)
    ∧ (∀ i ∈ [Instr.stb 9 18 0 1 3, .sth 9 18 0 1 3, .stw 4 2 0 0 7, .std 2 6 3 0 7, .stq 8 4 31 1 7, .stx 7 3 5 0 1 7],
      ∀ L, L < 32 → (storeRule (issueOf i ctx0 s0) i).any (fun A => s0.checkOf 1 (A.va L) A.logsz 2 == 0) = true)
    ∧ (AtIssue (.stb 9 18 0 1 8) ctx0 s0 ∧ (issueOf (.stb 9 18 0 1 8) ctx0 s0).act = 0)
    ∧ (∀ n ∈ [63, 64], AtIssue (.stb 9 18 0 1 7) ctx0 (sBuffer (others n)))
    ∧ ((sBuffer (others 63)).lsb 0).length < 64 ∧ 64 ≤ ((sBuffer (others 64)).lsb 0).length := by
  and_intros <;> decide +kernel

theorem witness_StoreIsHeld :
    let m : L2Line := { L2Line.empty with wMark := true }
    let s : State := { s0 with die0 := { dieM with l2 := [(lineKey 1 0, some m)] } }
    store0.act = BitVec.twoPow 32 31 ∧ store0.wait = store0.act ∧ store0.kind = 2 ∧ store0.poc = false
      ∧ store0.after = 0 ∧ (s.gridOf 1).determ = false ∧ s.lsb (s.blk 1).core = [] ∧ (s.grp 1 0).loads = []
      ∧ (s.blk 1).commits = [] ∧ (s.blk 1).held.length < 1024 ∧ store0.fault = 0 ∧ store0.conf = 0
      ∧ (s.copiesIn 0 (lineKey 1 0)).length < 7 ∧ s.roomL2 0 (lineKey 1 0) true = (s, some false)
      ∧ oget (s.die (dieOfCore (s.blk 1).core)).l2 (lineKey (s.blk 1).space (lineNo (store0.vaAt 31))) = some m := by
  and_intros <;> decide +kernel

theorem witness_ProbesTranslate :
    let s := sBuffer [store0]
    s.entry (s.blk 1).core 0 = some store0 ∧ store0.waitsOn 0 ≠ 0 ∧ store0.poc = false ∧ (store0.req 0).isSome = true
      ∧ (s.lsb 0).Pairwise (fun e f => e.uid ≠ f.uid) ∧ oget (s.die 0).l2 (lineKey 1 0) = none
      ∧ ({ store0 with lcause := List.replicate 32 0 } : Access).lcause.length = 32 := by
  and_intros <;> decide +kernel

theorem witness_AtomicsIssue :
    (∀ i ∈ atomicWords, AtIssue i ctx0 s0 ∧ (issueOf i ctx0 s0).act ≠ 0 ∧ (issueOf i ctx0 s0).inBody = false
      ∧ s0.releaseOk (issueOf i ctx0 s0) = true)
    ∧ (∀ i ∈ atomicWords, ∀ L, L < 32 →
      (atomicRule (issueOf i ctx0 s0) i).any (fun r => s0.checkOf 1 (r.1.va L) r.1.logsz 3 == 0) = true)
    ∧ (AtIssue (.red 4 5 0 8) ctx0 s0 ∧ (issueOf (.red 4 5 0 8) ctx0 s0).act = 0)
    ∧ (AtIssue (.red 4 5 0 7) ctx0 (sBuffer [store0])
      ∧ (sBuffer [store0]).releaseOk (issueOf (.red 4 5 0 7) ctx0 (sBuffer [store0])) = false)
    ∧ (sBuffer (others 63)).releaseOk (issueOf (.red 4 5 0 7) ctx0 (sBuffer (others 63))) = true := by
  and_intros <;> decide +kernel

/-- An atomic by lane 31. -/
def atom0 : Access := { store0 with kind := 3, op := 0xA9 }

theorem witness_AtomicLanePerforms :
    (let s := sBuffer [atom0];
      let r := s.translate 1 0 3
      s.entry 0 0 = some atom0 ∧ atom0.wait = BitVec.twoPow 32 31 ∧ (s.blk 1).committed atom0.after = true
        ∧ behindStore (s.lsb 0) atom0 31 = false ∧ behindLoad (s.grp 1 0).loads atom0 0 = false ∧ (s.partyOf 1).det = false
        ∧ r.2.code = 0 ∧ inHost r.2.pa = false ∧ s.hostCaches 0 r.2.pa = false
        ∧ (r.1.viewLine 0 (lineKey 1 0) 0 (bytesMask 0 8)).2 &&& ~~~(r.1.blk 1).heldMask 0 = 0)
    ∧ ((0xFF : Nat) < 2 ^ (8 * { atom0 with op := 0xAA, logsz := 2 }.size)) ∧ atom0.fault = 0 ∧ atom0.conf = 0 := by
  and_intros <;> decide +kernel

theorem witness_WaitingReadsIssue :
    (∀ g ∈ [7, 8], AtIssue (.lda 1 2 0 0 g) ctx0 s0 ∧ AtIssue (.waitm 3 4 5 5 g) ctx0 s0)
    ∧ (issueOf (.lda 1 2 0 0 7) ctx0 s0).act ≠ 0 ∧ (issueOf (.lda 1 2 0 0 8) ctx0 s0).act = 0
    ∧ (issueOf (.waitm 3 4 5 5 7) ctx0 s0).act ≠ 0 ∧ (issueOf (.waitm 3 4 5 5 8) ctx0 s0).act = 0
    ∧ (∀ L, L < 32 → s0.checkOf 1 ((issueOf (.lda 1 2 0 0 7) ctx0 s0).G.rv 2 L) 2 1 = 0
      ∧ s0.checkOf 1 ((issueOf (.waitm 3 4 5 5 7) ctx0 s0).G.rv 4 L) 3 1 = 0)
    ∧ ((pkg blk0 (grpLoads 47)).moved ctx0).slotsUsed 1 0 < 48 := by
  and_intros <;> decide +kernel

/-- A group parked on a waiting read. -/
def sAwait (w : Await) : State := pkg blk0 { grp0 with park := some ⟨.wait, w⟩ }

theorem witness_WaitingReadsFinish :
    (∀ w ∈ [Await.waitm acc0 [], .lda acc0 5],
      let s := sAwait w
      let r := s.readLanes acc0 acc0.wait
      (s.blk 1).life = .resident ∧ (s.grp 1 0).ended = false ∧ s.readWaits acc0 acc0.wait = false
        ∧ r.2.2.poison = false ∧ r.2.2.again = false ∧ r.2.1.fault = 0 ∧ r.2.1.conf = 0 ∧ r.2.1.dreg < 32
        ∧ r.2.1.logsz < 4 ∧ (s.grp 1 0).more = [] ∧ acc0.fault = 0 ∧ acc0.conf = 0)
    ∧ (let s := pkg blk0 { grp0 with park := some ⟨.wait, .lda acc0 5⟩, more := [⟨.wait, .lda acc0 4⟩] }
      (s.blk 1).life = .resident ∧ (s.grp 1 0).ended = false ∧ (s.grp 1 0).more ≠ []) := by
  and_intros <;> decide +kernel

theorem witness_ReleasesIssue :
    (∀ g ∈ [7, 8], AtIssue (.commit g) ctx0 s0 ∧ AtIssue (.fence 2 5 g) ctx0 s0 ∧ AtIssue (.str 0 4 5 2 g) ctx0 s0)
    ∧ (∀ i ∈ [Instr.commit 7, .fence 0 0 7, .fence 1 1 7, .fence 2 2 7, .str 0 4 5 1 7, .str 1 4 5 2 7],
      AtIssue i ctx0 s0 ∧ (issueOf i ctx0 s0).act ≠ 0 ∧ s0.releaseOk (issueOf i ctx0 s0) = true
        ∧ (s0.moved ctx0).loadsOut (issueOf i ctx0 s0) = false)
    ∧ (∀ i ∈ [Instr.commit 7, .fence 0 0 7, .str 0 4 5 1 7], AtIssue i ctx0 (sBuffer [store0])
      ∧ (sBuffer [store0]).releaseOk (issueOf i ctx0 (sBuffer [store0])) = false)
    ∧ (∀ i ∈ [Instr.commit 8, .fence 2 5 8, .str 0 4 5 2 8], (issueOf i ctx0 s0).act = 0)
    ∧ (let s := pkg blk0 { grp0 with loads := [{ acc0 with uid := 0 }] }
      AtIssue (.fence 1 5 7) ctx0 s ∧ (s.moved ctx0).loadsOut (issueOf (.fence 1 5 7) ctx0 s) = true)
    ∧ (∀ L, L < 32 → s0.checkOf 1 ((issueOf (.str 1 4 5 2 7) ctx0 s0).G.rv 4 L) 3 2 = 0)
    ∧ (s0.lsb (s0.blk 1).core).length < 64 := by
  and_intros <;> decide +kernel

/-- A held copy of line 0, and a commit that has taken it. -/
def held0 : Held := ⟨0xFF, 7, 0, 0, 0, 0, false, true, 0⟩

def sCommit (hosted : OMap HostLine) : State :=
  { pkg { blk0 with commits := [⟨5, [(0, some held0)], []⟩] } grp0 with die0 := { dieM with hostLines := hosted } }

theorem witness_CommitsTakeHeldCopies :
    ((pkg { blk0 with held := [(0, some held0)] } grp0).blk 1).commits = []
    ∧ (∀ h ∈ [([] : OMap HostLine), [(0, some ⟨true, false, none⟩)]],
      (sCommit h |>.blk 1).commits.find? (fun c => c.id == 5) = some ⟨5, [(0, some held0)], []⟩
        ∧ (sCommit h).hostCaches 0 held0.pa = !h.isEmpty ∧ ((sCommit h).partyOf 1).det = false)
    ∧ oget (Commit.lines ⟨5, [(0, some held0)], []⟩) 0 = some held0
    ∧ (oget (((sCommit []).landHeld 0 (lineKey 1 0) held0).die 0).l2 (lineKey 1 0)).isSome = true
    ∧ oget ((sCommit []).die 0).l2 (lineKey 1 0) = none
    ∧ (let s : State := { s0 with die0 := { dieM with l2 := [(lineKey 1 0, some { L2Line.empty with valid := 1 })] } }
      (oget ((s.landHeld 0 (lineKey 1 0) held0).die 0).l2 (lineKey 1 0)).isSome = true
        ∧ (oget (s.die 0).l2 (lineKey 1 0)).any (fun o => o.valid != 0) = true) := by
  and_intros <;> decide +kernel

/-- A line of HBM that stands in no memory-side cache. -/
theorem witness_mscFree : s0.mscFree 0 (hbmEnd / 128 - 1) := by
  refine ⟨fun x h => ?_, .inr ?_⟩
  · rw [show oget (s0.die 0).msc (hbmEnd / 128 - 1) = none by decide +kernel] at h; cases h
  · decide +kernel

theorem witness_HomeWritesAndWritesBack_merge :
    hbmEnd - 128 < hbmEnd ∧ (hbmEnd - 128) % 128 = 0
    ∧ (∀ i, i < 128 → bytesMask i 1 &&& bytesMask 0 8 = 0 ∨ bytesMask i 1 &&& bytesMask 0 8 = bytesMask i 1)
    ∧ oget (s0.die 0).l2 (lineKey 1 0) = none
    ∧ (let s : State := { s0 with die0 := { dieM with l2 := [(lineKey 1 0, some L2Line.empty)] } }
      (oget (s.die 0).l2 (lineKey 1 0)).any (fun x => !x.unc) = true) := by
  and_intros <;> decide +kernel

/-- A line of the memory-side cache with its first sector present and 8 bytes dirty. -/
def mscLine0 : MscLine := ⟨0xFF, bytesMask 0 64, bytesMask 0 8, 0, 0, 0⟩

theorem witness_HomeWritesAndWritesBack :
    hbmEnd - 128 < hbmEnd ∧ (hbmEnd - 128) % 128 = 0
    ∧ (∀ i, i < 128 → bytesMask i 1 &&& bytesMask 0 64 = 0 ∨ bytesMask i 1 &&& bytesMask 0 64 = bytesMask i 1)
    ∧ (let s : State := { s0 with die1 := { Die.zero with msc := [(2 ^ 45 - 1, some mscLine0)] } }
      oget (s.die 1).msc (2 ^ 45 - 1) = some mscLine0 ∧ mscLine0.bitmap = 0 ∧ mscLine0.dirty &&& ~~~mscLine0.valid = 0
        ∧ (s.die 1).linkDown (128 * (2 ^ 45 - 1)) = false) := by
  and_intros <;> decide +kernel

/-- A group with two parks, of which the second alone has cleared, each of the reasons at a boundary value of what clears
it, and parks that have not cleared. -/
theorem witness_ParksEnd :
    (∀ w ∈ [Await.barrier 15 1, .arrivals 0 0 0, .reissue, .timeline 15 0, .commit 0 false none none, .queue 8 0 0 false,
        .queue 0 32 64 true, .lines [0], .results, .nothing, .entry 1, .plot 0 8, .gbar 0, .cape 0],
      (sAwait w).parkCleared 1 0 = true)
    ∧ (∀ w ∈ [Await.barrier 15 0, .arrivals 0 1 0, .timeline 15 1, .phase 0, .queue 8 1 0 false, .queue 0 33 0 true,
        .queue 0 1 65 true], (sAwait w).parkCleared 1 0 = false)
    ∧ ({ sAwait (.phase 0) with grids := [(1, some { grid0 with phase := 1 })] } : State).parkCleared 1 0 = true
    ∧ (let y : Group := { grp0 with park := some ⟨.wait, .capb 0 0 0 0⟩, more := [⟨.wait, .nothing⟩] }
      ((pkg blk0 y).grp 1 0).parks = [⟨.wait, .capb 0 0 0 0⟩] ++ ⟨.wait, .nothing⟩ :: [] ∧ y.park.isSome = true
        ∧ y.ended = false) := by
  and_intros <;> decide +kernel

/-- One of those two parks has cleared, the other has not. -/
theorem witness_ParksEnd_cleared :
    (∀ w, ((sAwait w).grp 1 0).park = some ⟨.wait, w⟩)
    ∧ Cleared s0 1 0 .wait .nothing ∧ ¬ Cleared s0 1 0 .wait (.capb 0 0 0 0) := ⟨fun _ => rfl, trivial, id⟩

theorem witness_ParksEnd_ends :
    ((sAwait .reissue).grp 1 0).kept = none ∧ ((sAwait .reissue).grp 1 0).switchDue = false
    ∧ ((sAwait .reissue).grp 1 0).more = [] ∧ (sHandler.grp 1 0).level = true
    ∧ goesOn .nothing = true ∧ (s0.grp 1 0).level = false
    ∧ ((pkg blk0 { grp0 with flags := 0x21, flagen := 1 }).grp 1 0).flags &&& 1 ≠ 0
    ∧ (let s := pkg blk0 { grp0 with caprec := 0x1000 }
      s.capHost 1 0x1000 = none ∧ ({ s with die0 := { dieM with hostLines := [(32, some ⟨true, false, none⟩)] } } : State).capHost 1
        0x1000 = some (0, 0x1000))
    ∧ (let s : State := { pkg blk0 grpEret with
        die0 := { dieM with tlb := [(513 * 2 ^ 53, some ⟨2, 0x38, 0⟩), (513 * 2 ^ 53 + 2 ^ 52, some ⟨2, 0x1000000000038, 0⟩)] } }
      (s.readTrapArea 1 0).2.any (fun l => ((s.readTrapArea 1 0).1.writeSegs (s.partyOf 1) (2 ^ 52)
        (grpEret.programImage l)).2 == 0) = true)
    ∧ ((pkg blk0 { grpEret with frame := 0x40000000 }).readTrapArea 1 0).2 = none
    ∧ ((s0.readDesc 1 0).2.code = 0 ∧ (s0.readDesc 1 0).2.poison = false)
    ∧ s0.teamMembers 1 0 = some [1]
    ∧ (let y : Group := { grp0 with kept := some ⟨.wait, .reissue⟩, switchDue := true, outs := [out30] }
      y.more = [] ∧ y.level = false ∧ y.kept = some ⟨.wait, .reissue⟩
        ∧ (pkg blk0 { y with kept := none, park := none, switchDue := false }).waiting 1 0 = true) := by
  and_intros <;> decide +kernel

/-- A fault of a load that is ready. -/
def fault0 : DefFault := ⟨1, 1, 0, some acc0⟩

theorem witness_DeferredFaultsDeliver :
    (∀ level ∈ [false, true],
      let s := pkg blk0 { grp0 with ready := [fault0], level := level }
      (s.blk 1).life = .resident ∧ (s.grp 1 0).ended = false ∧ (s.grp 1 0).trapPend = none
        ∧ (s.grp 1 0).ready = [fault0] ∧ (s.grp 1 0).level = level ∧ (s.grp 1 0).park = none ∧ (s.blk 1).saving = false
        ∧ (s.grp 1 0).live ≠ 0 ∧ ([fault0].all fun x => !x.acc.any (·.handler)) = true)
    ∧ (Await.cape 0).inFlight = true ∧ ((sAwait (.cape 0)).grp 1 0).parks = [⟨.wait, .cape 0⟩]
    ∧ ((pkg { blk0 with saving := true } grp0).blk 1).saving = true
    ∧ (let x : DefFault := { fault0 with acc := some { acc0 with handler := true } }
      let s := pkg blk0 { grp0 with ready := [fault0, x], level := true }
      (s.grp 1 0).ready = [fault0] ++ x :: [] ∧ (s.grp 1 0).level = true ∧ x.acc.any (·.handler) = true) := by
  and_intros <;> decide +kernel

theorem witness_CancellationTraps :
    (let s : State := { s0 with grids := [(1, some { grid0 with cancelled := true, ctrap := true })] };
      (s.blk 1).life = .resident ∧ (s.blk 1).job = none ∧ (s.grp 1 0).ended = false ∧ (s.grp 1 0).level = false
        ∧ (s.grp 1 0).cancelTaken = false ∧ (s.gridOf 1).cancelled = true ∧ (s.gridOf 1).ctrap = true
        ∧ (s.grp 1 0).trapPend = none ∧ (s.grp 1 0).ready = [] ∧ (s.grp 1 0).parks = [] ∧ (s.blk 1).saving = false)
    ∧ (s0.gridOf 1).cancelled = false ∧ (sHandler.grp 1 0).level = true := by
  and_intros <;> decide +kernel

theorem witness_BlockBarriers :
    (∀ i ∈ [Instr.bar 15 7, .bara 0 7, .barc 2 3 7], AtIssue i ctx0 s0 ∧ (issueOf i ctx0 s0).act ≠ 0
      ∧ s0.releaseOk (issueOf i ctx0 s0) = true)
    ∧ (∀ i ∈ [Instr.bar 15 8, .bara 0 8, .barc 2 3 8], AtIssue i ctx0 s0 ∧ (issueOf i ctx0 s0).act = 0)
    ∧ (∀ i ∈ [Instr.bar 15 7, .bara 0 7], AtIssue i ctx0 (sBuffer [store0])
      ∧ (sBuffer [store0]).releaseOk (issueOf i ctx0 (sBuffer [store0])) = false) := by
  and_intros <;> decide +kernel

theorem witness_GridBarrier :
    (AtIssue (.gbar 7) ctx0 s0 ∧ (issueOf (.gbar 7) ctx0 s0).act ≠ 0 ∧ s0.releaseOk (issueOf (.gbar 7) ctx0 s0) = true)
    ∧ (AtIssue (.gbar 8) ctx0 s0 ∧ (issueOf (.gbar 8) ctx0 s0).act = 0)
    ∧ (AtIssue (.gbar 7) ctx0 (sBuffer [store0])
      ∧ (sBuffer [store0]).releaseOk (issueOf (.gbar 7) ctx0 (sBuffer [store0])) = false)
    ∧ ((oget s0.grids 1).isSome = true ∧ (s0.blk 1).expect ≠ 0 ∧ (s0.blk 1).arrived 0 = false)
    ∧ ((pkg blk0 { grp0 with phases := 1 }).blk 1).arrived 0 = true := by
  and_intros <;> decide +kernel

/-- The endless timeout and target 5 in v3. -/
def grpMask : Group := { grp0 with v := [(96, 0xFFFFFFFF00000005)] }

theorem witness_MaskWaits :
    (AtIssue (.maskw 4 2 3 7) ctx0 s0 ∧ (issueOf (.maskw 4 2 3 7) ctx0 s0).act ≠ 0 ∧ s0.checkOf 1 0 3 1 = 0)
    ∧ (AtIssue (.maskw 127 2 3 8) ctx0 s0 ∧ (issueOf (.maskw 127 2 3 8) ctx0 s0).act = 0)
    ∧ (let s := pkg blk0 grpMask
      AtIssue (.maskw 4 2 3 7) ctx0 s
        ∧ ((issueOf (.maskw 4 2 3 7) ctx0 s).G.rv 3 (lowest (issueOf (.maskw 4 2 3 7) ctx0 s).act)).toNat / 2 ^ 32 = 0xFFFFFFFF)
    ∧ (let s : State := { s0 with grids := [(1, some { grid0 with determ := true })] }
      AtIssue (.maskw 4 2 3 7) ctx0 s ∧ (s.gridOf 1).determ = true)
    ∧ (let s := sAwait (.maskw acc0 4 5 (some (0, 0)))
      let r := s.readLanes acc0 acc0.wait
      s.readWaits acc0 acc0.wait = false ∧ r.2.2.poison = false ∧ r.2.2.again = false ∧ r.2.1.fault = 0 ∧ r.2.1.conf = 0
        ∧ (s.grp 1 0).more = [] ∧ (s.blk 1).life = .resident ∧ (s.grp 1 0).ended = false
        ∧ (r.2.1.d0.getD (lowest acc0.wait) 0).toNat < 5 ∧ 0 ≤ s.cycles.toNat ∧ s.cycles.toNat < 1) := by
  and_intros <;> decide +kernel

/-- The block with a plot of its first n lines, of the shortest lifetime. -/
def blkPlot (n : Nat) : Block := { blk0 with plots := [(0, some ⟨0, n, 1, false⟩)] }

/-- The package with a plot of all eight lines. -/
def sBed : State := pkg (blkPlot 8) grp0

theorem witness_BedAccesses :
    (∀ i ∈ bedWords ++ [.lds 4 2 2 2 7, .sts 4 2 31 0 7], (bedRule (issueOf i ctx0 sBed) i).isSome = true
      ∧ AtIssue i ctx0 sBed ∧ (issueOf i ctx0 sBed).act ≠ 0)
    ∧ (AtIssue (.lds 4 2 2 1 8) ctx0 sBed ∧ (issueOf (.lds 4 2 2 1 8) ctx0 sBed).act = 0)
    ∧ (∀ q ∈ [((0 : Word), 8, 0), (2040, 8, 0), (2041, 8, 1), (2048, 8, 2), (2 ^ 64 - 8, 8, 2)],
      (sBed.blk 1).bedCheckOf q.1 q.2.1 = q.2.2)
    ∧ ((pkg (blkPlot 7) grp0).blk 1).bedCheckOf (7 * 256) 4 = 3
    ∧ ((pkg { blkPlot 8 with bedMeta := [(0, ⟨1, false, none⟩)] } grp0).blk 1).bedCheckOf 0 4 = 4
    ∧ (let s := pkg { blk0 with plots := [(0, some ⟨0, 8, 1, true⟩)], bedMeta := [(0, ⟨1, false, some 0x1000⟩)] }
        { grp0 with p := [(1, 1)] }
      AtIssue (.lds 4 2 0 1 1) ctx0 s ∧ (issueOf (.lds 4 2 0 1 1) ctx0 s).act = BitVec.twoPow 32 0
        ∧ (s.blk 1).bedCheckOf 0 8 = 0 ∧ (s.blk 1).expired 0 = true ∧ (s.blk 1).refetchFrom 0 = some 0x1000
        ∧ 0 ∉ s.claimed 1)
    ∧ (∀ l, l < 8 → ((sBed.blk 1).bedLine l).absent = false ∧ ((sBed.blk 1).bedLine l).age < 1 ∧ l ∉ sBed.claimed 1)
    ∧ (let s := pkg { blkPlot 8 with bedMeta := [(0, ⟨0, true, none⟩)] } { grp0 with p := [(1, 1)] }
      AtIssue (.lds 4 2 0 1 1) ctx0 s ∧ (issueOf (.lds 4 2 0 1 1) ctx0 s).act = BitVec.twoPow 32 0
        ∧ (s.blk 1).bedCheckOf 0 8 = 0 ∧ ((s.blk 1).bedLine 0).absent = true) := by
  and_intros <;> decide +kernel

/-- A group with a count of n lines in v1, a lifetime in v2, and a handle in v10. -/
def grpPlot (n life h : Word) : Group := { grp0 with v := [(32, n), (64, life), (320, h)] }

/-- A line that has all its words. -/
def land0 : Landing := ⟨0, 0, 0, 0, none, BitVec.allOnes 64, 7, 0, false⟩

/-- A command that copies to lines 0 and on of the block's Bed. -/
def cmd0 : Command :=
  { blk := 1, grp := 0, queue := 0, seq := 1, pc := 0, pusher := 0, tl := 3, num := 1, words := [], after := 0,
    state := .taken, next := 0, landing := [land0], failAt := none, stat := 0,
    detail := 0, out := [], sending := false, refetch := false }

theorem witness_BedPlots :
    (∀ q ∈ [((1 : Nat), (1 : Nat)), (8192, 50), (0, 1), (8193, 1), (1, 0), (1, 51)],
      let s := pkg blk0 (grpPlot (BitVec.ofNat 64 q.1) (BitVec.ofNat 64 q.2) 0)
      AtIssue (.plot 10 1 2 1 7) ctx0 s
        ∧ (issueOf (.plot 10 1 2 1 7) ctx0 s).G.rv 1 (lowest (issueOf (.plot 10 1 2 1 7) ctx0 s).act)
          = BitVec.ofNat 64 q.1)
    ∧ (∀ i ∈ [Instr.plot 10 1 2 1 8, .unplot 10 8, .renew 10 8], AtIssue i ctx0 s0 ∧ (issueOf i ctx0 s0).act = 0)
    ∧ (∀ i ∈ [Instr.unplot 10 7, .renew 10 7, .pres 127 4, .pres 5 4], AtIssue i ctx0 s0 ∧ (issueOf i ctx0 s0).act ≠ 0)
    ∧ ((s0.blk 1).plotOf 0 = none ∧ oget (s0.blk 1).plots 0 = none)
    ∧ (let s := pkg (blkPlot 8) (grpPlot 1 1 (8 * 2 ^ 50))
      AtIssue (.unplot 10 7) ctx0 s ∧ (s.blk 1).plotOf (8 * 2 ^ 50) = some (0, ⟨0, 8, 1, false⟩)
        ∧ (∀ l ∈ s.claimed 1, l < 0 ∨ 8 ≤ l) ∧ s.plotCopies 1 0 8 = false)
    ∧ ({ sBed with cmds := [(9, some cmd0)] } : State).plotCopies 1 0 8 = true := by
  and_intros <;> decide +kernel

/-- Room for eight lines at line 0 of an empty region, and room for none where a plot has them all. -/
theorem witness_BedPlots_room :
    (s0.blk 1).fitsAt 8 0 ∧ (∀ m, m < 0 → ¬ (s0.blk 1).fitsAt 8 m) ∧ ∀ l, ¬ (sBed.blk 1).fitsAt 1 l := by
  refine ⟨⟨by decide +kernel, by decide +kernel⟩, fun m h => absurd h (by omega), fun l h => ?_⟩
  have hx : sBed.blk 1 = { blkPlot 8 with groups := [(0, some grp0)] } := by decide +kernel
  rw [hx] at h
  have h2 := h.2 (0, ⟨0, 8, 1, false⟩) (by decide)
  have h1 : l + 1 ≤ 8 := h.1
  dsimp only at h2
  omega

theorem witness_BedMoments :
    (sBed.blk 1).liveLines.count 7 = 1 ∧ 8 ∉ (sBed.blk 1).liveLines
    ∧ (let x : Block := { blk0 with plots := [(0, some ⟨0, 8, 1, true⟩)], bedMeta := [(7, ⟨1, false, some 0x1000⟩)] }
      x.refetchFrom 7 = some 0x1000)
    ∧ (let s : State := { sBed with cmds := [(9, some cmd0)] }
      s.cmd 9 = some cmd0 ∧ cmd0.landing.find? (fun e => e.line == 0) = some land0
        ∧ 0 ∉ s.claimed 1 ∧ (s.blk 1).plotAt 0 ≠ none ∧ (s0.blk 1).plotAt 0 = none ∧ land0.words.getLsbD 63 = true
        ∧ cmd0.landing.all (fun e => e.line == 0) = true) := by
  and_intros <;> decide +kernel

/-- The group with a header that asks for n further words in s4 and v4 of lane 0, and q1 holding one word. -/
def grpQueue (n : Nat) : Group := { grpSome with
  v := [(128, BitVec.ofNat 64 (n * 2 ^ 48))]
  u := [(4, BitVec.ofNat 64 (n * 2 ^ 48))]
  queues := [(1, [5])] }

theorem witness_QueueWords :
    (∀ n ∈ [0, 31], let s := pkg blk0 (grpQueue n)
      let I := issueOf (.qw 0 4 1 7) ctx0 s
      AtIssue (.qw 0 4 1 7) ctx0 s ∧ I.act ≠ 0 ∧ (ctx0.group s).queue 0 ++ pushedWords I 4 1 = [BitVec.ofNat 64 (n * 2 ^ 48)]
        ∧ bits (BitVec.ofNat 64 (n * 2 ^ 48) : Word) 48 8 = n ∧ s.pushed 1 < 64 ∧ s.releaseOk I = true)
    ∧ (let s := pkg blk0 { grp0 with queues := [(0, [5])] }
      AtIssue (.qw 0 4 0 7) ctx0 s
        ∧ 32 < ((ctx0.group s).queue 0 ++ pushedWords (issueOf (.qw 0 4 0 7) ctx0 s) 4 0).length)
    ∧ (∀ i ∈ [Instr.qw 1 4 1 7, .qr 0 6 0 7, .qr 1 6 1 7, .qr 8 6 1 7, .tlw 5 15 1 7],
      AtIssue i ctx0 (pkg blk0 (grpQueue 0)) ∧ (issueOf i ctx0 (pkg blk0 (grpQueue 0))).act ≠ 0)
    ∧ (∀ i ∈ [Instr.qw 1 4 1 8, .qr 0 6 0 8, .tlw 5 15 1 8], AtIssue i ctx0 s0 ∧ (issueOf i ctx0 s0).act = 0)
    ∧ (((ctx0.group (pkg blk0 (grpQueue 0))).queue 1).length = 1 ∧ ((ctx0.group (pkg blk0 (grpQueue 0))).queue 8).length < 1)
    ∧ (sget 0 (s0.blk 1).issued 15 < 1 ∧ 0 ≤ sget 0 (s0.blk 1).issued 15) := by
  and_intros <;> decide +kernel

/-- Words in memory, each at its address. -/
def memW (l : List (Nat × Word)) : SMap Byte :=
  l.flatMap fun q => ((List.range 8).map fun k => (q.1 + k, q.2.extractLsb' (8 * k) 8)).filter fun b => b.2 != 0

/-- The package with command 9. -/
def sCmd (k : Command) : State := { sBed with cmds := [(9, some k)] }

/-- A linear copy of one row of n bytes in a direction, from 0x1000 or line 0 of the Bed to line 0 or 0x1000. -/
def copy0 (dir n : Nat) : Command := { cmd0 with
  landing := []
  words := [BitVec.ofNat 64 (2 ^ 60 + 4 * 2 ^ 48 + dir * 2 ^ 28), if dir = 2 then 0 else 0x1000,
    if dir = 1 then 0 else 0x2000, BitVec.ofNat 64 (2 ^ 32 + n), 0] }

/-- A ragged copy of one row. -/
def ragged0 : Command := { cmd0 with
  landing := []
  words := [0x2005000010000000, 0x1000, 0, 0x2000, 0x400010000, 0x100000400] }

theorem witness_CopyCommands :
    (∀ q ∈ [(0, 4), (1, 2048), (2, 2048)],
      (sCmd { copy0 q.1 q.2 with state := .pushed }).linearOk { copy0 q.1 q.2 with state := .pushed } = true
        ∧ (sCmd { copy0 q.1 q.2 with state := .pushed }).cmd 9 = some { copy0 q.1 q.2 with state := .pushed })
    ∧ (∀ q ∈ [(4, 4), (1, 2052), (1, 3)], (sCmd (copy0 q.1 q.2)).linearOk (copy0 q.1 q.2) = false)
    ∧ (sCmd ragged0).raggedOk ragged0 = true ∧ (sCmd cmd0).raggedOk cmd0 = false
    ∧ ((sBed.blk 1).committed 0 = true ∧ (sBed.blk 1).life ≠ .saved ∧ (oget sBed.blocks 1).isSome = true)
    ∧ (let k := { copy0 1 512 with landing := [{ land0 with left := 64 }, { land0 with line := 1, left := 64 }] }
      256 * k.next < k.linear.total ∧ k.linear.fromMem = true ∧ k.linear.toMem = false ∧ (k.pieces 0).length = 2
        ∧ (∀ p, p ∈ k.pieces 0 → (sCmd k).hostTakes ((sCmd k).partyOf 1) (BitVec.ofNat 64 p.src) = none)
        ∧ ((sCmd k).readPieces ((sCmd k).partyOf 1) (k.pieces 0)).2.1 = 0
        ∧ (let s : State := { sCmd k with die0 := { dieM with poison := setPoison [] 0x1000 1 true } }
          (s.readPieces (s.partyOf 1) (k.pieces 0)).2.1 = 3))
    ∧ (let k := copy0 2 512
      let l := (k.pieces 0).map fun p => (⟨p, (sBed.blk 1).bedRead p.src p.len, 0⟩ : Moved)
      k.linear.fromMem = false ∧ k.linear.toMem = true
        ∧ (sCmd k).bedSource 1 ((k.pieces 0).map fun p => p.src / 256).eraseDups = .ready
        ∧ ({ pkg { blkPlot 8 with bedMeta := [(0, ⟨1, false, none⟩)] } grp0 with cmds := [(9, some k)] } : State).bedSource 1
          ((k.pieces 0).map fun p => p.src / 256).eraseDups = .stale
        ∧ ((sCmd k).probePieces ((sCmd k).partyOf 1) l).2.1 = 0
        ∧ ((sCmd k).probePieces ((sCmd k).partyOf 1) l).1.hostHolds ((sCmd k).probePieces ((sCmd k).partyOf 1) l).2.2 = none)
    ∧ ((copy0 1 512).linear.total ≤ 256 * { copy0 1 512 with next := 2 }.next
      ∧ chunkFaultOut (sCmd { copy0 1 512 with next := 2 }) 9 = false)
    ∧ ((sCmd ragged0).engineRead ((sCmd ragged0).partyOf 1) 0x1000 4).2.stat = 0
    ∧ (let k : Command := { ragged0 with state := .pushed, next := 0 }
      let w (m : List (Nat × Word)) : Walked :=
        walkRows k ((sCmd k).partyOf 1) 1 0 ⟨{ sCmd k with mem := memW m }, 0, none, [], [], [], [], false⟩
      (sCmd k).raggedOk k = true ∧ (w [(0x2000, 5)]).bad = false ∧ (w [(0x2000, 5)]).asks = []
        ∧ (w [(0x2000, 5)]).s.cmd 9 = some k ∧ (oget (w [(0x2000, 5)]).s.blocks 1).isSome = true ∧ (w [(0x2000, 5)]).j = 1)
    ∧ (let k : Command := { ragged0 with state := .pushed, words := (ragged0.words.set 1 0x1FFFFFFFFFFFFC).set 4 0x800010000 }
      (sCmd k).raggedOk k = true ∧ (walkRows k ((sCmd k).partyOf 1) 1 0
        ⟨{ sCmd k with mem := memW [(0x2000, 2)] }, 0, none, [], [], [], [], false⟩).bad = true) := by
  and_intros <;> decide +kernel

/-- A command with a header that asks for a completion word (bit 31) or not. -/
def done0 (w : Bool) : Command := { cmd0 with landing := [], words := [if w then 0x80000000 else 0] }

/-- A PUT or a GET of n bytes at 0x1000. -/
def kv0 (kind n : Nat) : Command := { cmd0 with
  landing := []
  queue := 4
  words := [BitVec.ofNat 64 (kind * 2 ^ 60 + 4 * 2 ^ 48), 0x1000, 0, 0, BitVec.ofNat 64 n, 0] }

theorem witness_CommandsComplete :
    (∀ w ∈ [true, false], let s := sCmd (done0 w)
      s.cmd 9 = some (done0 w) ∧ (s.blk 1).life = .resident ∧ (done0 w).reports = w ∧ (s.grp 1 0).ended = false
        ∧ ((s.grp 1 0).queue 1).length < 32
        ∧ s.queueBusy 9 { done0 w with sending := true, out := [completionWord (done0 w)] } = false)
    ∧ ({ done0 false with failAt := some (0, 4) }.failAt = some (0, 4) ∧ { done0 false with failAt := some (0, 4) }.queue < 4)
    ∧ ((oitems (sCmd { done0 false with state := .done }).cmds).any fun c => c.2.blk == 1 && c.2.tl == 3
      && c.2.num == sget 0 (sBed.blk 1).done 3 + 1 && c.2.state == .done) = true
    ∧ (∀ kind ∈ [1, 2], ∀ n ∈ [64, 2 ^ 31], (kv0 kind n).kvOk kind = true)
    ∧ (∀ n ∈ [0, 2 ^ 31 + 64, 65], (kv0 1 n).kvOk 1 = false)
    ∧ (sCmd (kv0 1 64)).peerEntry (kv0 1 64) = none
    ∧ ({ sCmd (kv0 1 64) with mem := [(7, 0x80)] } : State).peerEntry (kv0 1 64)
      = some [0, 0, 0, 0, 0, 0, 0, 0x80, 0, 0, 0, 0, 0, 0, 0, 0, 0, 0, 0, 0, 0, 0, 0, 0, 0, 0, 0, 0, 0, 0, 0, 0]
    ∧ ((kv0 1 64).kv.len ≤ 256 * { kv0 1 64 with next := 1 }.next ∧ 256 * (kv0 1 64).next < (kv0 1 64).kv.len
      ∧ (kv0 1 64).kv.runs 0 = [0] ∧ (sCmd (kv0 2 64)).getHeld (kv0 2 64) = none)
    ∧ (let s := sCmd (kv0 1 64)
      (s.engineRead (s.kvParty 1) 0x1000 64).2.stat = 0 ∧ (s.engineProbe (s.kvParty 1) 0x1000).2.1 = 0
        ∧ s.rangeTaken (s.kvParty 1) 0x1000 64 = [] ∧ swf none s.cmds = true)
    ∧ ({ done0 true with sending := true }.out = [] ∧ (done0 true).refetch = false)
    ∧ (let s : State := { sCmd (kv0 1 64) with mem := [(7, 0x80)] }
      ((s.engineRead (s.kvParty 1) 0x1000 64).1.peerEntry (kv0 1 64)).isSome = true) := by
  and_intros <;> decide +kernel

/-- A stack or mask command with its words. -/
def eng0 (words : List Word) : Command := { cmd0 with landing := [], queue := 2, words := words }

/-- A GEMV of one row of 32 elements. -/
def gemv0 : Command := eng0 [0x1005000033000000, 0x1000, 0, 0x2000, 0x3000, 0x100000020]

/-- SOPEN of one element at 0x1000, and SCLOSE. -/
def sopen0 : Command := { eng0 [0x2002000000010000, 0x1000, 1] with state := .pushed }

def sclose0 : Command := { eng0 [0x3000000000000000] with state := .pushed }

theorem witness_StackAndMaskEngines :
    ((sCmd gemv0).stackReady gemv0 = true ∧ gemv0.gemvOk = true
      ∧ ((sCmd gemv0).engineReadRange ((sCmd gemv0).partyOf 1) gemv0.gemv.av (lineFuel gemv0.gemv.vecBytes)
        gemv0.gemv.vecBytes).2.1 = 0)
    ∧ (let s := sCmd gemv0
      let t := s.engineReadRange (s.partyOf 1) gemv0.gemv.be (lineFuel gemv0.gemv.rowBytes) gemv0.gemv.rowBytes
      let u := t.1.engineReadRange (s.partyOf 1) gemv0.gemv.bh (lineFuel gemv0.gemv.hdrBytes) gemv0.gemv.hdrBytes
      let v := u.1.engineProbe (s.partyOf 1) 0x3000
      gemv0.next < gemv0.gemv.m ∧ t.2.1 = 0 ∧ u.2.1 = 0 ∧ v.2.1 = 0
        ∧ (v.1.engineTags (s.partyOf 1) (lineNo 0x3000) 0 4 true).2.1 = 0 ∧ s.hostCaches 0 v.2.2.pa = false
        ∧ s.rangeTaken (s.partyOf 1) gemv0.gemv.be gemv0.gemv.rowBytes = []
        ∧ s.rangeTaken (s.partyOf 1) gemv0.gemv.bh gemv0.gemv.hdrBytes = [])
    ∧ (gemv0.gemv.m ≤ { gemv0 with next := 1 }.next ∧ (sCmd gemv0).feedsOut 1 gemv0.gemv.yv 4 = false)
    ∧ ((sCmd sopen0).stackReady sopen0 = true ∧ (sCmd sopen0).sopenOk 9 sopen0 = true
      ∧ (sCmd { eng0 [] with state := .pushed }).sopenOk 9 { eng0 [] with state := .pushed } = false
      ∧ (sCmd sopen0).feedsOut 1 0x1000 4 = false ∧ oget (sBed.die 0).sieves 511 = none)
    ∧ takeFeed 1 0x1000 [(1, 0x1000, 5)] = (some 5, [])
    ∧ ((sCmd gemv0).rangeTaken ((sCmd gemv0).partyOf 1) gemv0.gemv.av gemv0.gemv.vecBytes = []
      ∧ gemv0.words.length ≤ 6 ∧ 6 < { gemv0 with words := gemv0.words ++ [0] }.words.length)
    ∧ ((fp32.value 0x7FC00000).isNan = true ∧ (fp32.value 0).isNan = false)
    ∧ (let v := Sieve.fresh 1 0 1 0x1000 1 1 0 0
      let s : State := { pkg { blk0 with sieve := [(0, some 511)] } grp0 with
        cmds := [(9, some sclose0)], die0 := { dieM with sieves := [(511, some v)] } }
      s.stackReady sclose0 = true ∧ sclose0.isKind 3 0 = true ∧ oget (s.blk 1).sieve sclose0.slot = some 511
        ∧ oget (s.die 0).sieves 511 = some v ∧ s.feedsOut v.space v.row (4 * v.n) = false)
    ∧ ((eng0 [0x1003000000000000]).maskOk = true ∧ (eng0 []).maskOk = false)
    ∧ (let s : State := { sCmd (eng0 []) with die1 := { Die.zero with jobs := [9] } }
      (s.die 1).jobs = [9] ∧ s.jobsOn 1 7 < 16) := by
  and_intros <;> decide +kernel

/-- The same value in register r of every lane. -/
def grpAll (r : Nat) (w : Word) : Group := { grp0 with v := (List.range 32).map fun L => (32 * r + L, w) }

/-- An engine of block 1 whose plane holds 4-bit elements. -/
def mx0 : Machine.Matrix := { Machine.Matrix.zero with owner := some 1, meanFmt := 6 }

def sMatrix (m : Machine.Matrix) (g : Group) : State :=
  { pkg { blk0 with bedLines := 1024, plots := [(0, some ⟨0, 1024, 50, false⟩)] } g with
    cores := [(0, some { core0 with mx := m })] }

/-- A good format word, with spreads, in v9. -/
def sMx : State := sMatrix mx0 (grpAll 9 0x1166)

theorem witness_MatrixIssues :
    (∀ i ∈ matrixWords, isMatrix i = true ∧ AtIssue i ctx0 sMx ∧ (issueOf i ctx0 sMx).act = BitVec.allOnes 32)
    ∧ (AtIssue (.mchk 8 8) ctx0 sMx ∧ (issueOf (.mchk 8 8) ctx0 sMx).act = 0)
    ∧ ((sMx.mxOf 1).owner = some 1 ∧ (sMx.mxOf 1).staged = none ∧ sMx.inTeam 1 = false)
    ∧ ((sMatrix { mx0 with owner := some 2 } grp0).mxOf 1).owner = some 2
    ∧ (∀ L, L < 32 → (issueOf (.mma 3 9 1 1 7) ctx0 sMx).G.rv 9 L = 0x1166)
    ∧ (fmtWordOk 0x1166 = true ∧ fmtWordOk 0 = false)
    ∧ ((sMatrix mx0 { grp0 with v := [(288, 1)] }).grp 1 0).rv 9 0 ≠ ((sMatrix mx0 { grp0 with v := [(288, 1)] }).grp 1 0).rv 9 1
    ∧ (∀ i ∈ [Instr.mma 3 9 1 1 7, .dmma 3 9 2 7, .mma2 4 9 0 7],
      (matrixRule i).any (fun A => !A.clashes mx0 0x1166) = true
        ∧ (matrixRule i).any (fun A => A.clashes { mx0 with meanFmt := 5 } 0x1166) = true)
    ∧ (∀ n ∈ [footprint 6, 2 * footprint 6, 1024],
      (sMx.blk 1).tileCheckOf 0 n = 0 ∧ (sMx.blk 1).tileCode 0 n = 0)
    ∧ (∀ k, k < 320 → ((sMx.blk 1).bedLine k).absent = false ∧ k ∉ sMx.claimed 1)
    ∧ ((sMx.blk 1).tileCheckOf 1 1 = 1 ∧ (sMx.blk 1).tileCheckOf 256 1024 = 2)
    ∧ (sMx.isSource 1 (.mma 3 9 1 1 7) = true
      ∧ (sMatrix { mx0 with team := 1 } grp0).isSource 1 (.mma 3 9 1 1 7) = true)
    ∧ ((10 : Word).toNat < 16 ∧ 10 / 4 ≠ 3 ∧ 10 % 4 ≠ 3 ∧ (12 : Nat) / 4 = 3) := by
  and_intros <;> decide +kernel

/-- An instruction in the engine, paired as the member of a team of one or not. -/
def inEngine (i : Instr) (pair : Nat) : MatInstr :=
  ⟨[], 1, 1, 0, 1, i, 0, 0x1166, 0, BitVec.allOnes 32, [], [], [], pair⟩

/-- A drain that has claimed line 0. -/
theorem witness_BedMoments_claimed :
    (sMatrix { mx0 with exec := some { inEngine (.mdrn 5 9 1 7) 0 with claims := [0] } } grp0).claimed 1 = [0] := by
  decide +kernel

theorem witness_MatrixExecutes :
    (∀ i ∈ matrixWords, ((sMatrix { mx0 with exec := some (inEngine i 0) } grp0).core 0).mx.exec = some (inEngine i 0))
    ∧ (let i := inEngine (.mma 3 9 1 1 7) 1
      let s := sMatrix { mx0 with exec := some i, sent := [i] } grp0
      (s.core 0).mx.exec = some i ∧ s.broadcast 1 i = some i)
    ∧ (let i := inEngine (.mma 3 9 1 1 7) 1
      let s := sMatrix { mx0 with exec := some i, team := 5 } grp0
      s.broadcast 1 i = none ∧ s.members 1 5 = none)
    ∧ (let i := inEngine (.mma 3 9 1 1 7) 1
      let e := { i with blk := 2 }
      let s : State := { sMatrix { mx0 with exec := some i, team := 1 } grp0 with
        blocks := [(1, some { blk0 with lcore := 1, groups := [(0, some grp0)] }), (2, some { blk0 with core := 1 })]
        grids := [(1, some { grid0 with team := 1, blocks := 2, lcores := 2 })]
        cores := [(0, some { core0 with mx := { mx0 with exec := some i, team := 1 } }),
          (1, some { core0 with mx := { mx0 with owner := some 2, team := 1, sent := [e] } })] }
      s.broadcast 1 i = some e ∧ e.blk ≠ i.blk)
    ∧ ((oget (sMatrix mx0 grp0).blocks 1).isSome = true ∧ (oget ((sMatrix mx0 grp0).blk 1).groups 0).isSome = true)
    ∧ isPaired (.mma 3 9 1 1 7) = true := by
  and_intros <;> decide +kernel

/-- A program at 0 and a record at 0x1000: CAPB, a body of NOP, and CAPE, and a lock word. -/
def capMem (lk : Word) : SMap Byte := memW [(0, 0x0200000737001001), (8, 0x37400007), (0x1000, lk)]

/-- One lane at CAPB, with the record's address in v1. -/
def grpCap : Group := { grpSome with v := [(32, 0x1000)] }

def sCap (lk : Word) (g : Group) : State := { pkg blk0 g with mem := capMem lk }

/-- A group that executes the capsule at 0x1000 in lane 0. -/
def grpIn : Group := { grpSome with caprec := 0x1000, cap := some ⟨0, true, none, none, []⟩ }

/-- The lock of that executor. -/
def lockOf (L : Nat) (done : Bool) : Word := lockWord true true done 1 (execFields 1 0 0 L)

/-- A group parked for that lock. -/
def sAtLock (lk : Word) : State := { sAwait (.capb 0x1000 0 4 8) with mem := capMem lk }

/-- A record in a host window. -/
def sHosted (g : Group) : State := { pkg blk0 g with
  mem := capMem 0
  cores := [(0, some { core0 with summary := [(2 ^ 23, some (7, [])), (2 ^ 23 + 2 ^ 22, some (7, []))] })]
  die0 := { dieM with tlb := [(513 * 2 ^ 53, some ⟨2, 0x38, 0⟩), (513 * 2 ^ 53 + 2 ^ 52, some ⟨2, 0x1000000000038, 0⟩)] } }

theorem witness_Capsules :
    (AtIssue (.capb 1 1) ctx0 (sCap 0 grpCap) ∧ (issueOf (.capb 1 1) ctx0 (sCap 0 grpCap)).act = BitVec.twoPow 32 0)
    ∧ (AtIssue (.capb 1 7) ctx0 s0 ∧ (issueOf (.capb 1 7) ctx0 s0).act ≠ BitVec.twoPow 32 0)
    ∧ (∀ i ∈ [Instr.capb 1 8, .cape 8, .capr 9 2 8], AtIssue i ctx0 s0 ∧ (issueOf i ctx0 s0).act = 0)
    ∧ (AtIssue (.capb 1 1) ctx0 (pkg blk0 { grpCap with caprec := 0x2000 }) ∧ (0x1000 : Word) ≠ 0x2000)
    ∧ ((0x10FF : Word).toNat % 256 ≠ 0 ∧ (0x1000 : Word).toNat % 256 = 0)
    ∧ (let s := sCap 0 grpCap
      s.checkOf 1 0x1000 3 3 = 0 ∧ (s.translate 1 0x1000 3).2.code = 0 ∧ inHost (s.translate 1 0x1000 3).2.pa = false
        ∧ s.capBad 1 0x1000 = false)
    ∧ (∀ q ∈ [(0x37400007, true), (0, false)],
      let s : State := { sCap 0 grpCap with mem := memW [(0, 0x0200000737001001), (8, BitVec.ofNat 64 q.1)] }
      let f := ((s.moved ctx0).lookUp 0 1 1 fun _ => 0x1000).fetchBody 1 4 64
      f.2.code = 0 ∧ (f.2.ok && ctx0.pc == ctx0.wpc && !ctx0.word.getLsbD 31) = q.2)
    ∧ (let s := sHosted grpCap
      s.checkOf 1 0x10000000001000 3 3 = 0 ∧ inHost (s.translate 1 0x10000000001000 3).2.pa = true)
    ∧ (let s := sAtLock (0)
      s.capPoison 1 0x1000 = false ∧ s.capBad 1 0x1000 = false ∧ (s.blk 1).life = .resident
        ∧ s.capHost 1 0x1000 = none ∧ (s.grp 1 0).more = []
        ∧ ({ s with mem := memW [(0x10C8, 1)] } : State).capBad 1 0x1000 = true
        ∧ lockHeld (s.capWord 1 0x1000 0) = false ∧ lockDone (s.capWord 1 0x1000 0) = false)
    ∧ (let s := sAtLock (lockOf 0 false)
      s.capPoison 1 0x1000 = false ∧ s.capBad 1 0x1000 = false ∧ (s.blk 1).life = .resident
        ∧ lockHeld (s.capWord 1 0x1000 0) = true ∧ lockDone (s.capWord 1 0x1000 0) = false)
    ∧ (let s := sAtLock (lockOf 0 true)
      s.capPoison 1 0x1000 = false ∧ s.capBad 1 0x1000 = false ∧ (s.blk 1).life = .resident
        ∧ lockHeld (s.capWord 1 0x1000 0) = true ∧ lockDone (s.capWord 1 0x1000 0) = true)
    ∧ (∀ g ∈ [1, 7], AtIssue (.cape g) ctx0 (sCap (lockOf 0 false) grpIn))
    ∧ ((issueOf (.cape 1) ctx0 (sCap 0 grpIn)).act = BitVec.twoPow 32 0
      ∧ (issueOf (.cape 7) ctx0 (sCap 0 grpIn)).act ≠ BitVec.twoPow 32 0
      ∧ (sCap 0 grpIn).releaseOk (issueOf (.cape 1) ctx0 (sCap 0 grpIn)) = true ∧ (sCap 0 grpIn).bodyOut (issueOf (.cape 1) ctx0 (sCap 0 grpIn)) = false)
    ∧ ((sCap 0 grpIn).stale 1 0 0 0x1000 = true ∧ ((sCap 0 grpIn).moved ctx0).stale 1 0 0 0x1000 = true)
    ∧ AtIssue (.cape 1) ctx0 (sCap 0 { grpIn with loads := [acc0] })
    ∧ (let s : State := { sCap 0 grpIn with mem := memW [(0x1000, lockOf 0 false), (0x1008, 1)] }
      s.stale 1 0 0 0x1000 = false ∧ (s.moved ctx0).stale 1 0 0 0x1000 = false)
    ∧ (∀ g ∈ [7, 8], AtIssue (.capr 9 2 g) ctx0 s0)
    ∧ (let s := sCap (lockWord false false true 7 0) { grp0 with lastCap := some (0x1000, 7) }
      AtIssue (.capr 9 7 7) ctx0 s ∧ lockGen ((s.moved ctx0).capWord 1 0x1000 0) = 7
        ∧ lockDone ((s.moved ctx0).capWord 1 0x1000 0) = true)
    ∧ (∀ poc ∈ [false, true], let a := { store0 with poc := poc, act := 1, wait := 1 }
      let s : State := { sAwait (.step a grp0.regs) with mem := memW [(0x1000, lockOf 0 false), (0x1008, 1)] }
      (s.grp 1 0).park = some ⟨.wait, .step a grp0.regs⟩ ∧ s.stale 1 0 0 0x1000 = false ∧ s.stale 1 0 0 0x2000 = true
        ∧ (s.translate 1 (a.vaAt 0) 2).2.code = 0 ∧ (s.blk 1).committed a.after = true
        ∧ inHost (s.translate 1 (a.vaAt 0) 2).2.pa = false ∧ s.hostCaches 0 (s.translate 1 (a.vaAt 0) 2).2.pa = false
        ∧ s.capHost 1 0x1000 = none)
    ∧ (let s := sHosted grp0
      (s.translate 1 0x80000000 2).2.code ≠ 0 ∧ inHost (s.translate 1 0x10000000001000 3).2.pa = true)
    ∧ ((sCommit []).blk 1).committed 5 = false
    ∧ (let y : Group := { grpIn with cap := some ⟨31, false, some ⟨[1], 0, 8⟩, none, []⟩, caprec := 0x1000 }
      let s := sCap (lockOf 0 false) y
      let z := s.setAwait 1 0 (.capsule 31)
      (s.grp 1 0).level = false ∧ z.capHost 1 0x1000 = none ∧ (z.acquire 1 4).ownerIs 1 0 31 0x1000 = false) := by
  and_intros <;> decide +kernel

/-- A launch descriptor: a kernel record at 0x2000, one block, a status word at 0x4000; or a cancellation of a grid. -/
def descKernel : Desc :=
  { target := 0x2000, args := 0, blocks := 0, lcores := 0, kind := 0, ctrap := false, q8 := false, prio := 3,
    preempt := 192, rkey := 0, rctr := 0, bitmap := 0, status := 0x4000, cgrid := 0 }

/-- A kernel record: one block, one logical core, one group, one Bed line, SMODE 1. -/
def kernelMem : SMap Byte := memW [(0x2008, 0x100010000), (0x2010, BitVec.ofNat 64 (2 ^ 50 + 2 ^ 42))]

/-- A package with n live grids. -/
def sGrids (n : Nat) : State :=
  { s0 with mem := kernelMem, grids := (List.range n).map fun k => (k + 1, some grid0) }

theorem witness_LaunchesAndBitmaps :
    (∀ i ∈ [Instr.launch 3 4 7, .compl 2 3 7, .waitc 2 3 7], AtIssue i ctx0 s0 ∧ (issueOf i ctx0 s0).act ≠ 0
      ∧ s0.releaseOk (issueOf i ctx0 s0) = true)
    ∧ (∀ i ∈ [Instr.launch 3 4 8, .compl 2 3 8, .waitc 2 3 8], AtIssue i ctx0 s0 ∧ (issueOf i ctx0 s0).act = 0)
    ∧ (let s := pkg blk0 { grp0 with p := [(1, 2)] }
      AtIssue (.launch 3 4 1) ctx0 s ∧ lowest (issueOf (.launch 3 4 1) ctx0 s).act ≠ 0)
    ∧ (s0.checkOf 1 0 6 1 = 0 ∧ s0.checkOf 1 8 3 3 = 0 ∧ s0.checkOf 1 8 3 1 = 0 ∧ s0.checkOf 1 0 3 1 = 0)
    ∧ (∀ i ∈ [Instr.launch 3 4 7, .compl 2 3 7], AtIssue i ctx0 (sBuffer [store0])
      ∧ (sBuffer [store0]).releaseOk (issueOf i ctx0 (sBuffer [store0])) = false)
    ∧ (let s := pkg blk0 { grp0 with waitOk := true }
      AtIssue (.waitc 2 3 7) ctx0 s ∧ (issueOf (.waitc 2 3 7) ctx0 s).G.waitOk = true)
    ∧ (issueOf (.waitc 2 3 7) ctx0 s0).G.waitOk = false
    ∧ ((issueOf (.launch 3 4 7) ctx0 s0).act.getLsbD 0 = true ∧ (s0.lsb 0).length < 64) := by
  and_intros <;> decide +kernel

theorem witness_LaunchesAndBitmaps_submit :
    (s0.isUnder 1 1 = true ∧ s0.isUnder 1 2 = false)
    ∧ (descKernel.kind = 0 ∧ descKernel.ok = true ∧ ((sGrids 1).readKernel 1 descKernel).2.isSome = true
      ∧ (s0.readKernel 1 descKernel).2.isSome = false)
    ∧ ((sGrids 4095).liveGrids < 4096 ∧ 4096 ≤ (sGrids 4096).liveGrids)
    ∧ ({ grid0 with depth := 9 }.depth < 10 ∧ 10 ≤ { grid0 with depth := 10 }.depth) := by
  and_intros <;> decide +kernel

theorem witness_PrivilegedWords :
    (∀ i ∈ [Instr.ctxsv 2 7, .ctxld 2 7, .tlbi 2 7, .psumi 2 7], AtIssue i ctx0 sHandler ∧ (issueOf i ctx0 sHandler).act ≠ 0)
    ∧ (∀ i ∈ [Instr.ctxsv 2 8, .ctxld 2 8, .tlbi 2 8, .psumi 2 8], AtIssue i ctx0 sHandler ∧ (issueOf i ctx0 sHandler).act = 0)
    ∧ (sHandler.releaseOk (issueOf (.ctxsv 2 7) ctx0 sHandler) = true
      ∧ (issueOf (.ctxsv 2 7) ctx0 sHandler).G.rv 2 0 = 0 ∧ (0xFFF : Nat) % 4096 ≠ 0)
    ∧ (let s := pkg blk0 { grp0 with v := [(64, 0xFFF)], level := true }
      AtIssue (.ctxsv 2 7) ctx0 s ∧ AtIssue (.ctxld 2 7) ctx0 s
        ∧ (issueOf (.ctxld 2 7) ctx0 s).G.rv 2 (lowest (issueOf (.ctxld 2 7) ctx0 s).act) = 0xFFF)
    ∧ (bits (0x60000000000000 : Word) 53 2 ≠ 0 ∧ bits (0xFFF : Word) 0 12 ≠ 0 ∧ bits (0x3FFFFFFF : Word) 0 30 ≠ 0)
    ∧ ((0x80000000000000 : Word).getLsbD 55 = true ∧ bits (0x80000000000000 : Word) 53 2 = 0)
    ∧ (sBuffer [store0]).releaseOk (issueOf (.ctxsv 2 7) ctx0 (sBuffer [store0])) = false := by
  and_intros <;> decide +kernel

/-- The image that a group at handler level loads: at 0, with the trap area at 0x100000. -/
def sImage : State := { pkg blk0 { grpFramed with level := true } with mem := [(7, 1)] }

def imageRead (s : State) : State × Nat × List Byte :=
  ((s.moved ctx0).acquire 1 4).readSeg ((s.moved ctx0).partyOf 1) 0 imageSize

theorem witness_PrivilegedWords_image :
    (imageRead sImage).2.1 = 0 ∧ headerBad (imageRead sImage).2.2 = false
      ∧ tableBad (((imageRead sImage).2.2.drop 0x100).take 256) = false
      ∧ headerBad (imageRead sHandler).2.2 = true := by
  decide +kernel

theorem witness_ContextsAndErrors :
    ((s0.blk 1).life = .resident ∧ (s0.blk 1).job = none ∧ (s0.blk 1).held = [] ∧ (s0.blk 1).count = 0)
    ∧ ((pkg { blk0 with held := [(0, some held0)] } grp0).blk 1).held ≠ []
    ∧ (let s := pkg { blk0 with bframe := 0x200000, saving := true } { grpFramed with ended := true }
      s.quiet 1 = true ∧ (((oitems (s.blk 1).groups).foldl (fun s g => (s.deschedule 1 g.1).updGrp 1 g.1 Group.parkForSave)
        s).writeFrames 1).2 = true)
    ∧ (let s := pkg { blk0 with life := .saved } grp0
      (s.blk 1).life = .saved ∧ (oget s.grids 1).isSome = true ∧ s.mayUse 1 191 = true ∧ s.fits 1 191 = true
        ∧ (s.blk 1).ownedMx = false)
    ∧ ((pkg { blk0 with job := some ⟨0, 0, 0⟩ } grp0).blk 1).job.isSome = true
    ∧ (∀ q ∈ [((0 : BitVec 32), 1, true), (0, 2, false), (1, 0, false)],
      let x := (pkg { blk0 with count := q.1, relaunches := q.2.1 } grp0).blk 1
      decide (x.count = 0 ∧ x.relaunches < 2) = q.2.2)
    ∧ s0.capsuleCommitted 1 = false
    ∧ (s0.bedRead? 1 = false ∧ ({ s0 with cmds := [(9, some (copy0 2 512))] } : State).bedRead? 1 = true
      ∧ ((pkg { blk0 with bedTaken := true, saving := true } grp0).blk 1).bedTaken = true)
    ∧ ((pkg { blk0 with held := [(0, some held0)], saving := true } grp0).settled 1 = true
      ∧ ({ sBed with blocks := [(1, some { blk0 with groups := [(0, some { grp0 with outs := [out30] })] })] } : State).settled 1
        = false)
    ∧ (s0.grp 1 0).parks = []
    ∧ (let s : State := { pkg blk0 { grp0 with twinBad := true } with grids := [(1, some { grid0 with twin := true })] }
      s.twinDue 1 = true ∧ s0.twinDue 1 = false)
    ∧ (({ s0 with grids := [(1, some { grid0 with cancelled := true })] } : State).grid 1).cancelled = true := by
  and_intros <;> decide +kernel

/-- A queue of two descriptors that the host has filled, at 0x1000. -/
def queue0 : Queue := { Queue.zero with
  ring := 0x1000, depthLog := 1, space := 1, prio := 15, en := true, arena := 0x10000000, arenaSize := 0x8C0000, prod := 1 }

def sQueue (m : SMap Byte) : State := { s0 with queues := [(65535, some queue0)], mem := m }

/-- A grid that has been accepted, and one that runs with a frame slice and a block to start. -/
def gridNew : Grid := { grid0 with state := .accepted, queue := 65535 }

def gridRuns : Grid := { grid0 with slice := some 0x10000000, ranges := [(0, some (0, 4))], blocks := 4, remap := [(0, some 0)] }

def sRuns : State := { s0 with blocks := [], grids := [(1, some gridRuns)] }

theorem witness_GridsRun :
    (let s := sQueue [];
      s.waitingPrios = [15] ∧ s.waitingPrios.find? s.agedPrio = none ∧ s.waitingQueues 15 ≠ [])
    ∧ (let s : State := { sQueue [] with passed := [(15, 1)], cycles := 0x100001 }
      s.waitingPrios.find? s.agedPrio = some 15)
    ∧ ((sQueue []).readWords 1 0x1000 8).2 = some [0, 0, 0, 0, 0, 0, 0, 0]
    ∧ ((descOf [0, 0, 0x8000]).kind = 2 ∧ (descOf [0, 0, 0x8000]).ok = true ∧ (descOf [0, 0, 0x4000, 0, 0, 0, 64]).ok = true)
    ∧ (let s : State := { sQueue [] with grids := [(1, some gridNew)] }
      (s.grid 1).slice = none ∧ (s.grid 1).graph = false
        ∧ s.firstSlice (s.grid 1).queue ((s.grid 1).lcores * 0x8C0000) = some 0x10000000)
    ∧ (gridRuns.determ = false ∧ gridRuns.left 11 = 0 ∧ gridRuns.stealFrom 11 = some 0 ∧ gridRuns.stealFrom 5 = some 0
      ∧ gridRuns.unit = 1)
    ∧ ((sQueue []).waitingQueues 15 = [65535] ∧ (sQueue []).liveGrids < 4096)
    ∧ (let s : State := { sQueue [] with queues := [(65535, some { queue0 with ring := 0x40000000 })] }
      (s.readWords 1 0x40000000 8).2 = none)
    ∧ (sRuns.turnOf 1 0 = .start 0 0 ∧ oget gridRuns.remap 0 = some 0 ∧ sRuns.mayUse 1 0 = true ∧ sRuns.fits 1 0 = true
      ∧ gridRuns.slice.isSome = true ∧ 0 < gridRuns.lcores ∧ gridRuns.state = .running)
    ∧ (s0.claimants 191 = [])
    ∧ (let s : State := { s0 with grids := [(1, some { grid0 with state := .draining })] }
      s.children 1 = [])
    ∧ (let s : State := { s0 with grids := [(1, some { grid0 with state := .draining }), (2, some { grid0 with parent := some 1 })] }
      s.children 1 ≠ [])
    ∧ (({ grid0 with state := .retired, q8 := some (1, 0) }.q8 = some (1, 0)) ∧ ((s0.grp 1 0).queue 8).length < 32) := by
  and_intros <;> decide +kernel

/-- A core that a logical core may go to, unplaced and placed. -/
theorem witness_GridsRun_claims :
    (sRuns.claimants 0).map (fun e => (e.lcore, e.placed)) = [(0, true)]
    ∧ (let s : State := { sRuns with grids := [(1, some { gridRuns with remap := [] })] }
      (s.claimants 0).map (fun e => (e.gid, e.placed, s.fits e.gid 0, (s.grid e.gid).unit)) = [(1, false, true, 1)])
    ∧ (({ sRuns with grids := [(1, some { gridRuns with remap := [] })] } : State).claimants 0).length = 1
    ∧ sRuns.ahead 1 0 0 = none
    ∧ (let s : State := { sRuns with
        grids := [(1, some { gridRuns with lcores := 2, remap := [(0, some 0), (1, some 0)], waitAt := [(1, 5)] })] }
      s.turnOf 1 1 = .start 0 0 ∧ s.mayUse 1 0 = true ∧ s.fits 1 0 = true
        ∧ (s.ahead 1 1 0).map (fun c => (c.gid, c.lcore)) = some (1, 0) ∧ s.ahead 1 0 0 = none) := by
  and_intros <;> decide +kernel

/-- A graph that stands before a node at 0x1000, with the loops it is inside. -/
def sGraph (node : List Word) (loops : List LoopPos) (more : List (Nat × Word)) : State :=
  { s0 with
    grids := [(1, some { grid0 with graph := true, space := 1, node := 0x1000, loops := loops })]
    mem := memW (more ++ (List.range node.length).map fun k => (0x1000 + 8 * k, node.getD k 0)) }

def loop0 (due : Bool) : LoopPos := ⟨0x1000, 5, due, none⟩

theorem witness_GraphsRun :
    s0.graphReady 1 = false
    ∧ (let s := sGraph [0x1000000000000000, 0x1040, 0x800] [] []
      s.graphReady 1 = true ∧ (s.grid 1).cancelled = false ∧ (s.readNode 1 0x1000).2 = some (1, 0x1040, 0x800, 0, 0)
        ∧ (s.readWords 1 0x800 8).2 = some [0, 0, 0, 0, 0, 0, 0, 0] ∧ (descOf [0, 0, 0, 0, 0, 0, 0, 0]).kind = 0
        ∧ (s.grid 1).depth < 10 ∧ s.liveGrids < 4096)
    ∧ (let s := sGraph [0x2000000000000000, 0x1040, 0x1080, 0x808, 5] [loop0 true] []
      s.graphReady 1 = true ∧ (s.readNode 1 0x1000).2 = some (2, 0x1040, 0x1080, 0x808, 5)
        ∧ (s.readNode 1 0x1000).1.vread 1 0x808 8 = ((s.readNode 1 0x1000).1, 0, 0))
    ∧ ((List.replicate 3 (loop0 false)).head?.any (·.due) = false ∧ (List.replicate 3 (loop0 false)).length < 4
      ∧ 4 ≤ (List.replicate 4 (loop0 false)).length)
    ∧ (let s := sGraph [0x3000000000000000, 0x1040, 0x800] [] [(0x800, 1)]
      (s.readNode 1 0x1000).2 = some (3, 0x1040, 0x800, 0, 0) ∧ (s.admitSlots 1 0x800).2 = some 0) := by
  and_intros <;> decide +kernel

/-- A peer's entry 0 of the peer table, for job 0, index 0 and space 1. -/
def sPeer : State := { s0 with mem := [(7, 0x80), (0x18, 1)] }

theorem witness_HostAccesses :
    (∀ i ∈ [Instr.hostBar2Read 0 1, .doorbellWrite 0 0, .inboundRmaRead 0 0 0 0 1], needsPorts i = true)
    ∧ (State.reset.boot ≠ .running ∧ s0.boot = .running)
    ∧ (bar2Backed (hbmEnd - 1) 1 = true ∧ bar2Backed (hbmEnd - 1) 2 = false ∧ bar2Backed (bar2Half + hbmEnd - 128) 128 = true
      ∧ bar2Backed (2 * bar2Half) 1 = false)
    ∧ (inHbm ((hbmEnd / 128 - 1) * 128) = true ∧ inHbm (hbmEnd / 128 * 128) = false)
    ∧ (let s : State := { s0 with die1 := { Die.zero with hostLines := [(5, some ⟨true, false, some 7⟩)] } }
      (oget (s.die 1).hostLines 5).isSome = true ∧ (oget (s.die 1).hostLines 5).bind (·.data) = some 7
        ∧ (oget (s.die 1).hostLines 6).bind (·.data) = none ∧ oget (s.die 1).hostLines 6 = none)
    ∧ (∀ need ∈ [1, 2, 3], ((sPeer.inbound 0 0 0 need 0x1000 8).2.any fun r => (sPeer.inboundHeld r.2).isNone && (sPeer.inboundTaken r.2).isEmpty)
      = true)
    ∧ (sPeer.inbound 0 0 0 1 (2 ^ 53) 8).2 = none := by
  and_intros <;> decide +kernel

theorem witness_PortsAndProtection :
    (∀ e ∈ [true, false], let s : State := { s0 with die0 := { dieM with ports := [(4, some ⟨0x100000000000, 2 ^ 28, e, true⟩)] } }
      ((oitems (s.die 0).ports).any fun q => q.1 != 0 && q.2.enabled && rangesMeet q.2.base q.2.size 0x100000000000 (2 ^ 28)) = e)
    ∧ rangesMeet 0x100000000000 (2 ^ 28) (0x100000000000 + 2 ^ 28) (2 ^ 28) = false
    ∧ (∃ x, s0.blocks = [(1, some x)])
    ∧ (∃ q ∈ acc0.poisonRemote.reqs, q.line = 0)
    ∧ ((oitems s0.blocks).any fun b => b.2.life == .resident && b.2.job.isNone && clusterOfCore b.2.core == 0) = true
    ∧ ((oitems s0.blocks).any fun b => b.2.life == .resident && b.2.job.isNone && clusterOfCore b.2.core == 11) = false
    ∧ sget false s0.fused 11 ≠ true
    ∧ (let a : Access := { acc0 with
        reqs := [⟨0, 1, true, false, true, 0, 0, 0, ⟨0, 0, 0, 0⟩⟩] }
      let s : State := { pkg blk0 { grp0 with loads := [a] } with
        cores := [(0, some { core0 with l1 := [(lineKey 1 0, some line0)] })] }
      ((s.blk 1).crossing.map (·.1)) = [0] ∧ (oget (s.core 0).l1 (lineKey 1 0)).isSome = true)
    ∧ (let s : State := { s0 with die0 := { dieM with l2 := [(5, some L2Line.empty), (6, some { L2Line.empty with way7 := true })] } }
      (oget ((s.clearWay7 0).die 0).l2 5).isSome = true ∧ (oget ((s.clearWay7 0).die 0).l2 6).isSome = false) := by
  refine ⟨by decide +kernel, by decide +kernel, ⟨_, rfl⟩, by decide +kernel, by decide +kernel, by decide +kernel,
    by decide +kernel, by decide +kernel, by decide +kernel⟩

theorem witness_HostRegisters :
    ((sQueue []).queue 65535 = queue0 ∧ (sQueue []).boot = .running)
    ∧ (queue0.en = true ∧ queue0.prod ≤ (2 : Word).toNat ∧ (2 : Word).toNat ≤ queue0.cons + 2 ^ queue0.depthLog)
    ∧ (queue0.cons + 2 ^ queue0.depthLog < (3 : Word).toNat ∧ (0 : Word).toNat < queue0.prod)
    ∧ (s0.queue 65535).en = false := by
  and_intros <;> decide +kernel

theorem witness_ManagementController :
    (∀ i ∈ [Instr.mailboxAttest, .mailboxTelemetryRead, .mailboxClearSuspect, .mailboxSetPowerCap, .mailboxReadCertificate,
      .mailboxLoadFirmware 0], (mailboxNumber i).isSome = true ∧ (∀ j ∈ s0.agenda, isMail j = false) ∧ isMail i = true)
    ∧ (s0.boot ≠ .rom ∧ s0.mailbox.status ≠ 1 ∧ State.reset.boot = .rom)
    ∧ (let s : State := { s0 with mailbox := ⟨4, 1000, 0, 1, 0⟩, boot := .recovery 0 }
      s.boot ≠ .rom ∧ s.mailbox.status = 1 ∧ mailboxNumber .mailboxSetPowerCap = some s.mailbox.cmd
        ∧ 1000 ≤ s.mailbox.arg0.toNat ∧ s.boot = .recovery 0)
    ∧ ((2800 : Word).toNat ≤ 2800 ∧ (999 : Word).toNat < 1000 ∧ 2800 < (2801 : Word).toNat)
    ∧ ((1 * 128 + 5 * 16 + 15 : Nat) < 256 ∧ 6 ≤ (96 : Word).toNat / 16 % 8) := by
  and_intros <;> decide +kernel

/-- The state after an instruction. -/
def after (i : Instr) (s : State) : State := match exec i s with | .next t => t | _ => s

/-! ### Sets, packets, numbers, records, tables, claims and teams -/

/-- The package with three words at 0 and a schedule that issues them. -/
def sPacket (w0 w1 w2 : Nat) (g : Group) : State :=
  { pkg blk0 { g with active := true } with
    mem := memW [(0, BitVec.ofNat 64 (w0 + 2 ^ 32 * w1)), (8, BitVec.ofNat 64 w2)], script := [.issue 1 0] }

/-- A word of a set at address 0, and the state after it alone. -/
def aloneAt (u : State) (next : Word) (w : SetWord) : State :=
  after (w.instr.getD (.nop 7)) { u with cur := some ⟨1, 0, BitVec.allOnes 32, (u.grp 1 0).guard w.inherited, 0,
    BitVec.ofNat 64 (4 * w.pos), next, BitVec.ofNat 32 w.bits, some (u.grp 1 0, (u.blk 1).rkey, (u.blk 1).rctr), u.fresh, 0, .none⟩ }

/-- A word has gone. -/
def goes (t : State) : Bool := match t.result with | .blocked => false | .trapped _ => false | _ => true

/-- Sets of two and three words that all go, and one whose second word traps. -/
theorem witness_StepRunsDecodedWord_set :
    (∀ q ∈ [(0x88081117, 0x949073C7, 0x00410002, 3), (0x949073C7, 0x12460200, nopWord, 2), (0x88081117, 0x00710002, nopWord, 2)],
      let s := sPacket q.1 q.2.1 q.2.2.1 grp0
      let f := (s.toIssue 1 0).fetchPacket 1 0
      ({ s with script := [] } : State).mayIssue 1 0 = true ∧ (s.grp 1 0).trapPend = none ∧ f.2 = ⟨0, f.2.va, [q.1, q.2.1, q.2.2.1]⟩
        ∧ packetOk q.1 q.2.1 q.2.2.1 0 = true ∧ (entrySet q.1 q.2.1 q.2.2.1 0).length = q.2.2.2)
    ∧ (∀ q ∈ [(0x88081117, 0x949073C7, 0x00410002, [true, true, true]), (0x949073C7, 0x12460200, nopWord, [true, true]),
        (0x88081117, 0x00710002, nopWord, [true, false])],
      let u := sPacket q.1 q.2.1 q.2.2.1 grpSome
      let ws := setWords 7 (entrySet q.1 q.2.1 q.2.2.1 0)
      setTrap ws (u.grp 1 0) u 1 = none ∧ ws.map (fun w => goes (aloneAt u 12 w)) = q.2.2.2) := by
  and_intros <;> decide +kernel

/-- A group whose lanes stand at an address. -/
def grpPc (pc : Word) : Group := { grp0 with active := true, pc := (List.range 32).map fun L => (L, pc) }

/-- A packet that cannot be fetched, for each cause; an illegal packet, by its last word's chain bit and by its entry; and a
set whose second word decodes to nothing. -/
theorem witness_EncodingTraps_packet :
    (∀ q ∈ [((2 : Word), 1), (2 ^ 53 + 4, 2), (0x40000000, 3)],
      let s : State := { pkg blk0 (grpPc q.1) with script := [.issue 1 0] }
      ({ s with script := [] } : State).mayIssue 1 0 = true ∧ (s.grp 1 0).trapPend = none
        ∧ (((s.toIssue 1 0).grp 1 0).headRun).1 = BitVec.allOnes 32
        ∧ ((s.toIssue 1 0).fetchPacket 1 (((s.toIssue 1 0).grp 1 0).headRun).2).2.code = q.2)
    ∧ (∀ q ∈ [(nopWord, nopWord, 0x82000007), (0x10460000, 0, nopWord)],
      let s := sPacket q.1 q.2.1 q.2.2 grp0
      let f := (s.toIssue 1 0).fetchPacket 1 0
      let e := if q.1 = nopWord then 0 else 1
      f.2 = ⟨0, f.2.va, [q.1, q.2.1, q.2.2]⟩ ∧ packetOk q.1 q.2.1 q.2.2 e = false)
    ∧ (let s := sPacket 0x88081117 0 nopWord grp0
      let f := (s.toIssue 1 0).fetchPacket 1 0
      f.2 = ⟨0, f.2.va, [0x88081117, 0, nopWord]⟩ ∧ packetOk 0x88081117 0 nopWord 0 = true
        ∧ entrySet 0x88081117 0 nopWord 0 = [⟨0, 0x88081117, 0, 1⟩] ++ ⟨1, 0, 0, 1⟩ :: []
        ∧ (match decodeWord 0x88081117 0 with | .ok i => i.legal | .error _ => false) = true
        ∧ (match decodeWord 0 0 with | .ok _ => false | .error _ => true) = true)
    ∧ ((s0.blk 1).core = 0 ∧ packetBase 8 = 0
      ∧ summaryPerm (s0.summaryOf 0 1 0) 0 &&& 4 = 4 ∧ summaryPerm (s0.summaryOf 0 1 0x40000000) 0x40000000 &&& 4 ≠ 4
      ∧ (let s : State := { s0 with cores := [(0, some { core0 with summary := [(2 ^ 23 + 1, some (7, []))] })] }
        summaryPerm (s.summaryOf 0 1 0x40000000) 0x40000000 &&& 4 = 4
          ∧ ((s.cacheSummary 0 1 0x40000000).seek 1 0x40000000 4 4).2.code ≠ 0)) := by
  and_intros <;> decide +kernel


/-- Operands at the ends of what the statements of numbers take: the largest finite number and sample, a negative one and
zero; two weights of which one is bad, and none. -/
theorem witness_DistributionResults_numbers :
    ((0x007000003F800000 : Word).toNat < 2 ^ 56
      ∧ Numbers.isNan fp32 ((laneAdd .ind false 0 0x007000003F800000 0x007000003F800000).val.toNat % 2 ^ 32) = false)
    ∧ (SMode.ind ≠ .smp ∧ SMode.trk ≠ .smp ∧ (0x7F7FFFFF : Word).toNat < 2 ^ 32)
    ∧ (Numbers.isNan fp32 0x7FC00000 = true ∧ Numbers.isInf fp32 0xFF800000 = true ∧ Numbers.signBit fp32 0xFF800000 = true)
    ∧ (∀ x ∈ [(0 : Nat), 0x7F7FFFFF, 0x80000001], Numbers.isNan fp32 x = false ∧ Numbers.isInf fp32 x = false)
    ∧ (Numbers.signBit fp32 0x80000001 = true ∧ Numbers.units fp32 0x80000001 ≠ 0)
    ∧ Numbers.specialCases.length ≠ 0
    ∧ (let up (a : Nat → Word) : Nat := ((List.range 2).map fun j => Numbers.weightOf true (a j)).sum
      up (fun _ => 0x3F800000) ≠ 0 ∧ up (fun _ => 0) = 0)
    ∧ (Numbers.weightBad 0xBF800000 = true ∧ Numbers.weightBad 0x3F800000 = false) := by
  and_intros <;> decide +kernel

/-- Cells and operands at the ends of what the statements of the matrix engine's numbers take. -/
theorem witness_MatrixExecutes_numbers :
    ((0x7FC00000000000 : Nat) < 2 ^ 56 ∧ Numbers.isNan a56 0x7FC00000000000 = true ∧ Numbers.isInf a56 0x7F800000000000 = true
      ∧ Numbers.isNan a56 0xFF800000000000 = false ∧ Numbers.signBit a56 0xFF800000000000 = true)
    ∧ (let l : List FVal := [.inf false, .fin true 1 (2 ^ 0)]
      (l.any fun x => x matches .inf false) = true ∧ (l.any fun x => x matches .inf true) = false ∧ (l.any FVal.isNan) = false)
    ∧ (let l : List FVal := [.fin true 1 (2 ^ 3), .fin false 0 (2 ^ 0)]
      l.all (fun x => match x with | .fin _ _ d => d == 2 ^ (if d = 1 then 0 else 3) | _ => false) = true)
    ∧ (List.replicate 128 fzero).length = 128
    ∧ (BitVec.toNat (0xFF800000000000 : BitVec 56) = 0xFF800000000000 ∧ Numbers.isNan a56 (BitVec.toNat (0x7FC00000000000 : BitVec 56)) = true)
    := by
  and_intros <;> decide +kernel

/-- A load that failed in lane 31 and is record 0. -/
def accBad : Access := { acc0 with uid := 5, seq := 5, wait := 0, fault := BitVec.twoPow 32 31, op := 0x9A }

/-- The same as record 0 of a group in its ERET. -/
def grpReplay (r : Bool) : Group :=
  { grpEret with park := some ⟨.switch, .eret r⟩, record0 := some ⟨1, 5, 0, some accBad⟩ }

theorem witness_HandlerReturn_record :
    (∀ r ∈ [true], let s := pkg blk0 (grpReplay r)
      (s.grp 1 0).record0.bind (·.acc) = some accBad ∧ s.waiting 1 0 = false ∧ s.entriesOf 1 0 = []
        ∧ (s.readSeg (s.partyOf 1) ((s.grp 1 0).frame.toNat + 0x6000) 0x400).2.1 = 0)
    ∧ (let s := pkg blk0 { grpReplay true with frame := 0x3FFFF000 }
      (s.readTrapArea 1 0).2.isSome = true ∧ (s.readSeg (s.partyOf 1) ((s.grp 1 0).frame.toNat + 0x6000) 0x400).2.1 ≠ 0)
    ∧ (accBad.kind ≠ 6 ∧ accBad.kind ≠ 2 ∧ accBad.kind ≠ 3 ∧ accBad.op < 0xA6 ∧ accBad.fault ||| accBad.conf ≠ 0
      ∧ (∀ L, L < 32 → (accBad.fault ||| accBad.conf).getLsbD L = true → s0.checkOf 1 (accBad.vaAt L) accBad.logsz 1 = 0)
      ∧ (s0.grp 1 0).loads = [])
    ∧ ((s0.grp 1 0).faultLeft 5 = false ∧ ((pkg blk0 { grp0 with ready := [⟨1, 5, 0, some accBad⟩] }).grp 1 0).faultLeft 5 = true
      ∧ accBad.dreg + (if accBad.logsz = 4 then 1 else 0) < 32)
    ∧ (∀ kind ∈ [2, 3], let a : Access := { accBad with kind := kind }
      let s := sBuffer [a]
      s.entry (s.blk 1).core 5 = some a ∧ (s0.entry (s0.blk 1).core 5) = none
        ∧ ∀ L, L < 32 → (a.fault ||| a.conf).getLsbD L = true → s.checkOf 1 (a.vaAt L) a.logsz (if kind = 3 then 3 else 2) = 0)
    ∧ (let a : Access := { accBad with op := 0xA6 }
      ((sAwait (.lda a 5)).grp 1 0).await.any (fun w => w.access.any fun e => e.seq == a.seq) = true
        ∧ 0xA6 ≤ a.op ∧ ∀ L, L < 32 → (a.fault ||| a.conf).getLsbD L = true → s0.checkOf 1 (a.vaAt L) a.logsz 1 = 0) := by
  and_intros <;> decide +kernel


/-- One lane in a capsule body that has touched some lines, with an address in v1 and v4. -/
def sBody (va : Word) (lines : Nat) : State :=
  pkg blk0 { grpIn with
    v := [(32, va), (128, va)]
    cap := some ⟨0, true, none, none, (List.range lines).map (100 + ·)⟩ }

theorem witness_AccessFaults_body :
    (∀ n ∈ [7, 8], let s := sBody 0x4000 n
      let I := issueOf (.ldd 9 1 0 0 1) ctx0 s
      AtIssue (.ldd 9 1 0 0 1) ctx0 s ∧ I.act = BitVec.twoPow 32 0 ∧ I.inBody = true
        ∧ I.G.cap = some ⟨0, true, none, none, (List.range n).map (100 + ·)⟩
        ∧ s.checkOf 1 0x4000 3 1 = 0 ∧ bits (0x4000 : Word) 51 2 = bits I.G.caprec 51 2
        ∧ (capLines ⟨0, true, none, none, (List.range n).map (100 + ·)⟩ I.G.caprec
            (linesOf I.act fun _ => 0x4000)).length = n + 1)
    ∧ (let s : State := { sBody (2 ^ 51) 0 with
        cores := [(0, some { core0 with summary := [(2 ^ 23, some (7, [])), (2 ^ 23 + 2 ^ 21, some (7, []))] })] }
      s.checkOf 1 (2 ^ 51) 3 1 = 0 ∧ bits (2 ^ 51 : Word) 51 2 ≠ bits (0x1000 : Word) 51 2)
    ∧ (oget (s0.core 0).summary (summaryKey 1 0) = some (7, []) ∧ oget (s0.core 0).summary (summaryKey 1 0x40000000) = none) := by
  and_intros <;> decide +kernel

/-- Stores and atomics of a capsule body, before and after a result that keeps them. -/
theorem witness_StoresIssue_body :
    (∀ i ∈ [Instr.stb 9 4 0 1 1, .red 4 5 0 1], let s := sBody 0x4000 0
      let I := issueOf i ctx0 s
      AtIssue i ctx0 s ∧ I.act ≠ 0 ∧ I.inBody = true ∧ s.checkOf 1 0x4000 3 3 = 0 ∧ I.capTrap I.act (fun _ => 0x4000) = none
        ∧ s.releaseOk I = true ∧ s.bodyOut I = false)
    ∧ (let s := pkg blk0 { grpIn with outs := [out30] }
      s.bodyOut (issueOf (.stb 9 4 0 1 1) ctx0 s) = true ∧ (issueOf (.stb 9 4 0 1 1) ctx0 s).inBody = true)
    ∧ ((sBuffer (others 64)).lsb 0).length = 64 := by
  and_intros <;> decide +kernel

/-- A line of space 1 in an L2, with its first sector there. -/
def l2Line0 : L2Line := { L2Line.empty with valid := bytesMask 0 32, rMark := true }

/-- A load of line 0, or of line 1 of home 1 at its die. -/
theorem witness_LineRequestHits_miss :
    (∀ q ∈ [([] : OMap L2Line), [(lineKey 1 0, some l2Line0)]],
      let s : State := { pkg blk0 { grp0 with loads := [acc0] } with die0 := { dieM with l2 := q } }
      (s.grp 1 0).loads.find? (fun e => e.uid == 1) = some acc0 ∧ acc0.poc = false ∧ (s.partyOf 1).det = false
        ∧ s.l1Hit (s.partyOf 1) 0 acc0.hint (needOf acc0 (BitVec.twoPow 32 31)) = none
        ∧ (s.fetchLine (s.partyOf 1) 0 acc0.hint (needOf acc0 (BitVec.twoPow 32 31)) true).2.code = 0)
    ∧ (let s := s0
      (s.fetchLine (s.partyOf 1) (2 ^ 30) 0 1 true).2.code ≠ 0 ∧ (s.fetchLine (s.partyOf 1) (2 ^ 30) 0 1 true).2.code ≠ 16)
    ∧ (let s : State := { s0 with die0 := { dieM with hostLines := [(0, some ⟨true, false, none⟩)] } }
      (s.fetchLine (s.partyOf 1) 0 0 1 true).2.code = 16 ∧ (s.translate 1 0 1).2.code = 0
        ∧ (s.translate 1 0 1).1.hostWrites 0 (s.translate 1 0 1).2.pa = true)
    ∧ (sectorsOf (bytesMask 0 8) &&& ~~~l2Line0.valid = 0 ∧ ownerOfLine 0 = 0 ∧ ownerOfLine (2 ^ 44) = 1)
    ∧ (let r := s0.translate 1 0 1
      r.2.code = 0 ∧ inHost r.2.pa = false ∧ r.1.hostWrites 0 r.2.pa = false ∧ oget (r.1.die 0).l2 (lineKey 1 0) = none
        ∧ r.1.copiesOn 0 = [] ∧ r.1.roomL2 0 (lineKey 1 0) false = (r.1, some false))
    ∧ (let r := (sHosted grp0).translate 1 0x10000000001000 1
      r.2.code = 0 ∧ inHost r.2.pa = true)
    ∧ (s0.l1At 0 (lineKey 1 0)).isNone = true := by
  and_intros <;> decide +kernel

/-- A tag of each row of the table, and a tag that a deterministic block finds, finds stale, and finds no room for. -/
theorem witness_LineRequestHits_tags :
    ((⟨1, 0, none, 0, 1, 3, 0, false, 0, false⟩ : Tag).rsum = 1 ∧ (⟨1, 0, none, 0, 2, 0, 0, false, 0, false⟩ : Tag).rsum = 2
      ∧ (⟨1, 0, some 3, 1, 0, 0, 0, false, 0, false⟩ : Tag).wid = some 3 ∧ (⟨1, 0, none, 0, 0, 0, 1, true, 3, false⟩ : Tag).aop ≠ 0)
    ∧ (let t : Tag := ⟨0, 0, none, 0, 0, 0, 0, false, 0, false⟩
      let s : State := { s0 with
        grids := [(1, some { grid0 with determ := true })]
        die0 := { dieM with l2 := [(lineKey 1 0, some l2Line0)], tags := [(lineKey 1 0 * 4 + 3, some t)] } }
      (s.partyOf 1).det = true ∧ oget (s.die 0).tags (lineKey 1 0 * 4 + 127 / 32) = some t ∧ t.gslot = (s.grid 1).gslot
        ∧ t.phase = (s.partyOf 1).phase ∧ (s.die 0).lostTags.contains (lineKey 1 0 * 4 + 3) = false
        ∧ oget (s.die 0).tags (lineKey 1 0 * 4) = none ∧ (oget (s.die 0).l2 (lineKey 1 0)).isSome = true
        ∧ oget (s.die 0).l2 (lineKey 1 1) = none ∧ (s.die 0).overflow.contains (lineKey 1 1 * 4) = false) := by
  and_intros <;> decide +kernel

/-- A die whose overflow store is full of current tags. -/
def sFull (n : Nat) : State := { s0 with
  grids := [(1, some { grid0 with determ := true })]
  die0 := { dieM with tags := [(7, some ⟨0, 0, none, 0, 0, 0, 0, false, 0, false⟩)], overflow := List.replicate n 7 } }

theorem witness_LineRequestHits_full (n : Nat) :
    (((sFull n).dropStale 0).die 0).overflow.length = n ∧ ((sFull n).die 0).overflow.contains (lineKey 1 0 * 4) = false := by
  have h : (!(oget ((sFull n).die 0).tags 7).any (sFull n).tagCurrent) = false := rfl
  have e : ((sFull n).die 0).overflow = List.replicate n 7 := rfl
  constructor
  · simp [State.dropStale, e, h, show ((sFull n).die 0).lostTags = [] from rfl]
  · rw [e]; simp [List.contains_eq_mem, List.mem_replicate]; intro _; decide

/-- Tables of space 1 for home 0 below a root at 64: a pointer to level 2, where entry 0 leads down to 16 pages of a group and
entry 1 is a leaf of 1 GiB; nothing is cached. -/
def sTables (root : Word) (perm : Word) : State := { s0 with
  die0 := { Die.zero with cntBase := 0x900000, ringBase := 0x800000, ringSize := 4, ownBase := 0xA00000 }
  mem := memW ([(64, root), (0x10000, 0x20001), (0x20000, 0x30001), (0x20008, 0x40000041 + perm), (0x30000, 0x40001)]
    ++ (List.range 16).map fun k => (0x40000 + 8 * k, BitVec.ofNat 64 (2 ^ 58 + 0x500041 + 4096 * k) + perm)) }

theorem witness_ProbesTranslate_walk :
    ((sTables 0x10000 0x38).walk 1 0 = .absent)
    ∧ (let s := sTables 0x10001 0x38
      s.walk 1 0x40000000 = .leaf 2 0x40000000 0x40000079 0
        ∧ s.walk 1 0x5000 = .leaf 3 0x500000 (BitVec.ofNat 64 (2 ^ 58 + 0x500079)) 0 ∧ s.walk 1 (2 ^ 39) = .absent
        ∧ (s.die 0).tlbFind 1 0x5000 = none ∧ (s.translate 1 0x5000 2).2.code = 0
        ∧ (bits (0x10001 : Word) 52 12 = 0 ∧ bits (0x10001 : Word) 1 14 = 0 ∧ bits (0x10001 : Word) 15 37 * 2 ^ 15 < 0x3B9ACA0000))
    ∧ (let s := sTables 0x10003 0x38
      s.walk 1 0 = .bad 0)
    ∧ (((sTables 0x10001 0x08).translate 1 0x40000000 2).2.code = 5)
    ∧ (let s : State := { sTables 0x10001 0x38 with mem := (sTables 0x10001 0x38).mem ++ memW [(0xA00000 + 8 * 0x500, 2 ^ 63 + 1)] }
      (s.translate 1 0x5000 2).2.code = 4 ∧ BitVec.getLsbD (2 ^ 63 + 1 : Word) 63 = true)
    ∧ (let s := sTables 0x10001 0x38
      s.ringRead 0 0x800000 8 = 0 ∧ (s.notify 0 1 (2 ^ 52 + 2 ^ 16) 0 true 0x100000000000 1).2 = true
        ∧ (2 ≤ bits (2 ^ 52 : Word) 51 2) ∧ (0x80 : Word).getLsbD 7 = true)
    ∧ (let s : State := { s0 with die0 := { dieM with ringBase := 0x800000 } }
      (s.notify 0 1 0 0 true 0 1).2 = false)
    ∧ (let s := s0
      oget ((s.markL2 0 (lineKey 1 0) ⟨0, 0, 0x79, 0⟩ 0).die 0).l2 (lineKey 1 0) ≠ none) := by
  and_intros <;> decide +kernel

/-- More of what the statements on releases, commits and grid barriers take. -/
theorem witness_Releases_more :
    ((s0.blk 1).flawed = false)
    ∧ (let s := pkg blk0 { grp0 with posted := [3] }
      AtIssue (.str 0 4 5 0 7) ctx0 s ∧ (issueOf (.str 0 4 5 0 7) ctx0 s).G.posted ≠ [] ∧ s.releaseOk (issueOf (.str 0 4 5 0 7) ctx0 s) = true)
    ∧ (AtIssue (.str 0 4 5 2 7) ctx0 (sBuffer (others 64)) ∧ 64 ≤ ((sBuffer (others 64)).lsb 0).length
      ∧ (sBuffer (others 64)).releaseOk (issueOf (.str 0 4 5 2 7) ctx0 (sBuffer (others 64))) = true)
    ∧ (let s := pkg { blk0 with commits := [⟨4, [(0, some held0)], []⟩, ⟨5, [(0, some held0)], []⟩] } grp0
      (s.blk 1).commits.any (fun c => c.id < 5 && (oget c.lines 0).isSome) = true)
    ∧ (let x : Block := { blk0 with groups := [(0, some { grp0 with phases := 1 })] }
      let s : State := { s0 with
        grids := [(1, some { grid0 with blocks := 2, determ := true })]
        blocks := [(1, some { x with life := .saved }), (2, some { x with id := 1 })] }
      let here := (oitems s.blocks).filter fun b => b.2.grid == 1 && b.2.arrived 0
      here.length + (s.grid 1).ended.length = (s.grid 1).blocks ∧ (here.any fun b => b.2.expect != 0) = true
        ∧ (here.any fun b => b.2.life == .saved) = true ∧ (here.any fun b => b.2.life == .resident) = true) := by
  and_intros <;> decide +kernel

/-- A drain in the engine of block 1 that has claimed line 0 of its Bed. -/
def sClaim (x : Block) (g : Group) : State := { pkg x g with
  cores := [(0, some { core0 with mx := { mx0 with exec := some { inEngine (.mdrn 5 9 1 7) 0 with claims := [0] } } })] }

/-- Claimed lines under accesses, UNPLOT and tiles; an expired line that no drain claims; and a line past what retention
is guaranteed, and before. -/
theorem witness_Bed_claimed :
    (let s := sClaim (blkPlot 8) { grp0 with p := [(1, 1)] }
     AtIssue (.lds 4 2 0 1 1) ctx0 s ∧ (issueOf (.lds 4 2 0 1 1) ctx0 s).act = 1 ∧ (s.blk 1).bedCheckOf 0 8 = 0
        ∧ 0 ∈ s.claimed 1 ∧ 1 ∉ s.claimed 1)
    ∧ (let s := sClaim { blkPlot 8 with bedMeta := [(0, ⟨1, false, none⟩), (1, ⟨1, false, none⟩)] } grp0
      (s.blk 1).bedCheckOf 0 4 = 4 ∧ (s.blk 1).staleLine 0 = true ∧ (s.blk 1).staleLine 1 = true ∧ 1 ∉ s.claimed 1)
    ∧ (let s := sClaim (blkPlot 8) (grpPlot 1 1 (8 * 2 ^ 50))
      AtIssue (.unplot 10 7) ctx0 s ∧ (s.blk 1).plotOf (8 * 2 ^ 50) = some (0, ⟨0, 8, 1, false⟩) ∧ 0 ∈ s.claimed 1)
    ∧ (∀ q ∈ [(49, false), (50, true)],
      let s := pkg { blkPlot 8 with bedMeta := [(0, ⟨q.1, false, none⟩)] } grp0
      decide (50 ≤ ((s.blk 1).bedLine 0).age) = q.2 ∧ (s.blk 1).expired 0 = true)
    ∧ (let s := pkg { blk0 with plots := [(0, some ⟨0, 8, 1, true⟩)], bedMeta := [(7, ⟨1, false, some 0x1000⟩)] } grp0
      (s.blk 1).refetchFrom 7 = some 0x1000) := by
  and_intros <;> decide +kernel

/-- QW with words that complete two commands and part of a third, with a command too many, and before its release. -/
theorem witness_QueueWords_commands :
    (let g : Group := { grp0 with p := [(1, 7)], v := [(130, 0x1000000000000)] }
     let s := pkg blk0 g
     let all := (ctx0.group s).queue 0 ++ pushedWords (issueOf (.qw 0 4 0 1) ctx0 s) 4 0
     AtIssue (.qw 0 4 0 1) ctx0 s ∧ (issueOf (.qw 0 4 0 1) ctx0 s).act ≠ 0
        ∧ all = [[(0 : Word)], [0]].flatten ++ [0x1000000000000] ∧ bits (0 : Word) 48 8 = 0 ∧ ([] : List Word).length < bits (0x1000000000000 : Word) 48 8
        ∧ s.pushed 1 + 2 ≤ 64 ∧ s.releaseOk (issueOf (.qw 0 4 0 1) ctx0 s) = true)
    ∧ (let s : State := { s0 with cmds := (List.range 64).map fun k => (9 + k, some { cmd0 with landing := [] }) }
      64 < s.pushed 1 + 1 ∧ s.pushed 1 + 0 ≤ 64)
    ∧ (sBuffer [store0]).releaseOk (issueOf (.qw 0 4 1 7) ctx0 (sBuffer [store0])) = false := by
  and_intros <;> decide +kernel

/-- Tiles with a claimed line and with a stale one that is not. -/
theorem witness_MatrixIssues_claimed :
    (let m : Machine.Matrix := { mx0 with exec := some { inEngine (.mdrn 5 9 1 7) 0 with claims := [0] } }
     let s : State := { pkg { blk0 with bedLines := 1024, plots := [(0, some ⟨0, 1024, 1, false⟩)], bedMeta := [(1, ⟨1, false, none⟩)] } grp0 with
       cores := [(0, some { core0 with mx := m })] }
     0 ∈ s.claimed 1 ∧ (s.blk 1).staleLine 1 = true ∧ 1 ∉ s.claimed 1 ∧ (s.blk 1).tileCheckOf 0 4 = 4) := by
  and_intros <;> decide +kernel

/-- A save whose frames can and cannot be written, a restore with and without room, with an engine that is taken, and with a
team set; a step in flight; and a saved block with an error. -/
theorem witness_ContextsAndErrors_set :
    (∀ q ∈ [(0x200000, true), (0x40000000, false)],
      let s := pkg { blk0 with bframe := BitVec.ofNat 64 q.1, saving := true } { grpFramed with ended := true }
      (((oitems (s.blk 1).groups).foldl (fun s g => s.updGrp 1 g.1 Group.parkForSave) s).writeFrames 1).2 = q.2)
    ∧ (let s := pkg { blk0 with life := .saved } grp0
      s.mayUse 1 191 = true ∧ s.fits 1 191 = true ∧ s.setFits 1 0 = true ∧ s.engineTaken 1 0 = false)
    ∧ ({ s0 with cores := [(0, some { core0 with suspect := true })] } : State).mayUse 1 0 = false
    ∧ (let s : State := { pkg { blk0 with life := .saved, ownedMx := true } grp0 with
        grids := [(1, some { grid0 with remap := [(0, some 0)], slice := some 0x10000000 })]
        cores := [(0, some { core0 with mx := { mx0 with owner := some 2 } })] }
      s.mayUse 1 0 = true ∧ s.fits 1 0 = true ∧ s.setFits 1 0 = true ∧ (s.core 0).mx.owner.isSome = true)
    ∧ (let s : State := { s0 with grids := [(1, some { grid0 with team := 1, lcores := 2, remap := [(0, some 0), (1, some 1)] })] }
      (s.seatsOf 1 0).length = 2 ∧ (s0.seatsOf 1 0).all (fun p => p.1 == 0) = true)
    ∧ ((oitems ((sAwait (.cape 0)).blk 1).groups).any fun g => g.2.waitsFor Await.inFlight) = true
    ∧ ((pkg { blk0 with life := .saved } grp0).blk 1).life = .saved := by
  and_intros <;> decide +kernel

/-- A grid of team sets of four with a range whose first set has begun, and one with no more than a set. -/
def gridTeam (r : Nat × Nat) : Grid := { gridRuns with team := 8, ranges := [(0, some r)] }

theorem witness_GridsRun_sets :
    (∀ q ∈ [((100, 106), 100, 2), ((5, 8), 8, 0), ((0, 4), 0, 1)],
      let y := gridTeam q.1
      y.unit = 4 ∧ y.setsLeft 0 = q.2.2 ∧ (q.2.2 = 0 → y.stealFrom 11 = none) ∧ (q.2.2 ≠ 0 → y.stealFrom 11 = some 0 ∧ y.left 11 = 0
        ∧ y.wholeFrom 0 = q.2.1))
    ∧ (let s : State := { sRuns with grids := [(1, some { gridRuns with rebound := [(3, 0, 1, 5)] })] }
      s.turnOf 1 0 = .start 3 1 ∧ (s.grid 1).avoid 0 ≠ some 0)
    ∧ (let s : State := { sQueue [] with grids := [(1, some gridNew)] }
      s.sliceWaiters.length = 1) := by
  and_intros <;> decide +kernel

/-- Copies of a block whose data crosses the bridge and lands. -/
theorem witness_PortsAndProtection_copies :
    (let k : Command := { copy0 1 512 with
      words := [BitVec.ofNat 64 (2 ^ 60 + 4 * 2 ^ 48 + 2 ^ 28), 2 ^ 51, 0, BitVec.ofNat 64 (2 ^ 32 + 512), 0]
      landing := [land0, { land0 with line := 1 }], next := 1 }
     let s := sCmd k
     oget s.cmds 9 = some k ∧ k.blk = 1 ∧ k.queue = 0 ∧ (k.crossing 0).map (·.1) = [0, 0]
       ∧ (k.poisonLine (0, 0)).landing.map (fun l => (l.line, l.failed)) = [(0, true), (1, false)]
       ∧ s.accessesOut 1 = true)
    ∧ s0.accessesOut 1 = false := by
  and_intros <;> decide +kernel

/-- A mailbox that is free and one that is busy, and a queue that is enabled. -/
theorem witness_HostRegisters_mailbox :
    (s0.boot = .running ∧ s0.mailbox.status ≠ 1 ∧ mailboxNumber .mailboxSetPowerCap = some 4 ∧ (4 : Nat) ≠ 6)
    ∧ ({ s0 with mailbox := ⟨4, 1000, 0, 1, 0⟩ } : State).mailbox.status = 1
    ∧ ((0 : Word) = 0 ∧ 6 < (7 : Word).toNat)
    ∧ (((sQueue []).queue 65535).en = true ∧ (1 : Word).getLsbD 0 = true ∧ (2 : Word).getLsbD 0 = false) := by
  and_intros <;> decide +kernel

/-! ### Ill-formed instructions (R12, R14, R29 order 2; R6, R376, R382) -/

/-- One word for each row of `fieldsOk`, at the first value that it refuses, and a guard of 0b1111. -/
theorem test_illformed_words :
    ∀ i ∈ [Instr.isetp 1 1 2 10 0, .fsetp 1 1 2 13 0, .vote 5 1 4 0 7, .mfs 1 0x00C, .mts 3 0x000, .mts 3 0x068,
      .fcvt 5 4 0 0 7, .fcvt 5 4 5 0 7, .fcvt 5 4 17 1 7, .ftoi 3 2 1 1 0 1 7, .benc 4 1 4 0 0 7, .rcat 8 7 6 7,
      .ldq 9 18 0 1 7, .ldg 6 3 3 7, .ldg 7 3 2 7, .stq 9 4 0 1 7, .lda 1 2 0 6 7, .str 0 4 5 6 7, .fence 0 6 7,
      .fence 3 0 7, .acas 3 4 5 6 1, .waitm 3 4 5 6 7, .lds 4 2 2 3 7, .lds 5 2 2 2 7, .sts 4 2 2 3 7, .sts 5 2 2 2 7,
      .ldsx 4 2 2 3 0 7, .ldsx 5 2 2 2 0 7, .stsx 4 2 2 3 0 7, .stsx 5 2 2 2 0 7, .qw 9 4 1 7, .qr 9 4 1 7, .mzro 1 1 7,
      .mstat 6 5 9 4 7, .iadd 4 1 2 0 15, .exit 15], i.wf = false := by decide

/-- One step for each check of `stepOk`, at the first number that it refuses. -/
theorem test_illformed_steps :
    ∀ i ∈ [Instr.prunerJobStart 2 0, .prunerJobStart 0 8, .sieveFeed 2 0 0 4, .sieveFeed 0 256 0 4, .sieveFeed 0 0 0 8,
      .fadeClockTick 192, .mscWriteback 2 0, .priorityAgingGrant 16, .coreAssignment 192, .rangeSteal 1 2 0,
      .rangeSteal 1 0 6, .matrixExecute 192, .doorbellWrite 65536 0, .queueEnable 65536, .queueDisable 65536,
      .hostTakeLine 2 0, .hostLineWriteback 2 0 [], .hostCoherentRead 2 0, .inboundRmaWrite 2 0 0 0 [],
      .inboundRmaRead 2 0 0 0 1, .inboundRmaAtomic 2 0 0 0 1, .inboundUnsupportedPacket 2 0, .secondTierLinkDown 0 5,
      .secondTierLinkUp 2 0, .secondTierDecoderWrite 0 5 0 0, .bridgeLaneFailure 2 0, .sramRailLow 2, .l2SecdedRestore 2,
      .backInvalidateResponse 2 0, .clusterL1ModeWrite 12 false], i.wf = false := by decide

/-- The last numbers that the same checks admit. -/
theorem test_wellformed_bounds :
    ∀ i ∈ [Instr.isetp 1 1 2 9 0, .vote 5 1 3 0 7, .fcvt 5 4 20 0 7, .rcat 8 7 5 7, .ldg 6 3 2 7, .fence 2 5 7,
      .qw 8 4 1 7, .iadd 4 1 2 0 14, .prunerJobStart 1 7, .fadeClockTick 191, .secondTierLinkDown 1 4,
      .clusterL1ModeWrite 11 true], i.wf = true := by decide

/-- Words that R12 and R29 refuse: the all-zero word, an unassigned opcode, and a bit set in an unused field. -/
theorem test_decode_refuses :
    (∃ e, decodeWord 0 0 = .error e) ∧ (∃ e, decodeWord 0x3FC00007 0 = .error e)
    ∧ ∃ e, decodeWord 0x02000017 0 = .error e :=
  ⟨⟨_, rfl⟩, ⟨_, rfl⟩, ⟨_, rfl⟩⟩

/-- A placed word is fetched and run by the next step. -/
theorem test_nop_fetch : (step (State.reset.withFetchWord 32 nopWord) matches .next _) = true := by decide +kernel

/-! ### Single steps, worked out by hand from the rules -/

/-- v1 and v2 in lane 0. -/
def grpXY (x y : Word) : Group := { grp0 with v := [(32, x), (64, y)] }

/-- Lane 0 of v3 after a word on v1 and v2. -/
def v3After (i : Instr) (x y : Word) : Word := ((after i (pkg blk0 (grpXY x y))).grp 1 0).rv 3 0

/-- R171: the sum wraps; saturating on 32 bits it stops at 2^31 − 1, sign-extended by IOut, and sets OVF. -/
theorem test_iadd :
    v3After (.iadd 3 1 2 0 7) 0xFFFFFFFFFFFFFFFF 1 = 0 ∧ v3After (.iadd 3 1 2 3 7) 0x7FFFFFFF 1 = 0x7FFFFFFF
      ∧ ((after (.iadd 3 1 2 3 7) (pkg blk0 (grpXY 0x7FFFFFFF 1))).grp 1 0).flags ≠ 0
      ∧ ((after (.iadd 3 1 2 0 7) (pkg blk0 (grpXY 1 1))).grp 1 0).lanePc 31 = 4 := by
  and_intros <;> decide +kernel

/-- R176: shifts by the width or more. -/
theorem test_shifts :
    v3After (.shl 3 1 2 0 7) 1 64 = 0 ∧ v3After (.shl 3 1 2 0 7) 1 63 = 0x8000000000000000
      ∧ v3After (.sar 3 1 2 0 7) 0x8000000000000000 64 = 0xFFFFFFFFFFFFFFFF := by
  and_intros <;> decide +kernel

/-- R22: a branch by −2 words from address 0 of the word after it goes back one word from its own. -/
theorem test_bra : ((after (.bra 0 7 2) s0).grp 1 0).lanePc 0 = 12 := by decide +kernel

/-- R189: 1 + 2 = 3 as means of certain numbers. -/
theorem test_fadd : v3After (.fadd 3 1 2 2 7) 0x3F800000 0x40000000 = 0x40400000 := by decide +kernel

/-- R358, R354: TRAP 42 starts the handler with EPC after its set and CAUSE 0x0B. -/
theorem test_trap :
    let y := (after (.trap 42) (pkg blk0 grpFramed)).grp 1 0
    (y.cause, y.epc, y.level, y.lanePc 31, y.detail1) = (0x0B, 4, true, 0x4000, 0x2A01) := by decide +kernel

/-- R292: the last group's EXIT ends its block. -/
theorem test_exit : ((after (.exit 7) s0).blk 1).life = .ended := by decide +kernel

/-- R111: a plot of two lines in an empty region is slot 0 at line 0, its handle still to be written. -/
theorem test_plot :
    let t := after (.plot 10 1 2 1 7) (pkg blk0 (grpPlot 2 50 0))
    oget (t.blk 1).plots 0 = some ⟨0, 2, 50, true⟩ ∧ ((t.grp 1 0).outs.map fun o => o.vals.head?) = [some 0x8000000000000] := by
  and_intros <;> decide +kernel

end Sys2Proof.Tests
end

section
/-!
SUPPORT. The encoding of a word and the decoder read each other: a field put into a body is the field read from it,
for every row of the opcode tables.
-/

namespace Sys2Proof

/-! ### Fields of a word laid one beside the other (R11) -/

/-- A field put above the others leaves a number below the bit after it. -/
theorem put_lt {n lo k rest : Nat} (x : BitVec n) (h : rest < 2 ^ lo) (hk : lo + n ≤ k) : put x lo rest < 2 ^ k := by
  have hx : x.toNat + 1 ≤ 2 ^ n := x.isLt
  calc put x lo rest < (x.toNat + 1) * 2 ^ lo := by unfold put; nlinarith
    _ ≤ 2 ^ n * 2 ^ lo := Nat.mul_le_mul_right _ hx
    _ = 2 ^ (lo + n) := by rw [← pow_add, Nat.add_comm]
    _ ≤ 2 ^ k := Nat.pow_le_pow_right (by norm_num) hk

/-- The part of a number from a field's place on is that field, and what stands below is the rest. -/
theorem put_div {n lo rest : Nat} (x : BitVec n) (h : rest < 2 ^ lo) : put x lo rest / 2 ^ lo = x.toNat := by
  unfold put
  rw [Nat.mul_comm, Nat.mul_add_div (by positivity), Nat.div_eq_of_lt h, Nat.add_zero]

/-- Bits below a field are those of the rest. -/
theorem put_div_mod {n lo rest a b : Nat} (x : BitVec n) (h : a + b ≤ lo) :
    put x lo rest / 2 ^ a % 2 ^ b = rest / 2 ^ a % 2 ^ b := by
  obtain ⟨d, rfl⟩ := Nat.exists_eq_add_of_le h
  unfold put
  rw [show x.toNat * 2 ^ (a + b + d) = 2 ^ a * (2 ^ b * (x.toNat * 2 ^ d)) by ring,
    Nat.mul_add_div (by positivity), Nat.mul_add_mod]

theorem fld_put_same {n lo rest : Nat} (x : BitVec n) (h : rest < 2 ^ lo) : fld n (put x lo rest) lo = x := by
  rw [fld, put_div x h, BitVec.ofNat_toNat, BitVec.setWidth_eq]

theorem fld_put_below {n m lo hi rest : Nat} (x : BitVec m) (h : lo + n ≤ hi) :
    fld n (put x hi rest) lo = fld n rest lo := by
  apply BitVec.eq_of_toNat_eq
  simpa [fld] using put_div_mod x h

theorem zer_put_below {n m lo hi rest : Nat} (x : BitVec m) (h : lo + n ≤ hi) :
    zer (put x hi rest) lo n = zer rest lo n := by
  rw [zer, zer, put_div_mod x h]

theorem fld_toNat {n : Nat} (x : BitVec n) : fld n x.toNat 0 = x := by
  rw [fld, pow_zero, Nat.div_one, BitVec.ofNat_toNat, BitVec.setWidth_eq]

/-- Bits above everything that is put are zero. -/
theorem zer_of_lt {w lo n : Nat} (h : w < 2 ^ lo) : zer w lo n = true := by
  simp [zer, Nat.div_eq_of_lt h]

/-- The row of an opcode: the part of `decodeLoose` that its upper four bits choose. -/
def decodeRow (op : Nat) (w raw : Nat) : Except DecodeError (Bool × Instr) :=
  match op / 16 with
  | 0x0 => decodeOp0 (op % 16) w raw
  | 0x1 => decodeOp1 (op % 16) w raw
  | 0x2 => decodeOp2 (op % 16) w raw
  | 0x3 => decodeOp3 (op % 16) w raw
  | 0x4 => decodeOp4 (op % 16) w raw
  | 0x5 => decodeOp5 (op % 16) w raw
  | 0x6 => decodeOp6 (op % 16) w raw
  | 0x7 => decodeOp7 (op % 16) w raw
  | 0x8 => decodeOp8 (op % 16) w raw
  | 0x9 => decodeOp9 (op % 16) w raw
  | 0xA => decodeOpA (op % 16) w raw
  | 0xB => decodeOpB (op % 16) w raw
  | 0xC => decodeOpC (op % 16) w raw
  | 0xD => decodeOpD (op % 16) w raw
  | 0xE => decodeOpE (op % 16) w raw
  | _ => .error .reservedOpcode

theorem decodeLoose_eq_row {w : Nat} (raw : Nat) (h : w ≠ 0) :
    decodeLoose w raw = decodeRow (w / 2 ^ 22 % 256) w raw := by
  rw [decodeLoose, if_neg h]
  rfl

/-- A word whose encoding is an opcode, a body of 22 bits and a raw word or none, and which the row of its opcode reads
back. -/
structure ReadsBack (i : Instr) (op body : Nat) (rest : List Word32) : Prop where
  encoded : encode i = packWord op body :: rest
  opcode : 0 < op ∧ op < 256
  bounded : body < 2 ^ 22
  read : decodeRow op (put (BitVec.ofNat 8 op) 22 body) (rest.headD 0).toNat = .ok (true, i)

/-- Every instruction word reads back. -/
theorem exists_readsBack (i : Instr) (h : i.isWord = true) : ∃ op body rest, ReadsBack i op body rest := by
  cases i <;> cases h <;>
    refine ⟨_, _, _, rfl, by decide, by (repeat' apply put_lt) <;> simp only [Nat.reduceAdd, Nat.reduceLeDiff, le_refl,
      Nat.two_pow_pos], ?_⟩ <;>
    simp (disch := (repeat' apply put_lt) <;> simp only [Nat.reduceAdd, Nat.reduceLeDiff, le_refl, Nat.two_pow_pos]) only
      [decodeRow, decodeOp0, decodeOp1, decodeOp2, decodeOp3, decodeOp4, decodeOp5, decodeOp6, decodeOp7, decodeOp8,
      decodeOp9, decodeOpA, decodeOpB, decodeOpC, decodeOpD, decodeOpE, used, fld_put_same, fld_put_below, zer_put_below, zer_of_lt, fld_toNat, List.headD_cons, Bool.and_self]

section
variable {i : Instr} {op body : Nat} {rest : List Word32}

theorem ReadsBack.toNat_put (h : ReadsBack i op body rest) :
    put (BitVec.ofNat 8 op) 22 body = op * 2 ^ 22 + body := by
  rw [put, BitVec.toNat_ofNat, Nat.mod_eq_of_lt h.opcode.2]

/-- The packed word has its opcode in bits 29 to 22 and nothing above them. -/
theorem ReadsBack.toNat_packWord (h : ReadsBack i op body rest) :
    (packWord op body).toNat = put (BitVec.ofNat 8 op) 22 body := by
  have hop := h.opcode
  have hb := h.bounded
  rw [h.toNat_put, packWord, BitVec.toNat_ofNat]
  omega

theorem ReadsBack.decodeWord_eq (h : ReadsBack i op body rest) :
    decodeWord (packWord op body).toNat (rest.headD 0).toNat = .ok i := by
  have hop := h.opcode
  have hb := h.bounded
  have hw := h.toNat_put
  have hdiv : put (BitVec.ofNat 8 op) 22 body / 2 ^ 22 % 256 = op := by omega
  rw [h.toNat_packWord, decodeWord, decodeLoose_eq_row _ (by omega), hdiv, h.read]

/-- The chain and switch bits of an encoding are clear (R9). -/
theorem ReadsBack.decode_eq (h : ReadsBack i op body rest) :
    decode (packWord op body).toNat (rest.headD 0).toNat = .ok ⟨false, false, i, i.words⟩ := by
  have hop := h.opcode
  have hb := h.bounded
  have hw := h.toNat_put
  have hchain : (packWord op body).toNat / 2 ^ 31 % 2 = 0 := by rw [h.toNat_packWord]; omega
  have hswitch : (packWord op body).toNat / 2 ^ 30 % 2 = 0 := by rw [h.toNat_packWord]; omega
  rw [decode, h.decodeWord_eq, hchain, hswitch]
  rfl

end

/-- An encoding has as many words as its instruction takes (R9, R18). -/
theorem words_eq_length_encode (i : Instr) (h : i.isWord = true) : i.words = (encode i).length := by
  cases i <;> cases h <;> rfl

/-- Settles O2: every word reads back from its opcode, its body and its raw word, field by field. -/
theorem decodeOfEncode : Obligations.DecodeOfEncode := by
  intro i hi _
  obtain ⟨op, body, rest, h⟩ := exists_readsBack i hi
  have hlen : i.words = 1 + rest.length := by
    rw [words_eq_length_encode i hi, h.encoded, List.length_cons, Nat.add_comm]
  exact ⟨packWord op body, rest, h.encoded, h.decodeWord_eq, hlen, h.decode_eq⟩

/-! ### A word from its fields -/

/-- The low k bits of a word. -/
def lowBits (w k : Nat) : Nat := w % 2 ^ k

theorem lowBits_zero (w : Nat) : lowBits w 0 = 0 := Nat.mod_one w

/-- A field read from a word and put back above the bits below it. -/
theorem put_fld {n w lo rest : Nat} (h : lowBits w lo = rest) : put (fld n w lo) lo rest = lowBits w (lo + n) := by
  rw [← h, put, fld, BitVec.toNat_ofNat, lowBits, lowBits, pow_add, Nat.mod_mul, Nat.add_comm, Nat.mul_comm]

/-- Unused bits are zero where the bits below them are all that there is (R12). -/
theorem zer_iff {w lo n : Nat} : zer w lo n = true ↔ lowBits w (lo + n) = lowBits w lo := by
  rw [zer, beq_iff_eq, lowBits, lowBits, pow_add, Nat.mod_mul, Nat.add_eq_left, Nat.mul_eq_zero]
  exact (or_iff_right (by positivity)).symm

theorem used_eq_ok {ok : Bool} {i j : Instr} : used ok i = .ok (true, j) ↔ ok = true ∧ i = j := by
  simp [used]

/-- The word of an opcode and a body, with the raw word after it, is the encoding of `i`. -/
structure EncodedAs (i : Instr) (op w raw : Nat) : Prop where
  word : i.isWord = true
  encoded : encode i = packWord op (lowBits w 22) :: (if i.words = 2 then [fld 32 raw 0] else [])

theorem encodedAs_of_body {i : Instr} {op w raw body : Nat} (hi : i.isWord = true) (hb : body = lowBits w 22)
    (he : encode i = packWord op body :: (if i.words = 2 then [fld 32 raw 0] else [])) : EncodedAs i op w raw :=
  ⟨hi, hb ▸ he⟩

theorem encodedAs_of_decodeRow {a b w raw : Nat} {i : Instr} (hb : b < 16)
    (h : decodeRow (16 * a + b) w raw = .ok (true, i)) :
    EncodedAs i (16 * a + b) w raw := by
  rw [decodeRow, show (16 * a + b) / 16 = a by omega, show (16 * a + b) % 16 = b by omega] at h
  split at h <;>
    simp only [decodeOp0, decodeOp1, decodeOp2, decodeOp3, decodeOp4, decodeOp5, decodeOp6, decodeOp7, decodeOp8,
      decodeOp9, decodeOpA, decodeOpB, decodeOpC, decodeOpD, decodeOpE, reduceCtorEq] at h <;>
    split at h <;>
    simp only [used_eq_ok, reduceCtorEq, Bool.and_eq_true, zer_iff, Nat.reduceAdd] at h
  all_goals
    obtain ⟨hz, rfl⟩ := h
    refine encodedAs_of_body rfl ?_ rfl
    simp only [put_fld, lowBits_zero, Nat.reduceAdd, hz]

theorem decodeLoose_of_decodeWord {w raw : Nat} {i : Instr} (h : decodeWord w raw = .ok i) :
    decodeLoose w raw = .ok (true, i) := by
  unfold decodeWord at h
  split at h
  case h_1 e => rw [e]; cases h; rfl
  all_goals cases h

theorem decodeWord_zero (raw : Nat) : decodeWord 0 raw = .error .allZero := rfl

/-- A word that decodes is, its C and S bits apart, the encoding of what it decodes to. -/
theorem encode_of_decodeWord {w raw : Nat} {i : Instr} (h : decodeWord w raw = .ok i) :
    i.isWord = true
      ∧ encode i = BitVec.ofNat 32 (w % 2 ^ 30) :: (if i.words = 2 then [BitVec.ofNat 32 raw] else []) := by
  have h0 : w ≠ 0 := by rintro rfl; cases (decodeWord_zero raw).symm.trans h
  have hrow := decodeLoose_of_decodeWord h
  have hop : 16 * (w / 2 ^ 22 % 256 / 16) + w / 2 ^ 22 % 256 % 16 = w / 2 ^ 22 % 256 := Nat.div_add_mod _ _
  rw [decodeLoose_eq_row raw h0, ← hop] at hrow
  obtain ⟨hi, he⟩ := encodedAs_of_decodeRow (Nat.mod_lt _ (by norm_num)) hrow
  have hw : packWord (w / 2 ^ 22 % 256) (lowBits w 22) = BitVec.ofNat 32 (w % 2 ^ 30) := by
    rw [packWord, lowBits]; congr 1; omega
  refine ⟨hi, ?_⟩
  rw [he, hop, hw, fld, pow_zero, Nat.div_one]

/-- Settles O3: bits that a row does not use are zero, so that its fields make up the whole body. -/
theorem encodeOfDecode : Obligations.EncodeOfDecode :=
  ⟨fun _ _ _ _ _ h => encode_of_decodeWord h, fun raw => ⟨_, decodeWord_zero raw⟩⟩

/-- Settles O1: the decoder run on each word. -/
theorem manualWordsDecode : Obligations.ManualWordsDecode := by
  unfold Obligations.ManualWordsDecode
  and_intros <;> rfl

end Sys2Proof
end

section
/-!
SUPPORT. What a step comes to: every arm of `exec` answers a next state where its word stands at issue, and every
choice of a schedule is made of such arms.
-/

namespace Sys2Proof.Machine

/-! ### The arms of `exec` -/

/-- An instruction word means what `issueWord` makes of its effect. -/
theorem exec_word (i : Instr) (h : i.isWord = true) : ∃ f, ∀ s, Sys2Proof.Machine.exec i s = issueWord i s f := by
  cases i <;> cases h <;> exact ⟨_, fun _ => by unfold exec; rfl⟩

/-- The write of a result that is no longer outstanding does nothing; of one that is, it answers too. -/
theorem exec_resultWrite_completes (b g uid : Nat) (s : State) :
    completes (Sys2Proof.Machine.exec (.variableLatencyResultWrite b g uid) s) := by
  change completes (execVariableLatencyResultWrite b g uid s)
  unfold execVariableLatencyResultWrite
  split <;> exact ⟨_, rfl⟩

/-- A step that is no word answers from every state. -/
theorem exec_event_completes (i : Instr) (h : i.isWord = false) (s : State) : completes (Sys2Proof.Machine.exec i s) := by
  cases i
  case variableLatencyResultWrite b g uid => exact exec_resultWrite_completes b g uid s
  all_goals cases h
  all_goals exact ⟨_, rfl⟩

/-- Every instruction answers where a word is at issue. -/
theorem exec_completes (i : Instr) {s : State} {c : IssueCtx} (hc : s.cur = some c) :
    completes (Sys2Proof.Machine.exec i s) := by
  cases h : i.isWord with
  | true =>
    obtain ⟨f, hf⟩ := exec_word i h
    rw [hf]
    exact issueWord_completes f hc
  | false => exact exec_event_completes i h s

/-- No act of the world outside is an instruction word. -/
theorem isWord_of_isInput {i : Instr} (h : isInput i = true) : i.isWord = false := by
  cases i <;> cases h <;> rfl

/-! ### The issue of a set -/

theorem completes_next (s : State) : completes (.next s) := ⟨s, rfl⟩

theorem andThen_completes {o : Host.Outcome State Fault Refusal} {f : State → Host.Outcome State Fault Refusal}
    (ho : completes o) (hf : ∀ s, completes (f s)) : completes (andThen o f) := by
  obtain ⟨s, rfl⟩ := ho
  exact hf s

theorem issueOne_completes (s : State) (c : IssueCtx) (w : SetWord) : completes (issueOne exec s c w) := by
  unfold issueOne
  split
  · exact exec_completes _ rfl
  · exact completes_next s

theorem trySet_completes (s : State) (ctx : SetWord → IssueCtx) (ws : List SetWord) :
    ∃ r, trySet exec s ctx ws = .next r := by
  induction ws with
  | nil => exact ⟨none, rfl⟩
  | cons w t ih =>
    obtain ⟨s1, h1⟩ := issueOne_completes s (ctx w) w
    unfold trySet
    rw [h1]
    dsimp only
    split
    · exact ⟨_, rfl⟩
    · exact ⟨_, rfl⟩
    · exact ih

theorem runSet_completes (ctx : SetWord → IssueCtx) (ws : List SetWord) (s : State) :
    completes (runSet exec ctx ws s) := by
  induction ws generalizing s with
  | nil => exact completes_next s
  | cons w t ih =>
    refine andThen_completes (issueOne_completes _ _ w) fun s1 => ?_
    split
    · exact completes_next s1
    · exact completes_next s1
    · exact ih s1

theorem issueSet_completes (s : State) (b g : Nat) (run : Mask) (pc next : Word) (ws : List SetWord) :
    completes (issueSet exec s b g run pc next ws) := by
  unfold issueSet
  split
  · exact andThen_completes (issueOne_completes _ _ _) fun _ => completes_next _
  · obtain ⟨r, hr⟩ := trySet_completes s (setCtx s b g run pc next false) ws
    dsimp only
    rw [hr]
    cases r with
    | some s1 => exact completes_next _
    | none => exact andThen_completes (runSet_completes _ _ _) fun _ => completes_next _

theorem issueGroup_completes (s : State) (b g : Nat) : completes (issueGroup exec s b g) := by
  unfold issueGroup
  dsimp only
  split
  · exact completes_next _
  split
  · exact completes_next _
  split
  · split
    · exact completes_next _
    split
    · exact completes_next _
    split
    · exact completes_next _
    · exact issueSet_completes _ _ _ _ _ _ _
  · exact completes_next _

/-! ### The choices of a schedule -/

theorem runEvent_completes (s : State) (k : Nat) : completes (runEvent exec s k) := by
  unfold runEvent
  split
  · rename_i i _
    cases h : i.isWord with
    | true => exact completes_next _
    | false => exact exec_event_completes i h _
  · exact completes_next s

/-- What falls due by the clock is an event. -/
theorem isWord_of_pickTimer {s : State} {i : Instr} (h : s.pickTimer = some i) : i.isWord = false := by
  simp only [State.pickTimer, Option.orElse_eq_or, Option.or_eq_some_iff, Option.map_eq_some_iff] at h
  rcases h with ⟨_, -, rfl⟩ | ⟨-, ⟨_, -, rfl⟩ | ⟨-, _, -, rfl⟩⟩ <;> rfl

theorem workStep_completes (s : State) : completes (workStep exec s) := by
  unfold workStep
  have unpark (p : Nat × Nat) : completes (Sys2Proof.Machine.exec (.groupUnpark p.1 p.2) s) :=
    exec_event_completes _ rfl s
  split
  · exact exec_event_completes _ (isWord_of_pickTimer ‹_›) s
  split
  · exact completes_next _
  split
  · split
    · exact unpark _
    · exact issueGroup_completes _ _ _
  · exact unpark _
  · exact issueGroup_completes _ _ _
  · exact completes_next s

theorem autoStep_completes (s : State) : completes (autoStep exec s) := by
  unfold autoStep
  split
  · exact completes_next _
  split
  · exact runEvent_completes s 0
  · exact workStep_completes s

theorem choiceStep_completes (s : State) (c : Choice) : completes (choiceStep exec s c) := by
  cases c
  case auto => exact autoStep_completes s
  case event k => exact runEvent_completes s k
  case issue b g =>
    dsimp only [choiceStep]
    split
    · exact issueGroup_completes s b g
    · exact completes_next s
  case input i =>
    dsimp only [choiceStep]
    split
    · exact exec_event_completes i (isWord_of_isInput ‹_›) s
    · exact completes_next s
  all_goals exact completes_next _

/-- Settles O4: whatever the schedule names, what runs answers a next state, and so does the step. -/
theorem everyStepAnswers : Obligations.EveryStepAnswers := by
  intro s
  unfold step stepWith
  split
  · exact andThen_completes (autoStep_completes s) fun _ => completes_next _
  · exact andThen_completes (choiceStep_completes _ _) fun _ => completes_next _

end Sys2Proof.Machine
end

section
/-!
SUPPORT. The step of a schedule's choice, and what the issue of a set comes to (R16, R18, R19, R285).
-/

namespace Sys2Proof.Machine

/-! ### A choice of the schedule -/

/-- A step does what its schedule names, and counts the cycle. -/
theorem step_of_choice {s t : State} {c : Choice} {rest : List Choice} (hs : s.script = c :: rest)
    (h : choiceStep exec { s with script := rest } c = .next t) : step s = .next t.count := by
  rw [step, stepWith, hs]
  simp only [h, andThen]

theorem step_of_issue {s t : State} {b g : Nat} {rest : List Choice} (hs : s.script = .issue b g :: rest)
    (hm : ({ s with script := rest } : State).mayIssue b g = true)
    (h : issueGroup exec { s with script := rest } b g = .next t) : step s = .next t.count :=
  step_of_choice hs (by rw [choiceStep, if_pos hm, h])

/-- The head run of a group that issues, and its PC (R284). -/
def State.issueHead (s : State) (b g : Nat) : Mask × Word := ((s.toIssue b g).grp b g).headRun

/-- The fetch of the packet before which the head run stands (R286). -/
def State.issueFetch (s : State) (b g : Nat) : State × Fetch := (s.toIssue b g).fetchPacket b (s.issueHead b g).2

/-- The word of its packet at which the head run enters (R10). -/
def State.issueEntry (s : State) (b g : Nat) : Nat := (s.issueHead b g).2.toNat % 12 / 4

section
variable {s : State} {b g : Nat} (hp : (s.grp b g).trapPend = none) (hr : (s.issueHead b g).1 ≠ 0)
include hp hr

/-- A packet that cannot be fetched stops the group (R286). -/
theorem issueGroup_fetchFault (hc : (s.issueFetch b g).2.code ≠ 0) :
    issueGroup exec s b g = .next ((s.issueFetch b g).1.takeTrap b g
      (fetchTrap (s.issueHead b g).2 (s.issueHead b g).1 (s.issueFetch b g).2)) := by
  unfold State.issueFetch State.issueHead at *
  unfold issueGroup
  rw [hp, if_neg (by simp), if_neg (by simpa using hr)]
  dsimp only
  split
  · rw [if_pos (by simpa using hc)]
  · rfl

variable {w0 w1 w2 : Nat} {va : Word} (hf : (s.issueFetch b g).2 = ⟨0, va, [w0, w1, w2]⟩)
include hf

/-- An illegal packet stops the group (R29 order 1). -/
theorem issueGroup_badPacket (hk : packetOk w0 w1 w2 (s.issueEntry b g) = false) :
    issueGroup exec s b g = .next ((s.issueFetch b g).1.takeTrap b g (encodingTrap (s.issueHead b g).2
      (s.issueHead b g).1 1 ([w0, w1, w2].getD (s.issueEntry b g) 0) 0 0)) := by
  unfold State.issueEntry State.issueFetch State.issueHead at *
  unfold issueGroup
  rw [hp, if_neg (by simp), if_neg (by simpa using hr)]
  simp [hf, hk]

variable (hk : packetOk w0 w1 w2 (s.issueEntry b g) = true)
include hk

/-- A trap of R29 on the set stops the group. -/
theorem issueGroup_setTrap {t : Nat × Nat × Nat × Nat}
    (ht : setTrap (setWords 7 (entrySet w0 w1 w2 (s.issueEntry b g))) ((s.issueFetch b g).1.grp b g)
      (s.issueFetch b g).1 b = some t) :
    issueGroup exec s b g = .next ((s.issueFetch b g).1.takeTrap b g (encodingTrap (s.issueHead b g).2
      (s.issueHead b g).1 t.1 t.2.1 t.2.2.1 t.2.2.2)) := by
  unfold State.issueEntry State.issueFetch State.issueHead at *
  unfold issueGroup
  rw [hp, if_neg (by simp), if_neg (by simpa using hr)]
  simp only [hf, hk, ht, bne_self_eq_false, Bool.not_true, Bool.false_eq_true, if_false]

/-- Without one the set issues. -/
theorem issueGroup_issues
    (ht : setTrap (setWords 7 (entrySet w0 w1 w2 (s.issueEntry b g))) ((s.issueFetch b g).1.grp b g)
      (s.issueFetch b g).1 b = none) :
    issueGroup exec s b g = issueSet exec (s.issueFetch b g).1 b g (s.issueHead b g).1 (s.issueHead b g).2
      (afterSet (s.issueHead b g).2 (entrySet w0 w1 w2 (s.issueEntry b g)))
      (setWords 7 (entrySet w0 w1 w2 (s.issueEntry b g))) := by
  unfold State.issueEntry State.issueFetch State.issueHead at *
  unfold issueGroup
  rw [hp, if_neg (by simp), if_neg (by simpa using hr)]
  simp only [hf, hk, ht, bne_self_eq_false, Bool.not_true, Bool.false_eq_true, if_false]

end

/-! ### One word -/

theorem setWords_cons (g : BitVec 4) {p : PWord} (l : List PWord) {i : Instr} (h : decodeWord p.bits p.raw = .ok i) :
    setWords g (p :: l) = ⟨p.pos, p.bits, g, some i, p.switch⟩ :: setWords (i.guard.getD g) l := by
  rw [setWords]
  simp only [h]
  rfl

/-- The guard of a word that inherits none holds in every lane (R14, R16). -/
theorem guard_always (y : Group) : y.guard 7 = BitVec.allOnes 32 := rfl

theorem issueOne_of_instr {s : State} {c : IssueCtx} {w : SetWord} {i : Instr} (h : w.instr = some i) :
    issueOne exec s c w = Sys2Proof.Machine.exec i { s with cur := some c } := by
  rw [issueOne]
  simp only [h]

/-- A set of one word runs it. -/
theorem issueSet_single {s t : State} {b g : Nat} {run : Mask} {pc next : Word} {w : SetWord}
    (h : issueOne exec s (setCtx s b g run pc next true w) w = .next t) :
    issueSet exec s b g run pc next [w]
      = .next ((if t.result = .done then t.clearCur.issued b g else t.clearCur).honourSwitch b g
          (w.switch && t.result == .done)) := by
  simp only [issueSet, h, andThen, beq_iff_eq]

/-! ### A set of chained words -/

theorem not_went_iff {t : State} : ¬ t.went ↔ t.result = .blocked ∨ ∃ x, t.result = .trapped x := by
  simp [State.went, imp_iff_not_or]

/-- Words that have taken effect alone let the trial go on (R19). -/
theorem trySet_append {s : State} {ctx : SetWord → IssueCtx} {l m : List SetWord}
    (h : ∀ v ∈ l, ∃ t, issueOne exec s (ctx v) v = .next t ∧ t.went) :
    trySet exec s ctx (l ++ m) = trySet exec s ctx m := by
  induction l with
  | nil => rfl
  | cons v l ih =>
    obtain ⟨t, ht, hb, hx⟩ := h v (by simp)
    rw [List.cons_append, trySet, ht]
    dsimp only
    split
    · exact absurd ‹_› (hx _)
    · exact absurd ‹_› hb
    · exact ih fun w hw => h w (by simp [hw])

/-- The first word that traps or does not issue decides what its set comes to (R19). -/
theorem trySet_stops {s t : State} {ctx : SetWord → IssueCtx} {w : SetWord} {m : List SetWord}
    (h : issueOne exec s (ctx w) w = .next t) (ht : ¬ t.went) : trySet exec s ctx (w :: m) = .next (some t) := by
  rw [trySet, h]
  rcases not_went_iff.1 ht with e | ⟨x, e⟩ <;> simp only [e]

/-- Words that act in turn are run one after another (R19, R159). -/
theorem runSet_of_acts {ctx : SetWord → IssueCtx} {l m : List SetWord} {s t : State} (h : ActsInTurn ctx l s t) :
    runSet exec ctx (l ++ m) s = runSet exec ctx m t := by
  induction l generalizing s with
  | nil => rw [show t = s from h]; rfl
  | cons w l ih =>
    obtain ⟨i, u, hi, hu, ⟨hb, hx⟩, hl⟩ := h
    rw [List.cons_append, runSet, issueOne_of_instr hi, hu, andThen]
    split
    · exact absurd ‹_› (hx _)
    · exact absurd ‹_› hb
    · exact ih hl

theorem went_of_acts {ctx : SetWord → IssueCtx} {l : List SetWord} {s t : State} (h : ActsInTurn ctx l s t)
    (hl : l ≠ []) : t.went := by
  induction l generalizing s with
  | nil => exact absurd rfl hl
  | cons w l ih =>
    obtain ⟨i, u, -, -, hw, hr⟩ := h
    by_cases e : l = []
    · subst e; rw [show t = u from hr]; exact hw
    · exact ih hr e

/-- No word of a set is left out where the control word goes last (R285). -/
theorem controlLast_ne_nil {ws : List SetWord} (h : ws ≠ []) : controlLast ws ≠ [] := by
  obtain ⟨w, t, rfl⟩ := List.exists_cons_of_ne_nil h
  have hw : w ∈ controlLast (w :: t) := by
    simp only [controlLast, List.mem_append, List.mem_filter, List.mem_cons, true_or, true_and]
    cases w.instr.any fun i => i.pipe == .c <;> cases isMts w.instr <;> simp
  exact List.ne_nil_of_mem hw

section
variable {s : State} {b g : Nat} {run : Mask} {pc next : Word} {ws : List SetWord} (hws : 2 ≤ ws.length)
include hws

/-- One of its words keeps the whole set from issuing. -/
theorem issueSet_stops {t : State} (h : trySet exec s (setCtx s b g run pc next false) ws = .next (some t)) :
    issueSet exec s b g run pc next ws = .next t.clearCur := by
  unfold issueSet
  split
  · simp at hws
  · simp only [h]

/-- None does, and the words run one after another, the control word last. -/
theorem issueSet_runs {t : State} (h : trySet exec s (setCtx s b g run pc next false) ws = .next none)
    (hr : runSet exec (setCtx s b g run pc next false) (controlLast ws) s = .next t) :
    issueSet exec s b g run pc next ws = .next (setDone s t b g (ws.any (·.switch))) := by
  unfold issueSet
  split
  · simp at hws
  · simp only [h, hr, andThen]

end

/-- What the others have done keeps a word from its effect (R19). -/
theorem runSet_stops {ctx : SetWord → IssueCtx} {w : SetWord} {m : List SetWord} {s t : State}
    (h : issueOne exec s { ctx w with raised := (s.cur.map (·.raised)).getD 0 } w = .next t) (ht : ¬ t.went) :
    runSet exec ctx (w :: m) s = .next t := by
  rw [runSet, h, andThen]
  rcases not_went_iff.1 ht with e | ⟨x, e⟩ <;> simp only [e]

theorem setDone_went {s t : State} {b g : Nat} {sw : Bool} (h : t.went) :
    setDone s t b g sw = (t.clearCur.issued b g).honourSwitch b g sw := by
  obtain ⟨hb, hx⟩ := h
  unfold setDone
  split
  · exact absurd ‹_› (hx _)
  · exact absurd ‹_› hb
  · rfl

theorem setDone_trapped {s t : State} {b g : Nat} {sw : Bool} {x : Trap} (h : t.result = .trapped x) :
    setDone s t b g sw = (s.takeTrap b g x).clearCur := by
  simp only [setDone, h]

theorem setDone_blocked {s t : State} {b g : Nat} {sw : Bool} {p : Park} (h : t.result = .blocked)
    (hp : (t.grp b g).parks.getLast? = some p) : setDone s t b g sw = (s.parkOn b g p.reason p.what).clearCur := by
  simp only [setDone, h, hp]

theorem setWords_length (g : BitVec 4) (set : List PWord) : (setWords g set).length = set.length := by
  induction set generalizing g with
  | nil => rfl
  | cons p l ih => simp only [setWords, List.length_cons, ih]

/-! ### The obligation -/

theorem step_single_word (s : State) (rest : List Choice) (b g w0 w1 w2 : Nat) (p : PWord) (i : Instr) :
    let s0 : State := { s with script := rest }
    let h := s0.issueHead b g
    let f := s0.issueFetch b g
    s.script = .issue b g :: rest → s0.mayIssue b g = true → (s0.grp b g).trapPend = none → h.1 ≠ 0 →
    f.2 = ⟨0, f.2.va, [w0, w1, w2]⟩ → packetOk w0 w1 w2 (s0.issueEntry b g) = true →
    entrySet w0 w1 w2 (s0.issueEntry b g) = [p] → decodeWord p.bits p.raw = .ok i →
    setTrap (setWords 7 [p]) (f.1.grp b g) f.1 b = none →
    let c : IssueCtx :=
      ⟨b, g, h.1, BitVec.allOnes 32, h.2, packetBase h.2 + BitVec.ofNat 64 (4 * p.pos),
        packetBase h.2 + BitVec.ofNat 64 (4 * (p.pos + p.len)), BitVec.ofNat 32 p.bits, none, f.1.fresh, 0, .none⟩
    ∀ t, Sys2Proof.Machine.exec i { f.1 with cur := some c } = .next t →
      step s = .next (((if t.result = .done then t.clearCur.issued b g else t.clearCur).honourSwitch b g
        (p.switch && t.result == .done)).count) := by
  intro s0 h f hs hm hp hr hf hk hset hd ht c t he
  refine step_of_issue hs hm ?_
  have hissue := issueGroup_issues hp hr hf hk (by rw [hset]; exact ht)
  have hctx : setCtx f.1 b g h.1 h.2 (afterSet h.2 [p]) true ⟨p.pos, p.bits, 7, some i, p.switch⟩ = c := by
    rw [setCtx, guard_always]; rfl
  rw [hissue, hset, setWords_cons 7 [] hd]
  refine issueSet_single ?_
  rw [hctx]
  exact (issueOne_of_instr rfl).trans he

/-- Settles O5: a set is tried word by word, then run word by word, and what each comes to is what the set comes to. -/
theorem stepRunsDecodedWord : Obligations.StepRunsDecodedWord := by
  refine ⟨step_single_word, ?_, fun g p l i h => setWords_cons g l h, ?_, ?_⟩
  · intro s rest b g w0 w1 w2 set last s0 s1 h f entry hs hm hp hr hf hk hset hlen hlast ht u ws ctx alone
    have hnext : afterSet h.2 set = packetBase h.2 + BitVec.ofNat 64 (4 * (last.pos + last.len)) := by
      rw [afterSet, hlast]
    have hws : 2 ≤ ws.length := (setWords_length 7 set).symm ▸ hlen
    have hissue : issueGroup exec s0 b g = issueSet exec u b g h.1 h.2 (afterSet h.2 set) ws := by
      subst hset
      exact issueGroup_issues hp hr hf hk ht
    have hctx : setCtx u b g h.1 h.2 (afterSet h.2 set) false = ctx := by rw [hnext]; rfl
    have halone (w : SetWord) (t : State) (ha : alone w t) : issueOne exec u (ctx w) w = .next t := by
      obtain ⟨i, hi, he⟩ := ha
      exact (issueOne_of_instr hi).trans he
    have htry (l m : List SetWord) (hl : ∀ v ∈ l, ∃ t, alone v t ∧ t.went) :
        trySet exec u ctx (l ++ m) = trySet exec u ctx m :=
      trySet_append fun v hv => (hl v hv).imp fun t ht => ⟨halone v t ht.1, ht.2⟩
    refine ⟨fun l w m t hw hl ha hn => step_of_issue hs hm ?_, fun hall => ?_⟩
    · rw [hissue]
      refine issueSet_stops hws ?_
      rw [hctx, hw, htry l _ hl, trySet_stops (halone w t ha) hn]
    · have hnone : trySet exec u ctx ws = .next none := by
        rw [← List.append_nil ws, htry ws [] hall]; rfl
      have hruns {t : State} (hr : runSet exec ctx (controlLast ws) u = .next t) :
          step s = .next (setDone u t b g (ws.any (·.switch))).count := by
        refine step_of_issue hs hm ?_
        rw [hissue]
        exact issueSet_runs hws (by rw [hctx]; exact hnone) (by rw [hctx]; exact hr)
      refine ⟨fun t hacts => ?_, fun l w m i v t hw hacts hi he => ?_⟩
      · have hne : ws ≠ [] := by rintro e; simp [e] at hws
        have hr : runSet exec ctx (controlLast ws ++ []) u = runSet exec ctx [] t := runSet_of_acts hacts
        rw [List.append_nil] at hr
        rw [hruns (hr.trans rfl), setDone_went (went_of_acts hacts (controlLast_ne_nil hne))]
      · have hr (ht : ¬ t.went) : runSet exec ctx (controlLast ws) u = .next t := by
          rw [hw, runSet_of_acts hacts]
          exact runSet_stops ((issueOne_of_instr hi).trans he) ht
        refine ⟨fun x hx => ?_, fun hb p hp => ?_⟩
        · rw [hruns (hr (not_went_iff.2 (.inr ⟨x, hx⟩))), setDone_trapped hx]
        · rw [hruns (hr (not_went_iff.2 (.inl hb))), setDone_blocked hb hp]
  · intro s rest b g hs hm
    have hc : choiceStep exec { s with script := rest } (.issue b g) = .next { s with script := rest } := by
      rw [choiceStep, hm]
      rfl
    exact step_of_choice hs hc
  · intro s t rest i
    refine ⟨fun k hs ha hi he => step_of_choice hs ?_, fun hs hi he => step_of_choice hs ?_⟩
    · rw [choiceStep, runEvent]
      simp only [ha, hi, Bool.false_eq_true, if_false, he]
    · rw [choiceStep, if_pos hi, he]

end Sys2Proof.Machine
end

section
/-!
SUPPORT. Pending bits, and the write of an outstanding result (R17, R20, R21, R153).
-/

namespace Sys2Proof.Machine

/-! ### Pending bits -/

theorem getLsbD_and_not_twoPow {n : Nat} (x : BitVec n) (r k : Nat) :
    (x &&& ~~~BitVec.twoPow n r).getLsbD k = if k = r then false else x.getLsbD k := by
  by_cases hk : k < n
  · rcases eq_or_ne k r with rfl | e
    · simp [hk]
    · simp [hk, e]
  · simp [BitVec.getLsbD_of_ge x k (by omega)]

theorem getLsbD_or_twoPow {n : Nat} (x : BitVec n) {r : Nat} (hr : r < n) (k : Nat) :
    (x ||| BitVec.twoPow n r).getLsbD k = (decide (k = r) || x.getLsbD k) := by
  rcases eq_or_ne k r with rfl | e
  · simp [hr]
  · simp [e, e.symm]

theorem isPending_v (y : Group) (n : Nat) : y.isPending RegFile.v.code n = y.pendV.getLsbD n := rfl
theorem isPending_s (y : Group) (n : Nat) : y.isPending RegFile.s.code n = y.pendS.getLsbD n := rfl
theorem isPending_p (y : Group) (n : Nat) : y.isPending RegFile.p.code n = (n != 127 && y.pendP.getLsbD n) := rfl

/-- The pending bits of the other files are as before. -/
theorem isPending_setPending_ne (y : Group) {f k : RegFile} (h : k ≠ f) (r n : Nat) (on : Bool) :
    (y.setPending f r on).isPending k.code n = y.isPending k.code n := by
  by_cases h7 : r = 127 <;> cases f <;> cases k <;>
    simp_all [Group.setPending, isPending_v, isPending_s, isPending_p]

/-- A pending bit cleared is clear, and every other one as before; p127 has none (R14). -/
theorem isPending_setPending_false (y : Group) (f k : RegFile) (r n : Nat) :
    (y.setPending f r false).isPending k.code n = if k = f ∧ n = r then false else y.isPending k.code n := by
  rcases eq_or_ne k f with rfl | h
  · cases k
    · simp [isPending_v, Group.setPending, -BitVec.getLsbD_and, getLsbD_and_not_twoPow]
    · simp [isPending_s, Group.setPending, -BitVec.getLsbD_and, getLsbD_and_not_twoPow]
    · by_cases h7 : r = 127
      · simp +contextual [isPending_p, Group.setPending, h7]
      · rw [isPending_p, isPending_p, Group.setPending, if_neg h7]
        simp only [Bool.false_eq_true, if_false, getLsbD_and_not_twoPow, true_and]
        split <;> simp
  · rw [isPending_setPending_ne y h, if_neg (by simp [h])]

/-- A pending bit of a lane or uniform register set (R17). -/
theorem isPending_setPending_true (y : Group) {f : RegFile} (hf : f ≠ .p) (k : RegFile) {r : Nat} (hr : r < 32) (n : Nat) :
    (y.setPending f r true).isPending k.code n = (decide (k = f ∧ n = r) || y.isPending k.code n) := by
  rcases eq_or_ne k f with rfl | h
  · cases k
    · simp only [isPending_v, Group.setPending, if_true, getLsbD_or_twoPow _ hr, true_and]
    · simp only [isPending_s, Group.setPending, if_true, getLsbD_or_twoPow _ hr, true_and]
    · exact absurd rfl hf
  · rw [isPending_setPending_ne y h, decide_eq_false (by simp [h]), Bool.false_or]

/-! ### The write of an outstanding result -/

/-- What the write puts into the registers and predicates of its group. -/
def VarOut.wrote (o : VarOut) (y : Group) : Group :=
  match o.file with
  | .v =>
    let y1 := y.wv o.reg o.lanes fun L => o.vals.getD L 0
    if o.hi.isEmpty then y1 else y1.wv (o.reg + 1) o.lanes fun L => o.hi.getD L 0
  | .s => y.ws o.reg (o.vals.headD 0)
  | .p => y.wp o.reg o.lanes o.mask

/-- The pending bits that the write clears. -/
def VarOut.cleared (o : VarOut) (y : Group) : Group :=
  let y2 := y.setPending o.file o.reg false
  if o.hi.isEmpty then y2 else y2.setPending o.file (o.reg + 1) false

theorem setPending_rest (y : Group) (f : RegFile) (r : Nat) (on : Bool) :
    { y.setPending f r on with pendV := y.pendV, pendS := y.pendS, pendP := y.pendP } = y := by
  cases f
  · rfl
  · rfl
  · unfold Group.setPending
    dsimp only
    split <;> rfl

/-- Clearing pending bits leaves all else. -/
theorem VarOut.cleared_rest (o : VarOut) (y : Group) :
    { o.cleared y with pendV := y.pendV, pendS := y.pendS, pendP := y.pendP } = y := by
  have h1 := setPending_rest y o.file o.reg false
  unfold VarOut.cleared
  dsimp only
  split
  · exact h1
  · generalize y.setPending o.file o.reg false = z at h1
    have h2 := setPending_rest z o.file (o.reg + 1) false
    conv_rhs => rw [← h1, ← h2]

/-- The write of registers leaves all else. -/
theorem VarOut.wrote_rest (o : VarOut) (y : Group) : { o.wrote y with v := y.v, u := y.u, p := y.p } = y := by
  unfold VarOut.wrote Group.wp
  split
  · dsimp only
    split <;> rfl
  · rfl
  · split <;> rfl

theorem VarOut.apply_rest (o : VarOut) (y : Group) :
    { o.apply y with
      v := y.v, u := y.u, p := y.p, pendV := y.pendV, pendS := y.pendS, pendP := y.pendP, flags := y.flags
      outs := y.outs } = y := by
  have hc := congrArg (fun z : Group => { z with
    v := y.v, u := y.u, p := y.p, pendV := y.pendV, pendS := y.pendS, pendP := y.pendP, flags := y.flags
    outs := y.outs }) (o.cleared_rest (o.wrote y))
  have hw := congrArg (fun z : Group => { z with
    pendV := y.pendV, pendS := y.pendS, pendP := y.pendP, flags := y.flags, outs := y.outs }) (o.wrote_rest y)
  exact hc.trans hw

/-- A field of a group that the write of registers leaves. -/
theorem VarOut.wrote_eq {α : Type} (o : VarOut) (y : Group) (p : Group → α)
    (hp : ∀ (z : Group) v u q, p { z with v := v, u := u, p := q } = p z) : p (o.wrote y) = p y := by
  conv_rhs => rw [← o.wrote_rest y, hp]

/-- A field of a group that clearing pending bits leaves. -/
theorem VarOut.cleared_eq {α : Type} (o : VarOut) (y : Group) (p : Group → α)
    (hp : ∀ (z : Group) a b c, p { z with pendV := a, pendS := b, pendP := c } = p z) : p (o.cleared y) = p y := by
  conv_rhs => rw [← o.cleared_rest y, hp]

theorem VarOut.isPending_cleared (o : VarOut) (y : Group) (k : RegFile) (n : Nat) :
    (o.cleared y).isPending k.code n
      = if k = o.file ∧ (n = o.reg ∨ (o.hi ≠ [] ∧ n = o.reg + 1)) then false else y.isPending k.code n := by
  unfold VarOut.cleared
  dsimp only
  split
  · rename_i h
    simp only [isPending_setPending_false, List.isEmpty_iff.1 h, ne_eq, not_true_eq_false, false_and, or_false]
  · rename_i h
    rw [List.isEmpty_iff] at h
    simp only [isPending_setPending_false, ne_eq, h, not_false_eq_true, true_and]
    by_cases hk : k = o.file <;> by_cases h1 : n = o.reg <;> by_cases h2 : n = o.reg + 1 <;> simp [hk, h1, h2]

theorem VarOut.isPending_apply (o : VarOut) (y : Group) (k : RegFile) (n : Nat) :
    (o.apply y).isPending k.code n
      = if k = o.file ∧ (n = o.reg ∨ (o.hi ≠ [] ∧ n = o.reg + 1)) then false else y.isPending k.code n := by
  have hw : (o.wrote y).isPending k.code n = y.isPending k.code n :=
    o.wrote_eq y (·.isPending k.code n) fun _ _ _ _ => rfl
  rw [← hw, ← o.isPending_cleared]
  rfl

theorem VarOut.rv_apply (o : VarOut) (y : Group) {r L : Nat} (hL : L < 32) :
    (o.apply y).rv r L
      = if o.file = .v ∧ o.lanes.getLsbD L ∧ r = o.reg then o.vals.getD L 0
        else if o.file = .v ∧ o.lanes.getLsbD L ∧ o.hi ≠ [] ∧ r = o.reg + 1 then o.hi.getD L 0 else y.rv r L := by
  have hc : (o.apply y).rv r L = (o.wrote y).rv r L := o.cleared_eq (o.wrote y) (·.rv r L) fun _ _ _ _ => rfl
  rw [hc]
  unfold VarOut.wrote
  split
  case h_1 e =>
    dsimp only
    split
    · rename_i h
      rw [rv_wv _ _ _ _ _ _ hL, List.isEmpty_iff.1 h]
      simp [e, and_comm]
    · rename_i h
      rw [List.isEmpty_iff] at h
      rw [rv_wv _ _ _ _ _ _ hL, rv_wv _ _ _ _ _ _ hL]
      by_cases h1 : r = o.reg
      · subst h1; simp [e, h]
      · simp [e, h, h1, and_comm]
  case h_2 e => simp [e]
  case h_3 e => simp [e]

theorem VarOut.rs_apply (o : VarOut) (y : Group) (r : Nat) :
    (o.apply y).rs r = if o.file = .s ∧ r = o.reg then o.vals.headD 0 else y.rs r := by
  have hc : (o.apply y).rs r = (o.wrote y).rs r := o.cleared_eq (o.wrote y) (·.rs r) fun _ _ _ _ => rfl
  rw [hc]
  unfold VarOut.wrote
  split
  case h_1 e =>
    dsimp only
    split <;> simp [e]
  case h_2 e => simp [e, rs_ws]
  case h_3 e => simp [e]

theorem VarOut.pbit_apply (o : VarOut) (y : Group) (n L : Nat) :
    (o.apply y).pbit n L
      = if o.file = .p ∧ n = o.reg ∧ n ≠ 127 ∧ o.lanes.getLsbD L then o.mask.getLsbD L else y.pbit n L := by
  have hc : (o.apply y).rp n = (o.wrote y).rp n := o.cleared_eq (o.wrote y) (·.rp n) fun _ _ _ _ => rfl
  rw [Group.pbit, Group.pbit, hc]
  unfold VarOut.wrote
  split
  case h_1 e =>
    dsimp only
    split <;> simp [e]
  case h_2 e => simp [e]
  case h_3 e =>
    rw [rp_wp]
    by_cases h1 : n = o.reg
    · by_cases h2 : n = 127
      · simp [e, h2, ← h1]
      · cases h3 : o.lanes.getLsbD L <;> by_cases hL : L < 32 <;> simp_all
    · simp [h1]

/-- Settles O14: the write is `VarOut.apply` on the group, read back part by part. -/
theorem laterResultsWrite : Obligations.LaterResultsWrite := by
  intro b g s o hb hg hfind _
  refine ⟨o.apply (s.grp b g), ?_, o.apply_rest _, ?_, ?_, fun r L _ hL => o.rv_apply _ hL, o.rs_apply _,
    o.pbit_apply _, o.isPending_apply _⟩
  · change execVariableLatencyResultWrite b g o.uid s = _
    rw [execVariableLatencyResultWrite]
    simp only [hfind, updGrp_of hb hg]
  · have h : ((o.cleared (o.wrote (s.grp b g))).flags) = (s.grp b g).flags :=
      (o.cleared_eq _ (·.flags) fun _ _ _ _ => rfl).trans (o.wrote_eq _ (·.flags) fun _ _ _ _ => rfl)
    rw [← h]; rfl
  · have h : ((o.cleared (o.wrote (s.grp b g))).outs) = (s.grp b g).outs :=
      (o.cleared_eq _ (·.outs) fun _ _ _ _ => rfl).trans (o.wrote_eq _ (·.outs) fun _ _ _ _ => rfl)
    rw [← h]; rfl

end Sys2Proof.Machine
end

section
/-!
SUPPORT. The control transfers (R22, R285, R289 to R291).
-/

namespace Sys2Proof.Machine

/-- The target of a label is the byte address that R22 gives. -/
theorem branchTarget_eq (wpc : Word) (o : BitVec 16) : branchTarget wpc o = targetOf wpc o := by
  rw [targetOf, BitVec.ofInt_add, BitVec.ofInt_add, BitVec.ofInt_mul, BitVec.ofInt_natCast, BitVec.ofNat_toNat,
    BitVec.setWidth_eq, branchTarget, BitVec.mul_comm]
  rfl

/-- Flags raised before another change of the group. -/
theorem raised_upd {i : Instr} {c : IssueCtx} {s : State} (h : AtIssue i c s) (y : Group) (fl : Flags)
    (f : Group → Group) :
    (((issueOf i c s).raise (s.setGrp c.blk c.grp y) fl).updGrp c.blk c.grp f).markDone
      = wordDone s c (f { y with flags := y.flags ||| fl }) fl := by
  obtain ⟨hc, hr, -⟩ := h
  unfold Issue.raise
  simp only [show (issueOf i c s).b = c.blk from rfl, show (issueOf i c s).g = c.grp from rfl, updGrp_setGrp]
  rw [updGrp_of (by simp [State.setGrp, State.setBlk]) (by simp [State.blk, State.setGrp, State.setBlk, Block.setGrp])]
  simp [State.markDone, wordDone, State.setGrp, State.setBlk, hc, hr, oset_oset, Block.setGrp, State.grp, Block.grp,
    State.blk]

/-- A branch moves the active lanes to their targets, the others of the head run on, and does nothing else. -/
theorem jump_effects {i : Instr} {c : IssueCtx} {s : State} (h : AtIssue i c s) (tgt : Nat → Word)
    {f : Issue → State → State} (he : Sys2Proof.Machine.exec i s = issueWord i s f)
    (hf : f (issueOf i c s) (s.advance (issueOf i c s)) = jump (issueOf i c s) (s.advance (issueOf i c s)) tgt) :
    Effects i c s (.jump (issueOf i c s).act tgt) := by
  refine effects_of h (((c.group s).setPc c.run fun _ => c.next).setPc (issueOf i c s).act tgt) he ?_ ?_
  · rw [hf, jump, advance_of h]
    simp only [show (issueOf i c s).b = c.blk from rfl, show (issueOf i c s).g = c.grp from rfl, updGrp_setGrp]
    rw [setGrp_done h]
    rfl
  · constructor
    case pcs =>
      intro L hL
      rw [lanePc_setPc _ _ _ _ hL, lanePc_setPc _ _ _ _ hL]
      simp only [Written.jump]
      split <;> rfl
    case flags => simp [Written.jump, Written.nothing]
    all_goals intros; rfl

/-- A call also writes the link to v31 of the active lanes. -/
theorem call_effects {i : Instr} {c : IssueCtx} {s : State} (h : AtIssue i c s) (tgt : Nat → Word)
    {f : Issue → State → State} (he : Sys2Proof.Machine.exec i s = issueWord i s f)
    (hf : f (issueOf i c s) (s.advance (issueOf i c s))
      = jump (issueOf i c s) (link (issueOf i c s) (s.advance (issueOf i c s))) tgt) :
    Effects i c s (.call (issueOf i c s).act (issueOf i c s).next tgt) := by
  refine effects_of h _ he (by
    rw [hf, jump, link, Issue.setV, advance_of h]
    simp only [show (issueOf i c s).b = c.blk from rfl, show (issueOf i c s).g = c.grp from rfl, updGrp_setGrp]
    rw [raised_upd h]
    rfl) ?_
  constructor
  case lanes =>
    intro r L _ hL
    rw [rv_setPc]
    show Group.rv (Group.wv _ _ _ _) r L = _
    rw [rv_wv _ _ _ _ _ _ hL]
    simp only [Written.call, Written.lanes]
    split <;> rfl
  case pcs =>
    intro L hL
    rw [lanePc_setPc _ _ _ _ hL]
    show (if _ then _ else Group.lanePc (Group.setPc _ _ _) L) = _
    rw [lanePc_setPc _ _ _ _ hL]
    simp only [Written.call]
    split <;> rfl
  all_goals intros; rfl

theorem notUniform_eq_false {I : Issue} (h : BitVec 2) (hu : uniformPasses I h) : notUniform I h = false := by
  unfold notUniform
  by_cases h3 : h = 3
  · rcases hu h3 with e | e <;> simp [e]
  · rw [beq_eq_false_iff_ne.2 h3, Bool.false_and, Bool.false_and]

/-- Settles O11: each transfer is a jump of its active lanes, a call one that also writes the link. -/
theorem transfersMoveLanes : Obligations.TransfersMoveLanes := by
  intro i c s W hW hu h
  have target (o : BitVec 16) : (fun _ : Nat => targetOf c.wpc o) = fun _ => branchTarget c.wpc o :=
    funext fun _ => (branchTarget_eq _ _).symm
  cases i <;> cases hW
  case bra hint g o =>
    rw [show (issueOf (.bra hint g o) c s).wpc = c.wpc from rfl, target]
    refine jump_effects h _ (show _ = execBra hint g o s from rfl) ?_
    exact if_neg (by rw [notUniform_eq_false hint hu]; exact Bool.false_ne_true)
  case brx a g => exact jump_effects h _ (show _ = execBrx a g s from rfl) rfl
  case call hint g o =>
    rw [show (issueOf (.call hint g o) c s).wpc = c.wpc from rfl, target]
    refine call_effects h _ (show _ = execCall hint g o s from rfl) ?_
    exact if_neg (by rw [notUniform_eq_false hint hu]; exact Bool.false_ne_true)
  case callx a g => exact call_effects h _ (show _ = execCallx a g s from rfl) rfl
  case ret g => exact jump_effects h _ (show _ = execRet g s from rfl) rfl

end Sys2Proof.Machine
end

section
/-!
SUPPORT. What keeps a word, a set or a packet from its effect: the checks of R29, R303, R342 and R289, and the fetch of R286.
-/

namespace Sys2Proof.Machine

/-! ### The checks of one word -/

section
variable {i : Instr} {I : Issue} {s : State}

theorem wordIllegal_iff {b : Nat} :
    wordIllegal i s b = true ↔ i.legal = false ∨ ((s.blk b).job.isSome = true ∧ jobIllegal i = true) := by
  simp [wordIllegal]

theorem wordPrivileged_iff {y : Group} : wordPrivileged i y = true ↔ i.privileged = true ∧ y.level = false := by
  simp [wordPrivileged]

theorem wordTrap_illegal (h : wordIllegal i s I.b = true) :
    wordTrap i I s = some (I.trapOf 7 (errDetail 2 I.run I.word 0 0) []) := if_pos h

theorem wordTrap_privileged (h : ¬ wordIllegal i s I.b = true) (hp : wordPrivileged i I.G = true) :
    wordTrap i I s = some (I.trapOf 7 (errDetail 3 I.run I.word 0 0) []) := by
  rw [wordTrap, if_neg h, if_pos hp]

theorem wordTrap_pending (h : ¬ wordIllegal i s I.b = true) (hp : ¬ wordPrivileged i I.G = true) {f r : Nat}
    (hq : wordPending i 7 I.G = some (f, r)) :
    wordTrap i I s = some (I.trapOf 7 (errDetail 4 I.run I.word f r) []) := by
  rw [wordTrap, if_neg h, if_neg hp, hq]

theorem wordTrap_forbidden (h : ¬ wordIllegal i s I.b = true) (hp : ¬ wordPrivileged i I.G = true)
    (hq : wordPending i 7 I.G = none) (hd : detForbidden i = true) (hg : (s.gridOf I.b).determ = true) (ha : I.act ≠ 0) :
    wordTrap i I s = some (I.trapOf 8 (forbiddenDetail i I.act) []) := by
  rw [wordTrap, if_neg h, if_neg hp, hq]
  exact if_pos (by simpa [hd, hg] using ha)

end

/-- SIZE and WRITE of a forbidden operation are those of its access (R342, R347). -/
theorem forbiddenAccess_eq (i : Instr) :
    forbiddenAccess i = ((forbiddenSize i).1, if (forbiddenSize i).2 then 1 else 0) := by
  have one (w : BitVec 1) : w.toNat = if w = 1 then 1 else 0 := by revert w; decide
  cases i
  case lda d a w m g => exact congrArg (·, 0) (one w)
  case str w a b m g => exact congrArg (·, 1) (one w)
  all_goals rfl

theorem forbiddenDetail_eq (i : Instr) (act : Mask) :
    forbiddenDetail i act
      = BitVec.ofNat 96 (act.toNat + 2 ^ 32 + 2 ^ 36 * (forbiddenAccess i).2 + 2 ^ 38 * (forbiddenAccess i).1) := by
  rw [forbiddenDetail, forbiddenAccess_eq]
  split <;> rfl

/-- The first pending register of a word, in the order of R21. -/
theorem wordPending_eq_some {i : Instr} {y : Group} {before after : List (Nat × Nat)} {f r : Nat}
    (h : i.touched (i.guard.getD 7) = before ++ (f, r) :: after) (hb : ∀ q ∈ before, y.isPending q.1 q.2 = false)
    (hr : y.isPending f r = true) : wordPending i 7 y = some (f, r) := by
  rw [wordPending, h, List.find?_append, List.find?_eq_none.2 (by simpa using hb), Option.none_or,
    List.find?_cons_of_pos (by simpa using hr)]

theorem wordPending_eq_none {i : Instr} {y : Group} (h : ∀ q ∈ i.touched (i.guard.getD 7), y.isPending q.1 q.2 = false) :
    wordPending i 7 y = none := by
  rw [wordPending, List.find?_eq_none]
  simpa using h

/-! ### The uniformity trap -/

/-- A word that has ended in some way is not done in another. -/
theorem markDone_mark (s : State) {r : IssueRes} (h : r ≠ .none) : (s.mark r).markDone = s.mark r := by
  unfold State.mark State.markDone
  cases s.cur <;> simp [h]

/-- A word whose meaning traps takes the trap with its head run on its first word. -/
theorem traps_of_trap {i : Instr} {c : IssueCtx} {s : State} (h : AtIssue i c s) {t : Trap}
    {f : Issue → State → State} (he : Sys2Proof.Machine.exec i s = issueWord i s f)
    (hf : f (issueOf i c s) (s.advance (issueOf i c s)) = (issueOf i c s).trap (s.advance (issueOf i c s)) t) :
    Traps i c s t := by
  refine ⟨_, ?_, headAt_setPc_setPc c c.next c.pc (c.group s)⟩
  rw [he, issueWord_done h, hf, advance_of h, Issue.trap, State.putBack]
  simp only [show (issueOf i c s).b = c.blk from rfl, show (issueOf i c s).g = c.grp from rfl, updGrp_setGrp]
  rw [markDone_mark _ (by simp)]
  rfl

theorem notUniform_eq_true {I : Issue} (h0 : I.act ≠ 0) (h1 : I.act ≠ I.run) : notUniform I 3 = true := by
  rw [notUniform, beq_self_eq_true, bne_iff_ne.2 h0, bne_iff_ne.2 h1]
  rfl

/-- A uniform branch or call whose guard holds in some lanes and not in all takes the uniformity trap (R289). -/
theorem traps_of_notUniform {i : Instr} {c : IssueCtx} {s : State} (h : AtIssue i c s) (hi : hintOf i = 3)
    (h0 : (issueOf i c s).act ≠ 0) (h1 : (issueOf i c s).act ≠ c.run) :
    Traps i c s (uniformTrap (issueOf i c s)) := by
  have hn := notUniform_eq_true h0 h1
  cases i
  case bra hint g o =>
    obtain rfl : hint = 3 := hi
    exact traps_of_trap h (show _ = execBra 3 g o s from rfl) (if_pos hn)
  case call hint g o =>
    obtain rfl : hint = 3 := hi
    exact traps_of_trap h (show _ = execCall 3 g o s from rfl) (if_pos hn)
  all_goals cases hi

/-! ### The checks of a set -/

/-- The words of a set after others inherit some guard (R16). -/
theorem setWords_append (g : BitVec 4) (l m : List PWord) :
    ∃ k, setWords g (l ++ m) = setWords g l ++ setWords k m := by
  induction l generalizing g with
  | nil => exact ⟨g, rfl⟩
  | cons p l ih =>
    simp only [setWords, List.cons_append]
    exact (ih _).imp fun k hk => congrArg _ hk

/-- A word of a set holds what its bits decode to. -/
theorem instr_of_mem_setWords {g : BitVec 4} {l : List PWord} {w : SetWord} (h : w ∈ setWords g l) {P : Instr → Prop}
    (hl : ∀ q ∈ l, ∃ i, decodeWord q.bits q.raw = .ok i ∧ P i) : ∃ i, w.instr = some i ∧ P i := by
  induction l generalizing g with
  | nil => cases h
  | cons p l ih =>
    obtain ⟨i, hi, hP⟩ := hl p (by simp)
    rw [setWords_cons g l hi] at h
    rcases List.mem_cons.1 h with rfl | h
    · exact ⟨i, rfl, hP⟩
    · exact ih h fun q hq => hl q (by simp [hq])

/-- The first word of a set that decodes to nothing, where those before it are legal, is the one reported (R29 order 2). -/
theorem setTrap_undecoded {l m : List PWord} {p : PWord} {y : Group} {s : State} {b : Nat}
    (hl : ∀ q ∈ l, ∃ i, decodeWord q.bits q.raw = .ok i ∧ wordIllegal i s b = false)
    (hp : ∃ e, decodeWord p.bits p.raw = .error e) :
    setTrap (setWords 7 (l ++ p :: m)) y s b = some (2, p.bits, 0, 0) := by
  obtain ⟨k, hk⟩ := setWords_append 7 l (p :: m)
  obtain ⟨e, he⟩ := hp
  rw [setTrap, hk, List.find?_append, List.find?_eq_none.2, Option.none_or]
  · rw [setWords]
    simp only [he]
    rfl
  · intro w hw
    obtain ⟨i, hi, hP⟩ := instr_of_mem_setWords hw hl
    simp [hi, hP]

/-! ### The fetch of a packet -/

theorem packetBase_toNat (pc : Word) : (packetBase pc).toNat = pc.toNat / 12 * 12 := by
  rw [packetBase, BitVec.toNat_ofNat]
  have := pc.isLt
  omega

theorem canonical_eq_false {va : Word} (h : va.toNat / 2 ^ 53 ≠ 0) : canonical va = false := by
  have := va.isLt
  simp only [canonical, bits, beq_eq_false_iff_ne]
  omega

theorem canonical_eq_true {va : Word} (h : va.toNat / 2 ^ 53 = 0) : canonical va = true := by
  rw [canonical, bits, h]
  rfl

theorem fetchPacket_misaligned {s : State} {b : Nat} {pc : Word} (h : pc.toNat % 4 ≠ 0) :
    s.fetchPacket b pc = (s, ⟨1, pc, []⟩) := if_pos (by simpa using h)

/-- A packet whose first word cannot be fetched fails with its code, at the PC unless the packet crosses a page (R286). -/
theorem fetchPacket_fails {s u : State} {b code v : Nat} {pc : Word} (h : pc.toNat % 4 = 0)
    (hf : s.fetchWord b (packetBase pc) = (u, code, v)) (hc : code ≠ 0) :
    s.fetchPacket b pc = (u, ⟨code,
      if (packetBase pc).toNat / 4096 = ((packetBase pc).toNat + 11) / 4096 then pc else packetBase pc, []⟩) := by
  have hw : s.fetchWords b (packetBase pc) [0, 1, 2] = (u, ⟨code, packetBase pc, []⟩) := by
    rw [State.fetchWords]
    simp [hf, hc]
  rw [State.fetchPacket]
  simp only [hw, h]
  by_cases hx : (packetBase pc).toNat / 4096 = ((packetBase pc).toNat + 11) / 4096
  · rw [if_pos hx]
    simp [hc, ← hx]
  · rw [if_neg hx]
    simp [hx]

section
variable {s : State} {b : Nat} {va : Word} (ha : va.toNat % 4 = 0)
include ha

theorem fetchWord_notCanonical (h : va.toNat / 2 ^ 53 ≠ 0) : s.fetchWord b va = (s, 2, 0) := by
  rw [State.fetchWord]
  simp [ha, canonical_eq_false h]

variable (hc : va.toNat / 2 ^ 53 = 0)
include hc

theorem fetchWord_noSummary (h : summaryPerm (s.summaryOf (s.blk b).core (s.blk b).space va) va &&& 4 ≠ 4) :
    s.fetchWord b va = (s.cacheSummary (s.blk b).core (s.blk b).space va, 3, 0) := by
  rw [State.fetchWord]
  simp [ha, canonical_eq_true hc, State.summaryOk, h]

theorem fetchWord_notFound (h : summaryPerm (s.summaryOf (s.blk b).core (s.blk b).space va) va &&& 4 = 4)
    (hx : ((s.cacheSummary (s.blk b).core (s.blk b).space va).seek (s.blk b).space va 4 4).2.code ≠ 0) :
    s.fetchWord b va
      = (((s.cacheSummary (s.blk b).core (s.blk b).space va).seek (s.blk b).space va 4 4).1,
        ((s.cacheSummary (s.blk b).core (s.blk b).space va).seek (s.blk b).space va 4 4).2.code, 0) := by
  rw [State.fetchWord]
  simp [ha, canonical_eq_true hc, State.summaryOk, h, hx]

end

/-- The detail of a fetch fault (R99). -/
theorem memDetail_fetch (va : Word) (code : Nat) (run : Mask) :
    memDetail va 0 false false code run = BitVec.ofNat 96 (accessDetail run code 0 false va) := by
  simp [memDetail, accessDetail, sizeCode, sizeField, bits]

/-- A packet is illegal for a chain that runs out of it, a raw word outside it, a set that may not issue or an entry at a
raw word (R29 order 1). -/
theorem packetOk_eq_false_iff (w0 w1 w2 entry : Nat) :
    packetOk w0 w1 w2 entry = false ↔
      (∃ w ∈ packetWords w0 w1 w2, w.chain = true ∧ w.pos + w.len = 3)
        ∨ (∃ w ∈ packetWords w0 w1 w2, w.pos = 2 ∧ isWOp w.bits = true)
        ∨ (∃ set ∈ chainSets (packetWords w0 w1 w2), setOk set = false)
        ∨ ∀ w ∈ packetWords w0 w1 w2, w.pos ≠ entry := by
  rw [← not_iff_not, Bool.not_eq_false]
  simp [packetOk, and_assoc, imp_iff_not_or]

/-- The trap of R29 on a set, with the detail of R352. -/
theorem encodingTrap_eq (pc : Word) (run : Mask) (cause bits file idx : Nat) :
    encodingTrap pc run cause bits file idx
      = ⟨7, BitVec.ofNat 96 (programError cause run (BitVec.ofNat 32 bits) file idx), pc, run, [], none⟩ := rfl

/-! ### The obligation -/

/-- The checks of R29 (orders 2 to 4) and R342 on a word at issue, in their order. -/
theorem word_traps (i : Instr) (c : IssueCtx) (s : State) (hi : i.isWord = true) (hc : s.cur = some c)
    (hb : (oget s.blocks c.blk).isSome = true) (hg : (oget (s.blk c.blk).groups c.grp).isSome = true) :
    let I := issueOf i c s
    let illegal := i.legal = false ∨ ((s.blk c.blk).job.isSome = true ∧ jobIllegal i = true)
    let privileged := i.privileged = true ∧ I.G.level = false
    (illegal → Traps i c s (c.trapOf 7 (programError 2 c.run c.word 0 0) []))
    ∧ (¬ illegal → privileged → Traps i c s (c.trapOf 7 (programError 3 c.run c.word 0 0) []))
    ∧ (¬ illegal → ¬ privileged → ∀ before f r after, i.touched (i.guard.getD 7) = before ++ (f, r) :: after →
        (∀ q ∈ before, I.G.isPending q.1 q.2 = false) → I.G.isPending f r = true →
        Traps i c s (c.trapOf 7 (programError 4 c.run c.word f r) []))
    ∧ (¬ illegal → ¬ privileged → (∀ q ∈ i.touched (i.guard.getD 7), I.G.isPending q.1 q.2 = false) →
        detForbidden i = true → (s.gridOf c.blk).determ = true → I.act ≠ 0 →
        Traps i c s (c.trapOf 8
          (I.act.toNat + 2 ^ 32 + 2 ^ 36 * (forbiddenAccess i).2 + 2 ^ 38 * (forbiddenAccess i).1) [])) := by
  intro I illegal privileged
  obtain ⟨f, hf⟩ := exec_word i hi
  have traps {t : Trap} (ht : wordTrap i I s = some t) : Traps i c s t := traps_of hc hb hg ht (hf s)
  have hill : wordIllegal i s I.b = true ↔ illegal := wordIllegal_iff
  have hpriv : wordPrivileged i I.G = true ↔ privileged := wordPrivileged_iff
  refine ⟨fun h => traps (wordTrap_illegal (hill.2 h)), fun h hp => ?_, fun h hp before f r after ht hq hr => ?_,
    fun h hp hq hd hdet ha => ?_⟩
  · exact traps (wordTrap_privileged (mt hill.1 h) (hpriv.2 hp))
  · exact traps (wordTrap_pending (mt hill.1 h) (mt hpriv.1 hp) (wordPending_eq_some ht hq hr))
  · have ht := wordTrap_forbidden (mt hill.1 h) (mt hpriv.1 hp) (wordPending_eq_none hq) hd hdet ha
    rw [forbiddenDetail_eq] at ht
    exact traps ht

/-- Settles O12: the checks of a word, of a set, of a packet and of its fetch, each with the trap that it takes. -/
theorem encodingTraps : Obligations.EncodingTraps := by
  refine ⟨fun i c s hi hc _ hb hg => word_traps i c s hi hc hb hg,
    fun i c s h hi h0 h1 => traps_of_notUniform h hi h0 h1, ?_, packetOk_eq_false_iff, ?_⟩
  · intro s rest b g s0 s1 h f entry traps hs hm hp hr
    refine ⟨fun hc => ?_, fun w0 w1 w2 hf => ⟨fun hk => ?_, fun l p m hk hset hl hbad => ?_⟩⟩
    · refine step_of_issue hs hm ?_
      rw [issueGroup_fetchFault hp hr hc, fetchTrap, memDetail_fetch]
      rfl
    · refine step_of_issue hs hm ?_
      rw [issueGroup_badPacket hp hr hf hk, encodingTrap_eq]
      rfl
    · have hlegal : ∀ q ∈ l, ∃ i, decodeWord q.bits q.raw = .ok i ∧ wordIllegal i f.1 b = false := by
        intro q hq
        obtain ⟨i, hi, hleg, hjob⟩ := hl q hq
        refine ⟨i, hi, ?_⟩
        rw [← Bool.not_eq_true, wordIllegal_iff]
        rintro (h | ⟨hj, h⟩)
        · simp [hleg] at h
        · simp [hjob hj] at h
      have ht : setTrap (setWords 7 (entrySet w0 w1 w2 entry)) (f.1.grp b g) f.1 b = some (2, p.bits, 0, 0) := by
        rw [hset]; exact setTrap_undecoded hlegal hbad
      refine step_of_issue hs hm ?_
      rw [issueGroup_setTrap hp hr hf hk ht, encodingTrap_eq]
      rfl
  · intro s b pc base k space t x fails
    have ha : base.toNat % 4 = 0 := by rw [packetBase_toNat]; omega
    refine ⟨fetchPacket_misaligned, fun h hb => fetchPacket_fails h (fetchWord_notCanonical ha hb) (by norm_num),
      fun h hb => ⟨fun hs => fetchPacket_fails h (fetchWord_noSummary ha hb hs) (by norm_num),
        fun hs hx => fetchPacket_fails h (fetchWord_notFound ha hb hs hx) hx⟩⟩

end Sys2Proof.Machine
end

section
/-!
SUPPORT. Words of variable latency at issue (R17, R21, R155, R205): the result outstanding, its register pending, the LFSRs
and the stream stepped.
-/

namespace Sys2Proof.Machine

/-! ### The group and the state of a word that leaves a result -/

/-- The outstanding result of number `uid`. -/
def Awaited.out (A : Awaited) (uid : Nat) (act : Mask) : VarOut :=
  ⟨uid, uid, A.file, A.reg, act, A.vals, [], 0, A.flags, 0⟩

/-- A group with an outstanding result and its register pending. -/
def VarOut.awaitedIn (o : VarOut) (y : Group) : Group :=
  ({ y with outs := y.outs ++ [o] } : Group).setPending o.file o.reg true

/-- The state with the group at issue changed to `y`, the result numbered and its write on the agenda. -/
def State.awaiting (s : State) (c : IssueCtx) (y : Group) : State :=
  (s.tick.post (.variableLatencyResultWrite c.blk c.grp s.fresh)).setGrp c.blk c.grp y

/-- What a pending register leaves of a group, read through a projection of the other fields. -/
theorem VarOut.awaitedIn_eq {α : Type} (o : VarOut) (y : Group) (p : Group → α)
    (hp : ∀ (z : Group) l a b d, p { z with outs := l, pendV := a, pendS := b, pendP := d } = p z) :
    p (o.awaitedIn y) = p y := by
  have e := setPending_rest { y with outs := y.outs ++ [o] } o.file o.reg true
  rw [← hp (o.awaitedIn y) y.outs y.pendV y.pendS y.pendP]
  exact congrArg p (congrArg (fun z : Group => { z with outs := y.outs }) e)

/-- A group with all that a result of variable latency changes as in `y`. -/
def Group.putBack (x y : Group) : Group :=
  { x with outs := y.outs, pendV := y.pendV, pendS := y.pendS, pendP := y.pendP, pc := y.pc, lfsr := y.lfsr }

/-- The group with the result of `A` outstanding and its head run moved on. -/
def Awaited.leaves (A : Awaited) (uid : Nat) (c : IssueCtx) (act : Mask) (y : Group) : Group :=
  (A.out uid act).awaitedIn (y.setPc c.run fun _ => c.next)

/-- The group that a word of variable latency leaves, whatever it does to its LFSRs. -/
theorem Awaited.holds_of (A : Awaited) (hf : A.file ≠ .p) (hr : A.reg < 32) {uid : Nat} {c : IssueCtx} {act : Mask}
    {y w : Group} (hw : { w with lfsr := (A.leaves uid c act y).lfsr } = A.leaves uid c act y)
    (hl : ∀ L, L < 32 → w.lf L = (A.lf L).getD (y.lf L)) : A.Holds uid c act y w := by
  have of {α : Type} (p : Group → α) (hp : ∀ (x : Group) l, p { x with lfsr := l } = p x) :
      p w = p (A.leaves uid c act y) :=
    (hp w _).symm.trans (congrArg p hw)
  constructor
  case rest =>
    exact (of (·.putBack y) fun _ _ => rfl).trans ((A.out uid act).awaitedIn_eq _ (·.putBack y) fun _ _ _ _ _ => rfl)
  case outs =>
    rw [of (·.outs) fun _ _ => rfl]
    have e := setPending_rest { y.setPc c.run fun _ => c.next with outs := y.outs ++ [A.out uid act] } A.file A.reg true
    exact congrArg (·.outs) e
  case pending =>
    intro f r
    rw [of (·.isPending f.code r) fun _ _ => rfl]
    exact isPending_setPending_true _ hf f hr r
  case lfsrs => exact hl
  case pcs =>
    intro L hL
    rw [of (·.lanePc L) fun _ _ => rfl]
    exact ((A.out uid act).awaitedIn_eq _ (·.lanePc L) fun _ _ _ _ _ => rfl).trans (lanePc_setPc _ _ _ _ hL)

theorem Awaited.lf_leaves (A : Awaited) (uid : Nat) (c : IssueCtx) (act : Mask) (y : Group) (L : Nat) :
    (A.leaves uid c act y).lf L = y.lf L :=
  (A.out uid act).awaitedIn_eq _ (·.lf L) fun _ _ _ _ _ => rfl

/-- No lane has its LFSR stepped. -/
theorem setLf_zero (y : Group) (f : Nat → Word32) : y.setLf 0 f = y := by
  have : lanesOf 0 = [] := List.eq_nil_iff_forall_not_mem.2 fun L => by simp [mem_lanesOf]
  unfold Group.setLf
  rw [this]
  rfl

/-! ### The end of such a word -/

/-- What is left of a word after its result is outstanding: nothing where no lane is active, and else the move of RCTR
by `n` (R155). -/
structure Finishes (I : Issue) (c : IssueCtx) (s : State) (k : State → State) (n : Word) : Prop where
  idle : I.act = 0 → ∀ t, k t = t
  done : I.act ≠ 0 → ∀ y, (k (s.awaiting c y)).markDone = resultAwaited s c y n

theorem finishes_id {i : Instr} {c : IssueCtx} {s : State} (h : AtIssue i c s) :
    Finishes (issueOf i c s) c s id 0 := by
  obtain ⟨hc, hr, -⟩ := h
  refine ⟨fun _ _ => rfl, fun _ y => ?_⟩
  simp [State.awaiting, State.markDone, resultAwaited, wordDone, State.setGrp, State.setBlk, State.tick, State.post,
    State.blk, hc, hr, oset_oset, Block.setGrp]

theorem finishes_advanceStream {i : Instr} {c : IssueCtx} {s : State} (h : AtIssue i c s) (n : Word) :
    Finishes (issueOf i c s) c s (fun t => advanceStream (issueOf i c s) t n) n := by
  obtain ⟨hc, hr, -⟩ := h
  refine ⟨fun ha t => by simp [advanceStream, ha], fun ha y => ?_⟩
  rw [advanceStream, if_neg (by simpa using ha), show (issueOf i c s).b = c.blk from rfl,
    updBlk_of (by simp [State.awaiting, State.setGrp, State.setBlk])]
  simp [State.awaiting, State.markDone, resultAwaited, wordDone, State.setGrp, State.setBlk, State.tick, State.post,
    State.blk, hc, hr, oset_oset, Block.setGrp]

/-- What O13 says of a word at issue that leaves the result `A`. -/
def Awaits (i : Instr) (c : IssueCtx) (s : State) (A : Awaited) : Prop :=
  if (issueOf i c s).act = 0 then Effects i c s Written.nothing
  else ∃ y, Sys2Proof.Machine.exec i s = .next (resultAwaited s c y A.step)
    ∧ A.Holds s.fresh c (issueOf i c s).act (c.group s) y
    ∧ ∀ d pa, (resultAwaited s c y A.step).physByte d pa = s.physByte d pa

section
variable {i : Instr} {c : IssueCtx} {s : State} {f : Issue → State → State} {k : State → State} {n : Word}

theorem fresh_advance (h : AtIssue i c s) : (s.advance (issueOf i c s)).fresh = s.fresh := by
  rw [advance_of h]; rfl

/-- A result of active lanes, left after the head run moved on. -/
theorem later_advance (h : AtIssue i c s) (A : Awaited) (ha : (issueOf i c s).act ≠ 0) :
    (s.advance (issueOf i c s)).later c.blk c.grp (A.out s.fresh (issueOf i c s).act)
      = s.awaiting c (A.leaves s.fresh c (issueOf i c s).act (c.group s)) := by
  have ho : ((A.out s.fresh (issueOf i c s).act).lanes == 0) = false := by simpa [Awaited.out] using ha
  rw [advance_of h, State.later, ho, if_neg Bool.false_ne_true,
    show ∀ y, (s.setGrp c.blk c.grp y).tick = s.tick.setGrp c.blk c.grp y from fun _ => rfl, updGrp_setGrp]
  rfl

/-- No result is left where no lane is active. -/
theorem later_idle (t : State) (b g : Nat) (o : VarOut) (ho : o.lanes = 0) : t.later b g o = t := by
  rw [State.later, ho]
  exact if_pos rfl

/-- From the group that a word leaves to the whole of its issue. -/
theorem awaits_of (h : AtIssue i c s) (A : Awaited) (y : Group)
    (he : Sys2Proof.Machine.exec i s = issueWord i s f) (hk : Finishes (issueOf i c s) c s k A.step)
    (h0 : (issueOf i c s).act = 0 → f (issueOf i c s) (s.advance (issueOf i c s)) = k (s.advance (issueOf i c s)))
    (h1 : (issueOf i c s).act ≠ 0 → f (issueOf i c s) (s.advance (issueOf i c s)) = k (s.awaiting c y))
    (hy : A.Holds s.fresh c (issueOf i c s).act (c.group s) y) : Awaits i c s A := by
  unfold Awaits
  split
  · rename_i ha
    exact nothing_effects h he ((h0 ha).trans (hk.idle ha _))
  · rename_i ha
    exact ⟨y, by rw [he, issueWord_done h, h1 ha, hk.done ha], hy, fun _ _ => rfl⟩

/-- A word that leaves a result and steps no LFSR. -/
theorem result_awaits (h : AtIssue i c s) (A : Awaited) (hfile : A.file ≠ .p) (hreg : A.reg < 32)
    (hlf : A.lf = fun _ => none) (he : Sys2Proof.Machine.exec i s = issueWord i s f)
    (hk : Finishes (issueOf i c s) c s k A.step)
    (hf : f (issueOf i c s) (s.advance (issueOf i c s))
      = k ((s.advance (issueOf i c s)).later c.blk c.grp
        (A.out (s.advance (issueOf i c s)).fresh (issueOf i c s).act))) : Awaits i c s A := by
  rw [fresh_advance h] at hf
  refine awaits_of h A (A.leaves s.fresh c (issueOf i c s).act (c.group s)) he hk (fun ha => ?_) (fun ha => ?_)
    (A.holds_of hfile hreg rfl fun L _ => ?_)
  · rw [hf, later_idle _ _ _ _ ha]
  · rw [hf, later_advance h A ha]
  · rw [hlf, A.lf_leaves]; rfl

/-- A lane-register result. -/
theorem lanes_awaits (h : AtIssue i c s) (d : BitVec 5) (g : Nat → Word × Flags)
    (he : Sys2Proof.Machine.exec i s = issueWord i s f) (hk : Finishes (issueOf i c s) c s k n)
    (hf : f (issueOf i c s) (s.advance (issueOf i c s)) = k ((issueOf i c s).laterV (s.advance (issueOf i c s)) d g)) :
    Awaits i c s (.lanes (issueOf i c s) d n g) :=
  result_awaits h (.lanes (issueOf i c s) d n g) nofun d.isLt rfl he hk hf

/-- A uniform-register result. -/
theorem uniform_awaits (h : AtIssue i c s) (d : BitVec 5) (r : Word × Flags)
    (he : Sys2Proof.Machine.exec i s = issueWord i s f)
    (hf : f (issueOf i c s) (s.advance (issueOf i c s)) = (issueOf i c s).laterS (s.advance (issueOf i c s)) d r) :
    Awaits i c s ⟨.s, d.toNat, [r.1], r.2, fun _ => none, 0⟩ :=
  result_awaits h ⟨.s, d.toNat, [r.1], r.2, fun _ => none, 0⟩ nofun d.isLt rfl he (finishes_id h) hf

/-- A lane-register result whose rounding may step the LFSR of the active lanes (R205). -/
theorem float_awaits (h : AtIssue i c s) (d : BitVec 5) (sr : Bool) (g : Nat → LaneOut)
    (he : Sys2Proof.Machine.exec i s = issueWord i s f) (hk : Finishes (issueOf i c s) c s k n)
    (hf : f (issueOf i c s) (s.advance (issueOf i c s)) = k (laterF (issueOf i c s) (s.advance (issueOf i c s)) d sr g)) :
    Awaits i c s (.float (issueOf i c s) d sr n g) := by
  let A : Awaited := .float (issueOf i c s) d sr n g
  cases sr with
  | false => exact result_awaits h A RegFile.noConfusion d.isLt (by simp [A, Awaited.float]) he hk hf
  | true =>
    let steps (y : Group) : Group := y.setLf (issueOf i c s).act fun L => (g L).lfsr
    replace hf : f (issueOf i c s) (s.advance (issueOf i c s)) = k (State.updGrp
      ((s.advance (issueOf i c s)).later c.blk c.grp
        (A.out (s.advance (issueOf i c s)).fresh (issueOf i c s).act)) c.blk c.grp steps) := hf
    rw [fresh_advance h] at hf
    refine awaits_of h A (steps (A.leaves s.fresh c (issueOf i c s).act (c.group s))) he hk (fun ha => ?_)
      (fun ha => ?_) (A.holds_of RegFile.noConfusion d.isLt rfl fun L hL => ?_)
    · rw [hf, later_idle _ _ _ _ ha, advance_of h, updGrp_setGrp]
      simp only [steps, ha, setLf_zero]
    · rw [hf, later_advance h A ha, State.awaiting, updGrp_setGrp, State.awaiting]
    · rw [lf_setLf _ _ _ _ hL, A.lf_leaves]
      simp only [A, Awaited.float, true_and]
      split <;> rfl

/-- A quotient or a remainder on lane or uniform registers (R180). -/
theorem int_awaits (h : AtIssue i c s) (u : Bool) (d a b : BitVec 5) (g : Word → Word → Word × Flags)
    (he : Sys2Proof.Machine.exec i s = issueWord i s f)
    (hf : f (issueOf i c s) (s.advance (issueOf i c s)) = intLater (issueOf i c s) (s.advance (issueOf i c s)) u d a b g) :
    Awaits i c s (.int (issueOf i c s) u d a b g) := by
  cases u with
  | true => exact uniform_awaits h d _ he hf
  | false => exact lanes_awaits h d _ he (finishes_id h) hf

end

/-! ### The values of single words -/

/-- The quotient and the remainder of R180. -/
theorem intQuot_eq (w32 sgn : Bool) (a b : Word) : intQuot (opWidth w32) sgn a b = quotRem w32 sgn a b := by
  have ht := Int.tmod_def (sIn (ruleWidth w32) a) (sIn (ruleWidth w32) b)
  have hm : uIn (ruleWidth w32) a % uIn (ruleWidth w32) b
      = uIn (ruleWidth w32) a - uIn (ruleWidth w32) b * (uIn (ruleWidth w32) a / uIn (ruleWidth w32) b) :=
    Nat.mod_eq_sub _ _
  rw [intQuot, quotRem, ← ht, ← hm]
  rfl

/-- The source lane of SHFL (R165). -/
theorem shflLane_eq (m : BitVec 2) {L : Nat} (hL : L < 32) (w : Word) :
    (if shflLane m L w < 32 then shflLane m L w else L) = (shuffleFrom m L w).getD L := by
  unfold shflLane shuffleFrom
  by_cases h0 : m = 0
  · simp [h0, Nat.mod_lt]
  by_cases h1 : m = 1
  · by_cases h : w.toNat ≤ L
    · simp [h1, h, show L - w.toNat < 32 by omega]
    · simp [h1, h]
  by_cases h2 : m = 2
  · by_cases h : L + w.toNat < 32 <;> simp [h2, h]
  · have hx : L ^^^ w.toNat % 32 < 2 ^ 5 := Nat.xor_lt_two_pow hL (Nat.mod_lt _ (by norm_num))
    simp only [h0, h1, h2, if_false]
    exact if_pos hx

/-- The lanes of SCAN (R167). -/
theorem scanned_eq (x : BitVec 1) (k L : Nat) :
    (if x == 1 then decide (k < L) else decide (k ≤ L)) = (decide (k < L) || (x == 0 && k == L)) := by
  rcases (show x = 0 ∨ x = 1 by revert x; decide) with rfl | rfl
  · by_cases h : k < L
    · simp [h, h.le]
    · simp [h, show k ≤ L ↔ k = L by omega, Bool.beq_eq_decide_eq]
  · simp

section
variable {i : Instr} {c : IssueCtx} {s : State}

theorem blk_advance (h : AtIssue i c s) : (s.advance (issueOf i c s)).blk c.blk
    = (s.blk c.blk).setGrp c.grp ((c.group s).setPc c.run fun _ => c.next) := by
  rw [advance_of h, blk_setGrp]

theorem lfsrOf_advance (h : AtIssue i c s) (L : Nat) :
    lfsrOf (issueOf i c s) (s.advance (issueOf i c s)) L
      = (s.grp (issueOf i c s).b (issueOf i c s).g).lf L := by
  rw [lfsrOf, advance_of h]
  exact congrArg (·.lf L) (State.grp_setGrp s c.blk c.grp _)

/-- A lane-register result rests on the values of the 32 lanes. -/
theorem lanes_congr (I : Issue) (d : BitVec 5) (n : Word) {f g : Nat → Word × Flags} (hf : ∀ L, L < 32 → f L = g L) :
    Awaited.lanes I d n f = .lanes I d n g := by
  have hv : (perLane fun L => (f L).1) = perLane fun L => (g L).1 :=
    List.map_congr_left fun L hL => by rw [hf L (List.mem_range.1 hL)]
  have hw : (flagsOf I.act fun L => (f L).2) = flagsOf I.act fun L => (g L).2 :=
    List.foldl_ext _ _ _ fun _ L hL => by simp only [hf L ((mem_lanesOf _ _).1 hL).1]
  rw [Awaited.lanes, hv, Written.flagsIn, hw]
  rfl

/-- A special function (R203). -/
theorem special_awaits {f : Issue → State → State} (h : AtIssue i c s) (d a : BitVec 5) (m : BitVec 2) (fn : SpecialFn)
    (he : Sys2Proof.Machine.exec i s = issueWord i s f)
    (hf : f (issueOf i c s) (s.advance (issueOf i c s))
      = specialOf (issueOf i c s) (s.advance (issueOf i c s)) d a m fn) :
    Awaits i c s (specialLane (issueOf i c s) d a m fn) :=
  lanes_awaits h d _ he (finishes_id h) hf

end

/-- The first part of O13: every word of `laterRule` leaves the result of its rule. -/
theorem laterRule_awaits (i : Instr) (c : IssueCtx) (s : State) (A : Awaited)
    (hA : laterRule (issueOf i c s) s i = some A) (h : AtIssue i c s) : Awaits i c s A := by
  cases i <;> cases hA
  case idiv d a b m g =>
    refine int_awaits h _ d a b _ (show _ = execIdiv d a b m g s from rfl) ?_
    simp only [← intQuot_eq]; rfl
  case irem d a b m g =>
    refine int_awaits h _ d a b _ (show _ = execIrem d a b m g s from rfl) ?_
    simp only [← intQuot_eq]; rfl
  case shfl d a b m g =>
    rw [← lanes_congr _ d 0 fun L hL => by rw [← shflLane_eq m hL]]
    exact lanes_awaits h d _ (show _ = execShfl d a b m g s from rfl) (finishes_id h) rfl
  case bcast d a b g => exact lanes_awaits h d _ (show _ = execBcast d a b g s from rfl) (finishes_id h) rfl
  case redg d a m g => exact lanes_awaits h d _ (show _ = execRedg d a m g s from rfl) (finishes_id h) rfl
  case scan d a x m g =>
    refine lanes_awaits h d _ (show _ = execScan d a x m g s from rfl) (finishes_id h) ?_
    simp only [← scanned_eq]; rfl
  case fdiv d a b m g =>
    refine float_awaits h d _ _ (show _ = execFdiv d a b m g s from rfl) (finishes_id h) ?_
    simp only [← lfsrOf_advance h]; rfl
  case ex2 d a m g => exact special_awaits h d a m .ex2 (show _ = execEx2 d a m g s from rfl) rfl
  case lg2 d a m g => exact special_awaits h d a m .lg2 (show _ = execLg2 d a m g s from rfl) rfl
  case rcp d a m g => exact special_awaits h d a m .rcp (show _ = execRcp d a m g s from rfl) rfl
  case rsq d a m g => exact special_awaits h d a m .rsq (show _ = execRsq d a m g s from rfl) rfl
  case sqrt d a m g => exact special_awaits h d a m .sqrt (show _ = execSqrt d a m g s from rfl) rfl
  case sin d a m g => exact special_awaits h d a m .sin (show _ = execSin d a m g s from rfl) rfl
  case cos d a m g => exact special_awaits h d a m .cos (show _ = execCos d a m g s from rfl) rfl
  case tanh d a m g => exact special_awaits h d a m .tanh (show _ = execTanh d a m g s from rfl) rfl
  case sigm d a m g => exact special_awaits h d a m .sigm (show _ = execSigm d a m g s from rfl) rfl
  case rgen d g => exact lanes_awaits h d _ (show _ = execRgen d g s from rfl) (finishes_advanceStream h 32) rfl
  case runi d g => exact lanes_awaits h d _ (show _ = execRuni d g s from rfl) (finishes_advanceStream h 32) rfl
  case rgaus d g => exact lanes_awaits h d _ (show _ = execRgaus d g s from rfl) (finishes_advanceStream h 32) rfl
  case rcat d a b g => exact lanes_awaits h d _ (show _ = execRcat d a b g s from rfl) (finishes_advanceStream h 64) rfl
  case dsamp d a m r g =>
    refine float_awaits h d _ _ (show _ = execDsamp d a m r g s from rfl) (finishes_advanceStream h 128) ?_
    simp only [← lfsrOf_advance h]; rfl
  case tlrd d b g =>
    refine lanes_awaits h d _ (show _ = execTlrd d b g s from rfl) (finishes_id h) ?_
    have e : ((s.advance (issueOf (.tlrd d b g) c s)).blk c.blk).issued = (s.blk c.blk).issued := by rw [blk_advance h]; rfl
    simp only [show (issueOf (.tlrd d b g) c s).b = c.blk from rfl, ← e]; rfl

end Sys2Proof.Machine
end

section
/-!
SUPPORT. The mean of an MV result is its exact value rounded once (R44 to R47, R183, R185): what holds of every instruction
that ends in `mvOp`.
-/

namespace Sys2Proof.Laws

open Sys2Proof.Machine Sys2Proof.Numbers

/-! ### A rounding rests on the number and not on its fraction -/

theorem goesAway_scale (sr : Option Nat) (t rem den : Nat) {c : Nat} (hc : 0 < c) :
    goesAway sr t (rem * c) (den * c) ↔ goesAway sr t rem den := by
  have e1 : den * c < 2 * (rem * c) ↔ den < 2 * rem := by rw [← mul_assoc]; exact Nat.mul_lt_mul_right hc
  have e2 : 2 * (rem * c) = den * c ↔ 2 * rem = den := by rw [← mul_assoc]; exact Nat.mul_left_inj hc.ne'
  have e3 : rem * c * 2 ^ 24 / (den * c) = rem * 2 ^ 24 / den := by
    rw [mul_right_comm]; exact Nat.mul_div_mul_right _ _ hc
  cases sr with
  | none => simp only [goesAway, e1, e2]
  | some r => simp only [goesAway, e3, ne_eq, mul_eq_zero, hc.ne', or_false]

theorem roundsTo_scale (F : Fmt) (sr : Option Nat) (neg : Bool) (num den r : Nat) (fl : Flags) {c : Nat} (hc : 0 < c) :
    RoundsTo F sr neg (num * c) (den * c) r fl ↔ RoundsTo F sr neg num den r fl := by
  have le (a b : Nat) : a * (den * c) ≤ b * (num * c) ↔ a * den ≤ b * num := by
    rw [← mul_assoc, ← mul_assoc]; exact Nat.mul_le_mul_right_iff hc
  have le1 (a : Nat) : a * (den * c) ≤ num * c ↔ a * den ≤ num := by simpa using le a 1
  have lt (a : Nat) : num * c < a * (den * c) ↔ num < a * den := by
    rw [← mul_assoc]; exact Nat.mul_lt_mul_right hc
  have eq (a : Nat) : num * c = a * (den * c) ↔ num = a * den := by
    rw [← mul_assoc]; exact Nat.mul_left_inj hc.ne'
  have sub (a b : Nat) : b * (num * c) - a * (den * c) = (b * num - a * den) * c := by
    rw [← mul_assoc, ← mul_assoc, Nat.sub_mul]
  have sub1 (a : Nat) : num * c - a * (den * c) = (num - a * den) * c := by simpa using sub a 1
  have away (k t x : Nat) : goesAway sr t (x * c) (2 ^ k * (den * c)) ↔ goesAway sr t x (2 ^ k * den) := by
    rw [← mul_assoc]; exact goesAway_scale sr t x _ hc
  simp only [RoundsTo, le, le1, lt, eq, sub, sub1, away, ne_eq, goesAway_scale _ _ _ _ hc]

/-- Equal fractions round alike. -/
theorem roundsTo_congr (F : Fmt) (sr : Option Nat) (neg : Bool) (r : Nat) (fl : Flags) {n d m e : Nat} (hd : 0 < d)
    (he : 0 < e) (h : n * e = m * d) (S : Nat) : RoundsTo F sr neg (n * 2 ^ S) d r fl ↔ RoundsTo F sr neg (m * 2 ^ S) e r fl := by
  rw [← roundsTo_scale F sr neg (n * 2 ^ S) d r fl he, ← roundsTo_scale F sr neg (m * 2 ^ S) e r fl hd,
    mul_right_comm, h, mul_right_comm m, mul_comm d e]

/-! ### The exact values of the model -/

/-- A value of the model, with the flags of its making, is an exact result. -/
def Stands (x : FVal × Flags) : Exact → Prop
  | .nan invalid => x.1.isNan = true ∧ x.2 = flagIf invalid flagINV
  | .inf neg byZero => x = (.inf neg, flagIf byZero flagDZ)
  | .num neg n d => 0 < d ∧ ∃ n' d', x = (.fin neg n' d', 0) ∧ 0 < d' ∧ n' * d = n * d'

theorem round_nan (F : Fmt) (m : RMode) {x : FVal} (h : x.isNan = true) :
    (Machine.round F m x).bits = F.nan ∧ (Machine.round F m x).flags = 0 := by
  cases x with
  | nan => exact ⟨rfl, rfl⟩
  | inf => cases h
  | fin => cases h

/-- A value that stands for an exact result rounds as that does. -/
theorem rounds_of_stands {F : Fmt} {b K : Nat} (G : GoodFmt F b K) {m : RMode} (hm : Nearest m) {x : FVal × Flags}
    {X : Exact} (h : Stands x X) :
    X.Rounds F (srOf m) (Machine.round F m x.1).bits (x.2 ||| (Machine.round F m x.1).flags) := by
  cases X with
  | nan invalid =>
    obtain ⟨hn, hf⟩ := h
    obtain ⟨h1, h2⟩ := round_nan F m hn
    exact ⟨h1, by simp [h2, hf]⟩
  | inf neg byZero =>
    cases h
    cases he : F.e4m3 <;> simp [Exact.Rounds, Machine.round, he, encoded, Fmt.pack]
  | num neg n d =>
    obtain ⟨hd, n', d', rfl, hd', e⟩ := h
    have hr := round_fin F b K G m hm neg n' d' hd'
    have hz : n = 0 ↔ n' = 0 := by
      constructor
      · rintro rfl; simpa [hd.ne'] using e
      · rintro rfl; simpa [hd'.ne'] using e.symm
    simp only [show ∀ fl : Flags, 0 ||| fl = fl from fun _ => BitVec.zero_or]
    unfold Exact.Rounds at hr ⊢
    by_cases h0 : n' = 0
    · simpa only [h0, hz.2 h0, if_true] using hr
    · simp only [h0, if_false] at hr
      simp only [mt hz.1 h0, if_false]
      exact (roundsTo_congr F _ neg _ _ hd' hd e _).1 hr

/-! ### What an encoding stands for -/

section
variable {F : Fmt} (h4 : F.e4m3 = false) (x : Nat)
include h4

theorem value_nan (hf : 0 < F.fbits) (h : isNan F x = true) : F.value x = .nan (isSnan F x) := by
  have hx : x % 2 ^ F.mag < 2 ^ F.ebits * 2 ^ F.fbits := by rw [← pow_add]; exact Nat.mod_lt _ (by positivity)
  have hn : (2 ^ F.ebits - 1) * 2 ^ F.fbits < x % 2 ^ F.mag :=
    of_decide_eq_true (by rwa [isNan, h4, if_neg Bool.false_ne_true] at h)
  have hex : x % 2 ^ F.mag / 2 ^ F.fbits = 2 ^ F.ebits - 1 := by
    refine Nat.div_eq_of_lt_le hn.le ?_
    rwa [Nat.sub_add_cancel Nat.one_le_two_pow]
  have hfr : x % 2 ^ F.mag % 2 ^ F.fbits ≠ 0 := by
    have := Nat.div_add_mod (x % 2 ^ F.mag) (2 ^ F.fbits)
    rw [hex, mul_comm] at this
    omega
  have hq : (x % 2 ^ F.mag % 2 ^ F.fbits / 2 ^ (F.fbits - 1) == 0) = isSnan F x := by
    have e : x % 2 ^ F.mag % 2 ^ F.fbits = x % 2 ^ F.fbits := Nat.mod_mod_of_dvd _ (pow_dvd_pow _ (by simp [Fmt.mag]))
    have hp : 2 ^ F.fbits = 2 ^ (F.fbits - 1) * 2 := by rw [← pow_succ]; congr 1; omega
    rw [e, isSnan, h, h4, Nat.testBit_eq_decide_div_mod_eq, hp, Nat.mod_mul_right_div_self]
    rcases Nat.mod_two_eq_zero_or_one (x / 2 ^ (F.fbits - 1)) with e | e <;> simp [e]
  unfold Fmt.value
  simp [h4, hex, hfr, ← hq]

theorem value_inf (h : isInf F x = true) : F.value x = .inf (signBit F x) := by
  have hi : x % 2 ^ F.mag = (2 ^ F.ebits - 1) * 2 ^ F.fbits := by simpa [isInf, h4, magBits] using h
  unfold Fmt.value
  simp [h4, hi, signBit, Nat.testBit_eq_decide_div_mod_eq, Bool.beq_eq_decide_eq]

end

/-- The value of an encoding of a format with infinities, whose smallest subnormal is below 1. -/
theorem value_cases {F : Fmt} {b K : Nat} (G : GoodFmt F b K) (h4 : F.e4m3 = false) (x : Nat) :
    (isNan F x = true ∧ F.value x = .nan (isSnan F x))
      ∨ (isNan F x = false ∧ isInf F x = true ∧ F.value x = .inf (signBit F x))
      ∨ (isNan F x = false ∧ isInf F x = false
        ∧ ∃ n d, F.value x = .fin (signBit F x) n d ∧ 0 < d ∧ n * 2 ^ subExp F = units F x * d) := by
  cases hn : isNan F x with
  | true => exact .inl ⟨rfl, value_nan h4 x G.frac hn⟩
  | false =>
    cases hi : isInf F x with
    | true => exact .inr (.inl ⟨rfl, rfl, value_inf h4 x hi⟩)
    | false => exact .inr (.inr ⟨rfl, rfl, value_units F b G.bias G.biasPos G.frac x hn hi⟩)

theorem isNan_value {F : Fmt} {b K : Nat} (G : GoodFmt F b K) (h4 : F.e4m3 = false) (x : Nat) :
    (F.value x).isNan = isNan F x := by
  rcases value_cases G h4 x with ⟨h, e⟩ | ⟨h, -, e⟩ | ⟨h, -, n, d, e, -⟩ <;> rw [h, e] <;> rfl

/-! ### Values that are not below zero -/

/-- A value whose denominator is not zero. -/
def Proper : FVal → Prop
  | .fin _ _ d => 0 < d
  | _ => True

/-- One without a minus sign. -/
inductive NonNeg : FVal → Prop
  | nan (b : Bool) : NonNeg (.nan b)
  | inf : NonNeg (.inf false)
  | fin (n : Nat) {d : Nat} (hd : 0 < d) : NonNeg (.fin false n d)

theorem NonNeg.ite {c : Prop} [Decidable c] {x y : FVal × Flags} (hx : NonNeg x.1) (hy : NonNeg y.1) :
    NonNeg (if c then x else y).1 := by
  split
  · exact hx
  · exact hy

theorem proper_value {F : Fmt} {b K : Nat} (G : GoodFmt F b K) (h4 : F.e4m3 = false) (x : Nat) : Proper (F.value x) := by
  rcases value_cases G h4 x with ⟨-, e⟩ | ⟨-, -, e⟩ | ⟨-, -, n, d, e, hd, -⟩ <;> rw [e]
  · trivial
  · trivial
  · exact hd

theorem nonNeg_value {F : Fmt} {b K : Nat} (G : GoodFmt F b K) (h4 : F.e4m3 = false) {x : Nat} (h : signBit F x = false) :
    NonNeg (F.value x) := by
  rcases value_cases G h4 x with ⟨-, e⟩ | ⟨-, -, e⟩ | ⟨-, -, n, d, e, hd, -⟩ <;> rw [e]
  · exact .nan _
  · rw [h]; exact .inf
  · rw [h]; exact .fin n hd

theorem nonNeg_exMul_self {a : FVal} (h : Proper a) : NonNeg (exMul a a).1 := by
  cases a with
  | nan b => exact .nan _
  | inf s => simpa [exMul] using NonNeg.inf
  | fin s n d => simpa [exMul] using NonNeg.fin (n * n) (Nat.mul_pos h h)

theorem NonNeg.exMul {a b : FVal} (ha : NonNeg a) (hb : NonNeg b) : NonNeg (exMul a b).1 := by
  cases ha with
  | nan => exact .nan _
  | inf =>
    cases hb with
    | nan => exact .nan _
    | inf => exact .inf
    | fin m he => exact .ite (.nan _) .inf
  | fin n hd =>
    cases hb with
    | nan => exact .nan _
    | inf => exact .ite (.nan _) .inf
    | fin m he => exact .fin _ (Nat.mul_pos hd he)

theorem NonNeg.exDiv {a b : FVal} (ha : NonNeg a) (hb : NonNeg b) : NonNeg (exDiv a b).1 := by
  cases ha with
  | nan => exact .nan _
  | inf =>
    cases hb with
    | nan => exact .nan _
    | inf => exact .nan _
    | fin m he => exact .inf
  | fin n hd =>
    cases hb with
    | nan => exact .nan _
    | inf => exact .fin _ Nat.one_pos
    | fin m he =>
      rcases Nat.eq_zero_or_pos m with rfl | hm
      · exact .ite (.nan _) .inf
      · simpa [Machine.exDiv, hm.ne'] using NonNeg.fin _ (Nat.mul_pos hd hm)

theorem NonNeg.exAdd {a b : FVal} (ha : NonNeg a) (hb : NonNeg b) : NonNeg (exAdd a b).1 := by
  cases ha with
  | nan => exact .nan _
  | inf =>
    cases hb with
    | nan => exact .nan _
    | inf => exact .inf
    | fin m he => exact .inf
  | fin n hd =>
    cases hb with
    | nan => exact .nan _
    | inf => exact .inf
    | fin m he =>
      simp only [Machine.exAdd, addFin]
      split
      · exact .fin 0 Nat.one_pos
      · exact .fin _ (Nat.mul_pos hd he)

/-! ### The sign and the size of a rounding into FP32 -/

theorem encoded_fp32 (neg : Bool) {mag : Nat} (h : mag < 2 ^ 31) :
    encoded fp32 neg mag < 2 ^ 32 ∧ signBit fp32 (encoded fp32 neg mag) = neg := by
  have hm : fp32.mag = 31 := rfl
  have hs : fp32.signed = true := rfl
  cases neg
  · simp only [encoded, signBit, hm, hs, Bool.false_and, Bool.false_eq_true, if_false, Bool.true_and]
    exact ⟨by omega, Nat.testBit_lt_two_pow h⟩
  · simp only [encoded, signBit, hm, hs, Bool.true_and, if_true]
    exact ⟨by omega, by rw [Nat.testBit_two_pow_add_eq, Nat.testBit_lt_two_pow h]; rfl⟩

/-- A rounded number has its sign, and fits its 32 bits. -/
theorem rounds_num_fp32 {sr : Option Nat} {neg : Bool} {n d r : Nat} {fl : Flags}
    (h : (Exact.num neg n d).Rounds fp32 sr r fl) : r < 2 ^ 32 ∧ signBit fp32 r = neg := by
  simp only [Exact.Rounds] at h
  split at h
  · rw [h.1]; exact encoded_fp32 neg (by norm_num)
  · obtain ⟨k, t, u, -, -, -, -, -, -, big, fits⟩ := h
    rcases Nat.lt_or_ge (units fp32 fp32.maxMag) (u * 2 ^ k) with hu | hu
    · rw [(big hu).1]; exact encoded_fp32 neg (by decide)
    · obtain ⟨h1, h2, -⟩ := fits hu
      exact ⟨h1, h2.trans (Bool.and_true neg)⟩

theorem rounds_lt {X : Exact} {sr : Option Nat} {r : Nat} {fl : Flags} (h : X.Rounds fp32 sr r fl) : r < 2 ^ 32 := by
  cases X with
  | nan => rw [h.1]; decide
  | inf neg => rw [(show _ ∧ _ from h).1]; exact (encoded_fp32 neg (by decide)).1
  | num => exact (rounds_num_fp32 h).1

/-- A value without a minus sign keeps none (R44). -/
theorem NonNeg.rn32 {a : FVal} (h : NonNeg a) : NonNeg (rn32 a) := by
  refine nonNeg_value goodFmt_fp32 rfl ?_
  cases h with
  | nan => exact show signBit fp32 fp32.nan = false by decide
  | inf => exact show signBit fp32 (fp32.pack false fp32.infMag) = false by decide
  | fin n hd => exact (rounds_num_fp32 (round_fin fp32 127 253 goodFmt_fp32 .rn trivial false n _ hd)).2

/-! ### Variances -/

theorem nonNeg_fzero : NonNeg fzero := .fin 0 Nat.one_pos

theorem nonNeg_mul32_self {a : FVal} (h : Proper a) : NonNeg (mul32 a a) := (nonNeg_exMul_self h).rn32

theorem NonNeg.add32 {a b : FVal} (ha : NonNeg a) (hb : NonNeg b) : NonNeg (add32 a b) := (ha.exAdd hb).rn32

theorem NonNeg.pTerm {a b : FVal} (ha : NonNeg a) (hb : NonNeg b) : NonNeg (pTerm a b) := by
  unfold Machine.pTerm
  split
  · exact nonNeg_fzero
  · exact (ha.exMul hb).rn32

theorem NonNeg.qTerm {a b : FVal} (ha : NonNeg a) (hb : NonNeg b) : NonNeg (qTerm a b) := by
  unfold Machine.qTerm
  split
  · exact nonNeg_fzero
  · exact (ha.exDiv hb).rn32

theorem proper_meanOf (w : Word) : Proper (meanOf w) := proper_value goodFmt_fp32 rfl _

theorem proper_sensOf (w : Word) : Proper (sensOf w) := by
  unfold sensOf
  split
  · exact Nat.one_pos
  · exact proper_value goodFmt_e8m15 rfl _

/-- A variance is not below zero: E8M16 has no sign, and a sensitivity is squared (R41). -/
theorem nonNeg_varOf (w : Word) : NonNeg (varOf w) := by
  unfold varOf
  split
  · exact nonNeg_value goodFmt_e8m16 rfl rfl
  · exact nonNeg_mul32_self (proper_sensOf w)

/-- The variance that a rounding adds is not below zero (R48). -/
theorem nonNeg_roundVar (sr : Bool) (r : Rounded) : NonNeg (roundVar sr r) := by
  have hq := scaled_pos (2 * r.u)
  unfold roundVar
  split
  · exact .inf
  · split
    · dsimp only
      split
      · exact (NonNeg.fin _ (Nat.mul_pos hq (by positivity))).rn32
      · exact (NonNeg.fin _ (Nat.mul_pos (by norm_num) hq)).rn32
    · exact nonNeg_fzero

/-! ### The flags of IEEE arithmetic -/

theorem ieee_zero : ieee 0 = 0 := by decide

theorem ieee_or (a b : Flags) : ieee (a ||| b) = ieee a ||| ieee b := by
  unfold ieee
  ext i
  simp [Bool.and_or_distrib_right]

theorem ieee_flagIf_sovf (b : Bool) : ieee (flagIf b flagSOVF) = 0 := by
  cases b <;> decide

/-- A rounding raises no other flag. -/
theorem ieee_rounds {X : Exact} {F : Fmt} (h4 : F.e4m3 = false) {sr : Option Nat} {r : Nat} {fl : Flags}
    (h : X.Rounds F sr r fl) : ieee fl = fl := by
  cases X with
  | nan b => rw [h.2]; cases b <;> decide
  | inf neg b =>
    simp only [Exact.Rounds, h4, Bool.false_eq_true, if_false] at h
    rw [h.2]; cases b <;> decide
  | num neg n d =>
    simp only [Exact.Rounds] at h
    split at h
    · rw [h.2]; decide
    · obtain ⟨k, t, u, -, -, -, -, -, -, big, fits⟩ := h
      rcases Nat.lt_or_ge (units F F.maxMag) (u * 2 ^ k) with hu | hu
      · rw [(big hu).2]; decide
      · obtain ⟨-, -, -, exact_, normal, tiny⟩ := fits hu
        by_cases h1 : n * 2 ^ subExp F = t * 2 ^ k * d
        · rw [exact_ (not_not_intro h1)]; decide
        · by_cases h2 : n * 2 ^ subExp F < 2 ^ F.fbits * d
              ∧ ¬ ((2 ^ (F.fbits + 1) - 1) * d ≤ 2 * (n * 2 ^ subExp F)
                ∧ goesAway sr (2 ^ (F.fbits + 1) - 1) (2 * (n * 2 ^ subExp F) - (2 ^ (F.fbits + 1) - 1) * d) d)
          · rw [tiny h1 h2]; decide
          · rw [normal h1 h2]; decide

/-- A variance that is not below zero raises no IEEE flag (R42). -/
theorem ieee_varSpread {v : FVal} (h : NonNeg v) : ieee (varSpread v).2 = 0 := by
  cases h with
  | nan => exact ieee_zero
  | inf => exact show ieee flagSOVF = 0 by decide
  | fin n hd =>
    simp only [varSpread]
    split
    · exact ieee_zero
    · exact ieee_flagIf_sovf _

theorem ieee_sensSpread (tag : Nat) (s : FVal) : ieee (sensSpread tag s).2 = 0 := by
  unfold sensSpread
  split
  · rfl
  · exact ieee_flagIf_sovf _

theorem ieee_propagate (m : SMode) (ops : List Word) {v : FVal} (hv : NonNeg v) (s : FVal) :
    ieee (propagate m ops v s).2 = 0 := by
  unfold propagate
  dsimp only
  split
  · rfl
  · split
    · exact ieee_sensSpread _ _
    · exact ieee_varSpread hv

theorem ieee_afterRounding (sr : Bool) (r : Rounded) {p : Nat × Flags} (hp : ieee p.2 = 0) :
    ieee (afterRounding sr r p).2 = 0 := by
  unfold afterRounding addVarF addVar
  split
  · rw [ieee_or, hp]; decide
  · dsimp only
    rw [ieee_or, hp]
    split
    · rw [ieee_zero]; rfl
    · have hv : NonNeg (Machine.add32 (spreadVar p.1) (roundVar sr r)) := (nonNeg_varOf _).add32 (nonNeg_roundVar sr r)
      rw [ieee_varSpread hv]; rfl

/-! ### The result of an MV instruction -/

/-- The mode of a rounding: RN, or SR with the bits of the stepped LFSR (R47). -/
def modeFor (sr : Bool) (l : Word32) : RMode := if sr then .sr ((nextLfsr l).toNat % 2 ^ 24) else .rn

theorem nearest_modeFor (sr : Bool) (l : Word32) : Nearest (modeFor sr l) := by
  cases sr
  · trivial
  · exact Nat.mod_lt _ (by norm_num)

theorem srOf_modeFor (sr : Bool) (l : Word32) : srOf (modeFor sr l) = randomBits sr l := by cases sr <;> rfl

theorem narrow_eq (F : Fmt) (sr : Bool) (l : Word32) (x : FVal) :
    narrow F sr l x = (Machine.round F (modeFor sr l) x, if sr then nextLfsr l else l) := by cases sr <;> rfl

theorem toNat_mkMV (spread : Nat) {mean : Nat} (h : mean < 2 ^ 32) :
    (mkMV spread mean).toNat % 2 ^ 32 = mean ∧ (mkMV spread mean).toNat / 2 ^ 32 = spread % 2 ^ 32 := by
  rw [mkMV, BitVec.toNat_ofNat]
  omega

/-- The spread of operands that are all certain (R42). -/
theorem propagate_certain (m : SMode) {ops : List Word} (h : ∀ w ∈ ops, w.toNat < 2 ^ 32) (v s : FVal) :
    propagate m ops v s = (0, 0) := by
  have hN : (ops.filter fun w => spreadBits w != 0) = [] :=
    List.filter_eq_nil_iff.2 fun w hw => by
      simp only [spreadBits, Nat.div_eq_of_lt (h w hw), bne_self_eq_false, Bool.false_eq_true, not_false_eq_true]
  unfold propagate
  rw [hN]
  rfl

/-- The mean of `mvOp` is its exact value rounded once. -/
theorem mvOp_meanOf (m : SMode) (sr : Bool) (l : Word32) {ex : FVal × Flags} {X : Exact} (hX : Stands ex X)
    (ops : List Word) {v : FVal} (hv : NonNeg v) (s : FVal) :
    MeanOf (mvOp m sr l ex ops v s) sr l (∀ w ∈ ops, w.toNat < 2 ^ 32) X := by
  have hr := rounds_of_stands goodFmt_fp32 (nearest_modeFor sr l) hX
  rw [srOf_modeFor] at hr
  have hfl := ieee_rounds rfl hr
  have hlt := rounds_lt hr
  have hsp : ieee (if sr then afterRounding true (Machine.round fp32 (modeFor sr l) ex.1) (propagate m ops v s)
      else propagate m ops v s).2 = 0 := by
    split
    · exact ieee_afterRounding _ _ (ieee_propagate m ops hv s)
    · exact ieee_propagate m ops hv s
  have hz : sr = false → (∀ w ∈ ops, w.toNat < 2 ^ 32) → (if sr then
      afterRounding true (Machine.round fp32 (modeFor sr l) ex.1) (propagate m ops v s) else propagate m ops v s)
        = (0, 0) := by
    rintro rfl h; exact propagate_certain m h v s
  unfold mvOp
  rw [narrow_eq]
  dsimp only
  generalize (if sr then afterRounding true (Machine.round fp32 (modeFor sr l) ex.1) (propagate m ops v s)
    else propagate m ops v s) = sp at hsp hz
  generalize Machine.round fp32 (modeFor sr l) ex.1 = r at hr hfl hlt
  have hn := isNan_value goodFmt_fp32 rfl r.bits
  unfold mvResult
  cases hN : isNan fp32 r.bits with
  | true =>
    rw [hn, hN, if_pos rfl]
    obtain ⟨h1, h2⟩ := toNat_mkMV nanSpread hlt
    refine ⟨?_, rfl, fun _ => h2, fun _ _ h => ?_⟩
    · dsimp only
      rw [h1, ieee_or, hfl]
      simpa [ieee] using hr
    · rw [h1, hN] at h; cases h
  | false =>
    rw [hn, hN, if_neg Bool.false_ne_true]
    obtain ⟨h1, h2⟩ := toNat_mkMV sp.1 hlt
    refine ⟨?_, rfl, fun h => ?_, fun hc hs _ => ?_⟩
    · dsimp only
      rw [h1, ieee_or, hfl, hsp]
      simpa using hr
    · rw [h1, hN] at h; cases h
    · rw [h2, hz hs hc]; rfl

end Sys2Proof.Laws
end

section
/-!
SUPPORT. FDIV, RCP and the special values of the functions (R183, R189, R203, R204).
-/

namespace Sys2Proof.Laws

open Sys2Proof.Machine Sys2Proof.Numbers

/-! ### The exact quotient -/

theorem flagIf_or (a b : Bool) (f : Flags) : flagIf a f ||| flagIf b f = flagIf (a || b) f := by
  cases a <;> cases b <;> simp [flagIf]

theorem isSnan_of_not_nan {F : Fmt} {x : Nat} (h : isNan F x = false) : isSnan F x = false := by simp [isSnan, h]

theorem snanFlag_value {F : Fmt} {b K : Nat} (G : GoodFmt F b K) (h4 : F.e4m3 = false) (x : Nat) :
    snanFlag (F.value x) = flagIf (isSnan F x) flagINV := by
  rcases value_cases G h4 x with ⟨-, e⟩ | ⟨h, -, e⟩ | ⟨h, -, n, d, e, -⟩ <;> rw [e]
  · rfl
  · rw [isSnan_of_not_nan h]; rfl
  · rw [isSnan_of_not_nan h]; rfl

/-- A numerator is zero exactly if its units are. -/
theorem units_eq_zero {F : Fmt} {n d x : Nat} (hd : 0 < d) (h : n * 2 ^ subExp F = units F x * d) :
    units F x = 0 ↔ n = 0 := by
  constructor
  · intro h0; simpa [h0] using h
  · rintro rfl; simpa [hd.ne'] using h.symm

/-- The quotient of two finite values is that of their units. -/
theorem quotient_units {F : Fmt} {n d m e x y : Nat} (hx : n * 2 ^ subExp F = units F x * d)
    (hy : m * 2 ^ subExp F = units F y * e) : n * e * units F y = units F x * (d * m) := by
  refine Nat.eq_of_mul_eq_mul_right (show 0 < 2 ^ subExp F by positivity) ?_
  calc n * e * units F y * 2 ^ subExp F = n * 2 ^ subExp F * (units F y * e) := by ring
    _ = units F x * d * (m * 2 ^ subExp F) := by rw [hx, hy]
    _ = units F x * (d * m) * 2 ^ subExp F := by ring

/-- The model's quotient is the exact one. -/
theorem stands_quotient {F : Fmt} {b K : Nat} (G : GoodFmt F b K) (h4 : F.e4m3 = false) (x y : Nat) :
    Stands (opDiv (F.value x) (F.value y)) (quotientOf F x y) := by
  unfold opDiv quotientOf
  dsimp only
  rw [snanFlag_value G h4 x, snanFlag_value G h4 y, BitVec.or_assoc, flagIf_or]
  rcases value_cases G h4 x with ⟨hx, ex⟩ | ⟨hx, ix, ex⟩ | ⟨hx, ix, n, d, ex, hd, ux⟩
  · rw [ex, hx]
    exact ⟨rfl, BitVec.zero_or⟩
  · rcases value_cases G h4 y with ⟨hy, ey⟩ | ⟨hy, iy, ey⟩ | ⟨hy, iy, m, e, ey, he, uy⟩
    · rw [ex, ey, hx, hy]
      exact ⟨rfl, BitVec.zero_or⟩
    · rw [ex, ey, hx, hy, ix, iy, isSnan_of_not_nan hx, isSnan_of_not_nan hy]
      simp [exDiv, Stands, FVal.isNan, flagIf]
    · rw [ex, ey, hx, hy, ix, iy, isSnan_of_not_nan hx, isSnan_of_not_nan hy]
      simp [exDiv, Stands, flagIf]
  · rcases value_cases G h4 y with ⟨hy, ey⟩ | ⟨hy, iy, ey⟩ | ⟨hy, iy, m, e, ey, he, uy⟩
    · rw [ex, ey, hx, hy]
      exact ⟨rfl, BitVec.zero_or⟩
    · rw [ex, ey, hx, hy, ix, iy, isSnan_of_not_nan hx, isSnan_of_not_nan hy]
      simp [exDiv, Stands, flagIf]
    · rw [ex, ey, hx, hy, ix, iy, isSnan_of_not_nan hx, isSnan_of_not_nan hy]
      have zx := units_eq_zero hd ux
      have zy := units_eq_zero he uy
      by_cases hm : m = 0
      · by_cases hn : n = 0
        · simp [exDiv, hm, hn, zx.2 hn, zy.2 hm, Stands, FVal.isNan, flagIf]
        · simp [exDiv, hm, hn, mt zx.1 hn, zy.2 hm, Stands, flagIf]
      · have hy0 : units F y ≠ 0 := mt zy.1 hm
        simp only [exDiv, hm, hy0, beq_iff_eq, if_false, Bool.or_self, Bool.false_eq_true]
        exact ⟨Nat.pos_of_ne_zero hy0, _, _, rfl, Nat.mul_pos hd (Nat.pos_of_ne_zero hm), quotient_units ux uy⟩

/-- FDIV (R189). -/
theorem laneDiv_meanOf (m : SMode) (hm : m ≠ .smp) (sr : Bool) (l : BitVec 32) (a b : Word) :
    MeanOf (laneDiv m sr l a b) sr l (a.toNat < 2 ^ 32 ∧ b.toNat < 2 ^ 32)
      (quotientOf fp32 (a.toNat % 2 ^ 32) (b.toNat % 2 ^ 32)) := by
  have hy : NonNeg (mul32 (meanOf b) (meanOf b)) := nonNeg_mul32_self (proper_meanOf b)
  have hx : NonNeg (mul32 (meanOf a) (meanOf a)) := nonNeg_mul32_self (proper_meanOf a)
  have hv := ((nonNeg_varOf a).qTerm hy).add32 ((hx.pTerm (nonNeg_varOf b)).qTerm (hy.exMul hy).rn32)
  have h := mvOp_meanOf m sr l (stands_quotient goodFmt_fp32 rfl (a.toNat % 2 ^ 32) (b.toNat % 2 ^ 32)) [a, b] hv
    (add32 (pTerm (div32 fone (meanOf b)) (sensOf a))
      (pTerm (div32 (meanOf a) (mul32 (meanOf b) (meanOf b))).negate (sensOf b)))
  unfold laneDiv
  rw [if_neg hm]
  exact ⟨h.mean, h.lfsr, h.nan, fun hc => h.spread (by simpa using hc)⟩

/-! ### The special functions -/

theorem one_units : units fp32 0x3F800000 = 2 ^ subExp fp32 := by decide

/-- RCP's value is the quotient of 1 (R204). -/
theorem stands_rcp (x : Nat) : Stands (specialValue .rcp (fp32.value x)) (quotientOf fp32 0x3F800000 x) := by
  have h1 : isNan fp32 0x3F800000 = false ∧ isSnan fp32 0x3F800000 = false ∧ isInf fp32 0x3F800000 = false
      ∧ signBit fp32 0x3F800000 = false := by decide
  obtain ⟨n1, s1, i1, g1⟩ := h1
  unfold quotientOf
  dsimp only
  rw [n1, s1, i1, g1, one_units, Bool.false_bne, Bool.false_or, Bool.false_or]
  rcases value_cases goodFmt_fp32 rfl x with ⟨hx, e⟩ | ⟨hx, ix, e⟩ | ⟨hx, ix, n, d, e, hd, ux⟩
  · rw [e, hx]
    exact ⟨rfl, rfl⟩
  · rw [e, hx, ix]
    simp [specialValue, Stands]
  · rw [e, hx, ix]
    have z := units_eq_zero hd ux
    by_cases hn : n = 0
    · simp [specialValue, Stands, hn, z.2 hn, flagIf, -Nat.reducePow]
    · have h0 := mt z.1 hn
      simp only [specialValue, hn, h0, beq_iff_eq, if_false, Bool.false_eq_true]
      exact ⟨Nat.pos_of_ne_zero h0, d, n, rfl, Nat.pos_of_ne_zero hn, by rw [mul_comm (2 ^ _), ux, mul_comm]⟩

/-- RCP (R203). -/
theorem laneRcp_meanOf (m : SMode) (hm : m ≠ .smp) (l : BitVec 32) (a : Word) :
    MeanOf (laneSpecial .rcp m l a) false l (a.toNat < 2 ^ 32) (quotientOf fp32 0x3F800000 (a.toNat % 2 ^ 32)) := by
  have hg : NonNeg (mul32 (rn32 (specialDeriv .rcp (meanOf a))) (rn32 (specialDeriv .rcp (meanOf a)))) :=
    nonNeg_mul32_self (proper_value goodFmt_fp32 rfl _)
  have h := mvOp_meanOf m false l (stands_rcp (a.toNat % 2 ^ 32)) [a] (hg.pTerm (nonNeg_varOf a))
    (pTerm (rn32 (specialDeriv .rcp (meanOf a))) (sensOf a))
  unfold laneSpecial
  rw [if_neg hm]
  exact ⟨h.mean, h.lfsr, h.nan, fun hc => h.spread (by simpa using hc)⟩

/-- A function whose value is NaN writes the NaN of R42 and raises the flags of its value. -/
theorem laneSpecial_nan (f : SpecialFn) {m : SMode} (hm : m ≠ .smp) (l : BitVec 32) (a : Word) {fl : Flags}
    (h : specialValue f (meanOf a) = (.nan false, fl)) :
    (laneSpecial f m l a).val = 0x00FF80007FC00000 ∧ (laneSpecial f m l a).flags = fl := by
  have hn : (fp32.value fp32.nan).isNan = true := by decide
  unfold laneSpecial mvOp
  rw [if_neg hm, h]
  simp [narrow, Machine.round, mvResult, hn]
  decide

/-- A function of a certain operand writes its value rounded to nearest, which is certain. -/
theorem laneSpecial_certain (f : SpecialFn) {m : SMode} (hm : m ≠ .smp) (l : BitVec 32) {x : Nat} (hx : x < 2 ^ 32) :
    (laneSpecial f m l (BitVec.ofNat 64 x)).val
        = (mvResult (Machine.round fp32 .rn (specialValue f (fp32.value x)).1).bits (0, 0)).1
      ∧ (laneSpecial f m l (BitVec.ofNat 64 x)).flags
        = (specialValue f (fp32.value x)).2 ||| (Machine.round fp32 .rn (specialValue f (fp32.value x)).1).flags := by
  have hw : (BitVec.ofNat 64 x).toNat = x := by rw [BitVec.toNat_ofNat]; omega
  have hmean : meanOf (BitVec.ofNat 64 x) = fp32.value x := by rw [meanOf, meanBits, hw, Nat.mod_eq_of_lt hx]
  have hf : ∀ b, (mvResult b (0, 0)).2 = 0 := by
    intro b; unfold mvResult; split <;> rfl
  have hp := propagate_certain m (show ∀ w ∈ [BitVec.ofNat 64 x], w.toNat < 2 ^ 32 by simpa [hw] using hx)
  unfold laneSpecial mvOp
  rw [if_neg hm, hmean]
  simp only [hp, narrow, hf, Bool.false_eq_true, if_false]
  exact ⟨trivial, BitVec.or_zero⟩

/-- What O13 says of a row of the table of special values, function, operand, result and flags: its value, rounded. -/
def rowHolds (y : SpecialFn × Nat × Nat × Flags) : Bool :=
  let v := specialValue y.1 (fp32.value y.2.1)
  let r := Machine.round fp32 .rn v.1
  decide (y.2.1 < 2 ^ 32)
    && (mvResult r.bits (0, 0)).1 == (if y.2.2.1 = fp32.nan then 0x00FF80007FC00000 else BitVec.ofNat 64 y.2.2.1)
    && v.2 ||| r.flags == y.2.2.2

theorem specialCases_hold : specialCases.all rowHolds = true := by decide

/-- The special values of R204. -/
theorem laneSpecial_cases {m : SMode} (hm : m ≠ .smp) (l : BitVec 32) : ∀ y ∈ specialCases,
    (laneSpecial y.1 m l (BitVec.ofNat 64 y.2.1)).val
        = (if y.2.2.1 = fp32.nan then 0x00FF80007FC00000 else BitVec.ofNat 64 y.2.2.1)
      ∧ (laneSpecial y.1 m l (BitVec.ofNat 64 y.2.1)).flags = y.2.2.2 := by
  intro y hy
  have h := List.all_eq_true.1 specialCases_hold y hy
  simp only [rowHolds, Bool.and_eq_true, beq_iff_eq, decide_eq_true_eq] at h
  obtain ⟨⟨hx, hv⟩, hf⟩ := h
  obtain ⟨e1, e2⟩ := laneSpecial_certain y.1 hm l hx
  exact ⟨e1.trans hv, e2.trans hf⟩

/-- A NaN operand gives a NaN, invalid if it is signalling (R34, R204). -/
theorem laneSpecial_of_nan (f : SpecialFn) {m : SMode} (hm : m ≠ .smp) (l : BitVec 32) (a : Word)
    (h : isNan fp32 (a.toNat % 2 ^ 32) = true) :
    (laneSpecial f m l a).val = 0x00FF80007FC00000
      ∧ (laneSpecial f m l a).flags = flagIf (isSnan fp32 (a.toNat % 2 ^ 32)) flagINV := by
  refine laneSpecial_nan f hm l a ?_
  have e : meanOf a = .nan (isSnan fp32 (a.toNat % 2 ^ 32)) := value_nan rfl _ (by decide) h
  rw [e]
  rfl

/-- LG2, RSQ and SQRT have no value below zero (R204). -/
theorem laneSpecial_of_neg {f : SpecialFn} (hf : f ∈ [SpecialFn.lg2, .rsq, .sqrt]) {m : SMode} (hm : m ≠ .smp)
    (l : BitVec 32) (a : Word) (hn : isNan fp32 (a.toNat % 2 ^ 32) = false)
    (hs : signBit fp32 (a.toNat % 2 ^ 32) = true) (hu : units fp32 (a.toNat % 2 ^ 32) ≠ 0) :
    (laneSpecial f m l a).val = 0x00FF80007FC00000 ∧ (laneSpecial f m l a).flags = flagINV := by
  refine laneSpecial_nan f hm l a ?_
  rcases value_cases goodFmt_fp32 rfl (a.toNat % 2 ^ 32) with ⟨h, -⟩ | ⟨-, -, e⟩ | ⟨-, -, n, d, e, hd, ux⟩
  · rw [hn] at h; cases h
  · rw [hs] at e
    rw [show meanOf a = .inf true from e]
    fin_cases hf <;> rfl
  · rw [hs] at e
    have h0 : n ≠ 0 := mt (units_eq_zero hd ux).2 hu
    rw [show meanOf a = .fin true n d from e]
    fin_cases hf <;> simp [specialValue, exSqrt, h0]

end Sys2Proof.Laws
end

section
/-!
SUPPORT. The Sower's functions (R219, R221, R222): Furrow in 32-bit words, the exact value of RUNI, the symmetry of RGAUS and
the categorical draw.
-/

namespace Sys2Proof.Laws

open Sys2Proof.Machine Sys2Proof.Numbers

/-! ### Furrow -/

/-- One round of Furrow on 32-bit words (R219). -/
def furrowRound (k0 : BitVec 32) (s : BitVec 32 × BitVec 32) (r : Nat) : BitVec 32 × BitVec 32 :=
  let p : BitVec 64 := s.1.setWidth 64 * 0xCD9E8D57
  ((p >>> 32).setWidth 32 ^^^ s.2 ^^^ (k0 + BitVec.ofNat 32 r * 0x9E3779B9), p.setWidth 32)

/-- The product of two 32-bit words fits 64 bits. -/
theorem toNat_mul_wide (x c : BitVec 32) : (x.setWidth 64 * c.setWidth 64 : BitVec 64).toNat = x.toNat * c.toNat := by
  have h : x.toNat * c.toNat < 2 ^ 32 * 2 ^ 32 := Nat.mul_lt_mul'' x.isLt c.isLt
  rw [BitVec.toNat_mul, BitVec.toNat_setWidth, BitVec.toNat_setWidth]
  have := x.isLt
  have := c.isLt
  rw [Nat.mod_eq_of_lt (by omega : x.toNat < 2 ^ 64), Nat.mod_eq_of_lt (by omega : c.toNat < 2 ^ 64),
    Nat.mod_eq_of_lt (by omega)]

theorem key_toNat (k0 c : BitVec 32) (r : Nat) : (k0 + BitVec.ofNat 32 r * c).toNat = (k0.toNat + r * c.toNat) % 2 ^ 32 := by
  rw [BitVec.toNat_add, BitVec.toNat_mul, BitVec.toNat_ofNat, Nat.mod_mul_mod, Nat.add_mod_mod]

theorem hi_toNat (p : BitVec 64) : ((p >>> 32).setWidth 32).toNat = p.toNat / 2 ^ 32 := by
  have := p.isLt
  rw [BitVec.toNat_setWidth, BitVec.toNat_ushiftRight, Nat.shiftRight_eq_div_pow]
  omega

theorem furrowRound_toNat (k0 : BitVec 32) (s : BitVec 32 × BitVec 32) (r : Nat) :
    (furrowRound k0 s r).1.toNat
        = (s.1.toNat * 0xCD9E8D57 / 2 ^ 32) ^^^ s.2.toNat ^^^ ((k0.toNat + r * 0x9E3779B9) % 2 ^ 32)
      ∧ (furrowRound k0 s r).2.toNat = s.1.toNat * 0xCD9E8D57 % 2 ^ 32 := by
  have hp : (s.1.setWidth 64 * 0xCD9E8D57 : BitVec 64).toNat = s.1.toNat * 0xCD9E8D57 := toNat_mul_wide s.1 0xCD9E8D57
  have hk : (k0 + BitVec.ofNat 32 r * 0x9E3779B9).toNat = (k0.toNat + r * 0x9E3779B9) % 2 ^ 32 := key_toNat k0 _ r
  constructor
  · simp only [furrowRound, BitVec.toNat_xor, hk, hi_toNat, hp]
  · simp only [furrowRound, BitVec.toNat_setWidth, hp]

/-- A round, said of the function of the halves: on its values the kernel would compare the halves first. -/
theorem furrowGo_succ (k0 n : Nat) :
    furrowGo k0 (n + 1) = fun r x y => furrowGo k0 n (r + 1)
      ((x * 0xCD9E8D57 / 2 ^ 32) ^^^ y ^^^ ((k0 + r * 0x9E3779B9) % 2 ^ 32)) (x * 0xCD9E8D57 % 2 ^ 32) := rfl

theorem furrowGo_eq (k0 : BitVec 32) (n r : Nat) (s : BitVec 32 × BitVec 32) :
    furrowGo k0.toNat n r s.1.toNat s.2.toNat = ((List.range' r n).foldl (furrowRound k0) s).1.toNat := by
  induction n generalizing r s with
  | zero => rfl
  | succ n ih =>
    obtain ⟨h1, h2⟩ := furrowRound_toNat k0 s r
    have e := ih (r + 1) (furrowRound k0 s r)
    rw [h1, h2] at e
    rw [furrowGo_succ, List.range'_succ, List.foldl_cons]
    exact e

/-- Furrow is the function of R219. -/
theorem furrow_eq (n key : Word) : furrow n key = (furrowOf n key).toNat := by
  have hr : furrowOf n key = ((List.range' 0 4).foldl (furrowRound (key.setWidth 32))
      (n.setWidth 32 ^^^ key.setWidth 32, (n >>> 32).setWidth 32 ^^^ (key >>> 32).setWidth 32)).1 := by
    rw [furrowOf, List.range_eq_range']
    rfl
  rw [hr, ← furrowGo_eq, furrow]
  rw [BitVec.toNat_xor, BitVec.toNat_xor, hi_toNat, hi_toNat, BitVec.toNat_setWidth, BitVec.toNat_setWidth]

/-! ### RUNI and RGAUS -/

/-- A whole number below 2^24 of units of a power of two is rounded to itself. -/
theorem rounds_exact {neg : Bool} {n d r : Nat} (q e : Nat) {fl : Flags} (hd : 0 < d)
    (hn : n * 2 ^ subExp fp32 = q * 2 ^ e * d) (hq : q < 2 ^ 24) (he : e < 230)
    (h : (Exact.num neg n d).Rounds fp32 none r fl) : units fp32 r = q * 2 ^ e := by
  simp only [Exact.Rounds] at h
  split at h
  · rename_i h0
    have hq0 : q * 2 ^ e = 0 := by
      rw [h0, zero_mul] at hn
      exact (Nat.mul_eq_zero.1 hn.symm).resolve_right hd.ne'
    rw [hq0, h.1]
    cases neg <;> decide
  · obtain ⟨k, t, u, hk, -, tlo, thi, -, down, -, fits⟩ := h
    rw [hn] at hk tlo thi down
    have lo : t * 2 ^ k ≤ q * 2 ^ e := Nat.le_of_mul_le_mul_right tlo hd
    have hi : q * 2 ^ e < (t + 1) * 2 ^ k := Nat.lt_of_mul_lt_mul_right thi
    -- the spacing divides the number
    have hke : k ≤ e := by
      rcases hk with h0 | h0
      · omega
      · have h1 : 2 ^ (23 + k) ≤ q * 2 ^ e := Nat.le_of_mul_le_mul_right h0 hd
        have h2 : q * 2 ^ e < 2 ^ (24 + e) := by rw [pow_add]; exact Nat.mul_lt_mul_of_pos_right hq (by positivity)
        have h3 := (Nat.pow_lt_pow_iff_right (by norm_num)).1 (h1.trans_lt h2)
        omega
    obtain ⟨j, rfl⟩ := Nat.exists_eq_add_of_le hke
    have ht : t = q * 2 ^ j := by
      rw [add_comm k, pow_add, ← mul_assoc] at lo hi
      have := Nat.le_of_mul_le_mul_right lo (by positivity)
      have := Nat.lt_of_mul_lt_mul_right hi
      omega
    have hval : t * 2 ^ k = q * 2 ^ (k + j) := by rw [ht, mul_assoc, ← pow_add, add_comm j]
    have hu : u = t := down (by
      rw [hval, Nat.sub_self]
      have : 0 < 2 ^ k * d := by positivity
      simp only [goesAway, mul_zero]
      omega)
    obtain ⟨-, -, hr, -⟩ := fits (by
      rw [hu, hval, show units fp32 fp32.maxMag = (2 ^ 24 - 1) * 2 ^ 253 by decide]
      exact Nat.mul_le_mul (by omega) (Nat.pow_le_pow_right (by norm_num) (by omega)))
    rw [hr, hu, hval]

/-- RUNI's value is that of its draw (R221). -/
theorem runiBits_spec {out : Nat} (h : out < 2 ^ 32) :
    amount fp32 (runiBits out) = (out / 256 * 2 ^ 125 : Nat) ∧ runiBits out < 2 ^ 31 := by
  have hr := round_fin fp32 127 253 goodFmt_fp32 .rn trivial false (out / 2 ^ 8) (2 ^ 24) (by norm_num)
  obtain ⟨hlt, hs⟩ := rounds_num_fp32 hr
  have hu := rounds_exact (out / 256) 125 (by norm_num)
    (by rw [show subExp fp32 = 149 from rfl, mul_assoc, ← pow_add]; rfl) (by omega) (by norm_num) hr
  have hb : runiBits out = (Machine.round fp32 .rn (.fin false (out / 2 ^ 8) (2 ^ 24))).bits := rfl
  rw [hb]
  refine ⟨by rw [amount, hs, hu]; rfl, ?_⟩
  simp only [signBit, show fp32.signed = true from rfl, show fp32.mag = 31 from rfl, Bool.true_and] at hs
  rw [Nat.testBit_eq_decide_div_mod_eq, decide_eq_false_iff_not] at hs
  omega

/-- The value of a draw below the middle is that of its mirror with the sign set (R221). -/
theorem rgausBits_mirror {out : Nat} (h : out < 2 ^ 31) : rgausBits out = rgausBits (2 ^ 32 - 1 - out) + 2 ^ 31 := by
  have h2 : ¬ 2 ^ 32 - 1 - out < 2 ^ 31 := by omega
  have pack (mag : Nat) : fp32.pack true mag = fp32.pack false mag + 2 ^ 31 := Nat.add_comm _ _
  unfold rgausBits
  simp only [h, h2, decide_true, decide_false, if_true, Bool.false_eq_true, if_false, pack]

/-! ### RCAT -/

/-- The weight of a lane and its flag (R222). -/
theorem rcatWeight_eq (a : Word) : rcatWeight a = (weightOf true a, flagIf (weightBad a) flagINV) := by
  unfold rcatWeight weightOf weightBad
  rw [show meanOf a = fp32.value (a.toNat % 2 ^ 32) from rfl]
  dsimp only
  generalize a.toNat % 2 ^ 32 = x
  rcases value_cases goodFmt_fp32 rfl x with ⟨h, e⟩ | ⟨h, hi, e⟩ | ⟨h, hi, n, d, e, hd, hu⟩
  · rw [e, h]; rfl
  · rw [e, h, hi]; rfl
  · rw [e, h, hi]
    dsimp only
    have z := units_eq_zero hd hu
    have hq : n * 2 ^ 149 / d = units fp32 x := by
      rw [show n * 2 ^ 149 = units fp32 x * d from hu]; exact Nat.mul_div_cancel _ hd
    by_cases hn : n = 0
    · simp [hn, z.2 hn, flagIf]
    · have h0 := mt z.1 hn
      rw [if_neg hn, hq]
      cases signBit fp32 x
      · rfl
      · simp [h0, flagIf]

/-- The first place whose sum so far is above t. -/
theorem rcatPick_spec (t : Nat) (xs : List Nat) (i acc : Nat) (h0 : acc ≤ t) (h : t < acc + xs.sum) :
    ∃ j, j < xs.length ∧ rcatPick t i acc xs = i + j ∧ t < acc + (xs.take (j + 1)).sum
      ∧ ∀ k, k < j → acc + (xs.take (k + 1)).sum ≤ t := by
  induction xs generalizing i acc with
  | nil => simp at h; omega
  | cons x r ih =>
    rw [rcatPick]
    by_cases hx : t < acc + x
    · exact ⟨0, by simp, by simp [hx], by simpa using hx, fun k hk => absurd hk (Nat.not_lt_zero k)⟩
    · obtain ⟨j, hj, e, above, below⟩ := ih (i + 1) (acc + x) (by omega) (by simpa [add_assoc] using h)
      refine ⟨j + 1, by simpa using hj, by rw [if_neg hx, e]; omega, by simpa [add_assoc] using above, fun k hk => ?_⟩
      cases k with
      | zero => simpa using hx
      | succ k => simpa [add_assoc] using below k (by omega)

/-- The flags of a row together. -/
theorem foldl_flagIf (v : Nat → Nat) (c : Nat → Bool) (f : Flags) (l : List Nat) (b : Bool) :
    (l.map fun i => (v i, flagIf (c i) f)).foldl (fun g p => g ||| p.2) (flagIf b f) = flagIf (b || l.any c) f := by
  induction l generalizing b with
  | nil => simp
  | cons x l ih => rw [List.map_cons, List.foldl_cons, flagIf_or, ih, List.any_cons, Bool.or_assoc]

/-- The weight of place i of row w of width W. -/
def rowWeight (act : Nat → Bool) (a : Nat → Word) (W w i : Nat) : Nat := weightOf (act (w * W + i)) (a (w * W + i))

/-- Place i of the row is read as 0 with the invalid flag. -/
def rowBad (act : Nat → Bool) (a : Nat → Word) (W w i : Nat) : Bool := act (w * W + i) && weightBad (a (w * W + i))

/-- RCAT in terms of the weights of its row. -/
theorem rcatRow_eq (rctr rkey : Word) (act : Nat → Bool) (a : Nat → Word) (W w : Nat) :
    rcatRow rctr rkey act a W w =
      let xs := (List.range W).map (rowWeight act a W w)
      let fl := flagIf ((List.range W).any (rowBad act a W w)) flagINV
      if xs.sum = 0 then (BitVec.ofInt 64 (-1), fl ||| flagCATE)
      else (BitVec.ofNat 64 (rcatPick ((furrow (rctr + BitVec.ofNat 64 (2 * w + 1)) rkey * 2 ^ 32
        + furrow (rctr + BitVec.ofNat 64 (2 * w)) rkey) * xs.sum / 2 ^ 64) 0 0 xs), fl) := by
  have lane (L : Nat) : (if act L then rcatWeight (a L) else (0, 0))
      = (weightOf (act L) (a L), flagIf (act L && weightBad (a L)) flagINV) := by
    cases act L
    · rfl
    · exact rcatWeight_eq (a L)
  have hf := foldl_flagIf (rowWeight act a W w) (rowBad act a W w) flagINV (List.range W) false
  rw [Bool.false_or] at hf
  rw [← hf]
  unfold rcatRow
  simp only [List.map_map, Function.comp_def, lane, ← List.sum_eq_foldl]
  rfl

/-- RCAT (R222). -/
theorem rcatRow_spec (rctr rkey : Word) (act : Nat → Bool) (a : Nat → Word) (W w : Nat) (hW : 0 < W) :
    let upTo (i : Nat) : Nat := ((List.range (i + 1)).map (rowWeight act a W w)).sum
    let draw (k : Nat) : Nat := (furrowOf (rctr + BitVec.ofNat 64 (2 * w + k)) rkey).toNat
    let t := (draw 1 * 2 ^ 32 + draw 0) * upTo (W - 1) / 2 ^ 64
    let r := rcatRow rctr rkey act a W w
    (upTo (W - 1) = 0 → r.1 = BitVec.ofInt 64 (-1))
      ∧ (upTo (W - 1) ≠ 0 → ∃ i, i < W ∧ r.1 = BitVec.ofNat 64 i ∧ t < upTo i ∧ ∀ j, j < i → upTo j ≤ t)
      ∧ (r.2 &&& flagCATE ≠ 0 ↔ upTo (W - 1) = 0)
      ∧ (r.2 &&& flagINV ≠ 0 ↔ ∃ i, i < W ∧ act (w * W + i) = true ∧ weightBad (a (w * W + i)) = true) := by
  intro upTo draw t r
  have hS : upTo (W - 1) = ((List.range W).map (rowWeight act a W w)).sum := by
    simp only [upTo, Nat.sub_add_cancel hW]
  have hr : r = _ := rcatRow_eq rctr rkey act a W w
  simp only [← hS, furrow_eq] at hr
  change r = if upTo (W - 1) = 0 then _ else (BitVec.ofNat 64 (rcatPick t 0 0 _), _) at hr
  have hbad : (∃ i, i < W ∧ act (w * W + i) = true ∧ weightBad (a (w * W + i)) = true)
      ↔ (List.range W).any (rowBad act a W w) = true := by simp [rowBad]
  rw [hbad, hr]
  generalize (List.range W).any (rowBad act a W w) = bad
  by_cases h0 : upTo (W - 1) = 0
  · simp only [h0, if_true]
    refine ⟨fun _ => trivial, fun h => absurd rfl h, ?_, ?_⟩ <;> cases bad <;> decide
  · simp only [h0, if_false]
    refine ⟨fun h => h.elim, fun _ => ?_, ?_, ?_⟩
    · have hd : draw 1 * 2 ^ 32 + draw 0 < 2 ^ 64 := by
        have h1 : draw 1 < 2 ^ 32 := BitVec.isLt _
        have h2 : draw 0 < 2 ^ 32 := BitVec.isLt _
        omega
      have ht : t < upTo (W - 1) := by
        refine (Nat.div_lt_iff_lt_mul (by norm_num)).2 ?_
        rw [mul_comm]
        exact Nat.mul_lt_mul_of_pos_left hd (Nat.pos_of_ne_zero h0)
      obtain ⟨j, hj, e, above, below⟩ := rcatPick_spec t _ 0 0 (Nat.zero_le _) (by rwa [zero_add, ← hS])
      rw [List.length_map, List.length_range] at hj
      have htake (k : Nat) (hk : k ≤ j) :
          0 + (((List.range W).map (rowWeight act a W w)).take (k + 1)).sum = upTo k := by
        rw [zero_add, ← List.map_take, List.take_range, min_eq_left (by omega)]
      rw [htake j le_rfl] at above
      refine ⟨j, hj, by rw [e, zero_add], above, fun k hk => ?_⟩
      have := below k hk
      rwa [htake k hk.le] at this
    · cases bad <;> decide
    · cases bad <;> decide

/-! ### The obligation -/

/-- Settles O13: every word of `laterRule` leaves the result of its rule; FDIV and RCP end in `mvOp`, whose mean is the exact
quotient rounded once; the functions of the Sower are taken one by one. -/
theorem laterResultsIssue : Obligations.LaterResultsIssue := by
  refine ⟨laterRule_awaits, fun m sr l a b hm => ?_, furrow_eq, fun _ => runiBits_spec,
    fun _ => rgausBits_mirror, rcatRow_spec⟩
  exact ⟨laneDiv_meanOf m hm sr l a b, laneRcp_meanOf m hm l a, laneSpecial_cases hm l,
    fun f h => laneSpecial_of_nan f hm l a h, fun f hf h hs hu => laneSpecial_of_neg hf hm l a h hs hu⟩

end Sys2Proof.Laws
end

section
/-!
SUPPORT. The words of fixed latency that write a float result, conversion or block code (R47, R189 to R201, R207 to R218).
-/

namespace Sys2Proof.Machine

/-- BENC writes its two registers, steps the LFSRs of its active lanes and raises the flags of its block (R215). -/
theorem benc_effects {c : IssueCtx} {s : State} {d a b : BitVec 5} {f r : BitVec 1} {g : BitVec 4} {W : Written}
    (hW : floatRule (issueOf (.benc d a b f r g) c s) (c.group s) (.benc d a b f r g) = some W)
    (h : AtIssue (.benc d a b f r g) c s) : Effects (.benc d a b f r g) c s W := by
  have hb : bencOf (issueOf (.benc d a b f r g) c s) (s.advance (issueOf (.benc d a b f r g) c s)) a f r
      = benc (f == 1) (r == 1) ((issueOf (.benc d a b f r g) c s).act.getLsbD ·)
        (perLane ((issueOf (.benc d a b f r g) c s).G.rv a.toNat ·)) (perLane ((c.group s).lf ·)) := by
    simp only [bencOf, lfsrOf_advance h]; rfl
  cases hW
  dsimp only
  rw [← hb]
  generalize he : bencOf (issueOf (.benc d a b f r g) c s) (s.advance (issueOf (.benc d a b f r g) c s)) a f r = e
  by_cases ha : (issueOf (.benc d a b f r g) c s).act = 0
  · have hn := nothing_effects h (show _ = execBenc d a b f r g s from rfl) (by simp [ha])
    simpa [ha, Written.nothing] using hn
  · refine effects_of h _ (show _ = execBenc d a b f r g s from rfl) (by
      simp only [he, beq_iff_eq, ha, if_false]
      rw [advance_of h, show (issueOf (.benc d a b f r g) c s).b = c.blk from rfl,
        show (issueOf (.benc d a b f r g) c s).g = c.grp from rfl, updGrp_setGrp, raised_done h]) ?_
    constructor
    case lanes =>
      intro k L _ hL
      change Group.rv (Group.wv (Group.wv _ _ _ _) _ _ _) k L = _
      rw [rv_wv _ _ _ _ _ _ hL, rv_wv _ _ _ _ _ _ hL]
      dsimp only
      cases (issueOf (.benc d a b f r g) c s).act.getLsbD L
      · simp only [Bool.false_eq_true, and_false, if_false, Bool.not_false, if_true]; rfl
      · simp only [and_true, Bool.not_true, Bool.false_eq_true, if_false]
        split
        · rfl
        · split <;> rfl
    case rest => rfl
    case flags => rw [if_neg ha]; rfl
    case lfsrs =>
      intro L hL
      change Group.lf (Group.setLf _ _ _) L = _
      rw [lf_setLf _ _ _ _ hL]
      dsimp only
      split <;> rfl
    case pcs =>
      intro L hL
      change Group.lanePc (Group.setPc _ _ _) L = _
      rw [lanePc_setPc _ _ _ _ hL]; rfl
    all_goals intros; rfl

/-- The first part of O10: every word of `floatRule` writes what its rule gives. -/
theorem floatRule_effects (i : Instr) (c : IssueCtx) (s : State) (W : Written)
    (hW : floatRule (issueOf i c s) (c.group s) i = some W) (h : AtIssue i c s) : Effects i c s W := by
  have lf (L : Nat) : (c.group s).lf L = lfsrOf (issueOf i c s) (s.advance (issueOf i c s)) L := (lfsrOf_advance h L).symm
  simp only [floatRule, lf] at hW
  cases i <;> cases hW
  case benc d a b f r g => exact benc_effects (by simp only [floatRule, lf]) h
  case bdec d a b f g => exact lanes_effects h d _ (show _ = execBdec d a b f g s from rfl) rfl
  case fadd d a b m g => exact float_effects h d _ _ (show _ = execFadd d a b m g s from rfl) rfl
  case fsub d a b m g => exact float_effects h d _ _ (show _ = execFsub d a b m g s from rfl) rfl
  case fmul d a b m g => exact float_effects h d _ _ (show _ = execFmul d a b m g s from rfl) rfl
  case ffma d a b e n => exact float_effects h d _ _ (show _ = execFfma d a b e n s from rfl) rfl
  case fmin d a b m g => exact float_effects h d _ _ (show _ = execFmin d a b m g s from rfl) rfl
  case fmax d a b m g => exact float_effects h d _ _ (show _ = execFmax d a b m g s from rfl) rfl
  case fcps d a b m g => exact float_effects h d _ _ (show _ = execFcps d a b m g s from rfl) rfl
  case fabs d a m g => exact float_effects h d _ _ (show _ = execFabs d a m g s from rfl) rfl
  case fneg d a m g => exact float_effects h d _ _ (show _ = execFneg d a m g s from rfl) rfl
  case frnd d a b m g => exact float_effects h d _ _ (show _ = execFrnd d a b m g s from rfl) rfl
  case hadd2 d a b f r g => exact float_effects h d _ _ (show _ = execHadd2 d a b f r g s from rfl) rfl
  case hmul2 d a b f r g => exact float_effects h d _ _ (show _ = execHmul2 d a b f r g s from rfl) rfl
  case hfma2 d a b e n => exact float_effects h d _ _ (show _ = execHfma2 d a b e n s from rfl) rfl
  case dmake d a b g => exact float_effects h d _ _ (show _ = execDmake d a b g s from rfl) rfl
  case dmean d a g => exact float_effects h d _ _ (show _ = execDmean d a g s from rfl) rfl
  case dvar d a g => exact float_effects h d _ _ (show _ = execDvar d a g s from rfl) rfl
  case dstd d a g => exact float_effects h d _ _ (show _ = execDstd d a g s from rfl) rfl
  case dtag d a b g => exact float_effects h d _ _ (show _ = execDtag d a b g s from rfl) rfl
  case dclr d a g => exact float_effects h d _ _ (show _ = execDclr d a g s from rfl) rfl
  case daddv d a b g => exact float_effects h d _ _ (show _ = execDaddv d a b g s from rfl) rfl
  case ds4 d a r g => exact float_effects h d _ _ (show _ = execDs4 d a r g s from rfl) rfl
  case dcol d a g => exact float_effects h d _ _ (show _ = execDcol d a g s from rfl) rfl
  case dsens d a b g => exact float_effects h d _ _ (show _ = execDsens d a b g s from rfl) rfl
  case fcvt d a b m g => exact float_effects h d _ _ (show _ = execFcvt d a b m g s from rfl) rfl
  case icvt d a z w m g => exact float_effects h d _ _ (show _ = execIcvt d a z w m g s from rfl) rfl
  case ftoi d a z k w r g => exact float_effects h d _ _ (show _ = execFtoi d a z k w r g s from rfl) rfl
  case qcvt d a b m g => exact float_effects h d _ _ (show _ = execQcvt d a b m g s from rfl) rfl
  case qrsc d a b r g => exact float_effects h d _ _ (show _ = execQrsc d a b r g s from rfl) rfl
  case qzpc d a b g => exact float_effects h d _ _ (show _ = execQzpc d a b g s from rfl) rfl

end Sys2Proof.Machine
end

section
/-!
SUPPORT. The exact sums and products of the model are those of R183 and R190.
-/

namespace Sys2Proof.Laws

open Sys2Proof.Machine Sys2Proof.Numbers

/-! ### Signed sums -/

/-- A finite value that has a signed numerator over D stands for it; where it is zero its sign has to be known. -/
theorem stands_signed {z z0 : Bool} {n d D : Nat} {S : Int} (hd : 0 < d) (hD : 0 < D) (h : intOf z n * D = S * d)
    (h0 : S = 0 → z = z0) : Stands (.fin z n d, 0) (signed z0 S D) := by
  have hd' : (0 : Int) < d := by exact_mod_cast hd
  have hD' : (0 : Int) < D := by exact_mod_cast hD
  unfold signed
  by_cases hS : S = 0
  · rw [if_pos hS]
    have hn : n = 0 := by
      have : intOf z n = 0 := by simpa [hS, hD.ne'] using h
      cases z <;> simpa [intOf] using this
    exact ⟨Nat.one_pos, n, d, by rw [h0 hS], hd, by simp [hn]⟩
  · rw [if_neg hS]
    have habs : n * D = S.natAbs * d := by
      have := congrArg Int.natAbs h
      cases z <;> simpa [intOf, Int.natAbs_mul] using this
    have hz : z = decide (S < 0) := by
      cases z
      · have : 0 ≤ S * d := by rw [← h]; exact mul_nonneg (Int.natCast_nonneg n) hD'.le
        have := nonneg_of_mul_nonneg_left this hd'
        simpa using this
      · have : S * d ≤ 0 := by
          rw [← h]; exact mul_nonpos_of_nonpos_of_nonneg (neg_nonpos.2 (Int.natCast_nonneg n)) hD'.le
        have : S ≤ 0 := nonpos_of_mul_nonpos_left this hd'
        have : S < 0 := lt_of_le_of_ne this hS
        simp [this]
    exact ⟨hD, n, d, by rw [hz], hd, habs⟩

/-- The model's exact sum over the product of its denominators; a sum of zero is +0 but for two −0 (R183). -/
theorem addFin_spec (s : Bool) (n : Nat) {d : Nat} (t : Bool) (m : Nat) {e : Nat} (hd : 0 < d) (he : 0 < e) :
    ∃ z k f, addFin s n d t m e = .fin z k f ∧ 0 < f ∧ intOf z k * (d * e : Nat) = (intOf s n * e + intOf t m * d) * f
      ∧ (k = 0 → z = (s && t)) := by
  unfold addFin
  dsimp only
  split
  · rename_i h
    simp only [Bool.and_eq_true, beq_iff_eq] at h
    exact ⟨_, _, _, rfl, Nat.one_pos, by simp [h.1, h.2, intOf], fun _ => rfl⟩
  · rename_i h0
    split
    · rename_i h
      rw [beq_iff_eq] at h
      subst h
      refine ⟨_, _, _, rfl, Nat.mul_pos hd he, ?_, fun hk => ?_⟩
      · cases s <;> simp only [intOf] <;> push_cast <;> ring
      · simp [hd.ne', he.ne'] at hk
        simp [hk] at h0
    · rename_i hst
      have hts : t = !s := by cases s <;> cases t <;> simp_all
      subst hts
      split
      · rename_i h
        have h' : (n : Int) * e = m * d := by exact_mod_cast h
        refine ⟨_, _, _, rfl, Nat.one_pos, ?_, fun _ => by simp⟩
        cases s <;> simp [intOf] <;> linarith
      · rename_i hne
        split
        · rename_i h
          refine ⟨_, _, _, rfl, Nat.mul_pos hd he, ?_, fun hk => by omega⟩
          cases s <;> simp only [intOf, Bool.not_false, Bool.not_true, Bool.false_eq_true, if_false, if_true] <;>
            push_cast [Nat.cast_sub h.le] <;> ring
        · rename_i h
          refine ⟨_, _, _, rfl, Nat.mul_pos hd he, ?_, fun hk => by omega⟩
          cases s <;> simp only [intOf, Bool.not_false, Bool.not_true, Bool.false_eq_true, if_false, if_true] <;>
            push_cast [Nat.cast_sub (not_lt.1 h)] <;> ring

/-- The exact sum of two finite values that have numerators over D. -/
theorem stands_exAdd_fin {s t : Bool} {n m d e D : Nat} {A B : Int} (hd : 0 < d) (he : 0 < e) (hD : 0 < D)
    (hA : intOf s n * D = A * d) (hB : intOf t m * D = B * e) :
    Stands (exAdd (.fin s n d) (.fin t m e)) (signed (s && t) (A + B) D) := by
  obtain ⟨z, k, f, hz, hf, hk, h0⟩ := addFin_spec s n t m hd he
  have hd' : (d : Int) ≠ 0 := by exact_mod_cast hd.ne'
  have he' : (e : Int) ≠ 0 := by exact_mod_cast he.ne'
  have hS : intOf z k * D = (A + B) * f := by
    refine mul_right_cancel₀ (mul_ne_zero hd' he') ?_
    push_cast at hk
    calc intOf z k * D * (d * e) = intOf z k * (d * e) * D := by ring
      _ = (intOf s n * D * e + intOf t m * D * d) * f := by rw [hk]; ring
      _ = (A + B) * f * (d * e) := by rw [hA, hB]; ring
  have hstands : Stands (.fin z k f, 0) (signed (s && t) (A + B) D) := by
    refine stands_signed hf hD hS fun h => h0 ?_
    have : intOf z k = 0 := by simpa [h, hD.ne'] using hS
    cases z <;> simpa [intOf] using this
  simpa only [exAdd, hz] using hstands

theorem amount_eq (F : Fmt) (x : Nat) : amount F x = intOf (signBit F x) (units F x) := by
  unfold amount intOf; rfl

/-- The numerator of a finite value is its amount. -/
theorem intOf_amount {F : Fmt} {x n d : Nat} (h : n * 2 ^ subExp F = units F x * d) :
    intOf (signBit F x) n * (2 ^ subExp F : Nat) = amount F x * d := by
  have h' : (n : Int) * (2 ^ subExp F : Nat) = units F x * d := by exact_mod_cast h
  rw [amount_eq]
  cases signBit F x <;> simp only [intOf, Bool.false_eq_true, if_false, if_true, neg_mul, h']

section
variable {F : Fmt} {b K : Nat} (G : GoodFmt F b K) (h4 : F.e4m3 = false)
include G h4

/-- The model's sum is the exact one. -/
theorem stands_sum (x y : Nat) : Stands (opAdd (F.value x) (F.value y)) (sumOf F x y) := by
  unfold opAdd sumOf
  dsimp only
  rw [snanFlag_value G h4 x, snanFlag_value G h4 y, BitVec.or_assoc, flagIf_or]
  rcases value_cases G h4 x with ⟨hx, ex⟩ | ⟨hx, ix, ex⟩ | ⟨hx, ix, n, d, ex, hd, ux⟩
  · rw [ex, hx]
    exact ⟨rfl, BitVec.zero_or⟩
  · rcases value_cases G h4 y with ⟨hy, ey⟩ | ⟨hy, iy, ey⟩ | ⟨hy, iy, m, e, ey, he, uy⟩
    · rw [ex, ey, hx, hy]
      exact ⟨rfl, BitVec.zero_or⟩
    · rw [ex, ey, hx, hy, ix, iy, isSnan_of_not_nan hx, isSnan_of_not_nan hy]
      by_cases hs : signBit F x = signBit F y <;> simp [exAdd, hs, Stands, FVal.isNan, flagIf]
    · rw [ex, ey, hx, hy, ix, iy, isSnan_of_not_nan hx, isSnan_of_not_nan hy]
      simp [exAdd, Stands, flagIf]
  · rcases value_cases G h4 y with ⟨hy, ey⟩ | ⟨hy, iy, ey⟩ | ⟨hy, iy, m, e, ey, he, uy⟩
    · rw [ex, ey, hx, hy]
      exact ⟨rfl, BitVec.zero_or⟩
    · rw [ex, ey, hx, hy, ix, iy, isSnan_of_not_nan hx, isSnan_of_not_nan hy]
      simp [exAdd, Stands, flagIf]
    · rw [ex, ey, hx, hy, ix, iy, isSnan_of_not_nan hx, isSnan_of_not_nan hy]
      have h := stands_exAdd_fin hd he (by positivity) (intOf_amount ux) (intOf_amount uy)
      simpa [flagIf] using h

end

/-! ### Products -/

theorem exAdd_of_nan {a : FVal} (h : a.isNan = true) (b : FVal) : exAdd a b = (.nan false, 0) := by
  cases a with
  | nan => rfl
  | inf => cases h
  | fin => cases h

/-- Infinity by zero (R183, R190). -/
def undefinedProduct (F : Fmt) (a b : Nat) : Bool :=
  (isInf F a || isInf F b)
    && ((!isNan F a && !isInf F a && units F a == 0) || (!isNan F b && !isInf F b && units F b == 0))

/-- A numerator of a product, in units of the square of the smallest subnormal. -/
theorem product_units {F : Fmt} {n d m e x y : Nat} (hx : n * 2 ^ subExp F = units F x * d)
    (hy : m * 2 ^ subExp F = units F y * e) : n * m * 2 ^ (2 * subExp F) = units F x * units F y * (d * e) := by
  calc n * m * 2 ^ (2 * subExp F) = n * 2 ^ subExp F * (m * 2 ^ subExp F) := by ring
    _ = units F x * units F y * (d * e) := by rw [hx, hy]; ring

theorem isInf_of_nan {F : Fmt} (h4 : F.e4m3 = false) {x : Nat} (h : isNan F x = true) : isInf F x = false := by
  rw [isNan, h4, if_neg Bool.false_ne_true, decide_eq_true_eq] at h
  simp [isInf, h.ne']

/-- A NaN operand makes no product undefined. -/
theorem undefinedProduct_of_nan {F : Fmt} (h4 : F.e4m3 = false) {x y : Nat} (h : (isNan F x || isNan F y) = true) :
    undefinedProduct F x y = false := by
  unfold undefinedProduct
  rcases (Bool.or_eq_true _ _).mp h with hx | hy
  · rw [hx, isInf_of_nan h4 hx]
    cases isInf F y <;> simp
  · rw [hy, isInf_of_nan h4 hy]
    cases isInf F x <;> simp

section
variable {F : Fmt} {b K : Nat} (G : GoodFmt F b K) (h4 : F.e4m3 = false)
include G h4

/-- The model's product: NaN, an infinity, or the product of the units. -/
theorem exMul_cases (x y : Nat) :
    ((isNan F x || isNan F y || undefinedProduct F x y) = true ∧ (exMul (F.value x) (F.value y)).1.isNan = true
        ∧ (exMul (F.value x) (F.value y)).2 = flagIf (undefinedProduct F x y) flagINV)
      ∨ ((isNan F x || isNan F y || undefinedProduct F x y) = false ∧ (isInf F x || isInf F y) = true
        ∧ exMul (F.value x) (F.value y) = (.inf (signBit F x != signBit F y), 0))
      ∨ ((isNan F x || isNan F y || undefinedProduct F x y) = false ∧ (isInf F x || isInf F y) = false
        ∧ ∃ n d, exMul (F.value x) (F.value y) = (.fin (signBit F x != signBit F y) n d, 0) ∧ 0 < d
          ∧ n * 2 ^ (2 * subExp F) = units F x * units F y * d) := by
  rcases value_cases G h4 x with ⟨hx, ex⟩ | ⟨hx, ix, ex⟩ | ⟨hx, ix, n, d, ex, hd, ux⟩
  · rw [undefinedProduct_of_nan h4 (by rw [hx]; rfl), ex, hx]
    exact .inl ⟨rfl, rfl, rfl⟩
  · rcases value_cases G h4 y with ⟨hy, ey⟩ | ⟨hy, iy, ey⟩ | ⟨hy, iy, m, e, ey, he, uy⟩
    · rw [undefinedProduct_of_nan h4 (by rw [hy, Bool.or_true]), ex, ey, hy]
      exact .inl ⟨by simp, rfl, rfl⟩
    · rw [undefinedProduct, ex, ey, hx, hy, ix, iy]
      exact .inr (.inl ⟨by simp, rfl, rfl⟩)
    · rw [undefinedProduct, ex, ey, hx, hy, ix, iy]
      by_cases hm : m = 0
      · exact .inl (by simp [exMul, hm, (units_eq_zero he uy).2 hm, FVal.isNan, flagIf])
      · exact .inr (.inl (by simp [exMul, hm, mt (units_eq_zero he uy).1 hm]))
  · rcases value_cases G h4 y with ⟨hy, ey⟩ | ⟨hy, iy, ey⟩ | ⟨hy, iy, m, e, ey, he, uy⟩
    · rw [undefinedProduct_of_nan h4 (by rw [hy, Bool.or_true]), ex, ey, hy]
      exact .inl ⟨by simp, rfl, rfl⟩
    · rw [undefinedProduct, ex, ey, hx, hy, ix, iy]
      by_cases hn : n = 0
      · exact .inl (by simp [exMul, hn, (units_eq_zero hd ux).2 hn, FVal.isNan, flagIf])
      · exact .inr (.inl (by simp [exMul, hn, mt (units_eq_zero hd ux).1 hn]))
    · rw [undefinedProduct, ex, ey, hx, hy, ix, iy]
      exact .inr (.inr ⟨rfl, rfl, n * m, d * e, rfl, Nat.mul_pos hd he, product_units ux uy⟩)

/-- The model's product is the exact one. -/
theorem stands_product (x y : Nat) : Stands (opMul (F.value x) (F.value y)) (productOf F x y) := by
  have hp : productOf F x y = if isNan F x || isNan F y then .nan (isSnan F x || isSnan F y)
      else if isInf F x || isInf F y then
        (if undefinedProduct F x y then .nan true else .inf (signBit F x != signBit F y) false)
      else .num (signBit F x != signBit F y) (units F x * units F y) (2 ^ (2 * subExp F)) := by
    unfold productOf undefinedProduct
    cases isNan F x <;> cases isNan F y <;> cases isInf F x <;> cases isInf F y <;> simp
  unfold opMul
  dsimp only
  rw [hp, snanFlag_value G h4 x, snanFlag_value G h4 y, BitVec.or_assoc, flagIf_or]
  have hs (h : (isNan F x || isNan F y) = false) : (isSnan F x || isSnan F y) = false := by
    rw [Bool.or_eq_false_iff] at h
    rw [isSnan_of_not_nan h.1, isSnan_of_not_nan h.2]; rfl
  rcases exMul_cases G h4 x y with ⟨hn, h1, h2⟩ | ⟨hn, hi, e⟩ | ⟨hn, hi, n, d, e, hd, hu⟩
  · cases hxy : isNan F x || isNan F y with
    | true =>
      rw [undefinedProduct_of_nan h4 hxy] at h2
      exact ⟨h1, by rw [h2]; exact BitVec.zero_or⟩
    | false =>
      rw [hxy, Bool.false_or] at hn
      have hi : (isInf F x || isInf F y) = true := ((Bool.and_eq_true _ _).mp hn).1
      rw [hi, hn, h2, hn, hs hxy]
      exact ⟨h1, BitVec.or_zero⟩
  · obtain ⟨hxy, hu⟩ := Bool.or_eq_false_iff.mp hn
    rw [hxy, hi, hu, hs hxy, e]
    simp [Stands, flagIf]
  · obtain ⟨hxy, -⟩ := Bool.or_eq_false_iff.mp hn
    rw [hxy, hi, hs hxy, e]
    exact ⟨by positivity, n, d, by simp [flagIf], hd, hu⟩

/-- The model's fused sum is the exact one (R190). -/
theorem stands_fused (x y z : Nat) :
    Stands (opFma (F.value x) (F.value y) (F.value z)) (fusedOf F x y z) := by
  have hf : fusedOf F x y z = if isNan F x || isNan F y || isNan F z || undefinedProduct F x y then
        .nan (isSnan F x || isSnan F y || isSnan F z || undefinedProduct F x y)
      else if isInf F x || isInf F y then
        (if isInf F z && signBit F z != (signBit F x != signBit F y) then .nan true
          else .inf (signBit F x != signBit F y) false)
      else if isInf F z then .inf (signBit F z) false
      else signed ((signBit F x != signBit F y) && signBit F z)
        (intOf (signBit F x != signBit F y) (units F x * units F y) + amount F z * 2 ^ subExp F) (2 ^ (2 * subExp F)) := rfl
  unfold opFma
  dsimp only
  rw [hf, snanFlag_value G h4 x, snanFlag_value G h4 y, snanFlag_value G h4 z]
  have hs (h : (isNan F x || isNan F y) = false) : isSnan F x = false ∧ isSnan F y = false := by
    rw [Bool.or_eq_false_iff] at h
    exact ⟨isSnan_of_not_nan h.1, isSnan_of_not_nan h.2⟩
  rcases exMul_cases G h4 x y with ⟨hn, h1, h2⟩ | ⟨hn, hi, e⟩ | ⟨hn, hi, n, d, e, hd, hu⟩
  · have hn' : (isNan F x || isNan F y || isNan F z || undefinedProduct F x y) = true := by
      rw [Bool.or_right_comm, hn, Bool.true_or]
    rw [hn', if_pos rfl, exAdd_of_nan h1, h2]
    refine ⟨rfl, ?_⟩
    rw [show ∀ f : Flags, f ||| 0 = f from fun _ => BitVec.or_zero, flagIf_or, flagIf_or, flagIf_or,
      Bool.or_comm _ (undefinedProduct F x y), Bool.or_assoc, Bool.or_assoc, Bool.or_assoc]
  · obtain ⟨hxy, hu⟩ := Bool.or_eq_false_iff.mp hn
    obtain ⟨sx, sy⟩ := hs hxy
    rw [hxy, hi, hu, sx, sy, e]
    rcases value_cases G h4 z with ⟨hz, ez⟩ | ⟨hz, iz, ez⟩ | ⟨hz, iz, m, f, ez, hf, uz⟩
    · rw [hz, ez]
      simp [exAdd, Stands, FVal.isNan, flagIf]
    · rw [hz, iz, ez, isSnan_of_not_nan hz]
      by_cases hs : signBit F z = (signBit F x != signBit F y)
      · simp [exAdd, hs, Stands, flagIf]
      · simp [exAdd, hs, Ne.symm hs, Stands, FVal.isNan, flagIf]
    · rw [hz, iz, ez, isSnan_of_not_nan hz]
      simp [exAdd, Stands, flagIf]
  · obtain ⟨hxy, hu'⟩ := Bool.or_eq_false_iff.mp hn
    obtain ⟨sx, sy⟩ := hs hxy
    rw [hxy, hi, hu', sx, sy, e]
    rcases value_cases G h4 z with ⟨hz, ez⟩ | ⟨hz, iz, ez⟩ | ⟨hz, iz, m, f, ez, hf, uz⟩
    · rw [hz, ez]
      simp [exAdd, Stands, FVal.isNan, flagIf]
    · rw [hz, iz, ez, isSnan_of_not_nan hz]
      simp [exAdd, Stands, flagIf]
    · have hA : intOf (signBit F x != signBit F y) n * (2 ^ (2 * subExp F) : Nat)
          = intOf (signBit F x != signBit F y) (units F x * units F y) * d := by
        have hu' : (n : Int) * (2 ^ (2 * subExp F) : Nat) = (units F x * units F y : Nat) * d := by exact_mod_cast hu
        cases signBit F x != signBit F y <;> simp only [intOf, Bool.false_eq_true, if_false, if_true, neg_mul, hu']
      have hB : intOf (signBit F z) m * (2 ^ (2 * subExp F) : Nat) = amount F z * 2 ^ subExp F * f := by
        have hz := intOf_amount uz
        push_cast at hz ⊢
        rw [two_mul, pow_add, ← mul_assoc, hz]
        ring
      have h := stands_exAdd_fin hd hf (by positivity) hA hB
      rw [hz, iz, ez, isSnan_of_not_nan hz]
      simpa [flagIf] using h

end

end Sys2Proof.Laws
end

section
/-!
SUPPORT. The means of FADD, FSUB, FMUL, FFMA, FCVT and ICVT (R44 to R47, R183, R189, R190, R207, R209).
-/

namespace Sys2Proof.Laws

open Sys2Proof.Machine Sys2Proof.Numbers

/-! ### FADD to FFMA -/

/-- Turning the sign of an encoding turns the sign of its value. -/
theorem value_turned (x : Nat) : fp32.value (turned fp32 x) = (fp32.value x).negate := by
  have hm : turned fp32 x % 2 ^ fp32.mag = x % 2 ^ fp32.mag := by
    rw [turned, Nat.xor_mod_two_pow, Nat.mod_self, Nat.xor_zero]
  have hs : (turned fp32 x / 2 ^ fp32.mag % 2 == 1) = !(x / 2 ^ fp32.mag % 2 == 1) := by
    have h (y : Nat) : (y / 2 ^ fp32.mag % 2 == 1) = y.testBit fp32.mag := by
      rw [Nat.testBit_eq_decide_div_mod_eq]; rfl
    rw [h, h, turned, Nat.testBit_xor, Nat.testBit_two_pow_self, Bool.xor_true]
  have h4 : fp32.e4m3 = false := rfl
  have hg : fp32.signed = true := rfl
  simp only [Fmt.value, hm, hs, h4, hg, Bool.false_and, Bool.not_false, Bool.true_and, Bool.false_eq_true, if_false]
  split
  · split <;> rfl
  · split <;> rfl

theorem nonNeg_mulVar (a b : Word) : NonNeg (mulVar a b) :=
  ((nonNeg_mul32_self (proper_meanOf b)).pTerm (nonNeg_varOf a)).add32
    ((nonNeg_mul32_self (proper_meanOf a)).pTerm (nonNeg_varOf b))

section
variable {m : SMode} (hm : m ≠ .smp) (sr : Bool) (l : BitVec 32) (a b c : Word)
include hm

/-- FADD (R189). -/
theorem laneAdd_meanOf : MeanOf (laneAdd m sr l a b) sr l (a.toNat < 2 ^ 32 ∧ b.toNat < 2 ^ 32)
    (sumOf fp32 (a.toNat % 2 ^ 32) (b.toNat % 2 ^ 32)) := by
  have h := mvOp_meanOf m sr l (stands_sum goodFmt_fp32 rfl (a.toNat % 2 ^ 32) (b.toNat % 2 ^ 32)) [a, b]
    ((nonNeg_varOf a).add32 (nonNeg_varOf b)) (add32 (sensOf a) (sensOf b))
  unfold laneAdd
  rw [if_neg hm]
  exact ⟨h.mean, h.lfsr, h.nan, fun hc => h.spread (by simpa using hc)⟩

/-- FSUB adds the second mean with its sign turned (R189). -/
theorem laneSub_meanOf : MeanOf (laneSub m sr l a b) sr l (a.toNat < 2 ^ 32 ∧ b.toNat < 2 ^ 32)
    (sumOf fp32 (a.toNat % 2 ^ 32) (turned fp32 (b.toNat % 2 ^ 32))) := by
  have hs := stands_sum goodFmt_fp32 rfl (a.toNat % 2 ^ 32) (turned fp32 (b.toNat % 2 ^ 32))
  rw [value_turned] at hs
  have h := mvOp_meanOf m sr l hs [a, b] ((nonNeg_varOf a).add32 (nonNeg_varOf b)) (sub32 (sensOf a) (sensOf b))
  unfold laneSub
  rw [if_neg hm]
  exact ⟨h.mean, h.lfsr, h.nan, fun hc => h.spread (by simpa using hc)⟩

/-- FMUL (R189). -/
theorem laneMul_meanOf : MeanOf (laneMul m sr l a b) sr l (a.toNat < 2 ^ 32 ∧ b.toNat < 2 ^ 32)
    (productOf fp32 (a.toNat % 2 ^ 32) (b.toNat % 2 ^ 32)) := by
  have h := mvOp_meanOf m sr l (stands_product goodFmt_fp32 rfl (a.toNat % 2 ^ 32) (b.toNat % 2 ^ 32)) [a, b]
    (nonNeg_mulVar a b) (mulSens a b)
  unfold laneMul
  rw [if_neg hm]
  exact ⟨h.mean, h.lfsr, h.nan, fun hc => h.spread (by simpa using hc)⟩

/-- FFMA (R190). -/
theorem laneFma_meanOf : MeanOf (laneFma m l a b c) false l (a.toNat < 2 ^ 32 ∧ b.toNat < 2 ^ 32 ∧ c.toNat < 2 ^ 32)
    (fusedOf fp32 (a.toNat % 2 ^ 32) (b.toNat % 2 ^ 32) (c.toNat % 2 ^ 32)) := by
  have h := mvOp_meanOf m false l
    (stands_fused goodFmt_fp32 rfl (a.toNat % 2 ^ 32) (b.toNat % 2 ^ 32) (c.toNat % 2 ^ 32)) [a, b, c]
    ((nonNeg_mulVar a b).add32 (nonNeg_varOf c)) (add32 (mulSens a b) (sensOf c))
  unfold laneFma
  rw [if_neg hm]
  exact ⟨h.mean, h.lfsr, h.nan, fun hc => h.spread (by simpa using hc)⟩

end

/-! ### A rounding into any format -/

theorem ieee_roundFin (F : Fmt) (m : RMode) (s : Bool) (n d : Nat) :
    ieee (roundFin F m s n d).flags = (roundFin F m s n d).flags := by
  have hbig : ieee (flagOVF ||| flagINX) = flagOVF ||| flagINX := by decide
  have hfit (p q : Bool) : ieee (flagIf p flagINX ||| flagIf q flagUFL) = flagIf p flagINX ||| flagIf q flagUFL := by
    revert p q; decide
  unfold roundFin
  dsimp only
  split <;> split
  · exact hbig
  · exact hfit _ _
  · exact hbig
  · exact hfit _ _

/-- A rounding raises no flag but the IEEE ones. -/
theorem ieee_round (F : Fmt) (m : RMode) (x : FVal) :
    ieee (Machine.round F m x).flags = (Machine.round F m x).flags := by
  cases x with
  | nan b => exact ieee_zero
  | inf s =>
    unfold Machine.round
    dsimp only
    split
    · exact show ieee flagINV = flagINV by decide
    · exact ieee_zero
  | fin s n d =>
    unfold Machine.round
    dsimp only
    split
    · exact ieee_zero
    · exact ieee_roundFin F m s n d

theorem infMag_lt (F : Fmt) : F.infMag < 2 ^ F.mag := by
  unfold Fmt.infMag Fmt.mag
  rw [pow_add]
  exact Nat.mul_lt_mul_of_pos_right (Nat.sub_lt (by positivity) Nat.one_pos) (by positivity)

theorem maxMag_lt (F : Fmt) : F.maxMag < 2 ^ F.mag := by
  have h := infMag_lt F
  have : 0 < 2 ^ F.mag := by positivity
  unfold Fmt.maxMag
  split <;> omega

theorem nan_lt (F : Fmt) (hf : 0 < F.fbits) : F.nan < 2 ^ F.mag := by
  have hp : 0 < 2 ^ F.mag := by positivity
  unfold Fmt.nan
  split
  · omega
  · have h : 2 ^ (F.fbits - 1) < 2 ^ F.fbits := Nat.pow_lt_pow_right (by norm_num) (by omega)
    have he : 2 ^ F.mag = (2 ^ F.ebits - 1) * 2 ^ F.fbits + 2 ^ F.fbits := by
      rw [← Nat.succ_mul, Nat.succ_eq_add_one, Nat.sub_add_cancel Nat.one_le_two_pow, Fmt.mag, pow_add]
    omega

theorem mag_lt_width (F : Fmt) {x : Nat} (h : x < 2 ^ F.mag) : x < 2 ^ F.width :=
  h.trans_le (Nat.pow_le_pow_right (by norm_num) (Nat.le_add_right _ _))

theorem encoded_lt (F : Fmt) (neg : Bool) {mag : Nat} (h : mag < 2 ^ F.mag) : encoded F neg mag < 2 ^ F.width := by
  unfold encoded
  split
  · rename_i hs
    rw [Bool.and_eq_true] at hs
    rw [Fmt.width, hs.2, if_pos rfl, pow_succ]
    omega
  · exact mag_lt_width F h

/-- A rounded result fits the width of its format. -/
theorem rounds_lt_width {F : Fmt} (hf : 0 < F.fbits) {X : Exact} {sr : Option Nat} {r : Nat} {fl : Flags}
    (h : X.Rounds F sr r fl) : r < 2 ^ F.width := by
  have hnan := mag_lt_width F (nan_lt F hf)
  cases X with
  | nan => rw [h.1]; exact hnan
  | inf neg b =>
    simp only [Exact.Rounds] at h
    split at h
    · rw [h.1]; exact hnan
    · rw [h.1]; exact encoded_lt F neg (infMag_lt F)
  | num neg n d =>
    simp only [Exact.Rounds] at h
    split at h
    · rw [h.1]; exact encoded_lt F neg (by positivity)
    · obtain ⟨k, t, u, -, -, -, -, -, -, big, fits⟩ := h
      rcases Nat.lt_or_ge (units F F.maxMag) (u * 2 ^ k) with hu | hu
      · rw [(big hu).1]
        refine encoded_lt F neg ?_
        split
        · exact maxMag_lt F
        · exact infMag_lt F
      · exact (fits hu).1

/-! ### FCVT and ICVT -/

/-- An encoding as it stands. -/
theorem stands_value {F : Fmt} {b K : Nat} (G : GoodFmt F b K) (h4 : F.e4m3 = false) (x : Nat) :
    Stands (F.value x, snanFlag (F.value x)) (valueOf F x) := by
  rw [snanFlag_value G h4 x]
  unfold valueOf
  rcases value_cases G h4 x with ⟨hx, ex⟩ | ⟨hx, ix, ex⟩ | ⟨hx, ix, n, d, ex, hd, ux⟩
  · rw [hx, ex]
    exact ⟨rfl, rfl⟩
  · rw [hx, ix, ex, isSnan_of_not_nan hx]
    rfl
  · rw [hx, ix, ex, isSnan_of_not_nan hx]
    exact ⟨by positivity, n, d, rfl, hd, ux⟩

/-- FCVT into a format whose canonical NaN is one (R207). -/
theorem laneNarrow_rounds {F : Fmt} {b K : Nat} (G : GoodFmt F b K) (hw : F.width ≤ 32)
    (hn : (F.value F.nan).isNan = true) {m : SMode} (hm : m ≠ .smp) (sr : Bool) (l : BitVec 32) (a : Word) :
    (valueOf fp32 (a.toNat % 2 ^ 32)).Rounds F (randomBits sr l) ((laneNarrow F m sr l a).val.toNat % 2 ^ 32)
        (ieee (laneNarrow F m sr l a).flags)
      ∧ (laneNarrow F m sr l a).lfsr = if sr then nextLfsr l else l := by
  have hr := rounds_of_stands G (nearest_modeFor sr l) (stands_value goodFmt_fp32 rfl (a.toNat % 2 ^ 32))
  rw [srOf_modeFor] at hr
  dsimp only at hr
  have hlt := (rounds_lt_width G.frac hr).trans_le (Nat.pow_le_pow_right (by norm_num) hw)
  have hfl := ieee_round F (modeFor sr l) (fp32.value (a.toNat % 2 ^ 32))
  have hsn : ieee (snanFlag (fp32.value (a.toNat % 2 ^ 32))) = snanFlag (fp32.value (a.toNat % 2 ^ 32)) := by
    have (p : Bool) : ieee (flagIf p flagINV) = flagIf p flagINV := by revert p; decide
    exact this _
  have hcarry : ieee (carry m a).2 = 0 := ieee_propagate m [a] (nonNeg_varOf a) (sensOf a)
  unfold laneNarrow
  rw [if_neg hm]
  dsimp only
  rw [narrow_eq]
  dsimp only
  rw [show meanOf a = fp32.value (a.toNat % 2 ^ 32) from rfl]
  have hnan : (fp32.value (a.toNat % 2 ^ 32)).isNan = true →
      (F.value (Machine.round F (modeFor sr l) (fp32.value (a.toNat % 2 ^ 32))).bits).isNan = true := by
    intro h; rw [(round_nan F (modeFor sr l) h).1]; exact hn
  generalize fp32.value (a.toNat % 2 ^ 32) = x at *
  generalize Machine.round F (modeFor sr l) x = r at *
  split
  · rw [(toNat_mkMV nanSpread hlt).1, ieee_or, hfl, hsn, BitVec.or_comm]
    exact ⟨hr, rfl⟩
  · rename_i h
    have hx : snanFlag x = 0 := by
      cases x with
      | nan p => exact absurd (hnan rfl) h
      | inf => rfl
      | fin => rfl
    rw [(toNat_mkMV _ hlt).1, ieee_or, hfl, ieee_afterRounding _ _ hcarry]
    rw [hx] at hr
    exact ⟨by simpa using hr, rfl⟩

/-- An integer as an exact value. -/
theorem stands_integer (i : Int) : Stands (intVal i, 0) (integer i) :=
  ⟨Nat.one_pos, i.natAbs, 1, rfl, Nat.one_pos, rfl⟩

/-- ICVT (R209). -/
theorem laneIcvt_rounds {m : SMode} (hm : m ≠ .smp) (z : Bool) (w : Nat) (sr : Bool) (l : BitVec 32) (a : Word) :
    (integer (if z then sIn w a else uIn w a)).Rounds fp32 (randomBits sr l) ((laneIcvt z w m sr l a).val.toNat % 2 ^ 32)
        (ieee (laneIcvt z w m sr l a).flags)
      ∧ (laneIcvt z w m sr l a).lfsr = if sr then nextLfsr l else l := by
  have hi : intBits z w a.toNat = if z then sIn w a else uIn w a := by
    cases z
    · rfl
    · rfl
  have hr := rounds_of_stands goodFmt_fp32 (nearest_modeFor sr l) (stands_integer (intBits z w a.toNat))
  rw [srOf_modeFor] at hr
  dsimp only at hr
  unfold laneIcvt
  dsimp only
  rw [if_neg hm, narrow_eq, ← hi]
  dsimp only
  rw [(toNat_mkMV _ (rounds_lt hr)).1, ieee_or, ieee_round, ieee_afterRounding _ _ ieee_zero]
  exact ⟨by simpa using hr, rfl⟩

end Sys2Proof.Laws
end

section
/-!
SUPPORT. Added variances, samples, packed pairs and FTOI (R42, R185, R188, R194, R210).
-/

namespace Sys2Proof.Laws

open Sys2Proof.Machine Sys2Proof.Numbers

/-! ### The variances of FADD.ind (R42, R185) -/

/-- The IEEE flags are not the spread overflow. -/
theorem sovf_of_ieee {f : Flags} (h : ieee f = f) : f &&& flagSOVF = 0 := by
  rw [← h, ieee, BitVec.and_assoc]
  exact BitVec.and_zero

/-- A word with tag 0 has the variance of its spread word (R41). -/
theorem varOf_untagged {a : Word} (h : a.toNat < 2 ^ 56) : varOf a = e8m16.value (a.toNat / 2 ^ 32) := by
  have ht : tagOf a = 0 := by unfold tagOf; omega
  have hs : spreadBits a % 2 ^ 24 = a.toNat / 2 ^ 32 := by unfold spreadBits; omega
  rw [varOf, if_pos ht, hs]

/-- The spread word of a variance that is not below zero is its rounding, and overflows at infinity (R42). -/
theorem varSpread_spec {v : FVal} (h : NonNeg v) {fl : Flags} {X : Exact} (hX : Stands (v, fl) X) :
    (∃ g, X.Rounds e8m16 none (varSpread v).1 g) ∧ (varSpread v).1 < 2 ^ 24
      ∧ (varSpread v).2 = if (varSpread v).1 = 0xFF0000 then flagSOVF else 0 := by
  have hr := rounds_of_stands goodFmt_e8m16 (m := .rn) trivial hX
  have hlt := rounds_lt_width (by decide) hr
  have hb : (varSpread v).1 = (Machine.round e8m16 .rn v).bits := by
    cases h with
    | nan => rfl
    | inf => rfl
    | fin n hd =>
      by_cases hn : n = 0
      · subst hn; rfl
      · simp [varSpread, hn, rnBits]
  refine ⟨⟨_, hb ▸ hr⟩, hb ▸ hlt, ?_⟩
  cases h with
  | nan => rfl
  | inf => rfl
  | fin n hd =>
    by_cases hn : n = 0
    · subst hn; rfl
    · simp [varSpread, hn, flagIf, e8m16, Fmt.infMag]

/-- Without tags FADD.ind adds the variances, those of two certain operands too. -/
theorem propagate_variances {a b : Word} (ha : a.toNat < 2 ^ 56) (hb : b.toNat < 2 ^ 56) (s : FVal) :
    propagate .ind [a, b] (add32 (varOf a) (varOf b)) s = varSpread (add32 (varOf a) (varOf b)) := by
  unfold propagate
  dsimp only
  split
  · rename_i h
    have hz : spreadBits a = 0 ∧ spreadBits b = 0 := by simpa [List.isEmpty_iff] using h
    unfold spreadBits at hz
    rw [varOf_untagged ha, varOf_untagged hb, hz.1, hz.2]
    decide
  · rfl

theorem laneAdd_variance (l : BitVec 32) {a b : Word} (ha : a.toNat < 2 ^ 56) (hb : b.toNat < 2 ^ 56)
    (hn : isNan fp32 ((laneAdd .ind false l a b).val.toNat % 2 ^ 32) = false) :
    ∃ y f g, (sumOf e8m16 (a.toNat / 2 ^ 32) (b.toNat / 2 ^ 32)).Rounds fp32 none y f
      ∧ (valueOf fp32 y).Rounds e8m16 none ((laneAdd .ind false l a b).val.toNat / 2 ^ 32) g
      ∧ ((laneAdd .ind false l a b).flags &&& flagSOVF
        = if (laneAdd .ind false l a b).val.toNat / 2 ^ 32 = 0xFF0000 then flagSOVF else 0) := by
  have hv : NonNeg (add32 (varOf a) (varOf b)) := (nonNeg_varOf a).add32 (nonNeg_varOf b)
  have hy := rounds_of_stands goodFmt_fp32 (m := .rn) trivial
    (stands_sum goodFmt_e8m16 rfl (a.toNat / 2 ^ 32) (b.toNat / 2 ^ 32))
  have hr : (sumOf fp32 (a.toNat % 2 ^ 32) (b.toNat % 2 ^ 32)).Rounds fp32 none
      (Machine.round fp32 .rn (opAdd (meanOf a) (meanOf b)).1).bits
      ((opAdd (meanOf a) (meanOf b)).2 ||| (Machine.round fp32 .rn (opAdd (meanOf a) (meanOf b)).1).flags) :=
    rounds_of_stands goodFmt_fp32 (m := .rn) trivial (stands_sum goodFmt_fp32 rfl _ _)
  have hsovf := sovf_of_ieee (ieee_rounds rfl hr)
  rw [← varOf_untagged ha, ← varOf_untagged hb] at hy
  obtain ⟨⟨g, hg⟩, hlt', hfl⟩ := varSpread_spec hv (stands_value goodFmt_fp32 rfl _)
  have hL : laneAdd .ind false l a b = mvOp .ind false l (opAdd (meanOf a) (meanOf b)) [a, b]
      (add32 (varOf a) (varOf b)) (add32 (sensOf a) (sensOf b)) := rfl
  simp only [mvOp, narrow, mvResult, propagate_variances ha hb, Bool.false_eq_true, if_false] at hL
  rw [hL] at hn ⊢
  refine ⟨_, _, g, hy, ?_⟩
  have hlt := rounds_lt hr
  generalize Machine.round fp32 .rn (opAdd (meanOf a) (meanOf b)).1 = r at *
  have hN : isNan fp32 r.bits = false := by
    dsimp only at hn
    split at hn
    · rwa [(toNat_mkMV _ hlt).1] at hn
    · rwa [(toNat_mkMV _ hlt).1] at hn
  rw [isNan_value goodFmt_fp32 rfl r.bits, hN, if_neg Bool.false_ne_true]
  dsimp only
  rw [(toNat_mkMV _ hlt).2, Nat.mod_eq_of_lt (hlt'.trans (by norm_num)), BitVec.and_or_distrib_right, hsovf, hfl]
  refine ⟨hg, ?_⟩
  split
  · decide
  · decide

/-! ### Elements of a word (R188, R194) -/

/-- Four elements of 16 bits. -/
theorem toNat_four {x0 x1 x2 x3 : Nat} (h0 : x0 < 2 ^ 16) (h1 : x1 < 2 ^ 16) (h2 : x2 < 2 ^ 16) (h3 : x3 < 2 ^ 16)
    (w : Word) (hw : w = BitVec.ofNat 64 (x0 * 2 ^ (16 * 0) + (x1 * 2 ^ (16 * 1) + (x2 * 2 ^ (16 * 2)
      + (x3 * 2 ^ (16 * 3) + 0))))) :
    ∀ j < 4, w.toNat / 2 ^ (16 * j) % 2 ^ 16 = [x0, x1, x2, x3].getD j 0 := by
  intro j hj
  subst hw
  rw [BitVec.toNat_ofNat]
  interval_cases j <;> simp <;> omega

/-- A NaN of FP32 has more units than its largest finite value. -/
theorem isNan_of_units_le {r : Nat} (h : units fp32 r ≤ units fp32 fp32.maxMag) : isNan fp32 r = false := by
  by_contra hn
  rw [Bool.not_eq_false] at hn
  have hm : (2 ^ 8 - 1) * 2 ^ 23 < magBits fp32 r := of_decide_eq_true hn
  have hlt : magBits fp32 r < 2 ^ 31 := Nat.mod_lt _ (by norm_num)
  have hex : magBits fp32 r / 2 ^ fp32.fbits = 255 := by
    change magBits fp32 r / 2 ^ 23 = 255
    omega
  have hu : 2 ^ 23 * 2 ^ 254 ≤ units fp32 r := by
    unfold units
    dsimp only
    rw [hex, if_neg (by norm_num)]
    exact Nat.mul_le_mul_right _ (Nat.le_add_right _ _)
  exact absurd (hu.trans h) (by decide)

/-- A rounding makes no signalling NaN (R34). -/
theorem isSnan_of_rounds {X : Exact} {sr : Option Nat} {r : Nat} {fl : Flags} (h : X.Rounds fp32 sr r fl) :
    isSnan fp32 r = false := by
  cases X with
  | nan => rw [h.1]; decide
  | inf neg => rw [(show _ ∧ _ from h).1]; cases neg <;> decide
  | num neg n d =>
    simp only [Exact.Rounds] at h
    split at h
    · rw [h.1]; cases neg <;> decide
    · obtain ⟨k, t, u, -, -, -, -, -, -, big, fits⟩ := h
      rcases Nat.lt_or_ge (units fp32 fp32.maxMag) (u * 2 ^ k) with hu | hu
      · rw [(big hu).1]; cases neg <;> decide
      · exact isSnan_of_not_nan (isNan_of_units_le ((fits hu).2.2.1.trans_le hu))

/-- A sample made of two roundings (R188). -/
theorem sampleStep_rounds {ex : FVal × Flags} {X : Exact} (h : Stands ex X) (l : BitVec 32) :
    ∃ y f g, X.Rounds fp32 none y f ∧ (valueOf fp32 y).Rounds bf16 none (sampleStep false ex l).1 g
      ∧ f ||| g = (sampleStep false ex l).2.1 := by
  have hy := rounds_of_stands goodFmt_fp32 (m := .rn) trivial h
  have hx := rounds_of_stands goodFmt_bf16 (m := .rn) trivial
    (stands_value goodFmt_fp32 rfl (Machine.round fp32 .rn ex.1).bits)
  rw [snanFlag_value goodFmt_fp32 rfl, isSnan_of_rounds hy] at hx
  exact ⟨_, _, _, hy, hx, by simp [sampleStep, narrow, flagIf]⟩

/-- The samples of an S4 result under RN, and the flags of each among its own. -/
theorem smpOp_samples (l : BitVec 32) {ex : Nat → FVal × Flags} {X : Nat → Exact} (h : ∀ j, Stands (ex j) (X j)) (j : Nat)
    (hj : j < 4) : ∃ y f g, (X j).Rounds fp32 none y f
      ∧ (valueOf fp32 y).Rounds bf16 none ((smpOp false l ex).val.toNat / 2 ^ (16 * j) % 2 ^ 16) g
      ∧ (f ||| g) &&& ~~~(smpOp false l ex).flags = 0 := by
  have hlt (j : Nat) : (sampleStep false (ex j) l).1 < 2 ^ 16 := by
    obtain ⟨y, f, g, -, hx, -⟩ := sampleStep_rounds (h j) l
    exact rounds_lt_width (by decide) hx
  have hval : (smpOp false l ex).val.toNat / 2 ^ (16 * j) % 2 ^ 16 = (sampleStep false (ex j) l).1 := by
    refine (toNat_four (hlt 0) (hlt 1) (hlt 2) (hlt 3) _ rfl j hj).trans ?_
    interval_cases j <;> rfl
  obtain ⟨y, f, g, hy, hx, hf⟩ := sampleStep_rounds (h j) l
  refine ⟨y, f, g, hy, hval ▸ hx, ?_⟩
  have hfl : (smpOp false l ex).flags = (sampleStep false (ex 0) l).2.1 ||| ((sampleStep false (ex 1) l).2.1
      ||| ((sampleStep false (ex 2) l).2.1 ||| ((sampleStep false (ex 3) l).2.1 ||| 0))) := rfl
  rw [hf, hfl]
  ext k hk
  interval_cases j <;> simp +contextual

/-- Elements made in order, each a rounding that steps the LFSR once under SR, are packed. -/
theorem foldLanes_packed {F : Fmt} {sr : Bool} {w : Nat} {X : Nat → Exact} {f : Nat → Word32 → Nat × Flags × Word32}
    (hf : ∀ j l, (X j).Rounds F (randomBits sr l) (f j l).1 (f j l).2.1 ∧ (f j l).2.2 = if sr then nextLfsr l else l)
    (n j : Nat) (l : Word32) : ∃ b, (foldLanes f w (List.range' j n) l).1 = b * 2 ^ (w * j)
      ∧ Packed F sr w X j n l b (foldLanes f w (List.range' j n) l).2.1 (foldLanes f w (List.range' j n) l).2.2 := by
  induction n generalizing j l with
  | zero => exact ⟨0, (Nat.zero_mul _).symm, .done j l⟩
  | succ n ih =>
    obtain ⟨hr, hl⟩ := hf j l
    obtain ⟨b, hb, hp⟩ := ih (j + 1) (f j l).2.2
    refine ⟨(f j l).1 + 2 ^ w * b, ?_, ?_⟩
    · simp only [List.range'_succ, foldLanes, hb]
      ring
    · simp only [List.range'_succ, foldLanes]
      exact .more j n l _ _ b _ _ hr (hl ▸ hp)

/-- Packed elements of a format of their width fit their word. -/
theorem packed_lt {F : Fmt} (hf : 0 < F.fbits) {sr : Bool} {X : Nat → Exact} {j n b : Nat} {l l' : BitVec 32} {fl : Flags}
    (h : Packed F sr F.width X j n l b fl l') : b < 2 ^ (F.width * n) := by
  induction h with
  | done j l => exact Nat.one_pos
  | more j n l l' r b f g hr hp ih =>
    have hlt := rounds_lt_width hf hr
    have : 2 ^ (F.width * (n + 1)) = 2 ^ F.width * 2 ^ (F.width * n) := by rw [← pow_add]; congr 1; ring
    have : 2 ^ F.width * (b + 1) ≤ 2 ^ F.width * 2 ^ (F.width * n) := Nat.mul_le_mul_left _ ih
    rw [Nat.mul_add] at this
    omega

/-- Two elements of 16 bits, each made in turn (R194). -/
theorem halfOp_packed (h sr : Bool) (l : BitVec 32) {ex : Nat → FVal × Flags} {X : Nat → Exact}
    (hX : ∀ j, Stands (ex j) (X j)) :
    Packed (half h) sr 16 X 0 2 l (halfOp h sr l ex).val.toNat (halfOp h sr l ex).flags (halfOp h sr l ex).lfsr := by
  obtain ⟨b, K, G, hw⟩ : ∃ b K, GoodFmt (half h) b K ∧ (half h).width = 16 := by
    cases h
    · exact ⟨_, _, goodFmt_fp16, rfl⟩
    · exact ⟨_, _, goodFmt_bf16, rfl⟩
  let f (j : Nat) (l : Word32) : Nat × Flags × Word32 :=
    let (r, l') := narrow (half h) sr l (ex j).1
    (r.bits, (ex j).2 ||| r.flags, l')
  have hf (j : Nat) (l : Word32) : (X j).Rounds (half h) (randomBits sr l) (f j l).1 (f j l).2.1
      ∧ (f j l).2.2 = if sr then nextLfsr l else l := by
    have hr := rounds_of_stands G (nearest_modeFor sr l) (hX j)
    rw [srOf_modeFor] at hr
    simp only [f, narrow_eq]
    exact ⟨hr, trivial⟩
  obtain ⟨v, hv, hp⟩ := foldLanes_packed (w := 16) hf 2 0 l
  have hlt : v < 2 ^ 32 := by
    rw [← hw] at hp
    have := packed_lt G.frac hp
    rwa [hw] at this
  have hval : (halfOp h sr l ex).val.toNat = v := by
    change (BitVec.ofNat 64 (foldLanes f 16 (List.range' 0 2) l).1).toNat = v
    rw [hv, BitVec.toNat_ofNat]
    omega
  rw [hval]
  exact hp

/-- The operations of HADD2, HMUL2 and HFMA2 are exact (R194). -/
theorem half_stands (h : Bool) (x y z : Nat) :
    Stands (opAdd ((half h).value x) ((half h).value y)) (sumOf (half h) x y)
      ∧ Stands (opMul ((half h).value x) ((half h).value y)) (productOf (half h) x y)
      ∧ Stands (opFma ((half h).value x) ((half h).value y) ((half h).value z)) (fusedOf (half h) x y z) := by
  cases h
  · exact ⟨stands_sum goodFmt_fp16 rfl x y, stands_product goodFmt_fp16 rfl x y, stands_fused goodFmt_fp16 rfl x y z⟩
  · exact ⟨stands_sum goodFmt_bf16 rfl x y, stands_product goodFmt_bf16 rfl x y, stands_fused goodFmt_bf16 rfl x y z⟩

/-! ### FTOI (R210) -/

/-- The modes of FTOI: one of four, or stochastic rounding. -/
theorem ftoiMode_goesUp {mode : Nat} (hmode : mode < 4) {sr : Bool} (hs : sr = true → mode = 0) (l : BitVec 32)
    (neg : Bool) (t rem den c : Nat) (hc : 0 < c) (hd : 0 < den) :
    goesUp (intMode (rmodeOf mode) sr l).1 neg t rem den = true ↔
      if (randomBits sr l).isSome = true ∨ mode = 0 then goesAway (randomBits sr l) t (rem * c) (den * c)
      else rem * c ≠ 0 ∧ ((mode = 2 ∧ neg = true) ∨ (mode = 3 ∧ neg = false)) := by
  have hnear := goesUp_iff (modeFor sr l) (nearest_modeFor sr l) neg t rem den c hc hd
  rw [srOf_modeFor] at hnear
  cases sr with
  | true =>
    rw [if_pos (.inl rfl)]
    exact hnear
  | false =>
    by_cases h0 : mode = 0
    · subst h0
      rw [if_pos (.inr rfl)]
      exact hnear
    · rw [if_neg (by simp [randomBits, h0])]
      have hz : rem * c ≠ 0 ↔ rem ≠ 0 := by simp [hc.ne']
      rw [hz]
      by_cases hr : rem = 0
      · simp [goesUp, hr]
      · interval_cases mode
        · exact absurd rfl h0
        · simp [intMode, rmodeOf, goesUp, hr]
        · simp [intMode, rmodeOf, goesUp, hr]
        · simp [intMode, rmodeOf, goesUp, hr]

/-- A finite mean rounded to an integer. -/
theorem roundInt_toInteger {mode : Nat} (hmode : mode < 4) {sr : Bool} (hs : sr = true → mode = 0) (l : BitVec 32)
    {x n d : Nat} (hd : 0 < d) (hu : n * 2 ^ subExp fp32 = units fp32 x * d) :
    ToInteger mode (randomBits sr l) x (roundInt (intMode (rmodeOf mode) sr l).1 (signBit fp32 x) n d).1
      ((roundInt (intMode (rmodeOf mode) sr l).1 (signBit fp32 x) n d).2.1 = true) := by
  have ho : 0 < 2 ^ subExp fp32 := by positivity
  have ht : n / d = units fp32 x / 2 ^ subExp fp32 := by
    rw [← Nat.mul_div_mul_right n d ho, hu, mul_comm d, Nat.mul_div_mul_right _ _ hd]
  have hr : n % d * 2 ^ subExp fp32 = units fp32 x % 2 ^ subExp fp32 * d := by
    rw [← Nat.mul_mod_mul_right, hu, mul_comm d, Nat.mul_mod_mul_right]
  have hr0 : n % d = 0 ↔ units fp32 x % 2 ^ subExp fp32 = 0 := by
    constructor
    · intro h; simpa [h, hd.ne'] using hr.symm
    · intro h; simpa [h] using hr
  have hup := ftoiMode_goesUp hmode hs l (signBit fp32 x) (n / d) (n % d) d _ ho hd
  rw [hr, mul_comm d, goesAway_scale _ _ _ _ hd, ht] at hup
  have hz : units fp32 x % 2 ^ subExp fp32 * d ≠ 0 ↔ units fp32 x % 2 ^ subExp fp32 ≠ 0 := by simp [hd.ne']
  rw [hz] at hup
  unfold ToInteger roundInt
  dsimp only
  rw [ht]
  refine ⟨by simp [hr0], fun h => ?_, fun h => ?_⟩
  · rw [if_pos (hup.2 h)]
    unfold intOf
    push_cast
    rfl
  · rw [if_neg (mt hup.1 h)]
    rfl

theorem laneFtoi_toInteger (z : Bool) (w : Nat) {mode : Nat} (hmode : mode < 4) {sr : Bool} (hs : sr = true → mode = 0)
    (l : BitVec 32) (a : Word) : let o := laneFtoi z w (rmodeOf mode) sr l a
      let x := a.toNat % 2 ^ 32
      let lo : Int := if z then -2 ^ (w - 1) else 0
      let hi : Int := if z then 2 ^ (w - 1) - 1 else 2 ^ w - 1
      o.lfsr = (if sr then nextLfsr l else l)
      ∧ (isNan fp32 x = true → o.val = 0 ∧ o.flags = flagINV)
      ∧ (isInf fp32 x = true → o.val = BitVec.ofInt 64 (if signBit fp32 x then lo else hi) ∧ o.flags = flagINV)
      ∧ (isNan fp32 x = false → isInf fp32 x = false → ∃ i inexact, ToInteger mode (randomBits sr l) x i inexact
          ∧ (i < lo → o.val = BitVec.ofInt 64 lo ∧ o.flags = flagINV)
          ∧ (hi < i → o.val = BitVec.ofInt 64 hi ∧ o.flags = flagINV)
          ∧ (lo ≤ i → i ≤ hi → o.val = BitVec.ofInt 64 i ∧ (inexact → o.flags = flagINX) ∧ (¬ inexact → o.flags = 0))) := by
  intro o x lo hi
  have hR : rangeOf z w = (lo, hi) := by cases z <;> rfl
  have hl : (intMode (rmodeOf mode) sr l).2 = if sr then nextLfsr l else l := by cases sr <;> rfl
  have ho : o = laneFtoi z w (rmodeOf mode) sr l a := rfl
  unfold laneFtoi at ho
  dsimp only at ho
  rw [hR, show meanOf a = fp32.value x from rfl] at ho
  rcases value_cases goodFmt_fp32 rfl x with ⟨hx, e⟩ | ⟨hx, ix, e⟩ | ⟨hx, ix, n, d, e, hd, hu⟩
  · rw [e] at ho
    rw [hx, isInf_of_nan rfl hx, ho]
    exact ⟨hl, fun _ => ⟨rfl, rfl⟩, nofun, nofun⟩
  · rw [e] at ho
    rw [hx, ix, ho]
    exact ⟨hl, nofun, fun _ => ⟨rfl, rfl⟩, nofun⟩
  · rw [e] at ho
    rw [hx, ix, ho]
    refine ⟨hl, nofun, nofun, fun _ _ => ⟨_, _, roundInt_toInteger hmode hs l hd hu, ?_⟩⟩
    dsimp only
    generalize roundInt (intMode (rmodeOf mode) sr l).1 (signBit fp32 x) n d = q
    have hlohi : lo ≤ hi := by
      have h1 : (1 : Int) ≤ 2 ^ (w - 1) := one_le_pow₀ (by norm_num)
      have h2 : (1 : Int) ≤ 2 ^ w := one_le_pow₀ (by norm_num)
      cases z
      · exact sub_nonneg.2 h2
      · exact show (-2 ^ (w - 1) : Int) ≤ 2 ^ (w - 1) - 1 by omega
    refine ⟨fun h => ?_, fun h => ?_, fun h1 h2 => ?_⟩
    · simp [clampInt, h]
    · simp [clampInt, h, show ¬ q.1 < lo by omega]
    · simp only [clampInt, show ¬ q.1 < lo by omega, show ¬ hi < q.1 by omega, if_false]
      cases q.2.1 <;> simp [flagIf]

end Sys2Proof.Laws
end

section
/-!
SUPPORT. The obligation on distribution arithmetic and conversions.
-/

namespace Sys2Proof.Laws

open Sys2Proof.Machine Sys2Proof.Numbers

/-- Settles O10: the words write what their rules give (`floatRule_effects`); the model's exact sums, products and fused sums
are those of the encodings, and a rounding of them is that of R44 to R47. -/
theorem distributionResults : Obligations.DistributionResults := by
  refine ⟨floatRule_effects, ?formats, ?e4m3, ?means, ?variances, ?samples, ?pairs, ?integers, ?examples⟩
  case formats => decide
  case e4m3 => decide
  case means =>
    intro m sr l a b c hm
    refine ⟨laneAdd_meanOf hm sr l a b, laneSub_meanOf hm sr l a b, laneMul_meanOf hm sr l a b, laneFma_meanOf hm l a b c,
      fun F hF => ?_, fun z w _ => laneIcvt_rounds hm z w sr l a⟩
    fin_cases hF
    · exact laneNarrow_rounds goodFmt_bf16 (by decide) (by decide) hm sr l a
    · exact laneNarrow_rounds goodFmt_fp16 (by decide) (by decide) hm sr l a
    · exact laneNarrow_rounds goodFmt_e4m3 (by decide) (by decide) hm sr l a
    · exact laneNarrow_rounds goodFmt_e5m2 (by decide) (by decide) hm sr l a
  case variances => exact fun l a b ha hb => laneAdd_variance l ha hb
  case samples =>
    intro l a b
    have he : laneAdd .smp false l a b = smpOp false l fun j => opAdd (sampleOf a j) (sampleOf b j) := if_pos rfl
    rw [he]
    exact smpOp_samples l fun j => stands_sum goodFmt_bf16 rfl (sampleBits a j) (sampleBits b j)
  case pairs =>
    intro h sr l a b c
    exact ⟨halfOp_packed h sr l fun j => (half_stands h _ _ 0).1, halfOp_packed h sr l fun j => (half_stands h _ _ 0).2.1,
      halfOp_packed h sr l fun j => (half_stands h _ _ _).2.2⟩
  case integers => exact fun z sr mode l a hmode hs w _ => laneFtoi_toInteger z w hmode hs l a
  case examples => decide

end Sys2Proof.Laws
end

section
/-!
SUPPORT. Block sums, cells and drained cells (R49, R230, R231, R233).
-/

namespace Sys2Proof.Laws

open Sys2Proof.Machine Sys2Proof.Numbers

/-! ### Block sums (R49) -/

/-- A finite value whose denominator is a power of two. -/
def Dyadic (x : FVal) : Prop := ∃ s n k, x = .fin s n (2 ^ k)

/-- The larger of a denominator and that of a value. -/
def denMax (m : Nat) (x : FVal) : Nat :=
  match x with
  | .fin _ _ d => max m d
  | _ => m

/-- The largest denominator of dyadic values is a power of two, and the first one or that of a value. -/
theorem denMax_dyadic {l : List FVal} (h : ∀ x ∈ l, Dyadic x) (k0 : Nat) :
    ∃ k, l.foldl denMax (2 ^ k0) = 2 ^ k ∧ k0 ≤ k ∧ (∀ s n j, FVal.fin s n (2 ^ j) ∈ l → j ≤ k)
      ∧ (k = k0 ∨ ∃ s n, FVal.fin s n (2 ^ k) ∈ l) := by
  induction l generalizing k0 with
  | nil => exact ⟨k0, rfl, le_rfl, by simp, .inl rfl⟩
  | cons x l ih =>
    obtain ⟨s, n, j, rfl⟩ := h x List.mem_cons_self
    have hmax : denMax (2 ^ k0) (.fin s n (2 ^ j)) = 2 ^ max k0 j :=
      ((pow_right_mono₀ (by norm_num : 1 ≤ 2)).map_max (a := k0) (b := j)).symm
    obtain ⟨k, hk, hle, hall, hat⟩ := ih (fun y hy => h y (List.mem_cons_of_mem _ hy)) (max k0 j)
    refine ⟨k, by rw [List.foldl_cons, hmax, hk], by omega, fun s' n' j' hj => ?_, ?_⟩
    · rcases List.mem_cons.mp hj with he | hj
      · injection he with _ _ he
        have := Nat.pow_right_injective le_rfl he
        omega
      · exact hall s' n' j' hj
    · rcases hat with hat | ⟨s', n', hm⟩
      · rcases le_total j k0 with hj | hj
        · exact .inl (by omega)
        · exact .inr ⟨s, n, by rw [show k = j by omega]; exact List.mem_cons_self⟩
      · exact .inr ⟨s', n', List.mem_cons_of_mem _ hm⟩

/-- The numerator of a value over a common denominator. -/
def numOver (D : Nat) (x : FVal) : Int :=
  match x with
  | .fin s n d => intOf s (n * (D / d))
  | _ => 0

theorem total_eq (k : Nat) (l : List FVal) : total k l = (l.map (numOver (2 ^ k))).sum := by
  refine congrArg List.sum (List.map_congr_left fun x _ => ?_)
  cases x with
  | nan => rfl
  | inf => rfl
  | fin s n d => cases s <;> simp [numOver, intOf]

/-- A numerator added to a sum, as the model does it. -/
def addOver (D : Nat) (a : Int) (x : FVal) : Int :=
  match x with
  | .fin s n d => a + intOf s (n * (D / d))
  | _ => a

theorem sum_numOver (D : Nat) (l : List FVal) (a : Int) : l.foldl (addOver D) a = a + (l.map (numOver D)).sum := by
  induction l generalizing a with
  | nil => simp
  | cons x l ih =>
    rw [List.foldl_cons, ih, List.map_cons, List.sum_cons, ← add_assoc]
    cases x with
    | nan => simp [numOver, addOver]
    | inf => simp [numOver, addOver]
    | fin => rfl

/-- A sum over a larger power of two. -/
theorem total_of_le {l : List FVal} {k K : Nat} (h : ∀ x ∈ l, Dyadic x) (hk : ∀ s n j, FVal.fin s n (2 ^ j) ∈ l → j ≤ k)
    (hK : k ≤ K) : total K l = total k l * 2 ^ (K - k) := by
  rw [total_eq, total_eq, ← List.sum_map_mul_right]
  congr 1
  refine List.map_congr_left fun x hx => ?_
  obtain ⟨s, n, j, rfl⟩ := h x hx
  have hj := hk s n j hx
  have hd : 2 ^ K / 2 ^ j = 2 ^ k / 2 ^ j * 2 ^ (K - k) := by
    rw [Nat.pow_div (hj.trans hK) two_pos, Nat.pow_div hj two_pos, ← pow_add]
    congr 1
    omega
  simp only [numOver, hd]
  cases s <;> simp [intOf, mul_assoc]

/-- Every value of a list is −0, and there is one. -/
def AllNegZero (l : List FVal) : Prop := l ≠ [] ∧ ∀ x ∈ l, ∃ d, x = .fin true 0 d

/-- −0 -/
def isNegZero (x : FVal) : Bool :=
  match x with
  | .fin s n _ => s && n == 0
  | _ => false

theorem allNegZero_iff (l : List FVal) : (!l.isEmpty && l.all isNegZero) = true ↔ AllNegZero l := by
  have h (x : FVal) : isNegZero x = true ↔ ∃ d, x = .fin true 0 d := by
    cases x with
    | nan => simp [isNegZero]
    | inf => simp [isNegZero]
    | fin => simp [isNegZero]
  rw [Bool.and_eq_true, List.all_eq_true, AllNegZero]
  exact and_congr (by simp) (forall₂_congr fun x _ => h x)

/-- The exact sum of dyadic values (R49). -/
theorem sumFin_dyadic {l : List FVal} (h : ∀ x ∈ l, Dyadic x) :
    ∃ s n k, sumFin l = .fin s n (2 ^ k)
      ∧ (∀ K, (∀ s n j, FVal.fin s n (2 ^ j) ∈ l → j ≤ K) → k ≤ K ∧ intOf s n * 2 ^ (K - k) = total K l)
      ∧ (n = 0 → (s = true ↔ AllNegZero l)) := by
  obtain ⟨k, hD, -, hall, hat⟩ := denMax_dyadic h 0
  have hk (K : Nat) (hK : ∀ s n j, FVal.fin s n (2 ^ j) ∈ l → j ≤ K) : k ≤ K := by
    rcases hat with rfl | ⟨s, n, hm⟩
    · exact Nat.zero_le K
    · exact hK s n k hm
  have hs : sumFin l = if total k l = 0
      then .fin (!l.isEmpty && l.all isNegZero) 0 1
      else .fin (decide (total k l < 0)) (total k l).natAbs (2 ^ k) := by
    have hD' : l.foldl denMax 1 = 2 ^ k := hD
    have ht := sum_numOver (2 ^ k) l 0
    rw [zero_add, ← total_eq] at ht
    rw [← ht, ← hD']
    rfl
  by_cases h0 : total k l = 0
  · rw [if_pos h0] at hs
    refine ⟨_, 0, 0, hs, fun K hK => ⟨Nat.zero_le K, ?_⟩, fun _ => allNegZero_iff l⟩
    rw [total_of_le h hall (hk K hK), h0]
    simp [intOf]
  · rw [if_neg h0] at hs
    refine ⟨_, _, k, hs, fun K hK => ⟨hk K hK, ?_⟩, fun hn => absurd (Int.natAbs_eq_zero.mp hn) h0⟩
    rw [total_of_le h hall (hk K hK)]
    congr 1
    rcases lt_or_ge (total k l) 0 with ht | ht
    · simp [intOf, ht, abs_of_neg]
    · simp [intOf, not_lt.mpr ht, abs_of_nonneg ht]

theorem any_isNan (l : List FVal) : l.any FVal.isNan = true ↔ ∃ x ∈ l, x.isNan = true := List.any_eq_true

/-- The list holds the infinity of a sign. -/
def hasInf (s : Bool) (l : List FVal) : Bool := l.any fun x => x.isInf && x.neg == s

theorem hasInf_iff (s : Bool) (l : List FVal) : hasInf s l = true ↔ ∃ x ∈ l, x = .inf s := by
  have h (x : FVal) : (x.isInf && x.neg == s) = true ↔ x = .inf s := by
    cases x with
    | nan => simp [FVal.isInf]
    | inf => simp [FVal.isInf, FVal.neg]
    | fin => simp [FVal.isInf]
  rw [hasInf, List.any_eq_true]
  exact exists_congr fun x => and_congr_right fun _ => h x

/-- A block sum: its NaN and infinite products decide it, else it is exact (R49). -/
theorem blockSum_eq (l : List FVal) : blockSum l =
    if l.any FVal.isNan then (.nan false, flagINV)
    else if hasInf false l && hasInf true l then (.nan false, flagINV)
    else if hasInf false l then (.inf false, 0)
    else if hasInf true l then (.inf true, 0)
    else (sumFin l, 0) := by
  simp only [blockSum, hasInf, beq_true, beq_false]

theorem blockSum_of_nan {l : List FVal}
    (h : (∃ x ∈ l, x.isNan = true) ∨ ((∃ x ∈ l, x = .inf false) ∧ ∃ x ∈ l, x = .inf true)) :
    blockSum l = (.nan false, flagINV) := by
  rw [← any_isNan, ← hasInf_iff, ← hasInf_iff] at h
  rw [blockSum_eq]
  rcases h with hn | ⟨hup, hdown⟩
  · rw [if_pos hn]
  · simp [hup, hdown]

theorem blockSum_of_inf {l : List FVal} (s : Bool) (hn : ¬ ∃ x ∈ l, x.isNan = true) (hi : ∃ x ∈ l, x = .inf s)
    (ho : ¬ ∃ x ∈ l, x = .inf !s) : blockSum l = (.inf s, 0) := by
  rw [← any_isNan] at hn
  rw [← hasInf_iff] at hi ho
  rw [blockSum_eq, if_neg hn]
  cases s
  · rw [Bool.not_false] at ho
    simp [hi, ho]
  · rw [Bool.not_true] at ho
    simp [hi, ho]

theorem blockSum_of_finite {l : List FVal} (h : ∀ x ∈ l, Dyadic x) : blockSum l = (sumFin l, 0) := by
  have hn : l.any FVal.isNan = false := by
    rw [List.any_eq_false]
    intro x hx
    obtain ⟨s, n, k, rfl⟩ := h x hx
    simp [FVal.isNan]
  have hi (s : Bool) : ¬ hasInf s l = true := by
    rw [hasInf_iff]
    rintro ⟨x, hx, rfl⟩
    obtain ⟨s', n, k, he⟩ := h _ hx
    cases he
  simp [blockSum_eq, hn, hi]

/-! ### A cell takes a sum (R230) -/

/-- A cell and a finite sum stand for their exact sum. -/
theorem stands_cellSum (acc : Nat) (neg : Bool) (n : Nat) {d : Nat} (hd : 0 < d) :
    Stands (exAdd (a56.value acc) (.fin neg n d)) (cellSum acc neg n d) := by
  unfold cellSum
  rcases value_cases goodFmt_a56 rfl acc with ⟨hx, ex⟩ | ⟨hx, ix, ex⟩ | ⟨hx, ix, m, e, ex, he, ux⟩
  · rw [hx, ex]
    exact ⟨rfl, rfl⟩
  · rw [hx, ix, ex]
    rfl
  · rw [hx, ix, ex]
    have hs := intOf_amount ux
    refine stands_exAdd_fin he hd (by positivity) ?_ ?_
    · push_cast at hs ⊢
      linear_combination (d : Int) * hs
    · change intOf neg n * _ = intOf neg n * _ * _
      push_cast
      ring

/-- A finite sum added to a cell is rounded once, and calls the flags of log 100. -/
theorem addAcc_fin (acc : Nat) (f : Flags) (neg : Bool) (n : Nat) {d : Nat} (hd : 0 < d) :
    ∃ fl, (cellSum acc neg n d).Rounds a56 none (addAcc acc (.fin neg n d, f)).1 fl
      ∧ (addAcc acc (.fin neg n d, f)).2 = (f ||| fl) &&& accFlags :=
  ⟨_, rounds_of_stands goodFmt_a56 (m := .rn) trivial (stands_cellSum acc neg n hd), by simp only [addAcc, BitVec.or_assoc]⟩

/-- `Flags` is not unfolded by the rewriting of `BitVec.or_zero`. -/
theorem flags_or_zero (f : Flags) : f ||| 0 = f := BitVec.or_zero

/-- A NaN added to a cell, or a NaN cell, gives the canonical NaN. -/
theorem addAcc_of_nan {acc : Nat} {x : FVal} {g : Flags} (h : (exAdd (a56.value acc) x).1.isNan = true)
    (hg : (exAdd (a56.value acc) x).2 = g) (f : Flags) : addAcc acc (x, f) = (a56.nan, (f ||| g) &&& accFlags) := by
  obtain ⟨hb, hf⟩ := round_nan a56 .rn h
  simp only [addAcc, hb, hf, hg, flags_or_zero]

theorem addAcc_inf (acc : Nat) (f : Flags) (s : Bool) : addAcc acc (.inf s, f) =
    if isNan a56 acc then (a56.nan, f &&& accFlags)
    else if isInf a56 acc ∧ signBit a56 acc ≠ s then (a56.nan, (f ||| flagINV) &&& accFlags)
    else (encoded a56 s a56.infMag, f &&& accFlags) := by
  have hkeep {x : FVal} (he : a56.value acc = x) (h : exAdd x (.inf s) = (.inf s, 0)) :
      addAcc acc (.inf s, f) = (encoded a56 s a56.infMag, f &&& accFlags) := by
    unfold addAcc
    rw [he, h]
    exact congrArg (encoded a56 s a56.infMag, · &&& accFlags) (by simp [Machine.round, show a56.e4m3 = false from rfl])
  rcases value_cases goodFmt_a56 rfl acc with ⟨hx, ex⟩ | ⟨hx, ix, ex⟩ | ⟨hx, ix, m, e, ex, -⟩
  · have he : exAdd (a56.value acc) (.inf s) = (.nan false, 0) := by rw [ex]; rfl
    rw [if_pos hx, addAcc_of_nan (by rw [he]; rfl) (by rw [he]), flags_or_zero]
  · rw [hx, ix, if_neg Bool.false_ne_true]
    by_cases hs : signBit a56 acc = s
    · rw [if_neg (by simp [hs]), hkeep ex (by simp [exAdd, hs])]
    · rw [if_pos ⟨rfl, hs⟩]
      have he : exAdd (a56.value acc) (.inf s) = (.nan false, flagINV) := by simp [ex, exAdd, hs]
      exact addAcc_of_nan (by rw [he]; rfl) (by rw [he]) f
  · rw [hx, ix, if_neg Bool.false_ne_true, if_neg (by simp)]
    exact hkeep ex rfl

theorem exAdd_nan (a : FVal) (q : Bool) : exAdd a (.nan q) = (.nan false, 0) := by
  cases a with
  | nan => rfl
  | inf => rfl
  | fin => rfl

/-! ### A cell takes its products (R230, R231) -/

/-- The states of a fold. -/
theorem foldl_trace {α β : Type} (g : β → α → β) (a : β) (l : List α) :
    ∃ f : Nat → β, f 0 = a ∧ f l.length = l.foldl g a ∧ ∀ n (h : n < l.length), f (n + 1) = g (f n) l[n] :=
  ⟨fun n => (l.take n).foldl g a, rfl, by simp, fun n h => by
    simp only [List.take_add_one, List.getElem?_eq_getElem h, Option.toList_some, List.foldl_append]
    rfl⟩

/-- The terms that a cell takes one after another. -/
def cellTerms (single : Bool) (ps : List FVal) : List (FVal × Flags) :=
  if single then ps.map fun p => blockSum [p] else (List.range 4).map fun b => blockSum ((ps.drop (32 * b)).take 32)

theorem floatCell_mean (single : Bool) (xs ys : List FVal) (acc : Nat) :
    (floatCell single xs ys acc).1
      = (cellTerms single ((xs.zip ys).map fun p => prod p.1 p.2)).foldl (fun a t => (addAcc a t).1) acc :=
  (List.foldl_hom Prod.fst (fun _ _ => rfl)).symm

section
variable {xs ys : List FVal} (hx : xs.length = 128) (hy : ys.length = 128)
include hx hy

theorem products_eq : (xs.zip ys).map (fun p => prod p.1 p.2)
    = (List.range 128).map fun x => prod (xs.getD x fzero) (ys.getD x fzero) := by
  refine List.ext_getElem (by simp [hx, hy]) fun n h _ => ?_
  simp only [List.length_map, List.length_zip, hx, hy, min_self] at h
  simp [List.getElem_zip, hx, hy, h]

/-- A cell of a product of 8-bit or narrower operands takes four block sums. -/
theorem floatCell_blocks (acc : Nat) : ∃ f : Nat → Nat, f 0 = acc ∧ f 4 = (floatCell false xs ys acc).1
    ∧ ∀ b, b < 4 → f (b + 1) = (addAcc (f b) (blockSum ((List.range 32).map fun x =>
        prod (xs.getD (32 * b + x) fzero) (ys.getD (32 * b + x) fzero)))).1 := by
  obtain ⟨f, h0, h1, hn⟩ := foldl_trace (fun a t => (addAcc a t).1) acc
    (cellTerms false ((xs.zip ys).map fun p => prod p.1 p.2))
  have hl : (cellTerms false ((xs.zip ys).map fun p => prod p.1 p.2)).length = 4 := by simp [cellTerms]
  refine ⟨f, h0, by rw [floatCell_mean, ← h1, hl], fun b hb => ?_⟩
  rw [hn b (hl ▸ hb)]
  simp only [cellTerms, Bool.false_eq_true, if_false, List.getElem_map, List.getElem_range, products_eq hx hy]
  congr 3
  refine List.ext_getElem (by simp; omega) fun n h _ => ?_
  simp

/-- A cell of a product with a 16-bit operand takes its products one by one. -/
theorem floatCell_singles (acc : Nat) : ∃ g : Nat → Nat, g 0 = acc ∧ g 128 = (floatCell true xs ys acc).1
    ∧ ∀ x, x < 128 → g (x + 1) = (addAcc (g x) (blockSum [prod (xs.getD x fzero) (ys.getD x fzero)])).1 := by
  obtain ⟨g, h0, h1, hn⟩ := foldl_trace (fun a t => (addAcc a t).1) acc
    (cellTerms true ((xs.zip ys).map fun p => prod p.1 p.2))
  have hl : (cellTerms true ((xs.zip ys).map fun p => prod p.1 p.2)).length = 128 := by simp [cellTerms, hx, hy]
  refine ⟨g, h0, by rw [floatCell_mean, ← h1, hl], fun x hxx => ?_⟩
  rw [hn x (hl ▸ hxx)]
  simp only [cellTerms, if_true, List.getElem_map, List.getElem_range, products_eq hx hy]

/-- A cell of an integer product is clamped after each of its products (R231). -/
theorem intCell_clamps (acc : Int) : ∃ f : Nat → Int, f 0 = acc ∧ f 128 = (intCell xs ys acc).1
    ∧ ∀ x, x < 128 → f (x + 1)
      = max (-2 ^ 47) (min (2 ^ 47 - 1) (f x + elemInt (xs.getD x fzero) * elemInt (ys.getD x fzero))) := by
  obtain ⟨f, h0, h1, hn⟩ := foldl_trace
    (fun (a : Int) p => max (-2 ^ 47) (min (2 ^ 47 - 1) (a + elemInt p.1 * elemInt p.2))) acc (xs.zip ys)
  have hl : (xs.zip ys).length = 128 := by simp [hx, hy]
  refine ⟨f, h0, ?_, fun x hxx => ?_⟩
  · rw [← hl, h1]
    unfold intCell
    refine List.foldl_hom (Prod.fst : Int × Flags → Int) (init := (acc, 0)) fun r p => ?_
    dsimp only
    generalize r.1 + elemInt p.1 * elemInt p.2 = v
    split
    · omega
    · split <;> omega
  · rw [hn x (hl ▸ hxx)]
    simp [List.getElem_zip, hx, hy, hxx]

end

/-! ### Draining (R233) -/

/-- The format that a float or integer cell drains to. -/
def drainFmt (d : Nat) : Fmt := if d = 9 then fp32 else fmtOf d

theorem goodFmt_drainFmt {d : Nat} (hd : d ∈ [1, 2, 3, 4, 9]) : ∃ b K, GoodFmt (drainFmt d) b K := by
  fin_cases hd
  · exact ⟨_, _, goodFmt_bf16⟩
  · exact ⟨_, _, goodFmt_fp16⟩
  · exact ⟨_, _, goodFmt_e4m3⟩
  · exact ⟨_, _, goodFmt_e5m2⟩
  · exact ⟨_, _, goodFmt_fp32⟩

/-- Every cell but an integer one drained into INT64 is its value rounded once. -/
theorem drainCell_rounded {cls d : Nat} (h : ¬ (cls = 2 ∧ d = 9)) (sr : Bool) (c : BitVec 56) (l : BitVec 32) :
    (drainCell cls d sr c l).bits = (Machine.round (drainFmt d) (modeFor sr l) (cellValue cls c)).bits
      ∧ (drainCell cls d sr c l).flags = (Machine.round (drainFmt d) (modeFor sr l) (cellValue cls c)).flags
      ∧ (drainCell cls d sr c l).lfsr = if sr then nextLfsr l else l := by
  unfold drainCell
  rw [if_neg (by simpa using h)]
  dsimp only
  rw [narrow_eq]
  exact ⟨rfl, rfl, rfl⟩

theorem drainCell_lfsr (cls d : Nat) (sr : Bool) (c : BitVec 56) (l : BitVec 32) :
    (drainCell cls d sr c l).lfsr = if sr then nextLfsr l else l := by
  by_cases h : cls = 2 ∧ d = 9
  · obtain ⟨rfl, rfl⟩ := h
    rfl
  · exact (drainCell_rounded h sr c l).2.2

section
variable {d : Nat} (sr : Bool) (c : BitVec 56) (l : BitVec 32)

theorem drainCell_nan {cls : Nat} (hc : cls ≠ 2) (hn : isNan a56 c.toNat = true) :
    (drainCell cls d sr c l).bits = (drainFmt d).nan ∧ (drainCell cls d sr c l).flags = 0 := by
  obtain ⟨hb, hf, -⟩ := drainCell_rounded (fun h => hc h.1 : ¬ (cls = 2 ∧ d = 9)) sr c l
  rw [hb, hf, cellValue, if_neg hc]
  exact round_nan _ _ (by rw [isNan_value goodFmt_a56 rfl, hn])

theorem drainCell_float (hd : d ∈ [1, 2, 3, 4, 9]) {cls : Nat} (hc : cls ≠ 2) (hn : isNan a56 c.toNat = false) :
    (valueOf a56 c.toNat).Rounds (drainFmt d) (randomBits sr l) (drainCell cls d sr c l).bits (drainCell cls d sr c l).flags := by
  obtain ⟨hb, hf, -⟩ := drainCell_rounded (fun h => hc h.1 : ¬ (cls = 2 ∧ d = 9)) sr c l
  obtain ⟨b, K, G⟩ := goodFmt_drainFmt hd
  have hs := stands_value goodFmt_a56 rfl c.toNat
  rw [snanFlag_value goodFmt_a56 rfl, isSnan_of_not_nan hn] at hs
  have h := rounds_of_stands G (nearest_modeFor sr l) hs
  rw [hb, hf, cellValue, if_neg hc, ← srOf_modeFor]
  simpa [flagIf] using h

theorem drainCell_integer (hd : d ∈ [1, 2, 3, 4, 9]) (h9 : d ≠ 9) :
    (integer c.toInt).Rounds (drainFmt d) (randomBits sr l) (drainCell 2 d sr c l).bits (drainCell 2 d sr c l).flags := by
  obtain ⟨hb, hf, -⟩ := drainCell_rounded (fun h => h9 h.2 : ¬ (2 = 2 ∧ d = 9)) sr c l
  obtain ⟨b, K, G⟩ := goodFmt_drainFmt hd
  have h := rounds_of_stands G (nearest_modeFor sr l) (stands_integer c.toInt)
  rw [hb, hf, cellValue, if_pos rfl, ← srOf_modeFor]
  simpa [intVal] using h

end

end Sys2Proof.Laws
end

section
/-!
SUPPORT. What the engine does with a load, a product and MZRO (R230 to R237).
-/

namespace Sys2Proof.Laws

open Sys2Proof.Machine Sys2Proof.Numbers

/-! ### A filled range of a sparse map -/

section
variable {α : Type} {d : α} {k : Nat}

theorem sget_append_left {a b : SMap α} (h : ∀ kv ∈ b, kv.1 ≠ k) : sget d (a ++ b) k = sget d a k := by
  induction a with
  | nil =>
    induction b with
    | nil => rfl
    | cons kv b ih =>
      obtain ⟨hk, hb⟩ := List.forall_mem_cons.mp h
      simpa [sget, hk] using ih hb
  | cons kv a ih => simp only [List.cons_append, sget, ih]

theorem sget_append_right {a b : SMap α} (h : ∀ kv ∈ a, kv.1 ≠ k) : sget d (a ++ b) k = sget d b k := by
  induction a with
  | nil => rfl
  | cons kv a ih =>
    obtain ⟨hk, ha⟩ := List.forall_mem_cons.mp h
    simp only [List.cons_append, sget, if_neg hk, ih ha]

/-- A filter on keys keeps what is listed at a key that passes. -/
theorem sget_filter {p : Nat → Bool} (hp : p k = true) (m : SMap α) : sget d (m.filter fun kv => p kv.1) k = sget d m k := by
  induction m with
  | nil => rfl
  | cons kv m ih =>
    obtain ⟨k', v⟩ := kv
    by_cases hk : k' = k
    · simp [hk, hp, sget]
    · cases hpk : p k' <;> simp [hpk, sget, hk, ih]

/-- The values of a function at some keys, without its default ones. -/
theorem sget_listed [DecidableEq α] (lo : Nat) (f : Nat → α) {l : List Nat} {i : Nat} (hi : i ∈ l) :
    sget d ((l.map fun i => (lo + i, f i)).filter fun kv => decide (kv.2 ≠ d)) (lo + i) = f i := by
  induction l with
  | nil => cases hi
  | cons j l ih =>
    by_cases hj : j = i
    · subst hj
      by_cases hd : f j = d
      · by_cases hl : j ∈ l
        · simpa [hd] using ih hl
        · have hnone : ∀ kv ∈ (l.map fun i => (lo + i, f i)).filter fun kv => decide (kv.2 ≠ d), kv.1 ≠ lo + j := by
            simp only [List.mem_filter, List.mem_map]
            rintro kv ⟨⟨i', hi', rfl⟩, -⟩ he
            exact hl (Nat.add_left_cancel he ▸ hi')
          have := sget_append_left (d := d) (a := []) hnone
          simpa [hd, sget] using this
      · simp [hd, sget]
    · have h := ih ((List.mem_cons.mp hi).resolve_left (Ne.symm hj))
      by_cases hd : f j = d
      · simpa [hd] using h
      · simpa [hd, sget, hj] using h

/-- A read after the filling of a range of keys. -/
theorem sget_sfill [DecidableEq α] (m : SMap α) (lo n : Nat) (f : Nat → α) (k : Nat) :
    sget d (sfill d m lo n f) k = if lo ≤ k ∧ k < lo + n then f (k - lo) else sget d m k := by
  unfold sfill
  have hmid : ∀ kv ∈ ((List.range n).map fun i => (lo + i, f i)).filter fun kv => decide (kv.2 ≠ d),
      lo ≤ kv.1 ∧ kv.1 < lo + n := by
    simp only [List.mem_filter, List.mem_map, List.mem_range]
    rintro kv ⟨⟨i, hi, rfl⟩, -⟩
    dsimp only
    omega
  have hlow : ∀ kv ∈ m.filter fun kv => decide (kv.1 < lo), kv.1 < lo := by simp
  have hhigh : ∀ kv ∈ m.filter fun kv => decide (lo + n ≤ kv.1), lo + n ≤ kv.1 := by simp
  by_cases hlo : lo ≤ k
  · by_cases hhi : k < lo + n
    · obtain ⟨i, rfl⟩ := Nat.exists_eq_add_of_le hlo
      rw [if_pos ⟨hlo, hhi⟩, sget_append_left (fun kv h => (by have := hhigh kv h; omega)),
        sget_append_right (fun kv h => (by have := hlow kv h; omega)), Nat.add_sub_cancel_left]
      exact sget_listed lo f (List.mem_range.mpr (by omega))
    · rw [if_neg (by omega), sget_append_right]
      · exact sget_filter (p := fun k => decide (lo + n ≤ k)) (decide_eq_true (by omega)) m
      · intro kv h
        rcases List.mem_append.mp h with h | h
        · have := hlow kv h
          omega
        · have := (hmid kv h).2
          omega
  · rw [if_neg (by omega), List.append_assoc, sget_append_left]
    · exact sget_filter (p := fun k => decide (k < lo)) (decide_eq_true (by omega)) m
    · intro kv h
      rcases List.mem_append.mp h with h | h
      · have := (hmid kv h).1
        omega
      · have := hhigh kv h
        omega

end

/-! ### A quarter of the engine -/

/-- A cell of a quarter that is filled. -/
theorem sget_filled_cell {α : Type} [DecidableEq α] {d : α} (m : SMap α) (q : Nat) (f : Nat → α) {i j : Nat} (hi : i < 128)
    (hj : j < 128) : sget d (sfill d m (16384 * q) 16384 f) (16384 * q + 128 * i + j) = f (128 * i + j) := by
  rw [sget_sfill, if_pos (by omega), Nat.add_assoc, Nat.add_sub_cancel_left]

/-- A cell of another quarter. -/
theorem sget_filled_other {α : Type} [DecidableEq α] {d : α} (m : SMap α) {q k : Nat} (f : Nat → α) (hk : k / 16384 ≠ q) :
    sget d (sfill d m (16384 * q) 16384 f) k = sget d m k := by
  rw [sget_sfill, if_neg (by omega)]

/-- An entry of a list of the 16384 results of the cells of a quarter. -/
theorem toArray_getD_cells {β : Type} (f : Nat → β) (z : β) {i j : Nat} (hi : i < 128) (hj : j < 128) :
    ((List.range 16384).map f).toArray.getD (128 * i + j) z = f (128 * i + j) := by
  have h : 128 * i + j < 16384 := by omega
  simp [Array.getD, h]

section
variable (m : Matrix) (q cls : Nat) (single : Bool) (X Y : Nat → List Elem)

/-- The product of a row and a column goes to its cell. -/
theorem accumulate_holds : QuarterHolds q cls single X Y m (m.accumulate q cls single X Y).1 where
  cells i j hi hj := by
    unfold Matrix.accumulate meanCells cellAfter
    dsimp only
    rw [sget_filled_cell _ _ _ hi hj, toArray_getD_cells _ _ hi hj, show (128 * i + j) / 128 = i by omega,
      show (128 * i + j) % 128 = j by omega, ← Nat.add_assoc]
    split <;> rfl
  cls := sget_sset_same 0 m.cls q cls

theorem accumulate_others : OthersAs [q] m (m.accumulate q cls single X Y).1 :=
  fun _ hk => sget_filled_other m.acc _ fun h => hk (List.mem_singleton.mpr h)

end

/-- What a product left in a quarter stays where the cells and the class do. -/
theorem quarterHolds_of_same {q cls : Nat} {single : Bool} {X Y : Nat → List Elem} {m m1 r r1 : Matrix}
    (h : QuarterHolds q cls single X Y m r) (hm : ∀ k, k / 16384 = q → sget 0 m1.acc k = sget 0 m.acc k)
    (hr : ∀ k, k / 16384 = q → sget 0 r1.acc k = sget 0 r.acc k) (hc : sget 0 r1.cls q = sget 0 r.cls q) :
    QuarterHolds q cls single X Y m1 r1 where
  cells i j hi hj := by
    have hk : (16384 * q + 128 * i + j) / 16384 = q := by omega
    rw [hr _ hk, hm _ hk, h.cells i j hi hj]
  cls := hc.trans h.cls

/-- Two products, one after the other, into two quarters (R231). -/
theorem accumulate_twice (m : Matrix) {q q2 : Nat} (hq : q2 ≠ q) (cls : Nat) (single : Bool) (X Y X2 Y2 : Nat → List Elem) :
    let r := ((m.accumulate q cls single X Y).1.accumulate q2 cls single X2 Y2).1
    QuarterHolds q cls single X Y m r ∧ QuarterHolds q2 cls single X2 Y2 m r ∧ OthersAs [q, q2] m r := by
  intro r
  have h1 := accumulate_others m q cls single X Y
  have h2 := accumulate_others (m.accumulate q cls single X Y).1 q2 cls single X2 Y2
  refine ⟨quarterHolds_of_same (accumulate_holds m q cls single X Y) (fun _ _ => rfl) (fun k hk => h2 k ?_)
      (sget_sset_ne 0 _ cls (Ne.symm hq)),
    quarterHolds_of_same (accumulate_holds _ q2 cls single X2 Y2) (fun k hk => (h1 k ?_).symm) (fun _ _ => rfl) rfl,
    fun k hk => (h2 k ?_).trans (h1 k ?_)⟩
  · rwa [List.mem_singleton, hk, eq_comm]
  · rwa [List.mem_singleton, hk]
  · exact fun h => hk (List.mem_cons_of_mem _ h)
  · exact fun h => hk (List.mem_singleton.mp h ▸ List.mem_cons_self)

/-- The spread of a cell (R232). -/
theorem spreadInto_cell (m : Matrix) (q : Nat) (X Y : Nat → List Elem) (VX VY : Nat → List (FVal × Flags)) {a b : Nat}
    (ha : a < 128) (hb : b < 128) :
    sget 0 (m.spreadInto q X Y VX VY).1.var (16384 * q + 128 * a + b) = BitVec.ofNat 32 (rnBits fp32
      (spreadCell ((VX a).map (·.1)) (squares (Y b)) (squares (X a)) ((VY b).map (·.1))
        (fp32.value (sget 0 m.var (16384 * q + 128 * a + b)).toNat)).1) := by
  unfold Matrix.spreadInto
  dsimp only
  rw [sget_filled_cell _ _ _ ha hb, toArray_getD_cells _ _ ha hb, show (128 * a + b) / 128 = a by omega,
    show (128 * a + b) % 128 = b by omega, ← Nat.add_assoc]

/-! ### The instructions -/

/-- The bytes of a plane that a load fills. -/
theorem sget_loaded (tile : List Byte) (k : Nat) :
    sget 0 (sfill 0 [] 0 tile.length fun k => tile.getD k 0) k = tile.getD k 0 := by
  rw [sget_sfill]
  split
  · rfl
  · rename_i h
    simp [sget, List.getElem?_eq_none (show tile.length ≤ k by omega)]

section
variable (m : Matrix) (i : MatInstr) (tile tile2 : List Byte)

/-- Loads fill their plane (R235). -/
theorem run_load {a b : BitVec 5} {p : BitVec 1} {g : BitVec 4} {w : Bool}
    (h : (i.instr = .mldn a b p g ∧ w = false) ∨ (i.instr = .mldw a b p g ∧ w = true)) :
    let r := (m.run i tile tile2).1
    (p = 0 → r = { m with mean := r.mean, meanFmt := (matFmt i.fmt).wfmt, west := w } ∧ ∀ k, sget 0 r.mean k = tile.getD k 0)
      ∧ (p = 1 → r = { m with spread := r.spread, spreadWest := w } ∧ ∀ k, sget 0 r.spread k = tile.getD k 0) := by
  have hr : (m.run i tile tile2).1 =
      if p == 1 then { m with spread := sfill 0 [] 0 tile.length fun k => tile.getD k 0, spreadWest := w }
      else { m with mean := sfill 0 [] 0 tile.length fun k => tile.getD k 0, meanFmt := (matFmt i.fmt).wfmt, west := w } := by
    unfold Matrix.run
    rcases h with ⟨hi, rfl⟩ | ⟨hi, rfl⟩
    · rw [hi]
    · rw [hi]
  intro r
  refine ⟨?_, ?_⟩
  · rintro rfl
    rw [show r = _ from hr]
    exact ⟨rfl, sget_loaded tile⟩
  · rintro rfl
    rw [show r = _ from hr]
    exact ⟨rfl, sget_loaded tile⟩

/-- MZRO empties one quarter or all (R236). -/
theorem run_mzro {q : BitVec 2} {all : BitVec 1} {g : BitVec 4} (h : i.instr = .mzro q all g) :
    let r := (m.run i tile tile2).1
    (∀ k, sget 0 r.acc k = if all = 1 ∨ k / 16384 = q.toNat then 0 else sget 0 m.acc k)
      ∧ (∀ k, sget 0 r.var k = if all = 1 ∨ k / 16384 = q.toNat then 0 else sget 0 m.var k)
      ∧ (∀ k, sget 0 r.cls k = if all = 1 ∨ k = q.toNat then 0 else sget 0 m.cls k)
      ∧ r = { m with acc := r.acc, var := r.var, cls := r.cls } := by
  intro r
  have hr : r = if all = 1 then { m with acc := [], var := [], cls := [] }
      else { m with
        acc := sfill 0 m.acc (16384 * q.toNat) 16384 fun _ => 0
        var := sfill 0 m.var (16384 * q.toNat) 16384 fun _ => 0
        cls := serase m.cls q.toNat } := by
    change (m.run i tile tile2).1 = _
    unfold Matrix.run
    rw [h]
  have hz {n : Nat} (v : SMap (BitVec n)) (k : Nat) :
      sget 0 (sfill 0 v (16384 * q.toNat) 16384 fun _ => 0) k = if k / 16384 = q.toNat then 0 else sget 0 v k := by
    rw [sget_sfill]
    exact if_congr (by omega) rfl rfl
  have hc (k : Nat) : sget 0 (serase m.cls q.toNat) k = if k = q.toNat then 0 else sget 0 m.cls k := by
    split
    · rename_i hk
      rw [hk, sget_serase_same]
    · rename_i hk
      exact sget_serase_ne 0 m.cls hk
  by_cases ha : all = 1
  · rw [if_pos ha] at hr
    rw [hr]
    simp [ha, sget]
  · rw [if_neg ha] at hr
    rw [hr]
    simp only [ha, false_or]
    exact ⟨hz m.acc, hz m.var, hc, trivial⟩

/-- A product changes the cells and the classes alone. -/
theorem accumulate_eq (q cls : Nat) (single : Bool) (X Y : Nat → List Elem) :
    ∃ A C, (m.accumulate q cls single X Y).1 = { m with acc := A, cls := C } := ⟨_, _, rfl⟩

/-- The spread array changes the spreads alone. -/
theorem spreadInto_eq (q : Nat) (X Y : Nat → List Elem) (VX VY : Nat → List (FVal × Flags)) :
    ∃ V, (m.spreadInto q X Y VX VY).1 = { m with var := V } := ⟨_, rfl⟩

theorem quarterHolds_pass {q cls : Nat} {single : Bool} {X Y : Nat → List Elem} {r : Matrix}
    (h : QuarterHolds q cls single X Y m r) : QuarterHolds q cls single X Y m r.pass := ⟨h.cells, h.cls⟩

/-- MMA accumulates the rows, or the columns, of its tile with the columns of the plane (R237). -/
theorem run_mma {a b : BitVec 5} {q : BitVec 2} {t : BitVec 1} {g : BitVec 4} (h : i.instr = .mma a b q t g) :
    let f := matFmt i.fmt
    let r := (m.run i tile tile2).1
    let T := (tileElems f.afmt tile.toArray).1
    QuarterHolds q.toNat (if fmtInt f.afmt = true then 2 else 1) (fmtHalf f.afmt || fmtHalf m.meanFmt)
        (fun k => if t = 1 then colOf Elem.zero T k else rowOf Elem.zero T k) (m.planeCol m.plane.1) m r
      ∧ OthersAs [q.toNat] m r ∧ r = { m with acc := r.acc, cls := r.cls, checked := m.checked + 1 } := by
  intro f r T
  have hr : r = (m.accumulate q.toNat (if fmtInt f.afmt = true then 2 else 1) (fmtHalf f.afmt || fmtHalf m.meanFmt)
      (fun k => if t = 1 then colOf Elem.zero T k else rowOf Elem.zero T k) (m.planeCol m.plane.1)).1.pass := by
    simp only [r, Matrix.run, h]
    rfl
  rw [hr]
  refine ⟨quarterHolds_pass m (accumulate_holds ..), accumulate_others m q.toNat _ _ _ _, ?_⟩
  obtain ⟨A, C, hA⟩ := accumulate_eq m q.toNat (if fmtInt f.afmt = true then 2 else 1) (fmtHalf f.afmt || fmtHalf m.meanFmt)
    (fun k => if t = 1 then colOf Elem.zero T k else rowOf Elem.zero T k) (m.planeCol m.plane.1)
  rw [hA]
  rfl

/-- MMA2 accumulates into two quarters (R237). -/
theorem run_mma2 {a b : BitVec 5} {q : BitVec 2} {g : BitVec 4} (h : i.instr = .mma2 a b q g) :
    let f := matFmt i.fmt
    let r := (m.run i tile tile2).1
    let cls := if fmtInt f.afmt = true then 2 else 1
    let single := fmtHalf f.afmt || fmtHalf m.meanFmt
    QuarterHolds q.toNat cls single (colOf Elem.zero (tileElems f.afmt tile.toArray).1) (m.planeCol m.plane.1) m r
      ∧ QuarterHolds (q ^^^ 1).toNat cls single (m.planeRow m.plane.1) (colOf Elem.zero (tileElems f.afmt tile2.toArray).1) m r
      ∧ OthersAs [q.toNat, (q ^^^ 1).toNat] m r ∧ r = { m with acc := r.acc, cls := r.cls, checked := m.checked + 1 } := by
  intro f r cls single
  have hq : (q ^^^ 1).toNat ≠ q.toNat := by
    clear r h
    revert q
    decide
  generalize hX : colOf Elem.zero (tileElems f.afmt tile.toArray).1 = X
  generalize hU : colOf Elem.zero (tileElems f.afmt tile2.toArray).1 = U
  have hr : r = ((m.accumulate q.toNat cls single X (m.planeCol m.plane.1)).1.accumulate (q ^^^ 1).toNat cls single
      (m.planeRow m.plane.1) U).1.pass := by
    simp only [r, Matrix.run, h, ← hX, ← hU]
    rfl
  clear_value r cls single
  obtain ⟨h1, h2, ho⟩ := accumulate_twice m hq cls single X (m.planeCol m.plane.1) (m.planeRow m.plane.1) U
  obtain ⟨A, C, hA⟩ := accumulate_eq m q.toNat cls single X (m.planeCol m.plane.1)
  rw [hA] at hr h1 h2 ho
  obtain ⟨A2, C2, hA2⟩ := accumulate_eq { m with acc := A, cls := C } (q ^^^ 1).toNat cls single (m.planeRow m.plane.1) U
  rw [hA2] at hr h1 h2 ho
  rw [hr]
  exact ⟨quarterHolds_pass m h1, quarterHolds_pass m h2, ho, rfl⟩

theorem map_fst_of_ite {α β γ : Type} (c : Prop) [Decidable c] (l : List α) (l2 : List β) (f : α → γ × Flags)
    (g : β → γ × Flags) : (if c then l.map f else l2.map g).map (·.1)
      = if c then l.map fun v => (f v).1 else l2.map fun v => (g v).1 := by
  split
  · exact List.map_map
  · exact List.map_map

/-- The variances of the rows of a DMMA, from its spread tile or the steps of its elements (R232). -/
def rowVars (ssrc : Nat) (tile2 : List Byte) (X : Nat → List Elem) (k : Nat) : List (FVal × Flags) :=
  if ssrc = 1 then (rowOf fzero (spreadElems tile2.toArray) k).map spreadOperand else (X k).map stepOperand

/-- The variances of the columns, from the spread plane or the steps. -/
def colVars (ssrc : Nat) (Y : Nat → List Elem) (n : Nat) : List (FVal × Flags) :=
  if ssrc = 1 then (if m.spreadWest then colOf fzero m.spreadPlane n else rowOf fzero m.spreadPlane n).map spreadOperand
  else (Y n).map stepOperand

/-- DMMA accumulates the means, and the spreads from the operands that SSRC says (R232, R237). -/
theorem run_dmma {a b : BitVec 5} {q : BitVec 2} {g : BitVec 4} (h : i.instr = .dmma a b q g) :
    let f := matFmt i.fmt
    let r := (m.run i tile tile2).1
    let X := rowOf Elem.zero (tileElems f.afmt tile.toArray).1
    let Y := m.planeCol m.plane.1
    let VX (k : Nat) : List FVal := if f.ssrc = 1 then (rowOf fzero (spreadElems tile2.toArray) k).map fun v => (spreadOperand v).1
      else (X k).map fun v => (stepOperand v).1
    let VY (n : Nat) : List FVal := if f.ssrc = 1 then (if m.spreadWest then colOf fzero m.spreadPlane n
        else rowOf fzero m.spreadPlane n).map fun v => (spreadOperand v).1
      else (Y n).map fun v => (stepOperand v).1
    QuarterHolds q.toNat (if fmtInt f.afmt = true then 2 else 1) (fmtHalf f.afmt || fmtHalf m.meanFmt) X Y m r
      ∧ OthersAs [q.toNat] m r ∧ r = { m with acc := r.acc, cls := r.cls, var := r.var, checked := m.checked + 1 }
      ∧ ∀ a b, a < 128 → b < 128 → sget 0 r.var (16384 * q.toNat + 128 * a + b) = BitVec.ofNat 32 (rnBits fp32
          (spreadCell (VX a) (squares (Y b)) (squares (X a)) (VY b)
            (fp32.value (sget 0 m.var (16384 * q.toNat + 128 * a + b)).toNat)).1) := by
  intro f r X Y VX VY
  have hVX (k : Nat) : (rowVars f.ssrc tile2 X k).map (·.1) = VX k := map_fst_of_ite ..
  have hVY (n : Nat) : (colVars m f.ssrc Y n).map (·.1) = VY n := map_fst_of_ite ..
  generalize hc : (if fmtInt f.afmt = true then 2 else 1) = cls
  generalize hs : (fmtHalf f.afmt || fmtHalf m.meanFmt) = single
  have hr : r = ((m.accumulate q.toNat cls single X Y).1.spreadInto q.toNat X Y (rowVars f.ssrc tile2 X)
      (colVars m f.ssrc Y)).1.pass := by
    simp only [r, Matrix.run, h, ← hc, ← hs]
    rfl
  have h1 := accumulate_holds m q.toNat cls single X Y
  have ho := accumulate_others m q.toNat cls single X Y
  obtain ⟨A, C, hA⟩ := accumulate_eq m q.toNat cls single X Y
  rw [hA] at hr h1 ho
  have hv := fun a b => spreadInto_cell { m with acc := A, cls := C } q.toNat X Y (rowVars f.ssrc tile2 X)
    (colVars m f.ssrc Y) (a := a) (b := b)
  obtain ⟨V, hV⟩ := spreadInto_eq { m with acc := A, cls := C } q.toNat X Y (rowVars f.ssrc tile2 X) (colVars m f.ssrc Y)
  rw [hV] at hr hv
  rw [hr]
  refine ⟨⟨h1.cells, h1.cls⟩, ho, rfl, fun a b ha hb => ?_⟩
  rw [← hVX, ← hVY]
  exact hv a b ha hb

end

end Sys2Proof.Laws
end

section
/-!
SUPPORT. MATRIX_EXECUTE in the state: the engine's head, teams that differ, drains and row statistics (R233, R234, R238 to
R242).
-/

namespace Sys2Proof.Laws

open Sys2Proof.Machine

/-! ### A group that may not be there, changed -/

section
variable (s : State) (b g : Nat) (f : Group → Group)

theorem updGrp_cases : s.updGrp b g f = s ∨ s.updGrp b g f = s.setBlk b (s.blk b)
    ∨ s.updGrp b g f = s.setGrp b g (f (s.grp b g)) := by
  cases hb : oget s.blocks b with
  | none => exact .inl (by simp [State.updGrp, State.updBlk, hb])
  | some x =>
    have hb' : (oget s.blocks b).isSome = true := by rw [hb]; rfl
    cases hg : oget (s.blk b).groups g with
    | none => exact .inr (.inl (by rw [State.updGrp, updBlk_of hb', hg]))
    | some y => exact .inr (.inr (updGrp_of hb' (by rw [hg]; rfl) f))

/-- Blocks stay on their cores. -/
theorem core_blk_updGrp (c : Nat) : ((s.updGrp b g f).blk c).core = (s.blk c).core := by
  by_cases hc : c = b
  · subst hc
    rcases updGrp_cases s c g f with h | h | h
    · rw [h]
    · rw [h, blk_setBlk_same]
    · rw [h, blk_setGrp]
      rfl
  · rcases updGrp_cases s b g f with h | h | h
    · rw [h]
    · rw [h, blk_setBlk_ne s _ hc]
    · rw [h, State.setGrp, blk_setBlk_ne s _ hc]

theorem isSome_blk_updGrp {c : Nat} (hs : (oget s.blocks c).isSome = true) :
    (oget (s.updGrp b g f).blocks c).isSome = true := by
  by_cases hc : c = b
  · subst hc
    rcases updGrp_cases s c g f with h | h | h
    · rwa [h]
    · simp [h, State.setBlk]
    · simp [h, State.setGrp, State.setBlk]
  · rcases updGrp_cases s b g f with h | h | h
    · rwa [h]
    · simpa [h, State.setBlk, oget_oset_ne _ _ hc] using hs
    · rwa [h, oget_blocks_setGrp_ne s g _ hc]

/-- A group keeps being there, with what the change keeps. -/
theorem grp_updGrp_kept {P : Group → Prop} (hf : ∀ y, P y → P (f y)) {c k : Nat}
    (hs : (oget (s.blk c).groups k).isSome = true) (h : P (s.grp c k)) :
    (oget ((s.updGrp b g f).blk c).groups k).isSome = true ∧ P ((s.updGrp b g f).grp c k) := by
  unfold State.grp at h ⊢
  by_cases hc : c = b
  · subst hc
    rcases updGrp_cases s c g f with he | he | he
    · rw [he]
      exact ⟨hs, h⟩
    · rw [he, blk_setBlk_same]
      exact ⟨hs, h⟩
    · rw [he, blk_setGrp]
      by_cases hk : k = g
      · subst hk
        rw [grp_setGrp_same]
        exact ⟨by simp [Block.setGrp], hf _ h⟩
      · rw [grp_setGrp_ne _ _ hk]
        exact ⟨by simpa [Block.setGrp, oget_oset_ne _ _ hk] using hs, h⟩
  · have hblk : (s.updGrp b g f).blk c = s.blk c := by
      rcases updGrp_cases s b g f with he | he | he
      · rw [he]
      · rw [he, blk_setBlk_ne s _ hc]
      · rw [he, State.setGrp, blk_setBlk_ne s _ hc]
    rw [hblk]
    exact ⟨hs, h⟩

end

/-! ### Teams that differ (R241, log 58) -/

theorem mem_insertReady {l : List DefFault} {f x : DefFault} : x ∈ insertReady l f ↔ x = f ∨ x ∈ l := by
  have h : x ∈ l ↔ x ∈ l.takeWhile (fun x => x.seq ≤ f.seq) ∨ x ∈ l.dropWhile (fun x => x.seq ≤ f.seq) := by
    rw [← List.mem_append, List.takeWhile_append_dropWhile]
  rw [insertReady, List.mem_append, List.mem_cons, h]
  tauto

/-- The engine of a block after that of another, or of itself, has been changed. -/
theorem mxOf_updMx (s : State) (b c : Nat) (f : Machine.Matrix → Machine.Matrix) :
    (s.updMx b f).mxOf c = if (s.blk c).core = (s.blk b).core then f (s.mxOf c) else s.mxOf c := by
  change ((s.updMx b f).core (s.blk c).core).mx = _
  split
  · rename_i h
    rw [State.updMx, h, core_updCore_same, State.mxOf, h]
  · rename_i h
    rw [State.updMx, core_updCore_ne s _ h, State.mxOf]

theorem mem_queue {m : Machine.Matrix} {j : MatInstr} : j ∈ m.queue ↔ m.exec = some j ∨ m.staged = some j := by
  simp [Machine.Matrix.queue]

/-- The instruction of a number is no longer in the engine, and nothing has come in. -/
theorem mem_dropPair {m : Machine.Matrix} {n : Nat} {j : MatInstr} (h : j ∈ (m.dropPair n).queue) :
    j ∈ m.queue ∧ j.pair ≠ n := by
  have hany (o : Option MatInstr) : (o.any (·.pair == n)) = true ↔ ∃ e, o = some e ∧ e.pair = n := by cases o <;> simp
  rw [mem_queue]
  unfold Machine.Matrix.dropPair at h
  dsimp only at h
  by_cases hs : m.staged.any (·.pair == n) = true
  · rw [if_pos hs] at h
    by_cases he : m.exec.any (·.pair == n) = true
    · rw [if_pos he] at h
      simp [mem_queue] at h
    · rw [if_neg he] at h
      rw [hany] at he
      have hj : m.exec = some j := (mem_queue.mp h).resolve_right (by simp)
      exact ⟨.inl hj, fun hp => he ⟨j, hj, hp⟩⟩
  · rw [if_neg hs] at h
    rw [hany] at hs
    by_cases he : m.exec.any (·.pair == n) = true
    · rw [if_pos he] at h
      have hj : m.staged = some j := (mem_queue.mp h).resolve_right (by simp)
      exact ⟨.inr hj, fun hp => hs ⟨j, hj, hp⟩⟩
    · rw [if_neg he, mem_queue] at h
      rw [hany] at he
      exact ⟨h, fun hp => h.elim (fun hj => he ⟨j, hj, hp⟩) fun hj => hs ⟨j, hj, hp⟩⟩

/-- A mismatch's fault changes a group alone: it adds a ready fault that has the number of the instruction, or there is one. -/
theorem matrixFault_eq (s : State) (k : MatInstr) :
    ((s.grp k.blk k.grp).ready.any (fun f => f.seq == k.seq) = true ∧ s.matrixFault k = s)
      ∨ ∃ f : DefFault, f.seq = k.seq ∧ s.matrixFault k = (s.updGrp k.blk k.grp fun y =>
          { y with ready := insertReady y.ready f }).postOnce (.deferredFaultDelivery k.blk k.grp) := by
  unfold State.matrixFault
  dsimp only
  split
  · rename_i h
    exact .inl ⟨h, rfl⟩
  · exact .inr ⟨_, rfl, rfl⟩

section
variable (s : State) (k : MatInstr)

theorem blk_postOnce (i : Instr) (c : Nat) : (s.postOnce i).blk c = s.blk c := by
  simp only [State.blk, State.postOnce_blocks]

theorem mxOf_matrixFault (c : Nat) : (s.matrixFault k).mxOf c = s.mxOf c := by
  rcases matrixFault_eq s k with ⟨-, h⟩ | ⟨f, -, h⟩
  · rw [h]
  · simp only [h, State.mxOf, State.core, blk_postOnce, core_blk_updGrp, State.postOnce_cores, State.updGrp_cores]

/-- The groups that there were are there, with the faults that were ready. -/
theorem matrixFault_keeps {c n : Nat} {f : DefFault} (hs : (oget s.blocks c).isSome = true)
    (hg : (oget (s.blk c).groups n).isSome = true) :
    (oget (s.matrixFault k).blocks c).isSome = true ∧ (oget ((s.matrixFault k).blk c).groups n).isSome = true
      ∧ (f ∈ (s.grp c n).ready → f ∈ ((s.matrixFault k).grp c n).ready) := by
  rcases matrixFault_eq s k with ⟨-, h⟩ | ⟨f', -, h⟩
  · rw [h]
    exact ⟨hs, hg, id⟩
  · have hk := grp_updGrp_kept s k.blk k.grp (fun y => { y with ready := insertReady y.ready f' })
      (P := fun y => f ∈ (s.grp c n).ready → f ∈ y.ready) (fun y hy hf => mem_insertReady.mpr (.inr (hy hf))) hg id
    rw [h]
    simp only [State.grp, blk_postOnce, State.postOnce_blocks] at hk ⊢
    exact ⟨isSome_blk_updGrp s _ _ _ hs, hk⟩

/-- The group of the instruction has its fault. -/
theorem matrixFault_ready (hs : (oget s.blocks k.blk).isSome = true) (hg : (oget (s.blk k.blk).groups k.grp).isSome = true) :
    ∃ f ∈ ((s.matrixFault k).grp k.blk k.grp).ready, f.seq = k.seq := by
  rcases matrixFault_eq s k with ⟨ha, h⟩ | ⟨f, hf, h⟩
  · rw [h]
    simpa using ha
  · refine ⟨f, ?_, hf⟩
    rw [h, State.grp, blk_postOnce, updGrp_of hs hg, blk_setGrp, grp_setGrp_same]
    exact mem_insertReady.mpr (.inl rfl)

end

/-- Both instructions are gone and both groups have a fault (log 58). -/
theorem mismatch_drops (s : State) (i e : MatInstr) : let t := s.mismatch i e
    (∀ j ∈ (t.mxOf i.blk).queue, j.pair ≠ i.pair) ∧ (∀ j ∈ (t.mxOf e.blk).queue, j.pair ≠ e.pair)
      ∧ ∀ k ∈ [i, e], (oget s.blocks k.blk).isSome = true → (oget (s.blk k.blk).groups k.grp).isSome = true →
          ∃ f ∈ (t.grp k.blk k.grp).ready, f.seq = k.seq := by
  intro t
  let u := (s.updMx i.blk fun m => m.dropPair i.pair).updMx e.blk fun m => m.dropPair e.pair
  have hmx (c : Nat) : t.mxOf c = u.mxOf c := by
    change ((u.matrixFault i).matrixFault e).mxOf c = _
    rw [mxOf_matrixFault, mxOf_matrixFault]
  have hu (c : Nat) : u.mxOf c = if (s.blk c).core = (s.blk e.blk).core
      then ((s.updMx i.blk fun m => m.dropPair i.pair).mxOf c).dropPair e.pair
      else (s.updMx i.blk fun m => m.dropPair i.pair).mxOf c := mxOf_updMx _ _ _ _
  refine ⟨fun j hj => ?_, fun j hj => ?_, fun k hk hb hg => ?_⟩
  · have hi : (s.updMx i.blk fun m => m.dropPair i.pair).mxOf i.blk = (s.mxOf i.blk).dropPair i.pair := by
      rw [mxOf_updMx, if_pos rfl]
    rw [hmx, hu, hi] at hj
    split at hj
    · exact (mem_dropPair (mem_dropPair hj).1).2
    · exact (mem_dropPair hj).2
  · rw [hmx, hu, if_pos rfl] at hj
    exact (mem_dropPair hj).2
  · have h1 := fun f => matrixFault_keeps u i (c := k.blk) (n := k.grp) (f := f) hb hg
    have hcase : k = i ∨ k = e := by simpa using hk
    rcases hcase with rfl | rfl
    · obtain ⟨f, hf, hseq⟩ := matrixFault_ready u k hb hg
      obtain ⟨hb', hg', -⟩ := h1 f
      obtain ⟨-, -, hkeep⟩ := matrixFault_keeps (u.matrixFault k) e (f := f) hb' hg'
      exact ⟨f, hkeep hf, hseq⟩
    · obtain ⟨hb', hg', -⟩ := h1 ⟨0, 0, 0, none⟩
      exact matrixFault_ready (u.matrixFault i) k hb' hg'

theorem differs_iff (i e : MatInstr) : i.differs e = true ↔ ¬ (matOp i.instr = matOp e.instr ∧ i.fmt = e.fmt) := by
  rw [MatInstr.differs, Bool.or_eq_true, bne_iff_ne, bne_iff_ne, not_and_or]

section
variable {s : State} {i : MatInstr}
  (h : ∀ m ∈ (s.members i.blk (s.mxOf i.blk).team).getD [], ∀ j ∈ (s.mxOf m).queue, s.sourceOf m j.instr ≠ some i.blk)
include h

/-- No member's instruction is held against one that no member takes its tiles from. -/
theorem takers_nil : (((s.members i.blk (s.mxOf i.blk).team).getD []).flatMap fun m => (s.mxOf m).queue.filter fun j =>
    m != i.blk && j.pair == i.pair && s.sourceOf m j.instr == some i.blk && j.differs i) = [] := by
  rw [List.flatMap_eq_nil_iff]
  intro m hm
  rw [List.filter_eq_nil_iff]
  intro j hj
  simp [h m hm j hj]

theorem checkPairs_of_source {e : MatInstr} (he : s.broadcast i.blk i = some e) (hne : e.blk ≠ i.blk) :
    s.checkPairs i = if matOp i.instr = matOp e.instr ∧ i.fmt = e.fmt then s else s.mismatch i e := by
  simp only [State.checkPairs, takers_nil h, List.foldl_nil, he]
  by_cases hd : matOp i.instr = matOp e.instr ∧ i.fmt = e.fmt
  · have hf : i.differs e = false := by rwa [← Bool.not_eq_true, differs_iff, not_not]
    rw [if_pos hd, hf, Bool.and_false, if_neg Bool.false_ne_true]
  · rw [if_neg hd, (differs_iff i e).mpr hd, bne_iff_ne.mpr hne, Bool.and_self, if_pos rfl]

theorem checkPairs_of_no_source (hn : s.broadcast i.blk i = none) : s.checkPairs i = s := by
  simp only [State.checkPairs, takers_nil h, List.foldl_nil, hn]

end

/-! ### The engine's head (R234, R241) -/

section
variable {s : State} {core : Nat} {i : MatInstr} (h : (s.core core).mx.exec = some i)
include h

theorem executeMatrix_alone (hp : i.pair = 0) :
    s.executeMatrix core = (s.runMatrix i i.tile i.tile2).nextMatrix i.blk := by
  simp only [State.executeMatrix, h, hp, if_true]

theorem executeMatrix_waits (hp : i.pair ≠ 0) (hn : s.broadcast i.blk i = none) :
    s.executeMatrix core = s.post (.matrixExecute core) := by
  simp only [State.executeMatrix, h, hp, if_false, hn]

theorem executeMatrix_paired (hp : i.pair ≠ 0) {e : MatInstr} (he : s.broadcast i.blk i = some e) :
    s.executeMatrix core = ((s.runMatrix i e.tile e.tile2).nextMatrix i.blk).forgetSent i.blk i.pair := by
  simp only [State.executeMatrix, h, hp, if_false, he]

end

/-! ### What an instruction leaves in its group and Bed (R233, R238, R239, R242) -/

/-- A load or a product changes the engine, and its flags go to the group. -/
theorem runMatrix_of_paired {s : State} {i : MatInstr} (h : isPaired i.instr = true) (tile tile2 : List Byte) :
    s.runMatrix i tile tile2 = (s.updMx i.blk fun _ => ((s.mxOf i.blk).run i tile tile2).1).updGrp i.blk i.grp fun y =>
      { y with flags := y.flags ||| ((s.mxOf i.blk).run i tile tile2).2 } := by
  unfold State.runMatrix
  split
  · rename_i hi
    rw [hi] at h
    cases h
  · rename_i hi
    rw [hi] at h
    cases h
  · rename_i hi
    rw [hi] at h
    cases h
  · rfl

section
variable {s : State} {i : MatInstr} (hb : (oget s.blocks i.blk).isSome = true)
  (hg : (oget (s.blk i.blk).groups i.grp).isSome = true)
include hb hg

theorem runMatrix_flags (h : isPaired i.instr = true) (tile tile2 : List Byte) :
    ((s.runMatrix i tile tile2).grp i.blk i.grp).flags
      = (s.grp i.blk i.grp).flags ||| ((s.mxOf i.blk).run i tile tile2).2 := by
  rw [runMatrix_of_paired h, updGrp_of (s := s.updMx _ _) hb hg, State.grp_setGrp]
  rfl

/-- MSTAT gives the statistic of each active lane's row (R239). -/
theorem rowStats_rv (d op : Nat) {L : Nat} (hL : L < 32) (hl : i.lanes.getLsbD L = true) :
    ((s.rowStats i d op).grp i.blk i.grp).rv d L
      = certain (rowStat op (drainedRow (matFmt i.fmt).dfmt i.tile.toArray L) (meanOf (i.refs.getD L 0))).1 := by
  unfold State.rowStats
  dsimp only
  rw [updGrp_of hb hg, State.grp_setGrp]
  refine (rv_wv (s.grp i.blk i.grp) d L d i.lanes _ hL).trans ?_
  rw [if_pos ⟨rfl, hl⟩]

/-- MCHK gives the counts (R242). -/
theorem readCounts_rv (d : Nat) {L : Nat} (hL : L < 32) (hl : i.lanes.getLsbD L = true) :
    ((s.readCounts i d).grp i.blk i.grp).rv d L
      = BitVec.ofNat 64 (min (s.mxOf i.blk).retried 0xFFFF * 2 ^ 32 + (s.mxOf i.blk).checked.toNat) := by
  unfold State.readCounts
  dsimp only
  rw [updGrp_of hb hg, State.grp_setGrp]
  refine (rv_wv (s.grp i.blk i.grp) d L d i.lanes _ hL).trans ?_
  rw [if_pos ⟨rfl, hl⟩]

end

/-! ### Drained bytes (R233, R238) -/

theorem length_bytesLe (n v : Nat) : (bytesLe n v).length = n := by
  induction n generalizing v with
  | zero => rfl
  | succ n ih => simp [bytesLe, ih]

theorem getElem?_bytesLe {n j : Nat} (hj : j < n) (v : Nat) : (bytesLe n v)[j]? = some (BitVec.ofNat 8 (v / 256 ^ j)) := by
  induction n generalizing v j with
  | zero => cases hj
  | succ n ih =>
    cases j with
    | zero => simp [bytesLe]
    | succ j => rw [bytesLe, List.getElem?_cons_succ, ih (Nat.lt_of_succ_lt_succ hj), Nat.div_div_eq_div_mul, pow_succ']

/-- An entry of some lists of one length put together. -/
theorem getElem?_flatMap_of_length {α β : Type} {f : α → List β} {w : Nat} (hf : ∀ a, (f a).length = w) {l : List α}
    {k j : Nat} {a : α} (ha : l[k]? = some a) (hj : j < w) : (l.flatMap f)[w * k + j]? = (f a)[j]? := by
  induction l generalizing k with
  | nil => cases ha
  | cons x l ih =>
    rw [List.flatMap_cons]
    cases k with
    | zero =>
      obtain rfl : x = a := by simpa using ha
      rw [Nat.mul_zero, Nat.zero_add, List.getElem?_append_left (by rw [hf]; exact hj)]
    | succ k =>
      rw [List.getElem?_append_right (by rw [hf, Nat.mul_succ]; omega), hf, Nat.mul_succ,
        show w * k + w + j - w = w * k + j by omega]
      exact ih (by simpa using ha)

/-- A line that has been taken out of the listed ones is fresh. -/
theorem sget_landed (m : SMap BedLine) {claims : List Nat} {n : Nat} (hn : n ∈ claims) :
    sget BedLine.fresh (m.filter fun kv => !(claims.contains kv.1)) n = ⟨0, false, none⟩ := by
  refine sget_append_left (a := []) fun kv hkv he => ?_
  rw [List.mem_filter, he] at hkv
  simp [hn] at hkv

/-- What MDRN writes to the Bed. -/
def drainedBytes (m : Machine.Matrix) (q : Nat) (f : MatFmt) (d : List (Drained × Nat)) : List Byte :=
  (d.flatMap fun p => bytesLe (drainBytes (sget 0 m.cls q) f.dfmt) p.1.bits)
    ++ (if f.ssrc != 0 then (d.map (drainSpread m q)).flatMap fun p => bytesLe 4 p.1 else [])

/-- The cells come first, in order. -/
theorem drainedBytes_cell {m : Machine.Matrix} {q : Nat} {f : MatFmt} {d : List (Drained × Nat)} {k j : Nat} {p : Drained × Nat}
    (hk : d[k]? = some p) (hj : j < drainBytes (sget 0 m.cls q) f.dfmt) :
    (drainedBytes m q f d)[drainBytes (sget 0 m.cls q) f.dfmt * k + j]? = some (BitVec.ofNat 8 (p.1.bits / 256 ^ j)) := by
  have h := getElem?_flatMap_of_length (fun p : Drained × Nat => length_bytesLe (drainBytes (sget 0 m.cls q) f.dfmt) p.1.bits)
    hk hj
  rw [getElem?_bytesLe hj] at h
  obtain ⟨hlt, -⟩ := List.getElem?_eq_some_iff.mp h
  rw [drainedBytes, List.getElem?_append_left hlt, h]

section
variable {s : State} {i : MatInstr} (hb : (oget s.blocks i.blk).isSome = true)
  (hg : (oget (s.blk i.blk).groups i.grp).isSome = true) (q : Nat)
include hb hg

/-- A block and then one of its groups changed. -/
theorem updBlk_updGrp (F : Block → Block) (hF : (F (s.blk i.blk)).groups = (s.blk i.blk).groups) (f : Group → Group) :
    (s.updBlk i.blk F).updGrp i.blk i.grp f
      = s.setBlk i.blk ((F (s.blk i.blk)).setGrp i.grp (f (s.grp i.blk i.grp))) := by
  have hy : (F (s.blk i.blk)).grp i.grp = s.grp i.blk i.grp := by rw [State.grp, Block.grp, Block.grp, hF]
  rw [updBlk_of hb, updGrp_of (by simp [State.setBlk]) (by rw [blk_setBlk_same, hF]; exact hg), State.setGrp, setBlk_setBlk,
    State.grp, blk_setBlk_same, hy]

/-- The Bed after MDRN, and its lines. -/
theorem drainMatrix_bed :
    let m := s.mxOf i.blk
    let f := matFmt i.fmt
    let bytes := drainedBytes m q f (drainQuarter m q f (perLane (s.grp i.blk i.grp).lf)).1
    ((s.drainMatrix i q).blk i.blk).bed = sfill 0 (s.blk i.blk).bed i.base bytes.length fun k => bytes.toArray.getD k 0 := by
  intro m f bytes
  unfold State.drainMatrix
  dsimp only
  rw [updBlk_updGrp hb hg _ rfl, blk_setBlk_same]
  rfl

theorem drainMatrix_lines {n : Nat} (hn : n ∈ i.claims) : ((s.drainMatrix i q).blk i.blk).bedLine n = ⟨0, false, none⟩ := by
  unfold State.drainMatrix
  dsimp only
  rw [updBlk_updGrp hb hg _ rfl, blk_setBlk_same]
  exact sget_landed (s.blk i.blk).bedMeta hn

/-- The LFSRs of the group stay under RN. -/
theorem drainMatrix_lf (hr : (matFmt i.fmt).drnd = 0) (L : Nat) :
    ((s.drainMatrix i q).grp i.blk i.grp).lf L = (s.grp i.blk i.grp).lf L := by
  unfold State.drainMatrix
  dsimp only
  rw [updBlk_updGrp hb hg _ rfl, State.grp, blk_setBlk_same, grp_setGrp_same, hr]
  rfl

/-- A byte of a drained cell. -/
theorem drainMatrix_cell {k j : Nat} {p : Drained × Nat}
    (hk : (drainQuarter (s.mxOf i.blk) q (matFmt i.fmt) (perLane (s.grp i.blk i.grp).lf)).1[k]? = some p)
    (hj : j < drainBytes (sget 0 (s.mxOf i.blk).cls q) (matFmt i.fmt).dfmt) :
    sget 0 ((s.drainMatrix i q).blk i.blk).bed (i.base + drainBytes (sget 0 (s.mxOf i.blk).cls q) (matFmt i.fmt).dfmt * k + j)
      = BitVec.ofNat 8 (p.1.bits / 256 ^ j) := by
  have hc := drainedBytes_cell hk hj
  obtain ⟨hlt, -⟩ := List.getElem?_eq_some_iff.mp hc
  rw [drainMatrix_bed hb hg, sget_sfill, if_pos (by omega), Nat.add_assoc, Nat.add_sub_cancel_left]
  simp [Array.getD_eq_getD_getElem?, hc]

end

theorem drainMatrix_mem (s : State) (i : MatInstr) (q : Nat) : (s.drainMatrix i q).mem = s.mem := by
  unfold State.drainMatrix
  rw [State.updGrp_mem, State.updBlk_mem]

end Sys2Proof.Laws
end

section
/-!
SUPPORT. The obligation on the matrix engine.
-/

namespace Sys2Proof.Laws

open Sys2Proof.Machine Sys2Proof.Numbers

/-- Settles O50: the engine's head by the lemmas of MATRIX_EXECUTE, the products cell by cell, and a cell's sums, clamps and
drain by the exact sums and roundings of R44 to R49. -/
theorem matrixExecutes : Obligations.MatrixExecutes := by
  refine ⟨?head, ?pairs, mismatch_drops, ?run, ?results, ?blockSums, ?cellSums, ?floatCells, ?intCells,
    ?drains⟩
  case head =>
    exact fun s core i h => ⟨fun hp => congrArg Host.Outcome.next (executeMatrix_alone h hp),
      fun hp hn => congrArg Host.Outcome.next (executeMatrix_waits h hp hn),
      fun e hp he => congrArg Host.Outcome.next (executeMatrix_paired h hp he)⟩
  case pairs => exact fun s i h => ⟨fun e => checkPairs_of_source h, checkPairs_of_no_source h⟩
  case run =>
    intro m i tile tile2
    exact ⟨fun _ _ _ _ _ h => run_load m i tile tile2 h, fun _ _ _ _ _ h => run_mma m i tile tile2 h,
      fun _ _ _ _ h => run_dmma m i tile tile2 h, fun _ _ _ _ h => run_mma2 m i tile tile2 h,
      fun _ _ _ h => run_mzro m i tile tile2 h⟩
  case results =>
    intro s i hb hg
    refine ⟨fun d a b o g h L hL hl => ?_, fun d g h L hL hl => ?_, fun a b q g h => ?_, fun h => runMatrix_flags hb hg h _ _⟩
    · rw [show s.runMatrix i i.tile i.tile2 = s.rowStats i d.toNat o.toNat by rw [State.runMatrix, h]]
      exact rowStats_rv hb hg _ _ hL hl
    · rw [show s.runMatrix i i.tile i.tile2 = s.readCounts i d.toNat by rw [State.runMatrix, h]]
      exact readCounts_rv hb hg _ hL hl
    · rw [show s.runMatrix i i.tile i.tile2 = s.drainMatrix i q.toNat by rw [State.runMatrix, h]]
      exact ⟨fun n hn => drainMatrix_lines hb hg _ hn, fun k p j hk hj => drainMatrix_cell hb hg _ hk hj,
        fun hr L => drainMatrix_lf hb hg _ hr L, drainMatrix_mem s i _⟩
  case blockSums =>
    intro l
    refine ⟨blockSum_of_nan, fun hn hi ho => blockSum_of_inf false hn hi ho, fun hn ho hi => blockSum_of_inf true hn hi ho,
      fun h => ?_⟩
    rw [blockSum_of_finite h]
    obtain ⟨s, n, k, hs, ht, h0⟩ := sumFin_dyadic h
    exact ⟨s, n, k, by rw [hs], ht, h0⟩
  case cellSums =>
    exact fun acc f _ => ⟨fun neg n d hd => addAcc_fin acc f neg n hd, addAcc_inf acc f,
      fun q => (addAcc_of_nan (by rw [exAdd_nan]; rfl) (by rw [exAdd_nan]) f).trans (by rw [flags_or_zero]; rfl)⟩
  case floatCells =>
    intro xs ys acc hx hy
    obtain ⟨f, f0, f4, hf⟩ := floatCell_blocks hx hy acc
    obtain ⟨g, g0, g128, hg⟩ := floatCell_singles hx hy acc
    exact ⟨f, g, f0, g0, f4, g128, hf, hg⟩
  case intCells => exact fun xs ys acc hx hy => intCell_clamps hx hy acc
  case drains =>
    intro c sr l d hd cls
    refine ⟨drainCell_lfsr cls d sr c l, drainCell_nan sr c l, drainCell_float sr c l hd, ?_, ?_⟩
    · rintro rfl h9
      exact drainCell_integer sr c l hd h9
    · rintro rfl rfl
      exact ⟨rfl, rfl⟩

end Sys2Proof.Laws
end

section
/-!
SUPPORT. What leaves physical memory as it is: every function of the model that writes no byte behind the memory-side
cache, in the model's order. Only `State.setPhysByte` and `State.memWriteMask` change memory (Laws/Memory.lean).
-/

namespace Sys2Proof.Machine

/-! ### Choices and turns -/

@[simp] theorem mem_ite (c : Prop) [Decidable c] (a b : State) :
    (if c then a else b).mem = if c then a.mem else b.mem :=
  apply_ite State.mem c a b

@[simp] theorem fst_mem_ite {β : Type} (c : Prop) [Decidable c] (a b : State × β) :
    (if c then a else b).1.mem = if c then a.1.mem else b.1.mem :=
  apply_ite (·.1.mem) c a b

/-- Turns that each leave memory leave it together. -/
@[simp] theorem mem_foldl {α : Type} {f : State → α → State} (hf : ∀ s a, (f s a).mem = s.mem) (l : List α)
    (s : State) : (l.foldl f s).mem = s.mem := by
  induction l generalizing s with
  | nil => rfl
  | cons a l ih => exact (ih _).trans (hf s a)

@[simp] theorem fst_mem_foldl {α β : Type} {f : State × β → α → State × β}
    (hf : ∀ r a, (f r a).1.mem = r.1.mem) (l : List α) (r : State × β) : (l.foldl f r).1.mem = r.1.mem := by
  induction l generalizing r with
  | nil => rfl
  | cons a l ih => exact (ih _).trans (hf r a)

/-! ### Physical memory and the L2 -/

@[simp] theorem State.wake_mem (s : State) (space line : Nat) : (s.wake space line).mem = s.mem := by
  simp [State.wake]

@[simp] theorem State.cacheSummary_mem (s : State) (k space : Nat) (va : Word) :
    (s.cacheSummary k space va).mem = s.mem := by
  simp [State.cacheSummary]

@[simp] theorem State.poisonStored_mem (s : State) (d pa : Nat) (mask : Line) :
    (s.poisonStored d pa mask).mem = s.mem := by
  simp [State.poisonStored]

@[simp] theorem State.poisonHome_mem (s : State) (d pa : Nat) (mask : Line) :
    (s.poisonHome d pa mask).mem = s.mem := by
  simp [State.poisonHome]

@[simp] theorem State.updL2_mem (s : State) (d key : Nat) (f : L2Line → L2Line) : (s.updL2 d key f).mem = s.mem := by
  simp [State.updL2]

@[simp] theorem State.dropStale_mem (s : State) (d : Nat) : (s.dropStale d).mem = s.mem := by
  simp [State.dropStale]

@[simp] theorem State.moveTags_mem (s : State) (d key : Nat) : (s.moveTags d key).mem = s.mem := by
  simp [State.moveTags]

@[simp] theorem State.limitKeepL2_mem (s : State) (d key : Nat) : (s.limitKeepL2 d key).mem = s.mem := by
  unfold State.limitKeepL2
  dsimp only
  repeat' split
  all_goals simp

@[simp] theorem State.poisonPoc_mem (s : State) (d key pa : Nat) (mask : Line) :
    (s.poisonPoc d key pa mask).mem = s.mem := by
  simp [State.poisonPoc]

@[simp] theorem State.poisonMem_mem (s : State) (d pa : Nat) : (s.poisonMem d pa).mem = s.mem := by
  simp [State.poisonMem]

@[simp] theorem State.poisonLineL2_mem (s : State) (d key off : Nat) : (s.poisonLineL2 d key off).mem = s.mem := by
  simp [State.poisonLineL2]

@[simp] theorem State.hostStore_mem (s : State) (d line : Nat) (v : Line) : (s.hostStore d line v).mem = s.mem := by
  unfold State.hostStore
  split <;> simp

@[simp] theorem State.backInvalidate_mem (s : State) (d pa : Nat) : (s.backInvalidate d pa).mem = s.mem := by
  unfold State.backInvalidate
  split <;> simp

@[simp] theorem State.askHost_mem (s : State) (l : List (Nat × Nat)) : (s.askHost l).mem = s.mem := by
  simp [State.askHost]

/-! ### The L1s and the determinism tags -/

@[simp] theorem State.takeFlaw_mem (s : State) (P : Party) (va : Word) : (s.takeFlaw P va).1.mem = s.mem := by
  simp [State.takeFlaw]

@[simp] theorem State.tagCheck_mem (s : State) (P : Party) (line off : Nat) (a : Nat → TagAcc) :
    (s.tagCheck P line off a).1.mem = s.mem := by
  simp [State.tagCheck]

@[simp] theorem State.updL1_mem (s : State) (k : Nat) (f : OMap L1Line → OMap L1Line) :
    (s.updL1 k f).mem = s.mem := rfl

@[simp] theorem State.roomL1_mem (s : State) (k key cls : Nat) : (s.roomL1 k key cls).mem = s.mem := by
  unfold State.roomL1
  dsimp only
  repeat' split
  all_goals simp

@[simp] theorem State.fillL1_mem (s : State) (P : Party) (line hint : Nat) (add data poison : Line) :
    (s.fillL1 P line hint add data poison).mem = s.mem := by
  unfold State.fillL1
  dsimp only
  repeat' split
  all_goals simp

@[simp] theorem State.storeL1_mem (s : State) (P : Party) (line : Nat) (mask data : Line) :
    (s.storeL1 P line mask data).mem = s.mem := by
  unfold State.storeL1
  dsimp only
  repeat' split
  all_goals simp

@[simp] theorem State.dropMarked_mem (s : State) (b : Nat) : (s.dropMarked b).mem = s.mem := rfl

@[simp] theorem State.mergeL1_mem (s : State) (P : Party) (line : Nat) (held taken : Line) :
    (s.mergeL1 P line held taken).mem = s.mem := rfl

@[simp] theorem State.dropL1_mem (s : State) (k key : Nat) (mask : Line) : (s.dropL1 k key mask).mem = s.mem := rfl

@[simp] theorem State.dropRemote_mem (s : State) (d : Nat) : (s.dropRemote d).mem = s.mem := by
  simp [State.dropRemote]

@[simp] theorem State.acquire_mem (s : State) (b scope : Nat) : (s.acquire b scope).mem = s.mem := by
  simp [State.acquire]

/-! ### The store buffer and held lines -/

@[simp] theorem State.faultsReady_mem (s : State) (b g : Nat) (l : List DefFault) :
    (s.faultsReady b g l).mem = s.mem := by
  simp [State.faultsReady]

@[simp] theorem State.setLsb_mem (s : State) (k : Nat) (l : List Access) : (s.setLsb k l).mem = s.mem := rfl

@[simp] theorem State.updEntry_mem (s : State) (k uid : Nat) (f : Access → Access) :
    (s.updEntry k uid f).mem = s.mem := rfl

@[simp] theorem State.closeEntry_mem (s : State) (k uid : Nat) : (s.closeEntry k uid).mem = s.mem := by
  unfold State.closeEntry
  split <;> simp

@[simp] theorem State.raiseCommits_mem (s : State) (b : Nat) : (s.raiseCommits b).mem = s.mem := by
  simp [State.raiseCommits]

@[simp] theorem State.startCommit_mem (s : State) (b : Nat) (always : Bool) :
    (s.startCommit b always).mem = s.mem := by
  simp [State.startCommit]

@[simp] theorem State.notePort_mem (s : State) (b d : Nat) : (s.notePort b d).mem = s.mem := by
  simp [State.notePort]

@[simp] theorem State.noteGroupPort_mem (s : State) (b g d : Nat) : (s.noteGroupPort b g d).mem = s.mem := by
  simp [State.noteGroupPort]

@[simp] theorem State.pressure_mem (s : State) (P : Party) (line : Nat) : (s.pressure P line).1.mem = s.mem := by
  unfold State.pressure
  dsimp only
  repeat' split
  all_goals simp

@[simp] theorem State.widenRelease_mem (s : State) (k : Nat) (a : Access) : (s.widenRelease k a).mem = s.mem := by
  simp [State.widenRelease]

@[simp] theorem State.probeLines_mem (s : State) (k uid : Nat) : (s.probeLines k uid).mem = s.mem := by
  unfold State.probeLines
  split <;> simp

@[simp] theorem State.refreshRemote_mem (s : State) (d key : Nat) (mask data : Line) :
    (s.refreshRemote d key mask data).mem = s.mem := by
  simp [State.refreshRemote]

@[simp] theorem State.clearCommitted_mem (s : State) (b : Nat) : (s.clearCommitted b).mem = s.mem := rfl

/-! ### Groups, blocks and grids -/

@[simp] theorem State.settlePhase_mem (s : State) (n : Nat) : (s.settlePhase n).mem = s.mem := by
  simp [State.settlePhase]

@[simp] theorem State.countEnd_mem (s : State) (n id : Nat) (o : Outcome3) : (s.countEnd n id o).mem = s.mem := by
  simp [State.countEnd]

@[simp] theorem State.dropEngines_mem (s : State) (b : Nat) : (s.dropEngines b).mem = s.mem :=
  mem_foldl (fun s j => by simp) ..

@[simp] theorem State.dropMatrix_mem (s : State) (b : Nat) : (s.dropMatrix b).mem = s.mem := by
  simp [State.dropMatrix]

@[simp] theorem State.dropHeld_mem (s : State) (b : Nat) : (s.dropHeld b).mem = s.mem := by
  simp [State.dropHeld]

@[simp] theorem State.freePlace_mem (s : State) (b : Nat) (saved : Bool) : (s.freePlace b saved).mem = s.mem := by
  simp [State.freePlace]

@[simp] theorem State.endJob_mem (s : State) (b stat : Nat) : (s.endJob b stat).mem = s.mem := by
  unfold State.endJob
  split <;> simp

@[simp] theorem State.suspectCore_mem (s : State) (b k : Nat) : (s.suspectCore b k).mem = s.mem := rfl

@[simp] theorem State.advance_mem (s : State) (I : Issue) : (s.advance I).mem = s.mem := by
  simp [State.advance]

@[simp] theorem State.putBack_mem (s : State) (I : Issue) : (s.putBack I).mem = s.mem := by
  simp [State.putBack]

@[simp] theorem Issue.blockOn_mem (I : Issue) (s : State) (r : ParkReason) (w : Await) :
    (I.blockOn s r w).mem = s.mem := by
  simp [Issue.blockOn]

@[simp] theorem Issue.block_mem (I : Issue) (s : State) (r : ParkReason) : (I.block s r).mem = s.mem := by
  simp [Issue.block]

@[simp] theorem State.repark_mem (s : State) (b g : Nat) (r : ParkReason) (w : Await) :
    (s.repark b g r w).mem = s.mem := by
  simp [State.repark]

@[simp] theorem State.dropPark_mem (s : State) (b g : Nat) : (s.dropPark b g).mem = s.mem := by
  simp [State.dropPark]

@[simp] theorem State.turnTo_mem (s : State) (b g : Nat) (f : Park → Bool) : (s.turnTo b g f).mem = s.mem := by
  simp [State.turnTo]

@[simp] theorem State.unpark_mem (s : State) (b g : Nat) : (s.unpark b g).mem = s.mem := by
  simp [State.unpark]

@[simp] theorem Issue.raise_mem (I : Issue) (s : State) (f : Flags) : (I.raise s f).mem = s.mem := by
  simp [Issue.raise]

@[simp] theorem Issue.setV_mem (I : Issue) (s : State) (d : BitVec 5) (f : Nat → Word × Flags) :
    (I.setV s d f).mem = s.mem := by
  simp [Issue.setV]

@[simp] theorem Issue.setS_mem (I : Issue) (s : State) (d : BitVec 5) (r : Word × Flags) :
    (I.setS s d r).mem = s.mem := by
  simp [Issue.setS]

@[simp] theorem Issue.setP_mem (I : Issue) (s : State) (p : Nat) (val : Mask) : (I.setP s p val).mem = s.mem := by
  simp [Issue.setP]

@[simp] theorem Issue.setF_mem (I : Issue) (s : State) (d : BitVec 5) (sr : Bool) (f : Nat → LaneOut) :
    (I.setF s d sr f).mem = s.mem := by
  simp [Issue.setF]

@[simp] theorem State.later_mem (s : State) (b g : Nat) (o : VarOut) : (s.later b g o).mem = s.mem := by
  simp [State.later]

@[simp] theorem Issue.laterV_mem (I : Issue) (s : State) (d : BitVec 5) (f : Nat → Word × Flags) :
    (I.laterV s d f).mem = s.mem := by
  simp [Issue.laterV]

@[simp] theorem Issue.laterS_mem (I : Issue) (s : State) (d : BitVec 5) (r : Word × Flags) :
    (I.laterS s d r).mem = s.mem := by
  simp [Issue.laterS]

@[simp] theorem Issue.laterP_mem (I : Issue) (s : State) (p : Nat) (val : Mask) : (I.laterP s p val).mem = s.mem := by
  simp [Issue.laterP]

/-! ### Checks of an access -/

@[simp] theorem State.lookUp_mem (s : State) (k space : Nat) (act : Mask) (va : Nat → Word) :
    (s.lookUp k space act va).mem = s.mem := by
  simp [State.lookUp]

@[simp] theorem Issue.noteLines_mem (I : Issue) (s : State) (act : Mask) (va : Nat → Word) :
    (I.noteLines s act va).mem = s.mem := by
  simp [Issue.noteLines]

/-! ### Loads -/

@[simp] theorem State.updLoad_mem (s : State) (b g uid : Nat) (f : Access → Access) :
    (s.updLoad b g uid f).mem = s.mem := by
  simp [State.updLoad]

@[simp] theorem State.readTags_mem (s : State) (P : Party) (a : Access) (lanes : Mask) (line : Nat) :
    (s.readTags P a lanes line).1.mem = s.mem := by
  simp [State.readTags]

@[simp] theorem State.finishLoad_mem (s : State) (b g uid : Nat) : (s.finishLoad b g uid).mem = s.mem := by
  unfold State.finishLoad
  split <;> simp

/-! ### Stores and commits -/

@[simp] theorem State.flushPosted_mem (s : State) (b g : Nat) : (s.flushPosted b g).mem = s.mem := by
  unfold State.flushPosted
  simp only [State.updGrp_mem, State.updBlk_mem]
  exact mem_foldl (fun s d => State.send_mem ..) ..

@[simp] theorem Issue.step_mem (I : Issue) (s : State) (a : Access) (va : Nat → Word) :
    (I.step s a va).mem = s.mem := by
  simp [Issue.step]

@[simp] theorem State.failLine_mem (s : State) (k space line code : Nat) :
    (s.failLine k space line code).mem = s.mem := by
  simp [State.failLine]

@[simp] theorem State.takeHeld_mem (s : State) (b id line : Nat) : (s.takeHeld b id line).mem = s.mem := by
  simp [State.takeHeld]

/-! ### Acquires, releases and waits -/

@[simp] theorem State.setAwait_mem (s : State) (b g : Nat) (w : Await) : (s.setAwait b g w).mem = s.mem := by
  simp [State.setAwait]

@[simp] theorem State.finishLda_mem (s : State) (b g : Nat) (a : Access) (scope : Nat) :
    (s.finishLda b g a scope).mem = s.mem := by
  simp [State.finishLda]

@[simp] theorem State.finishFence_mem (s : State) (b g : Nat) (acq : Option Nat) :
    (s.finishFence b g acq).mem = s.mem := by
  unfold State.finishFence
  split <;> simp

@[simp] theorem State.finishCommit_mem (s : State) (b g : Nat) (flush : Bool) (acq : Option Nat) :
    (s.finishCommit b g flush acq).mem = s.mem := by
  simp [State.finishCommit]

/-! ### Accesses to the Bed -/

@[simp] theorem State.refetch_mem (s : State) (b g : Nat) (pc : Word) (w : Word32) (line : Nat) :
    (s.refetch b g pc w line).mem = s.mem := by
  unfold State.refetch
  split <;> simp

/-! ### The Trellis -/

@[simp] theorem State.newGridId_mem (s : State) : (s.newGridId).2.mem = s.mem := by
  unfold State.newGridId
  split <;> rfl

@[simp] theorem State.drainGraph_mem (s : State) (n : Nat) (stopped : Bool) :
    (s.drainGraph n stopped).mem = s.mem := by
  simp [State.drainGraph]

@[simp] theorem State.preempt_mem (s : State) (n : Nat) : (s.preempt n).mem = s.mem := by
  simp [State.preempt]

@[simp] theorem State.allocSlice_mem (s : State) (n : Nat) : (s.allocSlice n).mem = s.mem := by
  unfold State.allocSlice
  dsimp only
  repeat' split
  all_goals simp

@[simp] theorem State.steal_mem (s : State) (n c : Nat) : (s.steal n c).mem = s.mem := by
  unfold State.steal
  dsimp only
  repeat' split
  all_goals simp

@[simp] theorem State.displaceOthers_mem (s : State) (b : Nat) : (s.displaceOthers b).mem = s.mem := rfl

@[simp] theorem State.startBlock_mem (s : State) (n l id relaunches k : Nat) :
    (s.startBlock n l id relaunches k).mem = s.mem := by
  simp [State.startBlock]

@[simp] theorem State.makeRoom_mem (s : State) (k : Nat) : (s.makeRoom k).mem = s.mem := by
  unfold State.makeRoom
  split <;> simp

@[simp] theorem State.startTurn_mem (s : State) (n l id relaunches k : Nat) :
    (s.startTurn n l id relaunches k).mem = s.mem := by
  simp [State.startTurn]

@[simp] theorem State.takeTurns_mem (s : State) (n : Nat) (ps : List (Nat × Nat)) :
    (s.takeTurns n ps).mem = s.mem := by
  unfold State.takeTurns
  split
  · simp
  · refine mem_foldl (fun s p => ?_) ..
    split <;> simp

@[simp] theorem State.wakeMates_mem (s : State) (n l : Nat) : (s.wakeMates n l).mem = s.mem := rfl

@[simp] theorem State.fillLcore_mem (s : State) (n l : Nat) : (s.fillLcore n l).mem = s.mem := by
  unfold State.fillLcore
  dsimp only
  repeat' split
  all_goals simp

@[simp] theorem State.assignCore_mem (s : State) (k : Nat) : (s.assignCore k).mem = s.mem := by
  unfold State.assignCore
  split <;> simp

@[simp] theorem State.dropReadOnly_mem (s : State) (n : Nat) : (s.dropReadOnly n).mem = s.mem := rfl

@[simp] theorem State.giveBack_mem (s : State) (cores : List Nat) (t : Nat × Nat) :
    (s.giveBack cores t).mem = s.mem := by
  unfold State.giveBack
  dsimp only
  repeat' split
  all_goals simp

/-! ### Barriers and waits on a mask -/

@[simp] theorem State.arrivePhase_mem (s : State) (b g : Nat) : (s.arrivePhase b g).mem = s.mem := by
  simp [State.arrivePhase]

@[simp] theorem State.finishMaskw_mem (s : State) (b g : Nat) (a : Access) (p : Nat) (ok : Bool) :
    (s.finishMaskw b g a p ok).mem = s.mem := by
  simp [State.finishMaskw]

/-! ### Lines of the Bed -/

@[simp] theorem State.tickBlock_mem (s : State) (b : Nat) : (s.tickBlock b).mem = s.mem := by
  simp [State.tickBlock]

@[simp] theorem State.fadeBytes_mem (s : State) (b line : Nat) : (s.fadeBytes b line).mem = s.mem := by
  simp [State.fadeBytes]

@[simp] theorem State.landLine_mem (s : State) (b line cmd : Nat) : (s.landLine b line cmd).mem = s.mem := by
  unfold State.landLine
  dsimp only
  repeat' split
  all_goals simp

/-! ### Fetch -/

@[simp] theorem State.honourSwitch_mem (s : State) (b g : Nat) (on : Bool) : (s.honourSwitch b g on).mem = s.mem := by
  simp [State.honourSwitch]

/-! ### Command queues -/

@[simp] theorem State.pushCommand_mem (s : State) (b g q : Nat) (pc : Word) (w : Word32) (words : List Word) :
    (s.pushCommand b g q pc w words).mem = s.mem := by
  simp [State.pushCommand]

@[simp] theorem State.commandFault_mem (s : State) (c : Command) (cause : Nat) :
    (s.commandFault c cause).mem = s.mem := by
  unfold State.commandFault
  split <;> simp

@[simp] theorem State.advanceDone_mem (s : State) (b t n : Nat) : (s.advanceDone b t n).mem = s.mem := by
  induction n generalizing s with
  | zero => rfl
  | succ n ih =>
    unfold State.advanceDone
    simp only []
    split
    · rfl
    · rw [ih]
      exact State.updBlk_mem ..

@[simp] theorem State.openDetail_mem (s : State) (c : Command) : (s.openDetail c).1.mem = s.mem := by
  unfold State.openDetail
  split <;> rfl

/-! ### Copies -/

@[simp] theorem State.engineTags_mem (s : State) (P : Party) (line off n : Nat) (write : Bool) :
    (s.engineTags P line off n write).1.mem = s.mem := by
  simp [State.engineTags]

@[simp] theorem State.unland_mem (s : State) (cmd b : Nat) (lines : List Landing) :
    (s.unland cmd b lines).mem = s.mem := by
  simp [State.unland]

@[simp] theorem State.landReady_mem (s : State) (cmd : Nat) : (s.landReady cmd).mem = s.mem := by
  unfold State.landReady
  split <;> simp

@[simp] theorem State.putBed_mem (s : State) (cmd : Nat) (l : List Moved) (fromMem : Bool) :
    (s.putBed cmd l fromMem).mem = s.mem := by
  simp [State.putBed]

@[simp] theorem State.nextChunk_mem (s : State) (cmd : Nat) : (s.nextChunk cmd).mem = s.mem := rfl

/-! ### The matrix engine -/

@[simp] theorem State.updMx_mem (s : State) (b : Nat) (f : Matrix → Matrix) : (s.updMx b f).mem = s.mem := rfl

@[simp] theorem State.formTeam_mem (s : State) (b d : Nat) : (s.formTeam b d).mem = s.mem := by
  simp [State.formTeam]

@[simp] theorem State.matrixFault_mem (s : State) (i : MatInstr) : (s.matrixFault i).mem = s.mem := by
  simp [State.matrixFault]

@[simp] theorem State.mismatch_mem (s : State) (i e : MatInstr) : (s.mismatch i e).mem = s.mem := by
  simp [State.mismatch]

@[simp] theorem State.checkPairs_mem (s : State) (i : MatInstr) : (s.checkPairs i).mem = s.mem := by
  unfold State.checkPairs
  split <;> simp

@[simp] theorem State.enterMatrix_mem (s : State) (b : Nat) (i : MatInstr) : (s.enterMatrix b i).mem = s.mem := by
  simp [State.enterMatrix]

@[simp] theorem State.rowStats_mem (s : State) (i : MatInstr) (d op : Nat) : (s.rowStats i d op).mem = s.mem := by
  simp [State.rowStats]

@[simp] theorem State.readCounts_mem (s : State) (i : MatInstr) (d : Nat) : (s.readCounts i d).mem = s.mem := by
  simp [State.readCounts]

@[simp] theorem State.runMatrix_mem (s : State) (i : MatInstr) (tile tile2 : List Byte) :
    (s.runMatrix i tile tile2).mem = s.mem := by
  grind -ring -linarith -lia -order [State.runMatrix, State.rowStats_mem, State.updMx_mem, State.updGrp_mem,
    Laws.drainMatrix_mem, State.readCounts_mem]

@[simp] theorem State.nextMatrix_mem (s : State) (b : Nat) : (s.nextMatrix b).mem = s.mem := by
  simp [State.nextMatrix]

@[simp] theorem State.forgetSent_mem (s : State) (b n : Nat) : (s.forgetSent b n).mem = s.mem := by
  unfold State.forgetSent
  split
  · exact mem_foldl (fun s m => State.updMx_mem ..) ..
  · rfl

@[simp] theorem State.executeMatrix_mem (s : State) (core : Nat) : (s.executeMatrix core).mem = s.mem := by
  grind -ring -linarith -lia -order [State.executeMatrix, State.post_mem, State.forgetSent_mem, State.runMatrix_mem,
    State.nextMatrix_mem]

/-! ### Contexts saved and restored -/

@[simp] theorem State.abandonRelease_mem (s : State) (b g : Nat) (p : Park) :
    (s.abandonRelease b g p).mem = s.mem := by
  unfold State.abandonRelease
  dsimp only
  repeat' split
  all_goals simp

@[simp] theorem State.stopBlock_mem (s : State) (b : Nat) : (s.stopBlock b).mem = s.mem := by
  simp [State.stopBlock]

@[simp] theorem State.takeBed_mem (s : State) (b : Nat) : (s.takeBed b).mem = s.mem := by
  unfold State.takeBed
  exact (mem_foldl (fun s c => State.updCmd_mem ..) ..).trans (State.updBlk_mem ..)

@[simp] theorem State.leaveCore_mem (s : State) (b : Nat) : (s.leaveCore b).mem = s.mem := by
  simp [State.leaveCore]

@[simp] theorem State.putCommands_mem (s : State) (l : List (Nat × Option Command)) :
    (s.putCommands l).mem = s.mem := rfl

@[simp] theorem State.resumeLoads_mem (s : State) (b g : Nat) : (s.resumeLoads b g).mem = s.mem := rfl

@[simp] theorem State.resumeMatrix_mem (s : State) (b : Nat) (l : List MatInstr) :
    (s.resumeMatrix b l).mem = s.mem := by
  unfold State.resumeMatrix
  split <;> simp

/-! ### Control transfers -/

@[simp] theorem jump_mem (I : Issue) (s : State) (f : Nat → Word) : (jump I s f).mem = s.mem := by
  simp [jump]

@[simp] theorem link_mem (I : Issue) (s : State) : (link I s).mem = s.mem := by
  simp [link]

/-! ### Float words -/

@[simp] theorem laterF_mem (I : Issue) (s : State) (d : BitVec 5) (sr : Bool) (f : Nat → LaneOut) :
    (laterF I s d sr f).mem = s.mem := by
  simp [laterF]

@[simp] theorem specialOf_mem (I : Issue) (s : State) (d a : BitVec 5) (m : BitVec 2) (f : SpecialFn) :
    (specialOf I s d a m f).mem = s.mem := by
  simp [specialOf]

/-! ### Conversions -/

@[simp] theorem advanceStream_mem (I : Issue) (s : State) (n : Word) : (advanceStream I s n).mem = s.mem := by
  simp [advanceStream]

@[simp] theorem drawOf_mem (I : Issue) (s : State) (d : BitVec 5) (k : DrawKind) : (drawOf I s d k).mem = s.mem := by
  simp [drawOf]

/-! ### Graphs -/

@[simp] theorem State.graphRuns_mem (s : State) (n : Nat) : (s.graphRuns n).mem = s.mem := by
  simp [State.graphRuns]

@[simp] theorem State.endNode_mem (s : State) (n : Nat) : (s.endNode n).mem = s.mem := by
  unfold State.endNode
  dsimp only
  repeat' split
  all_goals simp

/-! ### Handlers and traps -/

@[simp] theorem State.recheck_mem (s : State) (a : Access) (lanes : Mask) (need : Nat) :
    (s.recheck a lanes need).1.mem = s.mem := by
  simp [State.recheck]

@[simp] theorem State.replayLoad_mem (s : State) (b g : Nat) (a : Access) : (s.replayLoad b g a).mem = s.mem := by
  simp [State.replayLoad]

@[simp] theorem State.dropLoad_mem (s : State) (b g : Nat) (a : Access) : (s.dropLoad b g a).mem = s.mem := by
  simp [State.dropLoad]

@[simp] theorem State.replayWait_mem (s : State) (b g : Nat) (was a : Access) :
    (s.replayWait b g was a).mem = s.mem := by
  unfold State.replayWait
  dsimp only
  repeat' split
  all_goals simp

@[simp] theorem State.dropWait_mem (s : State) (b g : Nat) (a : Access) : (s.dropWait b g a).mem = s.mem := by
  unfold State.dropWait
  dsimp only
  repeat' split
  all_goals simp

@[simp] theorem State.invalidateTlb_mem (s : State) (w : Word) : (s.invalidateTlb w).mem = s.mem := by
  simp [State.invalidateTlb]

@[simp] theorem State.invalidateSummary_mem (s : State) (w : Word) : (s.invalidateSummary w).mem = s.mem := rfl

/-! ### The host and the fabric -/

@[simp] theorem State.enableQueue_mem (s : State) (q : Nat) : (s.enableQueue q).mem = s.mem := by
  simp [State.enableQueue]

@[simp] theorem State.disableQueue_mem (s : State) (q : Nat) : (s.disableQueue q).mem = s.mem := by
  unfold State.disableQueue
  split <;> rfl

@[simp] theorem State.startMail_mem (s : State) (n : Word) (i : Instr) : (s.startMail n i).mem = s.mem := rfl

@[simp] theorem State.writeCmd_mem (s : State) (v : Word) : (s.writeCmd v).mem = s.mem := by
  unfold State.writeCmd
  dsimp only
  repeat' split
  all_goals simp

@[simp] theorem State.setQueueWord_mem (s : State) (q k : Nat) (v : Word) : (s.setQueueWord q k v).mem = s.mem := by
  simp [State.setQueueWord]

@[simp] theorem State.writeReg_mem (s : State) (off : Nat) (v : Word) : (s.writeReg off v).mem = s.mem := by
  simp [State.writeReg]

@[simp] theorem State.bar2Read_mem (s : State) (off n : Nat) : (s.bar2Read off n).mem = s.mem := by
  unfold State.bar2Read
  split <;> rfl

@[simp] theorem State.coherentRead_mem (s : State) (d line : Nat) : (s.coherentRead d line).mem = s.mem := by
  simp [State.coherentRead]

@[simp] theorem State.setLink_mem (s : State) (d p : Nat) (up : Bool) : (s.setLink d p up).mem = s.mem := by
  simp [State.setLink]

@[simp] theorem State.poisonCopies_mem (s : State) (b : Nat) : (s.poisonCopies b).mem = s.mem := by
  simp [State.poisonCopies]

@[simp] theorem State.poisonLandings_mem (s : State) (b : Nat) : (s.poisonLandings b).mem = s.mem := rfl

@[simp] theorem State.setFused_mem (s : State) (cluster : Nat) (f : Bool) : (s.setFused cluster f).mem = s.mem := by
  simp [State.setFused]

/-! ### Integer words -/

@[simp] theorem intAB_mem (I : Issue) (s : State) (u : Bool) (d a b : BitVec 5) (f : Word → Word → Word × Flags) :
    (intAB I s u d a b f).mem = s.mem := by
  simp [intAB]

@[simp] theorem intA_mem (I : Issue) (s : State) (u : Bool) (d a : BitVec 5) (f : Word → Word × Flags) :
    (intA I s u d a f).mem = s.mem := by
  simp [intA]

@[simp] theorem intDAB_mem (I : Issue) (s : State) (u : Bool) (d a b : BitVec 5)
    (f : Word → Word → Word → Word × Flags) :
    (intDAB I s u d a b f).mem = s.mem := by
  simp [intDAB]

@[simp] theorem intLater_mem (I : Issue) (s : State) (u : Bool) (d a b : BitVec 5) (f : Word → Word → Word × Flags) :
    (intLater I s u d a b f).mem = s.mem := by
  simp [intLater]

@[simp] theorem intImm_mem (I : Issue) (s : State) (d a : BitVec 5) (f : Word → Word) :
    (intImm I s d a f).mem = s.mem := by
  simp [intImm]

/-! ### Pruner jobs -/

@[simp] theorem State.startJob_mem (s : State) (die core : Nat) : (s.startJob die core).mem = s.mem := by
  unfold State.startJob
  dsimp only
  repeat' split
  all_goals simp

/-! ### KV transfers -/

@[simp] theorem State.askPeer_mem (s : State) (c : Command) (kind addr : Nat) (data : List Byte) :
    (s.askPeer c kind addr data).1.mem = s.mem := by
  unfold State.askPeer
  split <;> rfl

@[simp] theorem State.kvNext_mem (s : State) (cmd stat : Nat) : (s.kvNext cmd stat).mem = s.mem := rfl

@[simp] theorem State.kvFlag_mem (s : State) (cmd : Nat) : (s.kvFlag cmd).mem = s.mem := by
  unfold State.kvFlag
  split <;> simp

/-! ### The management controller -/

@[simp] theorem State.extend_mem (s : State) (f : List Byte × List Byte × Nat) : (s.extend f).mem = s.mem := rfl

@[simp] theorem State.runStages_mem (s : State) (k n : Nat) : (s.runStages k n).mem = s.mem := by
  induction n generalizing s k with
  | zero => rfl
  | succ n ih => simp [State.runStages, ih]

@[simp] theorem State.lowerClock_mem (s : State) : (s.lowerClock).mem = s.mem := by
  simp [State.lowerClock]

@[simp] theorem State.mailDone_mem (s : State) (ok : Bool) : (s.mailDone ok).mem = s.mem := rfl

@[simp] theorem State.respond_mem (s : State) (data : List Byte) : (s.respond data).mem = s.mem := rfl

theorem State.mailCommand_mem (s : State) (n : Word) (i : Instr) {f : State → State} (hf : (f s).mem = s.mem) :
    (s.mailCommand n i f).mem = s.mem := by
  simp [State.mailCommand, hf]

@[simp] theorem State.readHost_mem (s : State) (addr n : Nat) : (s.readHost addr n).2.mem = s.mem := rfl

@[simp] theorem State.attest_mem (s : State) : (s.attest).mem = s.mem := rfl

@[simp] theorem State.telemetry_mem (s : State) : (s.telemetry).mem = s.mem := by
  simp [State.telemetry]

@[simp] theorem State.clearSuspect_mem (s : State) : (s.clearSuspect).mem = s.mem := by
  simp [State.clearSuspect]

@[simp] theorem State.setPowerCap_mem (s : State) : (s.setPowerCap).mem = s.mem := by
  simp [State.setPowerCap]

@[simp] theorem State.loadFirmware_mem (s : State) (image : Nat) : (s.loadFirmware image).mem = s.mem := by
  unfold State.loadFirmware
  split <;> simp

/-! ### Predicates -/

@[simp] theorem predAB_mem (I : Issue) (s : State) (p : BitVec 7) (a b : BitVec 5) (k : BitVec 4)
    (f : Mask → Mask → Mask) :
    (predAB I s p a b k f).mem = s.mem := by
  simp [predAB]

/-! ### The Stack engines -/

@[simp] theorem State.sopenBind_mem (s : State) (cmd : Nat) : (s.sopenBind cmd).mem = s.mem := by
  unfold State.sopenBind
  dsimp only
  repeat' split
  all_goals simp

@[simp] theorem State.sieveFeed_mem (s : State) (d space va len : Nat) : (s.sieveFeed d space va len).mem = s.mem := by
  unfold State.sieveFeed
  refine mem_foldl (fun s k => ?_) ..
  simp only []
  split <;> simp

/-! ### The schedule -/

@[simp] theorem State.clearCur_mem (s : State) : (s.clearCur).mem = s.mem := rfl

@[simp] theorem State.issued_mem (s : State) (b g : Nat) : (s.issued b g).mem = s.mem := by
  simp [State.issued]

@[simp] theorem State.toIssue_mem (s : State) (b g : Nat) : (s.toIssue b g).mem = s.mem := by
  simp [State.toIssue]

@[simp] theorem State.swap_mem (s : State) (p : Seat × Option Seat) : (s.swap p).mem = s.mem := by
  unfold State.swap
  split <;> simp

end Sys2Proof.Machine

end

section
/-!
SUPPORT. What keeps the canonical form of physical memory: every function of the model that may write a byte behind the
memory-side cache, in the model's order. Each is made of functions that keep the form and of ones that leave memory.
-/

namespace Sys2Proof.Machine

/-! ### Choices and turns -/

variable {s : State}

theorem ite_wf {c : Prop} [Decidable c] {s t : State} (hs : Memory.wf s.mem) (ht : Memory.wf t.mem) :
    Memory.wf (if c then s else t).mem :=
  ite_kept (P := fun s : State => Memory.wf s.mem) hs ht

theorem ite_fst_wf {α : Type} {c : Prop} [Decidable c] {r q : State × α} (hr : Memory.wf r.1.mem)
    (hq : Memory.wf q.1.mem) : Memory.wf (if c then r else q).1.mem :=
  ite_fst_kept (P := fun s : State => Memory.wf s.mem) hr hq

theorem wf_foldl {α : Type} {f : State → α → State} (hf : ∀ s a, Memory.wf s.mem → Memory.wf (f s a).mem)
    (l : List α) {s : State} (h : Memory.wf s.mem) : Memory.wf (l.foldl f s).mem :=
  foldl_kept (P := fun s => Memory.wf s.mem) hf l s h

theorem fst_wf_foldl {α β : Type} {f : State × β → α → State × β}
    (hf : ∀ r a, Memory.wf r.1.mem → Memory.wf (f r a).1.mem) (l : List α) {r : State × β} (h : Memory.wf r.1.mem) :
    Memory.wf (l.foldl f r).1.mem := by
  induction l generalizing r with
  | nil => exact h
  | cons a l ih => exact ih (hf r a h)

/-! ### Physical memory and the L2 -/

theorem State.ringPush_wf (d base cap size v : Nat) (h : Memory.wf s.mem) :
    Memory.wf (s.ringPush d base cap size v).1.mem :=
  memory_wf_kept.ringPush d base cap size v h

theorem State.logPort_wf (d port : Nat) (h : Memory.wf s.mem) : Memory.wf (s.logPort d port).mem :=
  memory_wf_kept.logPort d port h

theorem State.translate_wf (space : Nat) (va : Word) (need : Nat) (count : Bool) (h : Memory.wf s.mem) :
    Memory.wf (s.translate space va need count).1.mem :=
  memory_wf_kept.translate space va need count h

theorem State.mscWriteBack_wf (d line : Nat) (h : Memory.wf s.mem) : Memory.wf (s.mscWriteBack d line).mem :=
  memory_wf_kept.mscWriteBack d line h

theorem State.mscFill_wf (d line : Nat) (mask : Line) (h : Memory.wf s.mem) : Memory.wf (s.mscFill d line mask).mem :=
  memory_wf_kept.mscFill d line mask h

theorem State.homeWrite_wf (d pa bitmap : Nat) (mask data : Line) (h : Memory.wf s.mem) :
    Memory.wf (s.homeWrite d pa bitmap mask data).mem :=
  memory_wf_kept.homeWrite d pa bitmap mask data h

theorem State.evictL2_wf (d key : Nat) (h : Memory.wf s.mem) : Memory.wf (s.evictL2 d key).mem :=
  memory_wf_kept.evictL2 d key h

theorem State.roomL2_wf (d key : Nat) (copy : Bool) (h : Memory.wf s.mem) : Memory.wf (s.roomL2 d key copy).1.mem :=
  memory_wf_kept.roomL2 d key copy h

theorem State.ownWay_wf (d key : Nat) (h : Memory.wf s.mem) : Memory.wf (s.ownWay d key).1.mem :=
  memory_wf_kept.ownWay d key h

theorem State.placeL2_wf (d key cls : Nat) (h : Memory.wf s.mem) : Memory.wf (s.placeL2 d key cls).mem := by
  grind -ring -linarith -lia -order [State.placeL2, State.limitKeepL2_mem, State.updL2_mem, State.updDie_mem,
    State.roomL2_wf]

theorem State.markL2_wf (d key : Nat) (x : Xlate) (cls : Nat) (h : Memory.wf s.mem) :
    Memory.wf (s.markL2 d key x cls).mem := by
  grind -ring -linarith -lia -order [State.markL2, State.placeL2_wf, State.updL2_mem]

theorem State.fillL2_wf (d key : Nat) (x : Xlate) (need : Line) (cls : Nat) (h : Memory.wf s.mem) :
    Memory.wf (s.fillL2 d key x need cls).mem := by
  grind -ring -linarith -lia -order [State.fillL2, State.updL2_mem, State.markL2_wf, State.ownWay_wf,
    State.mscFill_wf]

theorem State.pocWrite_wf (d key pa bitmap : Nat) (mask data : Line) (h : Memory.wf s.mem) :
    Memory.wf (s.pocWrite d key pa bitmap mask data).mem :=
  memory_wf_kept.pocWrite d key pa bitmap mask data h

theorem State.replaceL2_wf (d key : Nat) (h : Memory.wf s.mem) : Memory.wf (s.replaceL2 d key).mem := by
  grind -ring -linarith -lia -order [State.replaceL2, State.evictL2_wf]

theorem State.clearWay7_wf (d : Nat) (h : Memory.wf s.mem) : Memory.wf (s.clearWay7 d).mem :=
  memory_wf_kept.clearWay7 d h

/-! ### The L1s and the determinism tags -/

theorem State.fetchOwner_wf (P : Party) (line hint : Nat) (need : Line) (h : Memory.wf s.mem) :
    Memory.wf (s.fetchOwner P line hint need).1.mem := by
  grind -ring -linarith -lia -order [State.fetchOwner, State.translate_wf, State.fillL2_wf, State.backInvalidate_mem]

theorem State.fillRemote_wf (d key hint : Nat) (add : Line) (o : L2Line) (h : Memory.wf s.mem) :
    Memory.wf (s.fillRemote d key hint add o).mem := by
  grind -ring -linarith -lia -order [State.fillRemote, State.placeL2_wf, State.updL2_mem, State.ownWay_wf]

theorem State.fetchLine_wf (P : Party) (line hint : Nat) (need : Line) (l1 : Bool) (h : Memory.wf s.mem) :
    Memory.wf (s.fetchLine P line hint need l1).1.mem := by
  grind -ring -linarith -lia -order [State.fetchLine, State.fillL1_mem, State.fetchOwner_wf, State.fillRemote_wf]

theorem State.fetchPoc_wf (P : Party) (line hint : Nat) (need : Line) (h : Memory.wf s.mem) :
    Memory.wf (s.fetchPoc P line hint need).1.mem := by
  grind -ring -linarith -lia -order [State.fetchPoc, State.fetchOwner_wf]

/-! ### The store buffer and held lines -/

theorem State.wayForCopy_wf (d key : Nat) (h : Memory.wf s.mem) : Memory.wf (s.wayForCopy d key).mem := by
  grind -ring -linarith -lia -order [State.wayForCopy, State.updL2_mem, State.roomL2_wf]

theorem State.hold_wf (P : Party) (line : Nat) (mask data : Line) (m : L2Line) (cls : Nat) (h : Memory.wf s.mem) :
    Memory.wf (s.hold P line mask data m cls).mem := by
  grind -ring -linarith -lia -order [State.hold, State.storeL1_mem, State.tick_mem, State.wayForCopy_wf,
    State.updBlk_mem]

theorem State.sendUncached_wf (b g d pa bitmap : Nat) (mask data : Line) (h : Memory.wf s.mem) :
    Memory.wf (s.sendUncached b g d pa bitmap mask data).mem := by
  grind -ring -linarith -lia -order [State.sendUncached, State.homeWrite_wf, State.noteGroupPort_mem,
    State.notePort_mem]

theorem State.placeLane_wf (k uid L : Nat) (h : Memory.wf s.mem) : Memory.wf (s.placeLane k uid L).mem := by
  grind -ring -linarith -lia -order [State.placeLane, State.sendUncached_wf, State.updEntry_mem,
    State.widenRelease_mem, State.startCommit_mem, State.pressure_mem, State.hold_wf, State.tagCheck_mem]

theorem State.placeEntry_wf (k uid : Nat) (h : Memory.wf s.mem) : Memory.wf (s.placeEntry k uid).mem := by
  unfold State.placeEntry
  rw [State.closeEntry_mem]
  exact wf_foldl (fun _ L => State.placeLane_wf k uid L) _ h

theorem State.settleStores_wf (k : Nat) (h : Memory.wf s.mem) : Memory.wf (s.settleStores k).mem := by
  have h1 := wf_foldl (fun _ (a : Access) => State.placeEntry_wf k a.uid) (s.lsb k) h
  unfold State.settleStores
  refine wf_foldl (fun t a ht => ?_) _ h1
  simpa using ht

theorem State.enterStore_wf (a : Access) (h : Memory.wf s.mem) : Memory.wf (s.enterStore a).mem := by
  grind -ring -linarith -lia -order [State.enterStore, State.settleStores_wf, State.setLsb_mem]

theorem State.mergeLine_wf (P : Party) (line pa bitmap : Nat) (sieve : Bool) (mask data : Line)
    (h : Memory.wf s.mem) :
    Memory.wf (s.mergeLine P line pa bitmap sieve mask data).mem := by
  grind -ring -linarith -lia -order [State.mergeLine, State.updDie_mem, State.homeWrite_wf, State.wake_mem,
    State.pocWrite_wf, State.postAll_mem, State.refreshRemote_mem, State.notePort_mem]

theorem State.landHeld_wf (o key : Nat) (c : Held) (h : Memory.wf s.mem) : Memory.wf (s.landHeld o key c).mem := by
  grind -ring -linarith -lia -order [State.landHeld, State.placeL2_wf, State.updL2_mem]

theorem State.hostMerge_wf (d line : Nat) (mask data : Line) (h : Memory.wf s.mem) :
    Memory.wf (s.hostMerge d line mask data).mem := by
  grind -ring -linarith -lia -order [State.hostMerge, State.mergeLine_wf, State.homeWrite_wf]

theorem State.snoop_wf (d pa : Nat) (write : Bool) (h : Memory.wf s.mem) : Memory.wf (s.snoop d pa write).mem := by
  grind -ring -linarith -lia -order [State.snoop, State.updDie_mem, State.hostMerge_wf, State.send_mem]

/-! ### Reads and writes by virtual address -/

theorem State.seek_wf (space : Nat) (va : Word) (n need : Nat) (h : Memory.wf s.mem) :
    Memory.wf (s.seek space va n need).1.mem := by
  grind -ring -linarith -lia -order [State.seek, State.snoop_wf, State.translate_wf]

theorem State.vread_wf (space : Nat) (va : Word) (n : Nat) (h : Memory.wf s.mem) :
    Memory.wf (s.vread space va n).1.mem := by
  grind -ring -linarith -lia -order [State.vread, State.seek_wf]

theorem State.vwrite_wf (P : Party) (va : Word) (n v : Nat) (h : Memory.wf s.mem) :
    Memory.wf (s.vwrite P va n v).1.mem := by
  grind -ring -linarith -lia -order [State.vwrite, State.mergeLine_wf, State.seek_wf]

theorem State.vreadBytes_wf (space va k n : Nat) (h : Memory.wf s.mem) :
    Memory.wf (s.vreadBytes space va k n).1.mem := by
  induction k generalizing s va n with
  | zero => exact h
  | succ k ih => grind -ring -linarith -lia -order [State.vreadBytes, State.vread_wf]

theorem State.vwriteBytes_wf (P : Party) (va n : Nat) (l : List Byte) (h : Memory.wf s.mem) :
    Memory.wf (s.vwriteBytes P va n l).1.mem := by
  induction n generalizing s va l with
  | zero => exact h
  | succ n ih => grind -ring -linarith -lia -order [State.vwriteBytes, State.vwrite_wf, State.dropL1_mem,
    State.updBlk_mem]

theorem State.writeSegs_wf (P : Party) (base : Nat) (l : List (Nat × List Byte)) (h : Memory.wf s.mem) :
    Memory.wf (s.writeSegs P base l).1.mem := by
  induction l generalizing s with
  | nil => exact h
  | cons p l ih => grind -ring -linarith -lia -order [State.writeSegs, State.vwriteBytes_wf]

theorem State.readSeg_wf (P : Party) (va n : Nat) (h : Memory.wf s.mem) : Memory.wf (s.readSeg P va n).1.mem := by
  grind -ring -linarith -lia -order [State.readSeg, State.vreadBytes_wf]

theorem State.setCapWord_wf (P : Party) (rec : Word) (off : Nat) (v : Word) (h : Memory.wf s.mem) :
    Memory.wf (s.setCapWord P rec off v).mem := by
  grind -ring -linarith -lia -order [State.setCapWord, State.vwrite_wf, State.dropL1_mem]

/-! ### Groups, blocks and grids -/

theorem State.writeStatus_wf (b : Nat) (o : Outcome3) (cause : Nat) (h : Memory.wf s.mem) :
    Memory.wf (s.writeStatus b o cause).mem := by
  grind -ring -linarith -lia -order [State.writeStatus, State.vwrite_wf]

theorem State.deschedule_wf (b g : Nat) (h : Memory.wf s.mem) : Memory.wf (s.deschedule b g).mem := by
  grind -ring -linarith -lia -order [State.deschedule, State.setCapWord_wf]

theorem State.abandonCapsule_wf (b g : Nat) (h : Memory.wf s.mem) :
    Memory.wf (s.abandonCapsule b g).mem := by
  have hz := wf_foldl (fun t k => State.setCapWord_wf (s := t) (s.partyOf b) (s.grp b g).caprec (8 * k) 0)
    (List.range 32) h
  grind -ring -linarith -lia -order [State.abandonCapsule, State.setCapWord_wf]

theorem State.abandonCapsules_wf (b : Nat) (h : Memory.wf s.mem) : Memory.wf (s.abandonCapsules b).mem :=
  wf_foldl (fun _ (g : Nat × Group) => State.abandonCapsule_wf b g.1) _ h

theorem State.endBlock_wf (b : Nat) (o : Outcome3) (cause : Nat) (h : Memory.wf s.mem) :
    Memory.wf (s.endBlock b o cause).mem := by
  grind -ring -linarith -lia -order [State.endBlock, State.writeStatus_wf, State.freePlace_mem,
    State.abandonCapsules_wf, State.dropMatrix_mem, State.settlePhase_mem, State.dropHeld_mem, State.countEnd_mem,
    State.updBlk_mem, State.dropEngines_mem]

theorem State.finishJob_wf (b : Nat) (j : Job) (h : Memory.wf s.mem) : Memory.wf (s.finishJob b j).mem := by
  grind -ring -linarith -lia -order [State.finishJob, State.vwrite_wf, State.vread_wf, State.endJob_mem]

theorem State.settleBlock_wf (b : Nat) (h : Memory.wf s.mem) : Memory.wf (s.settleBlock b).mem := by
  grind -ring -linarith -lia -order [State.settleBlock, State.writeStatus_wf, State.freePlace_mem,
    State.dropMatrix_mem, State.settlePhase_mem, State.startCommit_mem, State.finishJob_wf, State.countEnd_mem,
    State.updBlk_mem, State.dropEngines_mem]

theorem State.endGroup_wf (b g : Nat) (h : Memory.wf s.mem) : Memory.wf (s.endGroup b g).mem := by
  grind -ring -linarith -lia -order [State.endGroup, State.updGrp_mem, State.settlePhase_mem, State.settleBlock_wf,
    State.updBlk_mem]

theorem State.logError_wf (d kind cause outcome unit gridId blockId : Nat) (h : Memory.wf s.mem) :
    Memory.wf (s.logError d kind cause outcome unit gridId blockId).mem := by
  grind -ring -linarith -lia -order [State.logError, State.ringPush_wf]

theorem State.hwError_wf (b cause : Nat) (h : Memory.wf s.mem) : Memory.wf (s.hwError b cause).mem := by
  grind -ring -linarith -lia -order [State.hwError, State.abandonCapsules_wf, State.updCore_mem, State.dropMatrix_mem,
    State.postAll_mem, State.updGrid_mem, State.endBlock_wf, State.dropHeld_mem, State.suspectCore_mem,
    State.logError_wf, State.endJob_mem, State.dropEngines_mem]

theorem State.enterHandler_wf (b g : Nat) (t : Trap) (h : Memory.wf s.mem) :
    Memory.wf (s.enterHandler b g t).mem := by
  grind -ring -linarith -lia -order [State.enterHandler, State.deschedule_wf, State.updGrp_mem, State.writeSegs_wf,
    State.hwError_wf, State.setGrp_mem, State.endBlock_wf]

theorem State.takeTrap_wf (b g : Nat) (t : Trap) (h : Memory.wf s.mem) : Memory.wf (s.takeTrap b g t).mem := by
  grind -ring -linarith -lia -order [State.takeTrap, State.updGrp_mem, State.enterHandler_wf, State.endBlock_wf,
    State.endJob_mem]

theorem State.resumeTrap_wf (b g : Nat) (h : Memory.wf s.mem) : Memory.wf (s.resumeTrap b g).mem := by
  grind -ring -linarith -lia -order [State.resumeTrap, State.enterHandler_wf]

theorem Issue.trap_wf (I : Issue) (t : Trap) (h : Memory.wf s.mem) : Memory.wf (I.trap s t).mem := by
  grind -ring -linarith -lia -order [Issue.trap, State.mark_mem, State.putBack_mem, State.takeTrap_wf]

theorem Issue.trapAfter_wf (I : Issue) (group : Nat) (detail : BitVec 96) (h : Memory.wf s.mem) :
    Memory.wf (I.trapAfter s group detail).mem := by
  grind -ring -linarith -lia -order [Issue.trapAfter, State.takeTrap_wf]

/-! ### Loads -/

theorem Issue.load_wf (I : Issue) (kind : Nat) (d : BitVec 5) (logsz hint : Nat) (va : Nat → Word)
    (h : Memory.wf s.mem) :
    Memory.wf (I.load s kind d logsz hint va).mem := by
  grind -ring -linarith -lia -order [Issue.load, State.updGrp_mem, Issue.trap_wf, Issue.noteLines_mem,
    State.postAll_mem, State.tick_mem, Issue.block_mem, State.lookUp_mem]

theorem loadL_wf (I : Issue) (t a : BitVec 5) (o : BitVec 6) (hint : BitVec 2) (logsz : Nat) (h : Memory.wf s.mem) :
    Memory.wf (loadL I s t a o hint logsz).mem := by
  grind -ring -linarith -lia -order [loadL, Issue.load_wf]

theorem State.prefetch_wf (P : Party) (hint line : Nat) (h : Memory.wf s.mem) :
    Memory.wf (s.prefetch P hint line).mem := by
  grind -ring -linarith -lia -order [State.prefetch, State.fetchLine_wf]

theorem State.readLine_wf (a : Access) (lanes : Mask) (line : Nat) (h : Memory.wf s.mem) :
    Memory.wf (s.readLine a lanes line).1.mem := by
  grind -ring -linarith -lia -order [State.readLine, State.readTags_mem, State.fetchPoc_wf, State.fetchLine_wf]

theorem State.lineRequest_wf (b g uid line : Nat) (h : Memory.wf s.mem) :
    Memory.wf (s.lineRequest b g uid line).mem := by
  grind -ring -linarith -lia -order [State.lineRequest, State.post_mem, State.updLoad_mem, State.readLine_wf,
    State.settleStores_wf]

theorem State.loadReturn_wf (b g uid line : Nat) (h : Memory.wf s.mem) :
    Memory.wf (s.loadReturn b g uid line).mem := by
  grind -ring -linarith -lia -order [State.loadReturn, State.updGrp_mem, State.finishLoad_mem, State.updLoad_mem,
    State.hwError_wf]

theorem State.deliverFault_wf (b g : Nat) (h : Memory.wf s.mem) : Memory.wf (s.deliverFault b g).mem := by
  grind -ring -linarith -lia -order [State.deliverFault, State.setGrp_mem, State.endBlock_wf, State.postOnce_mem,
    State.takeTrap_wf]

/-! ### Stores and commits -/

theorem Issue.store_wf (I : Issue) (t : BitVec 5) (logsz hint : Nat) (va d0 d1 : Nat → Word) (h : Memory.wf s.mem) :
    Memory.wf (I.store s t logsz hint va d0 d1).mem := by
  grind -ring -linarith -lia -order [Issue.store, Issue.step_mem, Issue.trap_wf, State.tick_mem, Issue.block_mem,
    State.enterStore_wf, State.lookUp_mem]

theorem storeL_wf (I : Issue) (t a : BitVec 5) (o : BitVec 6) (hint : BitVec 2) (logsz : Nat) (h : Memory.wf s.mem) :
    Memory.wf (storeL I s t a o hint logsz).mem := by
  grind -ring -linarith -lia -order [storeL, Issue.store_wf]

theorem State.translateProbe_wf (b uid line : Nat) (h : Memory.wf s.mem) :
    Memory.wf (s.translateProbe b uid line).mem := by
  grind -ring -linarith -lia -order [State.translateProbe, State.post_mem, State.translate_wf, State.updEntry_mem,
    State.settleStores_wf]

theorem State.releaseLane_wf (k uid L : Nat) (h : Memory.wf s.mem) : Memory.wf (s.releaseLane k uid L).mem := by
  grind -ring -linarith -lia -order [State.releaseLane, State.flushPosted_mem, State.mergeLine_wf,
    State.sendUncached_wf, State.updEntry_mem, State.dropL1_mem, State.backInvalidate_mem]

theorem State.releaseLanes_wf (k uid : Nat) (h : Memory.wf s.mem) : Memory.wf (s.releaseLanes k uid).mem :=
  wf_foldl (fun _ L => State.releaseLane_wf k uid L) _ h

theorem State.releaseRest_wf (k b uid line : Nat) (h : Memory.wf s.mem) :
    Memory.wf (s.releaseRest k b uid line).mem := by
  grind -ring -linarith -lia -order [State.releaseRest, State.post_mem, State.closeEntry_mem, State.settleStores_wf,
    State.settleBlock_wf]

theorem State.releaseEntry_wf (k b uid line : Nat) (h : Memory.wf s.mem) :
    Memory.wf (s.releaseEntry k b uid line).mem := by
  grind -ring -linarith -lia -order [State.releaseEntry, State.releaseLanes_wf, State.releaseRest_wf]

theorem State.markLine_wf (P : Party) (line : Nat) (x : Xlate) (cls : Nat) (h : Memory.wf s.mem) :
    Memory.wf (s.markLine P line x cls).mem := by
  grind -ring -linarith -lia -order [State.markLine, State.markL2_wf, State.pressure_mem]

theorem State.probeReply_wf (b uid line : Nat) (h : Memory.wf s.mem) : Memory.wf (s.probeReply b uid line).mem := by
  grind -ring -linarith -lia -order [State.probeReply, State.settleStores_wf, State.failLine_mem,
    State.settleBlock_wf, State.releaseEntry_wf, State.markLine_wf]

theorem State.settleAfter_wf (id : Nat) (h : Memory.wf s.mem) : Memory.wf (s.settleAfter id).mem :=
  wf_foldl (fun _ (c : Nat × Core) => State.settleStores_wf c.1) _ h

theorem State.commitDone_wf (b id line : Nat) (h : Memory.wf s.mem) : Memory.wf (s.commitDone b id line).mem := by
  grind -ring -linarith -lia -order [State.commitDone, State.settleAfter_wf, State.clearCommitted_mem,
    State.settleStores_wf, State.settleBlock_wf, State.updBlk_mem]

theorem State.commitMerge_wf (b id line : Nat) (h : Memory.wf s.mem) : Memory.wf (s.commitMerge b id line).mem := by
  grind -ring -linarith -lia -order [State.commitMerge, State.post_mem, State.mergeLine_wf, State.poisonPoc_mem,
    State.takeHeld_mem, State.commitDone_wf, State.mergeL1_mem, State.landHeld_wf, State.backInvalidate_mem]

/-! ### Atomics -/

theorem Issue.atomic_wf (I : Issue) (d : BitVec 5) (logsz : Nat) (dest : Bool) (va d0 d1 : Nat → Word)
    (h : Memory.wf s.mem) :
    Memory.wf (I.atomic s d logsz dest va d0 d1).mem := by
  grind -ring -linarith -lia -order [Issue.atomic, Issue.step_mem, State.updGrp_mem, Issue.trap_wf, State.postAll_mem,
    State.startCommit_mem, State.tick_mem, Issue.block_mem, State.enterStore_wf, State.lookUp_mem]

theorem State.finishAtomic_wf (k uid : Nat) (h : Memory.wf s.mem) : Memory.wf (s.finishAtomic k uid).mem := by
  grind -ring -linarith -lia -order [State.finishAtomic, State.acquire_mem, State.updGrp_mem, State.closeEntry_mem,
    State.settleStores_wf, State.settleBlock_wf]

theorem State.atomicLane_wf (k : Nat) (a : Access) (L : Nat) (x : Xlate) (h : Memory.wf s.mem) :
    Memory.wf (s.atomicLane k a L x).mem := by
  grind -ring -linarith -lia -order [State.atomicLane, State.mergeLine_wf, State.takeFlaw_mem, State.updGrp_mem,
    State.updEntry_mem, State.dropL1_mem, State.hwError_wf, State.finishAtomic_wf]

theorem State.atomicPerform_wf (b uid L : Nat) (h : Memory.wf s.mem) : Memory.wf (s.atomicPerform b uid L).mem := by
  grind -ring -linarith -lia -order [State.atomicPerform, State.post_mem, State.translate_wf, State.updEntry_mem,
    State.atomicLane_wf, State.finishAtomic_wf, State.tagCheck_mem, State.backInvalidate_mem]

/-! ### Acquires, releases and waits -/

theorem State.readWord_wf (b : Nat) (va : Word) (n : Nat) (h : Memory.wf s.mem) :
    Memory.wf (s.readWord b va n).1.mem := by
  grind -ring -linarith -lia -order [State.readWord, State.takeFlaw_mem, State.translate_wf, State.tagCheck_mem,
    State.backInvalidate_mem]

theorem State.readLanes_wf (a : Access) (lanes : Mask) (h : Memory.wf s.mem) :
    Memory.wf (s.readLanes a lanes).1.mem := by
  refine fst_wf_foldl (fun r L hr => ?_) _ h
  grind -ring -linarith -lia -order [State.readWord_wf]

theorem State.readLda_wf (b g : Nat) (a : Access) (scope : Nat) (h : Memory.wf s.mem) :
    Memory.wf (s.readLda b g a scope).mem := by
  grind -ring -linarith -lia -order [State.readLda, State.finishLda_mem, State.setAwait_mem, State.faultsReady_mem,
    State.readLanes_wf, State.hwError_wf, State.postOnce_mem]

theorem State.readWaitm_wf (b g : Nat) (a : Access) (cmp : List Word) (h : Memory.wf s.mem) :
    Memory.wf (s.readWaitm b g a cmp).mem := by
  grind -ring -linarith -lia -order [State.readWaitm, State.finishLda_mem, State.setAwait_mem, State.faultsReady_mem,
    State.readLanes_wf, State.hwError_wf, State.postOnce_mem]

/-! ### Accesses to the Bed -/

theorem Issue.bedLines_wf (I : Issue) (lines : List Nat) (stale : List Nat → Trap) (f : State → State)
    (h : Memory.wf s.mem) (hf : Memory.wf (f s).mem) : Memory.wf (I.bedLines s lines stale f).mem := by
  unfold Issue.bedLines
  split
  · exact Issue.trap_wf I _ h
  · simpa using h
  · simpa using h
  · exact hf

theorem Issue.bed_wf (I : Issue) (logsz : Nat) (wr : Bool) (ba : Nat → Word) (f : State → State)
    (h : Memory.wf s.mem) (hf : ∀ t, Memory.wf t.mem → Memory.wf (f t).mem) :
    Memory.wf (I.bed s logsz wr ba f).mem := by
  grind -ring -linarith -lia -order [Issue.bed, Issue.trap_wf, Issue.bedLines_wf]

/-! ### The Trellis -/

theorem State.readWords_wf (space : Nat) (va : Word) (n : Nat) (h : Memory.wf s.mem) :
    Memory.wf (s.readWords space va n).1.mem := by
  grind -ring -linarith -lia -order [State.readWords, State.vreadBytes_wf]

theorem State.readKernel_wf (space : Nat) (d : Desc) (h : Memory.wf s.mem) :
    Memory.wf (s.readKernel space d).1.mem := by
  grind -ring -linarith -lia -order [State.readKernel, State.readWords_wf]

theorem State.trellisWrite_wf (space : Nat) (va v : Word) (h : Memory.wf s.mem) :
    Memory.wf (s.trellisWrite space va v).mem := by
  grind -ring -linarith -lia -order [State.trellisWrite, State.vwrite_wf]

theorem State.trellisWords_wf (space : Nat) (va : Word) (l : List Word) (h : Memory.wf s.mem) :
    Memory.wf (s.trellisWords space va l).mem := by
  induction l generalizing s va with
  | nil => exact h
  | cons w l ih => exact ih _ (State.trellisWrite_wf space va w h)

theorem State.readNode_wf (space : Nat) (va : Word) (h : Memory.wf s.mem) :
    Memory.wf (s.readNode space va).1.mem := by
  grind -ring -linarith -lia -order [State.readNode, State.readWords_wf]

theorem State.goNode_wf (n : Nat) (h : Memory.wf s.mem) : Memory.wf (s.goNode n).mem := by
  grind -ring -linarith -lia -order [State.goNode, State.post_mem, State.drainGraph_mem, State.readNode_wf]

theorem State.goNext_wf (n : Nat) (h : Memory.wf s.mem) : Memory.wf (s.goNext n).mem := by
  grind -ring -linarith -lia -order [State.goNext, State.post_mem, State.drainGraph_mem, State.goNode_wf]

theorem State.accept_wf (d : Desc) (space prio queue depth : Nat) (handler : Word) (parent : Option Nat)
    (q8 : Option (Nat × Nat)) (h : Memory.wf s.mem) :
    Memory.wf (s.accept d space prio queue depth handler parent q8).1.mem := by
  grind -ring -linarith -lia -order [State.accept, State.post_mem, State.setGrid_mem, State.readKernel_wf,
    State.newGridId_mem, State.tick_mem, State.trellisWords_wf, State.goNode_wf]

theorem State.cancelWaiting_wf (n : Nat) (h : Memory.wf s.mem) : Memory.wf (s.cancelWaiting n).mem := by
  unfold State.cancelWaiting
  refine ite_wf h ?_
  rw [State.settlePhase_mem]
  refine wf_foldl (fun s id hs => ?_) _ (by simpa using h)
  simpa using State.trellisWrite_wf _ _ _ hs

theorem State.cancelOne_wf (n : Nat) (h : Memory.wf s.mem) : Memory.wf (s.cancelOne n).mem := by
  grind -ring -linarith -lia -order [State.cancelOne, State.cancelWaiting_wf, State.postAll_mem, State.updGrid_mem]

theorem State.cancel_wf (n : Nat) (h : Memory.wf s.mem) : Memory.wf (s.cancel n).mem :=
  wf_foldl (fun _ n => State.cancelOne_wf n) _ h

theorem State.cancelTrap_wf (b g : Nat) (h : Memory.wf s.mem) : Memory.wf (s.cancelTrap b g).mem := by
  grind -ring -linarith -lia -order [State.cancelTrap, State.updGrp_mem, State.postOnce_mem, State.takeTrap_wf]

theorem State.writeHeader_wf (n : Nat) (h : Memory.wf s.mem) : Memory.wf (s.writeHeader n).mem := by
  grind -ring -linarith -lia -order [State.writeHeader, State.vread_wf, State.updGrid_mem, State.trellisWords_wf,
    State.trellisWrite_wf]

theorem State.removeGrid_wf (n : Nat) (h : Memory.wf s.mem) : Memory.wf (s.removeGrid n).mem := by
  have hg (l : List Nat) (m : List (Nat × Nat)) (s : State) : (m.foldl (State.giveBack · l) s).mem = s.mem :=
    mem_foldl (by simp) m s
  unfold State.removeGrid
  rw [State.postAll_mem, hg]
  grind -ring -linarith -lia -order [State.dropReadOnly_mem, State.updGrid_mem, State.post_mem, State.goNext_wf]

theorem State.retire_wf (n : Nat) (h : Memory.wf s.mem) : Memory.wf (s.retire n).mem := by
  grind -ring -linarith -lia -order [State.retire, State.post_mem, State.writeHeader_wf, State.updGrp_mem,
    State.removeGrid_wf]

/-! ### Barriers and waits on a mask -/

theorem State.readMaskw_wf (b g : Nat) (a : Access) (p target : Nat) (due : Option (Nat × Nat)) (last : Bool)
    (h : Memory.wf s.mem) :
    Memory.wf (s.readMaskw b g a p target due last).mem := by
  grind -ring -linarith -lia -order [State.readMaskw, State.finishMaskw_mem, State.setAwait_mem,
    State.faultsReady_mem, State.readLanes_wf, State.hwError_wf, State.postOnce_mem]

theorem State.maskwTimeout_wf (b g : Nat) (h : Memory.wf s.mem) : Memory.wf (s.maskwTimeout b g).mem := by
  grind -ring -linarith -lia -order [State.maskwTimeout, State.turnTo_mem, State.readMaskw_wf]

/-! ### Lines of the Bed -/

theorem Issue.bedLoad_wf (I : Issue) (t : BitVec 5) (logsz : Nat) (ba : Nat → Word) (h : Memory.wf s.mem) :
    Memory.wf (I.bedLoad s t logsz ba).mem := by
  grind -ring -linarith -lia -order [Issue.bedLoad, State.later_mem, Issue.bed_wf]

theorem Issue.bedStore_wf (I : Issue) (t : BitVec 5) (logsz : Nat) (ba : Nat → Word) (h : Memory.wf s.mem) :
    Memory.wf (I.bedStore s t logsz ba).mem := by
  grind -ring -linarith -lia -order [Issue.bedStore, Issue.bed_wf, State.updBlk_mem]

/-! ### Fetch -/

theorem State.fetchWord_wf (b : Nat) (va : Word) (h : Memory.wf s.mem) : Memory.wf (s.fetchWord b va).1.mem := by
  grind -ring -linarith -lia -order [State.fetchWord, State.seek_wf, State.cacheSummary_mem]

theorem State.fetchWords_wf (b : Nat) (base : Word) (l : List Nat) (h : Memory.wf s.mem) :
    Memory.wf (s.fetchWords b base l).1.mem := by
  induction l generalizing s with
  | nil => exact h
  | cons k l ih => grind -ring -linarith -lia -order [State.fetchWords, State.fetchWord_wf]

theorem State.fetchPacket_wf (b : Nat) (pc : Word) (h : Memory.wf s.mem) : Memory.wf (s.fetchPacket b pc).1.mem := by
  grind -ring -linarith -lia -order [State.fetchPacket, State.fetchWords_wf]

/-! ### Capsules -/

theorem State.fetchBody_wf (b : Nat) (va : Word) (n : Nat) (h : Memory.wf s.mem) :
    Memory.wf (s.fetchBody b va n).1.mem := by
  induction n using Nat.strongRecOn generalizing s va with
  | ind n ih =>
    unfold State.fetchBody
    grind -ring -linarith [State.fetchWord_wf]

theorem State.setCapWords_wf (P : Party) (lk : Word) (off : Nat) (w : List Word) (h : Memory.wf s.mem) :
    Memory.wf (s.setCapWords P lk off w).mem :=
  wf_foldl (fun _ _ => State.setCapWord_wf P lk _ _) _ h

theorem State.capAcquire_wf (b g L : Nat) (lk body cend : Word) (h : Memory.wf s.mem) :
    Memory.wf (s.capAcquire b g L lk body cend).mem := by
  grind -ring -linarith -lia -order [State.capAcquire, State.acquire_mem, State.setCapWord_wf, State.updGrp_mem,
    State.setCapWords_wf]

theorem State.capGraft_wf (b g L : Nat) (lk : Word) (slot : Bool) (h : Memory.wf s.mem) :
    Memory.wf (s.capGraft b g L lk slot).mem := by
  grind -ring -linarith -lia -order [State.capGraft, State.acquire_mem, State.setCapWord_wf, State.updGrp_mem]

theorem State.recordTrap_wf (b g L : Nat) (lk : Word) (h : Memory.wf s.mem) :
    Memory.wf (s.recordTrap b g L lk).mem := by
  grind -ring -linarith -lia -order [State.recordTrap, State.takeTrap_wf]

theorem State.tryCapsule_wf (b g : Nat) (lk : Word) (L : Nat) (body cend : Word) (h : Memory.wf s.mem) :
    Memory.wf (s.tryCapsule b g lk L body cend).mem := by
  grind -ring -linarith -lia -order [State.tryCapsule, State.updGrp_mem, State.setAwait_mem, State.hwError_wf,
    State.capGraft_wf, State.postOnce_mem, State.recordTrap_wf, State.backInvalidate_mem, State.capAcquire_wf]

theorem State.resumeOwner_wf (b g L : Nat) (lk : Word) (h : Memory.wf s.mem) :
    Memory.wf (s.resumeOwner b g L lk).1.mem := by
  grind -ring -linarith -lia -order [State.resumeOwner, State.setCapWord_wf, State.updGrp_mem, State.capGraft_wf,
    State.recordTrap_wf]

theorem State.resumeCapsule_wf (b g : Nat) (stay : Bool) (h : Memory.wf s.mem) :
    Memory.wf (s.resumeCapsule b g stay).1.mem := by
  grind -ring -linarith -lia -order [State.resumeCapsule, State.acquire_mem, State.resumeOwner_wf,
    State.setCapWord_wf, State.updGrp_mem, State.postOnce_mem, State.backInvalidate_mem]

theorem State.goCapsule_wf (b g : Nat) (stay : Bool) (h : Memory.wf s.mem) :
    Memory.wf (s.goCapsule b g stay).mem := by
  grind -ring -linarith -lia -order [State.goCapsule, State.repark_mem, State.resumeCapsule_wf, State.setAwait_mem]

theorem State.checkpoint_wf (b g L : Nat) (lk : Word) (h : Memory.wf s.mem) :
    Memory.wf (s.checkpoint b g L lk).mem := by
  grind -ring -linarith -lia -order [State.checkpoint, State.setCapWord_wf, State.setCapWords_wf]

theorem State.performStep_wf (b g : Nat) (a : Access) (x : Xlate) (h : Memory.wf s.mem) :
    Memory.wf (s.performStep b g a x).mem := by
  grind -ring -linarith -lia -order [State.performStep, State.acquire_mem, State.mergeLine_wf, State.updGrp_mem,
    State.checkpoint_wf, State.setAwait_mem, State.dropL1_mem, State.hwError_wf, State.noteGroupPort_mem]

theorem State.capsuleStep_wf (b g : Nat) (h : Memory.wf s.mem) : Memory.wf (s.capsuleStep b g).mem := by
  grind -ring -linarith -lia -order [State.capsuleStep, State.post_mem, State.translate_wf, State.updGrp_mem,
    State.goCapsule_wf, State.askHost_mem, State.setAwait_mem, State.startCommit_mem, State.backInvalidate_mem,
    State.takeTrap_wf, State.performStep_wf]

theorem State.endCapsule_wf (b g : Nat) (h : Memory.wf s.mem) : Memory.wf (s.endCapsule b g).mem := by
  grind -ring -linarith -lia -order [State.endCapsule, State.setCapWord_wf, State.goCapsule_wf, State.setGrp_mem,
    State.setCapWords_wf]

/-! ### Command queues -/

theorem State.closeCommand_wf (cmd : Nat) (h : Memory.wf s.mem) : Memory.wf (s.closeCommand cmd).mem := by
  grind -ring -linarith -lia -order [State.closeCommand, State.updCmd_mem, State.advanceDone_mem,
    State.settleBlock_wf]

theorem State.rejectCommand_wf (cmd : Nat) (h : Memory.wf s.mem) : Memory.wf (s.rejectCommand cmd).mem := by
  grind -ring -linarith -lia -order [State.rejectCommand, State.updCmd_mem, State.commandFault_mem,
    State.closeCommand_wf]

theorem State.completeCommand_wf (cmd : Nat) (h : Memory.wf s.mem) : Memory.wf (s.completeCommand cmd).mem := by
  grind -ring -linarith -lia -order [State.completeCommand, State.post_mem, State.updCmd_mem, State.commandFault_mem,
    State.openDetail_mem, State.updGrp_mem, State.closeCommand_wf]

/-! ### Copies -/

theorem State.hintFill_wf (d key : Nat) (x : Xlate) (need : Line) (read : Bool) (hint : Option Nat)
    (h : Memory.wf s.mem) : Memory.wf (s.hintFill d key x need read hint).mem := by
  cases hint with
  | none => exact h
  | some c => grind -ring -linarith -lia -order [State.hintFill, State.fillL2_wf, State.markL2_wf]

theorem State.engineRead_wf (P : Party) (va : Word) (n : Nat) (hint : Option Nat) (h : Memory.wf s.mem) :
    Memory.wf (s.engineRead P va n hint).1.mem := by
  grind -ring -linarith -lia -order [State.engineRead, State.hintFill_wf, State.takeFlaw_mem, State.translate_wf,
    State.engineTags_mem]

theorem State.engineProbe_wf (P : Party) (va : Word) (h : Memory.wf s.mem) :
    Memory.wf (s.engineProbe P va).1.mem := by
  grind -ring -linarith -lia -order [State.engineProbe, State.translate_wf]

theorem State.engineWrite_wf (P : Party) (va : Word) (x : Xlate) (n val poison : Nat) (drop : Line)
    (hint : Option Nat) (h : Memory.wf s.mem) :
    Memory.wf (s.engineWrite P va x n val poison drop hint).mem := by
  grind -ring -linarith -lia -order [State.engineWrite, State.mergeLine_wf, State.hintFill_wf, State.takeFlaw_mem,
    State.poisonPoc_mem]

theorem State.readPieces_wf (P : Party) (l : List Piece) (hint : Option Nat) (h : Memory.wf s.mem) :
    Memory.wf (s.readPieces P l hint).1.mem := by
  refine fst_wf_foldl (fun r p hr => ?_) l h
  exact State.engineRead_wf P _ _ hint hr

theorem State.probePieces_wf (P : Party) (l : List Moved) (h : Memory.wf s.mem) :
    Memory.wf (s.probePieces P l).1.mem := by
  refine fst_wf_foldl (fun r m hr => ?_) l h
  grind -ring -linarith -lia -order [State.engineProbe_wf, State.engineTags_mem]

theorem State.probeStat_wf (P : Party) (l : List Piece) (h : Memory.wf s.mem) :
    Memory.wf (s.probeStat P l).1.mem := by
  refine fst_wf_foldl (fun r p hr => ?_) l h
  exact State.engineProbe_wf P _ hr

theorem State.moveChunk_wf (cmd : Nat) (c : Command) (h : Memory.wf s.mem) :
    Memory.wf (s.moveChunk cmd c).mem := by
  have hr (l : List Nat) : (l.foldl (fun t n => t.refetch c.blk c.grp c.pc c.pusher n) s).mem = s.mem :=
    mem_foldl (by simp) l s
  have hw (l : List (Moved × Xlate × Line)) (t : State) (ht : Memory.wf t.mem) : Memory.wf (l.foldl (fun u m =>
      u.engineWrite (s.partyOf c.blk) (BitVec.ofNat 64 m.1.piece.dst) m.2.1 m.1.piece.len m.1.val m.1.poison m.2.2
        (some c.hint)) t).mem :=
    wf_foldl (fun u m hu => State.engineWrite_wf _ _ _ _ _ _ _ _ hu) l ht
  grind -ring -linarith -lia -order [State.moveChunk, State.readPieces_wf, State.nextChunk_mem, State.post_mem,
    State.putBed_mem, State.probeStat_wf, State.probePieces_wf, State.backInvalidate_mem]

theorem State.copyLinear_wf (cmd : Nat) (h : Memory.wf s.mem) : Memory.wf (s.copyLinear cmd).mem := by
  grind -ring -linarith -lia -order [State.copyLinear, State.post_mem, State.updCmd_mem, State.moveChunk_wf,
    State.askHost_mem, State.rejectCommand_wf, State.unland_mem]

theorem Walked.failed_s (w : Walked) (chunk stat : Nat) : (w.failed chunk stat).s = w.s := by
  unfold Walked.failed
  split <;> rfl

theorem Walked.foldl_failed_s (first stat : Nat) (l : List Nat) (w : Walked) :
    (l.foldl (fun w k => w.failed (first + k) stat) w).s = w.s := by
  induction l generalizing w with
  | nil => rfl
  | cons k l ih => exact (ih _).trans (w.failed_s _ stat)

theorem Walked.failRest_s (w : Walked) (a : Ragged) (stat : Nat) : (w.failRest a stat).s = w.s :=
  (Walked.foldl_failed_s _ stat _ _).trans (w.failed_s _ stat)

theorem Walked.read_wf {w : Walked} (P : Party) (src dst e chunk : Nat) (hint : Option Nat) (h : Memory.wf w.s.mem) :
    Memory.wf (w.read P src dst e chunk hint).s.mem := by
  grind -ring -linarith -lia -order [Walked.read, Walked.failed_s, State.engineRead_wf]

theorem walkRow_wf {w : Walked} (c : Command) (P : Party) (i n k : Nat) (h : Memory.wf w.s.mem) :
    Memory.wf (walkRow c P i n k w).s.mem := by
  induction n generalizing k w with
  | zero => exact h
  | succ n ih => grind -ring -linarith -lia -order [walkRow, Walked.read_wf]

theorem walkRows_wf {w : Walked} (c : Command) (P : Party) (n i : Nat) (h : Memory.wf w.s.mem) :
    Memory.wf (walkRows c P n i w).s.mem := by
  induction n generalizing i w with
  | zero => exact h
  | succ n ih => grind -ring -linarith -lia -order [walkRows, walkRow_wf, Walked.failRest_s, State.engineRead_wf]

theorem State.walkRagged_wf (cmd : Nat) (c : Command) (h : Memory.wf s.mem) :
    Memory.wf (s.walkRagged cmd c).mem := by
  grind -ring -linarith -lia -order [State.walkRagged, walkRows_wf, State.rejectCommand_wf, State.askHost_mem,
    State.unland_mem, State.updCmd_mem, State.postAll_mem, State.post_mem]

theorem State.copyRagged_wf (cmd : Nat) (h : Memory.wf s.mem) : Memory.wf (s.copyRagged cmd).mem := by
  grind -ring -linarith -lia -order [State.copyRagged, State.post_mem, State.updCmd_mem, State.landReady_mem,
    State.rejectCommand_wf, State.walkRagged_wf]

/-! ### The matrix engine -/

theorem Issue.readTile_wf (I : Issue) (base : Word) (lines : Nat) (f : State → State) (h : Memory.wf s.mem)
    (hf : ∀ t, Memory.wf t.mem → Memory.wf (f t).mem) :
    Memory.wf (I.readTile s base lines f).mem := by
  grind -ring -linarith -lia -order [Issue.readTile, Issue.trap_wf, Issue.bedLines_wf]

theorem Issue.writeTile_wf (I : Issue) (base : Word) (lines : Nat) (f : State → State) (h : Memory.wf s.mem)
    (hf : ∀ t, Memory.wf t.mem → Memory.wf (f t).mem) :
    Memory.wf (I.writeTile s base lines f).mem := by
  grind -ring -linarith -lia -order [Issue.writeTile, Issue.trap_wf, Issue.blockOn_mem]

theorem Issue.matrix_wf (I : Issue) {f : State → State} (h : Memory.wf s.mem) (hf : Memory.wf (f s).mem) :
    Memory.wf (I.matrix s f).mem := by
  grind -ring -linarith -lia -order [Issue.matrix, Issue.block_mem]

theorem Issue.matrixFmt_wf (I : Issue) (b : BitVec 5) (f : State → BitVec 32 → State)
    (h : Memory.wf s.mem) (hf : ∀ t w, Memory.wf t.mem → Memory.wf (f t w).mem) :
    Memory.wf (I.matrixFmt s b f).mem := by
  refine Issue.matrix_wf I h ?_
  grind -ring -linarith -lia -order [Issue.trap_wf]

theorem Issue.paired_wf (I : Issue) (i : Instr) (fmt : BitVec 32) (base : Word) (n1 n2 : Nat) (h : Memory.wf s.mem) :
    Memory.wf (I.paired s i fmt base n1 n2).mem := by
  grind -ring -linarith -lia -order [Issue.paired, State.enterMatrix_mem, Issue.readTile_wf, State.tick_mem]

theorem Issue.loadPlane_wf (I : Issue) (i : Instr) (a b : BitVec 5) (m : BitVec 1) (h : Memory.wf s.mem) :
    Memory.wf (I.loadPlane s i a b m).mem := by
  grind -ring -linarith -lia -order [Issue.loadPlane, Issue.matrixFmt_wf, Issue.paired_wf]

theorem Issue.product_wf (I : Issue) (i : Instr) (a b : BitVec 5) (quarters : List Nat) (spread : Bool)
    (second : MatFmt → Nat) (h : Memory.wf s.mem) :
    Memory.wf (I.product s i a b quarters spread second).mem := by
  grind -ring -linarith -lia -order [Issue.product, Issue.matrixFmt_wf, Issue.trap_wf, Issue.paired_wf]

theorem State.checksumFails_wf (core : Nat) (h : Memory.wf s.mem) : Memory.wf (s.checksumFails core).mem := by
  grind -ring -linarith -lia -order [State.checksumFails, State.updCore_mem, State.hwError_wf]

/-! ### Contexts saved and restored -/

theorem State.writeGroups_wf {r : State × Bool} (P : Party) (groups : List (Nat × Group))
    (f : Nat → Group → List (Nat × List Byte)) (h : Memory.wf r.1.mem) :
    Memory.wf (State.writeGroups r P groups f).1.mem := by
  refine fst_wf_foldl (fun r g hr => ?_) _ h
  grind -ring -linarith -lia -order [State.writeSegs_wf]

theorem State.writeFrames_wf (b : Nat) (h : Memory.wf s.mem) : Memory.wf (s.writeFrames b).1.mem := by
  grind -ring -linarith -lia -order [State.writeFrames, State.writeSegs_wf, State.writeGroups_wf]

theorem State.performSave_wf (b : Nat) (h : Memory.wf s.mem) : Memory.wf (s.performSave b).mem := by
  have hp : ((oitems (s.blk b).groups).foldl (fun s g => s.updGrp b g.1 Group.parkForSave) s).mem = s.mem :=
    mem_foldl (by simp) _ _
  grind -ring -linarith -lia -order [State.performSave, State.writeFrames_wf, State.leaveCore_mem,
    State.freePlace_mem, State.updBlk_mem, State.hwError_wf]

theorem State.descheduleAll_wf (b : Nat) (h : Memory.wf s.mem) : Memory.wf (s.descheduleAll b).mem :=
  ite_wf h
    (wf_foldl (fun _ (g : Nat × Group) => State.deschedule_wf b g.1) _ h)

theorem State.goSave_wf (b : Nat) (h : Memory.wf s.mem) : Memory.wf (s.goSave b).mem := by
  grind -ring -linarith -lia -order [State.goSave, State.descheduleAll_wf, State.performSave_wf,
    State.startCommit_mem, State.postOnce_mem, State.takeBed_mem]

theorem State.contextSave_wf (b : Nat) (h : Memory.wf s.mem) : Memory.wf (s.contextSave b).mem := by
  grind -ring -linarith -lia -order [State.contextSave, State.goSave_wf, State.stopBlock_mem]

theorem State.readFrame_wf (space : Nat) (va : Word) (n : Nat) (h : Memory.wf s.mem) :
    Memory.wf (s.readFrame space va n).1.mem := by
  grind -ring -linarith -lia -order [State.readFrame, State.vreadBytes_wf]

theorem State.readBed_wf (x : Block) (l : List Nat) (h : Memory.wf s.mem) :
    Memory.wf (s.readBed x l).1.mem := by
  induction l generalizing s x with
  | nil => exact h
  | cons n l ih =>
    have h1 := State.readFrame_wf x.space (x.bframe + BitVec.ofNat 64 (0x80000 + 16 * n)) 16 h
    unfold State.readBed
    dsimp only
    generalize s.readFrame x.space (x.bframe + BitVec.ofNat 64 (0x80000 + 16 * n)) 16 = r at h1 ⊢
    obtain ⟨t, _ | w⟩ := r
    · exact h1
    refine ite_fst_wf h1 (ite_fst_wf (ih _ h1) ?_)
    have h2 := State.readFrame_wf x.space (x.bframe + BitVec.ofNat 64 (0x100000 + 256 * n)) 256 h1
    dsimp only
    generalize t.readFrame x.space (x.bframe + BitVec.ofNat 64 (0x100000 + 256 * n)) 256 = r at h2 ⊢
    obtain ⟨u, _ | d⟩ := r
    · exact h2
    · exact ih _ h2

theorem State.readBlockFrame_wf (x : Block) (h : Memory.wf s.mem) : Memory.wf (s.readBlockFrame x).1.mem := by
  grind -ring -linarith -lia -order [State.readBlockFrame, State.readBed_wf, State.readFrame_wf]

theorem State.frameSeg_wf (x : Block) (off n : Nat) (h : Memory.wf s.mem) : Memory.wf (s.frameSeg x off n).1.mem := by
  grind -ring -linarith -lia -order [State.frameSeg, State.readFrame_wf]

theorem State.readCells_wf (x : Block) (m : Matrix) (qs : List Nat) (h : Memory.wf s.mem) :
    Memory.wf (s.readCells x m qs).1.mem := by
  refine fst_wf_foldl (fun r q hr => ?_) _ h
  split
  · exact hr
  · exact State.frameSeg_wf x _ _ hr

theorem wf_pair {α β : Type} (r : State × α) (x : β) (h : Memory.wf r.1.mem) :
    Memory.wf ((r.1, x) : State × β).1.mem := h

theorem State.readEngine_wf (x : Block) (m : Matrix) (h : Memory.wf s.mem) :
    Memory.wf (s.readEngine x m).1.mem := by
  have h1 := State.readCells_wf x m [0, 1, 2, 3] h
  have h2 := State.frameSeg_wf x 0x3C0000 meanPlaneSize h1
  have h3 := State.frameSeg_wf x 0x3C8000 spreadPlaneSize h2
  exact wf_pair _ _ (State.frameSeg_wf x 0x3D0000 64 h3)

theorem State.readRecords_wf (space : Nat) (frame : Word) (n i : Nat) (h : Memory.wf s.mem) :
    Memory.wf (s.readRecords space frame n i).1.mem := by
  induction n generalizing s i with
  | zero => exact h
  | succ n ih => grind -ring -linarith -lia -order [State.readRecords, State.readFrame_wf]

theorem State.readGroup_wf (x : Block) (g : Nat) (y : Group) (h : Memory.wf s.mem) :
    Memory.wf (s.readGroup x g y).1.mem := by
  grind -ring -linarith -lia -order [State.readGroup, State.readRecords_wf, State.readFrame_wf]

theorem State.readGroups_wf (x : Block) (l : List (Nat × Group)) (h : Memory.wf s.mem) :
    Memory.wf (s.readGroups x l).1.mem := by
  induction l generalizing s with
  | nil => exact h
  | cons p l ih => grind -ring -linarith -lia -order [State.readGroups, State.readGroup_wf]

theorem State.readPending_wf (x : Block) (off : Nat) (l : List (Nat × Command)) (h : Memory.wf s.mem) :
    Memory.wf (s.readPending x off l).1.mem := by
  induction l generalizing s off with
  | nil => exact h
  | cons p l ih => grind -ring -linarith -lia -order [State.readPending, State.frameSeg_wf]

theorem State.readMatrix_wf (x : Block) (h : Memory.wf s.mem) : Memory.wf (s.readMatrix x).1.mem := by
  grind -ring -linarith -lia -order [State.readMatrix, State.frameSeg_wf]

theorem State.resumeGroup_wf (b g : Nat) (h : Memory.wf s.mem) : Memory.wf (s.resumeGroup b g).mem := by
  grind -ring -linarith -lia -order [State.resumeGroup, State.updGrp_mem, State.resumeCapsule_wf, State.postAll_mem,
    State.postOnce_mem]

theorem State.resumeEntries_wf (b : Nat) (h : Memory.wf s.mem) : Memory.wf (s.resumeEntries b).mem := by
  grind -ring -linarith -lia -order [State.resumeEntries, State.postAll_mem, State.settleStores_wf]

theorem State.resumeCommands_wf (b : Nat) (h : Memory.wf s.mem) : Memory.wf (s.resumeCommands b).mem := by
  unfold State.resumeCommands
  rw [State.postAll_mem]
  refine wf_foldl (fun s c hs => ?_) _ h
  grind -ring -linarith -lia -order [State.rejectCommand_wf, State.completeCommand_wf]

theorem State.takeCore_wf (b k : Nat) (x : Block) (groups : OMap Group) (entries : List Access) (m : Matrix)
    (h : Memory.wf s.mem) : Memory.wf (s.takeCore b k x groups entries m).mem := by
  unfold State.takeCore
  refine wf_foldl (fun s kv hs => State.resumeGroup_wf b kv.1 (by simpa using hs)) _
    (State.resumeEntries_wf b (State.resumeCommands_wf b ?_))
  simpa using h

theorem ended_or_failed_wf (b : Nat) (bad : Bool) (h : Memory.wf s.mem) :
    Memory.wf (if bad then s.endBlock b .failed 7 else s.hwError b 7).mem :=
  ite_wf (State.endBlock_wf b .failed 7 h) (State.hwError_wf b 7 h)

theorem State.restoreBlock_wf (b k : Nat) (h : Memory.wf s.mem) : Memory.wf (s.restoreBlock b k).mem := by
  unfold State.restoreBlock
  extract_lets +onlyGivenNames aside s0 fail
  have h0 : Memory.wf s0.mem := by simpa [s0] using h
  have hf {t : State} (bad : Bool) (ht : Memory.wf t.mem) : Memory.wf (fail t bad).mem := ended_or_failed_wf b bad ht
  clear_value fail s0
  refine ite_wf (State.takeCore_wf b k _ _ _ _ h0) ?_
  have h1 := State.readBlockFrame_wf (s0.blk b) h0
  dsimp only
  generalize s0.readBlockFrame (s0.blk b) = r at h1 ⊢
  obtain ⟨t, x | _ | _⟩ := r
  rotate_left
  · exact hf _ h1
  · exact hf _ h1
  have h2 : Memory.wf (if x.ownedMx then t.readEngine x { Matrix.zero with sent := x.keptMx.sent }
      else (t, .ok Matrix.zero)).1.mem :=
    ite_fst_wf (State.readEngine_wf x _ h1) h1
  dsimp only
  generalize (if x.ownedMx then t.readEngine x { Matrix.zero with sent := x.keptMx.sent }
      else (t, .ok Matrix.zero)) = r at h2 ⊢
  obtain ⟨t, m | _ | _⟩ := r
  rotate_left
  · exact hf _ h2
  · exact hf _ h2
  have h3 := State.readGroups_wf x (oitems x.groups) h2
  dsimp only
  generalize t.readGroups x (oitems x.groups) = r at h3 ⊢
  obtain ⟨t, ⟨groups, entries⟩ | _ | _⟩ := r
  rotate_left
  · exact hf _ h3
  · exact hf _ h3
  have h4 := State.readPending_wf x 0x1000 (t.pendingCopies b) h3
  dsimp only
  generalize t.readPending x 0x1000 (t.pendingCopies b) = r at h4 ⊢
  obtain ⟨t, cmds | _ | _⟩ := r
  rotate_left
  · exact hf _ h4
  · exact hf _ h4
  have h5 := State.readMatrix_wf x h4
  dsimp only
  generalize t.readMatrix x = r at h5 ⊢
  obtain ⟨t, mats | _ | _⟩ := r
  rotate_left
  · exact hf _ h5
  · exact hf _ h5
  exact State.takeCore_wf b k _ _ _ _ (by simpa using h5)

theorem State.restoreMates_wf (n l : Nat) (h : Memory.wf s.mem) : Memory.wf (s.restoreMates n l).mem := by
  refine wf_foldl (fun s p hs => ?_) _ h
  grind -ring -linarith -lia -order [State.restoreBlock_wf, State.startTurn_mem]

theorem State.contextRestore_wf (b k : Nat) (h : Memory.wf s.mem) : Memory.wf (s.contextRestore b k).mem := by
  grind -ring -linarith -lia -order [State.contextRestore, State.post_mem, State.restoreBlock_wf, State.postOnce_mem,
    State.restoreMates_wf]

/-! ### Control transfers -/

theorem State.checkFlags_wf (b g : Nat) (run : Mask) (next : Word) (h : Memory.wf s.mem) :
    Memory.wf (s.checkFlags b g run next).mem := by
  grind -ring -linarith -lia -order [State.checkFlags, State.takeTrap_wf]

/-! ### Graphs -/

theorem State.kernelNode_wf (n : Nat) (h : Memory.wf s.mem) : Memory.wf (s.kernelNode n).mem := by
  grind -ring -linarith -lia -order [State.kernelNode, State.post_mem, State.graphRuns_mem, State.readWords_wf,
    State.updGrid_mem, State.drainGraph_mem, State.readNode_wf, State.goNode_wf, State.accept_wf]

theorem State.loopCheck_wf (n : Nat) (h : Memory.wf s.mem) : Memory.wf (s.loopCheck n).mem := by
  grind -ring -linarith -lia -order [State.loopCheck, State.vread_wf, State.updGrid_mem, State.drainGraph_mem,
    State.readNode_wf, State.goNext_wf, State.goNode_wf]

theorem State.loopNode_wf (n : Nat) (h : Memory.wf s.mem) : Memory.wf (s.loopNode n).mem := by
  grind -ring -linarith -lia -order [State.loopNode, State.graphRuns_mem, State.loopCheck_wf, State.updGrid_mem,
    State.drainGraph_mem]

theorem State.reqQueues_wf (space : Nat) (l : List Word) (h : Memory.wf s.mem) :
    Memory.wf (s.reqQueues space l).1.mem := by
  induction l generalizing s with
  | nil => exact h
  | cons va l ih => grind -ring -linarith -lia -order [State.reqQueues, State.readWords_wf]

theorem State.ringFull_wf (space : Nat) (va : Word) (h : Memory.wf s.mem) :
    Memory.wf (s.ringFull space va).1.mem := by
  grind -ring -linarith -lia -order [State.ringFull, State.readWords_wf]

theorem State.readSlots_wf (space : Nat) (va : Word) (n : Nat) (h : Memory.wf s.mem) :
    Memory.wf (s.readSlots space va n).1.mem := by
  induction n generalizing s va with
  | zero => exact h
  | succ n ih => grind -ring -linarith -lia -order [State.readSlots, State.readWords_wf, State.ringFull_wf]

theorem State.fillSlots_wf (space : Nat) (l : List Slot) (q : List ReqQueue) (h : Memory.wf s.mem) :
    Memory.wf (s.fillSlots space l q).1.mem := by
  induction l generalizing s q with
  | nil => exact h
  | cons x l ih => grind -ring -linarith -lia -order [State.fillSlots, State.readWords_wf]

theorem State.writeSlots_wf (space : Nat) (va : Word) (l : List Slot) (h : Memory.wf s.mem) :
    Memory.wf (s.writeSlots space va l).mem := by
  induction l generalizing s va with
  | nil => exact h
  | cons x l ih => grind -ring -linarith -lia -order [State.writeSlots, State.trellisWrite_wf, State.trellisWords_wf]

theorem State.admitSlots_wf (space : Nat) (table : Word) (h : Memory.wf s.mem) :
    Memory.wf (s.admitSlots space table).1.mem := by
  have h1 := State.readWords_wf space table 8 h
  unfold State.admitSlots
  dsimp only
  generalize s.readWords space table 8 = r at h1 ⊢
  obtain ⟨t, _ | w⟩ := r
  · exact h1
  dsimp only
  split
  · exact h1
  have h2 := State.reqQueues_wf space ((w.drop 1).take 4) h1
  generalize t.reqQueues space ((w.drop 1).take 4) = r at h2 ⊢
  obtain ⟨t, _ | qs⟩ := r
  · exact h2
  have h3 := State.readSlots_wf space (table + 64) (w.getD 0 0).toNat h2
  dsimp only
  generalize t.readSlots space (table + 64) (w.getD 0 0).toNat = r at h3 ⊢
  obtain ⟨t, _ | slots⟩ := r
  · exact h3
  have h4 := State.fillSlots_wf space slots qs h3
  dsimp only
  generalize t.fillSlots space slots qs = r at h4 ⊢
  obtain ⟨t, _ | ⟨out, qs1⟩⟩ := r
  · exact h4
  refine wf_foldl (fun s x hs => ?_) qs1 (State.writeSlots_wf space (table + 64) out h4)
  exact ite_wf hs (State.trellisWrite_wf _ _ _ hs)

theorem State.admitNode_wf (n : Nat) (h : Memory.wf s.mem) : Memory.wf (s.admitNode n).mem := by
  grind -ring -linarith -lia -order [State.admitNode, State.graphRuns_mem, State.updGrid_mem, State.drainGraph_mem,
    State.readNode_wf, State.goNext_wf, State.admitSlots_wf, State.goNode_wf]

/-! ### Launches -/

theorem State.readDesc_wf (b : Nat) (va : Word) (h : Memory.wf s.mem) : Memory.wf (s.readDesc b va).1.mem := by
  grind -ring -linarith -lia -order [State.readDesc, State.readWord_wf]

theorem State.submit_wf (b g : Nat) (d : Desc) (h : Memory.wf s.mem) : Memory.wf (s.submit b g d).1.mem := by
  grind -ring -linarith -lia -order [State.submit, State.readKernel_wf, State.cancel_wf, State.accept_wf]

theorem State.performLaunch_wf (b g : Nat) (a : Access) (lanes : Mask) (h : Memory.wf s.mem) :
    Memory.wf (s.performLaunch b g a lanes).mem := by
  grind -ring -linarith -lia -order [State.performLaunch, State.updGrp_mem, State.setAwait_mem, State.faultsReady_mem,
    State.readDesc_wf, State.submit_wf, State.hwError_wf]

theorem State.readWaitc_wf (b g : Nat) (a : Access) (base : Word) (bit : Nat) (h : Memory.wf s.mem) :
    Memory.wf (s.readWaitc b g a base bit).mem := by
  grind -ring -linarith -lia -order [State.readWaitc, State.updGrp_mem, State.setAwait_mem, State.faultsReady_mem,
    State.hwError_wf, State.postOnce_mem, State.readWord_wf, State.takeTrap_wf]

theorem State.queueError_wf (q cause : Nat) (h : Memory.wf s.mem) : Memory.wf (s.queueError q cause).mem := by
  grind -ring -linarith -lia -order [State.queueError, State.updQueue_mem, State.logError_wf]

theorem State.acceptFrom_wf (q : Nat) (h : Memory.wf s.mem) : Memory.wf (s.acceptFrom q).1.mem := by
  grind -ring -linarith -lia -order [State.acceptFrom, State.readWords_wf, State.queueError_wf, State.updQueue_mem,
    State.postOnce_mem, State.cancel_wf, State.accept_wf]

theorem State.grant_wf (p : Nat) (h : Memory.wf s.mem) : Memory.wf (s.grant p).mem := by
  grind -ring -linarith -lia -order [State.grant, State.acceptFrom_wf]

theorem State.acceptNext_wf (h : Memory.wf s.mem) : Memory.wf (s.acceptNext).mem := by
  grind -ring -linarith -lia -order [State.acceptNext, State.grant_wf]

/-! ### Handlers and traps -/

theorem State.readTrapArea_wf (b g : Nat) (h : Memory.wf s.mem) : Memory.wf (s.readTrapArea b g).1.mem := by
  grind -ring -linarith -lia -order [State.readTrapArea, State.readSeg_wf]

theorem State.readSlot_wf (b g : Nat) (l : List Byte) (h : Memory.wf s.mem) : Memory.wf (s.readSlot b g l).1.mem := by
  grind -ring -linarith -lia -order [State.readSlot, State.readSeg_wf]

theorem State.replayEntry_wf (b : Nat) (a : Access) (h : Memory.wf s.mem) : Memory.wf (s.replayEntry b a).mem := by
  grind -ring -linarith -lia -order [State.replayEntry, State.recheck_mem, State.updEntry_mem, State.closeEntry_mem,
    State.postAll_mem, State.settleStores_wf]

theorem State.dropEntry_wf (b : Nat) (a : Access) (h : Memory.wf s.mem) : Memory.wf (s.dropEntry b a).mem := by
  grind -ring -linarith -lia -order [State.dropEntry, State.updEntry_mem, State.closeEntry_mem, State.settleStores_wf,
    State.finishAtomic_wf, State.settleBlock_wf]

theorem State.settleRecord_wf (b g : Nat) (replay : Bool) (was a : Access) (h : Memory.wf s.mem) :
    Memory.wf (s.settleRecord b g replay was a).mem := by
  grind -ring -linarith -lia -order [State.settleRecord, State.dropWait_mem, State.dropEntry_wf, State.replayEntry_wf,
    State.replayLoad_mem, State.replayWait_mem, State.dropLoad_mem]

theorem State.finishEret_wf (b g : Nat) (replay : Bool) (h : Memory.wf s.mem) :
    Memory.wf (s.finishEret b g replay).mem := by
  grind -ring -linarith -lia -order [State.finishEret, State.readSlot_wf, State.updGrp_mem, State.settleRecord_wf,
    State.readSeg_wf, State.hwError_wf, State.readTrapArea_wf, State.endBlock_wf, State.resumeGroup_wf]

theorem State.writeImage_wf (b g : Nat) (va : Word) (h : Memory.wf s.mem) : Memory.wf (s.writeImage b g va).mem := by
  grind -ring -linarith -lia -order [State.writeImage, State.writeSegs_wf, State.setAwait_mem, State.hwError_wf,
    State.readTrapArea_wf, State.endBlock_wf]

theorem State.readImage_wf (b g : Nat) (va : Word) (h : Memory.wf s.mem) : Memory.wf (s.readImage b g va).mem := by
  grind -ring -linarith -lia -order [State.readImage, State.acquire_mem, State.updGrp_mem, State.writeSegs_wf,
    State.readSeg_wf, State.hwError_wf, State.endBlock_wf, State.parkOn_mem]

/-! ### The host and the fabric -/

theorem State.doorbell_wf (q : Nat) (value : Word) (h : Memory.wf s.mem) : Memory.wf (s.doorbell q value).mem := by
  grind -ring -linarith -lia -order [State.doorbell, State.queueError_wf, State.updQueue_mem, State.postOnce_mem]

theorem State.bar2Write_wf (off : Nat) (data : List Byte) (h : Memory.wf s.mem) :
    Memory.wf (s.bar2Write off data).mem :=
  ite_wf h
    (fst_wf_foldl (fun _ _ hr => State.hostMerge_wf _ _ _ _ hr) _ h)

theorem State.takeLine_wf (d line : Nat) (h : Memory.wf s.mem) : Memory.wf (s.takeLine d line).mem := by
  grind -ring -linarith -lia -order [State.takeLine, State.evictL2_wf, State.updDie_mem, State.send_mem]

theorem State.lineBack_wf (d line : Nat) (data : List Byte) (h : Memory.wf s.mem) :
    Memory.wf (s.lineBack d line data).mem := by
  grind -ring -linarith -lia -order [State.lineBack, State.updDie_mem, State.hostMerge_wf]

theorem State.inboundXlate_wf (space need : Nat) (l : List (Nat × Nat × Nat)) (h : Memory.wf s.mem) :
    Memory.wf (s.inboundXlate space need l).1.mem := by
  induction l generalizing s with
  | nil => exact h
  | cons p l ih => grind -ring -linarith -lia -order [State.inboundXlate, State.translate_wf]

theorem State.inbound_wf (d job ridx need va n : Nat) (h : Memory.wf s.mem) :
    Memory.wf (s.inbound d job ridx need va n).1.mem := by
  grind -ring -linarith -lia -order [State.inbound, State.inboundXlate_wf]

theorem State.inboundMerge_wf (space : Nat) (l : List ((Nat × Nat × Nat) × Xlate)) (data : List Byte)
    (h : Memory.wf s.mem) : Memory.wf (s.inboundMerge space l data).mem :=
  fst_wf_foldl (fun _ _ hr => State.mergeLine_wf _ _ _ _ _ _ _ hr) l h

theorem State.rmaWrite_wf (d job ridx va : Nat) (data : List Byte) (h : Memory.wf s.mem) :
    Memory.wf (s.rmaWrite d job ridx va data).mem := by
  grind -ring -linarith -lia -order [State.rmaWrite, State.post_mem, State.inbound_wf, State.inboundMerge_wf,
    State.backInvalidate_mem, State.send_mem]

theorem State.rmaRead_wf (d job ridx va len : Nat) (h : Memory.wf s.mem) :
    Memory.wf (s.rmaRead d job ridx va len).mem := by
  grind -ring -linarith -lia -order [State.rmaRead, State.post_mem, State.inbound_wf, State.askHost_mem,
    State.send_mem]

theorem State.rmaAtomic_wf (d job ridx va : Nat) (addend : Word) (h : Memory.wf s.mem) :
    Memory.wf (s.rmaAtomic d job ridx va addend).mem := by
  grind -ring -linarith -lia -order [State.rmaAtomic, State.post_mem, State.inbound_wf, State.inboundMerge_wf,
    State.backInvalidate_mem, State.send_mem]

theorem State.setDecoder_wf (d p base size : Nat) (h : Memory.wf s.mem) :
    Memory.wf (s.setDecoder d p base size).mem := by
  grind -ring -linarith -lia -order [State.setDecoder, State.updDie_mem, State.logPort_wf]

theorem State.laneFails_wf (d lane : Nat) (h : Memory.wf s.mem) : Memory.wf (s.laneFails d lane).mem := by
  refine State.ringPush_wf _ _ _ _ _ (wf_foldl (fun s b hs => ?_) _ h)
  simpa using hs

/-! ### Pruner jobs -/

theorem State.maskRequest_wf (cmd : Nat) (h : Memory.wf s.mem) : Memory.wf (s.maskRequest cmd).mem := by
  grind -ring -linarith -lia -order [State.maskRequest, State.post_mem, State.updCmd_mem, State.updDie_mem,
    State.rejectCommand_wf]

/-! ### KV transfers -/

theorem State.takeKv_wf (cmd : Nat) (c : Command) (kind : Nat) (again : Instr) (h : Memory.wf s.mem) :
    Memory.wf (s.takeKv cmd c kind again).mem := by
  grind -ring -linarith -lia -order [State.takeKv, State.post_mem, State.updCmd_mem, State.rejectCommand_wf]

theorem State.putChunk_wf (cmd : Nat) (c : Command) (h : Memory.wf s.mem) :
    Memory.wf (s.putChunk cmd c).mem := by
  have hr := fst_wf_foldl (f := fun (r : State × Nat × List Byte) o =>
    let q := r.1.engineRead (s.kvParty c.blk) (BitVec.ofNat 64 (c.kv.local_ + o)) 64
    (q.1, worseStat r.2.1 q.2.stat, r.2.2 ++ bytesLe 64 q.2.val)) (fun _ _ => State.engineRead_wf _ _ _ _)
    (c.kv.runs c.next) (r := (s, 0, [])) h
  grind -ring -linarith -lia -order [State.putChunk, State.kvNext_mem, State.askPeer_mem]

theorem State.kvPut_wf (cmd : Nat) (h : Memory.wf s.mem) : Memory.wf (s.kvPut cmd).mem := by
  grind -ring -linarith -lia -order [State.kvPut, State.post_mem, State.putChunk_wf, State.askHost_mem,
    State.takeKv_wf]

theorem State.getChunk_wf (cmd : Nat) (c : Command) (h : Memory.wf s.mem) :
    Memory.wf (s.getChunk cmd c).mem := by
  have hq := (State.askPeer_mem s c 11 (c.kv.remote + 256 * c.next) (bytesLe 4 (min 256 (c.kv.len - 256 * c.next))))
  unfold State.getChunk
  dsimp only
  split
  · simpa using h
  · split
    · simpa using h
    · rw [State.kvNext_mem]
      refine fst_wf_foldl (fun r o hr => ?_) _ (by simpa using h)
      grind -ring -linarith -lia -order [State.engineProbe_wf, State.engineWrite_wf]

theorem State.kvGet_wf (cmd : Nat) (h : Memory.wf s.mem) : Memory.wf (s.kvGet cmd).mem := by
  grind -ring -linarith -lia -order [State.kvGet, State.post_mem, State.getChunk_wf, State.takeKv_wf,
    State.backInvalidate_mem]

/-! ### The management controller -/

@[simp] theorem State.cleared_mem (s : State) : s.cleared.mem = s.mem := rfl

/-! ### Moves and special registers -/

theorem State.hend_wf (b g : Nat) (v : Word) (h : Memory.wf s.mem) : Memory.wf (s.hend b g v).mem := by
  grind -ring -linarith -lia -order [State.hend, State.endBlock_wf]

theorem writeSpr_wf (I : Issue) (r : SpecialReg) (v : Word) (h : Memory.wf s.mem) :
    Memory.wf (writeSpr I s r v).mem := by
  unfold writeSpr
  split
  case h_9 => exact State.hend_wf I.b I.g v h
  all_goals simpa using h

/-! ### Parks -/

theorem State.reread_wf (b g : Nat) (h : Memory.wf s.mem) : Memory.wf (s.reread b g).mem := by
  grind -ring -linarith -lia -order [State.reread, State.goCapsule_wf, State.readMaskw_wf, State.readLda_wf,
    State.readWaitm_wf, State.readWaitc_wf, State.tryCapsule_wf]

theorem State.waitReread_wf (b g : Nat) (h : Memory.wf s.mem) : Memory.wf (s.waitReread b g).mem := by
  have hp := wf_foldl (f := fun s p => (s.turnTo b g (· == p)).reread b g)
    (fun s p hs => State.reread_wf b g (by simpa using hs)) (s.grp b g).parks h
  grind -ring -linarith -lia -order [State.waitReread, State.reread_wf]

theorem State.endPark_wf (b g : Nat) (w : Await) (h : Memory.wf s.mem) :
    Memory.wf (s.endPark b g w).mem := by
  cases w
  case eret replay => exact State.finishEret_wf b g replay h
  case tfence run next => exact State.checkFlags_wf b g run next (by simpa using h)
  case cape id => grind -ring -linarith -lia -order [State.endPark, State.backInvalidate_mem, State.setAwait_mem,
    State.endCapsule_wf]
  case image id va => exact State.writeImage_wf b g va h
  case launch a lanes => exact State.performLaunch_wf b g a lanes h
  all_goals simpa [State.endPark] using h

/-! ### The Stack engines -/

theorem State.engineReadRange_wf (P : Party) (va k n : Nat) (h : Memory.wf s.mem) :
    Memory.wf (s.engineReadRange P va k n).1.mem := by
  induction k generalizing s va n with
  | zero => exact h
  | succ k ih => grind -ring -linarith -lia -order [State.engineReadRange, State.engineRead_wf]

theorem State.startGemv_wf (cmd : Nat) (c : Command) (h : Memory.wf s.mem) : Memory.wf (s.startGemv cmd c).mem := by
  grind -ring -linarith -lia -order [State.startGemv, State.post_mem, State.updCmd_mem, State.engineReadRange_wf]

theorem State.gemvRow_wf (cmd : Nat) (c : Command) (h : Memory.wf s.mem) : Memory.wf (s.gemvRow cmd c).mem := by
  grind -ring -linarith -lia -order [State.gemvRow, State.post_mem, State.mergeLine_wf, State.updCmd_mem,
    State.engineReadRange_wf, State.engineTags_mem, State.engineProbe_wf, State.backInvalidate_mem]

theorem State.gemv_wf (cmd : Nat) (h : Memory.wf s.mem) : Memory.wf (s.gemv cmd).mem := by
  grind -ring -linarith -lia -order [State.gemv, State.post_mem, State.updCmd_mem, State.gemvRow_wf,
    State.askHost_mem, State.startGemv_wf, State.rejectCommand_wf, State.takeFree_mem]

theorem State.sopen_wf (cmd : Nat) (h : Memory.wf s.mem) : Memory.wf (s.sopen cmd).mem := by
  grind -ring -linarith -lia -order [State.sopen, State.post_mem, State.updCmd_mem, State.rejectCommand_wf]

theorem State.sclose_wf (cmd : Nat) (h : Memory.wf s.mem) : Memory.wf (s.sclose cmd).mem := by
  grind -ring -linarith -lia -order [State.sclose, State.post_mem, State.updCmd_mem, State.updDie_mem,
    State.rejectCommand_wf, State.updBlk_mem]

/-! ### The schedule -/

theorem setDone_wf (s1 : State) (b g : Nat) (switch : Bool) (h : Memory.wf s.mem) (hs1 : Memory.wf s1.mem) :
    Memory.wf (setDone s s1 b g switch).mem := by
  grind -ring -linarith -lia -order [setDone, State.issued_mem, State.clearCur_mem, State.parkOn_mem,
    State.honourSwitch_mem, State.takeTrap_wf]

theorem State.twinMismatch_wf (b g : Nat) (h : Memory.wf s.mem) : Memory.wf (s.twinMismatch b g).mem := by
  grind -ring -linarith -lia -order [State.twinMismatch, State.updGrp_mem, State.hwError_wf]

end Sys2Proof.Machine

end

section
/-!
SUPPORT. What a step keeps: each instruction, each choice of a schedule and so each step keeps the canonical form of
physical memory.
-/

namespace Sys2Proof.Machine

/-! ### Outcomes and words -/

/-- An outcome that answers a state whose memory has its form. -/
def FormKept (o : Host.Outcome State Fault Refusal) : Prop := ∀ t, o = .next t → Memory.wf t.mem

theorem formKept_next {s : State} (h : Memory.wf s.mem) : FormKept (.next s) := fun _ e => by
  cases e; exact h

/-- A word keeps the form of memory where its effect does: what precedes it is a trap or the advance of the head run. -/
theorem issueWord_formKept {s : State} {i : Instr} {f : Issue → State → State}
    (hf : ∀ I t, Memory.wf t.mem → Memory.wf (f I t).mem) (h : Memory.wf s.mem) : FormKept (issueWord i s f) := by
  unfold issueWord
  split
  · exact fun _ e => nomatch e
  · dsimp only
    split
    · exact formKept_next (Issue.trap_wf _ _ h)
    · refine formKept_next ?_
      rw [State.markDone_mem]
      exact hf _ _ (by simpa using h)

theorem issueWord_frame {s : State} {i : Instr} {f : Issue → State → State}
    (hf : ∀ I t, (f I t).mem = t.mem) (h : Memory.wf s.mem) : FormKept (issueWord i s f) :=
  issueWord_formKept (fun I t ht => by rw [hf I t]; exact ht) h

section
variable {s : State} (h : Memory.wf s.mem)
include h

theorem execMfs_formKept (r y) : FormKept (execMfs r y s) := by
  refine issueWord_formKept (fun I t ht => ?_) h
  grind -ring -linarith -lia -order [Issue.setV_mem]

theorem execExit_formKept (g) : FormKept (execExit g s) := by
  refine issueWord_formKept (fun I t ht => ?_) h
  grind -ring -linarith -lia -order [State.updGrp_mem, State.endGroup_wf, Issue.block_mem]

theorem execYield_formKept (g) : FormKept (execYield g s) := by
  refine issueWord_formKept (fun I t ht => ?_) h
  grind -ring -linarith -lia -order [State.updGrp_mem, State.parkOn_mem]

theorem execTfence_formKept (g) : FormKept (execTfence g s) := by
  refine issueWord_formKept (fun I t ht => ?_) h
  grind -ring -linarith -lia -order [State.parkOn_mem, State.checkFlags_wf]

theorem execEret_formKept (r g) : FormKept (execEret r g s) := by
  refine issueWord_formKept (fun I t ht => ?_) h
  grind -ring -linarith -lia -order [State.parkOn_mem]

theorem execBarc_formKept (a b g) : FormKept (execBarc a b g s) := by
  refine issueWord_formKept (fun I t ht => ?_) h
  grind -ring -linarith -lia -order [State.parkOn_mem]

theorem execBra_formKept (k g o) : FormKept (execBra k g o s) := by
  refine issueWord_formKept (fun I t ht => ?_) h
  grind -ring -linarith -lia -order [jump_mem, Issue.trap_wf]

theorem execCall_formKept (k g o) : FormKept (execCall k g o s) := by
  refine issueWord_formKept (fun I t ht => ?_) h
  grind -ring -linarith -lia -order [jump_mem, Issue.trap_wf, link_mem]

theorem execCallx_formKept (a g) : FormKept (execCallx a g s) := by
  refine issueWord_formKept (fun I t ht => ?_) h
  grind -ring -linarith -lia -order [jump_mem, link_mem]

theorem execFsetp_formKept (p a b k u) : FormKept (execFsetp p a b k u s) := by
  refine issueWord_formKept (fun I t ht => ?_) h
  grind -ring -linarith -lia -order [Issue.raise_mem, Issue.setP_mem]

theorem execPld_formKept (a m g) : FormKept (execPld a m g s) := by
  refine issueWord_frame (fun I t => ?_) h
  exact mem_foldl (by simp) _ t

theorem execMts_formKept (r y) : FormKept (execMts r y s) := by
  refine issueWord_formKept (fun I t ht => ?_) h
  grind -ring -linarith -lia -order [writeSpr_wf, State.updGrp_mem]

theorem execMov_formKept (d a m g) : FormKept (execMov d a m g s) := by
  refine issueWord_formKept (fun I t ht => ?_) h
  grind -ring -linarith -lia -order [Issue.setV_mem, Issue.setS_mem]

theorem execSel_formKept (d a b m g) : FormKept (execSel d a b m g s) := by
  refine issueWord_formKept (fun I t ht => ?_) h
  grind -ring -linarith -lia -order [State.updGrp_mem]

theorem execDsamp_formKept (d a m r g) : FormKept (execDsamp d a m r g s) := by
  refine issueWord_formKept (fun I t ht => ?_) h
  grind -ring -linarith -lia -order [laterF_mem, advanceStream_mem]

theorem execBenc_formKept (d a b f r g) : FormKept (execBenc d a b f r g s) := by
  refine issueWord_formKept (fun I t ht => ?_) h
  grind -ring -linarith -lia -order [State.updGrp_mem, Issue.raise_mem]

theorem execRcat_formKept (d a b g) : FormKept (execRcat d a b g s) := by
  refine issueWord_formKept (fun I t ht => ?_) h
  grind -ring -linarith -lia -order [advanceStream_mem, Issue.laterV_mem]

theorem execRskip_formKept (a g) : FormKept (execRskip a g s) := by
  refine issueWord_formKept (fun I t ht => ?_) h
  grind -ring -linarith -lia -order [advanceStream_mem]

theorem execPfet_formKept (a o k g) : FormKept (execPfet a o k g s) := by
  refine issueWord_formKept (fun I t ht => ?_) h
  exact wf_foldl (fun u n => State.prefetch_wf _ _ _) _ (by simpa using ht)

theorem execFence_formKept (d m g) : FormKept (execFence d m g s) := by
  refine issueWord_formKept (fun I t ht => ?_) h
  grind -ring -linarith -lia -order [State.startCommit_mem, Issue.block_mem, State.parkOn_mem]

theorem execCommit_formKept (g) : FormKept (execCommit g s) := by
  refine issueWord_formKept (fun I t ht => ?_) h
  grind -ring -linarith -lia -order [State.startCommit_mem, Issue.block_mem, State.parkOn_mem]

theorem execWaitm_formKept (d a b m g) : FormKept (execWaitm d a b m g s) := by
  refine issueWord_formKept (fun I t ht => ?_) h
  grind -ring -linarith -lia -order [State.post_mem, State.updGrp_mem, Issue.trap_wf, State.tick_mem,
    State.parkOn_mem, State.lookUp_mem]

theorem execMaskw_formKept (d a b g) : FormKept (execMaskw d a b g s) := by
  refine issueWord_formKept (fun I t ht => ?_) h
  grind -ring -linarith -lia -order [State.post_mem, State.updGrp_mem, Issue.trap_wf, State.tick_mem,
    State.parkOn_mem, State.lookUp_mem]

theorem execLda_formKept (d a w m g) : FormKept (execLda d a w m g s) := by
  refine issueWord_formKept (fun I t ht => ?_) h
  grind -ring -linarith -lia -order [State.post_mem, State.updGrp_mem, Issue.trap_wf, State.tick_mem, Issue.block_mem,
    State.parkOn_mem, State.lookUp_mem]

theorem execStr_formKept (w a b m g) : FormKept (execStr w a b m g s) := by
  refine issueWord_formKept (fun I t ht => ?_) h
  grind -ring -linarith -lia -order [Issue.trap_wf, State.postAll_mem, State.startCommit_mem, State.tick_mem,
    Issue.block_mem, State.parkOn_mem, State.enterStore_wf, State.lookUp_mem]

theorem execPlot_formKept (d a b r g) : FormKept (execPlot d a b r g s) := by
  refine issueWord_formKept (fun I t ht => ?_) h
  grind -ring -linarith -lia -order [Issue.trap_wf, Issue.laterV_mem, State.updBlk_mem]

theorem execUnplot_formKept (a g) : FormKept (execUnplot a g s) := by
  refine issueWord_formKept (fun I t ht => ?_) h
  grind -ring -linarith -lia -order [Issue.trap_wf, Issue.blockOn_mem, State.updBlk_mem]

theorem execRenew_formKept (a g) : FormKept (execRenew a g s) := by
  refine issueWord_formKept (fun I t ht => ?_) h
  grind -ring -linarith -lia -order [Issue.trap_wf, State.updBlk_mem]

theorem execPres_formKept (p a) : FormKept (execPres p a s) := by
  refine issueWord_formKept (fun I t ht => ?_) h
  grind -ring -linarith -lia -order [Issue.laterP_mem]

theorem execQw_formKept (q r u g) : FormKept (execQw q r u g s) := by
  refine issueWord_formKept (fun I t ht => ?_) h
  have hp (l : List (List Word)) (t : State) :
      (l.foldl (fun s w => s.pushCommand I.b I.g q.toNat I.wpc I.word w) t).mem = t.mem := mem_foldl (by simp) l t
  grind -ring -linarith -lia -order [Issue.trap_wf, Issue.blockOn_mem, Issue.block_mem, State.updGrp_mem]

theorem execQr_formKept (q r u g) : FormKept (execQr q r u g s) := by
  refine issueWord_formKept (fun I t ht => ?_) h
  grind -ring -linarith -lia -order [State.acquire_mem, State.updGrp_mem, Issue.trap_wf, Issue.blockOn_mem,
    Issue.laterV_mem, Issue.laterS_mem]

theorem execTlw_formKept (a b u g) : FormKept (execTlw a b u g s) := by
  refine issueWord_formKept (fun I t ht => ?_) h
  grind -ring -linarith -lia -order [State.acquire_mem, Issue.trap_wf, State.parkOn_mem]

theorem execMzro_formKept (q l g) : FormKept (execMzro q l g s) := by
  refine issueWord_formKept (fun I t ht => ?_) h
  exact Issue.matrix_wf I ht (by simpa using ht)

theorem execMdrn_formKept (a b q g) : FormKept (execMdrn a b q g s) := by
  refine issueWord_formKept (fun I t ht => ?_) h
  grind -ring -linarith -lia -order [State.enterMatrix_mem, Issue.matrixFmt_wf, State.tick_mem, Issue.writeTile_wf]

theorem execMstat_formKept (d a b m g) : FormKept (execMstat d a b m g s) := by
  refine issueWord_formKept (fun I t ht => ?_) h
  grind -ring -linarith -lia -order [State.enterMatrix_mem, Issue.readTile_wf, State.updGrp_mem, Issue.matrixFmt_wf,
    State.tick_mem]

theorem execMteam_formKept (a g) : FormKept (execMteam a g s) := by
  refine issueWord_formKept (fun I t ht => Issue.matrix_wf I ht ?_) h
  exact ite_wf (Issue.trap_wf I _ ht) (by simpa using ht)

theorem execMchk_formKept (d g) : FormKept (execMchk d g s) := by
  refine issueWord_formKept (fun I t ht => ?_) h
  exact Issue.matrix_wf I ht (by simpa using ht)

theorem execBar_formKept (b g) : FormKept (execBar b g s) := by
  refine issueWord_formKept (fun I t ht => ?_) h
  grind -ring -linarith -lia -order [Issue.block_mem, State.parkOn_mem, State.updBlk_mem]

theorem execBara_formKept (b g) : FormKept (execBara b g s) := by
  refine issueWord_formKept (fun I t ht => ?_) h
  grind -ring -linarith -lia -order [Issue.block_mem, State.updBlk_mem]

theorem execGbar_formKept (g) : FormKept (execGbar g s) := by
  refine issueWord_formKept (fun I t ht => ?_) h
  grind -ring -linarith -lia -order [State.arrivePhase_mem, State.startCommit_mem, Issue.block_mem, State.parkOn_mem]

theorem execCapb_formKept (a g) : FormKept (execCapb a g s) := by
  refine issueWord_formKept (fun I t ht => ?_) h
  have h1 (f : Nat → Word) : Memory.wf (t.lookUp (t.blk I.b).core (t.blk I.b).space I.act f).mem := by simpa using ht
  dsimp only
  generalize (I.G.rv a.toNat (lowest I.act)) = lk
  replace h1 := h1 fun _ => lk
  generalize t.lookUp (t.blk I.b).core (t.blk I.b).space I.act (fun _ => lk) = t1 at h1 ⊢
  have h2 := State.fetchBody_wf I.b (I.wpc + 4) 64 h1
  generalize t1.fetchBody I.b (I.wpc + 4) 64 = r at h2 ⊢
  have h3 := State.translate_wf (t.blk I.b).space lk 3 true h2
  generalize r.1.translate (t.blk I.b).space lk 3 = u at h3 ⊢
  refine ite_wf ht (ite_wf (Issue.trap_wf I _ ht) (ite_wf (Issue.trap_wf I _ ht) (ite_wf (Issue.trap_wf I _ ht) ?_)))
  split
  · exact Issue.trap_wf I _ h1
  · refine ite_wf (Issue.trap_wf I _ h2) (ite_wf (Issue.trap_wf I _ h2) (ite_wf (Issue.trap_wf I _ h3)
      (ite_wf (Issue.trap_wf I _ h3) ?_)))
    simpa using h3

theorem execCape_formKept (g) : FormKept (execCape g s) := by
  refine issueWord_formKept (fun I t ht => ?_) h
  grind -ring -linarith -lia -order [State.endCapsule_wf, State.goCapsule_wf, Issue.trap_wf, State.startCommit_mem,
    Issue.block_mem, State.parkOn_mem]

theorem execCapr_formKept (d b g) : FormKept (execCapr d b g s) := by
  refine issueWord_formKept (fun I t ht => ?_) h
  grind -ring -linarith -lia -order [State.acquire_mem, Issue.trap_wf, Issue.laterV_mem]

theorem execLaunch_formKept (d a g) : FormKept (execLaunch d a g s) := by
  refine issueWord_formKept (fun I t ht => ?_) h
  grind -ring -linarith -lia -order [State.updGrp_mem, Issue.trap_wf, State.startCommit_mem, State.tick_mem,
    Issue.block_mem, State.parkOn_mem, State.lookUp_mem]

theorem execCompl_formKept (a b g) : FormKept (execCompl a b g s) := by
  refine issueWord_formKept (fun I t ht => ?_) h
  grind -ring -linarith -lia -order [State.post_mem, Issue.trap_wf, State.startCommit_mem, State.tick_mem,
    Issue.block_mem, State.parkOn_mem, State.enterStore_wf, State.lookUp_mem]

theorem execWaitc_formKept (a b g) : FormKept (execWaitc a b g s) := by
  refine issueWord_formKept (fun I t ht => ?_) h
  grind -ring -linarith -lia -order [State.post_mem, State.acquire_mem, State.updGrp_mem, Issue.trap_wf,
    State.tick_mem, Issue.blockOn_mem, State.lookUp_mem]

theorem execTlbi_formKept (a g) : FormKept (execTlbi a g s) := by
  refine issueWord_formKept (fun I t ht => ?_) h
  grind -ring -linarith -lia -order [State.invalidateTlb_mem, State.endBlock_wf, State.parkOn_mem]

theorem execPsumi_formKept (a g) : FormKept (execPsumi a g s) := by
  refine issueWord_formKept (fun I t ht => ?_) h
  grind -ring -linarith -lia -order [State.invalidateSummary_mem, State.endBlock_wf]

theorem execCtxsv_formKept (a g) : FormKept (execCtxsv a g s) := by
  refine issueWord_formKept (fun I t ht => ?_) h
  grind -ring -linarith -lia -order [Issue.trap_wf, State.startCommit_mem, Issue.block_mem, State.parkOn_mem]

theorem execCtxld_formKept (a g) : FormKept (execCtxld a g s) := by
  refine issueWord_formKept (fun I t ht => ?_) h
  grind -ring -linarith -lia -order [Issue.trap_wf, State.readImage_wf]

end

theorem State.ifRunning_wf {s t : State} (h : Memory.wf s.mem) (ht : Memory.wf t.mem) : Memory.wf (s.ifRunning t).mem :=
  ite_wf ht h

theorem State.mailCommand_wf {s : State} (n : Word) (i : Instr) {f : State → State} (h : Memory.wf s.mem)
    (hf : (f s).mem = s.mem) : Memory.wf (s.mailCommand n i f).mem := by
  rw [State.mailCommand_mem s n i hf]; exact h

section
variable {s : State} (h : Memory.wf s.mem)
include h
/-- Every instruction word keeps the form of memory. -/
theorem exec_word_formKept (i : Instr) (hi : i.isWord = true) : FormKept (Sys2Proof.Machine.exec i s) := by
  cases i
  all_goals unfold exec
  case brx | ret =>
    exact issueWord_frame (fun _ _ => jump_mem ..) h
  case canck | isetp | vtop =>
    exact issueWord_frame (fun _ _ => Issue.setP_mem ..) h
  case pand | por | pxor | pandn =>
    exact issueWord_frame (fun _ _ => predAB_mem ..) h
  case ptov | vote | pst | imad | bfx | bfi | li | lih | bdec =>
    exact issueWord_frame (fun _ _ => Issue.setV_mem ..) h
  case iadd | isub | imul | imulh | imin | imax | and | or | xor | andn | shl | shr | sar | rotl | lea | isat =>
    exact issueWord_frame (fun _ _ => intAB_mem ..) h
  case iabs | popc | clz | brev =>
    exact issueWord_frame (fun _ _ => intA_mem ..) h
  case bsel =>
    exact issueWord_frame (fun _ _ => intDAB_mem ..) h
  case iaddi | andi | ori | xori | shli | shri | sari =>
    exact issueWord_frame (fun _ _ => intImm_mem ..) h
  case idiv | irem =>
    exact issueWord_frame (fun _ _ => intLater_mem ..) h
  case movs =>
    exact issueWord_frame (fun _ _ => Issue.setS_mem ..) h
  case shfl | redg | scan | bcast | tlrd =>
    exact issueWord_frame (fun _ _ => Issue.laterV_mem ..) h
  case fadd | fsub | fmul | ffma | fmin | fmax | fcps | fabs | fneg | frnd | hadd2 | hmul2 | hfma2 | dmake |
      dmean | dvar | dstd | dtag | dclr | daddv | ds4 | dcol | dsens | fcvt | icvt | ftoi | qcvt | qrsc | qzpc =>
    exact issueWord_frame (fun _ _ => Issue.setF_mem ..) h
  case fdiv =>
    exact issueWord_frame (fun _ _ => laterF_mem ..) h
  case ex2 | lg2 | rcp | rsq | sqrt | sin | cos | tanh | sigm =>
    exact issueWord_frame (fun _ _ => specialOf_mem ..) h
  case rgen | runi | rgaus =>
    exact issueWord_frame (fun _ _ => drawOf_mem ..) h
  case nop => exact issueWord_frame (fun _ _ => rfl) h
  case trap | bkpt =>
    exact issueWord_formKept (fun I _ ht => ite_wf ht (Issue.trapAfter_wf I _ _ ht)) h
  case ldb | ldh | ldw | ldd | ldq =>
    exact issueWord_formKept (fun _ _ ht => loadL_wf _ _ _ _ _ _ ht) h
  case ldx | ldg =>
    exact issueWord_formKept (fun _ _ ht => Issue.load_wf _ _ _ _ _ _ ht) h
  case stb | sth | stw | std | stq =>
    exact issueWord_formKept (fun _ _ ht => storeL_wf _ _ _ _ _ _ ht) h
  case stx =>
    exact issueWord_formKept (fun _ _ ht => Issue.store_wf _ _ _ _ _ _ _ ht) h
  case atom | acas | afadd | red =>
    exact issueWord_formKept (fun _ _ ht => Issue.atomic_wf _ _ _ _ _ _ _ ht) h
  case lds | ldsx =>
    exact issueWord_formKept (fun _ _ ht => Issue.bedLoad_wf _ _ _ _ ht) h
  case sts | stsx =>
    exact issueWord_formKept (fun _ _ ht => Issue.bedStore_wf _ _ _ _ ht) h
  case mldn | mldw =>
    exact issueWord_formKept (fun _ _ ht => Issue.loadPlane_wf _ _ _ _ _ ht) h
  case mma | dmma | mma2 =>
    exact issueWord_formKept (fun _ _ ht => Issue.product_wf _ _ _ _ _ _ _ ht) h
  case exit => exact execExit_formKept h _
  case yield => exact execYield_formKept h _
  case tfence => exact execTfence_formKept h _
  case eret => exact execEret_formKept h _ _
  case barc => exact execBarc_formKept h _ _ _
  case mfs => exact execMfs_formKept h _ _
  case bra => exact execBra_formKept h _ _ _
  case call => exact execCall_formKept h _ _ _
  case callx => exact execCallx_formKept h _ _
  case fsetp => exact execFsetp_formKept h _ _ _ _ _
  case pld => exact execPld_formKept h _ _ _
  case mts => exact execMts_formKept h _ _
  case mov => exact execMov_formKept h _ _ _ _
  case sel => exact execSel_formKept h _ _ _ _ _
  case dsamp => exact execDsamp_formKept h _ _ _ _ _
  case benc => exact execBenc_formKept h _ _ _ _ _ _
  case rcat => exact execRcat_formKept h _ _ _ _
  case rskip => exact execRskip_formKept h _ _
  case pfet => exact execPfet_formKept h _ _ _ _
  case fence => exact execFence_formKept h _ _ _
  case commit => exact execCommit_formKept h _
  case waitm => exact execWaitm_formKept h _ _ _ _ _
  case maskw => exact execMaskw_formKept h _ _ _ _
  case lda => exact execLda_formKept h _ _ _ _ _
  case str => exact execStr_formKept h _ _ _ _ _
  case plot => exact execPlot_formKept h _ _ _ _ _
  case unplot => exact execUnplot_formKept h _ _
  case renew => exact execRenew_formKept h _ _
  case pres => exact execPres_formKept h _ _
  case qw => exact execQw_formKept h _ _ _ _
  case qr => exact execQr_formKept h _ _ _ _
  case tlw => exact execTlw_formKept h _ _ _ _
  case mzro => exact execMzro_formKept h _ _ _
  case mdrn => exact execMdrn_formKept h _ _ _ _
  case mstat => exact execMstat_formKept h _ _ _ _ _
  case mteam => exact execMteam_formKept h _ _
  case mchk => exact execMchk_formKept h _ _
  case bar => exact execBar_formKept h _ _
  case bara => exact execBara_formKept h _ _
  case gbar => exact execGbar_formKept h _
  case capb => exact execCapb_formKept h _ _
  case cape => exact execCape_formKept h _
  case capr => exact execCapr_formKept h _ _ _
  case launch => exact execLaunch_formKept h _ _ _
  case compl => exact execCompl_formKept h _ _ _
  case waitc => exact execWaitc_formKept h _ _ _
  case tlbi => exact execTlbi_formKept h _ _
  case psumi => exact execPsumi_formKept h _ _
  case ctxsv => exact execCtxsv_formKept h _ _
  case ctxld => exact execCtxld_formKept h _ _
  all_goals cases hi

/-- Every event, command and input keeps the form of memory. -/
theorem exec_event_formKept (i : Instr) (hi : i.isWord = false) : FormKept (Sys2Proof.Machine.exec i s) := by
  cases i
  case copyLinear cmd => exact formKept_next (State.copyLinear_wf cmd h)
  case copyRagged cmd => exact formKept_next (State.copyRagged_wf cmd h)
  case kvPut cmd => exact formKept_next (State.kvPut_wf cmd h)
  case kvGet cmd => exact formKept_next (State.kvGet_wf cmd h)
  case maskRequest cmd => exact formKept_next (State.maskRequest_wf cmd h)
  case gemv cmd => exact formKept_next (State.gemv_wf cmd h)
  case sopen cmd => exact formKept_next (State.sopen_wf cmd h)
  case sclose cmd => exact formKept_next (State.sclose_wf cmd h)
  case commandCompletion cmd => exact formKept_next (State.completeCommand_wf cmd h)
  case fadeClockTick core =>
    exact formKept_next (wf_foldl (fun s b hs => by simpa using hs) _ (by simpa using h))
  case lineRequest blk grp ld line => exact formKept_next (State.lineRequest_wf blk grp ld line h)
  case loadDataReturn blk grp ld line => exact formKept_next (State.loadReturn_wf blk grp ld line h)
  case deferredFaultDelivery blk grp => exact formKept_next (State.deliverFault_wf blk grp h)
  case translateProbe blk entry line => exact formKept_next (State.translateProbe_wf blk entry line h)
  case probeReply blk entry line => exact formKept_next (State.probeReply_wf blk entry line h)
  case commitMerge blk commit line => exact formKept_next (State.commitMerge_wf blk commit line h)
  case atomicPerform blk entry lane => exact formKept_next (State.atomicPerform_wf blk entry lane h)
  case waitReread blk grp => exact formKept_next (State.waitReread_wf blk grp h)
  case mscWriteback die line => exact formKept_next (State.mscWriteBack_wf die line h)
  case groupUnpark b g =>
    refine formKept_next (ite_wf ?_ h)
    dsimp only
    split
    · exact State.endPark_wf b g _ (by simpa using h)
    · simpa using h
  case cancellationTrap blk grp => exact formKept_next (State.cancelTrap_wf blk grp h)
  case priorityAgingGrant prio => exact formKept_next (ite_wf (State.grant_wf prio h) h)
  case contextSave blk => exact formKept_next (State.contextSave_wf blk h)
  case contextRestore blk core => exact formKept_next (State.contextRestore_wf blk core h)
  case gridRetirement grid => exact formKept_next (State.retire_wf grid h)
  case graphKernelNode grid => exact formKept_next (State.kernelNode_wf grid h)
  case graphLoopNode grid => exact formKept_next (State.loopNode_wf grid h)
  case graphAdmitNode grid => exact formKept_next (State.admitNode_wf grid h)
  case capsuleStep blk grp => exact formKept_next (State.capsuleStep_wf blk grp h)
  case maskwTimeout blk grp => exact formKept_next (State.maskwTimeout_wf blk grp h)
  case hendWrite blk grp value => exact formKept_next (State.hend_wf blk grp value h)
  case hardwareError b cause => exact formKept_next (ite_wf h (State.hwError_wf b cause h))
  case doorbellWrite queue value => exact formKept_next (State.ifRunning_wf h (State.doorbell_wf queue value h))
  case hostBar2Write off data => exact formKept_next (State.ifRunning_wf h (State.bar2Write_wf off data h))
  case hostTakeLine die line => exact formKept_next (State.ifRunning_wf h (State.takeLine_wf die line h))
  case hostLineWriteback die line data => exact formKept_next (State.ifRunning_wf h (State.lineBack_wf die line data h))
  case inboundRmaWrite die job ridx va data =>
    exact formKept_next (State.ifRunning_wf h (State.rmaWrite_wf die job ridx va data h))
  case inboundRmaRead die job ridx va len =>
    exact formKept_next (State.ifRunning_wf h (State.rmaRead_wf die job ridx va len h))
  case inboundRmaAtomic die job ridx va addend =>
    exact formKept_next (State.ifRunning_wf h (State.rmaAtomic_wf die job ridx va addend h))
  case bridgeLaneFailure die lane => exact formKept_next (State.laneFails_wf die lane h)
  case sramRailLow d => exact formKept_next (by simpa using State.clearWay7_wf d h)
  case variableLatencyResultWrite b g uid =>
    change FormKept (execVariableLatencyResultWrite b g uid s)
    unfold execVariableLatencyResultWrite
    split
    · exact formKept_next (by simpa using h)
    · exact formKept_next h
  case backInvalidateResponse d line =>
    refine formKept_next ?_
    rw [State.updDie_mem]
    split
    · exact State.hostMerge_wf d line _ _ h
    · exact h
  case secondTierDecoderWrite die port base size =>
    exact formKept_next (State.ifRunning_wf h (State.setDecoder_wf die port base size h))
  case descriptorAccept => exact formKept_next (State.acceptNext_wf h)
  case kvFlagIncrement | prunerJobStart | sopenContextBind | sieveFeed | copyChunkFault | bedLineLands |
      lineExpiry | frameSliceAllocation | coreAssignment | rangeSteal | blockStart | timeSliceExpiry |
      graphEndNode | matrixExecute | configRegisterWrite | secondTierLinkDown | l2SecdedRestore |
      secondTierLinkUp | deviceReset | thermalThrottle | powerCapThrottle | thermalReset | mainClockRaise =>
    exact formKept_next (by simpa using h)
  case queueEnable | queueDisable | hostBar2Read | hostCoherentRead | inboundUnsupportedPacket |
      clusterL1ModeWrite =>
    exact formKept_next (State.ifRunning_wf h (by simpa using h))
  case mailboxLoadFirmware | mailboxAttest | mailboxTelemetryRead | mailboxReadCertificate | mailboxClearSuspect |
      mailboxSetPowerCap =>
    exact formKept_next (State.mailCommand_wf _ _ h (by simp))
  all_goals cases hi

end

/-! ### Sets, groups and the schedule -/

/-- Every instruction keeps the form of memory. -/
theorem exec_formKept {s : State} (h : Memory.wf s.mem) (i : Instr) : FormKept (Sys2Proof.Machine.exec i s) := by
  cases hi : i.isWord
  · exact exec_event_formKept h i hi
  · exact exec_word_formKept h i hi

theorem andThen_formKept {o : Host.Outcome State Fault Refusal} {f : State → Host.Outcome State Fault Refusal}
    (ho : FormKept o) (hf : ∀ t, Memory.wf t.mem → FormKept (f t)) : FormKept (andThen o f) := by
  cases o with
  | next t => exact hf t (ho t rfl)
  | fault r => exact ho
  | refused r => exact ho

section
variable {s : State} (h : Memory.wf s.mem)
include h

theorem issueOne_formKept (c : IssueCtx) (w : SetWord) : FormKept (issueOne exec s c w) := by
  unfold issueOne
  split
  · exact exec_formKept (s := { s with cur := some c }) h _
  · exact formKept_next h

/-- The state that keeps a set from issuing comes from a word of it tried alone. -/
theorem trySet_wf (ctx : SetWord → IssueCtx) (ws : List SetWord) {t : State}
    (ht : trySet exec s ctx ws = .next (some t)) : Memory.wf t.mem := by
  induction ws with
  | nil => cases ht
  | cons w ws ih =>
    have hw := issueOne_formKept h (ctx w) w
    unfold trySet at ht
    grind [FormKept]

theorem runSet_formKept (ctx : SetWord → IssueCtx) (ws : List SetWord) : FormKept (runSet exec ctx ws s) := by
  induction ws generalizing s with
  | nil => exact formKept_next h
  | cons w ws ih =>
    refine andThen_formKept (issueOne_formKept h _ w) fun t ht => ?_
    split
    · exact formKept_next ht
    · exact formKept_next ht
    · exact ih ht

theorem issueSet_formKept (b g : Nat) (run : Mask) (pc next : Word) (ws : List SetWord) :
    FormKept (issueSet exec s b g run pc next ws) := by
  unfold issueSet
  split
  · refine andThen_formKept (issueOne_formKept h _ _) fun t ht => formKept_next ?_
    simpa using ht
  · have htry (t : State) := trySet_wf h (setCtx s b g run pc next false) ws (t := t)
    dsimp only
    split
    next t ht => exact formKept_next (by simpa using htry t ht)
    next => exact andThen_formKept (runSet_formKept h _ _) fun t ht => formKept_next (setDone_wf t b g _ h ht)
    next => exact fun _ e => nomatch e
    next => exact fun _ e => nomatch e

theorem issueGroup_formKept (b g : Nat) : FormKept (issueGroup exec s b g) := by
  have h0 : Memory.wf (s.toIssue b g).mem := by simpa using h
  have hf := State.fetchPacket_wf b ((s.toIssue b g).grp b g).headRun.2 h0
  unfold issueGroup
  refine ite_kept (formKept_next (State.resumeTrap_wf b g h)) (ite_kept (formKept_next (State.endGroup_wf b g h0)) ?_)
  dsimp only
  generalize (s.toIssue b g).fetchPacket b ((s.toIssue b g).grp b g).headRun.2 = f at hf ⊢
  split
  · refine ite_kept (formKept_next (State.takeTrap_wf b g _ hf))
      (ite_kept (formKept_next (State.takeTrap_wf b g _ hf)) ?_)
    split
    · exact formKept_next (State.takeTrap_wf b g _ hf)
    · exact issueSet_formKept hf b g _ _ _ _
  · exact formKept_next (State.takeTrap_wf b g _ hf)

theorem runEvent_formKept (k : Nat) : FormKept (runEvent exec s k) := by
  unfold runEvent
  split
  · exact ite_kept (P := FormKept) (formKept_next h) (exec_formKept (s := { s with agenda := s.agenda.eraseIdx k }) h _)
  · exact formKept_next h

theorem workStep_formKept : FormKept (workStep exec s) := by
  unfold workStep
  split
  · exact exec_formKept h _
  · split
    · exact formKept_next (by simpa using h)
    · split
      · exact ite_kept (exec_formKept h _) (issueGroup_formKept h _ _)
      · exact exec_formKept h _
      · exact issueGroup_formKept h _ _
      · exact formKept_next h

theorem autoStep_formKept : FormKept (autoStep exec s) := by
  unfold autoStep
  exact ite_kept (formKept_next (by simpa using h)) (ite_kept (runEvent_formKept h 0) (workStep_formKept h))

theorem choiceStep_formKept (c : Choice) : FormKept (choiceStep exec s c) := by
  cases c
  case auto => exact autoStep_formKept h
  case event k => exact runEvent_formKept h k
  case issue b g => exact ite_kept (issueGroup_formKept h b g) (formKept_next h)
  case input i => exact ite_kept (exec_formKept h i) (formKept_next h)
  case evictL2 d key => exact formKept_next (State.replaceL2_wf d key h)
  case mismatch k => exact formKept_next (State.checksumFails_wf k h)
  case twin b g => exact formKept_next (State.twinMismatch_wf b g h)
  all_goals exact formKept_next (by simpa using h)

end

/-- Settles O6: what runs keeps the form, whatever the schedule names, and the count of the cycle leaves memory. -/
theorem stepKeepsMemoryForm : Obligations.StepKeepsMemoryForm := by
  intro s t h
  have hc : ∀ u : State, Memory.wf u.mem → FormKept (.next u.count) := fun u hu => formKept_next (by simpa using hu)
  refine (show FormKept (step s) from ?_) t
  unfold step stepWith
  split
  · exact andThen_formKept (autoStep_formKept h) hc
  case h_2 c rest _ => exact andThen_formKept (choiceStep_formKept (s := { s with script := rest }) h c) hc

end Sys2Proof.Machine

end

section
/-!
SUPPORT. The registers that the host writes (R56, R370 to R374, R382): where the offset of a write of BAR0 lands, and what
becomes of the word there.
-/

namespace Sys2Proof.Machine

/-! ### Queues -/

theorem queue_congr {s t : State} (h : t.queues = s.queues) (q : Nat) : t.queue q = s.queue q := by
  simp [State.queue, h]

/-- What a write of the word `k` of a queue's entry makes of the entry: EN is written always, the rest while it is 0. -/
def Queue.written (x : Queue) (k : Nat) (v : Word) : Queue :=
  if k = 1 then { x.setReg 1 v with en := v.getLsbD 0, err := if v.getLsbD 0 = true then false else x.err } else x.setReg k v

@[simp] theorem Queue.setReg_err (x : Queue) (k : Nat) (v : Word) : (x.setReg k v).err = x.err := by
  unfold Queue.setReg
  split
  · rfl
  · split <;> rfl

theorem Queue.setReg_of_en {x : Queue} (h : x.en = true) (k : Nat) (v : Word) : x.setReg k v = x := by
  simp [Queue.setReg, h]

theorem Queue.setReg_of_counter (x : Queue) {k : Nat} (h : 5 ≤ k) (v : Word) : x.setReg k v = x := by
  obtain ⟨n, rfl⟩ := Nat.exists_eq_add_of_le' h
  simp [Queue.setReg]

theorem State.enableQueue_of_lt (s : State) {q : Nat} (h : q < 65536) : s.enableQueue q
    = (s.updQueue q fun x => { x with en := true, err := false }).postOnce .descriptorAccept :=
  if_neg (by omega)

theorem State.disableQueue_of_lt (s : State) {q : Nat} (h : q < 65536) :
    s.disableQueue q = s.updQueue q fun x => { x with en := false } :=
  if_neg (by omega)

/-- The write of a word of a queue's entry reaches that entry only. -/
theorem setQueueWord_effect (s : State) {q : Nat} (hq : q < 65536) (k : Nat) (v : Word) :
    (s.setQueueWord q k v).queue q = (s.queue q).written k v
      ∧ ∀ p, p ≠ q → (s.setQueueWord q k v).queue p = s.queue p := by
  unfold State.setQueueWord Queue.written
  dsimp only
  split
  case isTrue h1 =>
    subst h1
    split
    · next hv =>
      refine ⟨?_, fun p hp => ?_⟩ <;>
        rw [State.enableQueue_of_lt _ hq, queue_congr (State.postOnce_queues _ _)]
      · simp [queue_updQueue_same, hv]
      · rw [queue_updQueue_ne _ _ hp, queue_updQueue_ne _ _ hp]
    · next hv =>
      refine ⟨?_, fun p hp => ?_⟩ <;> rw [State.disableQueue_of_lt _ hq]
      · simpa [queue_updQueue_same] using hv
      · rw [queue_updQueue_ne _ _ hp, queue_updQueue_ne _ _ hp]
  case isFalse h1 =>
    split
    · exact ⟨by rw [queue_congr (State.postAll_queues _ _), queue_updQueue_same],
        fun p hp => by rw [queue_congr (State.postAll_queues _ _), queue_updQueue_ne _ _ hp]⟩
    · exact ⟨queue_updQueue_same .., fun p hp => queue_updQueue_ne _ _ hp⟩

/-! ### Offsets of BAR0 -/

section
variable {s : State} (hb : s.boot = .running)
include hb

theorem exec_configRegisterWrite (off : Nat) (v : Word) :
    exec (.configRegisterWrite off v) s = .next (s.writeReg off v) := by
  show Host.Outcome.next _ = _
  rw [if_pos (by simp [hb])]

theorem exec_write_cmd (v : Word) : exec (.configRegisterWrite 0 v) s = .next (s.writeCmd v) := by
  rw [exec_configRegisterWrite hb]
  rfl

theorem exec_write_mailbox {k : Nat} (h0 : 0 < k) (h : k < 8) (v : Word) :
    exec (.configRegisterWrite (8 * k) v) s = .next { s with mailbox := s.mailbox.setReg k v } := by
  rw [exec_configRegisterWrite hb, State.writeReg, if_neg (by simp), if_neg (by omega), if_pos (by omega)]
  simp

theorem exec_write_queue {q k : Nat} (hq : q < 65536) (hk : k < 8) (v : Word) :
    exec (.configRegisterWrite (0x1000000 + 64 * q + 8 * k) v) s = .next (s.setQueueWord q k v) := by
  rw [exec_configRegisterWrite hb, State.writeReg, if_neg (by simp; omega), if_neg (by omega), if_neg (by omega),
    if_neg (by omega), if_pos (by simp; omega), show (0x1000000 + 64 * q + 8 * k - 0x1000000) / 64 = q by omega,
    show (0x1000000 + 64 * q + 8 * k) % 64 / 8 = k by omega]

theorem exec_write_die {d k : Nat} (hd : d < 2) (hk : k < 8) (v : Word) :
    exec (.configRegisterWrite (0x100000 + 0x10000 * d + 8 * k) v) s = .next (s.updDie d fun x => x.setReg k v) := by
  rw [exec_configRegisterWrite hb, State.writeReg, if_neg (by simp; omega), if_neg (by omega), if_neg (by omega),
    if_pos (by omega), show (0x100000 + 0x10000 * d + 8 * k) / 0x10000 % 2 = d by omega,
    show (0x100000 + 0x10000 * d + 8 * k) % 0x10000 / 8 = k by omega]

/-- A word of a queue's entry written, as the host sees it. -/
theorem exec_write_entry {q k : Nat} (hq : q < 65536) (hk : k < 8) (v : Word) {y : Queue} (hy : (s.queue q).written k v = y) :
    ∃ t, exec (.configRegisterWrite (0x1000000 + 64 * q + 8 * k) v) s = .next t ∧ t.queue q = y
      ∧ (∀ p, p ≠ q → t.queue p = s.queue p) ∧ t.mem = s.mem := by
  obtain ⟨hsame, hother⟩ := setQueueWord_effect s hq k v
  exact ⟨_, exec_write_queue hb hq hk v, hsame.trans hy, hother, by simp⟩

/-! ### Doorbells and EN -/

theorem exec_doorbell_on {q : Nat} {v : Word} (hq : q < 65536) (he : (s.queue q).en = true)
    (hlo : (s.queue q).prod ≤ v.toNat) (hhi : v.toNat ≤ (s.queue q).cons + 2 ^ (s.queue q).depthLog) :
    exec (.doorbellWrite q v) s
      = .next ((s.updQueue q fun x => { x with prod := v.toNat }).postOnce .descriptorAccept) := by
  show Host.Outcome.next (s.ifRunning (s.doorbell q v)) = _
  rw [State.ifRunning, if_pos hb, State.doorbell, if_neg (by omega), if_neg (by simp [he]; omega)]

theorem exec_doorbell_off {q : Nat} {v : Word} (hq : q < 65536) (h : (s.queue q).en = false ∨ v.toNat < (s.queue q).prod
      ∨ (s.queue q).cons + 2 ^ (s.queue q).depthLog < v.toNat) :
    exec (.doorbellWrite q v) s = .next ((s.stopped q).logError 0 2 1 0 q 0 0) := by
  show Host.Outcome.next (s.ifRunning (s.doorbell q v)) = _
  rw [State.ifRunning, if_pos hb, State.doorbell, if_neg (by omega), if_pos (by simpa [or_assoc] using h)]
  rfl

theorem exec_queueEnable {q : Nat} (hq : q < 65536) : exec (.queueEnable q) s
    = .next ((s.updQueue q fun x => { x with en := true, err := false }).postOnce .descriptorAccept) := by
  rw [← s.enableQueue_of_lt hq]
  exact congrArg Host.Outcome.next (if_pos hb)

theorem exec_queueDisable {q : Nat} (hq : q < 65536) :
    exec (.queueDisable q) s = .next (s.updQueue q fun x => { x with en := false }) := by
  rw [← s.disableQueue_of_lt hq]
  exact congrArg Host.Outcome.next (if_pos hb)

end

/-! ### The mailbox's CMD (log 19) -/

section
variable {s : State} (hm : s.mailbox.status ≠ 1)
include hm

theorem writeCmd_starts {i : Instr} {n : Word} (hi : mailboxNumber i = some n) (h6 : n ≠ 6) : s.writeCmd n = { s with
    mailbox := { s.mailbox with cmd := n, status := 1 }, agenda := s.agenda ++ [i] } := by
  cases i <;> simp [mailboxNumber] at hi <;> subst hi <;> simp_all [State.writeCmd, State.startMail, State.post]

theorem writeCmd_load : s.writeCmd 6 = { s with
    free := s.free + 1, mailbox := { s.mailbox with cmd := 6, status := 1 }
    agenda := s.agenda ++ [.mailboxLoadFirmware (Config.freeWord s.free).toNat] } := by
  rw [State.writeCmd, if_neg hm]
  rfl

theorem writeCmd_unknown {v : Word} (h : v = 0 ∨ 6 < v.toNat) :
    s.writeCmd v = { s with mailbox := { s.mailbox with cmd := v, status := 2 } } := by
  rw [State.writeCmd, if_neg hm]
  have h0 : v.toNat = 0 ∨ 6 < v.toNat := h.imp_left (by simp [·])
  split
  case h_7 => rfl
  all_goals omega

end

/-- Settles O59: each write of BAR0 by where its offset lands, and doorbells and EN by their own words. -/
theorem hostRegisters : Obligations.HostRegisters := by
  intro s hb
  refine ⟨fun q v hq => ⟨exec_doorbell_on hb hq, exec_doorbell_off hb hq⟩,
    fun q hq => ⟨exec_queueEnable hb hq, exec_queueDisable hb hq⟩, fun off v ho => ?_, fun hm v => ?_, fun hm => ?_,
    fun v => ?_, fun q v hq => ?_, fun d k v hd hk => ?_⟩
  · rw [exec_configRegisterWrite hb, State.writeReg, if_pos (by simpa using ho)]
  · rw [exec_write_cmd hb, State.writeCmd, if_pos hm]
  · refine ⟨fun i n hi h6 => ?_, ?_, fun v h => ?_⟩ <;> rw [exec_write_cmd hb]
    · rw [writeCmd_starts hm hi h6]
    · rw [writeCmd_load hm]
    · rw [writeCmd_unknown hm h]
  · exact ⟨exec_write_mailbox hb (k := 1) (by omega) (by omega) v, exec_write_mailbox hb (k := 2) (by omega) (by omega) v,
      exec_write_mailbox hb (k := 3) (by omega) (by omega) v, exec_write_mailbox hb (k := 4) (by omega) (by omega) v⟩
  · have entry (k : Nat) (hk : k < 8) {y} := exec_write_entry hb hq hk v (y := y)
    refine ⟨fun he => ?_, fun he => ?_, fun k h5 h8 => entry k h8 ?_⟩
    · refine ⟨entry 0 ?_ ?_, entry 2 ?_ ?_, entry 3 ?_ ?_, entry 4 ?_ ?_, entry 1 ?_ ?_⟩ <;>
        simp [Queue.written, Queue.setReg_of_en he]
    · refine ⟨entry 0 ?_ ?_, entry 2 ?_ ?_, entry 3 ?_ ?_, entry 4 ?_ ?_, entry 1 ?_ ?_⟩ <;>
        simp [Queue.written, Queue.setReg, he]
    · rw [Queue.written, if_neg (by omega), Queue.setReg_of_counter _ h5]
  · refine ⟨_, exec_write_die hb hd hk v, ?_, ?_, by simp, by simp⟩
    · rw [die_updDie, if_pos Iff.rfl]
    · rw [die_updDie, if_neg (by omega)]

end Sys2Proof.Machine
end

section
/-!
SUPPORT. What stands while bytes move below the caches: a write to a home, a write-back, an eviction and a notification
change only bytes of memory, the lines and tags of a die's L2, its memory-side cache, and what is due.
-/

namespace Sys2Proof.Machine

/-- A die without what moves when a line is written back or given up. -/
def Die.standing (x : Die) : Die :=
  { x with l2 := [], tags := [], overflow := [], lostTags := [], msc := [], poison := [] }

/-- A state without memory, without what is due and with what stands of its dies. -/
def State.standing (s : State) : State :=
  { s with mem := [], agenda := [], die0 := s.die0.standing, die1 := s.die1.standing }

variable {s t : State}

theorem standing_die (s : State) (d : Nat) : s.standing.die d = (s.die d).standing := by
  unfold State.die
  split <;> rfl

theorem messages_of_standing (h : t.standing = s.standing) : t.messages = s.messages := by
  simpa only [State.standing] using congrArg State.messages h

theorem standing_die_eq (h : t.standing = s.standing) (d : Nat) : (t.die d).standing = (s.die d).standing := by
  rw [← standing_die, ← standing_die, h]

theorem hostLines_of_standing (h : t.standing = s.standing) (d : Nat) : (t.die d).hostLines = (s.die d).hostLines := by
  simpa only [Die.standing] using congrArg Die.hostLines (standing_die_eq h d)

@[simp] theorem State.postOnce_standing (s : State) (i : Instr) : (s.postOnce i).standing = s.standing := by
  unfold State.postOnce
  split <;> rfl

/-- A change of a die that keeps what stands of it. -/
theorem updDie_standing (h : t.standing = s.standing) (d : Nat) {f : Die → Die} (hf : ∀ x, (f x).standing = x.standing) :
    (t.updDie d f).standing = s.standing := by
  rw [← h]
  unfold State.updDie
  split <;> simp only [State.standing, hf]

theorem standing_foldl {α : Type} {f : State → α → State} (hf : ∀ s a, (f s a).standing = s.standing) (l : List α)
    (s : State) : (l.foldl f s).standing = s.standing := by
  induction l generalizing s with
  | nil => rfl
  | cons a l ih => exact (ih _).trans (hf s a)

@[simp] theorem State.setPhysByte_standing (s : State) (d pa : Nat) (b : Byte) :
    (s.setPhysByte d pa b).standing = s.standing := by
  unfold State.setPhysByte
  dsimp only
  split
  · exact updDie_standing (t := { s with mem := _ }) rfl d fun _ => rfl
  · rfl

@[simp] theorem State.physWriteBytes_standing (s : State) (d pa : Nat) (l : List Byte) :
    (s.physWriteBytes d pa l).standing = s.standing := by
  induction l generalizing s pa with
  | nil => rfl
  | cons b l ih => simp [State.physWriteBytes, ih]

@[simp] theorem State.physWrite_standing (s : State) (d pa n v : Nat) : (s.physWrite d pa n v).standing = s.standing :=
  s.physWriteBytes_standing d pa _

@[simp] theorem State.memWriteMask_standing (s : State) (d line : Nat) (mask data : Line) :
    (s.memWriteMask d line mask data).standing = s.standing := rfl

@[simp] theorem State.wake_standing (s : State) (space line : Nat) : (s.wake space line).standing = s.standing := by
  refine standing_foldl (fun s b => ?_) _ _
  split
  · rfl
  · refine standing_foldl (fun s g => ?_) _ _
    split <;> simp

@[simp] theorem State.ringWrite_standing (s : State) (d pa n v : Nat) : (s.ringWrite d pa n v).standing = s.standing := by
  unfold State.ringWrite
  split
  · rw [State.wake_standing]
    exact updDie_standing rfl d fun _ => rfl
  · dsimp only
    split <;> simp

@[simp] theorem State.ringPush_standing (s : State) (d base cap size v : Nat) :
    (s.ringPush d base cap size v).1.standing = s.standing := by
  unfold State.ringPush
  dsimp only
  split <;> simp

@[simp] theorem State.logPort_standing (s : State) (d p : Nat) : (s.logPort d p).standing = s.standing :=
  s.ringPush_standing ..

@[simp] theorem State.setDirtyBit_standing (s : State) (d line bitmap : Nat) :
    (s.setDirtyBit d line bitmap).standing = s.standing := by
  unfold State.setDirtyBit
  split <;> simp

@[simp] theorem State.mscWriteBack_standing (s : State) (d line : Nat) : (s.mscWriteBack d line).standing = s.standing := by
  unfold State.mscWriteBack
  split
  · rfl
  · next x _ =>
    split
    · rfl
    · split
      · rw [State.logPort_standing]
        exact updDie_standing rfl d fun _ => rfl
      · rw [State.memWriteMask_standing]
        exact updDie_standing (s.setDirtyBit_standing d (line * 128) x.bitmap) d fun _ => rfl

/-- A way found for a line in the memory-side cache: what stands before it there is written back. -/
def State.mscWay (s : State) (d line : Nat) : State :=
  if (oget (s.die d).msc line).isSome then s
  else
    let l := setMates 16 32768 Config.mscSet (s.die d).msc line
    match if l.length < 16 then none else victim (l.map fun e => (e.1, 0, e.2.age)) with
    | some v => (s.mscWriteBack d v).updDie d fun y => { y with msc := odel y.msc v }
    | none => s

/-- A fill of the memory-side cache is the way found and the sectors brought into it. -/
theorem State.mscFill_eq (s : State) (d line : Nat) (mask : Line) : s.mscFill d line mask =
    let t := s.mscWay d line
    let old := (oget (t.die d).msc line).getD ⟨0, 0, 0, 0, 0, s.cycles.toNat⟩
    let add := mscSectors mask &&& ~~~old.valid
    if add == 0 then t
    else t.updDie d fun y => { y with msc := oset y.msc line { old with
      data := lineMerge old.data (t.memLine d (line * 128) add) add
      valid := old.valid ||| add
      poison := lineMerge old.poison (y.memPoison (line * 128)) add } } := rfl

@[simp] theorem State.mscFill_standing (s : State) (d line : Nat) (mask : Line) :
    (s.mscFill d line mask).standing = s.standing := by
  have room (v : Nat) : ((s.mscWriteBack d v).updDie d fun y => { y with msc := odel y.msc v }).standing = s.standing :=
    updDie_standing (s.mscWriteBack_standing d v) d fun _ => rfl
  have way : (s.mscWay d line).standing = s.standing := by
    unfold State.mscWay
    split
    · rfl
    · dsimp only
      split
      · exact room _
      · rfl
  rw [State.mscFill_eq]
  dsimp only
  split
  · exact way
  · exact updDie_standing way d fun _ => rfl

@[simp] theorem State.homeWrite_standing (s : State) (d pa bitmap : Nat) (mask data : Line) :
    (s.homeWrite d pa bitmap mask data).standing = s.standing := by
  unfold State.homeWrite
  dsimp only
  split
  · simp
  · split
    · simp
    · rw [State.postOnce_standing]
      exact updDie_standing (State.mscFill_standing ..) d fun _ => rfl

@[simp] theorem State.poisonHome_standing (s : State) (d pa : Nat) (mask : Line) :
    (s.poisonHome d pa mask).standing = s.standing := by
  unfold State.poisonHome State.poisonStored
  split
  · rfl
  · dsimp only
    split <;> exact updDie_standing rfl d fun _ => rfl

@[simp] theorem State.moveTags_standing (s : State) (d key : Nat) : (s.moveTags d key).standing = s.standing := by
  have stale : (s.dropStale d).standing = s.standing := by
    unfold State.dropStale
    dsimp only
    split
    · rfl
    · exact updDie_standing rfl d fun _ => rfl
  unfold State.moveTags
  dsimp only
  split
  · rfl
  · exact updDie_standing stale d fun _ => rfl

@[simp] theorem State.evictL2_standing (s : State) (d key : Nat) : (s.evictL2 d key).standing = s.standing := by
  have gone : ((s.moveTags d key).updDie d fun y => { y with l2 := odel y.l2 key }).standing = s.standing :=
    updDie_standing (s.moveTags_standing d key) d fun _ => rfl
  unfold State.evictL2
  split
  · rfl
  · dsimp only
    split <;> simp [gone]

end Sys2Proof.Machine
end

section
/-!
SUPPORT. What the host and a peer do to device memory (R62, R278, R370, R377 to R379).
-/

namespace Sys2Proof.Machine

/-- The words of the host and of its fabric wait for the ports (R381). -/
theorem exec_beforePorts {s : State} (hb : s.boot ≠ .running) {i : Instr} (hi : needsPorts i = true) :
    exec i s = .next s := by
  have h (t : State) : Host.Outcome.next (s.ifRunning t) = (.next s : Host.Outcome State Fault Refusal) :=
    congrArg Host.Outcome.next (if_neg hb)
  cases i
  case doorbellWrite | queueEnable | queueDisable | hostBar2Read | hostBar2Write | hostTakeLine | hostLineWriteback |
      hostCoherentRead | inboundRmaWrite | inboundRmaRead | inboundRmaAtomic | inboundUnsupportedPacket |
      secondTierDecoderWrite | clusterL1ModeWrite => exact h _
  all_goals exact absurd hi Bool.false_ne_true

/-- Where only the first of several numbers has a value, it is the one kept. -/
theorem filterMap_range_first {α : Type} {f : Nat → Option α} {v : α} (h0 : f 0 = some v) (h : ∀ i, 1 ≤ i → f i = none)
    (n : Nat) : (List.range (n + 1)).filterMap f = [v] := by
  rw [List.range_succ_eq_map, List.filterMap_cons, h0, List.filterMap_map, List.filterMap_eq_nil_iff.mpr]
  exact fun i _ => h (i + 1) (by omega)

/-- An access that stays in one line is one piece. -/
theorem linePieces_within {off n : Nat} (h1 : 1 ≤ n) (h : off % 128 + n ≤ 128) :
    linePieces off n = [(off / 128, off % 128, n)] := by
  refine filterMap_range_first (if_pos ?_ |>.trans ?_) (fun i hi => if_neg ?_) (n / 128 + 1)
  · omega
  · congr <;> omega
  · omega

/-- The die and the line of BAR2 in which a byte of it stands. -/
theorem bar2_place (off : Nat) :
    off / 128 * 128 / bar2Half = off / bar2Half ∧ off / 128 * 128 % bar2Half / 128 = off % bar2Half / 128 := by
  unfold bar2Half
  omega

/-- A line that the host takes: once the home's L2 copy has left, it is the host's, which is answered. -/
theorem takeLine_eq (s : State) {d line : Nat} (hd : d < 2) (hl : inHbm (line * 128) = true) :
    ∃ u : State, u.standing = s.standing ∧ s.takeLine d line = (u.updDie d fun x => { x with
        hostLines := oset x.hostLines line ⟨true, false, (oget x.hostLines line).bind (·.data)⟩ }).send
      (if (s.hostView d line (BitVec.allOnes 1024)).2 = 0 then 23 else 22) (physKey d (line * 128))
      (bytesLe 128 (s.hostView d line (BitVec.allOnes 1024)).1.toNat) := by
  rw [State.takeLine, if_neg (by simp [hl]; omega)]
  refine ⟨_, ?_, rfl⟩
  split
  · exact s.evictL2_standing ..
  · rfl

section
variable {s : State} (hb : s.boot = .running)
include hb

theorem next_ifRunning (t : State) : Host.Outcome.next (s.ifRunning t) = (.next t : Host.Outcome State Fault Refusal) :=
  congrArg Host.Outcome.next (if_pos hb)

/-! ### BAR2 (R370) -/

theorem exec_bar2Read_unbacked {off n : Nat} (h : bar2Backed off n = false) :
    exec (.hostBar2Read off n) s = .next (s.sent 21 off []) :=
  (next_ifRunning hb _).trans (by rw [State.bar2Read, h]; rfl)

theorem exec_bar2Write_unbacked {off : Nat} {data : List Byte} (h : bar2Backed off data.length = false) :
    exec (.hostBar2Write off data) s = .next s :=
  (next_ifRunning hb _).trans (by rw [State.bar2Write, h]; rfl)

theorem exec_bar2Read {off n : Nat} (h : bar2Backed off n = true) (h1 : 1 ≤ n) (hn : off % 128 + n ≤ 128) :
    let v := s.hostView (off / bar2Half) (off % bar2Half / 128) (bytesMask (off % 128) n)
    exec (.hostBar2Read off n) s
      = .next (s.sent (if v.2 = 0 then 20 else 22) off (bytesLe n (lineGet v.1 (off % 128) n))) := by
  refine (next_ifRunning hb _).trans ?_
  obtain ⟨hd, hl⟩ := bar2_place off
  rw [State.bar2Read, h, linePieces_within h1 hn]
  simp only [Bool.not_true, Bool.false_eq_true, if_false, List.map_cons, List.map_nil, hd, hl, List.any_cons, List.any_nil,
    List.flatMap_cons, List.flatMap_nil, List.append_nil, Bool.or_false, bne_iff_ne, ne_eq, ite_not]
  rfl

theorem exec_bar2Write {off : Nat} {data : List Byte} (h : bar2Backed off data.length = true) (h1 : 1 ≤ data.length)
    (hn : off % 128 + data.length ≤ 128) : exec (.hostBar2Write off data) s
      = .next (s.hostMerge (off / bar2Half) (off % bar2Half / 128) (bytesMask (off % 128) data.length)
        (linePut (leBytes data) (off % 128) data.length)) := by
  refine (next_ifRunning hb _).trans ?_
  obtain ⟨hd, hl⟩ := bar2_place off
  rw [State.bar2Write, h, linePieces_within h1 hn]
  simp only [Bool.not_true, Bool.false_eq_true, if_false, List.foldl_cons, List.foldl_nil, hd, hl, List.take_length]

/-! ### Lines that the host takes, returns and reads (R278) -/

theorem exec_hostTakeLine {d line : Nat} (hd : d < 2) (hl : inHbm (line * 128) = true) :
    let v := s.hostView d line (BitVec.allOnes 1024)
    ∃ t, exec (.hostTakeLine d line) s = .next t
      ∧ oget (t.die d).hostLines line = some ⟨true, false, (oget (s.die d).hostLines line).bind (·.data)⟩
      ∧ t.messages = s.messages ++ [⟨if v.2 = 0 then 23 else 22, physKey d (line * 128), bytesLe 128 v.1.toNat⟩] := by
  obtain ⟨u, hu, ht⟩ := takeLine_eq s hd hl
  refine ⟨_, next_ifRunning hb _, ?_⟩
  rw [ht]
  constructor
  · show oget ((u.updDie d _).die d).hostLines line = _
    rw [die_updDie, if_pos Iff.rfl, oget_oset_same, hostLines_of_standing hu]
  · show (u.updDie d _).messages ++ _ = _
    rw [State.updDie_messages, messages_of_standing hu]

theorem exec_hostCoherentRead {d line : Nat} (hd : d < 2) (hl : inHbm (line * 128) = true) :
    let v := s.hostView d line (BitVec.allOnes 1024)
    exec (.hostCoherentRead d line) s = .next ((s.updDie d fun x => { x with
      hostLines := oset x.hostLines line ((oget x.hostLines line).getD ⟨false, false, none⟩) }).sent
        (if v.2 = 0 then 24 else 22) (physKey d (line * 128)) (bytesLe 128 v.1.toNat)) := by
  refine (next_ifRunning hb _).trans ?_
  rw [State.coherentRead, if_neg (by simp [hl]; omega)]
  rfl

theorem exec_host_unbacked {d line : Nat} (h : 2 ≤ d ∨ inHbm (line * 128) = false) :
    exec (.hostTakeLine d line) s = .next (s.sent 21 (physKey d (line * 128)) [])
      ∧ exec (.hostCoherentRead d line) s = .next (s.sent 21 (physKey d (line * 128)) []) := by
  have hc : (decide (2 ≤ d) || !inHbm (line * 128)) = true := by simpa using h
  refine ⟨(next_ifRunning hb _).trans ?_, (next_ifRunning hb _).trans ?_⟩
  · rw [State.takeLine, if_pos hc]
    rfl
  · rw [State.coherentRead, if_pos hc]
    rfl

theorem exec_hostLineWriteback_unheld {d line : Nat} (data : List Byte) (h : oget (s.die d).hostLines line = none) :
    exec (.hostLineWriteback d line data) s = .next s :=
  (next_ifRunning hb _).trans (by rw [State.lineBack, h]; rfl)

theorem exec_hostLineWriteback {d line : Nat} {data : List Byte} (hn : data.length = 128)
    (h : (oget (s.die d).hostLines line).isSome = true) : exec (.hostLineWriteback d line data) s
      = .next ((s.hostMerge d line (BitVec.allOnes 1024) (linePut (leBytes data) 0 128)).updDie d fun x => { x with
        hostLines := odel x.hostLines line }) := by
  refine (next_ifRunning hb _).trans ?_
  rw [State.lineBack, if_neg (by simpa [Option.isSome_iff_ne_none] using h), List.take_of_length_le hn.le]

/-! ### Inbound RMA (R377 to R379) -/

section
variable {d job ridx va : Nat}

theorem exec_rmaWrite_refused {data : List Byte} (h : (s.inbound d job ridx 2 va data.length).2 = none) :
    exec (.inboundRmaWrite d job ridx va data) s
      = .next ((s.inbound d job ridx 2 va data.length).1.sent 33 va []) :=
  (next_ifRunning hb _).trans (by simp only [State.rmaWrite, h]; rfl)

theorem exec_rmaWrite {data : List Byte} {sp : Nat} {l} (h : (s.inbound d job ridx 2 va data.length).2 = some (sp, l))
    (hl : s.inboundHeld l = none) : exec (.inboundRmaWrite d job ridx va data) s
      = .next (((s.inbound d job ridx 2 va data.length).1.inboundMerge sp l data).sent 30 va []) :=
  (next_ifRunning hb _).trans (by simp only [State.rmaWrite, h, hl]; rfl)

theorem exec_rmaRead_refused {n : Nat} (h : (s.inbound d job ridx 1 va n).2 = none) :
    exec (.inboundRmaRead d job ridx va n) s = .next ((s.inbound d job ridx 1 va n).1.sent 33 va []) :=
  (next_ifRunning hb _).trans (by simp only [State.rmaRead, h]; rfl)

theorem exec_rmaRead {n sp : Nat} {l} (h : (s.inbound d job ridx 1 va n).2 = some (sp, l)) (hl : s.inboundTaken l = []) :
    let v := (s.inbound d job ridx 1 va n).1.inboundView sp l
    exec (.inboundRmaRead d job ridx va n) s
      = .next ((s.inbound d job ridx 1 va n).1.sent (if v.2 = true then 32 else 31) va v.1) :=
  (next_ifRunning hb _).trans (by simp only [State.rmaRead, h, hl]; rfl)

theorem exec_rmaAtomic_refused (w : Word) (h : (s.inbound d job ridx 3 va 8).2 = none ∨ va % 8 ≠ 0) :
    exec (.inboundRmaAtomic d job ridx va w) s = .next ((s.inbound d job ridx 3 va 8).1.sent 33 va []) := by
  have hr : (if va % 8 = 0 then (s.inbound d job ridx 3 va 8).2 else none) = none := by
    rcases h with h | h <;> simp [h]
  exact (next_ifRunning hb _).trans (by simp only [State.rmaAtomic, hr]; rfl)

theorem exec_rmaAtomic (w : Word) {sp : Nat} {l} (h : (s.inbound d job ridx 3 va 8).2 = some (sp, l)) (hv : va % 8 = 0)
    (hl : s.inboundHeld l = none) : exec (.inboundRmaAtomic d job ridx va w) s
      = .next (((s.inbound d job ridx 3 va 8).1.inboundMerge sp l
        (bytesLe 8 (leBytes ((s.inbound d job ridx 3 va 8).1.inboundView sp l).1 + w.toNat))).sent 30 va []) :=
  (next_ifRunning hb _).trans (by simp only [State.rmaAtomic, h, hv, hl, if_true]; rfl)

end

end

/-- Settles O57: the words of the host and of a peer one by one, each through its own answer. -/
theorem hostAccesses : Obligations.HostAccesses := by
  intro s
  refine ⟨fun i hi hb => exec_beforePorts hb hi, fun hb => ⟨fun off n h => exec_bar2Read_unbacked hb h,
    fun off data h => exec_bar2Write_unbacked hb h, fun off n h h1 hn => exec_bar2Read hb h h1 hn,
    fun off data h h1 hn => exec_bar2Write hb h h1 hn,
    fun d line hd hl => ⟨exec_hostTakeLine hb hd hl, exec_hostCoherentRead hb hd hl⟩,
    fun d line h => exec_host_unbacked hb h,
    fun d line data => ⟨exec_hostLineWriteback_unheld hb data, exec_hostLineWriteback hb⟩,
    fun d job ridx va data => ⟨exec_rmaWrite_refused hb, fun sp l => exec_rmaWrite hb⟩,
    fun d job ridx va n => ⟨exec_rmaRead_refused hb, fun sp l => exec_rmaRead hb⟩,
    fun d job ridx va w => ⟨exec_rmaAtomic_refused hb w, fun sp l => exec_rmaAtomic hb w⟩,
    fun d kind => next_ifRunning hb _⟩⟩

end Sys2Proof.Machine
end

section
/-!
SUPPORT. The precise memory faults of an access, against the state before it (R67, R98). The model looks every active
address up before it checks any of them: where the core's 1,024 summary entries are full, what one lane brings in puts out
the entry of another, whose check then reads the table and not the entry that the core had.
-/

namespace Sys2Proof.Machine

/-- A byte load of lanes 0 and 1, from 0 and from 1.5 TiB up. -/
def evictingLoad : Instr := .ldb 9 1 0 0 7

def evictingGroup : Group := { Group.zero with
  v := [(33, 0x17700000000)]
  live := BitVec.allOnes 32 }

def evictingCtx : IssueCtx := ⟨1, 0, 3, BitVec.allOnes 32, 0, 0, 4, 0, none, 0, 0, .none⟩

/-- A core whose 1,024 summary entries grant everything below 1 TiB of space 0, over tables that grant nothing. -/
def evictingState : State := { State.reset with
  blocks := [(1, some { Block.zero with life := .resident, groups := [(0, some evictingGroup)] })]
  cores := [(0, some { Core.zero with summary := (List.range 1024).map fun i => (i, some (7, [])) })]
  boot := .running
  agenda := []
  cur := some evictingCtx }

/-- The detail of the trap that the word at issue has taken. -/
def State.trapDetail (s : State) : Option (BitVec 96) :=
  s.cur.bind fun c => match c.res with
    | .trapped t => some t.detail
    | _ => none

theorem trapDetail_mark_trapped (s : State) (t : Trap) : (s.mark (.trapped t)).trapDetail = s.cur.map fun _ => t.detail := by
  unfold State.mark State.trapDetail
  cases s.cur <;> rfl

/-- Lane 1's entry takes the place of lane 0's, so that both lanes fail. -/
theorem exec_evictingLoad : ∃ t, exec evictingLoad evictingState = .next t ∧ t.trapDetail = some 0x300000003 :=
  ⟨_, rfl, by decide +kernel⟩

/-- Refutes O23: before the load the core grants lane 0's address, and the fault names lane 0 too. -/
theorem not_accessFaults : ¬ Obligations.AccessFaults := by
  intro h
  obtain ⟨faults, -⟩ := h evictingLoad evictingCtx evictingState _ 1 1 3 rfl (by decide +kernel)
  obtain ⟨y, hy, -⟩ := faults (by decide +kernel) ⟨1, by decide +kernel, by decide +kernel⟩ (by decide +kernel)
  obtain ⟨t, ht, hd⟩ := exec_evictingLoad
  rw [ht, Host.Outcome.next.injEq] at hy
  rw [hy, trapDetail_mark_trapped, Option.map_eq_some_iff] at hd
  obtain ⟨-, -, hd⟩ := hd
  revert hd
  decide +kernel

end Sys2Proof.Machine
end

section
/-!
SUPPORT. What a merge at a home may move beside its own line (R82, R252, R254). A line that has only given held copies
their marks takes a way of its own once data is merged into it; where its set is full, another line of the L2 gives way,
is written back and leaves the L2.
-/

namespace Sys2Proof.Machine

/-- What reads again does not touch the dies. -/
theorem wake_die (s : State) (space line d : Nat) : (s.wake space line).die d = s.die d := by
  refine foldl_kept (P := fun t => t.die d = s.die d) (fun t b h => ?_) _ s rfl
  split
  · exact h
  · refine foldl_kept (P := fun t => t.die d = s.die d) (fun u g h => ?_) _ t h
    split
    · simpa [State.die] using h
    · exact h

theorem oget_updL2_ne (s : State) (d e : Nat) (f : L2Line → L2Line) {k key : Nat} (h : k ≠ key) :
    oget ((s.updL2 d key f).die e).l2 k = oget (s.die e).l2 k := by
  unfold State.updL2
  rw [die_updDie]
  split
  · unfold oupd
    dsimp only
    split
    · rfl
    · exact oget_oset_ne _ _ h
  · rfl

theorem refreshRemote_l2_ne (s : State) (d e : Nat) (mask data : Line) {k key : Nat} (h : k ≠ key) :
    oget ((s.refreshRemote d key mask data).die e).l2 k = oget (s.die e).l2 k :=
  oget_updL2_ne s d e _ h

/-- Two keys of lines that fall in one set, whichever set a key falls in. -/
theorem exists_setMate : ∃ k j : Nat, k < j ∧ Config.l2Set k % l2Sets = Config.l2Set j % l2Sets := by
  obtain ⟨k, j, hne, h⟩ := Finite.exists_ne_map_eq_of_infinite
    fun n : Nat => (⟨Config.l2Set n % l2Sets, Nat.mod_lt _ (by decide)⟩ : Fin l2Sets)
  have h := congrArg Fin.val h
  exact (Nat.lt_or_gt_of_ne hne).elim (fun hl => ⟨k, j, hl, h⟩) fun hl => ⟨j, k, hl, h.symm⟩

/-- A clean line in way 7. -/
def lineInWay7 : L2Line := { L2Line.empty with valid := 1, way7 := true }

/-- A die whose L2 has the marks of line `k` and, in way 7, line `j`. -/
def crowdedDie (k j : Nat) : Die := { Die.zero with l2 := [(k, some L2Line.empty), (j, some lineInWay7)] }

/-- The package with such dies, and a block whose seven commits have copies of line `k` on the way to its home. -/
def crowdedState (k j : Nat) : State := { State.reset with
  blocks := [(1, some { Block.zero with
    commits := List.replicate 7 ⟨5, [(k, some ⟨0, 0, 0, 0, ownerOfLine k, 0, false, true, 0⟩)], []⟩ })]
  die0 := crowdedDie k j
  die1 := crowdedDie k j }

def crowdingParty : Party := ⟨1, 0, 0, 0, false, 0, 0⟩

section
variable {k j : Nat}

theorem crowdedState_die (d : Nat) : (crowdedState k j).die d = crowdedDie k j := by
  unfold State.die
  split <;> rfl

theorem crowdedState_copiesOn : (crowdedState k j).copiesOn (ownerOfLine k) = List.replicate 7 (k, 1, none) := by
  simp [State.copiesOn, crowdedState, oitems, List.replicate, lineKey, Block.zero]

theorem crowdedDie_marks : (crowdedDie k j).l2At k = some L2Line.empty := by
  simp [crowdedDie, Die.l2At, oget, sget]

theorem crowdedDie_mate (hk : k ≠ j) :
    (crowdedDie k j).l2At j = some lineInWay7 := by
  simp [crowdedDie, Die.l2At, oget, sget, hk]

/-- The clean line `j` just leaves. -/
theorem evictL2_crowded (hk : k ≠ j) (d : Nat) : (crowdedState k j).evictL2 d j
    = (crowdedState k j).updDie d fun y => { y with l2 := odel y.l2 j } := by
  have tags : (crowdedState k j).moveTags d j = crowdedState k j := by
    simp [State.moveTags, crowdedState_die, crowdedDie, Die.zero, oget, sget]
  rw [State.evictL2, crowdedState_die, crowdedDie_mate hk, tags]
  exact if_pos (by simp [lineInWay7, L2Line.empty])

/-- The seven copies fill ways 0 to 6 of the set, so that line `j` in way 7 gives way. -/
theorem roomL2_crowded (hk : k ≠ j) (hs : Config.l2Set k % l2Sets = Config.l2Set j % l2Sets) :
    (crowdedState k j).roomL2 (ownerOfLine k) k false
      = ((crowdedState k j).evictL2 (ownerOfLine k) j, some true) := by
  have items : oitems (crowdedDie k j).l2 = [(k, L2Line.empty), (j, lineInWay7)] := rfl
  have count : (crowdedDie k j).l2.length = 2 := rfl
  have secded : (crowdedDie k j).decTed = false := rfl
  have way7 : lineInWay7.way7 = true := rfl
  rw [State.roomL2, crowdedState_copiesOn, crowdedState_die]
  simp [items, count, secded, way7, hs, hk, hk.symm, victim, crowdedDie_mate hk]

/-- Line `k` is given way 7 before data is merged into it. -/
theorem ownWay_crowded (hk : k ≠ j) (hs : Config.l2Set k % l2Sets = Config.l2Set j % l2Sets) :
    (crowdedState k j).ownWay (ownerOfLine k) k = (((crowdedState k j).evictL2 (ownerOfLine k) j).updL2 (ownerOfLine k) k
      fun x => { x with way7 := true }, true) := by
  have held : ((crowdedState k j).copiesOn (ownerOfLine k)).any (·.1 == k) = true := by
    simp [crowdedState_copiesOn, List.replicate]
  rw [State.ownWay, roomL2_crowded hk hs, held, crowdedState_die, crowdedDie_marks]
  exact if_neg (by simp [L2Line.empty])

/-- The L2 once line `k` has way 7: no other line is left of it. -/
theorem l2_ownWay_crowded (hk : k ≠ j) (hs : Config.l2Set k % l2Sets = Config.l2Set j % l2Sets) :
    (((crowdedState k j).ownWay (ownerOfLine k) k).1.die (ownerOfLine k)).l2
      = [(k, some { L2Line.empty with way7 := true })] := by
  rw [ownWay_crowded hk hs, evictL2_crowded hk, State.updL2, die_updDie, if_pos Iff.rfl, die_updDie, if_pos Iff.rfl,
    crowdedState_die]
  simp [crowdedDie, odel, serase, oupd, oget, sget, oset, sset, sinsert, hk]

theorem l2_pocWrite_crowded (hk : k ≠ j) (hs : Config.l2Set k % l2Sets = Config.l2Set j % l2Sets) :
    oget (((crowdedState k j).pocWrite (ownerOfLine k) k 0 0 0 0).die (ownerOfLine k)).l2 j = none := by
  have l2 := l2_ownWay_crowded hk hs
  have marks : (((crowdedState k j).ownWay (ownerOfLine k) k).1.die (ownerOfLine k)).l2At k
      = some { L2Line.empty with way7 := true } := by
    simp [Die.l2At, l2, oget, sget]
  have way : ((crowdedState k j).ownWay (ownerOfLine k) k).2 = true := by rw [ownWay_crowded hk hs]
  rw [State.pocWrite, marks, way]
  dsimp only
  rw [if_neg (by simp [L2Line.empty]), die_updDie, if_pos Iff.rfl, oget_oset_ne _ _ hk.symm, l2]
  simp [oget, sget, hk]

end

/-- What a merge changes of the L2s beside its own line is what its write at the point of coherence does. -/
theorem mergeLine_l2_ne (s : State) (P : Party) {line pa : Nat} (bitmap : Nat) (mask data : Line) (hp : inHost pa = false)
    (e : Nat) {k : Nat} (h : k ≠ lineKey P.space line) : oget ((s.mergeLine P line pa bitmap false mask data).die e).l2 k
      = oget ((s.pocWrite (ownerOfLine line) (lineKey P.space line) pa bitmap mask data).die e).l2 k := by
  unfold State.mergeLine
  dsimp only
  rw [if_neg Bool.false_ne_true, hp, if_neg Bool.false_ne_true, wake_die]
  split
  · exact refreshRemote_l2_ne _ _ _ _ _ h
  · rfl

theorem lineKey_zero (line : Nat) : lineKey 0 line = line := by simp [lineKey]

/-- Refutes O35: line `j` of the L2 leaves it when data is merged into line `k`. -/
theorem not_homeWritesAndWritesBack : ¬ Obligations.HomeWritesAndWritesBack := by
  rintro ⟨merge, -⟩
  obtain ⟨k, j, hlt, hs⟩ := exists_setMate
  have hk : k ≠ j := hlt.ne
  have hkey : lineKey crowdingParty.space k = k := lineKey_zero k
  have masked : ByteMask 0 := fun i _ => .inl (by simp)
  have free : (crowdedState k j).mscFree (ownerOfLine k) (0 / 128) := by
    rw [State.mscFree, crowdedState_die]
    exact ⟨fun x hx => by simp [crowdedDie, Die.zero, oget, sget] at hx, .inr (by simp [crowdedDie, Die.zero, setMates])⟩
  have cacheable (x : L2Line) (hx : oget ((crowdedState k j).die (ownerOfLine k)).l2 (lineKey crowdingParty.space k) = some x) :
      x.unc = false := by
    rw [crowdedState_die, hkey] at hx
    rw [Option.some.inj (hx.symm.trans crowdedDie_marks)]
    rfl
  obtain ⟨-, others, -⟩ := merge (crowdedState k j) crowdingParty k 0 0 0 0 0 (by decide) rfl masked masked cacheable free
  have stays := others j (by rw [hkey]; exact hk.symm)
  rw [mergeLine_l2_ne _ _ _ _ _ rfl _ (by rw [hkey]; exact hk.symm), hkey, l2_pocWrite_crowded hk hs, crowdedState_die] at stays
  exact absurd (stays.trans (crowdedDie_mate hk)) (by simp)

end Sys2Proof.Machine
end

section
/-!
SUPPORT. The probe of a waiting store (R248): what its answer does to the L2 line that is to hold the block's copy (R252), and
to the lanes that wait on the line.
-/

namespace Sys2Proof.Machine

variable {s : State}

/-! ### The words -/

theorem exec_translateProbe {b uid line : Nat} {a : Access} (ha : s.entry (s.blk b).core uid = some a)
    (hw : a.waitsOn line ≠ 0) :
    let r := s.translate (s.blk b).space (BitVec.ofNat 64 (line * 128)) 2
    exec (.translateProbe b uid line) s = .next ((r.1.updEntry (s.blk b).core uid fun a =>
      a.updReq line fun q => { q with served := true, x := r.2 }).post (.probeReply b uid line)) := by
  show Host.Outcome.next (s.translateProbe b uid line) = _
  rw [State.translateProbe, ha]
  exact congrArg Host.Outcome.next (if_neg (by simpa using hw))

theorem exec_probeReply {b uid line : Nat} {a : Access} (ha : s.entry (s.blk b).core uid = some a) {q : LineReq}
    (hp : a.poc = false) (hq : a.req line = some q) : exec (.probeReply b uid line) s = .next
      (if q.x.code = 0 then
        ((s.markLine (s.partyOf b) line q.x (if a.hint = 2 then 0 else a.hint)).settleStores (s.blk b).core).settleBlock b
      else ((s.failLine (s.blk b).core (s.blk b).space line q.x.code).settleStores (s.blk b).core).settleBlock b) := by
  show Host.Outcome.next (s.probeReply b uid line) = _
  rw [State.probeReply, ha]
  dsimp only
  rw [hq]
  by_cases hc : q.x.code = 0 <;> simp [hp, hc, Access.cls, l2Class]

/-! ### The marked line -/

theorem oget_updL2_same (s : State) (d key : Nat) (f : L2Line → L2Line) :
    oget ((s.updL2 d key f).die d).l2 key = (oget (s.die d).l2 key).map f := by
  rw [State.updL2, die_updDie, if_pos Iff.rfl, oupd]
  cases h : oget (s.die d).l2 key with
  | none => exact h
  | some x => exact oget_oset_same ..

/-- A change of the class of some line leaves the rest of a line. -/
theorem oget_recls {d key : Nat} {x : L2Line} (h : oget (s.die d).l2 key = some x) (v cls : Nat) :
    ∃ c, oget ((s.updL2 d v fun y => { y with cls := cls }).die d).l2 key = some { x with cls := c } := by
  by_cases hv : key = v
  · exact ⟨cls, by rw [← hv, oget_updL2_same, h]; rfl⟩
  · exact ⟨x.cls, by rw [oget_updL2_ne _ _ _ _ hv, h]⟩

theorem oget_limitKeepL2 {d key : Nat} {x : L2Line} (h : oget (s.die d).l2 key = some x) (k : Nat) :
    ∃ c, oget ((s.limitKeepL2 d k).die d).l2 key = some { x with cls := c } := by
  unfold State.limitKeepL2
  dsimp only
  split
  · exact oget_recls h _ 0
  · exact ⟨x.cls, h⟩

/-- A line that stands in an L2 keeps all but its class, and that too while it holds data. -/
theorem placeL2_of_some {d key : Nat} {x : L2Line} (h : oget (s.die d).l2 key = some x) (cls : Nat) :
    ∃ c, oget ((s.placeL2 d key cls).die d).l2 key = some { x with cls := c } ∧ (x.valid ≠ 0 → c = x.cls) := by
  rw [State.placeL2, show (s.die d).l2At key = some x from h]
  dsimp only
  split
  · exact ⟨x.cls, h, fun _ => rfl⟩
  · next hc =>
    have hv : x.valid = 0 := by simp at hc; exact hc.1
    obtain ⟨c, hl⟩ : ∃ c, oget ((if cls = 3 then s.limitKeepL2 d key else s).die d).l2 key = some { x with cls := c } := by
      split
      · exact oget_limitKeepL2 h key
      · exact ⟨x.cls, h⟩
    exact ⟨cls, by rw [oget_updL2_same, hl]; rfl, fun hn => absurd hv hn⟩

/-- Where no way is found nothing has given way. -/
theorem roomL2_none {d key : Nat} {copy : Bool} (h : (s.roomL2 d key copy).2 = none) : (s.roomL2 d key copy).1 = s := by
  revert h
  unfold State.roomL2
  dsimp only
  split
  · simp
  · split
    · simp
    · split
      · simp
      · split <;> simp

/-- A line that is not in an L2 is put there empty, unless held copies have every way of its set. -/
theorem placeL2_of_none {d key : Nat} (h : oget (s.die d).l2 key = none) (cls : Nat) :
    (oget ((s.placeL2 d key cls).die d).l2 key = none ∧ (s.roomL2 d key false).2 = none)
      ∨ ∃ y, oget ((s.placeL2 d key cls).die d).l2 key = some y ∧ y.valid = 0 ∧ y.dirty = 0 ∧ y.cls = cls := by
  rw [State.placeL2, show (s.die d).l2At key = none from h]
  dsimp only
  rcases hr : s.roomL2 d key false with ⟨t, _ | w⟩
  · have ht : t = s := by simpa [hr] using roomL2_none (s := s) (d := d) (key := key) (copy := false) (by rw [hr])
    exact .inl ⟨by rw [ht]; exact h, rfl⟩
  · refine .inr ⟨{ L2Line.empty with cls := cls, age := s.cycles.toNat, way7 := w }, ?_, rfl, rfl, rfl⟩
    dsimp only
    rw [die_updDie, if_pos Iff.rfl]
    exact oget_oset_same ..

theorem oget_markL2 (s : State) (d key : Nat) (x : Xlate) (cls : Nat) : oget ((s.markL2 d key x cls).die d).l2 key
    = (oget ((s.placeL2 d key cls).die d).l2 key).map fun old => { old with
      pa := x.pa / 128 * 128
      bitmap := x.bitmap
      rMark := x.entry.getLsbD 3
      wMark := x.entry.getLsbD 4
      sieve := x.entry.getLsbD 60
      unc := inHost x.pa } :=
  oget_updL2_same ..

/-- What the answer of a good probe leaves in the L2 that is to hold the copy (R248, R252, R253). -/
theorem markLine_effect (s : State) (P : Party) (line cls : Nat) (x : Xlate) :
    let d := if P.det then ownerOfLine line else dieOfCore P.core
    let key := lineKey P.space line
    let t := s.markL2 d key x cls
    (oget (t.die d).l2 key = none →
      oget (s.die d).l2 key = none ∧ (s.roomL2 d key false).2 = none ∧ s.markLine P line x cls = (t.pressure P line).1)
    ∧ ∀ y, oget (t.die d).l2 key = some y → s.markLine P line x cls = t ∧ y.pa = x.pa / 128 * 128 ∧ y.bitmap = x.bitmap
      ∧ y.rMark = x.entry.getLsbD 3 ∧ y.wMark = x.entry.getLsbD 4 ∧ y.sieve = x.entry.getLsbD 60 ∧ y.unc = inHost x.pa
      ∧ (oget (s.die d).l2 key = none → y.valid = 0 ∧ y.dirty = 0 ∧ y.cls = cls)
      ∧ (∀ o, oget (s.die d).l2 key = some o → y.data = o.data ∧ y.valid = o.valid ∧ y.dirty = o.dirty ∧ y.poison = o.poison
        ∧ (o.valid ≠ 0 → y.cls = o.cls)) := by
  intro d key t
  have hm : s.markLine P line x cls = if (oget (t.die d).l2 key).isSome then t else (t.pressure P line).1 := rfl
  have hl : oget (t.die d).l2 key = _ := oget_markL2 s d key x cls
  refine ⟨fun hn => ?_, fun y hy => ?_⟩
  · rw [hl, Option.map_eq_none_iff] at hn
    have absent : oget (s.die d).l2 key = none := by
      cases ho : oget (s.die d).l2 key with
      | none => rfl
      | some o =>
        obtain ⟨c, hc, -⟩ := placeL2_of_some ho cls
        simp [hc] at hn
    refine ⟨absent, ?_, ?_⟩
    · rcases placeL2_of_none absent cls with ⟨-, h⟩ | ⟨y, hy, -⟩
      · exact h
      · simp [hy] at hn
    · rw [hm, hl, hn]
      rfl
  · rw [hm, hy]
    rw [hl, Option.map_eq_some_iff] at hy
    obtain ⟨z, hz, rfl⟩ := hy
    refine ⟨rfl, rfl, rfl, rfl, rfl, rfl, rfl, fun hn => ?_, fun o ho => ?_⟩
    · rcases placeL2_of_none hn cls with ⟨h, -⟩ | ⟨y, hy, hv, hd, hcls⟩
      · simp [h] at hz
      · obtain rfl := Option.some.inj (hz.symm.trans hy)
        exact ⟨hv, hd, hcls⟩
    · obtain ⟨c, hc, hcls⟩ := placeL2_of_some ho cls
      obtain rfl := Option.some.inj (hz.symm.trans hc)
      exact ⟨rfl, rfl, rfl, rfl, hcls⟩

/-! ### Failed lanes -/

theorem getLsbD_foldl_lanes (f : Nat → Bool) (l : List Nat) (m : Mask) {L : Nat} (hL : L < 32) :
    (l.foldl (fun m L => if f L then m ||| BitVec.twoPow 32 L else m) m).getLsbD L
      = (m.getLsbD L || (decide (L ∈ l) && f L)) := by
  induction l generalizing m with
  | nil => simp
  | cons a l ih =>
    rw [List.foldl_cons, ih]
    by_cases h : L = a
    · subst h
      cases hf : f L <;> simp [hL]
    · cases hf : f a <;> simp [h, hL]

theorem getLsbD_maskOf (f : Nat → Bool) {L : Nat} (hL : L < 32) : (maskOf f).getLsbD L = f L := by
  rw [maskOf, getLsbD_foldl_lanes f _ _ hL]
  simp [hL]

theorem getLsbD_waitsOn (a : Access) (line : Nat) {L : Nat} (hL : L < 32) : (a.waitsOn line).getLsbD L = true
    ↔ a.wait.getLsbD L = true ∧ a.fault.getLsbD L = false ∧ a.conf.getLsbD L = false ∧ lineNo (a.vaAt L) = line := by
  rw [Access.waitsOn, getLsbD_maskOf _ hL]
  simp [hL, and_assoc]

theorem getD_foldl_set (c : Nat) (l : List Nat) (v : List Nat) {L : Nat} (hL : L < v.length) :
    (l.foldl (fun v L => v.set L c) v).getD L 0 = if L ∈ l then c else v.getD L 0 := by
  induction l generalizing v with
  | nil => simp
  | cons a l ih =>
    rw [List.foldl_cons, ih _ (by simpa using hL)]
    by_cases h : L = a
    · subst h
      simp [hL]
    · simp [h, List.getElem?_set_ne (Ne.symm h)]

/-- A fault that does not conflict is noted for its lanes, with its cause. -/
theorem failLanes_effect (a : Access) (m : Mask) (code : Nat) {L : Nat} (hL : L < 32) :
    (a.failLanes m false code).fault = a.fault ||| m ∧ (a.failLanes m false code).conf = a.conf
      ∧ (a.failLanes m false code).wait = a.wait
      ∧ (a.lcause.length = 32 → (a.failLanes m false code).lcause.getD L 0 = if m.getLsbD L then code else a.lcause.getD L 0) := by
  refine ⟨rfl, rfl, rfl, fun h => ?_⟩
  show ((lanesOf m).foldl _ a.lcause).getD L 0 = _
  rw [getD_foldl_set code _ _ (by omega)]
  simp [mem_lanesOf, hL]

/-! ### Every entry that waits on the line -/

theorem space_blk_updGrp (s : State) (b g : Nat) (f : Group → Group) (c : Nat) :
    ((s.updGrp b g f).blk c).space = (s.blk c).space := by
  by_cases hc : c = b
  · subst hc
    rcases Laws.updGrp_cases s c g f with h | h | h
    · rw [h]
    · rw [h, blk_setBlk_same]
    · rw [h, blk_setGrp]
      rfl
  · rcases Laws.updGrp_cases s b g f with h | h | h
    · rw [h]
    · rw [h, blk_setBlk_ne s _ hc]
    · rw [h, State.setGrp, blk_setBlk_ne s _ hc]

theorem lsb_setLsb (s : State) (k : Nat) (l : List Access) : (s.setLsb k l).lsb k = l := by
  simp [State.setLsb, State.lsb]

theorem lsb_faultsReady (s : State) (b g : Nat) (l : List DefFault) (k : Nat) : (s.faultsReady b g l).lsb k = s.lsb k := by
  unfold State.faultsReady
  split <;> simp [State.lsb, State.core]

theorem space_faultsReady (s : State) (b g : Nat) (l : List DefFault) (c : Nat) :
    ((s.faultsReady b g l).blk c).space = (s.blk c).space := by
  unfold State.faultsReady
  split
  · rfl
  · simp only [State.blk, State.postOnce_blocks]
    exact space_blk_updGrp ..

/-- An entry with a lane that waits is not removed when its lanes have faulted. -/
theorem closeEntry_waiting {k uid : Nat} {a : Access} (ha : s.entry k uid = some a) (hw : a.wait ≠ 0) :
    (s.closeEntry k uid).lsb k = s.lsb k ∧ ∀ c, ((s.closeEntry k uid).blk c).space = (s.blk c).space := by
  rw [State.closeEntry, ha]
  dsimp only
  rw [if_neg (by simpa using hw)]
  split
  · split
    · exact ⟨rfl, fun _ => rfl⟩
    · exact ⟨lsb_faultsReady .., space_faultsReady _ _ _ _⟩
  · exact ⟨rfl, fun _ => rfl⟩

theorem wait_of_waitsOn {a : Access} {line : Nat} (h : a.waitsOn line ≠ 0) : a.wait ≠ 0 := by
  rintro hw
  refine h (BitVec.eq_of_getLsbD_eq fun L hL => ?_)
  simpa [hw] using mt (getLsbD_waitsOn a line hL).1 (by simp [hw])

/-- A waiting store of a space with lanes that wait on a line fails in them; any other entry stays. -/
def State.failed (s : State) (space line code : Nat) (e : Access) : Access :=
  if e.kind = 2 ∧ e.poc = false ∧ (s.blk e.blk).space = space ∧ e.waitsOn line ≠ 0 then
    e.failLanes (e.waitsOn line) false code
  else e

theorem uid_failed (s : State) (space line code : Nat) (e : Access) : (s.failed space line code e).uid = e.uid := by
  unfold State.failed
  split <;> rfl

section
variable {e : Access} {pre post : List Access} (hn : ((pre ++ e :: post).map (·.uid)).Nodup)
include hn

theorem uid_ne_of_nodup : (∀ a ∈ pre, a.uid ≠ e.uid) ∧ ∀ a ∈ post, a.uid ≠ e.uid := by
  rw [List.map_append, List.map_cons, List.nodup_append, List.nodup_cons] at hn
  obtain ⟨-, ⟨hpost, -⟩, hpre⟩ := hn
  exact ⟨fun a ha => hpre _ (List.mem_map_of_mem ha) _ List.mem_cons_self,
    fun a ha h => hpost (List.mem_map.2 ⟨a, ha, h⟩)⟩

/-- A change by uid reaches one entry. -/
theorem map_uid (f : Access → Access) : (pre ++ e :: post).map (fun a => if a.uid = e.uid then f a else a)
    = pre ++ f e :: post := by
  obtain ⟨hpre, hpost⟩ := uid_ne_of_nodup hn
  rw [List.map_append, List.map_cons, if_pos rfl, List.map_congr_left fun a ha => if_neg (hpre a ha),
    List.map_congr_left fun a ha => if_neg (hpost a ha), List.map_id', List.map_id']

theorem find_uid {a : Access} (ha : a.uid = e.uid) : (pre ++ a :: post).find? (fun x => x.uid == e.uid) = some a := by
  rw [List.find?_append, List.find?_eq_none.2 fun x hx => by simpa using (uid_ne_of_nodup hn).1 x hx, Option.none_or,
    List.find?_cons_of_pos (by simpa using ha)]

end

/-- The lanes of one entry of a store buffer fail. -/
theorem fail_entry {t : State} {k line code : Nat} {e : Access} {pre post : List Access} (hl : t.lsb k = pre ++ e :: post)
    (hn : ((pre ++ e :: post).map (·.uid)).Nodup) (hw : e.waitsOn line ≠ 0) :
    let u := (t.updEntry k e.uid fun a => a.failLanes (a.waitsOn line) false code).closeEntry k e.uid
    u.lsb k = pre ++ e.failLanes (e.waitsOn line) false code :: post ∧ ∀ c, (u.blk c).space = (t.blk c).space := by
  have hl' : (t.updEntry k e.uid fun a => a.failLanes (a.waitsOn line) false code).lsb k
      = pre ++ e.failLanes (e.waitsOn line) false code :: post := by
    rw [State.updEntry, lsb_setLsb, hl, map_uid hn]
  have entry : (t.updEntry k e.uid fun a => a.failLanes (a.waitsOn line) false code).entry k e.uid
      = some (e.failLanes (e.waitsOn line) false code) := by
    rw [State.entry, hl']
    exact find_uid hn rfl
  obtain ⟨hlsb, hspace⟩ := closeEntry_waiting entry (wait_of_waitsOn (a := e) hw)
  exact ⟨hlsb.trans hl', hspace⟩

theorem foldl_failed {k space line code : Nat} (post : List Access) : ∀ (pre : List Access) (t : State),
    t.lsb k = pre ++ post → ((pre ++ post).map (·.uid)).Nodup → (∀ c, (t.blk c).space = (s.blk c).space) →
    (post.foldl (fun s e =>
      if e.kind = 2 && !e.poc && (s.blk e.blk).space == space && e.waitsOn line != 0 then
        (s.updEntry k e.uid fun a => a.failLanes (a.waitsOn line) false code).closeEntry k e.uid
      else s) t).lsb k = pre ++ post.map (s.failed space line code) := by
  induction post with
  | nil => exact fun pre t hl _ _ => hl
  | cons e post ih =>
    intro pre t hl hn hs
    obtain ⟨u, hu, hul, hus⟩ : ∃ u, (if e.kind = 2 && !e.poc && (t.blk e.blk).space == space && e.waitsOn line != 0 then
        (t.updEntry k e.uid fun a => a.failLanes (a.waitsOn line) false code).closeEntry k e.uid
      else t) = u ∧ u.lsb k = (pre ++ [s.failed space line code e]) ++ post ∧ ∀ c, (u.blk c).space = (s.blk c).space := by
      refine ⟨_, rfl, ?_⟩
      rw [List.append_assoc, List.singleton_append, State.failed]
      split
      · next hc =>
        simp only [Bool.and_eq_true, decide_eq_true_eq, Bool.not_eq_true', beq_iff_eq, bne_iff_ne, hs, and_assoc] at hc
        obtain ⟨hlsb, hspace⟩ := fail_entry (code := code) hl hn hc.2.2.2
        rw [if_pos hc]
        exact ⟨hlsb, fun c => (hspace c).trans (hs c)⟩
      · next hc =>
        simp only [Bool.and_eq_true, decide_eq_true_eq, Bool.not_eq_true', beq_iff_eq, bne_iff_ne, hs, and_assoc] at hc
        rw [if_neg hc]
        exact ⟨hl, hs⟩
    rw [List.foldl_cons, hu, ih _ u hul ?_ hus, List.append_assoc, List.map_cons, List.singleton_append]
    simpa [uid_failed] using hn

/-- A fault of a line fails the lanes of the core's stores that wait on it, and no other (R248). -/
theorem lsb_failLine (s : State) (k space line code : Nat) (h : (s.lsb k).Pairwise fun e f => e.uid ≠ f.uid) :
    (s.failLine k space line code).lsb k = (s.lsb k).map (s.failed space line code) :=
  foldl_failed (s.lsb k) [] s rfl (List.pairwise_map.2 h) fun _ => rfl

end Sys2Proof.Machine
end

section
/-!
SUPPORT. The walk of the page tables (R57 to R61), the owner records of a fill (R62), and the translation of a request at its
home with its counter and its notification (R60, R64, R69, R70).
-/

namespace Sys2Proof.Machine

variable {s : State}

/-! ### The walk -/

theorem inHbm_iff (pa : Nat) : inHbm pa = true ↔ pa < 0x3B9ACA0000 := by
  rw [inHbm, hbmEnd, decide_eq_true_iff]

theorem walk_of_root (s : State) (space : Nat) (va : Word) :
    let h := bits va 51 2
    let root : Word := BitVec.ofNat 64 (s.physRead 0 ((s.die (h % 2)).sdtBase.toNat + 64 * space + 8 * h) 8)
    let good : Prop := bits root 52 12 = 0 ∧ bits root 1 14 = 0 ∧ bits root 15 37 * 2 ^ 15 < 0x3B9ACA0000
    (root.getLsbD 0 = false → s.walk space va = .absent) ∧ (root.getLsbD 0 = true → ¬ good → s.walk space va = .bad 0)
      ∧ (root.getLsbD 0 = true → good → s.walk space va = s.walkFrom (h % 2) h va 3 (bits root 15 37 * 2 ^ 15)) := by
  intro h root good
  have walk : s.walk space va = if !root.getLsbD 0 then .absent
    else if bits root 52 12 != 0 || bits root 1 14 != 0 || !inHbm (bits root 15 37 * 2 ^ 15) then .bad 0
    else s.walkFrom (h % 2) h va 3 (bits root 15 37 * 2 ^ 15) := rfl
  have hg : (bits root 52 12 != 0 || bits root 1 14 != 0 || !inHbm (bits root 15 37 * 2 ^ 15)) = true ↔ ¬ good := by
    simp only [good, ← inHbm_iff, Bool.or_eq_true, bne_iff_ne, Bool.not_eq_true', ← Bool.not_eq_true]
    tauto
  refine ⟨fun hv => ?_, fun hv hb => ?_, fun hv hb => ?_⟩ <;> rw [walk, hv]
  · rfl
  · rw [if_neg (by simp), if_pos (hg.2 hb)]
  · rw [if_neg (by simp), if_neg (mt hg.1 (not_not.2 hb))]

theorem zeroFields_iff (e : Word) : zeroFields e ↔ entryW0 e = false := by
  simp [zeroFields, entryW0, and_assoc]

section
variable {d home lvl table : Nat} {va : Word}

theorem contigOk_iff (n : Nat) : s.contigOk d table n = true ↔ s.contigGood d table n := by
  simp [State.contigOk, State.contigGood, Nat.mul_comm]

theorem leafBytes_eq (h : lvl ≤ 2) : leafBytes lvl = leafSize lvl := by
  unfold leafBytes leafSize
  split
  · rfl
  · split
    · rfl
    · exact if_pos (by omega)

/-- What the model refuses of a leaf whose fields are in order is what is no good leaf. -/
theorem badLeaf_iff {e : Word} {n : Nat} (hz : zeroFields e) (h6 : e.getLsbD 6 = true) (hl : lvl ≤ 3) :
    (decide (lvl = 3) || (lvl != 0 && e.getLsbD 58) || (lvl == 0 && e.getLsbD 58 && !s.contigOk d table n)
      || entryPa e % leafBytes lvl != 0 || !(s.die d).inRange home (entryPa e)) = true ↔ ¬ s.goodLeaf d home table n lvl e := by
  have hp : entryPa e = bits e 12 40 * 2 ^ 12 := rfl
  rw [State.goodLeaf, ← contigOk_iff, ← hp, h6]
  generalize s.contigOk d table n = c
  generalize (s.die d).inRange home (entryPa e) = r
  generalize e.getLsbD 58 = b
  by_cases h3 : lvl = 3
  · simp [h3]
  · rw [leafBytes_eq (by omega)]
    generalize entryPa e % leafSize lvl = z
    have h2 : lvl ≤ 2 := by omega
    cases b <;> cases r <;> simp [h3, h2, hz]
    tauto

theorem badPointer_iff {e : Word} (hz : zeroFields e) (h6 : e.getLsbD 6 = false) :
    (decide (lvl = 0) || bits e 58 3 != 0 || e.getLsbD 7 || bits e 3 3 != 0 || !inHbm (entryPa e)) = true
      ↔ ¬ goodPointer lvl e := by
  have hp : entryPa e = bits e 12 40 * 2 ^ 12 := rfl
  rw [goodPointer, ← hp, ← inHbm_iff]
  simp only [hz, h6, true_and, Bool.or_eq_true, decide_eq_true_eq, bne_iff_ne, Bool.not_eq_true', ← Bool.not_eq_true]
  tauto

theorem walkFrom_error {w : Walk} (h : s.walkEntry d home va lvl table = .error w) : s.walkFrom d home va lvl table = w := by
  cases lvl <;> rw [State.walkFrom, h]

theorem walkFrom_ok {l t : Nat} (h : s.walkEntry d home va (l + 1) table = .ok t) :
    s.walkFrom d home va (l + 1) table = s.walkFrom d home va l t := by
  rw [State.walkFrom, h]

/-- What a walk makes of the entry of a table to which it comes (R58, R59, R61). -/
theorem walkFrom_effect (s : State) (d home lvl table : Nat) (va : Word) (hl : lvl ≤ 3) :
    let n := tableIndex va lvl
    let e := s.tableEntry d table n
    let pa := bits e 12 40 * 2 ^ 12
    let w := s.walkFrom d home va lvl table
    (e.getLsbD 0 = false → w = .absent)
    ∧ (e.getLsbD 0 = true →
      (goodPointer lvl e → ∀ l, lvl = l + 1 → w = s.walkFrom d home va l pa)
      ∧ (s.goodLeaf d home table n lvl e → e.getLsbD 58 = false →
        w = .leaf lvl pa e (if lvl = 1 then table + 0x1000 + 64 * n else 0))
      ∧ (s.goodLeaf d home table n lvl e → e.getLsbD 58 = true →
        let e0 := s.tableEntry d table (n / 16 * 16)
        w = .leaf 3 (bits e0 12 40 * 2 ^ 12) e0 0)
      ∧ (¬ goodPointer lvl e → ¬ s.goodLeaf d home table n lvl e → w = .bad pa)) := by
  intro n e pa w
  have entry : s.walkEntry d home va lvl table =
      if !e.getLsbD 0 then .error .absent
      else if entryW0 e then .error (.bad pa)
      else if e.getLsbD 6 then
        if lvl = 3 || (lvl != 0 && e.getLsbD 58) || (lvl == 0 && e.getLsbD 58 && !s.contigOk d table n)
            || entryPa e % leafBytes lvl != 0 || !(s.die d).inRange home (entryPa e) then .error (.bad pa)
        else if e.getLsbD 58 then
          .error (.leaf 3 (entryPa (s.tableEntry d table (n / 16 * 16))) (s.tableEntry d table (n / 16 * 16)) 0)
        else .error (.leaf lvl pa e (if lvl = 1 then table + 0x1000 + 64 * n else 0))
      else if lvl = 0 || bits e 58 3 != 0 || e.getLsbD 7 || bits e 3 3 != 0 || !inHbm (entryPa e) then .error (.bad pa)
      else .ok pa := rfl
  refine ⟨fun hv => walkFrom_error (by rw [entry, hv]; rfl), fun hv => ?_⟩
  rw [if_neg (by simp [hv])] at entry
  refine ⟨fun hg l hll => ?_, fun hg h58 => ?_, fun hg h58 => ?_, fun hp hg => walkFrom_error ?_⟩
  · have hz := hg.1
    have h6 := hg.2.1
    subst hll
    refine walkFrom_ok ?_
    rw [entry, if_neg (by simp [(zeroFields_iff e).1 hz]), if_neg (ne_true_of_eq_false h6),
      if_neg (mt (badPointer_iff hz h6).1 (not_not.2 hg))]
  · have hz := hg.1
    have h6 := hg.2.1
    refine walkFrom_error ?_
    rw [entry, if_neg (by simp [(zeroFields_iff e).1 hz]), if_pos h6, if_neg (mt (badLeaf_iff hz h6 hl).1 (not_not.2 hg)),
      if_neg (ne_true_of_eq_false h58)]
  · have hz := hg.1
    have h6 := hg.2.1
    refine walkFrom_error ?_
    rw [entry, if_neg (by simp [(zeroFields_iff e).1 hz]), if_pos h6, if_neg (mt (badLeaf_iff hz h6 hl).1 (not_not.2 hg)),
      if_pos h58]
    rfl
  · rw [entry]
    by_cases hz : entryW0 e = true
    · rw [if_pos hz]
    · rw [if_neg hz]
      have hz := (zeroFields_iff e).2 (by simpa using hz)
      cases h6 : e.getLsbD 6
      · rw [if_neg (by simp), if_pos ((badPointer_iff hz h6).2 hp)]
      · rw [if_pos rfl, if_pos ((badLeaf_iff hz h6 hl).2 hg)]

end

/-! ### Owner records -/

/-- The number of leaves that a fill brings in (R59, R64). -/
def leafCount (z : Nat) : Nat := if z = 3 then 16 else 1

/-- The virtual frame of leaf `k` of a fill, as its owner record has it (R62). -/
def virtualFrame (va : Word) (z k : Nat) : Nat := bits va 0 53 / leafBytes z * (leafBytes z / 4096) + k

/-- The record `old` keeps a fill of a space from a frame: it is valid, of another mapping, and not both are shared (R62). -/
def Clashes (old : Word) (shared : Bool) (space size vpn : Nat) : Prop :=
  old.getLsbD 63 = true ∧ ¬ (old.getLsbD 62 = true ∧ shared = true)
    ∧ (bits old 54 8 ≠ space ∨ bits old 52 2 ≠ size ∨ bits old 0 52 ≠ vpn)

theorem getLsbD_ofNat_eq (x : Nat) {i : Nat} (hi : i < 64) :
    (BitVec.ofNat 64 x).getLsbD i = (x / 2 ^ i % 2 == 1) := by
  rw [BitVec.getLsbD_ofNat, decide_eq_true hi, Bool.true_and, Nat.testBit_eq_decide_div_mod_eq, beq_eq_decide]

theorem bits_ofNat (x : Nat) {lo n : Nat} (h : lo + n ≤ 64) : bits (BitVec.ofNat 64 x) lo n = x / 2 ^ lo % 2 ^ n := by
  rw [bits, BitVec.toNat_ofNat, ← Nat.mod_mul_right_div_self, ← Nat.mod_mul_right_div_self, ← pow_add,
    Nat.mod_mod_of_dvd _ (pow_dvd_pow 2 h)]

theorem ownerConflict_iff (x : Nat) {shared : Bool} {space size vpn : Nat} (hs : space < 256) (hz : size < 4)
    (hv : vpn < 2 ^ 52) :
    ownerConflict x (2 ^ 63 + (if shared then 2 ^ 62 else 0) + space * 2 ^ 54 + size * 2 ^ 52 + vpn) = true
      ↔ Clashes (BitVec.ofNat 64 x) shared space size vpn := by
  have fields : x % 2 ^ 62 = space * 2 ^ 54 + size * 2 ^ 52 + vpn
      ↔ x / 2 ^ 54 % 2 ^ 8 = space ∧ x / 2 ^ 52 % 2 ^ 2 = size ∧ x / 2 ^ 0 % 2 ^ 52 = vpn := by omega
  have new : (2 ^ 63 + (if shared then 2 ^ 62 else 0) + space * 2 ^ 54 + size * 2 ^ 52 + vpn) % 2 ^ 62
        = space * 2 ^ 54 + size * 2 ^ 52 + vpn
      ∧ (2 ^ 63 + (if shared then 2 ^ 62 else 0) + space * 2 ^ 54 + size * 2 ^ 52 + vpn) / 2 ^ 62 % 2
        = if shared then 1 else 0 := by
    cases shared
    · rw [if_neg Bool.false_ne_true, if_neg Bool.false_ne_true]; omega
    · rw [if_pos rfl, if_pos rfl]; omega
  rw [ownerConflict, new.1, new.2, Clashes, getLsbD_ofNat_eq x (by decide), getLsbD_ofNat_eq x (by decide),
    bits_ofNat x (by decide), bits_ofNat x (by decide), bits_ofNat x (by decide), Bool.and_eq_true, bne_iff_ne, ne_eq, fields]
  generalize x / 2 ^ 63 % 2 = v
  generalize x / 2 ^ 62 % 2 = c
  generalize x / 2 ^ 54 % 2 ^ 8 = p
  generalize x / 2 ^ 52 % 2 ^ 2 = q
  generalize x / 2 ^ 0 % 2 ^ 52 = n
  cases shared <;> simp <;> tauto

/-- The first address of leaf `k` of a fill. -/
def frameVa (va : Word) (z k : Nat) : Word :=
  if z = 3 then BitVec.ofNat 64 (bits va 0 53 / 2 ^ 16 * 2 ^ 16 + 4096 * k) else va

theorem leafFrames_eq (z base : Nat) (va : Word) :
    leafFrames z base va = (List.range (leafCount z)).map fun k => (base + 4096 * k, frameVa va z k) := by
  unfold leafFrames leafCount frameVa
  split
  · rfl
  · simp

theorem bits_lt (w : Word) (lo n : Nat) : bits w lo n < 2 ^ n := Nat.mod_lt _ (Nat.two_pow_pos n)

theorem virtualFrame_frameVa (va : Word) {z k : Nat} (hz : z < 4) (hk : k < leafCount z) :
    bits (frameVa va z k) 0 53 / leafBytes (if z = 3 then 0 else z) * (leafBytes (if z = 3 then 0 else z) / 4096)
      = virtualFrame va z k ∧ virtualFrame va z k < 2 ^ 52 := by
  have hv := bits_lt va 0 53
  unfold virtualFrame frameVa
  by_cases h3 : z = 3
  · subst h3
    have hk : k < 16 := hk
    rw [if_pos rfl, if_pos rfl, bits_ofNat _ (by decide), show leafBytes 0 = 2 ^ 12 from rfl, show leafBytes 3 = 2 ^ 16 from rfl]
    omega
  · rw [if_neg h3, if_neg h3]
    obtain rfl : k = 0 := by
      rw [leafCount, if_neg h3] at hk
      omega
    refine ⟨rfl, ?_⟩
    obtain rfl | rfl | rfl : z = 0 ∨ z = 1 ∨ z = 2 := by omega
    · rw [show leafBytes 0 = 2 ^ 12 from rfl]; omega
    · rw [show leafBytes 1 = 2 ^ 21 from rfl]; omega
    · rw [show leafBytes 2 = 2 ^ 30 from rfl]; omega

/-- A fill is refused where the record of one of its frames clashes with it (R62). -/
theorem ownerChecks_conflict (s : State) (d base : Nat) (va entry : Word) {space z : Nat} (hs : space < 256) (hz : z < 4) :
    ((s.ownerChecks d space z base va entry).any fun r => ownerConflict r.2.1 r.2.2) = true
      ↔ ∃ k, k < leafCount z ∧ Clashes (BitVec.ofNat 64 (s.physRead d ((s.die d).ownBase.toNat + 8 * ((base + 4096 * k) / 4096)) 8))
        (entry.getLsbD 59 && !entry.getLsbD 4) space (if z = 3 then 0 else z) (virtualFrame va z k) := by
  have one (k : Nat) (hk : k < leafCount z) (x : Nat) :
      ownerConflict x (ownerRecord space (if z = 3 then 0 else z) (frameVa va z k) entry) = true
        ↔ Clashes (BitVec.ofNat 64 x) (entry.getLsbD 59 && !entry.getLsbD 4) space (if z = 3 then 0 else z)
          (virtualFrame va z k) := by
    obtain ⟨hframe, hlt⟩ := virtualFrame_frameVa va hz hk
    rw [ownerRecord, hframe]
    exact ownerConflict_iff x hs (by split <;> omega) hlt
  simp only [State.ownerChecks, leafFrames_eq, List.map_map, List.any_map, List.any_eq_true, List.mem_range]
  exact exists_congr fun k => and_congr_right fun hk => one k hk _

/-! ### Translation -/

section
variable {d space : Nat} {va : Word}

theorem tlbFind_none (x : Die) : x.tlbFind space va = none ↔ ∀ z, z < 4 → oget x.tlb (tlbKey z space va) = none := by
  have four (p : Nat → Prop) : (∀ z, z < 4 → p z) ↔ p 0 ∧ p 1 ∧ p 2 ∧ p 3 :=
    ⟨fun h => ⟨h 0 (by decide), h 1 (by decide), h 2 (by decide), h 3 (by decide)⟩, fun ⟨h0, h1, h2, h3⟩ z hz => by
      interval_cases z <;> assumption⟩
  rw [four, Die.tlbFind]
  simp only [Option.orElse_eq_or, Option.or_eq_none_iff]

theorem tlbFind_some {x : Die} {e : TlbEntry} (h : x.tlbFind space va = some e) :
    ∃ z, z < 4 ∧ oget x.tlb (tlbKey z space va) = some e := by
  rw [Die.tlbFind] at h
  simp only [Option.orElse_eq_or, Option.or_eq_some_iff] at h
  obtain h | ⟨-, h | ⟨-, h | ⟨-, h⟩⟩⟩ := h
  · exact ⟨0, by decide, h⟩
  · exact ⟨1, by decide, h⟩
  · exact ⟨2, by decide, h⟩
  · exact ⟨3, by decide, h⟩

theorem oget_tlbPut (x : Die) (key : Nat) (e : TlbEntry) : oget (x.tlbPut key e).tlb key = some e := oget_oset_same ..

/-- What the home answers where its TLB has no entry for an address (R60, R62, R64). -/
theorem translate_walks (s : State) (space : Nat) (va : Word) (need : Nat) (count : Bool)
    (hc : (s.die (ownerOf va)).tlbFind space va = none) :
    s.translate space va need count = match s.walk space va with
      | .absent => (s, ⟨4, 0, 0, 0⟩)
      | .bad f => ((s.notify (ownerOf va) space va 1 (need &&& 2 != 0) f 1).1, ⟨4, 0, 0, 0⟩)
      | .leaf size base entry bitmap =>
        let recs := s.ownerChecks (ownerOf va) space size base va entry
        if recs.any fun r => ownerConflict r.2.1 r.2.2 then
          ((s.notify (ownerOf va) space va 1 (need &&& 2 != 0) base 2).1, ⟨4, 0, 0, 0⟩)
        else
          let r := s.finishXlate (ownerOf va) space va need ⟨size, entry, bitmap⟩ count
          if r.2.code = 0 then
            ((recs.foldl (fun t x => if x.2.1 / 2 ^ 63 % 2 = 0 then t.physWrite (ownerOf va) x.1 8 x.2.2 else t) r.1).updDie
              (ownerOf va) fun x => x.tlbPut (tlbKey size space va) ⟨size, entry, bitmap⟩, r.2)
          else r := by
  rw [State.translate, hc] <;> rfl

section
variable {need : Nat} {count : Bool} (hc : (s.die (ownerOf va)).tlbFind space va = none) {z base : Nat} {entry : Word}
  {bitmap : Nat} (hw : s.walk space va = .leaf z base entry bitmap)
include hc hw

theorem translate_conflict (h : ((s.ownerChecks (ownerOf va) space z base va entry).any fun r => ownerConflict r.2.1 r.2.2) = true) :
    s.translate space va need count
      = ((s.notify (ownerOf va) space va 1 (need &&& 2 != 0) base 2).1, ⟨4, 0, 0, 0⟩) := by
  rw [translate_walks s space va need count hc, hw]
  exact if_pos h

/-- A leaf that no record refuses answers, and fills the TLB unless the answer is a fault. -/
theorem translate_fill (h : ¬ ((s.ownerChecks (ownerOf va) space z base va entry).any fun r => ownerConflict r.2.1 r.2.2) = true) :
    let t := s.translate space va need count
    let r := s.finishXlate (ownerOf va) space va need ⟨z, entry, bitmap⟩ count
    t.2 = r.2 ∧ (t.2.code ≠ 0 → t.1 = r.1)
      ∧ (t.2.code = 0 → oget (t.1.die (ownerOf va)).tlb (tlbKey z space va) = some ⟨z, entry, bitmap⟩) := by
  rw [translate_walks s space va need count hc, hw]
  dsimp only
  rw [if_neg h]
  split
  · next h0 =>
    refine ⟨rfl, fun hn => absurd h0 hn, fun _ => ?_⟩
    rw [die_updDie, if_pos Iff.rfl]
    exact oget_tlbPut ..
  · next h0 => exact ⟨rfl, fun _ => rfl, fun hn => absurd hn h0⟩

end

/-- The answer of a leaf: a fault of its frame, one of permission, or the physical address (R60, R61, R69). -/
theorem finishXlate_effect (s : State) (d space : Nat) (va : Word) (need : Nat) (e : TlbEntry) (count : Bool) :
    let answer := s.finishXlate d space va need e count
    let pa := bits e.entry 12 40 * 2 ^ 12 + bits va 0 53 % leafBytes e.size
    let here := (s.die d).inRange (bits va 51 2) pa
    (here = false → answer = ((s.notify d space va 1 (need &&& 2 != 0) pa 1).1, ⟨4, 0, 0, 0⟩))
    ∧ (here = true → bits e.entry 3 3 &&& need ≠ need → answer = (s, ⟨5, pa, e.entry, e.bitmap⟩))
    ∧ (here = true → bits e.entry 3 3 &&& need = need →
      answer = (if count = true then s.countAccess d space va (need &&& 2 != 0) e.entry pa else s,
        ⟨0, pa, e.entry, e.bitmap⟩)) := by
  intro answer pa here
  have eq : answer = if !here then ((s.notify d space va 1 (need &&& 2 != 0) pa 1).1, ⟨4, 0, 0, 0⟩)
    else if !(bits e.entry 3 3 &&& need == need) then (s, ⟨5, pa, e.entry, e.bitmap⟩)
    else (if count then s.countAccess d space va (need &&& 2 != 0) e.entry pa else s, ⟨0, pa, e.entry, e.bitmap⟩) := rfl
  refine ⟨fun h => ?_, fun h hp => ?_, fun h hp => ?_⟩ <;> rw [eq, h]
  · rfl
  · rw [if_neg (by simp), if_pos (by simpa using hp)]
  · rw [if_neg (by simp), if_neg (by simpa using hp)]

/-! ### The counter and the ring -/

/-- A counted request moves its counter, and tells the driver where the counter comes to its threshold (R69). -/
theorem countAccess_effect (s : State) (d space : Nat) (va entry : Word) (wr : Bool) (pa : Nat) :
    let at_ := (s.die d).cntBase.toNat + 2 * ((pa - 0x100000000000) / 65536)
    let old := s.physRead d at_ 2
    let n := old % 2 ^ 15 + 1
    let th := (s.die d).actThresh.toNat
    let r := s.notify d space va 0 wr pa th
    let t := s.countAccess d space va wr entry pa
    (bits va 51 2 < 2 ∨ entry.getLsbD 7 = false → t = s)
    ∧ (2 ≤ bits va 51 2 → entry.getLsbD 7 = true →
      (old / 2 ^ 15 = 1 → t = s.physWrite d at_ 2 (2 ^ 15 + min n 0x7FFF))
      ∧ (old / 2 ^ 15 ≠ 1 → n < th → t = s.physWrite d at_ 2 n)
      ∧ (old / 2 ^ 15 ≠ 1 → th ≤ n → r.2 = true → t = r.1.physWrite d at_ 2 (2 ^ 15 + min n 0x7FFF))
      ∧ (old / 2 ^ 15 ≠ 1 → th ≤ n → r.2 = false → t = r.1.physWrite d at_ 2 th)) := by
  intro at_ old n th r t
  have eq : t = if decide (bits va 51 2 < 2) || !entry.getLsbD 7 then s
    else if old / 2 ^ 15 = 1 then s.physWrite d at_ 2 (2 ^ 15 + min n 0x7FFF)
    else if n < th then s.physWrite d at_ 2 n
    else if r.2 then r.1.physWrite d at_ 2 (2 ^ 15 + min n 0x7FFF) else r.1.physWrite d at_ 2 th := rfl
  refine ⟨fun h => by rw [eq, if_pos (by simpa using h)], fun hh he => ?_⟩
  rw [if_neg (by simp [he]; omega)] at eq
  refine ⟨fun h => ?_, fun h hn => ?_, fun h hn hr => ?_, fun h hn hr => ?_⟩
  · rw [eq, if_pos h]
  · rw [eq, if_neg h, if_pos hn]
  · rw [eq, if_neg h, if_neg (by omega), if_pos hr]
  · rw [eq, if_neg h, if_neg (by omega), if_neg (ne_true_of_eq_false hr)]

/-- The ring's entry for the driver, field by field, and what a full ring does instead (R70). -/
theorem notify_effect (s : State) (d space : Nat) (va : Word) (kind : Nat) (wr : Bool) (pa info : Nat) (hs : space < 256)
    (hk : kind < 4) (hi : info < 2 ^ 16) :
    let base := (s.die d).ringBase.toNat
    let cap := (s.die d).ringSize.toNat
    let prod := s.ringRead d base 8
    let full : Prop := prod = (s.ringRead d (base + 8) 8 + cap) % 2 ^ 64
    (full → s.notify d space va kind wr pa info
      = (s.ringWrite d (base + 16) 8 (s.ringRead d (base + 16) 8 / 2 * 2 + 1), false))
    ∧ (¬ full → ∃ v : Nat, s.notify d space va kind wr pa info
        = ((s.ringWrite d (base + 64 + 16 * (prod % cap)) 16 v).ringWrite d base 8 ((prod + 1) % 2 ^ 64), true)
      ∧ v / 2 ^ 56 % 2 ^ 8 = space ∧ v / 2 ^ 53 % 2 ^ 3 = 0 ∧ v / 2 ^ 16 % 2 ^ 37 = bits va 16 37 ∧ v / 2 ^ 4 % 2 ^ 12 = 0
      ∧ v / 2 ^ 2 % 2 ^ 2 = kind ∧ v / 2 % 2 = (if wr = true then 1 else 0) ∧ v % 2 = 0
      ∧ v / 2 ^ 80 % 2 ^ 36 = pa / 2 ^ 16 % 2 ^ 36 ∧ v / 2 ^ 64 % 2 ^ 16 = info ∧ v / 2 ^ 116 = 0) := by
  intro base cap prod full
  have hv := bits_lt va 16 37
  refine ⟨fun h => if_pos h, fun h => ⟨_, if_neg h, ?_⟩⟩
  generalize bits va 16 37 = vpn at *
  cases wr <;> simp only [if_true, Bool.false_eq_true, if_false] <;> omega

end

/-- Settles O28: the probe's word and its reply, the marked line, the failed lanes, the walk, the translation, its counter
and its notification, each by its own lemma. -/
theorem probesTranslate : Obligations.ProbesTranslate := by
  refine ⟨fun s b uid line a ha => ⟨exec_translateProbe ha, fun q hp hq => exec_probeReply ha hp hq⟩,
    fun s P line cls x => markLine_effect s P line cls x, fun s k space line code h => lsb_failLine s k space line code h,
    fun a m line code L hL => ⟨getLsbD_waitsOn a line hL, failLanes_effect a m code hL⟩, walk_of_root,
    fun s d home lvl table va hl => walkFrom_effect s d home lvl table va hl, fun s space va need count => ?_,
    countAccess_effect, notify_effect⟩
  refine ⟨tlbFind_none _, fun e he => ⟨?_, tlbFind_some he⟩, fun hc hw => ?_, fun f hc hw => ?_,
    fun z base entry bitmap hc hw => ?_, fun e => finishXlate_effect s _ space va need e count⟩
  · rw [State.translate, show (s.die (ownerOf va)).tlbFind space va = some e from he]
    rfl
  · rw [translate_walks s space va need count hc, hw]
  · rw [translate_walks s space va need count hc, hw]
    rfl
  · intro n at_ shared size vpn clash hs hz
    have conflict := ownerChecks_conflict s (ownerOf va) base va entry hs hz
    exact ⟨fun h => translate_conflict hc hw (conflict.2 h),
      fun h => translate_fill hc hw (mt conflict.1 fun ⟨k, hk, hcl⟩ => h k hk hcl)⟩

end Sys2Proof.Machine
end

section
/-!
SUPPORT. The commands of the stack engines and the mask jobs (R73, R75 to R79, R145, R303): what each does where nothing
keeps it waiting.
-/

namespace Sys2Proof.Machine

theorem cmd_updCmd_same {s : State} {cmd : Nat} {k : Command} (hc : s.cmd cmd = some k) (f : Command → Command) :
    (s.updCmd cmd f).cmd cmd = some (f k) := by
  have hg : oget s.cmds cmd = some k := hc
  simp [State.cmd, State.updCmd, oupd, hg]

/-- A change of a command rests on what it does to that command. -/
theorem updCmd_congr {s : State} {cmd : Nat} {k : Command} (hc : s.cmd cmd = some k) {f f' : Command → Command}
    (h : f k = f' k) : s.updCmd cmd f = s.updCmd cmd f' := by
  have hg : oget s.cmds cmd = some k := hc
  simp [State.updCmd, oupd, hg, h]

@[simp] theorem die_updBlk (s : State) (b d : Nat) (f : Block → Block) : (s.updBlk b f).die d = s.die d := by
  simp [State.die]

@[simp] theorem die_post (s : State) (i : Instr) (d : Nat) : (s.post i).die d = s.die d := rfl
@[simp] theorem die_updCmd (s : State) (cmd d : Nat) (f : Command → Command) : (s.updCmd cmd f).die d = s.die d := rfl

@[simp] theorem blk_updDie (s : State) (d b : Nat) (f : Die → Die) : (s.updDie d f).blk b = s.blk b := by
  simp [State.blk]

@[simp] theorem blk_post (s : State) (i : Instr) (b : Nat) : (s.post i).blk b = s.blk b := rfl
@[simp] theorem blk_updCmd (s : State) (cmd b : Nat) (f : Command → Command) : (s.updCmd cmd f).blk b = s.blk b := rfl

@[simp] theorem die_updDie_same (s : State) (d : Nat) (f : Die → Die) : (s.updDie d f).die d = f (s.die d) := by
  simp [die_updDie]

/-- A block that is still there after a change of a die, changed. -/
theorem blk_updDie_updBlk {s : State} {b : Nat} (hb : (oget s.blocks b).isSome = true) (d : Nat) (f : Die → Die)
    (h : Block → Block) : ((s.updDie d f).updBlk b h).blk b = h (s.blk b) := by
  rw [updBlk_of (by simpa using hb), blk_setBlk_same, blk_updDie]

/-! ### The rows of a GEMV (R73) -/

/-- A row of B is done with: what kept it from its element, or what was wrong with it, is noted, and the next one follows. -/
def State.gemvNext (s : State) (cmd stat bad : Nat) : State :=
  (s.updCmd cmd fun k => { k.gemvStat stat bad with next := k.next + 1 }).post (.gemv cmd)

theorem gemvStat_eq (k : Command) (stat bad : Nat) : k.gemvStat stat bad = { k with
    stat := if stat ≠ 0 ∧ (k.stat = 0 ∨ stat < k.stat) then stat else k.stat
    detail := k.detail + bad } := by
  simp [Command.gemvStat]

section
variable {s t u : State} {k : Command} {l hd : List Byte} {st st' : Nat}
  (hl : s.engineReadRange (s.partyOf k.blk) (k.gemv.be + k.next * k.gemv.rowBytes) (lineFuel k.gemv.rowBytes)
    k.gemv.rowBytes = (t, st, l))
  (hh : t.engineReadRange (s.partyOf k.blk) (k.gemv.bh + k.next * k.gemv.hdrBytes) (lineFuel k.gemv.hdrBytes)
    k.gemv.hdrBytes = (u, st', hd))
include hl hh

/-- A row that cannot be read, or for which there is no vector, is passed over. -/
theorem gemvRow_unread (cmd : Nat) (h : worseStat st st' ≠ 0 ∨ k.words.length ≤ 6) :
    s.gemvRow cmd k = u.gemvNext cmd (worseStat st st') 0 := by
  simp only [State.gemvRow, hl, hh]
  exact if_pos (by simpa [Command.hasVec] using h)

/-- The element of a row that was read is formed and stored. -/
theorem gemvRow_stored {v q : State} {x : Xlate} {dr : Line} (cmd : Nat) (h : worseStat st st' = 0)
    (hv : 6 < k.words.length) :
    let va : Word := BitVec.ofNat 64 (k.gemv.yv + 4 * k.next)
    let B := rowElems k.gemv.bfmt k.gemv.k l hd
    let e := gemvElem k.gemv.k B.1 (rowElems k.gemv.afmt k.gemv.k ((k.words.drop 6).map fun w => w.setWidth 8) []).1
    let bad := B.2 + (if (fp32.value e).isNan then 1 else 0)
    u.engineProbe (s.partyOf k.blk) va = (v, 0, x) →
    v.engineTags (s.partyOf k.blk) (lineNo va) (lineOff va) 4 true = (q, 0, dr) →
    s.hostCaches (ownerOf va) x.pa = false →
    s.gemvRow cmd k = (q.mergeLine (s.partyOf k.blk) (lineNo va) (x.pa / 128 * 128) x.bitmap true
      (bytesMask (lineOff va) 4 &&& ~~~dr) (linePut e (lineOff va) 4)).gemvNext cmd (if bad = 0 then 0 else 5) bad := by
  intro va B e bad hp ht hs
  have vec : k.hasVec = true := decide_eq_true hv
  simp only [State.gemvRow, hl, hh, h, vec]
  rw [if_neg (by decide), hp]
  dsimp only
  rw [ht]
  dsimp only
  rw [hs]
  rfl

end

/-! ### Commands taken (R75 to R79, R145) -/

section
variable {s : State} {cmd : Nat} {k : Command} (hc : s.cmd cmd = some k)
include hc

/-- An invalid command of a block that is not saved closes with the engine trap of cause 1. -/
theorem rejectCommand_of_unsaved (hl : (s.blk k.blk).life ≠ .saved) :
    s.rejectCommand cmd = (s.commandFault k 1).closeCommand cmd := by
  simp [State.rejectCommand, hc, hl]

/-- A valid GEMV whose turn has come reads its vector. -/
theorem exec_gemv_starts (hp : k.state = .pushed) (hr : s.stackReady k = true) (ho : k.gemvOk = true)
    (ht : s.rangeTaken (s.partyOf k.blk) k.gemv.av k.gemv.vecBytes = []) :
    exec (.gemv cmd) s = .next (s.startGemv cmd k) := by
  refine congrArg Host.Outcome.next ?_
  simp [State.gemv, hc, hp, hr, ho, ht]

theorem exec_gemv_row (hs : k.state = .taken) (hn : k.next < k.gemv.m)
    (hb : s.rangeTaken (s.partyOf k.blk) (k.gemv.be + k.next * k.gemv.rowBytes) k.gemv.rowBytes = [])
    (hh : s.rangeTaken (s.partyOf k.blk) (k.gemv.bh + k.next * k.gemv.hdrBytes) k.gemv.hdrBytes = []) :
    exec (.gemv cmd) s = .next (s.gemvRow cmd k) := by
  refine congrArg Host.Outcome.next ?_
  simp [State.gemv, hc, hs, hn, hb, hh]

/-- After its last row a GEMV completes once its elements have been fed. -/
theorem exec_gemv_ends (hs : k.state = .taken) (hn : k.gemv.m ≤ k.next) (hk : k.stat ∉ [1, 2, 3])
    (hf : s.feedsOut (s.blk k.blk).space k.gemv.yv (4 * k.gemv.m) = false) :
    exec (.gemv cmd) s = .next ((s.updCmd cmd fun k => { k with
      detail := (BitVec.ofNat 64 k.detail : Word).toNat % 2 ^ 32 }).post (.commandCompletion cmd)) := by
  refine congrArg Host.Outcome.next ?_
  have counted : ¬ ((k.stat = 1 ∨ k.stat = 2) ∨ k.stat = 3) := by simpa [or_assoc] using hk
  rw [updCmd_congr hc (f' := fun c => { c with detail := (BitVec.ofNat 64 k.detail : Word).toNat % 2 ^ 32 }) rfl]
  simp [State.gemv, hc, hs, hf, counted, Nat.not_lt.2 hn]

theorem exec_sopen (hp : k.state = .pushed) (hr : s.stackReady k = true) (hl : (s.blk k.blk).life ≠ .saved) :
    exec (.sopen cmd) s = .next (if s.sopenOk cmd k = true
      then (s.updCmd cmd fun k => { k with state := .taken }).post (.sopenContextBind cmd)
      else (s.commandFault k 1).closeCommand cmd) := by
  refine congrArg Host.Outcome.next ?_
  rw [← rejectCommand_of_unsaved hc hl]
  cases ho : s.sopenOk cmd k <;> simp [State.sopen, hc, hp, hr, ho]

theorem exec_maskRequest (hp : k.state = .pushed) (hr : (s.blk k.blk).committed k.after = true)
    (hl : (s.blk k.blk).life ≠ .saved) :
    exec (.maskRequest cmd) s = .next (if k.maskOk = true
      then ((s.updCmd cmd fun k => { k with state := .taken }).updDie (s.dieOf k.blk) fun x => { x with
        jobs := x.jobs ++ [cmd] }).post (.prunerJobStart (s.dieOf k.blk) (s.prunerCore (s.dieOf k.blk)))
      else (s.commandFault k 1).closeCommand cmd) := by
  refine congrArg Host.Outcome.next ?_
  rw [← rejectCommand_of_unsaved hc hl]
  cases ho : k.maskOk <;> simp [State.maskRequest, hc, hp, hr, ho]

/-! ### A Sieve context bound and freed (R75, R77) -/

/-- The first free context of the row's die is bound to the command's slot. -/
theorem sopenBind_eq {n : Nat} (hn : n < 512) (hf : oget (s.die (ownerOf (k.word 1))).sieves n = none)
    (hj : ∀ j, j < n → (oget (s.die (ownerOf (k.word 1))).sieves j).isSome = true)
    (ho : s.feedsOut (s.blk k.blk).space (k.word 1).toNat (4 * bits (k.word 2) 0 32) = false) :
    s.sopenBind cmd = ((s.updDie (ownerOf (k.word 1)) fun y => { y with
        sieves := oset y.sieves n (Sieve.fresh k.blk k.slot (s.blk k.blk).space (k.word 1).toNat (bits (k.word 2) 0 32)
          (bits (k.word 0) 16 7) (bits (k.word 2) 32 32) (bits (k.word 0) 32 16)) }).updBlk k.blk fun x =>
      { x with sieve := oset x.sieve k.slot (512 * ownerOf (k.word 1) + n) }).post (.commandCompletion cmd) := by
  have first : (List.range 512).find? (fun j => (oget (s.die (ownerOf (k.word 1))).sieves j).isNone) = some n := by
    rw [List.find?_range_eq_some]
    refine ⟨by simp [hf], List.mem_range.2 hn, fun j hlt => by simp [hj j hlt]⟩
  simp [State.sopenBind, hc, first, ho]

/-- The result of the slot's context leaves with the command, and the context and the slot are free. -/
theorem sclose_eq {n : Nat} {v : Sieve} (hp : k.state = .pushed) (hr : s.stackReady k = true)
    (hk : k.isKind 3 0 = true) (h26 : bits (k.word 0) 26 6 = 0) (h23 : bits (k.word 0) 23 1 = 0)
    (h0 : bits (k.word 0) 0 23 = 0)
    (he : ∀ o ∈ oitems s.cmds, o.2.blk = k.blk → o.2.seq < k.seq → o.2.state = .done ∨ o.2.refetch = true)
    (hn : oget (s.blk k.blk).sieve k.slot = some n) (hv : oget (s.die (n / 512)).sieves (n % 512) = some v)
    (hf : s.feedsOut v.space v.row (4 * v.n) = false) :
    s.sclose cmd = (((s.updDie (n / 512) fun y => { y with sieves := odel y.sieves (n % 512) }).updBlk k.blk fun x =>
      { x with sieve := odel x.sieve k.slot }).updCmd cmd fun k =>
        { k with state := .taken, out := v.result }).post (.commandCompletion cmd) := by
  have none_earlier : ((oitems s.cmds).any fun o =>
      o.2.blk == k.blk && decide (o.2.seq < k.seq) && o.2.state != .done && !o.2.refetch) = false := by
    rw [List.any_eq_false]
    intro o ho
    simp only [Bool.and_eq_true, beq_iff_eq, decide_eq_true_eq, bne_iff_ne, Bool.not_eq_true']
    rintro ⟨⟨⟨hblk, hseq⟩, hd⟩, href⟩
    rcases he o ho hblk hseq with h | h
    · exact hd h
    · exact absurd h (ne_true_of_eq_false href)
  simp only [State.sclose, hc, none_earlier]
  simp [hp, hr, hk, h26, h23, h0, hn, hv, hf]

section
variable (hb : (oget s.blocks k.blk).isSome = true)
include hb

theorem exec_sopenContextBind {n : Nat} (hn : n < 512) (hf : oget (s.die (ownerOf (k.word 1))).sieves n = none)
    (hj : ∀ j, j < n → (oget (s.die (ownerOf (k.word 1))).sieves j).isSome = true)
    (ho : s.feedsOut (s.blk k.blk).space (k.word 1).toNat (4 * bits (k.word 2) 0 32) = false) :
    ∃ t v, exec (.sopenContextBind cmd) s = .next t ∧ oget (t.die (ownerOf (k.word 1))).sieves n = some v
      ∧ v = Sieve.fresh k.blk k.slot (s.blk k.blk).space (k.word 1).toNat (bits (k.word 2) 0 32) (bits (k.word 0) 16 7)
          (bits (k.word 2) 32 32) (bits (k.word 0) 32 16)
      ∧ oget (t.blk k.blk).sieve k.slot = some (512 * ownerOf (k.word 1) + n) ∧ t.mem = s.mem
      ∧ t.agenda = s.agenda ++ [.commandCompletion cmd] := by
  refine ⟨_, _, congrArg Host.Outcome.next (sopenBind_eq hc hn hf hj ho), ?_, rfl, ?_, ?_, ?_⟩
  · simp
  · simp [blk_updDie_updBlk hb]
  · simp
  · simp [State.post]

theorem exec_sclose {n : Nat} {v : Sieve} (hp : k.state = .pushed) (hr : s.stackReady k = true)
    (hk : k.isKind 3 0 = true) (h26 : bits (k.word 0) 26 6 = 0) (h23 : bits (k.word 0) 23 1 = 0)
    (h0 : bits (k.word 0) 0 23 = 0)
    (he : ∀ o ∈ oitems s.cmds, o.2.blk = k.blk → o.2.seq < k.seq → o.2.state = .done ∨ o.2.refetch = true)
    (hn : oget (s.blk k.blk).sieve k.slot = some n) (hv : oget (s.die (n / 512)).sieves (n % 512) = some v)
    (hf : s.feedsOut v.space v.row (4 * v.n) = false) :
    ∃ t, exec (.sclose cmd) s = .next t ∧ t.cmd cmd = some { k with state := .taken, out := v.result }
      ∧ oget (t.blk k.blk).sieve k.slot = none ∧ oget (t.die (n / 512)).sieves (n % 512) = none ∧ t.mem = s.mem
      ∧ t.agenda = s.agenda ++ [.commandCompletion cmd] := by
  refine ⟨_, congrArg Host.Outcome.next (sclose_eq hc hp hr hk h26 h23 h0 he hn hv hf), ?_, ?_, ?_, ?_, ?_⟩
  · exact cmd_updCmd_same (by simpa [State.cmd] using hc) _
  · simp [blk_updDie_updBlk hb]
  · simp
  · simp
  · simp [State.post]

end
end

/-! ### Elements fed (R76) -/

/-- The element at an address goes to every open context of its space in whose range it lies. -/
theorem exec_sieveFeed {s : State} {die space va x : Nat} {rest : List (Nat × Nat × Nat)} (hva : va % 4 = 0)
    (h : takeFeed space va (s.die die).feeds = (some x, rest)) :
    exec (.sieveFeed die space va 4) s = .next (s.updDie die fun y => { y with
      feeds := rest
      sieves := y.sieves.map fun kv => (kv.1, kv.2.map fun v =>
        if v.space = space ∧ v.row ≤ va ∧ va < v.row + 4 * v.n then v.feed ((va - v.row) / 4) x else v) }) := by
  refine congrArg Host.Outcome.next ?_
  have one : (va + 4 + 3) / 4 - va / 4 = 1 := by omega
  have addr : (va / 4 + 0) * 4 = va := by omega
  simp only [State.sieveFeed, one, List.range_one, List.foldl_cons, List.foldl_nil, addr, h, Bool.and_eq_true,
    decide_eq_true_eq, and_assoc]

theorem feed_count (v : Sieve) (i x : Nat) : (v.feed i x).count = min (v.count + 1) (2 ^ 32 - 1) := by
  unfold Sieve.feed
  dsimp only
  split <;> rfl

theorem feed_nan (v : Sieve) (i : Nat) {x : Nat} (h : (fp32.value x).isNan = true) :
    v.feed i x = { v with nan := true, count := (v.feed i x).count } := by
  rw [feed_count]
  exact if_pos h

theorem feed_number (v : Sieve) (i : Nat) {x : Nat} (h : (fp32.value x).isNan = false) :
    (v.feed i x).max = (if (fp32.value v.max).lt (fp32.value x) then x else v.max)
      ∧ (v.feed i x).nan = v.nan ∧ (v.feed i x).short.length ≤ v.k
      ∧ (v.feed i x).short = (insertShort i x v.short).take v.k := by
  unfold Sieve.feed
  dsimp only
  rw [if_neg (by simp [h])]
  exact ⟨rfl, rfl, List.length_take_le _ _, rfl⟩

/-! ### Jobs of the Pruner (R303) -/

theorem die_updL1 (s : State) (k d : Nat) (f : OMap L1Line → OMap L1Line) : (s.updL1 k f).die d = s.die d := rfl

theorem dropRemote_jobs (s : State) (d e : Nat) : ((s.dropRemote d).die e).jobs = (s.die e).jobs := by
  unfold State.dropRemote
  dsimp only
  rw [die_updDie]
  split <;> rfl

/-- An acquire gives up cached lines; the blocks and the jobs that wait stay. -/
theorem acquire_blocks (s : State) (b scope : Nat) : (s.acquire b scope).blocks = s.blocks := by
  unfold State.acquire
  dsimp only
  repeat' split
  all_goals simp only [State.dropRemote, State.updDie_blocks, State.updL1, State.updCore]

theorem acquire_jobs (s : State) (b scope d : Nat) : ((s.acquire b scope).die d).jobs = (s.die d).jobs := by
  unfold State.acquire
  dsimp only
  repeat' split
  all_goals simp only [dropRemote_jobs, die_updL1]

/-- A job's group starts at its entry, with its argument and its tag in s0 and s1. -/
theorem jobGroup_starts (entry arg : Word) (tag : Nat) : (jobGroup entry arg tag).lanePc 0 = entry
    ∧ (jobGroup entry arg tag).rs 0 = arg ∧ (jobGroup entry arg tag).rs 1 = BitVec.ofNat 64 tag := by
  refine ⟨lanePc_setPc Group.zero 0 1 (fun _ => entry) (by decide), ?_, ?_⟩
  · simp [jobGroup, Group.rs, sget_sset]
  · simp [jobGroup, Group.rs]

/-- A core with room runs the oldest job as a new block, whose start acquires. -/
theorem startJob_eq {s : State} {die core cmd : Nat} {k : Command} {rest : List Nat} (hc : s.cmd cmd = some k)
    (hj : (s.die die).jobs = cmd :: rest) (h8 : core < 8) (h16 : s.jobsOn die core < 16) :
    s.startJob die core = ((s.updDie die fun x => { x with jobs := rest }).tick.setBlk (jobKey s.fresh)
      ((s.updDie die fun x => { x with jobs := rest }).jobBlock cmd k die core)).acquire (jobKey s.fresh) 4 := by
  have kept : (s.updDie die fun x => { x with jobs := rest }).cmd cmd = some k := by simpa [State.cmd] using hc
  simp [State.startJob, hj, h8, h16, kept]

/-- The block of a job: the identity and space of the block that asked, and one group of one lane at its entry. -/
theorem exec_prunerJobStart {s : State} {die core cmd : Nat} {k : Command} {rest : List Nat} (hc : s.cmd cmd = some k)
    (hj : (s.die die).jobs = cmd :: rest) (h8 : core < 8) (h16 : s.jobsOn die core < 16) :
    ∃ t x y, exec (.prunerJobStart die core) s = .next t ∧ (t.die die).jobs = rest
      ∧ t.blk (jobKey s.fresh) = x ∧ x.job = some ⟨cmd, die, core⟩ ∧ x.space = (s.blk k.blk).space
      ∧ x.core = 192 + 8 * die + core ∧ x.grp 0 = y ∧ y.live = 1 ∧ y.lanePc 0 = k.word 1 ∧ y.rs 0 = k.word 2
      ∧ y.rs 1 = BitVec.ofNat 64 (bits (k.word 0) 32 16) ∧ t.mem = s.mem := by
  obtain ⟨pc, arg, tag⟩ := jobGroup_starts (k.word 1) (k.word 2) (bits (k.word 0) 32 16)
  refine ⟨_, (s.updDie die fun x => { x with jobs := rest }).jobBlock cmd k die core, _,
    congrArg Host.Outcome.next (startJob_eq hc hj h8 h16), ?_, ?_, rfl, ?_, rfl, rfl, rfl, ?_, ?_, ?_, ?_⟩
  · rw [acquire_jobs]
    exact congrArg Die.jobs (die_updDie_same s die _)
  · simp only [State.blk, acquire_blocks]
    exact congrArg (·.getD Block.zero) (oget_oset_same ..)
  · change ((s.updDie die _).blk k.blk).space = _
    rw [blk_updDie]
  · exact pc
  · exact arg
  · exact tag
  · simp

/-- Settles O48: each command by the lemma that says what it does where nothing keeps it waiting; a row of a GEMV by what
could be read of it, and a fed element by whether it is a NaN. -/
theorem stackAndMaskEngines : Obligations.StackAndMaskEngines := by
  intro s cmd k hc hb g P
  refine ⟨fun hp hr ho ht t stat l h => ?_, gemvStat_eq k, fun hs hn hb hh t u l hd st st' hl hl' h => ?_,
    fun hs hn hv hb hh t u v l hd q x z dr hl hl' => ?_, exec_gemv_ends hc, exec_sopen hc,
    fun n hn hf hj ho _ => exec_sopenContextBind hc hb hn hf hj ho, fun die space va x rest hva h => exec_sieveFeed hva h,
    fun v i x => ⟨feed_count v i x, feed_nan v i, feed_number v i⟩,
    fun n v hp hr hk h26 h23 h0 he hn hv hf => exec_sclose hc hb hp hr hk h26 h23 h0 he hn hv hf, exec_maskRequest hc,
    fun die core rest hj h8 h16 _ => exec_prunerJobStart hc hj h8 h16⟩
  · rw [exec_gemv_starts hc hp hr ho ht, State.startGemv, h]
  · rw [exec_gemv_row hc hs hn hb hh, gemvRow_unread hl hl' cmd h]
    rfl
  · intro va B A e bad hp ht hx hz
    rw [exec_gemv_row hc hs hn hb hh, gemvRow_stored hl hl' cmd rfl hv hp ht hx, hz]
    rfl

end Sys2Proof.Machine
end

section
/-!
SUPPORT. Accesses that pass their checks until the core looks them up (R67, R98, R102). Where the core's 1,024 summary
entries are full, what one lane brings in puts out the entry of another. A load of the two lanes, and a replay of it by
ERET, passes every check against the state before it, and yet fails in the lane whose entry has gone.
-/

namespace Sys2Proof.Machine

/-- The core of `evictingState`, over a table that grants what lane 1 asks for and nothing else. -/
def refillState : State := { evictingState with mem := [(8 * 1500, 7)] }

/-- Lane 0 is granted by the core's entry, and lane 1 by memory. -/
theorem passes_evictingLoad : refillState.passes (issueOf evictingLoad evictingCtx refillState)
    ⟨9, 0, 0, displaced (issueOf evictingLoad evictingCtx refillState) 1 0 1, fun _ => 0, fun _ => 0⟩ 1 := by
  unfold State.passes
  decide +kernel

/-- Lane 1's entry takes the place of lane 0's, which then fails. -/
theorem exec_evictingLoad_refill : ∃ t, exec evictingLoad refillState = .next t ∧ t.trapDetail = some 0x300000001 :=
  ⟨_, rfl, by decide +kernel⟩

/-- A word that is done has taken no trap. -/
theorem trapDetail_of_done {s : State} {c : IssueCtx} (h : s.cur = some c) (hc : c.res = .done) : s.trapDetail = none := by
  simp [State.trapDetail, h, hc]

/-- Refutes O22: every active address passes before the load, and the load traps. -/
theorem not_loadsIssue : ¬ Obligations.LoadsIssue := by
  intro h
  obtain ⟨-, held⟩ := h.1 evictingLoad evictingCtx refillState _ rfl (by decide +kernel)
  obtain ⟨-, slot⟩ := held (by decide +kernel) passes_evictingLoad (by decide +kernel)
  obtain ⟨a, y, -, -, done, -⟩ := slot (by decide +kernel)
  obtain ⟨t, trapped, detail⟩ := exec_evictingLoad_refill
  rw [trapped, Host.Outcome.next.injEq] at done
  rw [done, trapDetail_of_done rfl rfl] at detail
  cases detail

/-! ### The replay of a load by ERET -/

/-- A group of `refillState` at its ERET, the handler's own results done. -/
def returningState : State := { refillState with
  blocks := [(1, some { Block.zero with
    life := .resident
    groups := [(0, some { Group.zero with live := BitVec.allOnes 32, level := true, park := some ⟨.switch, .eret true⟩ })] })] }

/-- The load of `evictingLoad`, both of whose lanes have failed at their homes. -/
def failedLoad : Access :=
  let I := issueOf evictingLoad evictingCtx refillState
  { I.access refillState 1 9 0 0 (displaced I 1 0 1) (fun _ => 0) (fun _ => 0) with fault := 3 }

/-- The lanes of the loads of a group that have failed. -/
def State.failedLanes (s : State) (b g : Nat) : List Mask := (s.grp b g).loads.map (·.fault)

/-- The replay brings in lane 1's entry in the place of lane 0's, which fails again. -/
theorem failedLanes_replay : (returningState.settleRecord 1 0 true failedLoad failedLoad).failedLanes 1 0 = [1] := by
  decide +kernel

/-- The addresses of the record pass the checks before the replay. -/
theorem checkOf_failedLoad : ∀ L, L < 32 → (failedLoad.fault ||| failedLoad.conf).getLsbD L = true →
    returningState.checkOf 1 (failedLoad.vaAt L) failedLoad.logsz 1 = 0 := by
  decide +kernel

/-- Refutes O20: both lanes of the record pass the checks, and one of them fails again as it is replayed. -/
theorem not_handlerReturn : ¬ Obligations.HandlerReturn := by
  rintro ⟨-, returns⟩
  obtain ⟨-, -, settles⟩ := returns 1 0 true .switch returningState (by decide +kernel) (by decide +kernel) (by decide +kernel)
    (by decide +kernel) (by decide +kernel) (by decide +kernel) (by decide +kernel)
  obtain ⟨-, load, -⟩ := settles failedLoad failedLoad
  obtain ⟨replayed, -⟩ := load (by decide) (by decide) (by decide) (by decide)
  have again := congrArg (·.failedLanes 1 0)
    (replayed _ rfl (by decide) checkOf_failedLoad (by decide +kernel))
  rw [failedLanes_replay] at again
  revert again
  decide +kernel

end Sys2Proof.Machine
end

section
/-!
SUPPORT. What a line request says of the bridge (R83, R380). An answer of the core's own L1 has not crossed it, whatever
the request has noted before.
-/

namespace Sys2Proof.Machine

/-- A load of lane 0 from line 0, whose request has been noted as one that crosses the bridge. -/
def crossingLoad : Access := { failedLoad with
  uid := 7
  fault := 0
  reqs := [{ LineReq.new 0 1 with crossed := true }] }

/-- A clean line of zeros, all of it readable. -/
def cleanL1Line : L1Line := ⟨0, BitVec.allOnes 1024, 0, true, 0, 0, 0, 0, 0, 0, 0⟩

/-- That load in its slot, and line 0 in the L1 of its core. -/
def crossingState : State := { State.reset with
  blocks := [(1, some { Block.zero with life := .resident, groups := [(0, some { Group.zero with loads := [crossingLoad] })] })]
  cores := [(0, some { Core.zero with l1 := [(0, some cleanL1Line)] })] }

/-- Whether the requests of a group's loads are noted as crossing the bridge. -/
def State.crossings (s : State) (b g : Nat) : List Bool := (s.grp b g).loads.flatMap fun a => a.reqs.map (·.crossed)

/-- Nothing of the request is left as it was: its data has come from the core's own L1. -/
theorem crossings_lineRequest : (crossingState.lineRequest 1 0 7 0).crossings 1 0 = [false] := by decide +kernel

/-- Refutes O24: a line request that the L1 answers is noted as one that has not crossed the bridge. -/
theorem not_lineRequestHits : ¬ Obligations.LineRequestHits := by
  rintro ⟨hits, -⟩
  have served := hits crossingState 1 0 7 0 crossingLoad { LineReq.new 0 1 with crossed := true } cleanL1Line
    (by decide +kernel) (by decide +kernel) (by decide +kernel) (by decide +kernel) (by decide +kernel) (by decide +kernel)
    (by decide +kernel) (by decide +kernel) (by decide +kernel) (by decide +kernel)
  have noted := congrArg (·.crossings 1 0) (Host.Outcome.next.inj served)
  rw [crossings_lineRequest] at noted
  revert noted
  decide +kernel

end Sys2Proof.Machine
end

section
/-!
SUPPORT. The data that returns for a load (R89, R95, R107): the one request that it answers, the registers that it writes,
and what is left of the load after its last line.
-/

namespace Sys2Proof.Machine

/-! ### The request that data answers -/

/-- A request of a line whose data is on its way. -/
def LineReq.due (line : Nat) (q : LineReq) : Bool := q.line == line && q.served && !q.returned

/-- The request with its data returned. -/
def LineReq.arrived (q : LineReq) : LineReq := { q with returned := true }

/-- Of requests of which none before `r` satisfies a test, the first that does is `r`. -/
theorem updFirst_append {p : LineReq → Bool} (f : LineReq → LineReq) {l1 : List LineReq} {r : LineReq}
    (h1 : ∀ q ∈ l1, p q = false) (hr : p r = true) (l2 : List LineReq) :
    updFirst p f (l1 ++ r :: l2) = l1 ++ f r :: l2 := by
  induction l1 with
  | nil => simp [updFirst, hr]
  | cons q l ih => simp_all [updFirst]

theorem find?_append_cons {p : LineReq → Bool} {l1 : List LineReq} {r : LineReq} (h1 : ∀ q ∈ l1, p q = false)
    (hr : p r = true) (l2 : List LineReq) : (l1 ++ r :: l2).find? p = some r := by
  rw [List.find?_append, List.find?_eq_none.2 (by simpa using h1)]
  simp [hr]

/-! ### The registers that data writes -/

/-- No lane of the access has failed. -/
def Access.sound (a : Access) : Prop := a.fault = 0 ∧ a.conf = 0

/-- What a line gives a lane: the lower half to the destination, the upper half to the second register of a pair. -/
def Access.laneGets (a : Access) (d : Line) (k L : Nat) (old : Word) : Word :=
  if k = a.dreg then (a.laneValue d L).1
  else if a.logsz = 4 ∧ k = a.dreg + 1 then (a.laneValue d L).2 else old

theorem Access.laneGets_laneGets (a : Access) (d : Line) (k L : Nat) (old : Word) :
    a.laneGets d k L (a.laneGets d k L old) = a.laneGets d k L old := by
  unfold Access.laneGets
  split
  · rfl
  · split <;> rfl

/-- What data writes is lane registers and nothing else. -/
theorem Access.writeLanes_rest (a : Access) (r : LineReq) (y : Group) : ∃ v, a.writeLanes r y = { y with v := v } := by
  unfold Access.writeLanes
  dsimp only
  split <;> exact ⟨_, rfl⟩

theorem Access.rv_writeLanes {a : Access} (h : a.sound) (r : LineReq) (y : Group) (k : Nat) {L : Nat} (hL : L < 32) :
    (a.writeLanes r y).rv k L = if r.lanes.getLsbD L then a.laneGets r.data k L (y.rv k L) else y.rv k L := by
  have ok : r.lanes &&& ~~~(a.fault ||| a.conf) = r.lanes := by
    rw [h.1, h.2]
    exact BitVec.and_allOnes
  unfold Access.writeLanes Access.laneGets
  simp only [ok]
  split <;> simp only [rv_wv _ _ _ _ _ _ hL] <;> grind

/-- All the lines of an LDG written (R107). -/
def Access.writeAll (a : Access) (l : List LineReq) (y : Group) : Group := l.foldl (fun y r => a.writeLanes r y) y

theorem Access.writeAll_rest (a : Access) (l : List LineReq) (y : Group) : ∃ v, a.writeAll l y = { y with v := v } := by
  induction l generalizing y with
  | nil => exact ⟨_, rfl⟩
  | cons r l ih =>
    obtain ⟨v, hv⟩ := a.writeLanes_rest r y
    obtain ⟨w, hw⟩ := ih { y with v := v }
    exact ⟨w, by rw [Access.writeAll, List.foldl_cons, hv]; exact hw⟩

/-- A lane for which every line that has it brings the same bytes. -/
theorem Access.rv_writeAll {a : Access} (h : a.sound) {l : List LineReq} {d : Line} (k : Nat) {L : Nat} (hL : L < 32)
    (hd : ∀ p ∈ l, p.lanes.getLsbD L = true → p.data = d) (y : Group) :
    (a.writeAll l y).rv k L = if ∃ p ∈ l, p.lanes.getLsbD L = true then a.laneGets d k L (y.rv k L) else y.rv k L := by
  induction l generalizing y with
  | nil => simp [Access.writeAll]
  | cons p l ih =>
    have step : (a.writeAll (p :: l) y) = a.writeAll l (a.writeLanes p y) := rfl
    rw [step, ih (fun q hq => hd q (List.mem_cons_of_mem _ hq)), rv_writeLanes h _ _ _ hL]
    by_cases hp : p.lanes.getLsbD L = true
    · simp only [hp, hd p List.mem_cons_self hp, if_true, laneGets_laneGets, List.mem_cons, exists_eq_or_imp, true_or,
        ite_self]
    · simp [hp]

/-! ### The load after its last line -/

theorem Access.markPending_rest (a : Access) (y : Group) (on : Bool) :
    ∃ p, a.markPending y on = { y with pendV := p } := by
  unfold Access.markPending Group.setPending
  dsimp only
  split <;> exact ⟨_, rfl⟩

theorem Access.pendV_markPending_false (a : Access) (y : Group) (n : Nat) : (a.markPending y false).pendV.getLsbD n
    = if n = a.dreg ∨ (a.logsz = 4 ∧ n = a.dreg + 1) then false else y.pendV.getLsbD n := by
  unfold Access.markPending
  dsimp only
  split <;> simp only [← isPending_v, isPending_setPending_false] <;> grind

/-- The lines that a load writes with its last one: all of them for LDG, no other for any other load (R107). -/
def Access.landed (a : Access) (y : Group) : Group := if a.kind = 4 then a.writeAll a.reqs y else y

theorem Access.landed_rest (a : Access) (y : Group) : ∃ v, a.landed y = { y with v := v } := by
  unfold Access.landed
  split
  · exact a.writeAll_rest _ _
  · exact ⟨_, rfl⟩

/-- What becomes of the group of a load that leaves its slot with no lane failed (R95). -/
def Access.finished (a : Access) (y : Group) : Group :=
  let z := a.landed { y with loads := y.loads.filter (·.uid != a.uid) }
  if z.faultLeft a.seq then z else a.markPending z false

/-- All but its pending bits is as the last lines leave it. -/
theorem Access.finished_rest (a : Access) (y : Group) :
    ∃ p, a.finished y = { a.landed { y with loads := y.loads.filter (·.uid != a.uid) } with pendV := p } := by
  unfold Access.finished
  dsimp only
  split
  · exact ⟨_, rfl⟩
  · exact a.markPending_rest _ false

/-- A load of which nothing else is left no longer keeps its destination pending. -/
theorem Access.pendV_finished (a : Access) {y : Group} (hr : y.ready = []) (h0 : y.record0 = none)
    (hs : ∀ e ∈ y.loads, e.uid ≠ a.uid → e.seq ≠ a.seq) (n : Nat) : (a.finished y).pendV.getLsbD n
      = if n = a.dreg ∨ (a.logsz = 4 ∧ n = a.dreg + 1) then false else y.pendV.getLsbD n := by
  obtain ⟨v, hv⟩ := a.landed_rest { y with loads := y.loads.filter (·.uid != a.uid) }
  unfold Access.finished
  rw [hv, if_neg (by simpa [Group.faultLeft, hr, h0] using hs), pendV_markPending_false]

/-! ### The step -/

/-- The access with a line's data returned. -/
def Access.took (line : Nat) (r : LineReq) (a : Access) : Access := { a with
  reqs := updFirst (LineReq.due line) LineReq.arrived a.reqs
  wait := a.wait &&& ~~~(r.lanes &&& ~~~(a.fault ||| a.conf)) }

/-- The loads of a group with a line's data returned for one of them. -/
def tookLine (uid line : Nat) (r : LineReq) (l : List Access) : List Access :=
  l.map fun e => if e.uid = uid then e.took line r else e

theorem find?_tookLine {uid line : Nat} {r : LineReq} {l : List Access} {a : Access}
    (h : l.find? (fun e => e.uid == uid) = some a) :
    (tookLine uid line r l).find? (fun e => e.uid == uid) = some (a.took line r) := by
  have ha : a.uid = uid := by simpa using List.find?_some h
  have keeps : ((fun e : Access => e.uid == uid) ∘ fun e => if e.uid = uid then e.took line r else e)
      = fun e => e.uid == uid := by
    funext e
    by_cases he : e.uid = uid <;> simp [he, Access.took]
  rw [tookLine, List.find?_map, keeps, h, Option.map_some, if_pos ha]

/-- The line that a load writes as its data returns, which is none for LDG (R95, R107). -/
def Access.writeNow (a : Access) (r : LineReq) (y : Group) : Group := if a.kind = 4 then y else a.writeLanes r y

theorem Access.writeNow_rest (a : Access) (r : LineReq) (y : Group) : ∃ v, a.writeNow r y = { y with v := v } := by
  unfold Access.writeNow
  split
  · exact ⟨_, rfl⟩
  · exact a.writeLanes_rest r y

/-- The group with a line of a load written and returned. -/
def Access.takeLine (a : Access) (line : Nat) (r : LineReq) (y : Group) : Group :=
  { a.writeNow r y with loads := tookLine a.uid line r y.loads }

theorem Access.takeLine_rest (a : Access) (line : Nat) (r : LineReq) (y : Group) :
    ∃ v, a.takeLine line r y = { y with v := v, loads := tookLine a.uid line r y.loads } := by
  obtain ⟨v, hv⟩ := a.writeNow_rest r y
  exact ⟨v, by rw [takeLine, hv]⟩

/-- The group once data has returned for a load, which leaves it with its last line. -/
def Access.arrive (a : Access) (line : Nat) (r : LineReq) (y : Group) : Group :=
  let a1 := a.took line r
  if a1.reqs.all (·.returned) then a1.finished (a.takeLine line r y) else a.takeLine line r y

section
variable {s : State} {b g : Nat}

theorem finishLoad_setGrp {y : Group} {uid : Nat} {a : Access} (h : y.loads.find? (fun e => e.uid == uid) = some a)
    (hs : a.sound) : (s.setGrp b g y).finishLoad b g uid
      = s.setGrp b g (if a.reqs.all (·.returned) then a.finished y else y) := by
  have ha : a.uid = uid := by simpa using List.find?_some h
  have sound : ¬ ((a.fault ||| a.conf != 0) = true) := by simp [hs.1, hs.2]
  unfold State.finishLoad
  simp only [State.grp_setGrp, h, updGrp_setGrp, if_neg sound]
  cases a.reqs.all (·.returned)
  · rfl
  · subst ha
    rfl

variable {uid line : Nat} {a : Access} {r : LineReq} (ha : (s.grp b g).loads.find? (fun e => e.uid == uid) = some a)
  (hr : a.reqs.find? (LineReq.due line) = some r)
include ha hr

theorem loadReturn_eq : s.loadReturn b g uid line = if a.poisoned r then s.hwError b 1
    else ((if a.kind = 4 then s else s.updGrp b g fun y => a.writeLanes r y).updLoad b g uid
      (Access.took line r)).finishLoad b g uid := by
  have hr : a.reqs.find? (fun r => r.line == line && r.served && !r.returned) = some r := hr
  unfold State.loadReturn
  rw [ha]
  dsimp only
  rw [hr]
  rfl

/-- Data that is not poisoned arrives. -/
theorem loadReturn_arrives (hb : (oget s.blocks b).isSome = true) (hg : (oget (s.blk b).groups g).isSome = true)
    (hp : a.poisoned r = false) (hs : a.sound) :
    s.loadReturn b g uid line = s.setGrp b g (a.arrive line r (s.grp b g)) := by
  have hu : a.uid = uid := by simpa using List.find?_some ha
  subst hu
  have wrote : (if a.kind = 4 then s else s.updGrp b g fun y => a.writeLanes r y).updLoad b g a.uid (Access.took line r)
      = s.setGrp b g (a.takeLine line r (s.grp b g)) := by
    obtain ⟨v, hv⟩ := a.writeLanes_rest r (s.grp b g)
    unfold Access.takeLine Access.writeNow
    split
    · exact updGrp_of hb hg _
    · rw [State.updLoad, updGrp_of hb hg, updGrp_setGrp, hv]
      rfl
  rw [loadReturn_eq ha hr, hp, if_neg Bool.false_ne_true, wrote]
  exact finishLoad_setGrp (find?_tookLine ha) hs

end

/-! ### What the step leaves -/

section
variable {a : Access} {line : Nat} {r : LineReq} {y : Group}

theorem Access.arrive_waits (h : ¬ (a.took line r).reqs.all (·.returned) = true) :
    a.arrive line r y = a.takeLine line r y := if_neg h

theorem Access.arrive_last (h : (a.took line r).reqs.all (·.returned) = true) :
    a.arrive line r y = (a.took line r).finished (a.takeLine line r y) := if_pos h

/-- What stays of the group. -/
theorem Access.arrive_rest : { a.arrive line r y with v := y.v, loads := y.loads, pendV := y.pendV } = y := by
  obtain ⟨v, hv⟩ := a.writeNow_rest r y
  by_cases h : (a.took line r).reqs.all (·.returned) = true
  · obtain ⟨p, hp⟩ := (a.took line r).finished_rest (a.takeLine line r y)
    obtain ⟨w, hw⟩ := (a.took line r).landed_rest { a.takeLine line r y with
      loads := (a.takeLine line r y).loads.filter (·.uid != (a.took line r).uid) }
    rw [arrive_last h, hp, hw, takeLine, hv]
  · rw [arrive_waits h, takeLine, hv]

theorem filter_tookLine (uid line : Nat) (r : LineReq) (l : List Access) :
    (tookLine uid line r l).filter (·.uid != uid) = l.filter (·.uid != uid) := by
  induction l with
  | nil => rfl
  | cons e l ih =>
    simp only [tookLine, List.map_cons, List.filter_cons] at ih ⊢
    by_cases he : e.uid = uid
    · simpa [he, Access.took] using ih
    · simpa [he] using ih

/-- The load leaves its slot with its last line. -/
theorem Access.loads_arrive_last (h : (a.took line r).reqs.all (·.returned) = true) :
    (a.arrive line r y).loads = y.loads.filter (·.uid != a.uid) := by
  obtain ⟨p, hp⟩ := (a.took line r).finished_rest (a.takeLine line r y)
  obtain ⟨w, hw⟩ := (a.took line r).landed_rest { a.takeLine line r y with
    loads := (a.takeLine line r y).loads.filter (·.uid != (a.took line r).uid) }
  rw [arrive_last h, hp, hw]
  exact filter_tookLine ..

theorem Access.pendV_arrive_last (h : (a.took line r).reqs.all (·.returned) = true) (hr : y.ready = [])
    (h0 : y.record0 = none) (hs : ∀ e ∈ y.loads, e.uid ≠ a.uid → e.seq ≠ a.seq) (n : Nat) :
    (a.arrive line r y).pendV.getLsbD n
      = if n = a.dreg ∨ (a.logsz = 4 ∧ n = a.dreg + 1) then false else y.pendV.getLsbD n := by
  obtain ⟨v, hv⟩ := a.takeLine_rest line r y
  have others : ∀ e ∈ tookLine a.uid line r y.loads, e.uid ≠ a.uid → e.seq ≠ a.seq := by
    intro e he hu
    have kept : e ∈ (tookLine a.uid line r y.loads).filter (·.uid != a.uid) := List.mem_filter.2 ⟨he, by simpa using hu⟩
    rw [filter_tookLine] at kept
    exact hs e (List.mem_filter.1 kept).1 hu
  rw [arrive_last h, pendV_finished (a.took line r) (y := a.takeLine line r y) (by rw [hv]; exact hr) (by rw [hv]; exact h0)
    (by rw [hv]; exact others), hv]
  rfl

/-- A load but LDG writes its line, be it the last or not. -/
theorem Access.v_arrive (h4 : a.kind ≠ 4) : (a.arrive line r y).v = (a.writeLanes r y).v := by
  have now : a.writeNow r y = a.writeLanes r y := if_neg h4
  by_cases h : (a.took line r).reqs.all (·.returned) = true
  · obtain ⟨p, hp⟩ := (a.took line r).finished_rest (a.takeLine line r y)
    have landed (z : Group) : (a.took line r).landed z = z := if_neg h4
    rw [arrive_last h, hp, landed, takeLine, now]
  · rw [arrive_waits h, takeLine, now]

/-- LDG writes nothing before its last line, and then all of its lines. -/
theorem Access.v_arrive_waits (h4 : a.kind = 4) (h : ¬ (a.took line r).reqs.all (·.returned) = true) :
    (a.arrive line r y).v = y.v := by
  rw [arrive_waits h, takeLine, writeNow, if_pos h4]

theorem Access.rv_arrive_last (h4 : a.kind = 4) (hs : a.sound) (h : (a.took line r).reqs.all (·.returned) = true) {d : Line}
    {L : Nat} (hL : L < 32) (hq : ∃ p ∈ (a.took line r).reqs, p.lanes.getLsbD L = true)
    (hd : ∀ p ∈ (a.took line r).reqs, p.lanes.getLsbD L = true → p.data = d) (k : Nat) :
    (a.arrive line r y).rv k L = a.laneGets d k L (y.rv k L) := by
  obtain ⟨p, hp⟩ := (a.took line r).finished_rest (a.takeLine line r y)
  have landed (z : Group) : (a.took line r).landed z = (a.took line r).writeAll (a.took line r).reqs z := if_pos h4
  have all (z : Group) : ((a.took line r).writeAll (a.took line r).reqs z).rv k L = a.laneGets d k L (z.rv k L) :=
    ((a.took line r).rv_writeAll hs k hL hd z).trans (if_pos hq)
  have now : a.writeNow r y = y := if_pos h4
  rw [arrive_last h, hp, landed, takeLine, now]
  exact all _

end

/-- Settles O25: the data answers the request `r`, and its group is `Access.arrive`, read back part by part. -/
theorem loadDataReturns : Obligations.LoadDataReturns := by
  intro s b g uid line a r l1 l2 hb hg ha hreqs hline hserved hreturned hfirst hfault hconf y0 hi val
  have hs : a.sound := ⟨hfault, hconf⟩
  have hu : a.uid = uid := by simpa using List.find?_some ha
  have before : ∀ q ∈ l1, LineReq.due line q = false := fun q hq => by
    have := hfirst q hq
    simp only [LineReq.due]
    grind
  have due : LineReq.due line r = true := by simp [LineReq.due, hline, hserved, hreturned]
  have answered : a.reqs.find? (LineReq.due line) = some r := hreqs ▸ find?_append_cons before due l2
  have took : (a.took line r).reqs = l1 ++ r.arrived :: l2 :=
    (congrArg _ hreqs).trans (updFirst_append LineReq.arrived before due l2)
  have last : (a.took line r).reqs.all (·.returned) = true ↔ ∀ q ∈ l1 ++ l2, q.returned = true := by
    rw [took]
    simp [LineReq.arrived, or_imp, forall_and]
  have waits : (∃ q ∈ l1 ++ l2, q.returned = false) → ¬ (a.took line r).reqs.all (·.returned) = true := by
    rintro ⟨q, hq, hn⟩ h
    simp [last.1 h q hq] at hn
  have pair : a.logsz = 4 ↔ hi = true := by simp [hi]
  have ofTook : ∀ p ∈ (a.took line r).reqs, ∃ q ∈ a.reqs, q.lanes = p.lanes ∧ q.data = p.data := by
    rw [took, hreqs, List.forall_mem_append, List.forall_mem_cons]
    exact ⟨fun p hp => ⟨p, by simp [hp], rfl, rfl⟩, ⟨r, by simp, rfl, rfl⟩, fun p hp => ⟨p, by simp [hp], rfl, rfl⟩⟩
  have toTook : ∀ q ∈ a.reqs, ∃ p ∈ (a.took line r).reqs, p.lanes = q.lanes := by
    rw [took, hreqs, List.forall_mem_append, List.forall_mem_cons]
    exact ⟨fun p hp => ⟨p, by simp [hp], rfl⟩, ⟨r.arrived, by simp, rfl⟩, fun p hp => ⟨p, by simp [hp], rfl⟩⟩
  refine ⟨fun hp => ?_, fun hp hd => ⟨a.arrive line r y0, ?_, a.arrive_rest, fun hw => ?_, fun hl hr h0 hq => ?_,
    fun h4 k L hk hL => ?_, fun h4 hw => ?_, fun h4 hl hr h0 hq q hqa k L hk hL hqL hone => ?_⟩⟩
  · exact congrArg Host.Outcome.next ((loadReturn_eq ha answered).trans (if_pos hp))
  · exact congrArg Host.Outcome.next (loadReturn_arrives ha answered hb hg hp hs)
  · rw [Access.arrive_waits (waits hw)]
    obtain ⟨v, hv⟩ := a.takeLine_rest line r y0
    rw [hv, hu]
    exact ⟨rfl, rfl⟩
  · refine ⟨hu ▸ a.loads_arrive_last (last.2 hl), fun n => ?_⟩
    rw [a.pendV_arrive_last (last.2 hl) hr h0 (hu ▸ hq)]
    simp only [pair]
  · have same : (a.arrive line r y0).rv k L = (a.writeLanes r y0).rv k L := by rw [Group.rv, a.v_arrive h4]; rfl
    rw [same, a.rv_writeLanes hs r y0 k hL, Access.laneGets]
    simp only [pair]
    by_cases hrL : r.lanes.getLsbD L = true
    · simp only [hrL, if_true, true_and]; rfl
    · simp only [hrL]; rfl
  · exact a.v_arrive_waits h4 (waits hw)
  · have brings : ∀ p ∈ (a.took line r).reqs, p.lanes.getLsbD L = true → p.data = q.data := fun p hp hpL => by
      obtain ⟨e, he, hlanes, hdata⟩ := ofTook p hp
      rw [← hdata, hone e he (hlanes ▸ hpL)]
    obtain ⟨p, hp, hlanes⟩ := toTook q hqa
    rw [a.rv_arrive_last h4 hs (last.2 hl) hL ⟨p, hp, hlanes ▸ hqL⟩ brings, Access.laneGets]
    simp only [pair]
    rfl

end Sys2Proof.Machine
end

section
/-!
SUPPORT. The delivery of deferred faults (R100, R351, R354, R355).
-/

namespace Sys2Proof.Machine

section
variable {s : State} {b g : Nat} (hlife : (s.blk b).life = .resident) (hend : (s.grp b g).ended = false)
  (htrap : (s.grp b g).trapPend = none)
include hlife hend htrap

/-- At program level the first ready fault waits for the boundary, or is taken with the head run of its group. -/
theorem deliverFault_program {f : DefFault} {rest : List DefFault} (hready : (s.grp b g).ready = f :: rest)
    (hlevel : (s.grp b g).level = false) : s.deliverFault b g
      = if (s.grp b g).waitsFor Await.inFlight || (s.blk b).saving then s.postOnce (.deferredFaultDelivery b g)
        else
          let u := s.setGrp b g ({ s.grp b g with ready := rest } : Group).settle
          u.takeTrap b g ⟨f.group, f.detail, (u.grp b g).headRun.2, (u.grp b g).headRun.1, [], some f⟩ := by
  unfold State.deliverFault
  simp [hlife, hend, htrap, hlevel, hready]

/-- At handler level the handler's first own fault ends the block, and the program's wait. -/
theorem deliverFault_handler (hlevel : (s.grp b g).level = true) : s.deliverFault b g
      = ((s.grp b g).ready.find? fun f => f.acc.any (·.handler)).elim s fun f => s.endBlock b .failed f.group := by
  unfold State.deliverFault
  simp only [hlife, hend, htrap, hlevel, bne_self_eq_false, Option.isSome_none, Bool.or_self, Bool.false_eq_true, if_false,
    if_true]
  cases (s.grp b g).ready.find? fun f => f.acc.any (·.handler) <;> rfl

end

theorem exec_deferredFaultDelivery (b g : Nat) (s : State) :
    exec (.deferredFaultDelivery b g) s = .next (s.deliverFault b g) := rfl

/-- A fault is none of the handler's own if its access is not. -/
theorem not_ownFault {f : DefFault} (h : ∀ a ∈ f.acc, a.handler = false) : ¬ f.acc.any (·.handler) = true := by
  simpa [Option.any_eq_true] using h

/-- Settles O37: at program level by what keeps the fault from its boundary, at handler level by the first fault that is the
handler's own. -/
theorem deferredFaultsDeliver : Obligations.DeferredFaultsDeliver := by
  intro s b g f rest hlife hend htrap hready
  have inFlight : (s.grp b g).waitsFor Await.inFlight = true ↔ ∃ p ∈ (s.grp b g).parks, p.what.inFlight = true :=
    List.any_eq_true
  refine ⟨fun hlevel hset hsave => ?_, fun hlevel hwait => ?_, fun hlevel hprogram => ?_,
    fun l x m a hlevel hsplit hprogram hx ha => ?_⟩
  · rw [exec_deferredFaultDelivery, deliverFault_program hlife hend htrap hready hlevel, if_neg]
    simpa [inFlight, hsave] using hset
  · rw [exec_deferredFaultDelivery, deliverFault_program hlife hend htrap hready hlevel, if_pos]
    simpa [inFlight] using hwait
  · rw [exec_deferredFaultDelivery, deliverFault_handler hlife hend htrap hlevel, hready, List.find?_eq_none.2 fun x hx => not_ownFault (hprogram x hx),
      Option.elim_none]
  · have own : (f :: rest).find? (fun f => f.acc.any (·.handler)) = some x := by
      rw [hsplit, List.find?_append, List.find?_eq_none.2 fun z hz => not_ownFault (hprogram z hz)]
      simp [hx, ha]
    rw [exec_deferredFaultDelivery, deliverFault_handler hlife hend htrap hlevel, hready, own, Option.elim_some]

end Sys2Proof.Machine
end

section
/-!
SUPPORT. Way 7 of an L2 (R88): what moves below the caches brings no line into way 7, so that a line which has left it
does not come back while the others leave.
-/

namespace Sys2Proof.Machine

/-! ### What keeps to its way -/

/-- A line of a die's L2 stands in way 7. -/
def Die.inWay7 (x : Die) (k : Nat) : Bool := (oget x.l2 k).any (·.way7)

/-- The lines in way 7 of each die. -/
def State.way7 (s : State) (d : Nat) : Nat → Bool := (s.die d).inWay7

/-- A change of a die that leaves its lines in their ways. -/
theorem way7_updDie {s t : State} (h : t.way7 = s.way7) (d : Nat) {f : Die → Die} (hf : ∀ x, (f x).inWay7 = x.inWay7) :
    (t.updDie d f).way7 = s.way7 := by
  rw [← h]
  funext e
  unfold State.way7
  rw [die_updDie]
  split
  · exact hf _
  · rfl

/-- Other bytes of a line, in the way that it has. -/
theorem inWay7_oupd (x : Die) (key : Nat) {g : L2Line → L2Line} (hg : ∀ l, (g l).way7 = l.way7) :
    ({ x with l2 := oupd x.l2 key g } : Die).inWay7 = x.inWay7 := by
  funext k
  unfold Die.inWay7 oupd
  cases h : oget x.l2 key with
  | none => rfl
  | some l =>
    by_cases hk : k = key
    · simp [hk, h, hg]
    · simp only [oget_oset_ne _ _ hk]

@[simp] theorem State.setPhysByte_way7 (s : State) (d pa : Nat) (b : Byte) : (s.setPhysByte d pa b).way7 = s.way7 := by
  unfold State.setPhysByte
  dsimp only
  split
  · exact way7_updDie (t := { s with mem := _ }) rfl d fun _ => rfl
  · rfl

@[simp] theorem State.physWrite_way7 (s : State) (d pa n v : Nat) : (s.physWrite d pa n v).way7 = s.way7 := by
  unfold State.physWrite
  induction bytesLe n v generalizing s pa with
  | nil => rfl
  | cons b l ih => simp [State.physWriteBytes, ih]

@[simp] theorem State.wake_way7 (s : State) (space line : Nat) : (s.wake space line).way7 = s.way7 := by
  funext d
  exact congrArg Die.inWay7 (wake_die s space line d)

@[simp] theorem State.postOnce_way7 (s : State) (i : Instr) : (s.postOnce i).way7 = s.way7 := by
  unfold State.postOnce
  split <;> rfl

@[simp] theorem State.ringWrite_way7 (s : State) (d pa n v : Nat) : (s.ringWrite d pa n v).way7 = s.way7 := by
  unfold State.ringWrite
  split
  · rw [State.wake_way7]
    exact way7_updDie rfl d fun x => inWay7_oupd x _ fun _ => rfl
  · dsimp only
    split <;> simp

@[simp] theorem State.logPort_way7 (s : State) (d p : Nat) : (s.logPort d p).way7 = s.way7 := by
  unfold State.logPort State.ringPush
  dsimp only
  split <;> simp

@[simp] theorem State.setDirtyBit_way7 (s : State) (d line bitmap : Nat) : (s.setDirtyBit d line bitmap).way7 = s.way7 := by
  unfold State.setDirtyBit
  split <;> simp

@[simp] theorem State.memWriteMask_way7 (s : State) (d line : Nat) (mask data : Line) :
    (s.memWriteMask d line mask data).way7 = s.way7 := rfl

@[simp] theorem State.mscWriteBack_way7 (s : State) (d line : Nat) : (s.mscWriteBack d line).way7 = s.way7 := by
  unfold State.mscWriteBack
  split
  · rfl
  · split
    · rfl
    · split
      · rw [State.logPort_way7]
        exact way7_updDie rfl d fun _ => rfl
      · rw [State.memWriteMask_way7]
        exact way7_updDie (s.setDirtyBit_way7 ..) d fun _ => rfl

@[simp] theorem State.mscWay_way7 (s : State) (d line : Nat) : (s.mscWay d line).way7 = s.way7 := by
  unfold State.mscWay
  split
  · rfl
  · dsimp only
    split
    · exact way7_updDie (s.mscWriteBack_way7 ..) d fun _ => rfl
    · rfl

@[simp] theorem State.mscFill_way7 (s : State) (d line : Nat) (mask : Line) : (s.mscFill d line mask).way7 = s.way7 := by
  rw [State.mscFill_eq]
  dsimp only
  split
  · exact s.mscWay_way7 d line
  · exact way7_updDie (s.mscWay_way7 ..) d fun _ => rfl

@[simp] theorem State.homeWrite_way7 (s : State) (d pa bitmap : Nat) (mask data : Line) :
    (s.homeWrite d pa bitmap mask data).way7 = s.way7 := by
  unfold State.homeWrite
  dsimp only
  split
  · simp
  · split
    · simp
    · rw [State.postOnce_way7]
      exact way7_updDie (s.mscFill_way7 ..) d fun _ => rfl

@[simp] theorem State.poisonHome_way7 (s : State) (d pa : Nat) (mask : Line) : (s.poisonHome d pa mask).way7 = s.way7 := by
  unfold State.poisonHome State.poisonStored
  split
  · rfl
  · dsimp only
    split <;> exact way7_updDie rfl d fun _ => rfl

@[simp] theorem State.moveTags_way7 (s : State) (d key : Nat) : (s.moveTags d key).way7 = s.way7 := by
  have stale : (s.dropStale d).way7 = s.way7 := by
    unfold State.dropStale
    dsimp only
    split
    · rfl
    · exact way7_updDie rfl d fun _ => rfl
  unfold State.moveTags
  dsimp only
  split
  · rfl
  · exact way7_updDie stale d fun _ => rfl

/-! ### What leaves -/

theorem inWay7_odel (x : Die) (key k : Nat) :
    ({ x with l2 := odel x.l2 key } : Die).inWay7 k = if k = key then false else x.inWay7 k := by
  unfold Die.inWay7
  split
  · next h => simp [h]
  · next h => simp only [oget_odel_ne _ h]

/-- The line that is given up leaves way 7, and no other line comes or goes. -/
theorem way7_evictL2 (s : State) (d key k : Nat) :
    (s.evictL2 d key).way7 d k = if k = key then false else s.way7 d k := by
  have gone : ((s.moveTags d key).updDie d fun y => { y with l2 := odel y.l2 key }).way7 d k
      = if k = key then false else s.way7 d k := by
    rw [State.way7, die_updDie_same, inWay7_odel]
    exact congrArg (fun f : Nat → Nat → Bool => if k = key then false else f d k) (s.moveTags_way7 d key)
  unfold State.evictL2
  split
  · next h =>
    have absent : s.way7 d key = false := by
      have h : oget (s.die d).l2 key = none := h
      simp [State.way7, Die.inWay7, h]
    split
    · next hk => rw [hk, absent]
    · rfl
  · dsimp only
    split
    · exact gone
    · rw [State.poisonHome_way7, State.homeWrite_way7]
      exact gone

/-- Of lines that leave one after another, none is left in way 7. -/
theorem way7_foldl_evictL2 (d k : Nat) (l : List (Nat × L2Line)) (s : State) :
    (l.foldl (fun s e => s.evictL2 d e.1) s).way7 d k = (s.way7 d k && !(l.map (·.1)).contains k) := by
  induction l generalizing s with
  | nil => simp
  | cons e l ih =>
    rw [List.foldl_cons, ih, way7_evictL2]
    by_cases hk : k = e.1
    · simp [hk]
    · simp [beq_false_of_ne hk, hk]

theorem mem_oitems_of_oget {α : Type} {m : OMap α} {k : Nat} {x : α} (h : oget m k = some x) : (k, x) ∈ oitems m := by
  induction m with
  | nil => cases h
  | cons kv m ih =>
    obtain ⟨j, v⟩ := kv
    by_cases hj : j = k
    · subst hj
      have h : v = some x := by simpa [oget, sget] using h
      simp [oitems, h]
    · have h : oget m k = some x := by simpa [oget, sget, hj] using h
      have := ih h
      cases v <;> simp_all [oitems]

/-- Way 7 of every set is left. -/
theorem way7_clearWay7 (s : State) (d k : Nat) : (s.clearWay7 d).way7 d k = false := by
  have listed (h : s.way7 d k = true) : k ∈ ((oitems (s.die d).l2).filter fun e => e.2.way7).map (·.1) := by
    obtain ⟨x, hx, h7⟩ := (Option.any_eq_true _ _).1 h
    exact List.mem_map.2 ⟨(k, x), List.mem_filter.2 ⟨mem_oitems_of_oget hx, h7⟩, rfl⟩
  unfold State.clearWay7
  rw [way7_foldl_evictL2]
  cases h : s.way7 d k
  · rfl
  · simpa using listed h

end Sys2Proof.Machine
end

section
/-!
SUPPORT. Ports, the bridge and the modes of the caches (R85, R88, R376, R380).
-/

namespace Sys2Proof.Machine

/-- The map with every object changed, each by a function that may look at its key. -/
theorem oget_map_items {α : Type} (f : Nat → Option α → Option α) (hf : ∀ k, f k none = none) (m : OMap α) (k : Nat) :
    oget (m.map fun kv => (kv.1, f kv.1 kv.2)) k = f k (oget m k) := by
  induction m with
  | nil => exact (hf k).symm
  | cons kv m ih =>
    obtain ⟨j, v⟩ := kv
    by_cases hj : j = k
    · simp [oget, sget, hj]
    · simpa [oget, sget, hj] using ih

/-! ### Ports (R376) -/

theorem Die.port_oset_same (x : Die) (p : Nat) (q : Port) : ({ x with ports := oset x.ports p q } : Die).port p = q := by
  simp [Die.port]

theorem Die.port_oset_ne (x : Die) {p k : Nat} (q : Port) (h : k ≠ p) :
    ({ x with ports := oset x.ports p q } : Die).port k = x.port k := by
  simp [Die.port, oget_oset_ne _ _ h]

/-- A decoder keeps the upper bits of its range, and is enabled if the range meets no other enabled port's. -/
theorem setDecoder_eq (s : State) {d p : Nat} (hd : d < 2) (hp : p < 5) (base size : Nat) {clash : Bool}
    (h : clash = true ↔ ∃ q ∈ oitems (s.die d).ports, q.1 ≠ p ∧ q.2.enabled = true
      ∧ rangesMeet q.2.base q.2.size (base / 2 ^ 28 * 2 ^ 28) (size / 2 ^ 28 * 2 ^ 28) = true) :
    s.setDecoder d p base size =
      let t := s.updDie d fun x => { x with ports := oset x.ports p { x.port p with
        base := base / 2 ^ 28 * 2 ^ 28, size := size / 2 ^ 28 * 2 ^ 28, enabled := !clash } }
      if clash then t.logPort d p else t := by
  have same : ((oitems (s.die d).ports).any fun q => q.1 != p && q.2.enabled
      && rangesMeet q.2.base q.2.size (base / 2 ^ 28 * 2 ^ 28) (size / 2 ^ 28 * 2 ^ 28)) = clash := by
    rw [Bool.eq_iff_iff, h, List.any_eq_true]
    simp only [Bool.and_eq_true, bne_iff_ne, and_assoc]
  rw [State.setDecoder, if_neg (by simp; omega)]
  simp only [same]

theorem exec_secondTierDecoderWrite {s : State} (hb : s.boot = .running) (d p base size : Nat) :
    exec (.secondTierDecoderWrite d p base size) s = .next (s.setDecoder d p base size) :=
  congrArg Host.Outcome.next (if_pos hb)

theorem exec_secondTierLink (s : State) (d p : Nat) (up : Bool) :
    exec (if up then .secondTierLinkUp d p else .secondTierLinkDown d p) s = .next (s.setLink d p up) := by
  cases up <;> rfl

/-- A link that changes is that of its port alone. -/
theorem setLink_eq (s : State) {d p : Nat} (hd : d < 2) (hp : p < 5) (up : Bool) : s.setLink d p up
    = s.updDie d fun x => { x with ports := oset x.ports p { x.port p with up := up } } :=
  if_neg (by simp; omega)

/-! ### The bridge (R380) -/

/-- The block of a listed pair after a lane of the bridge has failed: its data on the bridge is poisoned if the lane carried
its flits, which a free value says. -/
def State.laneHits (s : State) (b : Nat × Block) : State :=
  let u : State := { s with free := s.free + 1 }
  if (Config.freeWord s.free).getLsbD 0 then
    ((u.poisonCopies b.1).poisonLandings b.1).updBlk b.1 fun x => { x.poisonBridge with flawed := u.accessesOut b.1 }
  else u

@[simp] theorem State.laneHits_mem (s : State) (b : Nat × Block) : (s.laneHits b).mem = s.mem := by
  simp [State.laneHits]

theorem exec_bridgeLaneFailure (s : State) (d lane : Nat) : exec (.bridgeLaneFailure d lane) s = .next
    (((oitems s.blocks).foldl State.laneHits s).ringPush d (((oitems s.blocks).foldl State.laneHits s).die d).elogBase.toNat
      (((oitems s.blocks).foldl State.laneHits s).die d).ringSize.toNat 32 (5 * 2 ^ 56 + lane % 2 ^ 16)).1 := rfl

theorem mem_foldl_laneHits (l : List (Nat × Block)) (s : State) : (l.foldl State.laneHits s).mem = s.mem := by
  induction l generalizing s with
  | nil => rfl
  | cons b l ih => rw [List.foldl_cons, ih, State.laneHits_mem]

theorem oget_poisonLandings {s : State} {b id : Nat} {c : Command} (h : oget s.cmds id = some c) :
    oget (s.poisonLandings b).cmds id = some (if c.blk = b ∧ c.queue = 0 then
      (c.crossing (dieOfCore (s.blk b).core)).foldl Command.poisonLine c else c) := by
  refine (oget_map_items (fun _ v => v.map fun c => if c.blk = b && c.queue = 0 then
    (c.crossing (dieOfCore (s.blk b).core)).foldl Command.poisonLine c else c) (fun _ => rfl) s.cmds id).trans ?_
  simp [h]

theorem failed_of_mem_poisonLine {c : Command} {r : Nat × Nat} {l : Landing} (hl : l ∈ (c.poisonLine r).landing)
    (h : l.line = r.1) : l.failed = true := by
  obtain ⟨k, -, rfl⟩ := List.mem_map.1 hl
  by_cases hk : k.line = r.1
  · simp [hk]
  · simp [hk] at h

theorem exists_of_mem_poisonRemote {a : Access} {q : LineReq} (hq : q ∈ a.poisonRemote.reqs) : ∃ r ∈ a.reqs,
    q = if r.served = true ∧ r.returned = false ∧ r.crossed = true then { r with poison := BitVec.allOnes 1024 } else r := by
  obtain ⟨r, hr, rfl⟩ := List.mem_map.1 hq
  exact ⟨r, hr, by simp [LineReq.crossing, and_assoc]⟩

/-- Of a line on its way, the sectors asked for are poisoned in the copy that the L1 has. -/
theorem oget_poisonCopies {s : State} {b line : Nat} {m : Line} {l : L1Line} (hx : (s.blk b).crossing = [(line, m)])
    (hl : oget (s.core (s.l1Core (s.blk b).core)).l1 (lineKey (s.blk b).space line) = some l) :
    oget ((s.poisonCopies b).core (s.l1Core (s.blk b).core)).l1 (lineKey (s.blk b).space line)
      = some { l with poison := l.poison ||| (l.valid &&& m) } := by
  have cores (t : State) (d key : Nat) (f : L2Line → L2Line) (k : Nat) : (t.updL2 d key f).core k = t.core k := by
    simp [State.updL2, State.core]
  rw [State.poisonCopies, hx]
  simp only [List.foldl_cons, List.foldl_nil]
  rw [cores, State.updL1, core_updCore_same, oupd, hl]
  exact oget_oset_same ..

/-! ### The L1's mode (R85) -/

/-- A block of a grid is resident on the cluster. -/
def State.clusterBusy (s : State) (cl : Nat) : Prop :=
  ∃ b ∈ oitems s.blocks, b.2.life = .resident ∧ b.2.job = none ∧ clusterOfCore b.2.core = cl

theorem exec_clusterL1ModeWrite {s : State} (hb : s.boot = .running) (cl : Nat) (f : Bool) :
    exec (.clusterL1ModeWrite cl f) s = .next (s.setFused cl f) := congrArg Host.Outcome.next (if_pos hb)

theorem any_busy_iff (s : State) (cl : Nat) :
    ((oitems s.blocks).any fun b => b.2.life == .resident && b.2.job.isNone && clusterOfCore b.2.core == cl) = true
      ↔ s.clusterBusy cl := by
  simp [State.clusterBusy, List.any_eq_true, and_assoc]

theorem setFused_ignored {s : State} {cl : Nat} {f : Bool} (h : 12 ≤ cl ∨ s.clusterBusy cl ∨ sget false s.fused cl = f) :
    s.setFused cl f = s := by
  refine if_pos ?_
  rw [Bool.or_eq_true, Bool.or_eq_true, any_busy_iff, beq_iff_eq, decide_eq_true_eq, or_assoc]
  exact h

/-- The package with the mode of a cluster's L1 changed, its lines dropped. -/
theorem setFused_changes {s : State} {cl : Nat} {f : Bool} (hc : cl < 12) (hb : ¬ s.clusterBusy cl)
    (hf : sget false s.fused cl ≠ f) : s.setFused cl f = { s with
      fused := sset false s.fused cl f
      cores := s.cores.map fun kv =>
        if clusterOfCore kv.1 = cl then (kv.1, kv.2.map fun c => { c with l1 := [] }) else kv } := by
  refine if_neg ?_
  rw [Bool.or_eq_true, Bool.or_eq_true, any_busy_iff, beq_iff_eq, decide_eq_true_eq, or_assoc]
  rintro (h | h | h)
  · omega
  · exact hb h
  · exact hf h

/-- A core of the cluster loses its L1 lines, and any other core is as it was. -/
theorem core_setFused {s : State} {cl : Nat} {f : Bool} (hc : cl < 12) (hb : ¬ s.clusterBusy cl)
    (hf : sget false s.fused cl ≠ f) (k : Nat) : (s.setFused cl f).core k
      = if clusterOfCore k = cl then { s.core k with l1 := [] } else s.core k := by
  have dropped : oget (s.setFused cl f).cores k
      = if clusterOfCore k = cl then (oget s.cores k).map fun c => { c with l1 := [] } else oget s.cores k := by
    rw [setFused_changes hc hb hf, ← oget_map_items (fun k v => if clusterOfCore k = cl then
      v.map fun c => { c with l1 := [] } else v) (fun _ => by split <;> rfl) s.cores k]
    congr 1
    refine List.map_congr_left fun kv _ => ?_
    split <;> rfl
  unfold State.core
  rw [dropped]
  split
  · cases oget s.cores k <;> rfl
  · rfl

/-- Settles O58: each act by its own lemma; of the clauses on a failed lane of the bridge, each by what the list that it
speaks of holds. -/
theorem portsAndProtection : Obligations.PortsAndProtection := by
  intro s
  refine ⟨fun hb d p base size hd hp => ?_, fun d p up hd hp => ?_, fun d lane => ?_, fun b id c => oget_poisonLandings,
    fun c r l => failed_of_mem_poisonLine, fun a q => exists_of_mem_poisonRemote, fun b line m l => oget_poisonCopies,
    fun d k x _ hx => ?_, fun d => ⟨rfl, rfl⟩, fun hb cl f => ⟨fun h => ?_, fun hc hn hf => ?_⟩⟩
  · refine ⟨fun hc => ?_, fun hc => ?_⟩
    · rw [exec_secondTierDecoderWrite hb, setDecoder_eq s hd hp base size (clash := false) (by simpa using hc)]
      rfl
    · rw [exec_secondTierDecoderWrite hb, setDecoder_eq s hd hp base size (clash := true) (by simpa using hc)]
      rfl
  · refine ⟨s.setLink d p up, exec_secondTierLink .., ?_, fun q hq => ?_, State.setLink_mem .., ?_⟩ <;>
      rw [setLink_eq s hd hp]
    · rw [die_updDie_same, Die.port_oset_same]
    · rw [die_updDie_same, Die.port_oset_ne _ _ hq]
    · simp
  · refine ⟨_, exec_bridgeLaneFailure .., mem_foldl_laneHits _ _, fun b x hs => ?_⟩
    have listed : oitems s.blocks = [(b, x)] := congrArg oitems hs
    exact congrArg (List.foldl State.laneHits s) listed
  · have left := way7_clearWay7 s d k
    simpa [State.way7, Die.inWay7, hx] using left
  · rw [exec_clusterL1ModeWrite hb, setFused_ignored h]
  · refine ⟨s.setFused cl f, exec_clusterL1ModeWrite hb .., ?_, fun k hk => ?_, fun k hk => ?_, State.setFused_mem .., ?_⟩
    · rw [setFused_changes hc hn hf, sget_sset_same]
    · rw [core_setFused hc hn hf, if_pos hk]
    · rw [core_setFused hc hn hf, if_neg hk]
    · rw [setFused_changes hc hn hf]

end Sys2Proof.Machine
end

section
/-!
SUPPORT. What a word at issue finds in the Bed and its lanes, and how it parks on lines of the Bed (R116 to R119, R234).
-/

namespace Sys2Proof.Machine

/-! ### Lanes -/

theorem lanesOf_maskOf (f : Nat → Bool) : lanesOf (maskOf f) = (List.range 32).filter f :=
  List.filter_congr fun _ hL => getLsbD_maskOf f (List.mem_range.1 hL)

theorem mem_lanesOf_maskOf (f : Nat → Bool) (L : Nat) : L ∈ lanesOf (maskOf f) ↔ L < 32 ∧ f L = true := by
  simp [lanesOf_maskOf]

theorem eq_of_lanes {m n : Mask} (h : ∀ L, L < 32 → m.getLsbD L = n.getLsbD L) : m = n :=
  BitVec.eq_of_getLsbD_eq h

theorem maskOf_eq_zero_iff (f : Nat → Bool) : maskOf f = 0 ↔ ∀ L, L < 32 → f L = false := by
  refine ⟨fun h L hL => ?_, fun h => eq_of_lanes fun L hL => ?_⟩
  · rw [← getLsbD_maskOf f hL, h]
    exact BitVec.getLsbD_zero
  · rw [getLsbD_maskOf f hL, h L hL]
    exact BitVec.getLsbD_zero.symm

theorem lanesOf_eq_nil_iff (m : Mask) : lanesOf m = [] ↔ m = 0 := by
  refine ⟨fun h => eq_of_lanes fun L hL => ?_, fun h => ?_⟩
  · have : L ∉ lanesOf m := by rw [h]; exact List.not_mem_nil
    rw [mem_lanesOf, not_and, Bool.not_eq_true] at this
    rw [this hL]
    exact BitVec.getLsbD_zero.symm
  · subst h
    exact List.eq_nil_iff_forall_not_mem.2 fun L hL => by simp [mem_lanesOf] at hL

theorem lanesOf_twoPow {L : Nat} (hL : L < 32) : lanesOf (BitVec.twoPow 32 L) = [L] := by
  revert L
  decide

theorem pairwise_lanesOf (m : Mask) : (lanesOf m).Pairwise (· < ·) :=
  List.Pairwise.filter _ List.pairwise_lt_range

/-- The lanes of a mask that have a property, each with a value. -/
theorem filterMap_lanesOf {β : Type} (m : Mask) (p : Nat → Bool) (f : Nat → β) :
    (lanesOf m).filterMap (fun L => if p L = true then some (f L) else none)
      = (lanesOf (maskOf fun L => m.getLsbD L && p L)).map f := by
  rw [lanesOf_maskOf, lanesOf]
  induction List.range 32 with
  | nil => rfl
  | cons L l ih => cases hm : m.getLsbD L <;> cases hp : p L <;> simp [hm, hp, ih]

/-! ### The state in which a word has its effect -/

@[simp] theorem issueOf_b (i : Instr) (c : IssueCtx) (s : State) : (issueOf i c s).b = c.blk := rfl
@[simp] theorem issueOf_g (i : Instr) (c : IssueCtx) (s : State) : (issueOf i c s).g = c.grp := rfl

theorem claimed_setGrp (s : State) (b g : Nat) (y : Group) : (s.setGrp b g y).claimed b = s.claimed b := by
  have hcore (k : Nat) : (s.setGrp b g y).core k = s.core k := rfl
  unfold State.claimed
  rw [blk_setGrp, hcore]
  rfl

theorem bedCheck_setGrp (s : State) (b g : Nat) (y : Group) (lines : List Nat) :
    (s.setGrp b g y).bedCheck b lines = s.bedCheck b lines := by
  unfold State.bedCheck
  rw [blk_setGrp, claimed_setGrp]
  rfl

/-- A change of a block that does not rest on its groups goes before a change of a group. -/
theorem updBlk_setGrp {s : State} {b g : Nat} (y : Group) {F : Block → Block}
    (hF : F ((s.blk b).setGrp g y) = (F (s.blk b)).setGrp g y) :
    (s.setGrp b g y).updBlk b F = (s.setBlk b (F (s.blk b))).setGrp b g y := by
  rw [updBlk_of (by simp [State.setGrp, State.setBlk]), blk_setGrp, hF, State.setGrp, State.setGrp, setBlk_setBlk,
    setBlk_setBlk, blk_setBlk_same]

/-- Changes of a block one after another, none of which rests on its groups. -/
theorem foldl_setGrp {α : Type} {F : Block → α → Block} {g : Nat} {y : Group}
    (hF : ∀ x a, F (x.setGrp g y) a = (F x a).setGrp g y) (l : List α) (x : Block) :
    l.foldl F (x.setGrp g y) = (l.foldl F x).setGrp g y := by
  induction l generalizing x with
  | nil => rfl
  | cons a l ih => rw [List.foldl_cons, List.foldl_cons, hF, ih]

theorem block_of_atIssue {i : Instr} {c : IssueCtx} {s : State} (h : AtIssue i c s) : (oget s.blocks c.blk).isSome = true := by
  obtain ⟨-, -, hb, -⟩ := h
  exact hb

theorem legal_of_atIssue {i : Instr} {c : IssueCtx} {s : State} (h : AtIssue i c s) : i.legal = true := by
  obtain ⟨-, -, -, -, hl, -⟩ := h
  exact hl

/-- A word that is kept from issuing, in a state `t` in which its group is `y`. -/
theorem blockOn_setGrp (i : Instr) (c : IssueCtx) (s t : State) (y : Group) (r : ParkReason) (w : Await) :
    ((issueOf i c s).blockOn (t.setGrp c.blk c.grp y) r w).markDone
      = { t.setGrp c.blk c.grp ((y.setPc c.run fun _ => c.pc).parkedOn r w t.cycles.toNat) with
          cur := t.cur.map fun c => { c with res := .blocked } } := by
  rw [Issue.blockOn, markDone_mark _ (by simp), State.parkOn, State.putBack]
  simp only [issueOf_b, issueOf_g]
  rw [updGrp_setGrp, updGrp_setGrp]
  rfl

section
variable {i : Instr} {c : IssueCtx} {s : State} {f : Issue → State → State}

/-- A word whose meaning makes its group wait for something parks it on the word. -/
theorem blocksOn_of (h : AtIssue i c s) (r : ParkReason) (w : Await)
    (he : Sys2Proof.Machine.exec i s = issueWord i s f)
    (hf : f (issueOf i c s) (s.advance (issueOf i c s)) = (issueOf i c s).blockOn (s.advance (issueOf i c s)) r w) :
    Blocks i c s r w := by
  refine ⟨_, ?_, headAt_setPc_setPc c c.next c.pc (c.group s)⟩
  rw [he, issueWord_done h, hf, advance_of h, blockOn_setGrp, h.1]
  rfl

/-- A word that changes its block, and of its group only where the head run stands. -/
theorem exec_setBlk (h : AtIssue i c s) (he : Sys2Proof.Machine.exec i s = issueWord i s f) {F : Block → Block}
    (hF : ∀ y, F ((s.blk c.blk).setGrp c.grp y) = (F (s.blk c.blk)).setGrp c.grp y)
    (hf : f (issueOf i c s) (s.advance (issueOf i c s)) = (s.advance (issueOf i c s)).updBlk c.blk F) :
    Sys2Proof.Machine.exec i s
      = .next (wordDone (s.setBlk c.blk (F (s.blk c.blk))) c ((c.group s).setPc c.run fun _ => c.next) 0) := by
  rw [he, issueWord_done h, hf, advance_of h, updBlk_setGrp _ (hF _)]
  obtain ⟨hc, hr, -⟩ := h
  simp [State.markDone, wordDone, State.setGrp, State.setBlk, hc, hr]

/-- The group with an outstanding result and its register, or its pair of registers, pending (R17, R21). -/
def VarOut.pendingIn (o : VarOut) (y : Group) : Group :=
  if o.hi.isEmpty then ({ y with outs := y.outs ++ [o] } : Group).setPending o.file o.reg true
  else (({ y with outs := y.outs ++ [o] } : Group).setPending o.file o.reg true).setPending o.file (o.reg + 1) true

/-- A word that leaves a result to be written, and does nothing else. -/
theorem exec_later (h : AtIssue i c s) (he : Sys2Proof.Machine.exec i s = issueWord i s f) {o : VarOut} (ho : o.lanes ≠ 0)
    (hf : f (issueOf i c s) (s.advance (issueOf i c s)) = (s.advance (issueOf i c s)).later c.blk c.grp o) :
    Sys2Proof.Machine.exec i s
      = .next { wordDone s c (o.pendingIn ((c.group s).setPc c.run fun _ => c.next)) 0 with
          fresh := s.fresh + 1
          agenda := s.agenda ++ [.variableLatencyResultWrite c.blk c.grp o.uid] } := by
  rw [he, issueWord_done h, hf, advance_of h, State.later, if_neg (by simpa using ho),
    show ∀ y, (s.setGrp c.blk c.grp y).tick = s.tick.setGrp c.blk c.grp y from fun _ => rfl, updGrp_setGrp]
  obtain ⟨hc, hr, -⟩ := h
  simp [State.markDone, wordDone, State.setGrp, State.setBlk, State.post, State.tick, State.blk, hc, hr, VarOut.pendingIn]

end

/-! ### Refetches (R116) -/

/-- The command of a refetch: 256 bytes from the source record into the line. -/
def refetchCommand (b g : Nat) (pc : Word) (w : Word32) (line seq : Nat) (src : Word) : Command := {
  blk := b, grp := g, queue := 0, seq := seq, pc := pc, pusher := w, tl := 0, num := 0
  words := [copyHeader 0 0 false 1 0, src, BitVec.ofNat 64 (256 * line), BitVec.ofNat 64 (2 ^ 32 + 256), 0]
  after := 0, state := .pushed, next := 0, landing := [], failAt := none, stat := 0, detail := 0, out := []
  sending := false, refetch := true }

/-- A block whose line is away until it lands again. -/
def Block.away (x : Block) (line : Nat) : Block := x.setBedLine line { x.bedLine line with absent := true }

@[simp] theorem bedLine_setBedLine (x : Block) (line n : Nat) (m : BedLine) :
    (x.setBedLine line m).bedLine n = if n = line then m else x.bedLine n := sget_sset ..

theorem refetch_eq {s : State} {b : Nat} (hb : (oget s.blocks b).isSome = true) (g : Nat) (pc : Word) (w : Word32)
    {line : Nat} {src : Word} (hs : (s.blk b).refetchFrom line = some src) :
    s.refetch b g pc w line = { s.setBlk b ((s.blk b).away line) with
      fresh := s.fresh + 1
      cmds := oset s.cmds s.fresh (refetchCommand b g pc w line s.fresh src)
      agenda := s.agenda ++ [.copyLinear s.fresh] } := by
  unfold State.refetch
  rw [hs]
  exact congrArg (fun t : State => t.post (.copyLinear s.fresh))
    (updBlk_of (s := { s.tick with cmds := oset s.cmds s.fresh (refetchCommand b g pc w line s.fresh src) }) hb _)

theorem refetch_setGrp {s : State} {b : Nat} (hb : (oget s.blocks b).isSome = true) (g k : Nat) (y : Group) (pc : Word)
    (w : Word32) {line : Nat} {src : Word} (hs : (s.blk b).refetchFrom line = some src) :
    (s.setGrp b k y).refetch b g pc w line = (s.refetch b g pc w line).setGrp b k y := by
  have hs' : ((s.setGrp b k y).blk b).refetchFrom line = some src := by rw [blk_setGrp]; exact hs
  rw [refetch_eq hb g pc w hs, refetch_eq (by simp [State.setGrp, State.setBlk]) g pc w hs']
  simp [State.setGrp, State.setBlk, State.blk, oset_oset]
  rfl

end Sys2Proof.Machine
end

section
/-!
SUPPORT. The Bed loads and stores (R114 to R122): their checks, their waits, and the bytes that they read and write.
-/

namespace Sys2Proof.Machine

/-! ### The words (R122) -/

theorem offsetEa_eq_displaced (I : Issue) (a : BitVec 5) (o : BitVec 6) (n : Nat) :
    (fun L => offsetEa (I.G.rv a.toNat L) o n) = displaced I a o n := by
  funext L
  rw [offsetEa, displaced, BitVec.ofInt_mul]
  rfl

/-- What a Bed access does to the state once its lines are ready. -/
def Issue.bedEffect (I : Issue) (wr : Bool) (t : BitVec 5) (lz : Nat) (ba : Nat → Word) (s : State) : State :=
  if wr then
    s.updBlk I.b fun x => (lanesOf I.act).foldl (fun x L => x.bedStore (ba L).toNat (2 ^ lz) (storedBytes I t lz L)) x
  else
    s.later I.b I.g
      ⟨s.fresh, s.fresh, .v, t.toNat, I.act,
        perLane fun L => if I.act.getLsbD L then BitVec.ofNat 64 ((s.blk I.b).bedRead (ba L).toNat (2 ^ lz)) else 0,
        if lz = 4 then perLane fun L =>
          if I.act.getLsbD L then BitVec.ofNat 64 ((s.blk I.b).bedRead (ba L).toNat (2 ^ lz) / 2 ^ 64) else 0 else [],
        0, 0, 0⟩

section
variable {i : Instr} {c : IssueCtx} {s : State} {wr : Bool} {t : BitVec 5} {lz : Nat} {ba : Nat → Word}

theorem exec_bedRule (hr : bedRule (issueOf i c s) i = some (wr, t, lz, ba)) :
    ∃ f, exec i s = issueWord i s f
      ∧ ∀ u, f (issueOf i c s) u = (issueOf i c s).bed u lz wr ba ((issueOf i c s).bedEffect wr t lz ba) := by
  cases i <;> cases hr
  case lds a o h g =>
    refine ⟨_, show _ = execLds t a o h g s from rfl, fun u => ?_⟩
    rw [offsetEa_eq_displaced, Nat.cast_pow]
    rfl
  case sts a o h g =>
    refine ⟨_, show _ = execSts t a o h g s from rfl, fun u => ?_⟩
    rw [offsetEa_eq_displaced, Nat.cast_pow]
    rfl
  case ldsx a b h x g =>
    refine ⟨_, show _ = execLdsx t a b h x g s from rfl, fun u => ?_⟩
    simp only [beq_iff_eq]
    rfl
  case stsx a b h x g =>
    refine ⟨_, show _ = execStsx t a b h x g s from rfl, fun u => ?_⟩
    simp only [beq_iff_eq]
    rfl

theorem bedRule_size (hr : bedRule (issueOf i c s) i = some (wr, t, lz, ba)) (hl : i.legal = true) : lz ≤ 4 := by
  have fields : i.fieldsOk = true := by
    rw [Instr.legal, Bool.and_eq_true, Bool.and_eq_true] at hl
    exact hl.1.2
  cases i <;> cases hr <;> exact Nat.add_le_add_right (of_decide_eq_true (Bool.and_elim_left fields)) 2

end

/-! ### The checks of one address (R119) -/

theorem staleLine_eq (x : Block) (line : Nat) :
    x.staleLine line = (x.expired line && (x.refetchFrom line).isNone) := by
  unfold Block.staleLine Block.expired Block.refetchFrom
  cases x.plotAt line with
  | none => simp
  | some p => cases hr : p.refetch <;> cases hs : (x.bedLine line).source <;> simp [hr]

theorem bedCode_lt (x : Block) (a : Word) (n : Nat) : x.bedCode a n < 4 := by
  unfold Block.bedCode
  split_ifs <;> decide

theorem bedCheckOf_eq (x : Block) (a : Word) (n : Nat) : x.bedCheckOf a n
    = if x.bedCode a n = 0 then (if x.staleLine (a.toNat / 256) = true then 4 else 0) else x.bedCode a n := by
  unfold Block.bedCheckOf Block.bedCode
  simp only [bne_iff_ne, Option.isNone_iff_eq_none]
  split_ifs <;> simp_all

theorem bedCheckOf_bad_iff (x : Block) (a : Word) (n : Nat) :
    (x.bedCheckOf a n != 0 && x.bedCheckOf a n != 4) = !decide (x.bedCode a n = 0) := by
  have := bedCode_lt x a n
  rw [bedCheckOf_eq]
  split_ifs with h0 h4
  · simp [h0]
  · simp [h0]
  · simp [h0]
    omega

theorem bedCheckOf_of_bad {x : Block} {a : Word} {n : Nat} (h : x.bedCode a n ≠ 0) : x.bedCheckOf a n = x.bedCode a n := by
  rw [bedCheckOf_eq, if_neg h]

theorem bedCheckOf_stale {x : Block} {a : Word} {n : Nat} (h : x.bedCode a n = 0) :
    (x.bedCheckOf a n == 4) = x.staleLine (a.toNat / 256) := by
  rw [bedCheckOf_eq, if_pos h]
  cases x.staleLine (a.toNat / 256) <;> rfl

/-! ### The trap of some lanes (R118) -/

theorem memDetail_bed {lz : Nat} (hz : lz ≤ 4) (va : Word) (wr : Bool) (cause : Nat) (m : Mask) :
    memDetail va lz false wr cause m = BitVec.ofNat 96 (accessDetail m cause lz wr va) := by
  have hs : sizeCode lz = sizeField lz := by
    unfold sizeCode sizeField
    split_ifs <;> omega
  rw [memDetail, accessDetail, hs]
  simp [bits]

/-- The least code of some lanes, as a fold over them finds it. -/
theorem foldl_least {cause : Nat} (h0 : cause ≠ 0) (l : List (Nat × Nat)) (hle : ∀ p ∈ l, cause ≤ p.2) (c : Nat)
    (hc : c = cause ∨ ((c = 0 ∨ cause ≤ c) ∧ ∃ p ∈ l, p.2 = cause)) :
    l.foldl (fun c p => if c = 0 || p.2 < c then p.2 else c) c = cause := by
  induction l generalizing c with
  | nil => simpa using hc
  | cons p l ih =>
    have hp := hle p (by simp)
    refine ih (fun q hq => hle q (by simp [hq])) _ ?_
    simp only [List.mem_cons, exists_eq_or_imp] at hc
    dsimp only
    simp only [Bool.or_eq_true, decide_eq_true_eq]
    by_cases he : p.2 = cause
    · left
      split_ifs <;> omega
    · rcases hc with rfl | ⟨hc, hq⟩
      · left
        rw [if_neg (by omega)]
      · right
        refine ⟨?_, hq.resolve_left he⟩
        split_ifs <;> omega

theorem bedTrap_eq (i : Instr) (c : IssueCtx) (s : State) {lz : Nat} (hz : lz ≤ 4) (wr : Bool) (ba : Nat → Word) {m : Mask}
    {code : Nat → Nat} {cause : Nat} (h0 : cause ≠ 0) (hex : ∃ L ∈ lanesOf m, code L = cause)
    (hle : ∀ L ∈ lanesOf m, cause ≤ code L) :
    (issueOf i c s).bedTrap lz wr ((lanesOf m).map fun L => (L, code L)) ba
      = c.trapOf 4 (accessDetail m cause lz wr (ba (lowest m))) ((lanesOf m).map fun L => (L, code L)) := by
  have lanes : (maskOf fun L => ((lanesOf m).map fun L => (L, code L)).any (·.1 == L)) = m := by
    refine eq_of_lanes fun L hL => ?_
    rw [getLsbD_maskOf _ hL, Bool.eq_iff_iff]
    simp [List.any_eq_true, mem_lanesOf, hL]
  have least := foldl_least h0 ((lanesOf m).map fun L => (L, code L)) (by simpa using hle) 0 (.inr ⟨.inl rfl, by simpa using hex⟩)
  unfold Issue.bedTrap
  simp only [lanes, least]
  rw [memDetail_bed hz]
  rfl

/-! ### What an access comes to (R119, R122, R234) -/

/-- The lanes whose address is misaligned, outside the region or in no plot. -/
def Block.badLanes (x : Block) (act : Mask) (lz : Nat) (ba : Nat → Word) : Mask :=
  maskOf fun L => act.getLsbD L && x.bedCheckOf (ba L) (2 ^ lz) != 0 && x.bedCheckOf (ba L) (2 ^ lz) != 4

/-- The lanes that fail a check of their address, with their codes. -/
def Block.failing (x : Block) (act : Mask) (lz : Nat) (ba : Nat → Word) : List (Nat × Nat) :=
  (lanesOf (x.badLanes act lz ba)).map fun L => (L, x.bedCheckOf (ba L) (2 ^ lz))

theorem filterMap_bedCode (x : Block) (act : Mask) (lz : Nat) (ba : Nat → Word) : ((lanesOf act).filterMap fun L =>
    if x.bedCode (ba L) (2 ^ lz) = 0 then none else some (L, x.bedCode (ba L) (2 ^ lz))) = x.failing act lz ba := by
  have turned : (fun L => if x.bedCode (ba L) (2 ^ lz) = 0 then none else some (L, x.bedCode (ba L) (2 ^ lz)))
      = fun L => if (!decide (x.bedCode (ba L) (2 ^ lz) = 0)) = true then some (L, x.bedCode (ba L) (2 ^ lz)) else none := by
    funext L
    by_cases hc : x.bedCode (ba L) (2 ^ lz) = 0 <;> simp [hc]
  rw [turned, filterMap_lanesOf, Block.failing, Block.badLanes]
  simp only [Bool.and_assoc, bedCheckOf_bad_iff]
  refine List.map_congr_left fun L hL => ?_
  rw [mem_lanesOf_maskOf, Bool.and_eq_true, Bool.not_eq_true', decide_eq_false_iff_not] at hL
  rw [bedCheckOf_of_bad hL.2.2]

theorem mem_bedLinesOf (act : Mask) (ba : Nat → Word) (k : Nat) :
    k ∈ bedLinesOf act ba ↔ ∃ L, L < 32 ∧ act.getLsbD L = true ∧ (ba L).toNat / 256 = k := by
  have all (l : List Nat) (seen : List Nat) : k ∈ l.foldl (fun l L => if l.contains ((ba L).toNat / 256) then l
      else l ++ [(ba L).toNat / 256]) seen ↔ k ∈ seen ∨ ∃ L ∈ l, (ba L).toNat / 256 = k := by
    induction l generalizing seen with
    | nil => simp
    | cons L l ih =>
      rw [List.foldl_cons, ih]
      by_cases h : (ba L).toNat / 256 ∈ seen
      · rw [if_pos (by simpa using h)]
        simp only [List.mem_cons, exists_eq_or_imp]
        exact ⟨fun | .inl h' => .inl h' | .inr h' => .inr (.inr h'),
          fun | .inl h' => .inl h' | .inr (.inl e) => .inl (e ▸ h) | .inr (.inr h') => .inr h'⟩
      · rw [if_neg (by simpa using h)]
        simp [or_assoc, eq_comm]
  rw [bedLinesOf, all]
  simp [mem_lanesOf, and_assoc]

theorem bedLinesOf_twoPow {L : Nat} (hL : L < 32) (ba : Nat → Word) :
    bedLinesOf (BitVec.twoPow 32 L) ba = [(ba L).toNat / 256] := by
  rw [bedLinesOf, lanesOf_twoPow hL]
  rfl

theorem bed_eq (I : Issue) (u : State) (lz : Nat) (wr : Bool) (ba : Nat → Word) (f : State → State) :
    I.bed u lz wr ba f =
      if I.act = 0 then u
      else if (u.blk I.b).badLanes I.act lz ba ≠ 0 then I.trap u (I.bedTrap lz wr ((u.blk I.b).failing I.act lz ba) ba)
      else I.bedLines u (bedLinesOf I.act ba) (fun l => I.bedTrap lz wr ((lanesOf (maskOf fun L => I.act.getLsbD L
        && l.contains ((ba L).toNat / 256))).map fun L => (L, 4)) ba) f := by
  unfold Issue.bed
  dsimp only
  rw [filterMap_bedCode]
  simp only [filterMap_lanesOf]
  have some_lane : (!((u.blk I.b).failing I.act lz ba).isEmpty) = true ↔ (u.blk I.b).badLanes I.act lz ba ≠ 0 := by
    rw [Bool.not_eq_true', List.isEmpty_eq_false_iff, Block.failing, ne_eq, List.map_eq_nil_iff, lanesOf_eq_nil_iff]
  simp only [some_lane, beq_iff_eq]

/-! ### The lines that an access touches -/

/-- The lines of some list that have expired for good, and are claimed by no MDRN. -/
def State.deadLines (s : State) (b : Nat) (lines : List Nat) : List Nat :=
  lines.filter fun l => !(s.claimed b).contains l && (s.blk b).expired l && ((s.blk b).refetchFrom l).isNone

theorem bedCheck_eq (s : State) (b : Nat) (lines : List Nat) : s.bedCheck b lines =
    if s.deadLines b lines ≠ [] then .stale (s.deadLines b lines)
    else if (∃ l ∈ lines, l ∈ s.claimed b) then .claimed (lines.filter (s.claimed b).contains)
    else if lines.filter (s.blk b).expired ≠ [] ∨ (lines.filter fun l => ((s.blk b).bedLine l).absent) ≠ [] then
      .absent (lines.filter (s.blk b).expired ++ lines.filter fun l => ((s.blk b).bedLine l).absent)
        (lines.filter (s.blk b).expired)
    else .ok := by
  unfold State.bedCheck State.deadLines
  simp only [Bool.not_eq_true', List.isEmpty_eq_false_iff, List.any_eq_true, List.contains_iff_mem, Bool.or_eq_true]

section
variable {i : Instr} {c : IssueCtx} {s : State} (h : AtIssue i c s) (lz : Nat) (wr : Bool) (ba : Nat → Word)
  (f : State → State)
include h

theorem bed_advance :
    (issueOf i c s).bed (s.advance (issueOf i c s)) lz wr ba f =
      if (issueOf i c s).act = 0 then s.advance (issueOf i c s)
      else if (s.blk c.blk).badLanes (issueOf i c s).act lz ba ≠ 0 then (issueOf i c s).trap (s.advance (issueOf i c s))
        ((issueOf i c s).bedTrap lz wr ((s.blk c.blk).failing (issueOf i c s).act lz ba) ba)
      else match s.bedCheck c.blk (bedLinesOf (issueOf i c s).act ba) with
        | .stale l => (issueOf i c s).trap (s.advance (issueOf i c s)) ((issueOf i c s).bedTrap lz wr
            ((lanesOf (maskOf fun L => (issueOf i c s).act.getLsbD L && l.contains ((ba L).toNat / 256))).map
              fun L => (L, 4)) ba)
        | .claimed l => (issueOf i c s).blockOn (s.advance (issueOf i c s)) .matrix (.lines l)
        | .absent l r => (issueOf i c s).blockOn
            (r.foldl (fun s l => s.refetch c.blk c.grp c.wpc c.word l) (s.advance (issueOf i c s))) .bedAbsence (.lines l)
        | .ok => f (s.advance (issueOf i c s)) := by
  rw [bed_eq, issueOf_b, blk_advance h, Issue.bedLines, issueOf_b, advance_of h, bedCheck_setGrp]
  rfl

end

/-! ### The lanes on lines that have expired -/

/-- The lanes whose line has expired for good, and is claimed by no MDRN. -/
def State.staleLanes (s : State) (b : Nat) (act : Mask) (lz : Nat) (ba : Nat → Word) : Mask :=
  maskOf fun L => act.getLsbD L && (s.blk b).bedCheckOf (ba L) (2 ^ lz) == 4 && !(s.claimed b).contains ((ba L).toNat / 256)

section
variable {s : State} {b : Nat} {act : Mask} {lz : Nat} {ba : Nat → Word} (hbad : (s.blk b).badLanes act lz ba = 0)
include hbad

theorem bedCode_of_good {L : Nat} (hL : L < 32) (ha : act.getLsbD L = true) : (s.blk b).bedCode (ba L) (2 ^ lz) = 0 := by
  have good := (maskOf_eq_zero_iff _).1 hbad L hL
  rw [Bool.and_assoc, bedCheckOf_bad_iff, ha] at good
  simpa using good

theorem lanes_on_deadLines : (maskOf fun L => act.getLsbD L && (s.deadLines b (bedLinesOf act ba)).contains ((ba L).toNat / 256))
    = s.staleLanes b act lz ba := by
  refine eq_of_lanes fun L hL => ?_
  rw [State.staleLanes, getLsbD_maskOf _ hL, getLsbD_maskOf _ hL]
  cases ha : act.getLsbD L with
  | false => rfl
  | true =>
    have touched : (ba L).toNat / 256 ∈ bedLinesOf act ba := (mem_bedLinesOf ..).2 ⟨L, hL, ha, rfl⟩
    rw [bedCheckOf_stale (bedCode_of_good hbad hL ha), staleLine_eq, Bool.eq_iff_iff]
    simp only [State.deadLines, List.contains_iff_mem, List.mem_filter, Bool.and_eq_true, touched, true_and]
    tauto

theorem deadLines_eq_nil_iff : s.deadLines b (bedLinesOf act ba) = [] ↔ s.staleLanes b act lz ba = 0 := by
  rw [← lanes_on_deadLines hbad, maskOf_eq_zero_iff]
  refine ⟨fun h L _ => by simp [h], fun h => List.eq_nil_iff_forall_not_mem.2 fun l hl => ?_⟩
  obtain ⟨L, hL, ha, rfl⟩ := (mem_bedLinesOf ..).1 (List.mem_of_mem_filter hl)
  have := h L hL
  rw [ha, Bool.true_and, ← Bool.not_eq_true, List.contains_iff_mem] at this
  exact this hl

end

/-! ### Faults and waits of an access -/

section
variable {i : Instr} {c : IssueCtx} {s : State} {wr : Bool} {t : BitVec 5} {lz : Nat} {ba : Nat → Word}
  (h : AtIssue i c s) (hr : bedRule (issueOf i c s) i = some (wr, t, lz, ba))
include h hr

theorem bed_idle (h0 : (issueOf i c s).act = 0) : Effects i c s Written.nothing := by
  obtain ⟨f, he, hf⟩ := exec_bedRule hr
  exact nothing_effects h he (by rw [hf, bed_advance h, if_pos h0])

theorem bed_traps_bad {cause : Nat} (hbad : (s.blk c.blk).badLanes (issueOf i c s).act lz ba ≠ 0)
    (hex : ∃ L ∈ lanesOf ((s.blk c.blk).badLanes (issueOf i c s).act lz ba), (s.blk c.blk).bedCheckOf (ba L) (2 ^ lz) = cause)
    (hle : ∀ L ∈ lanesOf ((s.blk c.blk).badLanes (issueOf i c s).act lz ba), cause ≤ (s.blk c.blk).bedCheckOf (ba L) (2 ^ lz)) :
    Traps i c s (c.trapOf 4 (accessDetail ((s.blk c.blk).badLanes (issueOf i c s).act lz ba) cause lz wr
        (ba (lowest ((s.blk c.blk).badLanes (issueOf i c s).act lz ba))))
      ((s.blk c.blk).failing (issueOf i c s).act lz ba)) := by
  obtain ⟨f, he, hf⟩ := exec_bedRule hr
  have active : (issueOf i c s).act ≠ 0 := fun ha => hbad <| by
    rw [Block.badLanes, maskOf_eq_zero_iff]
    simp [ha]
  have h0 : cause ≠ 0 := by
    obtain ⟨L, hL, rfl⟩ := hex
    rw [Block.badLanes, mem_lanesOf_maskOf, Bool.and_eq_true, Bool.and_eq_true] at hL
    simpa using hL.2.1.2
  refine traps_of_trap h he ?_
  rw [hf, bed_advance h, if_neg active, if_pos hbad]
  exact congrArg _ (bedTrap_eq i c s (bedRule_size hr (legal_of_atIssue h)) wr ba h0 hex hle)

/-- What a word comes to whose addresses are good. -/
theorem exec_bed_good (active : (issueOf i c s).act ≠ 0) (hbad : (s.blk c.blk).badLanes (issueOf i c s).act lz ba = 0) :
    ∃ f, exec i s = issueWord i s f ∧ f (issueOf i c s) (s.advance (issueOf i c s)) =
      match s.bedCheck c.blk (bedLinesOf (issueOf i c s).act ba) with
        | .stale l => (issueOf i c s).trap (s.advance (issueOf i c s)) ((issueOf i c s).bedTrap lz wr
            ((lanesOf (maskOf fun L => (issueOf i c s).act.getLsbD L && l.contains ((ba L).toNat / 256))).map
              fun L => (L, 4)) ba)
        | .claimed l => (issueOf i c s).blockOn (s.advance (issueOf i c s)) .matrix (.lines l)
        | .absent l r => (issueOf i c s).blockOn
            (r.foldl (fun s l => s.refetch c.blk c.grp c.wpc c.word l) (s.advance (issueOf i c s))) .bedAbsence (.lines l)
        | .ok => (issueOf i c s).bedEffect wr t lz ba (s.advance (issueOf i c s)) := by
  obtain ⟨f, he, hf⟩ := exec_bedRule hr
  exact ⟨f, he, by rw [hf, bed_advance h, if_neg active, if_neg (not_not_intro hbad)]⟩

theorem bed_traps_stale (hbad : (s.blk c.blk).badLanes (issueOf i c s).act lz ba = 0)
    (hst : s.staleLanes c.blk (issueOf i c s).act lz ba ≠ 0) :
    Traps i c s (c.trapOf 4 (accessDetail (s.staleLanes c.blk (issueOf i c s).act lz ba) 4 lz wr
        (ba (lowest (s.staleLanes c.blk (issueOf i c s).act lz ba))))
      ((lanesOf (s.staleLanes c.blk (issueOf i c s).act lz ba)).map fun L => (L, 4))) := by
  have active : (issueOf i c s).act ≠ 0 := fun ha => hst <| by
    rw [State.staleLanes, maskOf_eq_zero_iff]
    simp [ha]
  obtain ⟨L, hL⟩ := List.exists_mem_of_ne_nil _ ((lanesOf_eq_nil_iff _).not.2 hst)
  obtain ⟨f, he, hf⟩ := exec_bed_good h hr active hbad
  refine traps_of_trap h he ?_
  rw [hf, bedCheck_eq, if_pos ((deadLines_eq_nil_iff hbad).not.2 hst)]
  dsimp only
  rw [lanes_on_deadLines hbad]
  exact congrArg _ (bedTrap_eq i c s (bedRule_size hr (legal_of_atIssue h)) wr ba (by decide) ⟨L, hL, rfl⟩ fun _ _ => le_rfl)

theorem bed_blocks_claimed (hbad : (s.blk c.blk).badLanes (issueOf i c s).act lz ba = 0)
    (hst : s.staleLanes c.blk (issueOf i c s).act lz ba = 0)
    (hk : ∃ k ∈ s.claimed c.blk, k ∈ bedLinesOf (issueOf i c s).act ba) :
    ∃ l, Blocks i c s .matrix (.lines l) ∧ ∀ k, k ∈ l ↔ k ∈ bedLinesOf (issueOf i c s).act ba ∧ k ∈ s.claimed c.blk := by
  obtain ⟨k, hc, ht⟩ := hk
  have active : (issueOf i c s).act ≠ 0 := fun ha => by
    obtain ⟨L, -, hL, -⟩ := (mem_bedLinesOf ..).1 ht
    simp [ha] at hL
  obtain ⟨f, he, hf⟩ := exec_bed_good h hr active hbad
  refine ⟨_, blocksOn_of h .matrix _ he ?_, fun n => List.mem_filter.trans (and_congr_right' List.contains_iff_mem)⟩
  rw [hf, bedCheck_eq, if_neg (not_not_intro ((deadLines_eq_nil_iff hbad).2 hst)), if_pos ⟨k, ht, hc⟩]

theorem bed_blocks_absent (hbad : (s.blk c.blk).badLanes (issueOf i c s).act lz ba = 0)
    (hgood : ∀ k ∈ bedLinesOf (issueOf i c s).act ba, k ∉ s.claimed c.blk ∧ (s.blk c.blk).expired k = false)
    (hk : ∃ k ∈ bedLinesOf (issueOf i c s).act ba, ((s.blk c.blk).bedLine k).absent = true) :
    ∃ l, Blocks i c s .bedAbsence (.lines l)
      ∧ ∀ k, k ∈ l ↔ k ∈ bedLinesOf (issueOf i c s).act ba ∧ ((s.blk c.blk).bedLine k).absent = true := by
  obtain ⟨k, ht, hab⟩ := hk
  have active : (issueOf i c s).act ≠ 0 := fun ha => by
    obtain ⟨L, -, hL, -⟩ := (mem_bedLinesOf ..).1 ht
    simp [ha] at hL
  have none_old : (bedLinesOf (issueOf i c s).act ba).filter (s.blk c.blk).expired = [] :=
    List.filter_eq_nil_iff.2 fun n hn => by simp [(hgood n hn).2]
  have none_dead : s.deadLines c.blk (bedLinesOf (issueOf i c s).act ba) = [] :=
    List.filter_eq_nil_iff.2 fun n hn => by simp [(hgood n hn).2]
  have none_claimed : ¬ ∃ n ∈ bedLinesOf (issueOf i c s).act ba, n ∈ s.claimed c.blk := fun ⟨n, hn, hc⟩ => (hgood n hn).1 hc
  have some_gone := List.ne_nil_of_mem (List.mem_filter (p := fun l => ((s.blk c.blk).bedLine l).absent).2 ⟨ht, hab⟩)
  obtain ⟨f, he, hf⟩ := exec_bed_good h hr active hbad
  refine ⟨_, blocksOn_of h .bedAbsence _ he ?_, fun n => List.mem_filter⟩
  rw [hf, bedCheck_eq, if_neg (not_not_intro none_dead), if_neg none_claimed, if_pos (.inr some_gone), none_old]
  rfl

end

end Sys2Proof.Machine
end

section
/-!
SUPPORT. The effect of a Bed access: its refetch, its result to come, its bytes stored (R115, R116, R120 to R122).
-/

namespace Sys2Proof.Machine

/-! ### Bytes stored (R33, R115, R120) -/

theorem bedWriteBytes_rest (x : Block) (a : Nat) (l : List Byte) : { x.bedWriteBytes a l with bed := x.bed } = x := by
  induction l generalizing x a with
  | nil => rfl
  | cons v l ih => exact congrArg (fun z : Block => { z with bed := x.bed }) (ih { x with bed := sset 0 x.bed a v } (a + 1))

theorem sget_bedWriteBytes (x : Block) (a : Nat) (l : List Byte) (k : Nat) :
    sget 0 (x.bedWriteBytes a l).bed k = if a ≤ k then l.getD (k - a) (sget 0 x.bed k) else sget 0 x.bed k := by
  induction l generalizing x a with
  | nil => simp [Block.bedWriteBytes]
  | cons v l ih =>
    rw [Block.bedWriteBytes, ih]
    rcases Nat.lt_trichotomy k a with h | rfl | h
    · rw [if_neg (by omega), if_neg (by omega), sget_sset_ne _ _ _ (by omega)]
    · rw [if_neg (by omega), if_pos le_rfl, sget_sset_same, Nat.sub_self]
      rfl
    · rw [if_pos (show a + 1 ≤ k from h), if_pos h.le, sget_sset_ne _ _ _ (by omega), show k - a = k - (a + 1) + 1 by omega]
      rfl

theorem sget_bedWrite (x : Block) (a n v k : Nat) : sget 0 (x.bedWrite a n v).bed k
    = if a ≤ k ∧ k < a + n then BitVec.ofNat 8 (v / 256 ^ (k - a)) else sget 0 x.bed k := by
  rw [Block.bedWrite, sget_bedWriteBytes, List.getD_eq_getElem?_getD]
  by_cases ha : a ≤ k
  · by_cases hn : k < a + n
    · rw [if_pos ha, if_pos ⟨ha, hn⟩, Laws.getElem?_bytesLe (by omega)]
      rfl
    · rw [if_pos ha, if_neg (by omega), List.getElem?_eq_none (by rw [Laws.length_bytesLe]; omega)]
      rfl
  · rw [if_neg ha, if_neg (by omega)]

/-- A block after stores of n bytes by some lanes. -/
def Block.storeLanes (x : Block) (l : List Nat) (at_ v : Nat → Nat) (n : Nat) : Block :=
  l.foldl (fun x L => x.bedStore (at_ L) n (v L)) x

section
variable (at_ v : Nat → Nat) (n : Nat)

theorem bedStore_rest (x : Block) (a v : Nat) : { x.bedStore a n v with bed := x.bed, bedMeta := x.bedMeta } = x :=
  congrArg (fun z : Block => { z with bedMeta := x.bedMeta }) (bedWriteBytes_rest x a _)

theorem bedLine_bedStore (x : Block) (a v k : Nat) :
    (x.bedStore a n v).bedLine k = if k = a / 256 then ⟨0, false, none⟩ else x.bedLine k := by
  rw [Block.bedStore, bedLine_setBedLine]
  split
  · rfl
  · have kept := congrArg (fun z : Block => z.bedLine k) (bedWriteBytes_rest x a (bytesLe n v))
    exact kept

theorem storeLanes_rest (x : Block) (l : List Nat) :
    { x.storeLanes l at_ v n with bed := x.bed, bedMeta := x.bedMeta } = x := by
  induction l generalizing x with
  | nil => rfl
  | cons L l ih =>
    calc { (x.bedStore (at_ L) n (v L)).storeLanes l at_ v n with bed := x.bed, bedMeta := x.bedMeta }
        = { x.bedStore (at_ L) n (v L) with bed := x.bed, bedMeta := x.bedMeta } :=
          congrArg (fun z : Block => { z with bed := x.bed, bedMeta := x.bedMeta }) (ih (x.bedStore (at_ L) n (v L)))
      _ = x := bedStore_rest n x (at_ L) (v L)

theorem bedLine_storeLanes (x : Block) (l : List Nat) (k : Nat) :
    (x.storeLanes l at_ v n).bedLine k = if ∃ L ∈ l, at_ L / 256 = k then ⟨0, false, none⟩ else x.bedLine k := by
  induction l generalizing x with
  | nil => simp [Block.storeLanes]
  | cons L l ih =>
    rw [Block.storeLanes, List.foldl_cons]
    refine (ih _).trans ?_
    rw [bedLine_bedStore]
    simp only [List.mem_cons, exists_eq_or_imp]
    by_cases hk : at_ L / 256 = k
    · simp [hk]
    · simp [hk, Ne.symm hk]

/-- A byte that no lane stores. -/
theorem sget_storeLanes_uncovered (x : Block) (l : List Nat) {a : Nat} (h : ∀ L ∈ l, ¬ (at_ L ≤ a ∧ a < at_ L + n)) :
    sget 0 (x.storeLanes l at_ v n).bed a = sget 0 x.bed a := by
  induction l generalizing x with
  | nil => rfl
  | cons L l ih =>
    rw [Block.storeLanes, List.foldl_cons]
    refine (ih _ fun K hK => h K (by simp [hK])).trans ?_
    exact (sget_bedWrite ..).trans (if_neg (h L (by simp)))

/-- Of the lanes that store a byte, the highest one's stands. -/
theorem sget_storeLanes_covered (x : Block) (l : List Nat) (hl : l.Pairwise (· < ·)) {a L : Nat} (hL : L ∈ l)
    (ha : at_ L ≤ a ∧ a < at_ L + n) (hK : ∀ K ∈ l, L < K → ¬ (at_ K ≤ a ∧ a < at_ K + n)) :
    sget 0 (x.storeLanes l at_ v n).bed a = BitVec.ofNat 8 (v L / 256 ^ (a - at_ L)) := by
  induction l generalizing x with
  | nil => cases hL
  | cons M l ih =>
    obtain ⟨hM, hl⟩ := List.pairwise_cons.1 hl
    rw [Block.storeLanes, List.foldl_cons]
    rcases List.mem_cons.1 hL with rfl | hL
    · refine (sget_storeLanes_uncovered at_ v n _ l fun K hKl => hK K (by simp [hKl]) (hM K hKl)).trans ?_
      exact (sget_bedWrite ..).trans (if_pos ha)
    · exact ih _ hl hL fun K hKl => hK K (by simp [hKl])

theorem storeLanes_setGrp (x : Block) (g : Nat) (y : Group) (l : List Nat) :
    (x.setGrp g y).storeLanes l at_ v n = (x.storeLanes l at_ v n).setGrp g y := by
  refine foldl_setGrp (fun x L => ?_) l x
  have wrote (l : List Byte) (x : Block) (a : Nat) : (x.setGrp g y).bedWriteBytes a l = (x.bedWriteBytes a l).setGrp g y := by
    induction l generalizing x a with
    | nil => rfl
    | cons b l ih => exact ih { x with bed := sset 0 x.bed a b } (a + 1)
  rw [Block.bedStore, Block.bedWrite, wrote]
  rfl

end

/-! ### The accesses (R116, R121, R122) -/

section
variable {i : Instr} {c : IssueCtx} {s : State} {wr : Bool} {t : BitVec 5} {lz : Nat} {ba : Nat → Word}
  (h : AtIssue i c s) (hr : bedRule (issueOf i c s) i = some (wr, t, lz, ba))
include h hr

theorem bed_refetches {L : Nat} {src : Word} (hL : L < 32) (hact : (issueOf i c s).act = BitVec.twoPow 32 L)
    (hbad : (s.blk c.blk).badLanes (issueOf i c s).act lz ba = 0) (hc : (ba L).toNat / 256 ∉ s.claimed c.blk)
    (hx : (s.blk c.blk).expired ((ba L).toNat / 256) = true)
    (hs : (s.blk c.blk).refetchFrom ((ba L).toNat / 256) = some src) :
    ∃ y, HeadAt c c.pc (c.group s) y
      ∧ exec i s = .next { (s.refetch c.blk c.grp c.wpc c.word ((ba L).toNat / 256)).setGrp c.blk c.grp
          (y.parkedOn .bedAbsence (.lines [(ba L).toNat / 256]) s.cycles.toNat) with cur := some { c with res := .blocked } } := by
  have active : (issueOf i c s).act ≠ 0 := by
    rw [hact]
    exact fun h0 => List.cons_ne_nil L [] ((lanesOf_twoPow hL).symm.trans ((lanesOf_eq_nil_iff _).2 h0))
  have present : ((s.blk c.blk).bedLine ((ba L).toNat / 256)).absent = false := by
    rw [Block.expired, Bool.and_eq_true, Bool.not_eq_true'] at hx
    exact hx.1
  obtain ⟨f, he, hf⟩ := exec_bed_good h hr active hbad
  have check : s.bedCheck c.blk (bedLinesOf (issueOf i c s).act ba)
      = .absent [(ba L).toNat / 256] [(ba L).toNat / 256] := by
    rw [hact, bedLinesOf_twoPow hL, bedCheck_eq]
    simp [State.deadLines, hc, hx, hs, present]
  have state : f (issueOf i c s) (s.advance (issueOf i c s)) = (issueOf i c s).blockOn
      ((s.refetch c.blk c.grp c.wpc c.word ((ba L).toNat / 256)).setGrp c.blk c.grp
        ((c.group s).setPc c.run fun _ => c.next)) .bedAbsence (.lines [(ba L).toNat / 256]) := by
    rw [hf, check, advance_of h, ← refetch_setGrp (block_of_atIssue h) c.grp c.grp _ c.wpc c.word hs]
    rfl
  refine ⟨_, headAt_setPc_setPc c c.next c.pc (c.group s), ?_⟩
  rw [he, issueWord_done h, state, blockOn_setGrp, refetch_eq (block_of_atIssue h) c.grp c.wpc c.word hs]
  simp [h.1]

theorem bed_goes (active : (issueOf i c s).act ≠ 0) (hbad : (s.blk c.blk).badLanes (issueOf i c s).act lz ba = 0)
    (hready : ∀ L, L < 32 → (issueOf i c s).act.getLsbD L = true → s.lineReady c.blk ((ba L).toNat / 256)) :
    ∃ f, exec i s = issueWord i s f ∧ f (issueOf i c s) (s.advance (issueOf i c s))
      = (issueOf i c s).bedEffect wr t lz ba (s.advance (issueOf i c s)) := by
  have ready : ∀ k ∈ bedLinesOf (issueOf i c s).act ba, ((s.blk c.blk).bedLine k).absent = false
      ∧ (s.blk c.blk).expired k = false ∧ k ∉ s.claimed c.blk := by
    intro k hk
    obtain ⟨L, hL, ha, rfl⟩ := (mem_bedLinesOf ..).1 hk
    obtain ⟨present, young, unclaimed⟩ := hready L hL ha
    refine ⟨present, ?_, unclaimed⟩
    unfold Block.expired
    cases hp : (s.blk c.blk).plotAt ((ba L).toNat / 256) with
    | none => simp
    | some p => simpa using fun _ => young p hp
  obtain ⟨f, he, hf⟩ := exec_bed_good h hr active hbad
  refine ⟨f, he, ?_⟩
  have none_dead : s.deadLines c.blk (bedLinesOf (issueOf i c s).act ba) = [] :=
    List.filter_eq_nil_iff.2 fun n hn => by simp [(ready n hn).2.1]
  have none_claimed : ¬ ∃ n ∈ bedLinesOf (issueOf i c s).act ba, n ∈ s.claimed c.blk := fun ⟨n, hn, hc⟩ =>
    (ready n hn).2.2 hc
  have none_old : (bedLinesOf (issueOf i c s).act ba).filter (s.blk c.blk).expired = [] :=
    List.filter_eq_nil_iff.2 fun n hn => by simp [(ready n hn).2.1]
  have none_gone : ((bedLinesOf (issueOf i c s).act ba).filter fun l => ((s.blk c.blk).bedLine l).absent) = [] :=
    List.filter_eq_nil_iff.2 fun n hn => by simp [(ready n hn).1]
  rw [hf, bedCheck_eq, if_neg (not_not_intro none_dead), if_neg none_claimed, if_neg (by simp [none_old, none_gone])]

end

section
variable {i : Instr} {c : IssueCtx} {s : State} {t : BitVec 5} {lz : Nat} {ba : Nat → Word} (h : AtIssue i c s)
  (active : (issueOf i c s).act ≠ 0) (hbad : (s.blk c.blk).badLanes (issueOf i c s).act lz ba = 0)
  (hready : ∀ L, L < 32 → (issueOf i c s).act.getLsbD L = true → s.lineReady c.blk ((ba L).toNat / 256))
include h active hbad hready

/-- A load leaves the bytes of its lanes to be written to its register, or to its pair. -/
theorem bed_loads (hr : bedRule (issueOf i c s) i = some (false, t, lz, ba)) :
    ∃ y, HeadAt c c.next (c.group s) y ∧
      let v (L : Nat) : Nat := if (issueOf i c s).act.getLsbD L then (s.blk c.blk).bedRead (ba L).toNat (2 ^ lz) else 0
      let o : VarOut := ⟨s.fresh, s.fresh, .v, t.toNat, (issueOf i c s).act, perLane fun L => BitVec.ofNat 64 (v L),
        if lz = 4 then perLane fun L => BitVec.ofNat 64 (v L / 2 ^ 64) else [], 0, 0, 0⟩
      exec i s = .next { wordDone s c { y with
            outs := y.outs ++ [o]
            pendV := y.pendV ||| BitVec.twoPow 32 t.toNat ||| (if lz = 4 then BitVec.twoPow 32 (t.toNat + 1) else 0) } 0 with
          fresh := s.fresh + 1
          agenda := s.agenda ++ [.variableLatencyResultWrite c.blk c.grp s.fresh] } := by
  obtain ⟨f, he, hf⟩ := bed_goes h hr active hbad hready
  refine ⟨_, headAt_setPc c c.next (c.group s), ?_⟩
  intro v o
  have effect : (issueOf i c s).bedEffect false t lz ba (s.advance (issueOf i c s))
      = (s.advance (issueOf i c s)).later c.blk c.grp o := by
    have low (L : Nat) : (if (issueOf i c s).act.getLsbD L = true
        then BitVec.ofNat 64 ((s.blk c.blk).bedRead (ba L).toNat (2 ^ lz)) else 0) = BitVec.ofNat 64 (v L) := by
      simp only [v]
      split <;> rfl
    have high (L : Nat) : (if (issueOf i c s).act.getLsbD L = true
        then BitVec.ofNat 64 ((s.blk c.blk).bedRead (ba L).toNat (2 ^ lz) / 2 ^ 64) else 0)
          = BitVec.ofNat 64 (v L / 2 ^ 64) := by
      simp only [v]
      split <;> rfl
    simp only [o, ← low, ← high]
    rw [Issue.bedEffect, if_neg Bool.false_ne_true, fresh_advance h, issueOf_b, blk_advance h]
    rfl
  refine (exec_later h he (o := o) active (hf.trans effect)).trans ?_
  congr 3
  by_cases h4 : lz = 4
  · simp [VarOut.pendingIn, o, h4, Group.setPending, perLane]
  · simp [VarOut.pendingIn, o, h4, Group.setPending]

/-- A store writes the bytes of its lanes, in ascending order of the lanes. -/
theorem bed_stores (hr : bedRule (issueOf i c s) i = some (true, t, lz, ba)) :
    exec i s = .next (wordDone (s.setBlk c.blk ((s.blk c.blk).storeLanes (lanesOf (issueOf i c s).act)
        (fun L => (ba L).toNat) (storedBytes (issueOf i c s) t lz) (2 ^ lz))) c ((c.group s).setPc c.run fun _ => c.next) 0) := by
  obtain ⟨f, he, hf⟩ := bed_goes h hr active hbad hready
  refine exec_setBlk h he (F := fun x => x.storeLanes (lanesOf (issueOf i c s).act) (fun L => (ba L).toNat)
    (storedBytes (issueOf i c s) t lz) (2 ^ lz)) (fun y => ?_) (hf.trans (if_pos rfl))
  exact storeLanes_setGrp ..

end

/-- Settles O42: a word either takes a trap of its lanes, or waits for its lines, or goes (`bed_advance`, `bedCheck_eq`); what
a store leaves is a fold over its lanes. -/
theorem bedAccesses : Obligations.BedAccesses := by
  intro i c s wr t lz ba hr h I x code bad line stale touched covers
  have touched_iff (k : Nat) : touched k ↔ k ∈ bedLinesOf I.act ba := (mem_bedLinesOf ..).symm
  refine ⟨bed_idle h hr, fun cause hb hex hle => bed_traps_bad h hr hb hex hle, bed_traps_stale h hr, fun hb hst hk => ?_,
    fun hb hgood hk => ?_, fun L src hL hact hb hc hx hs => bed_refetches h hr hL hact hb hc hx hs,
    fun active hb _ hready => ⟨?_, ?_⟩⟩
  · simp only [touched_iff] at hk ⊢
    exact bed_blocks_claimed h hr hb hst hk
  · simp only [touched_iff] at hgood hk ⊢
    exact bed_blocks_absent h hr hb hgood hk
  · rintro rfl
    exact bed_loads h active hb hready hr
  · rintro rfl
    have mem (L : Nat) : L ∈ lanesOf I.act ↔ L < 32 ∧ I.act.getLsbD L = true := mem_lanesOf ..
    refine ⟨_, _, headAt_setPc c c.next (c.group s), bed_stores h active hb hready hr, storeLanes_rest .., fun a ha => ?_,
      fun L a hL ha hK => ?_, fun L hL hl => ?_, fun k hk => ?_⟩
    · exact sget_storeLanes_uncovered _ _ _ _ _ fun L hL hc => ha L ⟨((mem L).1 hL).2, hc⟩
    · exact sget_storeLanes_covered _ _ _ _ _ (pairwise_lanesOf _) ((mem L).2 ⟨hL, ha.1⟩) ha.2
        fun K hK' hlt hc => hK K hlt ⟨((mem K).1 hK').2, hc⟩
    · rw [bedLine_storeLanes, if_pos ⟨L, (mem L).2 ⟨hL, hl⟩, rfl⟩]
    · rw [bedLine_storeLanes, if_neg]
      rintro ⟨L, hL, e⟩
      exact hk L ((mem L).1 hL).1 ((mem L).1 hL).2 e

end Sys2Proof.Machine
end

section
/-!
SUPPORT. PLOT, UNPLOT, RENEW and PRES (R111, R112, R118, R123 to R126).
-/

namespace Sys2Proof.Machine

/-! ### Free lines and free slots (R111) -/

theorem fitsAt_iff (x : Block) (n l : Nat) : x.freeRun l n = true ↔ x.fitsAt n l := by
  simp [Block.freeRun, Block.fitsAt]

/-- The least element of a list, as a fold over it finds it. -/
theorem foldl_min_eq {m : Nat} (l : List Nat) (hle : ∀ k ∈ l, m ≤ k) (acc : Option Nat)
    (h : acc = some m ∨ (m ∈ l ∧ ∀ k, acc = some k → m ≤ k)) :
    l.foldl (fun m l => match m with | none => some l | some k => some (min k l)) acc = some m := by
  induction l generalizing acc with
  | nil => simpa using h
  | cons k l ih =>
    have hk := hle k (by simp)
    refine ih (fun j hj => hle j (by simp [hj])) _ ?_
    rcases h with rfl | ⟨hm, hacc⟩
    · exact .inl (congrArg some (min_eq_left hk))
    · rcases List.mem_cons.1 hm with rfl | hm
      · left
        cases acc with
        | none => rfl
        | some j => exact congrArg some (min_eq_right (hacc j rfl))
      · right
        refine ⟨hm, fun j hj => ?_⟩
        cases acc with
        | none => exact Option.some.inj hj ▸ hk
        | some a => exact Option.some.inj hj ▸ le_min (hacc a rfl) hk

theorem firstFit_eq_some {x : Block} {n l : Nat} (h : x.fitsAt n l) (hlow : ∀ m, m < l → ¬ x.fitsAt n m) :
    x.firstFit n = some l := by
  refine foldl_min_eq _ (fun k hk => ?_) none (.inr ⟨?_, nofun⟩)
  · exact not_lt.1 fun hlt => hlow k hlt ((fitsAt_iff ..).1 (List.mem_filter.1 hk).2)
  · refine List.mem_filter.2 ⟨?_, (fitsAt_iff ..).2 h⟩
    obtain ⟨hroom, hfree⟩ := h
    -- the line below does not fit, so that some plot ends just there
    cases l with
    | zero => exact List.mem_cons_self
    | succ l =>
      have below := hlow l (Nat.lt_succ_self l)
      rw [Block.fitsAt, not_and_or, not_forall] at below
      obtain ⟨p, hp⟩ := below.resolve_left (not_not_intro (by omega))
      rw [Classical.not_imp, not_or] at hp
      obtain ⟨hp, hbase, hend⟩ := hp
      have := hfree p hp
      exact List.mem_cons_of_mem _ (List.mem_map.2 ⟨p, hp, by omega⟩)

theorem firstFit_eq_none {x : Block} {n : Nat} (h : ∀ l, ¬ x.fitsAt n l) : x.firstFit n = none := by
  rw [Block.firstFit, List.filter_eq_nil_iff.2 fun l _ => (fitsAt_iff ..).not.2 (h l)]
  rfl

theorem freeSlot_eq_some {x : Block} {k : Nat} (hk : k < 64) (hn : oget x.plots k = none)
    (hlow : ∀ j, j < k → (oget x.plots j).isSome = true) : x.freeSlot = some k := by
  rw [Block.freeSlot, List.find?_range_eq_some]
  exact ⟨by simp [hn], List.mem_range.2 hk, fun j hj => by simp [hlow j hj]⟩

theorem freeSlot_eq_none {x : Block} (h : ∀ j, j < 64 → (oget x.plots j).isSome = true) : x.freeSlot = none := by
  rw [Block.freeSlot, List.find?_eq_none]
  intro j hj
  rw [Option.isNone_iff_eq_none, ← ne_eq, Option.ne_none_iff_isSome]
  exact h j (List.mem_range.1 hj)

/-! ### Lines cleared (R111) -/

/-- A filter on keys takes out what is listed at a key that does not pass. -/
theorem sget_filter_out {α : Type} {d : α} {p : Nat → Bool} {k : Nat} (hp : p k = false) (m : SMap α) :
    sget d (m.filter fun kv => p kv.1) k = d := by
  refine Laws.sget_append_left (a := []) fun kv hkv he => ?_
  rw [List.mem_filter, he, hp] at hkv
  exact Bool.false_ne_true hkv.2

theorem linesCleared_clearLines (x : Block) (l n : Nat) (q : OMap Plot) :
    LinesCleared l n x { x.clearLines l n with plots := q } where
  rest := rfl
  bytes a := by
    by_cases h : 256 * l ≤ a ∧ a < 256 * (l + n)
    · rw [if_pos h]
      exact sget_filter_out (p := fun k => !(decide (256 * l ≤ k) && decide (k < 256 * (l + n)))) (by simpa using h) _
    · rw [if_neg h]
      exact Laws.sget_filter (p := fun k => !(decide (256 * l ≤ k) && decide (k < 256 * (l + n)))) (by simp; omega) _
  lines k := by
    by_cases h : l ≤ k ∧ k < l + n
    · rw [if_pos h]
      exact sget_filter_out (p := fun k => !(decide (l ≤ k) && decide (k < l + n))) (by simpa using h) _
    · rw [if_neg h]
      exact Laws.sget_filter (p := fun k => !(decide (l ≤ k) && decide (k < l + n))) (by simp; omega) _

/-! ### PLOT (R111, R112, R123) -/

theorem plotTrap_eq (i : Instr) (c : IssueCtx) (s : State) (v : Word) : (issueOf i c s).plotTrap v
    = c.trapOf 4 (plotDetail (issueOf i c s).act v) [(lowest (issueOf i c s).act, 5)] := by
  unfold Issue.plotTrap
  dsimp only
  rw [memDetail_bed (by decide)]
  rfl

/-- An operand of PLOT is out of range. -/
theorem plotOperand_iff (v : Word) (n : Nat) :
    (decide (v = 0) || decide (n < v.toNat)) = true ↔ v.toNat = 0 ∨ n < v.toNat := by
  rw [Bool.or_eq_true, decide_eq_true_eq, decide_eq_true_eq, ← BitVec.toNat_inj]
  rfl

/-- The block with the plot of a free slot and a run of free lines. -/
def Block.plotted (x : Block) (k l n life : Nat) (r : Bool) : Block :=
  { x.clearLines l n with plots := oset x.plots k ⟨l, n, life, r⟩ }

theorem makePlot_eq {x : Block} {k l n : Nat} (hk : x.freeSlot = some k) (hl : x.firstFit n = some l) (life : Nat) (r : Bool) :
    x.makePlot n life r = some (x.plotted k l n life r, BitVec.ofNat 64 (n * 2 ^ 50 + k * 2 ^ 32 + l * 256)) := by
  rw [Block.makePlot, hk, hl]
  rfl

theorem makePlot_none {x : Block} {n : Nat} (h : x.freeSlot = none ∨ x.firstFit n = none) (life : Nat) (r : Bool) :
    x.makePlot n life r = none := by
  unfold Block.makePlot
  rcases h with h | h <;> rw [h]
  cases x.freeSlot <;> rfl

/-- A word stands at issue as before when the plots and the Bed of its block have changed. -/
theorem atIssue_plotted {i : Instr} {c : IssueCtx} {s : State} (h : AtIssue i c s) (k l n life : Nat) (r : Bool) :
    issueOf i c (s.setBlk c.blk ((s.blk c.blk).plotted k l n life r)) = issueOf i c s
      ∧ AtIssue i c (s.setBlk c.blk ((s.blk c.blk).plotted k l n life r)) := by
  have same : issueOf i c (s.setBlk c.blk ((s.blk c.blk).plotted k l n life r)) = issueOf i c s := by
    unfold issueOf State.grp
    rw [blk_setBlk_same]
    rfl
  refine ⟨same, ?_⟩
  obtain ⟨hc, hr, -, hg, hl, hj, hp, ht, hd⟩ := h
  refine ⟨hc, hr, by simp [State.setBlk], by rw [blk_setBlk_same]; exact hg, hl, ?_, ?_, ?_, ?_⟩
  · rw [same, issueOf_b, blk_setBlk_same]
    exact hj
  · rw [same]
    exact hp
  · rw [same]
    exact ht
  · rw [same, issueOf_b, State.gridOf, blk_setBlk_same]
    exact hd

/-- A word that changes its block otherwise than in its groups, and leaves a lane-register result to be written. -/
theorem exec_laterV_setBlk {i : Instr} {c : IssueCtx} {s : State} {f : Issue → State → State} (h : AtIssue i c s)
    (active : (issueOf i c s).act ≠ 0) (he : exec i s = issueWord i s f) {x : Block}
    (same : issueOf i c (s.setBlk c.blk x) = issueOf i c s) (h' : AtIssue i c (s.setBlk c.blk x))
    (hg : x.grp c.grp = c.group s) (d : BitVec 5) (v : Nat → Word × Flags)
    (hf : f (issueOf i c s) (s.advance (issueOf i c s))
      = (issueOf i c s).laterV ((s.setBlk c.blk x).setGrp c.blk c.grp ((c.group s).setPc c.run fun _ => c.next)) d v) :
    ∃ y, exec i s = .next (resultAwaited (s.setBlk c.blk x) c y 0)
      ∧ (Awaited.lanes (issueOf i c s) d 0 v).Holds s.fresh c (issueOf i c s).act (c.group s) y := by
  have group : c.group (s.setBlk c.blk x) = c.group s := by
    rw [← hg]
    exact congrArg (·.grp c.grp) (blk_setBlk_same ..)
  have advanced := advance_of h'
  have left := later_advance h' (.lanes (issueOf i c s) d 0 v) (by rwa [same])
  rw [show (s.setBlk c.blk x).grp c.blk c.grp = c.group s from group] at advanced
  rw [advanced, same, group] at left
  refine ⟨(Awaited.lanes (issueOf i c s) d 0 v).leaves s.fresh c (issueOf i c s).act (c.group s), ?_,
    Awaited.holds_of _ (fun e => RegFile.noConfusion e) d.isLt rfl fun L _ => Awaited.lf_leaves ..⟩
  rw [he, issueWord_done h, hf]
  refine (congrArg (fun t : State => Host.Outcome.next t.markDone) left).trans ?_
  exact congrArg Host.Outcome.next ((finishes_id h').done (by rwa [same]) _)

theorem updBlk_const {s : State} {b g : Nat} (y : Group) {F : Block → Block}
    (hF : F ((s.blk b).setGrp g y) = (F (s.blk b)).setGrp g y) :
    (s.setGrp b g y).updBlk b (fun _ => F ((s.blk b).setGrp g y)) = (s.setBlk b (F (s.blk b))).setGrp b g y := by
  rw [← updBlk_setGrp y hF, updBlk_of (by simp [State.setGrp, State.setBlk]), updBlk_of (by simp [State.setGrp, State.setBlk]),
    blk_setGrp]

/-- The operand of a plot instruction: its register in the lowest active lane. -/
def Issue.plotArg (I : Issue) (a : BitVec 5) : Word := I.G.rv a.toNat (lowest I.act)

section
variable {c : IssueCtx} {s : State} {d a b : BitVec 5} {r : BitVec 1} {g : BitVec 4} {I : Issue}
  (h : AtIssue (.plot d a b r g) c s) (hI : I = issueOf (.plot d a b r g) c s)
include h hI

theorem plot_idle (h0 : I.act = 0) : Effects (.plot d a b r g) c s Written.nothing := by
  subst hI
  exact nothing_effects h (show _ = execPlot d a b r g s from rfl) (if_pos (by simpa using h0))

theorem plot_traps_count (active : I.act ≠ 0) (hn : (I.plotArg a).toNat = 0 ∨ 8192 < (I.plotArg a).toNat) :
    Traps (.plot d a b r g) c s (c.trapOf 4 (plotDetail I.act (I.plotArg a)) [(lowest I.act, 5)]) := by
  subst hI
  rw [← plotTrap_eq]
  refine traps_of_trap h (show _ = execPlot d a b r g s from rfl) ?_
  exact (if_neg (by simpa using active)).trans (if_pos ((plotOperand_iff ..).2 hn))

section
variable (active : I.act ≠ 0) (hn : 1 ≤ (I.plotArg a).toNat ∧ (I.plotArg a).toNat ≤ 8192)
include active hn

theorem plot_traps_life (hl : (I.plotArg b).toNat = 0 ∨ 50 < (I.plotArg b).toNat) :
    Traps (.plot d a b r g) c s (c.trapOf 4 (plotDetail I.act (I.plotArg b)) [(lowest I.act, 5)]) := by
  subst hI
  rw [← plotTrap_eq]
  refine traps_of_trap h (show _ = execPlot d a b r g s from rfl) ?_
  refine (if_neg (by simpa using active)).trans ((if_neg fun h1 => ?_).trans (if_pos ((plotOperand_iff ..).2 hl)))
  have := (plotOperand_iff (Issue.plotArg _ a) 8192).1 h1
  omega

omit h in
/-- PLOT with operands in range makes its plot, or finds no slot or no room for it. -/
theorem exec_plot (hl : 1 ≤ (I.plotArg b).toNat ∧ (I.plotArg b).toNat ≤ 50) :
    ∃ f, exec (.plot d a b r g) s = issueWord (.plot d a b r g) s f ∧ f I (s.advance I) =
      match ((s.advance I).blk I.b).makePlot (I.plotArg a).toNat (I.plotArg b).toNat (r == 1) with
        | some p => I.laterV ((s.advance I).updBlk I.b fun _ => p.1) d fun _ => (p.2, 0)
        | none => I.laterV (s.advance I) d fun _ => (BitVec.allOnes 64, 0) := by
  subst hI
  refine ⟨_, show _ = execPlot d a b r g s from rfl, ?_⟩
  refine (if_neg (by simpa using active)).trans ((if_neg fun h1 => ?_).trans (if_neg fun h1 => ?_))
  · have := (plotOperand_iff (Issue.plotArg _ a) 8192).1 h1
    omega
  · have := (plotOperand_iff (Issue.plotArg _ b) 50).1 h1
    omega

theorem plot_full (hl : 1 ≤ (I.plotArg b).toNat ∧ (I.plotArg b).toNat ≤ 50)
    (hfull : (∀ j, j < 64 → (oget (s.blk c.blk).plots j).isSome = true) ∨ ∀ l, ¬ (s.blk c.blk).fitsAt (I.plotArg a).toNat l) :
    ∃ y, exec (.plot d a b r g) s = .next (resultAwaited s c y 0)
      ∧ (Awaited.lanes I d 0 fun _ => (BitVec.allOnes 64, 0)).Holds s.fresh c I.act (c.group s) y := by
  obtain ⟨f, he, hf⟩ := exec_plot hI active hn hl
  subst hI
  have no_plot (y) : ((s.blk c.blk).setGrp c.grp y).makePlot
      ((issueOf (.plot d a b r g) c s).plotArg a).toNat ((issueOf (.plot d a b r g) c s).plotArg b).toNat (r == 1) = none :=
    makePlot_none (x := (s.blk c.blk).setGrp c.grp y) (hfull.imp freeSlot_eq_none firstFit_eq_none) ..
  rw [issueOf_b, blk_advance h, no_plot] at hf
  have result := lanes_awaits h d _ he (finishes_id h) hf
  rw [Awaits, if_neg active] at result
  obtain ⟨y, hy, holds, -⟩ := result
  exact ⟨y, hy, holds⟩

theorem plot_made (hl : 1 ≤ (I.plotArg b).toNat ∧ (I.plotArg b).toNat ≤ 50) {k l : Nat} (hk : (s.blk c.blk).freeSlot = some k)
    (hfit : (s.blk c.blk).firstFit (I.plotArg a).toNat = some l) :
    ∃ y, exec (.plot d a b r g) s = .next (resultAwaited
        (s.setBlk c.blk ((s.blk c.blk).plotted k l (I.plotArg a).toNat (I.plotArg b).toNat (r == 1))) c y 0)
      ∧ (Awaited.lanes I d 0 fun _ => (BitVec.ofNat 64 ((I.plotArg a).toNat * 2 ^ 50 + k * 2 ^ 32 + l * 256), 0)).Holds
          s.fresh c I.act (c.group s) y := by
  obtain ⟨f, he, hf⟩ := exec_plot hI active hn hl
  subst hI
  obtain ⟨same, h'⟩ := atIssue_plotted h k l _ _ (r == 1)
  refine exec_laterV_setBlk h active he same h' rfl d _ (hf.trans ?_)
  rw [issueOf_b, blk_advance h, makePlot_eq (x := (s.blk c.blk).setGrp _ _) hk hfit]
  rw [advance_of h]
  exact congrArg (Issue.laterV (issueOf _ c s) · d _) (updBlk_const (F := (·.plotted k l _ _ (r == 1))) _ rfl)

end
end
end Sys2Proof.Machine
end

section
/-!
SUPPORT. UNPLOT, RENEW and PRES (R118, R124 to R126), and what settles O43.
-/

namespace Sys2Proof.Machine

/-! ### What the move of the head run leaves of the Bed -/

section
variable {i : Instr} {c : IssueCtx} {s : State} (h : AtIssue i c s)
include h

theorem plotOf_advance (v : Word) :
    ((s.advance (issueOf i c s)).blk c.blk).plotOf v = (s.blk c.blk).plotOf v := by
  rw [blk_advance h]
  rfl

theorem claimed_advance : (s.advance (issueOf i c s)).claimed c.blk = s.claimed c.blk := by
  rw [advance_of h, claimed_setGrp]

theorem plotCopies_advance (base lines : Nat) :
    (s.advance (issueOf i c s)).plotCopies c.blk base lines = s.plotCopies c.blk base lines := by
  rw [advance_of h]
  rfl

end

/-- The lines of a plot. -/
theorem mem_plotLines (base lines n : Nat) :
    n ∈ (List.range lines).map (base + ·) ↔ base ≤ n ∧ n < base + lines := by
  simp only [List.mem_map, List.mem_range]
  constructor
  · rintro ⟨k, hk, rfl⟩
    omega
  · intro hn
    exact ⟨n - base, by omega, by omega⟩

/-! ### UNPLOT (R124) -/

/-- The block without the plot of slot `k`, which was `p`. -/
def Block.unplotted (x : Block) (k : Nat) (p : Plot) : Block :=
  { x.clearLines p.base p.lines with plots := odel x.plots k }

section
variable {c : IssueCtx} {s : State} {a : BitVec 5} {g : BitVec 4} {I : Issue}
  (h : AtIssue (.unplot a g) c s) (hI : I = issueOf (.unplot a g) c s)
include h hI

theorem unplot_idle (h0 : I.act = 0) : Effects (.unplot a g) c s Written.nothing := by
  subst hI
  exact nothing_effects h (show _ = execUnplot a g s from rfl) (if_pos (by simpa using h0))

theorem unplot_invalid (active : I.act ≠ 0) (hp : (s.blk c.blk).plotOf (I.plotArg a) = none) :
    Traps (.unplot a g) c s (c.trapOf 4 (plotDetail I.act (I.plotArg a)) [(lowest I.act, 5)]) := by
  subst hI
  rw [← plotTrap_eq]
  refine traps_of_trap h (show _ = execUnplot a g s from rfl) ((if_neg (by simpa using active)).trans ?_)
  rw [Issue.plotArg] at hp
  dsimp only
  rw [issueOf_b, plotOf_advance h, hp]
  rfl

section
variable (active : I.act ≠ 0) {k : Nat} {p : Plot} (hp : (s.blk c.blk).plotOf (I.plotArg a) = some (k, p))
include active hp

/-- UNPLOT of a valid handle waits for the lines that MDRN claims, then for copies, and frees the plot. -/
theorem exec_unplot : ∃ f, exec (.unplot a g) s = issueWord (.unplot a g) s f ∧ f I (s.advance I) =
    if (s.claimed c.blk).any ((List.range p.lines).map (p.base + ·)).contains then
      I.blockOn (s.advance I) .matrix (.lines ((s.claimed c.blk).filter ((List.range p.lines).map (p.base + ·)).contains))
    else if s.plotCopies c.blk p.base p.lines then I.blockOn (s.advance I) .plotCopies (.plot p.base p.lines)
    else (s.advance I).updBlk c.blk fun x => x.unplotted k p := by
  subst hI
  refine ⟨_, show _ = execUnplot a g s from rfl, (if_neg (by simpa using active)).trans ?_⟩
  rw [Issue.plotArg] at hp
  dsimp only
  rw [issueOf_b, plotOf_advance h, hp]
  dsimp only
  rw [claimed_advance h, plotCopies_advance h]
  rfl

theorem unplot_claimed (hl : ∃ l ∈ s.claimed c.blk, p.base ≤ l ∧ l < p.base + p.lines) :
    ∃ l, Blocks (.unplot a g) c s .matrix (.lines l)
      ∧ ∀ n, n ∈ l ↔ n ∈ s.claimed c.blk ∧ p.base ≤ n ∧ n < p.base + p.lines := by
  obtain ⟨f, he, hf⟩ := exec_unplot h hI active hp
  obtain ⟨l, hl, hr⟩ := hl
  subst hI
  rw [if_pos (List.any_eq_true.2 ⟨l, hl, List.contains_iff_mem.2 ((mem_plotLines ..).2 hr)⟩)] at hf
  refine ⟨_, blocksOn_of h _ _ he hf, fun n => ?_⟩
  rw [List.mem_filter, List.contains_iff_mem, mem_plotLines]

section
variable (hl : ∀ l ∈ s.claimed c.blk, l < p.base ∨ p.base + p.lines ≤ l)
include hl

omit h hI active hp in
theorem unclaimed_plot : ¬ (s.claimed c.blk).any ((List.range p.lines).map (p.base + ·)).contains = true := by
  rw [List.any_eq_true]
  rintro ⟨l, hm, hc⟩
  have := (mem_plotLines ..).1 (List.contains_iff_mem.1 hc)
  have := hl l hm
  omega

theorem unplot_copies (hc : s.plotCopies c.blk p.base p.lines = true) :
    Blocks (.unplot a g) c s .plotCopies (.plot p.base p.lines) := by
  obtain ⟨f, he, hf⟩ := exec_unplot h hI active hp
  subst hI
  rw [if_neg (unclaimed_plot hl), if_pos hc] at hf
  exact blocksOn_of h _ _ he hf

theorem unplot_done (hc : s.plotCopies c.blk p.base p.lines = false) :
    exec (.unplot a g) s = .next (wordDone (s.setBlk c.blk ((s.blk c.blk).unplotted k p)) c
      ((c.group s).setPc c.run fun _ => c.next) 0) := by
  obtain ⟨f, he, hf⟩ := exec_unplot h hI active hp
  subst hI
  rw [if_neg (unclaimed_plot hl), if_neg (by simp [hc])] at hf
  exact exec_setBlk h he (F := (·.unplotted k p)) (fun _ => rfl) hf

end
end
end

/-! ### RENEW (R125) -/

/-- RENEW of one line: age 0 where it is present and not expired. -/
def Block.renewLine (x : Block) (l : Nat) : Block :=
  if (x.bedLine l).absent || x.expired l then x else x.setBedLine l { x.bedLine l with age := 0 }

/-- RENEW of the lines of a plot. -/
def Block.renewed (x : Block) (p : Plot) : Block :=
  ((List.range p.lines).map (p.base + ·)).foldl Block.renewLine x

theorem renewLine_setGrp (x : Block) (l g : Nat) (y : Group) :
    (x.setGrp g y).renewLine l = (x.renewLine l).setGrp g y := by
  unfold Block.renewLine
  rw [show (x.setGrp g y).expired l = x.expired l from rfl, show (x.setGrp g y).bedLine l = x.bedLine l from rfl]
  split <;> rfl

theorem renewLine_rest (x : Block) (l : Nat) : { x.renewLine l with bedMeta := x.bedMeta } = x := by
  unfold Block.renewLine
  split <;> rfl

theorem renewed_rest (x : Block) (p : Plot) : { x.renewed p with bedMeta := x.bedMeta } = x := by
  unfold Block.renewed
  generalize (List.range p.lines).map (p.base + ·) = l
  suffices ∀ z : Block, { z with bedMeta := x.bedMeta } = x →
      { l.foldl Block.renewLine z with bedMeta := x.bedMeta } = x from this x rfl
  induction l with
  | nil => exact fun z hz => hz
  | cons n l ih =>
    refine fun z hz => ih _ (Eq.trans ?_ hz)
    exact congrArg (fun w : Block => { w with bedMeta := x.bedMeta }) (renewLine_rest z n)

theorem bedLine_renewLine (x : Block) (l n : Nat) : (x.renewLine l).bedLine n
    = if n = l ∧ (x.bedLine n).absent = false ∧ x.expired n = false then { x.bedLine n with age := 0 } else x.bedLine n := by
  unfold Block.renewLine
  by_cases e : n = l
  · subst e
    cases (x.bedLine n).absent <;> cases x.expired n <;> simp
  · split <;> simp [e]

/-- A line that is not renewed stays as it is, expired or not. -/
theorem expired_renewLine (x : Block) {l n : Nat} (e : n ≠ l) : (x.renewLine l).expired n = x.expired n := by
  have line : (x.renewLine l).bedLine n = x.bedLine n := by rw [bedLine_renewLine, if_neg fun hn => e hn.1]
  have plots : (x.renewLine l).plotAt n = x.plotAt n := by unfold Block.renewLine; split <;> rfl
  rw [Block.expired, Block.expired, line, plots]

theorem bedLine_renewLines {l : List Nat} (hl : l.Nodup) (x : Block) (n : Nat) : (l.foldl Block.renewLine x).bedLine n
    = if n ∈ l ∧ (x.bedLine n).absent = false ∧ x.expired n = false then { x.bedLine n with age := 0 } else x.bedLine n := by
  induction l generalizing x with
  | nil => simp
  | cons k l ih =>
    obtain ⟨hk, hl⟩ := List.nodup_cons.1 hl
    rw [List.foldl_cons, ih hl, bedLine_renewLine]
    by_cases e : n = k
    · subst e
      simp [hk]
    · simp [e, expired_renewLine x e]

theorem bedLine_renewed (x : Block) (p : Plot) (l : Nat) : (x.renewed p).bedLine l
    = if p.base ≤ l ∧ l < p.base + p.lines ∧ (x.bedLine l).absent = false ∧ x.expired l = false
      then { x.bedLine l with age := 0 } else x.bedLine l := by
  rw [Block.renewed, bedLine_renewLines (List.nodup_range.map (add_right_injective p.base))]
  simp only [mem_plotLines, and_assoc]

section
variable {c : IssueCtx} {s : State} {a : BitVec 5} {g : BitVec 4} {I : Issue}
  (h : AtIssue (.renew a g) c s) (hI : I = issueOf (.renew a g) c s)
include h hI

theorem renew_idle (h0 : I.act = 0) : Effects (.renew a g) c s Written.nothing := by
  subst hI
  exact nothing_effects h (show _ = execRenew a g s from rfl) (if_pos (by simpa using h0))

theorem renew_invalid (active : I.act ≠ 0) (hp : (s.blk c.blk).plotOf (I.plotArg a) = none) :
    Traps (.renew a g) c s (c.trapOf 4 (plotDetail I.act (I.plotArg a)) [(lowest I.act, 5)]) := by
  subst hI
  rw [← plotTrap_eq]
  refine traps_of_trap h (show _ = execRenew a g s from rfl) ((if_neg (by simpa using active)).trans ?_)
  rw [Issue.plotArg] at hp
  dsimp only
  rw [issueOf_b, plotOf_advance h, hp]
  rfl

theorem renew_done (active : I.act ≠ 0) {k : Nat} {p : Plot} (hp : (s.blk c.blk).plotOf (I.plotArg a) = some (k, p)) :
    exec (.renew a g) s = .next (wordDone (s.setBlk c.blk ((s.blk c.blk).renewed p)) c
      ((c.group s).setPc c.run fun _ => c.next) 0) := by
  subst hI
  refine exec_setBlk h (show _ = execRenew a g s from rfl) (F := (·.renewed p))
    (fun y => foldl_setGrp (fun x n => renewLine_setGrp x n _ y) _ _) ((if_neg (by simpa using active)).trans ?_)
  rw [Issue.plotArg] at hp
  dsimp only
  rw [issueOf_b, plotOf_advance h, hp]
  refine congrArg (State.updBlk _ _) (funext fun x => ?_)
  rw [Block.renewed, List.foldl_map]
  rfl

end

/-! ### PRES (R126) -/

/-- A predicate result outstanding, its register pending unless it is P127, which is never pending. -/
theorem pendingIn_predicate (uid lanes) (m : Mask) (p : BitVec 7) (y : Group) :
    VarOut.pendingIn ⟨uid, uid, .p, p.toNat, lanes, [], [], m, 0, 0⟩ y
      = { y with outs := y.outs ++ [⟨uid, uid, .p, p.toNat, lanes, [], [], m, 0, 0⟩]
                 pendP := if p = 127 then y.pendP else y.pendP ||| BitVec.twoPow 128 p.toNat } := by
  have e : p.toNat = 127 ↔ p = 127 := by rw [← BitVec.toNat_inj]; rfl
  show Group.setPending _ .p p.toNat true = _
  by_cases hp : p = 127
  · rw [if_pos hp]
    exact if_pos (e.2 hp)
  · rw [if_neg hp]
    exact if_neg (mt e.1 hp)

section
variable {c : IssueCtx} {s : State} {p : BitVec 7} {a : BitVec 5} {I : Issue}
  (h : AtIssue (.pres p a) c s) (hI : I = issueOf (.pres p a) c s)
include h hI

theorem pres_idle (h0 : I.act = 0) : Effects (.pres p a) c s Written.nothing := by
  subst hI
  exact nothing_effects h (show _ = execPres p a s from rfl) (later_idle _ _ _ _ h0)

theorem pres_done (active : I.act ≠ 0) : ∃ y m, HeadAt c c.next (c.group s) y
    ∧ exec (.pres p a) s = .next { wordDone s c { y with
          outs := y.outs ++ [⟨s.fresh, s.fresh, .p, p.toNat, I.act, [], [], m, 0, 0⟩]
          pendP := if p = 127 then y.pendP else y.pendP ||| BitVec.twoPow 128 p.toNat } 0 with
        fresh := s.fresh + 1
        agenda := s.agenda ++ [.variableLatencyResultWrite c.blk c.grp s.fresh] }
    ∧ ∀ L, L < 32 → m.getLsbD L = (s.blk c.blk).present (I.G.rv a.toNat L) := by
  subst hI
  refine ⟨_, maskOf fun L => (s.blk c.blk).present ((issueOf (.pres p a) c s).G.rv a.toNat L), headAt_setPc _ _ _, ?_,
    fun L hL => getLsbD_maskOf _ hL⟩
  rw [← pendingIn_predicate]
  refine exec_later h (show _ = execPres p a s from rfl) active ?_
  rw [issueOf_b, blk_advance h, Issue.laterP, fresh_advance h]
  rfl

end

/-- Settles O43: PLOT by where the lowest free slot and the lowest fitting lines are, UNPLOT by what still touches the plot,
RENEW line by line, PRES lane by lane. -/
theorem bedPlots : Obligations.BedPlots := by
  refine fun c s => ⟨fun d a b r g h => ⟨plot_idle h rfl, plot_traps_count h rfl, fun active n1 n2 => ?_,
      fun active n1 n2 l1 l2 => ⟨fun k l hk64 hk hlow hfit hfirst => ?_, ?_⟩⟩,
    fun a g h => ⟨unplot_idle h rfl, unplot_invalid h rfl, fun k p active hp => unplot_claimed h rfl active hp,
      fun k p active hp hl => ⟨unplot_copies h rfl active hp hl, fun hc => ?_⟩⟩,
    fun a g h => ⟨renew_idle h rfl, renew_invalid h rfl, fun k p active hp => ?_⟩,
    fun p a h => ⟨pres_idle h rfl, pres_done h rfl⟩⟩
  · exact plot_traps_life h rfl active ⟨n1, n2⟩
  · obtain ⟨y, he, hy⟩ := plot_made h rfl active ⟨n1, n2⟩ ⟨l1, l2⟩ (freeSlot_eq_some hk64 hk hlow)
      (firstFit_eq_some hfit hfirst)
    exact ⟨_, y, he, linesCleared_clearLines .., rfl, hy⟩
  · exact plot_full h rfl active ⟨n1, n2⟩ ⟨l1, l2⟩
  · exact ⟨_, _, headAt_setPc _ _ _, unplot_done h rfl active hp hl hc, linesCleared_clearLines .., oget_odel_same ..,
      fun j hj => oget_odel_ne _ hj⟩
  · exact ⟨_, _, headAt_setPc _ _ _, renew_done h rfl active hp, renewed_rest .., bedLine_renewed _ p⟩

end Sys2Proof.Machine
end

section
/-!
SUPPORT. The moments of the Bed (R114 to R117): the fade clock, the expiry and the landing of lines, and what settles O44.
-/

namespace Sys2Proof.Machine

/-! ### The fade clock (R114) -/

/-- A line of a block one tick older. -/
def Block.agedLine (x : Block) (l : Nat) : Block := x.setBedLine l { x.bedLine l with age := min 63 ((x.bedLine l).age + 1) }

theorem bedLine_agedLines_of_not_mem {l : List Nat} {n : Nat} (hn : n ∉ l) (x : Block) :
    (l.foldl Block.agedLine x).bedLine n = x.bedLine n := by
  induction l generalizing x with
  | nil => rfl
  | cons k l ih =>
    obtain ⟨hk, hl⟩ := not_or.1 (List.mem_cons.not.1 hn)
    rw [List.foldl_cons, ih hl, Block.agedLine, bedLine_setBedLine, if_neg hk]

theorem bedLine_agedLines_of_count {l : List Nat} {n : Nat} (hn : l.count n = 1) (x : Block) :
    (l.foldl Block.agedLine x).bedLine n = { x.bedLine n with age := min 63 ((x.bedLine n).age + 1) } := by
  induction l generalizing x with
  | nil => cases hn
  | cons k l ih =>
    rw [List.foldl_cons]
    by_cases e : k = n
    · subst e
      have hl : k ∉ l := List.count_eq_zero.1 (by simpa using hn)
      rw [bedLine_agedLines_of_not_mem hl, Block.agedLine, bedLine_setBedLine, if_pos rfl]
    · rw [ih (by rwa [List.count_cons_of_ne e] at hn), Block.agedLine, bedLine_setBedLine, if_neg (Ne.symm e)]

/-- A tick for one line of a block, which was `x` before the tick. -/
def State.tickLine (s : State) (b : Nat) (x : Block) (l : Nat) : State :=
  let s1 := s.updBlk b fun x => x.agedLine l
  if !x.expired l && (s1.blk b).expired l then s1.post (.lineExpiry b l) else s1

theorem blk_tickLine {s : State} {b : Nat} (hb : (oget s.blocks b).isSome = true) (x : Block) (l : Nat) :
    (oget (s.tickLine b x l).blocks b).isSome = true ∧ (s.tickLine b x l).blk b = (s.blk b).agedLine l := by
  have aged : (s.tickLine b x l).blocks = (s.setBlk b ((s.blk b).agedLine l)).blocks := by
    rw [← updBlk_of hb (·.agedLine l), State.tickLine]
    split <;> rfl
  rw [State.blk, aged]
  simp [State.setBlk]

theorem blk_tickLines (l : List Nat) (b : Nat) (x : Block) {s : State} (hb : (oget s.blocks b).isSome = true) :
    (l.foldl (fun s l => s.tickLine b x l) s).blk b = l.foldl Block.agedLine (s.blk b) := by
  induction l generalizing s with
  | nil => rfl
  | cons k l ih =>
    obtain ⟨hb', hk⟩ := blk_tickLine hb x k
    rw [List.foldl_cons, ih hb', hk]
    rfl

theorem blk_tickBlock {s : State} {b : Nat} (hb : (oget s.blocks b).isSome = true) :
    (s.tickBlock b).blk b = (s.blk b).liveLines.foldl Block.agedLine (s.blk b) :=
  blk_tickLines _ b (s.blk b) hb

/-! ### The bytes of an expired line (R114) -/

theorem sget_fillLine {α : Type} [DecidableEq α] (d : α) (m : SMap α) (line : Nat) (f : Nat → α) (a : Nat) :
    sget d (sfill d m (256 * line) 256 f) a = if a / 256 = line then f (a % 256) else sget d m a := by
  rw [Laws.sget_sfill]
  by_cases ha : a / 256 = line
  · rw [if_pos ha, if_pos (by omega), show a - 256 * line = a % 256 by omega]
  · rw [if_neg ha, if_neg (by omega)]

theorem sget_fade {x : Block} {line a : Nat} (ha : a / 256 ≠ line) (free : Nat) :
    sget 0 (x.fade line free).bed a = sget 0 x.bed a :=
  (sget_fillLine ..).trans (if_neg ha)

theorem fadeBytes_eq {s : State} {b : Nat} (hb : (oget s.blocks b).isSome = true) (line : Nat) :
    s.fadeBytes b line = ({ s with free := s.free + 32 } : State).setBlk b ((s.blk b).fade line s.free) := by
  rw [State.fadeBytes, updBlk_of hb]
  rfl

/-! ### Refetches (R116) -/

theorem refetchCommand_linear (b g : Nat) (pc : Word) (w : Word32) (line seq : Nat) (src : Word) :
    (refetchCommand b g pc w line seq src).linear
      = ⟨1, src.toNat, (BitVec.ofNat 64 (256 * line) : Word).toNat, 1, 256, 0, 0⟩ := by
  have dir : bits (copyHeader 0 0 false 1 0) 28 3 = 1 := by decide
  have rows : bits (BitVec.ofNat 64 (2 ^ 32 + 256)) 32 32 = 1 := by decide
  have rb : bits (BitVec.ofNat 64 (2 ^ 32 + 256)) 0 32 = 256 := by decide
  have strides : bits 0 32 32 = 0 ∧ bits 0 0 32 = 0 := by decide
  obtain ⟨ss, ds⟩ := strides
  unfold Command.linear
  congr

/-! ### The landing of a line (R115, R117) -/

/-- A byte of a word of some bits. -/
theorem byte_of_word {w : Nat} (v : BitVec w) (k : Nat) {j : Nat} (hj : j < 4) :
    BitVec.ofNat 8 ((v.extractLsb' (32 * k) 32).toNat / 256 ^ j) = v.extractLsb' (8 * (4 * k + j)) 8 := by
  refine BitVec.eq_of_getLsbD_eq fun i hi => ?_
  rw [show 256 ^ j = 2 ^ (8 * j) by rw [Nat.pow_mul], BitVec.getLsbD_ofNat, Nat.testBit_div_two_pow, BitVec.testBit_toNat,
    BitVec.getLsbD_extractLsb', BitVec.getLsbD_extractLsb', show 32 * k + (i + 8 * j) = 8 * (4 * k + j) + i by omega]
  simp [hi, show i + 8 * j < 32 by omega]

/-- Word `k` of a landing line written, where the copy brought it. -/
def Block.landWord (l : Landing) (x : Block) (k : Nat) : Block :=
  if l.words.getLsbD k then x.bedWrite (256 * l.line + 4 * k) 4 (l.data.extractLsb' (32 * k) 32).toNat else x

theorem sget_landWord (x : Block) (l : Landing) (k a : Nat) : sget 0 (x.landWord l k).bed a
    = if a / 256 = l.line ∧ a % 256 / 4 = k ∧ l.words.getLsbD k = true then l.data.extractLsb' (8 * (a % 256)) 8
      else sget 0 x.bed a := by
  unfold Block.landWord
  split
  · next hw =>
    have hk : k < 64 := BitVec.lt_of_getLsbD hw
    rw [sget_bedWrite]
    by_cases ha : a / 256 = l.line ∧ a % 256 / 4 = k
    · rw [if_pos (by omega), if_pos ⟨ha.1, ha.2, hw⟩]
      rw [byte_of_word _ _ (by omega)]
      congr 2
      omega
    · rw [if_neg (by omega), if_neg fun h => ha ⟨h.1, h.2.1⟩]
  · next hw => rw [if_neg fun h => hw h.2.2]

theorem sget_landWordList {ks : List Nat} (l : Landing) (x : Block) (a : Nat) :
    sget 0 (ks.foldl (Block.landWord l) x).bed a
      = if a / 256 = l.line ∧ a % 256 / 4 ∈ ks ∧ l.words.getLsbD (a % 256 / 4) = true
        then l.data.extractLsb' (8 * (a % 256)) 8 else sget 0 x.bed a := by
  induction ks generalizing x with
  | nil => simp
  | cons k ks ih =>
    rw [List.foldl_cons, ih, sget_landWord]
    by_cases e : a % 256 / 4 = k
    · subst e
      by_cases h : a / 256 = l.line ∧ l.words.getLsbD (a % 256 / 4) = true
      · rw [if_pos (c := _ ∧ _ = _ ∧ _) ⟨h.1, rfl, h.2⟩, ite_self, if_pos ⟨h.1, List.mem_cons_self, h.2⟩]
      · rw [if_neg fun g => h ⟨g.1, g.2.2⟩, if_neg fun g => h ⟨g.1, g.2.2⟩, if_neg fun g => h ⟨g.1, g.2.2⟩]
    · simp [e]

theorem landWords_eq (x : Block) (l : Landing) : x.landWords l
    = if l.words = BitVec.allOnes 64 then { x with bed := sfill 0 x.bed (256 * l.line) 256 fun k => l.data.extractLsb' (8 * k) 8 }
      else (List.range 64).foldl (Block.landWord l) x := by
  unfold Block.landWords
  simp only [beq_iff_eq]
  rfl

/-- The bytes of a landing line: those of the words that the copy brought. -/
theorem sget_landWords (x : Block) (l : Landing) (a : Nat) : sget 0 (x.landWords l).bed a
    = if a / 256 = l.line ∧ l.words.getLsbD (a % 256 / 4) = true then l.data.extractLsb' (8 * (a % 256)) 8
      else sget 0 x.bed a := by
  have hw : a % 256 / 4 < 64 := by omega
  rw [landWords_eq]
  split
  · next h =>
    refine (sget_fillLine ..).trans ?_
    rw [h, BitVec.getLsbD_allOnes, decide_eq_true hw]
    simp only [and_true]
  · rw [sget_landWordList]
    simp only [List.mem_range, hw, true_and]

theorem bedWrite_bedMeta (x : Block) (a n v : Nat) : (x.bedWrite a n v).bedMeta = x.bedMeta :=
  (congrArg Block.bedMeta (bedWriteBytes_rest x a (bytesLe n v)) :)

theorem landWord_bedMeta (x : Block) (l : Landing) (k : Nat) : (x.landWord l k).bedMeta = x.bedMeta := by
  unfold Block.landWord
  split
  · exact bedWrite_bedMeta ..
  · rfl

theorem landWords_bedMeta (x : Block) (l : Landing) : (x.landWords l).bedMeta = x.bedMeta := by
  rw [landWords_eq]
  split
  · rfl
  · induction List.range 64 generalizing x with
    | nil => rfl
    | cons k ks ih => exact (ih _).trans (landWord_bedMeta x l k)

/-- What a landed line is: present with age 0 and the source record of R115, or failed. -/
def Landing.leaves (l : Landing) : BedLine :=
  if l.failed then BedLine.dead else ⟨0, false, if l.words == BitVec.allOnes 64 then l.base else none⟩

/-- The block in which a line of a copy has landed. -/
def Block.landed (x : Block) (l : Landing) : Block :=
  if (x.plotAt l.line).isSome then (x.landWords l).setBedLine l.line l.leaves else x

theorem bedLine_landed (x : Block) (l : Landing) (n : Nat) : (x.landed l).bedLine n
    = if n = l.line ∧ x.plotAt l.line ≠ none then l.leaves else x.bedLine n := by
  have rest : (x.landWords l).bedLine n = x.bedLine n := by
    rw [Block.bedLine, landWords_bedMeta, Block.bedLine]
  unfold Block.landed
  split
  · next h => simp [rest, Option.isSome_iff_ne_none.1 h]
  · next h =>
    rw [if_neg fun hn => h (Option.isSome_iff_ne_none.2 hn.2)]

theorem sget_landed (x : Block) (l : Landing) (a : Nat) : sget 0 (x.landed l).bed a
    = if a / 256 = l.line ∧ x.plotAt l.line ≠ none ∧ l.words.getLsbD (a % 256 / 4) = true
      then l.data.extractLsb' (8 * (a % 256)) 8 else sget 0 x.bed a := by
  unfold Block.landed
  split
  · next h =>
    refine (sget_landWords x l a).trans ?_
    simp [Option.isSome_iff_ne_none.1 h]
  · next h => rw [if_neg fun hn => h (Option.isSome_iff_ne_none.2 hn.2.1)]

/-- The state with block `x`, in which a line of copy `k` has landed. -/
def State.lineLanded (s : State) (b line cmd : Nat) (k : Command) (x : Block) (free : Nat) : State :=
  (({ s with free := free } : State).setBlk b x).updCmd cmd fun c => { c with landing := k.landing.filter (·.line != line) }

/-- A line of copy `k` has landed in block `x`: the copy goes on, or completes with its last line. -/
def State.landedWith (s : State) (b line cmd : Nat) (k : Command) (x : Block) (free : Nat) : State :=
  if (k.landing.filter (·.line != line)).isEmpty then (s.lineLanded b line cmd k x free).post (.commandCompletion cmd)
  else s.lineLanded b line cmd k x free

section
variable (s : State) (b line cmd : Nat) (k : Command) (x : Block) (free : Nat)

theorem landedWith_blk : (s.landedWith b line cmd k x free).blk b = x := by
  unfold State.landedWith
  split <;> exact blk_setBlk_same ..

theorem landedWith_mem : (s.landedWith b line cmd k x free).mem = s.mem := by
  unfold State.landedWith
  split <;> rfl

theorem landedWith_agenda : (s.landedWith b line cmd k x free).agenda
    = s.agenda ++ if k.landing.all (fun e => e.line == line) then [.commandCompletion cmd] else [] := by
  have last : (k.landing.filter (·.line != line)).isEmpty = k.landing.all (fun e => e.line == line) := by
    rw [Bool.eq_iff_iff]
    simp [List.isEmpty_iff, List.filter_eq_nil_iff]
  unfold State.landedWith
  rw [← last]
  split
  · rfl
  · exact (List.append_nil _).symm

theorem landedWith_cmd (hc : s.cmd cmd = some k) : (s.landedWith b line cmd k x free).cmd cmd
    = some { k with landing := k.landing.filter (·.line != line) } := by
  unfold State.landedWith
  split <;> exact cmd_updCmd_same (s := ({ s with free := free } : State).setBlk b x) hc _

end

section
variable {s : State} {b line cmd : Nat} {k : Command} {l : Landing} (hc : s.cmd cmd = some k)
  (hl : k.landing.find? (fun e => e.line == line) = some l)
include hc hl

theorem landLine_claimed (h : line ∈ s.claimed b) : s.landLine b line cmd = s.post (.bedLineLands b line cmd) := by
  rw [State.landLine, hc]
  dsimp only
  rw [hl]
  exact if_pos (List.contains_iff_mem.2 h)

theorem landLine_eq (hb : (oget s.blocks b).isSome = true) (h : line ∉ s.claimed b) : ∃ (x : Block) (free : Nat),
    s.landLine b line cmd = s.landedWith b line cmd k (x.landed l) free ∧ x.plotAt = (s.blk b).plotAt
      ∧ x.bedLine = (s.blk b).bedLine ∧ (∀ a, a / 256 ≠ line ∨ (s.blk b).plotAt line = none ∨ ((s.blk b).bedLine line).age < 50
        → sget 0 x.bed a = sget 0 (s.blk b).bed a) := by
  obtain rfl : l.line = line := by simpa using List.find?_some hl
  rw [State.landLine, hc]
  dsimp only
  rw [hl]
  dsimp only
  rw [if_neg (mt List.contains_iff_mem.1 h)]
  by_cases lost : (((s.blk b).plotAt l.line).isSome && decide (retention ≤ ((s.blk b).bedLine l.line).age)
      && l.words != BitVec.allOnes 64) = true
  · rw [if_pos lost]
    simp only [Bool.and_eq_true, decide_eq_true_eq] at lost
    refine ⟨(s.blk b).fade l.line s.free, s.free + 32, ?_, rfl, rfl, fun a ha => ?_⟩
    · rw [fadeBytes_eq hb, updBlk_of (by simp [State.setBlk]), blk_setBlk_same, setBlk_setBlk]
      rfl
    · obtain ⟨⟨live, held⟩, -⟩ := lost
      refine sget_fade (ha.resolve_right ?_) _
      rintro (none | young)
      · rw [none] at live
        cases live
      · exact absurd held (Nat.not_le.2 young)
  · refine ⟨s.blk b, s.free, ?_, rfl, rfl, fun a _ => rfl⟩
    rw [if_neg lost, updBlk_of hb]
    rfl

end

/-! ### The moments together -/

theorem fadeClockTick_lines {s : State} {b : Nat} (hb : (oget s.blocks b).isSome = true) (l : Nat) :
    ((s.blk b).liveLines.count l = 1 → ((s.tickBlock b).blk b).bedLine l
      = { (s.blk b).bedLine l with age := min 63 (((s.blk b).bedLine l).age + 1) })
    ∧ (l ∉ (s.blk b).liveLines → ((s.tickBlock b).blk b).bedLine l = (s.blk b).bedLine l) := by
  rw [blk_tickBlock hb]
  exact ⟨fun h => bedLine_agedLines_of_count h _, fun h => bedLine_agedLines_of_not_mem h _⟩

theorem lost_iff (x : Block) (line : Nat) :
    (x.expired line && decide (retention ≤ (x.bedLine line).age)) = true
      ↔ x.expired line = true ∧ 50 ≤ (x.bedLine line).age := by
  rw [Bool.and_eq_true, decide_eq_true_eq, retention]

theorem lineExpiry_lost {s : State} {b line : Nat} (hb : (oget s.blocks b).isSome = true)
    (lost : (s.blk b).expired line = true ∧ 50 ≤ ((s.blk b).bedLine line).age) :
    exec (.lineExpiry b line) s
      = .next (({ s with free := s.free + 32 } : State).setBlk b ((s.blk b).fade line s.free)) := by
  rw [← fadeBytes_eq hb]
  exact congrArg Host.Outcome.next (if_pos ((lost_iff ..).2 lost))

theorem lineExpiry_kept {s : State} {b line : Nat}
    (kept : ¬ ((s.blk b).expired line = true ∧ 50 ≤ ((s.blk b).bedLine line).age)) :
    exec (.lineExpiry b line) s = .next s :=
  congrArg Host.Outcome.next (if_neg (mt (lost_iff ..).1 kept))

/-- Settles O44: a tick line by line, the expiry of a line, its refetch, and a landing line by what it leaves of its block
and of its copy. -/
theorem bedMoments : Obligations.BedMoments := by
  refine fun s => ⟨fun core => rfl, fun b l hb => fadeClockTick_lines hb l, fun b line hb => ⟨lineExpiry_kept, fun lost => ?_⟩,
    fun b g pc w line src hb hs => ?_, fun b line cmd k l hb hc hl => ⟨fun h => ?_, fun h => ?_⟩⟩
  · exact ⟨_, lineExpiry_lost hb lost, rfl, fun a ha => sget_fade ha _⟩
  · have away : (s.refetch b g pc w line).blk b = (s.blk b).away line := by
      rw [refetch_eq hb g pc w hs]
      exact blk_setBlk_same ..
    dsimp only
    rw [away, refetch_eq hb g pc w hs]
    refine ⟨?_, rfl, rfl, _, oget_oset_same .., rfl, rfl, refetchCommand_linear ..⟩
    rw [Block.away, bedLine_setBedLine, if_pos rfl]
  · exact congrArg Host.Outcome.next (landLine_claimed hc hl h)
  · obtain ⟨x, free, eq, plots, lines, bytes⟩ := landLine_eq hc hl hb h
    obtain rfl : l.line = line := by simpa using List.find?_some hl
    refine ⟨_, congrArg Host.Outcome.next eq, landedWith_cmd (hc := hc) .., ?_, fun n hn => ?_, landedWith_mem .., fun a ha => ?_,
      fun a ha hp hw => ?_, fun a ha hw old => ?_, landedWith_agenda ..⟩
    all_goals rw [landedWith_blk]
    · rw [bedLine_landed, plots, lines]
      by_cases hp : (s.blk b).plotAt l.line = none
      · rw [if_neg fun h => h.2 hp, if_pos hp]
      · rw [if_pos ⟨rfl, hp⟩, if_neg hp]
        simp [Landing.leaves, BedLine.dead]
    · rw [bedLine_landed, if_neg fun h => hn h.1, lines]
    · rw [sget_landed, plots, if_neg fun h => ha.elim (· h.1) h.2.1, bytes _ (ha.imp_right .inl)]
    · rw [sget_landed, plots, if_pos ⟨ha, hp, hw⟩]
    · rw [sget_landed, if_neg fun h => by simp [h.2.2] at hw, bytes _ (.inr (.inr (by simpa using old)))]

end Sys2Proof.Machine
end

section
/-!
SUPPORT. The steps of a linear copy (R117, R141, R142): how it is taken, how a chunk moves, how it ends.
-/

namespace Sys2Proof.Machine

/-! ### Lines that lose presence (R117) -/

/-- A block whose lines are away until each lands. -/
def Block.awayFor (x : Block) (lines : List Landing) : Block := lines.foldl (fun x l => x.away l.line) x

theorem absent_awayFor {lines : List Landing} {x : Block} {n : Nat}
    (h : (x.bedLine n).absent = true ∨ n ∈ lines.map fun l => l.line) : ((x.awayFor lines).bedLine n).absent = true := by
  induction lines generalizing x with
  | nil => exact h.resolve_right List.not_mem_nil
  | cons l ls ih =>
    refine ih ?_
    dsimp only [Block.away]
    rw [ bedLine_setBedLine]
    by_cases e : n = l.line
    · left
      rw [if_pos e]
    · rw [if_neg e]
      exact h.imp_right fun hm => (List.mem_cons.1 hm).resolve_left e

theorem unland_eq {s : State} {b : Nat} (hb : (oget s.blocks b).isSome = true) (cmd : Nat) (lines : List Landing) :
    s.unland cmd b lines = (s.setBlk b ((s.blk b).awayFor lines)).updCmd cmd
      fun c => { c with state := .taken, landing := lines } := by
  rw [State.unland, updBlk_of hb]
  rfl

/-! ### The copy is taken, or rejected (R140, R141) -/

section
variable {s : State} {cmd : Nat} {k : Command} (hc : s.cmd cmd = some k)
include hc

theorem exec_copyLinear_rejects (hp : k.state = .pushed) (ha : (s.blk k.blk).committed k.after = true)
    (ho : s.linearOk k = false) (hl : (s.blk k.blk).life ≠ .saved) :
    exec (.copyLinear cmd) s = .next ((s.commandFault k 1).closeCommand cmd) := by
  rw [← rejectCommand_of_unsaved hc hl]
  refine congrArg Host.Outcome.next ?_
  simp [State.copyLinear, hc, hp, ha, ho]

theorem exec_copyRagged_rejects (hp : k.state = .pushed) (ha : (s.blk k.blk).committed k.after = true)
    (ho : s.raggedOk k = false) (hl : (s.blk k.blk).life ≠ .saved) :
    exec (.copyRagged cmd) s = .next ((s.commandFault k 1).closeCommand cmd) := by
  rw [← rejectCommand_of_unsaved hc hl]
  refine congrArg Host.Outcome.next ?_
  simp [State.copyRagged, hc, hp, ha, ho]

/-- The copy of a taken linear command: the lines of a copy into the Bed wait for their words. -/
theorem exec_copyLinear_takes (hp : k.state = .pushed) (ha : (s.blk k.blk).committed k.after = true)
    (ho : s.linearOk k = true) : exec (.copyLinear cmd) s
      = .next ((((if k.linear.toMem then s.updCmd cmd fun c => { c with state := .taken }
          else s.unland cmd k.blk k.linear.landings).updCmd cmd
            fun c => { c with detail := k.linear.total % 2 ^ 32 })).post (.copyLinear cmd)) := by
  refine congrArg Host.Outcome.next ?_
  simp [State.copyLinear, hc, hp, ha, ho]

theorem exec_copyLinear_taken (hb : (oget s.blocks k.blk).isSome = true) (hp : k.state = .pushed)
    (ha : (s.blk k.blk).committed k.after = true) (ho : s.linearOk k = true) : ∃ t l, exec (.copyLinear cmd) s = .next t
      ∧ t.cmd cmd = some { k with state := .taken, detail := k.linear.total % 2 ^ 32, landing := l }
      ∧ (k.linear.toMem = false → l.map (fun e => e.line) = rowLines k.linear.dst k.linear.rb k.linear.ds k.linear.rows)
      ∧ (k.linear.toMem = false → ∀ n, n ∈ rowLines k.linear.dst k.linear.rb k.linear.ds k.linear.rows →
          ((t.blk k.blk).bedLine n).absent = true)
      ∧ t.mem = s.mem ∧ t.agenda = s.agenda ++ [.copyLinear cmd] := by
  have step := exec_copyLinear_takes hc hp ha ho
  cases hm : k.linear.toMem with
  | true =>
    rw [hm, if_pos rfl] at step
    exact ⟨_, k.landing, step, cmd_updCmd_same (cmd_updCmd_same hc _) _, nofun, nofun, rfl, rfl⟩
  | false =>
    rw [hm, if_neg Bool.false_ne_true, unland_eq hb] at step
    have landing : k.linear.landings.map (fun e => e.line)
        = rowLines k.linear.dst k.linear.rb k.linear.ds k.linear.rows := by
      rw [Linear.landings, List.map_map]
      exact List.map_id _
    refine ⟨_, k.linear.landings, step, cmd_updCmd_same (cmd_updCmd_same (s := s.setBlk _ _) hc _) _, fun _ => landing,
      fun _ n hn => ?_, rfl, rfl⟩
    rw [blk_post, blk_updCmd, blk_updCmd, blk_setBlk_same]
    exact absent_awayFor (.inr (landing ▸ hn))

/-! ### A chunk moves (R142) -/

/-- The source of a chunk is what the pieces from memory read, or what the Bed lines allow. -/
def State.ChunkSource (s : State) (k : Command) (t : State) (stat : Nat) (l : List Moved) : Prop :=
  if k.linear.fromMem then s.readPieces (s.partyOf k.blk) (k.pieces k.next) (some k.hint) = (t, stat, l)
  else t = s ∧ (s.bedSource k.blk (((k.pieces k.next).map fun p => p.src / 256).eraseDups) = .ready ∧ stat = 0
        ∧ l = (k.pieces k.next).map (fun p => ⟨p, (s.blk k.blk).bedRead p.src p.len, 0⟩)
      ∨ s.bedSource k.blk (((k.pieces k.next).map fun p => p.src / 256).eraseDups) = .stale ∧ stat = 4)

section
variable {t : State} {stat : Nat} {l : List Moved}

omit hc in
theorem moveChunk_toBed (hs : s.ChunkSource k t stat l) (hm : k.linear.toMem = false) : s.moveChunk cmd k
    = if stat = 0 then ((t.putBed cmd l k.linear.fromMem).nextChunk cmd).post (.copyLinear cmd)
      else ((t.nextChunk cmd).post (.copyChunkFault cmd k.next stat)).post (.copyLinear cmd) := by
  unfold State.ChunkSource at hs
  unfold State.moveChunk
  cases hf : k.linear.fromMem with
  | true =>
    rw [hf, if_pos rfl] at hs
    by_cases h0 : stat = 0 <;> simp [hf, hs, hm, h0]
  | false =>
    rw [hf, if_neg Bool.false_ne_true] at hs
    obtain ⟨rfl, ⟨hs, rfl, rfl⟩ | ⟨hs, rfl⟩⟩ := hs <;> simp [hf, hs, hm]

omit hc in
theorem moveChunk_toMem (hs : s.ChunkSource k t 0 l) (hm : k.linear.toMem = true) {u : State}
    {w : List (Moved × Xlate × Line)} (hp : t.probePieces (s.partyOf k.blk) l = (u, 0, w)) (hh : u.hostHolds w = none) :
    s.moveChunk cmd k = ((w.foldl (fun u m => u.engineWrite (s.partyOf k.blk) (BitVec.ofNat 64 m.1.piece.dst) m.2.1
      m.1.piece.len m.1.val m.1.poison m.2.2 (some k.hint)) u).nextChunk cmd).post (.copyLinear cmd) := by
  unfold State.ChunkSource at hs
  unfold State.moveChunk
  cases hf : k.linear.fromMem with
  | true =>
    rw [hf, if_pos rfl] at hs
    simp [hf, hs, hm, hp, hh]
  | false =>
    rw [hf, if_neg Bool.false_ne_true] at hs
    obtain ⟨rfl, ⟨hs, -, rfl⟩ | ⟨-, h⟩⟩ := hs
    · simp [hf, hs, hm, hp, hh]
    · cases h

/-- A linear copy with a chunk to move, of which no host holds the source, moves it. -/
theorem exec_copyLinear_moves (hs : k.state = .taken) (hn : 256 * k.next < k.linear.total)
    (hf : k.linear.fromMem = true → ∀ p, p ∈ k.pieces k.next → s.hostTakes (s.partyOf k.blk) (BitVec.ofNat 64 p.src) = none) :
    exec (.copyLinear cmd) s = .next (s.moveChunk cmd k) := by
  have free : (if k.linear.fromMem then (k.pieces k.next).filterMap fun p => s.hostTakes (s.partyOf k.blk) (BitVec.ofNat 64 p.src)
      else []) = [] := by
    split
    · next h => exact List.filterMap_eq_nil_iff.2 (hf h)
    · rfl
  refine congrArg Host.Outcome.next ?_
  simp [State.copyLinear, hc, hs, hn, free]

end

/-! ### The end of a linear copy (R142) -/

theorem exec_copyLinear_completes (hs : k.state = .taken) (hn : k.linear.total ≤ 256 * k.next)
    (hf : chunkFaultOut s cmd = false) (hm : k.linear.toMem = true) :
    exec (.copyLinear cmd) s = .next (s.post (.commandCompletion cmd)) := by
  refine congrArg Host.Outcome.next ?_
  simp [State.copyLinear, hc, hs, Nat.not_lt.2 hn, hf, hm]

theorem exec_copyLinear_waits (hs : k.state = .taken) (hn : k.linear.total ≤ 256 * k.next) (hm : k.linear.toMem = false) :
    exec (.copyLinear cmd) s = .next s := by
  refine congrArg Host.Outcome.next ?_
  simp [State.copyLinear, hc, hs, Nat.not_lt.2 hn, hm]

end

end Sys2Proof.Machine
end

section
/-!
SUPPORT. What a copy notes of the lines it brings (R115, R117, R142): the bytes of a chunk, the failure of a chunk, and the
lines that have all their words.
-/

namespace Sys2Proof.Machine

/-! ### Lines that land (R142) -/

theorem postOnce_rest (s : State) (i : Instr) : { s.postOnce i with agenda := s.agenda } = s := by
  unfold State.postOnce
  split <;> rfl

theorem mem_agenda_postOnce (s : State) (i j : Instr) : j ∈ (s.postOnce i).agenda ↔ j ∈ s.agenda ∨ j = i := by
  unfold State.postOnce
  split
  · next h =>
    refine ⟨.inl, fun hj => hj.elim id ?_⟩
    rintro rfl
    exact List.contains_iff_mem.1 h
  · simp [State.post]

theorem postOnceAll_rest (l : List Instr) (s : State) : { l.foldl State.postOnce s with agenda := s.agenda } = s := by
  suffices ∀ t : State, { t with agenda := s.agenda } = s → { l.foldl State.postOnce t with agenda := s.agenda } = s from this s rfl
  induction l with
  | nil => exact fun t ht => ht
  | cons i l ih =>
    refine fun t ht => ih _ (Eq.trans ?_ ht)
    exact congrArg (fun t : State => { t with agenda := s.agenda }) (postOnce_rest t i)

theorem mem_agenda_postOnceAll (l : List Instr) (s : State) (j : Instr) :
    j ∈ (l.foldl State.postOnce s).agenda ↔ j ∈ s.agenda ∨ j ∈ l := by
  induction l generalizing s with
  | nil => simp
  | cons i l ih => rw [List.foldl_cons, ih, mem_agenda_postOnce, List.mem_cons, or_assoc]

section
variable {s : State} {cmd : Nat} {k : Command} (hc : s.cmd cmd = some k)
include hc

theorem landReady_eq : s.landReady cmd
    = ((k.landing.filter (·.left == 0)).map fun l => Instr.bedLineLands k.blk l.line cmd).foldl State.postOnce s := by
  rw [List.foldl_map, State.landReady, hc]

theorem landReady_rest : { s.landReady cmd with agenda := s.agenda } = s := by
  rw [landReady_eq hc]
  exact postOnceAll_rest ..

theorem landReady_cmd : (s.landReady cmd).cmd cmd = some k :=
  (congrArg (fun t : State => t.cmd cmd) (landReady_rest hc) :).trans hc

theorem bedLineLands_of_landReady {l : Landing} (hl : l ∈ k.landing) (h0 : l.left = 0) :
    .bedLineLands k.blk l.line cmd ∈ (s.landReady cmd).agenda := by
  rw [landReady_eq hc, mem_agenda_postOnceAll]
  exact .inr (List.mem_map.2 ⟨l, List.mem_filter.2 ⟨hl, by simp [h0]⟩, rfl⟩)

end

/-! ### Moved bytes (R115, R142) -/

/-- A run of `n` bits from bit `q` on. -/
theorem getLsbD_run (w n q j : Nat) :
    (BitVec.ofNat w ((2 ^ n - 1) * 2 ^ q)).getLsbD j = (decide (j < w) && (decide (q ≤ j) && decide (j < q + n))) := by
  rw [BitVec.getLsbD_ofNat, Nat.testBit_mul_two_pow, Nat.testBit_two_pow_sub_one]
  by_cases h : q ≤ j
  · simp [h, show j - q < n ↔ j < q + n by omega]
  · simp [h]

theorem note_of_ne {l : Landing} {m : Moved} (h : m.piece.dst / 256 ≠ l.line) (fm : Bool) : l.note m fm = l := by
  simp [Landing.note, h]

section
variable {l : Landing} {p : Piece} (v z : Nat) (fm : Bool) (h : p.dst / 256 = l.line)
include h

theorem note_rest : { l.note ⟨p, v, z⟩ fm with base := l.base, words := l.words, data := l.data }
    = { l with left := l.left - p.len / 4 } := by
  simp [Landing.note, h]

variable (hd : p.dst % 4 = 0) (hl : p.len % 4 = 0) (hend : p.dst % 256 + p.len ≤ 256)
include hd hl hend

theorem note_words (j : Nat) : (l.note ⟨p, v, z⟩ fm).words.getLsbD j
    = (l.words.getLsbD j || decide (p.dst % 256 ≤ 4 * j ∧ 4 * j < p.dst % 256 + p.len)) := by
  have words : (l.note ⟨p, v, z⟩ fm).words
      = l.words ||| BitVec.ofNat 64 ((2 ^ (p.len / 4) - 1) * 2 ^ (p.dst % 256 / 4)) := by
    simp [Landing.note, h]
  rw [words, BitVec.getLsbD_or, getLsbD_run]
  congr 1
  rw [Bool.eq_iff_iff]
  simp only [Bool.and_eq_true, decide_eq_true_eq]
  omega

omit hd hl hend in
theorem note_data (hv : v < 256 ^ p.len) {b : Nat} (hb : b < 256) : (l.note ⟨p, v, z⟩ fm).data.extractLsb' (8 * b) 8
    = if p.dst % 256 ≤ b ∧ b < p.dst % 256 + p.len then BitVec.ofNat 8 (v / 256 ^ (b - p.dst % 256))
      else l.data.extractLsb' (8 * b) 8 := by
  have data : (l.note ⟨p, v, z⟩ fm).data
      = (l.data &&& ~~~BitVec.ofNat 2048 ((2 ^ (8 * p.len) - 1) * 2 ^ (8 * (p.dst % 256))))
        ||| BitVec.ofNat 2048 (v * 2 ^ (8 * (p.dst % 256))) := by
    simp [Landing.note, h]
  refine BitVec.eq_of_getLsbD_eq fun i hi => ?_
  have bit : 8 * b + i < 2048 := by omega
  rw [data, BitVec.getLsbD_extractLsb', BitVec.getLsbD_or, BitVec.getLsbD_and, BitVec.getLsbD_not, getLsbD_run,
    BitVec.getLsbD_ofNat, Nat.testBit_mul_two_pow]
  have hv2 : v < 2 ^ (8 * p.len) := by rwa [Nat.pow_mul]
  by_cases hin : p.dst % 256 ≤ b ∧ b < p.dst % 256 + p.len
  · obtain ⟨lo, up⟩ := hin
    rw [if_pos ⟨lo, up⟩, show (256 : Nat) = 2 ^ 8 by rfl, ← Nat.pow_mul, BitVec.getLsbD_ofNat, Nat.testBit_div_two_pow]
    simp [hi, bit, show 8 * (p.dst % 256) ≤ 8 * b + i by omega, show 8 * b + i < 8 * (p.dst % 256) + 8 * p.len by omega,
      show 8 * b + i - 8 * (p.dst % 256) = i + 8 * (b - p.dst % 256) by omega]
  · rw [if_neg hin]
    have outside : ¬ (8 * (p.dst % 256) ≤ 8 * b + i ∧ 8 * b + i < 8 * (p.dst % 256) + 8 * p.len) := by omega
    have none : 8 * (p.dst % 256) ≤ 8 * b + i → v.testBit (8 * b + i - 8 * (p.dst % 256)) = false := fun lo =>
      Nat.testBit_lt_two_pow (hv2.trans_le (Nat.pow_le_pow_right (by decide) (by omega)))
    rw [BitVec.getLsbD_extractLsb', ← Bool.decide_and, decide_eq_false outside]
    by_cases lo : 8 * (p.dst % 256) ≤ 8 * b + i
    · simp [hi, bit, none lo]
    · simp [hi, bit, lo]

end

/-- Moved bytes of one piece, given to one line. -/
theorem noteRun_singleton (fm : Bool) (l : Landing) (m : Moved) :
    noteRun fm [l] [m] = if m.piece.dst / 256 = l.line then [l.note m fm] else [l] := by
  rcases Nat.lt_trichotomy (m.piece.dst / 256) l.line with h | h | h
  · simp [noteRun, h, h.ne]
  · simp [noteRun, h]
  · simp [noteRun, h.ne', Nat.not_lt.2 h.le]

section
variable {s : State} {cmd : Nat} {k : Command} (hc : s.cmd cmd = some k)
include hc

omit hc in
theorem putBed_singleton (m : Moved) (fm : Bool) : s.putBed cmd [m] fm
    = (s.updCmd cmd fun c => { c with landing := c.landing.map fun l => l.note m fm }).landReady cmd := rfl

/-- A piece kept for the lines of a copy changes the copy, and puts on the agenda the lines that have all their words. -/
theorem putBed_piece {p : Piece} {v z : Nat} {fm : Bool} (hd : p.dst % 4 = 0) (hl : p.len % 4 = 0)
    (hend : p.dst % 256 + p.len ≤ 256) (hv : v < 256 ^ p.len) :
    { s.putBed cmd [⟨p, v, z⟩] fm with cmds := s.cmds, agenda := s.agenda } = s
      ∧ ∃ l', (s.putBed cmd [⟨p, v, z⟩] fm).cmd cmd = some { k with landing := l' }
        ∧ l'.length = k.landing.length
        ∧ (∀ l, l ∈ l' → l.left = 0 → .bedLineLands k.blk l.line cmd ∈ (s.putBed cmd [⟨p, v, z⟩] fm).agenda)
        ∧ ∀ (i : Nat) (h : i < k.landing.length) (h' : i < l'.length),
          (k.landing[i].line ≠ p.dst / 256 → l'[i] = k.landing[i])
          ∧ (k.landing[i].line = p.dst / 256 →
            { l'[i] with base := k.landing[i].base, words := k.landing[i].words, data := k.landing[i].data } =
              { k.landing[i] with left := k.landing[i].left - p.len / 4 }
            ∧ (∀ j, l'[i].words.getLsbD j
                = (k.landing[i].words.getLsbD j || decide (p.dst % 256 ≤ 4 * j ∧ 4 * j < p.dst % 256 + p.len)))
            ∧ (∀ b, b < 256 → l'[i].data.extractLsb' (8 * b) 8
                = if p.dst % 256 ≤ b ∧ b < p.dst % 256 + p.len then BitVec.ofNat 8 (v / 256 ^ (b - p.dst % 256))
                  else k.landing[i].data.extractLsb' (8 * b) 8)) := by
  have noted := cmd_updCmd_same hc fun c => { c with landing := c.landing.map fun l => l.note ⟨p, v, z⟩ fm }
  rw [putBed_singleton]
  refine ⟨?_, k.landing.map fun l => l.note ⟨p, v, z⟩ fm, landReady_cmd noted, List.length_map _,
    fun l hm h0 => bedLineLands_of_landReady noted hm h0, fun i h h' => ?_⟩
  · exact (congrArg (fun t : State => { t with cmds := s.cmds, agenda := s.agenda }) (landReady_rest noted) :)
  · rw [List.getElem_map]
    exact ⟨fun e => note_of_ne (Ne.symm e) fm, fun e => ⟨note_rest v z fm e.symm, note_words v z fm e.symm hd hl hend,
      fun b hb => note_data v z fm e.symm hv hb⟩⟩

end

/-! ### The failure of a chunk (R142) -/

theorem foldl_miss (ps : List Piece) (l : Landing) : (ps.foldl Landing.miss l).line = l.line
    ∧ (ps.foldl Landing.miss l).failed = (l.failed || decide (l.line ∈ ps.map fun p => p.dst / 256)) := by
  induction ps generalizing l with
  | nil => simp
  | cons p ps ih =>
    obtain ⟨line, failed⟩ := ih (l.miss p)
    have kept : (l.miss p).line = l.line := by unfold Landing.miss; split <;> rfl
    have missed : (l.miss p).failed = (l.failed || decide (l.line = p.dst / 256)) := by
      unfold Landing.miss
      by_cases e : p.dst / 256 = l.line
      · simp [e]
      · simp [e, Ne.symm e]
    refine ⟨line.trans kept, failed.trans ?_⟩
    rw [kept, missed, List.map_cons, Bool.or_assoc, ← Bool.decide_or]
    simp only [List.mem_cons]

/-- The lines to which the pieces of a chunk go. -/
def Command.hitLines (k : Command) (n : Nat) : List Nat :=
  if bits (k.word 0) 60 4 = 2 then k.chunkLines n else (k.pieces n).map fun p => p.dst / 256

theorem missChunk_failed (k : Command) (n : Nat) (l : Landing) :
    ((k.missChunk n l).line, (k.missChunk n l).failed) = (l.line, l.failed || decide (l.line ∈ k.hitLines n)) := by
  unfold Command.missChunk Command.hitLines
  by_cases ragged : bits (k.word 0) 60 4 = 2
  · rw [if_pos ragged, if_pos ragged]
    by_cases hit : l.line ∈ k.chunkLines n <;> simp [hit]
  · rw [if_neg ragged, if_neg ragged]
    obtain ⟨line, failed⟩ := foldl_miss (k.pieces n) l
    rw [line, failed]

theorem worseStat_eq : ∀ a ∈ [1, 2, 4, 3], ∀ b ∈ [1, 2, 4, 3],
    worseStat a b = if [1, 2, 4, 3].idxOf b < [1, 2, 4, 3].idxOf a then b else a := by
  decide

section
variable {k : Command} {n stat : Nat}

theorem chunkFails_first (h : k.failAt = none) : (k.chunkFails n stat).failAt = some (n, stat) := by
  simp [Command.chunkFails, h]

section
variable {f : Nat × Nat} (h : k.failAt = some f)
include h

theorem chunkFails_lower (hn : n < f.1) : (k.chunkFails n stat).failAt = some (n, stat) := by
  simp [Command.chunkFails, h, hn]

theorem chunkFails_higher (hn : f.1 < n) : (k.chunkFails n stat).failAt = some f := by
  simp [Command.chunkFails, h, hn.ne', Nat.not_lt.2 hn.le]

theorem chunkFails_same (hn : n = f.1) (hs : stat ∈ [1, 2, 4, 3]) (hf : f.2 ∈ [1, 2, 4, 3]) :
    (k.chunkFails n stat).failAt
      = some (n, if [1, 2, 4, 3].idxOf stat < [1, 2, 4, 3].idxOf f.2 then stat else f.2) := by
  rw [← worseStat_eq _ hf _ hs]
  simp [Command.chunkFails, h, hn]

end
end

theorem copyChunkFault_notes {s : State} {cmd : Nat} {k : Command} (hc : s.cmd cmd = some k) (n stat : Nat) :
    ∃ t k', exec (.copyChunkFault cmd n stat) s = .next t ∧ t.cmd cmd = some k'
      ∧ k' = { k with failAt := k'.failAt, landing := k'.landing }
      ∧ k'.failAt = (k.chunkFails n stat).failAt ∧ k'.landing = k.landing.map (k.missChunk n)
      ∧ ∀ l, l ∈ k'.landing → l.left = 0 → .bedLineLands k.blk l.line cmd ∈ t.agenda := by
  have noted := cmd_updCmd_same hc fun c => { c.chunkFails n stat with landing := c.landing.map (c.missChunk n) }
  exact ⟨_, _, rfl, landReady_cmd noted, rfl, rfl, rfl, fun l hl h0 => bedLineLands_of_landReady noted hl h0⟩

end Sys2Proof.Machine
end

section
/-!
SUPPORT. Ragged copies (R143), and what settles O46.
-/

namespace Sys2Proof.Machine

/-! ### Words in the order of their addresses -/

theorem note_line (l : Landing) (m : Moved) (fm : Bool) : (l.note m fm).line = l.line := by
  unfold Landing.note
  dsimp only
  split <;> rfl

theorem noteRun_lines (fm : Bool) (ls : List Landing) (ms : List Moved) :
    (noteRun fm ls ms).map (fun l => l.line) = ls.map fun l => l.line := by
  induction ls generalizing ms with
  | nil => rfl
  | cons l ls ih =>
    have noted (ms : List Moved) (l : Landing) : (ms.foldl (fun l m => l.note m fm) l).line = l.line := by
      induction ms generalizing l with
      | nil => rfl
      | cons m ms ih => exact (ih _).trans (note_line ..)
    rw [noteRun, List.map_cons, List.map_cons, noted, ih]

/-! ### An element of the walk (R143) -/

section
variable {k : Command} {P : Party} {i n : Nat} {w : Walked}

/-- An element in the vectors is read and has its place. -/
theorem walkRow_element (hp : k.state = .pushed) (hj : w.j < 32 * k.ragged.cap)
    (hs : k.ragged.src + i * k.ragged.ss + k.ragged.e * n < 2 ^ 64) : walkRow k P i 1 n w =
      let w2 := w.read P (k.ragged.src + i * k.ragged.ss + k.ragged.e * n) (k.ragged.dst + k.ragged.e * w.j) k.ragged.e
        (k.ragged.e * w.j / 256) (some k.hint)
      { w2 with j := w.j + 1, starts := if n = 0 then w.j :: w2.starts else w2.starts } := by
  have place (line : Nat) : k.shiftAt line = some 0 := by simp [Command.shiftAt, hp]
  have va : (BitVec.ofNat 64 (k.ragged.src + i * k.ragged.ss + k.ragged.e * n) + 0).toNat
      = k.ragged.src + i * k.ragged.ss + k.ragged.e * n := by
    rw [show (0 : Word) = 0#64 from rfl, BitVec.add_zero, BitVec.toNat_ofNat, Nat.mod_eq_of_lt hs]
  rw [walkRow, walkRow]
  dsimp only
  rw [if_pos hj, place]
  dsimp only
  rw [va]

/-- An element past the vectors is counted, and its row is clipped. -/
theorem walkRow_clips (hj : 32 * k.ragged.cap ≤ w.j) : walkRow k P i 1 n w
    = { w with j := w.j + 1, clipped := w.clipped.orElse fun _ => some i } := by
  rw [walkRow, walkRow]
  exact if_neg (Nat.not_lt.2 hj)

end

section
variable {w : Walked} {P : Party} {src dst e chunk : Nat} {hint : Option Nat} (ha : src % e = 0) (hs : src + e ≤ 2 ^ 53)
include ha hs

theorem read_eq : w.read P src dst e chunk hint =
    let r := w.s.engineRead P (BitVec.ofNat 64 src) e hint
    let w1 : Walked := { w with s := r.1, asks := w.asks ++ (w.s.hostTakes P (BitVec.ofNat 64 src)).toList }
    if r.2.stat = 0 then { w1 with moved := ⟨⟨src, dst, e⟩, r.2.val, 0⟩ :: w1.moved } else w1.failed chunk r.2.stat := by
  unfold Walked.read
  exact if_neg (by simpa [ha] using hs)

theorem read_ok (h : (w.s.engineRead P (BitVec.ofNat 64 src) e hint).2.stat = 0) :
    (w.read P src dst e chunk hint).moved
        = ⟨⟨src, dst, e⟩, (w.s.engineRead P (BitVec.ofNat 64 src) e hint).2.val, 0⟩ :: w.moved
      ∧ (w.read P src dst e chunk hint).fail = w.fail := by
  rw [read_eq ha hs]
  dsimp only
  rw [if_pos h]
  exact ⟨rfl, rfl⟩

omit ha hs in
theorem failed_notes (w : Walked) (chunk stat : Nat) :
    (w.failed chunk stat).moved = w.moved ∧ (w.failed chunk stat).starts = w.starts
      ∧ (chunk, stat) ∈ (w.failed chunk stat).fail := by
  unfold Walked.failed
  split
  · next h => exact ⟨rfl, rfl, List.contains_iff_mem.1 h⟩
  · exact ⟨rfl, rfl, by simp⟩

theorem read_failed (h : (w.s.engineRead P (BitVec.ofNat 64 src) e hint).2.stat ≠ 0) :
    (w.read P src dst e chunk hint).moved = w.moved
      ∧ (chunk, (w.s.engineRead P (BitVec.ofNat 64 src) e hint).2.stat) ∈ (w.read P src dst e chunk hint).fail := by
  rw [read_eq ha hs]
  dsimp only
  rw [if_neg h]
  obtain ⟨moved, -, noted⟩ := failed_notes { w with
    s := (w.s.engineRead P (BitVec.ofNat 64 src) e hint).1
    asks := w.asks ++ (w.s.hostTakes P (BitVec.ofNat 64 src)).toList } chunk
    (w.s.engineRead P (BitVec.ofNat 64 src) e hint).2.stat
  exact ⟨moved, noted⟩

theorem read_starts : (w.read P src dst e chunk hint).starts = w.starts := by
  rw [read_eq ha hs]
  dsimp only
  split
  · rfl
  · obtain ⟨-, starts, -⟩ := failed_notes { w with
      s := (w.s.engineRead P (BitVec.ofNat 64 src) e hint).1
      asks := w.asks ++ (w.s.hostTakes P (BitVec.ofNat 64 src)).toList } chunk
      (w.s.engineRead P (BitVec.ofNat 64 src) e hint).2.stat
    exact starts

end

/-! ### Mask words (R143) -/

/-- A sum of distinct powers of two has just those bits. -/
theorem testBit_sum_twoPow {l : List Nat} (hl : l.Nodup) (b : Nat) :
    ((l.map fun j => 2 ^ j).foldl (· + ·) 0).testBit b = decide (b ∈ l) := by
  rw [← List.sum_eq_foldl, ← List.sum_toFinset _ hl, Bool.eq_iff_iff, ← Nat.mem_bitIndices, ← List.mem_toFinset,
    Finset.toFinset_bitIndices_sum_two_pow, List.mem_toFinset, decide_eq_true_eq]

theorem masks_word (w : Walked) (a : Ragged) {v b : Nat} (hb : b < 32) (hn : w.starts.Nodup)
    (h : v < (w.masks a).length) : (w.masks a)[v].piece = ⟨0, a.smask + 4 * v, 4⟩
      ∧ (w.masks a)[v].val.testBit b = decide (32 * v + b ∈ w.starts) := by
  have bits : ((w.starts.filter fun j => j / 32 == v).map (· % 32)).Nodup := by
    refine (hn.filter _).map_on fun x hx y hy e => ?_
    have := (List.mem_filter.1 hx).2
    have := (List.mem_filter.1 hy).2
    simp only [beq_iff_eq] at *
    omega
  have word : (w.masks a)[v] = ⟨⟨0, a.smask + 4 * v, 4⟩,
      ((w.starts.filter fun j => j / 32 == v).map fun j => 2 ^ (j % 32)).foldl (· + ·) 0, 0⟩ := by
    simp [Walked.masks]
  rw [word]
  refine ⟨rfl, ?_⟩
  have sum := testBit_sum_twoPow bits b
  rw [List.map_map] at sum
  refine sum.trans (decide_eq_decide.2 ?_)
  simp only [List.mem_map, List.mem_filter, beq_iff_eq]
  constructor
  · rintro ⟨j, ⟨hj, rfl⟩, rfl⟩
    rwa [Nat.div_add_mod]
  · exact fun hj => ⟨_, ⟨hj, by omega⟩, by omega⟩

/-! ### The steps of a ragged copy -/

/-- The lines of a ragged copy, with all that its walk has brought. -/
def Walked.landings (w : Walked) (a : Ragged) (ls : List Nat) : List Landing :=
  (noteRun false (noteRun false (noteRun true (ls.map fun l => Landing.start l (w.place l).1 (w.place l).2 1) w.moved.reverse)
    (w.zeros a)) (w.masks a)).map fun l => { l with left := 1 }

theorem lines_landings (w : Walked) (a : Ragged) (ls : List Nat) : (w.landings a ls).map (fun l => l.line) = ls := by
  rw [Walked.landings, List.map_map]
  refine (noteRun_lines ..).trans ?_
  rw [noteRun_lines, noteRun_lines, List.map_map]
  exact List.map_id _

section
variable {s : State} {cmd : Nat} {k : Command} (hc : s.cmd cmd = some k)
include hc

section
variable (hp : k.state = .pushed) (hn : k.next = 0) (ha : (s.blk k.blk).committed k.after = true) (ho : s.raggedOk k = true)
include hp hn ha ho

theorem exec_copyRagged_walks : exec (.copyRagged cmd) s = .next (s.walkRagged cmd k) := by
  refine congrArg Host.Outcome.next ?_
  simp [State.copyRagged, hc, hp, hn, ha, ho]

variable {w : Walked} (hw : walkRows k (s.partyOf k.blk) k.ragged.nrows 0 ⟨s, 0, none, [], [], [], [], false⟩ = w)
include hw

theorem exec_copyRagged_bad (hbad : w.bad = true) (hl : (s.blk k.blk).life ≠ .saved) :
    exec (.copyRagged cmd) s = .next ((s.commandFault k 1).closeCommand cmd) := by
  rw [← rejectCommand_of_unsaved hc hl, exec_copyRagged_walks hc hp hn ha ho, State.walkRagged]
  simp [hw, hbad]

theorem exec_copyRagged_walked (hbad : w.bad = false) (hasks : w.asks = []) : exec (.copyRagged cmd) s
    = .next ((((w.s.unland cmd k.blk (w.landings k.ragged (k.ragged.lines (s.blk k.blk).bedLines))).updCmd cmd
        fun c => { c with
          next := 1
          stat := if w.clipped.isSome then 7 else 0
          detail := match w.clipped with
            | some i => i
            | none => (min w.j (32 * k.ragged.cap) + 31) / 32 }).postAll
        (w.fail.map fun f => .copyChunkFault cmd f.1 f.2)).post (.copyRagged cmd)) := by
  rw [exec_copyRagged_walks hc hp hn ha ho, State.walkRagged]
  simp [hw, hbad, hasks, hp] <;> rfl

end

theorem exec_copyRagged_lands (hs : k.state = .taken) (hn : k.next ≠ 0) (hf : chunkFaultOut s cmd = false) : ∃ t,
    exec (.copyRagged cmd) s = .next t ∧ { t with cmds := s.cmds, agenda := s.agenda } = s
      ∧ ∀ l, l ∈ k.landing → .bedLineLands k.blk l.line cmd ∈ t.agenda := by
  have moved := cmd_updCmd_same hc fun c => { c with landing := c.landing.map fun l => { l with left := 0 } }
  refine ⟨(s.updCmd cmd fun c => { c with landing := c.landing.map fun l => { l with left := 0 } }).landReady cmd,
    congrArg Host.Outcome.next ?_, ?_, fun l hl => ?_⟩
  · simp [State.copyRagged, hc, hs, hn, hf]
  · exact (congrArg (fun t : State => { t with cmds := s.cmds, agenda := s.agenda }) (landReady_rest moved) :)
  · exact bedLineLands_of_landReady moved (l := { l with left := 0 }) (List.mem_map.2 ⟨l, hl, rfl⟩) rfl

end

/-! ### The copy engine together -/

section
variable {s : State} {cmd : Nat} {k : Command} (hc : s.cmd cmd = some k)
include hc

theorem copyLinear_moves (ready : k.state = .taken ∧ 256 * k.next < k.linear.total ∧ (k.linear.fromMem = true →
      ∀ p, p ∈ k.pieces k.next → s.hostTakes (s.partyOf k.blk) (BitVec.ofNat 64 p.src) = none))
    {t : State} {stat : Nat} {l : List Moved} (source : s.ChunkSource k t stat l) :
    (stat = 0 → k.linear.toMem = false → exec (.copyLinear cmd) s
        = .next (((t.putBed cmd l k.linear.fromMem).nextChunk cmd).post (.copyLinear cmd)))
      ∧ (stat ≠ 0 → k.linear.toMem = false → exec (.copyLinear cmd) s
        = .next (((t.nextChunk cmd).post (.copyChunkFault cmd k.next stat)).post (.copyLinear cmd)))
      ∧ (stat = 0 → k.linear.toMem = true → ∀ u w, t.probePieces (s.partyOf k.blk) l = (u, 0, w) → u.hostHolds w = none →
        exec (.copyLinear cmd) s = .next (((w.foldl (fun u m =>
          u.engineWrite (s.partyOf k.blk) (BitVec.ofNat 64 m.1.piece.dst) m.2.1 m.1.piece.len m.1.val m.1.poison m.2.2
            (some k.hint)) u).nextChunk cmd).post (.copyLinear cmd))) := by
  obtain ⟨taken, left, free⟩ := ready
  rw [exec_copyLinear_moves hc taken left free]
  refine ⟨fun h0 hm => ?_, fun h0 hm => ?_, fun h0 hm u w hw hh => ?_⟩
  · rw [moveChunk_toBed source hm, if_pos h0]
  · rw [moveChunk_toBed source hm, if_neg h0]
  · subst h0
    rw [moveChunk_toMem source hm hw hh]

/-- What a walked ragged copy leaves: its command taken with what the walk has brought, and its lines away. -/
theorem copyRagged_walked (hp : k.state = .pushed) (hn : k.next = 0) (ha : (s.blk k.blk).committed k.after = true)
    (ho : s.raggedOk k = true) {w : Walked}
    (hw : walkRows k (s.partyOf k.blk) k.ragged.nrows 0 ⟨s, 0, none, [], [], [], [], false⟩ = w)
    (hbad : w.bad = false) (hasks : w.asks = []) (hk : w.s.cmd cmd = some k) (hb : (oget w.s.blocks k.blk).isSome = true) :
    ∃ t, exec (.copyRagged cmd) s = .next t
      ∧ t.cmd cmd = some { k with
          state := .taken, next := 1, stat := if w.clipped = none then 0 else 7
          detail := match w.clipped with
            | some i => i
            | none => (min w.j (32 * k.ragged.cap) + 31) / 32
          landing := w.landings k.ragged (k.ragged.lines (s.blk k.blk).bedLines) }
      ∧ (∀ n, n ∈ k.ragged.lines (s.blk k.blk).bedLines → ((t.blk k.blk).bedLine n).absent = true)
      ∧ t.mem = w.s.mem
      ∧ t.agenda = w.s.agenda ++ w.fail.map (fun f => .copyChunkFault cmd f.1 f.2) ++ [.copyRagged cmd] := by
  have step := exec_copyRagged_walked hc hp hn ha ho hw hbad hasks
  rw [unland_eq hb] at step
  refine ⟨_, step, ?_, fun n hm => ?_, rfl, rfl⟩
  · refine (cmd_updCmd_same (cmd_updCmd_same (s := w.s.setBlk _ _) hk _) _).trans ?_
    cases w.clipped <;> rfl
  · refine (congrArg (fun x : Block => (x.bedLine n).absent) (blk_setBlk_same ..)).trans ?_
    exact absent_awayFor (.inr ((lines_landings ..).symm ▸ hm))

end

/-- Settles O46: the commands taken and rejected, a chunk by its source, its pieces and its lines, a ragged walk element by
element, and the failures of chunks. -/
theorem copyCommands : Obligations.CopyCommands := by
  refine fun s cmd k hc hb => ⟨fun hp ha => ⟨exec_copyLinear_taken hc hb hp ha, exec_copyLinear_rejects hc hp ha,
      exec_copyRagged_rejects hc hp ha⟩,
    fun ready t stat l source => copyLinear_moves hc ready source,
    fun p v z fm hd hl hend hv => putBed_piece hc hd hl hend hv,
    exec_copyLinear_completes hc, exec_copyLinear_waits hc,
    fun hp hn ha ho => ⟨exec_copyRagged_bad hc hp hn ha ho rfl, fun hbad hasks hk hbw => ?_⟩,
    exec_copyRagged_lands hc, fun w i n hp => ⟨fun hj hsrc hend => ?_, fun hj => ?_, fun v b _ hb hn h => masks_word w _ hb hn h⟩,
    noteRun_singleton, fun n stat => ?_⟩
  · exact copyRagged_walked hc hp hn ha ho rfl hbad hasks hk hbw
  · rw [walkRow_element hp hj (by omega)]
    dsimp only
    rw [read_starts hsrc hend]
    exact ⟨rfl, rfl, read_ok hsrc hend, read_failed hsrc hend⟩
  · rw [walkRow_clips hj]
    exact ⟨rfl, rfl, by cases w.clipped <;> rfl⟩
  · obtain ⟨t, k', step, hk', rest, failAt, landing, lands⟩ := copyChunkFault_notes hc n stat
    refine ⟨t, k', step, hk', rest, fun h => ?_, fun f h => ⟨fun hn => ?_, fun hn => ?_, fun hn hs hf => ?_⟩, ?_, lands⟩
    · rw [failAt, chunkFails_first h]
    · rw [failAt, chunkFails_lower h hn]
    · rw [failAt, chunkFails_higher h hn]
    · rw [failAt, chunkFails_same h hn hs hf]
    · rw [landing, List.map_map]
      exact List.map_congr_left fun l _ => missChunk_failed k n l

end Sys2Proof.Machine
end

section
/-!
SUPPORT. The completion of commands (R135, R138, R139): the completion word, its delivery, and DONE of a timeline.
-/

namespace Sys2Proof.Machine

/-! ### The completion word (R138) -/

/-- Fields put together are told apart again where none is too large for its place. -/
theorem bits_completionWord {c : Command} (hs : c.stat < 16) (ht : c.tl < 16) :
    bits (completionWord c) 48 16 = bits (c.words.getD 0 0) 32 16 ∧ bits (completionWord c) 36 4 = c.stat
      ∧ bits (completionWord c) 32 4 = c.tl ∧ bits (completionWord c) 0 32 = c.detail % 2 ^ 32
      ∧ bits (completionWord c) 40 8 = if c.queue = 4 then 0xFF else 0 := by
  have htag := bits_lt (c.words.getD 0 0) 32 16
  have hdetail := Nat.mod_lt c.detail (Nat.two_pow_pos 32)
  unfold completionWord
  generalize bits (c.words.getD 0 0) 32 16 = tag at htag ⊢
  generalize c.detail % 2 ^ 32 = detail at hdetail ⊢
  refine ⟨?_, ?_, ?_, ?_, ?_⟩ <;> rw [bits_ofNat _ (by decide)] <;> split <;> omega

/-! ### The delivery of the completion word (R135, R138, R139) -/

/-- A command that begins to report, with its completion word where it has one. -/
def Command.reporting (c : Command) : Command :=
  { c with sending := true, out := c.out ++ if c.reports then [completionWord c] else [] }

theorem reporting_word {c : Command} (ho : c.out = []) (hr : c.reports = true) :
    c.reporting = { c with sending := true, out := [completionWord c] } := by
  rw [Command.reporting, hr, ho]
  rfl

theorem reporting_nothing {c : Command} (ho : c.out = []) (hr : c.reports = false) :
    c.reporting = { c with sending := true, out := [] } := by
  rw [Command.reporting, hr, ho]
  rfl

/-- What a command that has completed does with the words that it still reports, once its status stands. -/
def State.deliver (s : State) (cmd : Nat) (c : Command) : State :=
  if (s.grp c.blk c.grp).ended || c.out.isEmpty then
    (if c.queue != 4 && !c.reports && [1, 2, 3, 4, 6, 8].contains c.stat
      then (s.updCmd cmd fun _ => { c with out := [] }).commandFault c 2
      else s.updCmd cmd fun _ => { c with out := [] }).closeCommand cmd
  else if s.queueBusy cmd c then s.post (.commandCompletion cmd)
  else ((s.updGrp c.blk c.grp fun y => y.setQueue (resultQueue c.queue) (y.queue (resultQueue c.queue)
      ++ c.out.take (32 - ((s.grp c.blk c.grp).queue (resultQueue c.queue)).length))).updCmd cmd fun _ =>
        { c with out := c.out.drop (32 - ((s.grp c.blk c.grp).queue (resultQueue c.queue)).length) }).post
      (.commandCompletion cmd)

section
variable {s : State} {cmd : Nat} {k : Command} (hc : s.cmd cmd = some k)
include hc

theorem exec_commandCompletion_sending (hs : k.state ≠ .done) (hl : (s.blk k.blk).life = .resident)
    (hk : k.sending = true) :
    exec (.commandCompletion cmd) s = .next (s.deliver cmd k) := by
  refine congrArg Host.Outcome.next ?_
  rw [State.completeCommand, hc]
  dsimp only
  rw [if_neg (by simpa using hs), if_neg (by simp [hl]), if_pos hk, if_pos hk]
  rfl

/-- A command whose status has a detail of its own begins to report. -/
theorem exec_commandCompletion_first (hs : k.state ≠ .done) (hl : (s.blk k.blk).life = .resident)
    (hk : k.sending = false)
    (hd : k.report.stat ≠ 6 ∧ k.report.stat ≠ 8 ∧ (k.report.queue = 6 → k.report.stat = 0)) :
    exec (.commandCompletion cmd) s = .next (s.deliver cmd k.report.reporting) := by
  refine congrArg Host.Outcome.next ?_
  obtain ⟨h6, h8, h0⟩ := hd
  have same : s.openDetail k.report = (s, k.report) := by
    rw [State.openDetail, if_neg (by simpa [h6, h8] using h0)]
  have first : k.report.sending = false := by
    rw [Command.report]
    split <;> exact hk
  rw [State.completeCommand, hc]
  dsimp only
  rw [if_neg (by simpa using hs), if_neg (by simp [hl]), hk, if_neg Bool.false_ne_true, same, first,
    if_neg Bool.false_ne_true]
  rfl

end

section
variable {s : State} {cmd : Nat} {c : Command}

/-- A change of a group that rests on how the group stands. -/
theorem updGrp_congr {b g : Nat} {f f' : Group → Group} (h : f (s.grp b g) = f' (s.grp b g)) :
    s.updGrp b g f = s.updGrp b g f' := by
  unfold State.updGrp State.updBlk
  cases hb : oget s.blocks b with
  | none => rfl
  | some x =>
    cases hg : oget x.groups g with
    | none => simp [hg]
    | some y => simpa [State.grp, State.blk, Block.grp, hb, hg] using congrArg (fun z => s.setBlk b (x.setGrp g z)) h

/-- The one word that a command reports enters its result queue where there is room for it. -/
theorem deliver_word {w : Word} (ho : c.out = [w]) (he : (s.grp c.blk c.grp).ended = false)
    (hr : ((s.grp c.blk c.grp).queue (c.queue + 1)).length < 32) (hq : s.queueBusy cmd c = false) :
    s.deliver cmd c = ((s.updGrp c.blk c.grp fun y => y.setQueue (c.queue + 1)
        ((s.grp c.blk c.grp).queue (c.queue + 1) ++ [w])).updCmd cmd fun _ =>
          { c with out := [] }).post (.commandCompletion cmd) := by
  obtain ⟨n, room⟩ : ∃ n, 32 - ((s.grp c.blk c.grp).queue (resultQueue c.queue)).length = n + 1 :=
    Nat.exists_eq_succ_of_ne_zero (Nat.sub_ne_zero_of_lt hr)
  rw [State.deliver, ho, he, hq, room, List.drop_succ_cons, List.drop_nil, List.take_succ_cons, List.take_nil]
  exact congrArg (fun t => State.post (State.updCmd t cmd _) _) (updGrp_congr rfl)

/-- A command that reports no word is done; a failure that no word tells becomes a fault. -/
theorem deliver_nothing (ho : c.out = []) : s.deliver cmd c =
    (if c.queue ≠ 4 ∧ c.reports = false ∧ c.stat ∈ [1, 2, 3, 4, 6, 8] then (s.updCmd cmd fun _ => c).commandFault c 2
      else s.updCmd cmd fun _ => c).closeCommand cmd := by
  have same : ({ c with out := [] } : Command) = c := by rw [← ho]
  simp [State.deliver, ho, same, and_assoc]

end

/-! ### DONE of a timeline (R135) -/

theorem closeCommand_eq {s : State} {cmd : Nat} {k : Command} (hc : s.cmd cmd = some k) (hr : k.refetch = false) :
    s.closeCommand cmd = ((s.updCmd cmd fun c => { c with state := .done }).advanceDone k.blk k.tl
      (s.cmds.length + 1)).settleBlock k.blk := by
  rw [State.closeCommand, hc]
  dsimp only
  rw [hr]
  rfl

/-- A command with a number of a timeline of a block has completed. -/
def numbered (b t n : Nat) (c : Nat × Command) : Bool := c.2.blk == b && c.2.tl == t && c.2.num == n && c.2.state == .done

theorem numbered_iff {b t n : Nat} {c : Nat × Command} :
    numbered b t n c = true ↔ c.2.blk = b ∧ c.2.tl = t ∧ c.2.num = n ∧ c.2.state = .done := by
  simp [numbered, and_assoc]

/-- The state with DONE of a timeline moved on over one command. -/
def State.passOver (s : State) (b t : Nat) (c : Nat × Command) : State :=
  { s.updBlk b (fun x => { x with done := sset 0 x.done t (sget 0 (s.blk b).done t + 1) }) with cmds := odel s.cmds c.1 }

theorem advanceDone_succ (s : State) (b t fuel : Nat) : s.advanceDone b t (fuel + 1) =
    match (oitems s.cmds).find? (numbered b t (sget 0 (s.blk b).done t + 1)) with
    | none => s
    | some c => (s.passOver b t c).advanceDone b t fuel := rfl

section
variable {s : State} {b t : Nat} (hb : (oget s.blocks b).isSome = true)
include hb

theorem done_passOver (c : Nat × Command) :
    sget 0 ((s.passOver b t c).blk b).done t = sget 0 (s.blk b).done t + 1 := by
  have same : (s.passOver b t c).blk b
      = (s.updBlk b fun x => { x with done := sset 0 x.done t (sget 0 (s.blk b).done t + 1) }).blk b := rfl
  rw [same, updBlk_of hb, blk_setBlk_same, sget_sset_same]

theorem isSome_passOver (c : Nat × Command) : (oget (s.passOver b t c).blocks b).isSome = true := by
  have same : (s.passOver b t c).blocks
      = (s.updBlk b fun x => { x with done := sset 0 x.done t (sget 0 (s.blk b).done t + 1) }).blocks := rfl
  rw [same, updBlk_of hb]
  simp [State.setBlk]

end

theorem oitems_odel {α : Type} (m : OMap α) (k : Nat) : oitems (odel m k) = (oitems m).filter fun e => e.1 != k := by
  induction m with
  | nil => rfl
  | cons kv m ih =>
    obtain ⟨j, v⟩ := kv
    by_cases hj : j = k <;> cases v <;> simpa [oitems, odel, serase, hj] using ih

/-- A map in canonical form has one object for a key. -/
theorem eq_of_mem_oitems {α : Type} [DecidableEq α] {m : OMap α} (hm : swf none m = true) {e f : Nat × α}
    (he : e ∈ oitems m) (hf : f ∈ oitems m) (h : e.1 = f.1) : e = f := by
  have keys : ((oitems m).map fun e => e.1).Nodup := by
    refine List.pairwise_map.2 (List.Pairwise.filterMap _ (fun p q hpq p' hp q' hq => ?_) ((swf_iff none m).1 hm).1)
    obtain ⟨_, _, rfl⟩ := Option.map_eq_some_iff.1 hp
    obtain ⟨_, _, rfl⟩ := Option.map_eq_some_iff.1 hq
    exact Nat.ne_of_lt hpq
  exact List.inj_on_of_nodup_map keys he hf h

theorem swf_odel {α : Type} [DecidableEq α] {m : OMap α} (hm : swf none m = true) (k : Nat) :
    swf none (odel m k) = true := by
  have h := swf_sset none k none hm
  rwa [sset, if_pos rfl] at h

/-- Some command of the list has completed with a number of a timeline. -/
def DoneAt (s : State) (b t n : Nat) : Prop := ∃ c ∈ oitems s.cmds, numbered b t n c = true

/-- DONE moves on to the last number up to which every command has completed. -/
theorem advanceDone_effect {b t : Nat} : ∀ (fuel : Nat) (s : State), (oget s.blocks b).isSome = true →
    swf none s.cmds = true → (oitems s.cmds).length < fuel →
    let old := sget 0 (s.blk b).done t
    let new := sget 0 ((s.advanceDone b t fuel).blk b).done t
    old ≤ new ∧ (∀ n, old < n → n ≤ new → DoneAt s b t n) ∧ ¬ DoneAt s b t (new + 1) := by
  intro fuel
  induction fuel with
  | zero => exact fun _ _ _ h => absurd h (Nat.not_lt_zero _)
  | succ fuel ih =>
    intro s hb hm hl old
    rw [advanceDone_succ]
    cases hf : (oitems s.cmds).find? (numbered b t (sget 0 (s.blk b).done t + 1)) with
    | none =>
      refine ⟨Nat.le_refl _, fun n h1 h2 => absurd h2 (Nat.not_le.2 h1), fun ⟨c, hc, hn⟩ => ?_⟩
      exact List.find?_eq_none.1 hf c hc hn
    | some c =>
      have hc := List.mem_of_find?_eq_some hf
      have hn : numbered b t (old + 1) c = true := List.find?_some hf
      have items : oitems (s.passOver b t c).cmds = (oitems s.cmds).filter fun e => e.1 != c.1 := oitems_odel _ _
      obtain ⟨rises, numbers, last⟩ := ih (s.passOver b t c) (isSome_passOver hb c) (swf_odel hm c.1) (by
        rw [items]
        refine Nat.lt_of_lt_of_le (List.length_filter_lt_length_iff_exists.2 ⟨c, hc, by simp⟩) (Nat.lt_succ_iff.1 hl))
      rw [done_passOver hb] at rises numbers
      dsimp only
      refine ⟨Nat.le_of_succ_le rises, fun n h1 h2 => ?_, fun ⟨e, he, hen⟩ => ?_⟩
      · rcases Nat.eq_or_lt_of_le (Nat.succ_le_of_lt h1) with rfl | h1
        · exact ⟨c, hc, hn⟩
        · obtain ⟨e, he, hen⟩ := numbers n h1 h2
          rw [items] at he
          exact ⟨e, (List.mem_filter.1 he).1, hen⟩
      · by_cases hk : e.1 = c.1
        · obtain rfl := eq_of_mem_oitems hm he hc hk
          have := (numbered_iff.1 hn).2.2.1.symm.trans (numbered_iff.1 hen).2.2.1
          omega
        · exact last ⟨e, by rw [items]; exact List.mem_filter.2 ⟨he, by simpa using hk⟩, hen⟩

end Sys2Proof.Machine
end

section
/-!
SUPPORT. Transfers to and from a peer (R144): how a command is taken, how a chunk goes, and the flag.
-/

namespace Sys2Proof.Machine

section
variable {s : State} {cmd : Nat} {k : Command}

/-- A packet sent to a peer that the table names. -/
theorem askPeer_eq {e : List Byte} (he : s.peerEntry k = some e) (kind addr : Nat) (data : List Byte) :
    s.askPeer k kind addr data = ({ s with
      messages := s.messages ++ [⟨kind, addr, peerHeader e ++ data⟩]
      free := s.free + 1 }, Config.peerAnswer s.free) := by
  rw [State.askPeer, he]
  rfl

/-- A chunk of 64 bytes that was read leaves as one packet. -/
theorem messages_putChunk {t : State} {v : Nat} {e : List Byte} (hr : k.kv.runs k.next = [256 * k.next])
    (hv : s.engineRead (s.kvParty k.blk) (BitVec.ofNat 64 (k.kv.local_ + 256 * k.next)) 64 = (t, ⟨0, v, 0⟩))
    (he : t.peerEntry k = some e) : (s.putChunk cmd k).messages
      = t.messages ++ [⟨10, k.kv.remote + 256 * k.next, peerHeader e ++ bytesLe 64 v⟩] := by
  simp only [State.putChunk, hr, List.foldl_cons, List.foldl_nil, hv]
  rw [show worseStat 0 0 = 0 from rfl, if_neg (by decide), askPeer_eq he]
  rfl

/-- A chunk of 64 bytes that the peer gives is written where it translates. -/
theorem getChunk_writes {t : State} {x : Xlate} {d e : List Byte} (hr : k.kv.runs k.next = [256 * k.next])
    (hn : k.kv.len - 256 * k.next = 64) (hd : Config.peerAnswer s.free = some d) (hl : d.length = 64)
    (he : s.peerEntry k = some e)
    (hp : State.engineProbe { s with
      messages := s.messages ++ [⟨11, k.kv.remote + 256 * k.next, peerHeader e ++ bytesLe 4 64⟩]
      free := s.free + 1 } (s.kvParty k.blk) (BitVec.ofNat 64 (k.kv.local_ + 256 * k.next)) = (t, 0, x)) :
    s.getChunk cmd k = (t.engineWrite (s.kvParty k.blk) (BitVec.ofNat 64 (k.kv.local_ + 256 * k.next)) x 64 (leBytes d)
      0 0).kvNext cmd 0 := by
  simp only [State.getChunk, hn, show min 256 64 = 64 from rfl, askPeer_eq he, hd, hl, hr, List.foldl_cons, List.foldl_nil,
    hp, Nat.sub_self, List.drop_zero]
  rw [if_neg (by decide), if_neg (by decide), List.take_of_length_le (Nat.le_of_eq hl)]

/-! ### The steps of a transfer -/

variable (hc : s.cmd cmd = some k)
include hc

/-- A pushed command is taken by the engine of its direction. -/
theorem exec_kv_pushed (hp : k.state = .pushed) (put : Bool) :
    exec (if put then .kvPut cmd else .kvGet cmd) s
      = .next (s.takeKv cmd k (if put then 1 else 2) (if put then .kvPut cmd else .kvGet cmd)) := by
  cases put <;> refine congrArg Host.Outcome.next ?_
  · simp [State.kvGet, hc, hp]
  · simp [State.kvPut, hc, hp]

theorem takeKv_rejects (ha : (s.blk k.blk).committed k.after = true) (hl : (s.blk k.blk).life ≠ .saved) {kind : Nat}
    (hk : k.kvOk kind = false) (again : Instr) :
    s.takeKv cmd k kind again = (s.commandFault k 1).closeCommand cmd := by
  rw [← rejectCommand_of_unsaved hc hl]
  simp [State.takeKv, ha, hk]

omit hc in
/-- A valid command whose peer is not there fails; any other begins. -/
theorem takeKv_takes (ha : (s.blk k.blk).committed k.after = true) {kind : Nat} (hk : k.kvOk kind = true) (again : Instr) :
    s.takeKv cmd k kind again = if s.peerEntry k = none
      then (s.updCmd cmd fun k => { k with state := .taken, stat := 6 }).post (.commandCompletion cmd)
      else (s.updCmd cmd fun k => { k with state := .taken, detail := k.kv.len % 2 ^ 32 }).post again := by
  cases he : s.peerEntry k <;> simp [State.takeKv, ha, hk, he]

section
variable (ht : k.state = .taken)
include ht

theorem exec_kvPut_ends (hn : k.kv.len ≤ 256 * k.next) : exec (.kvPut cmd) s
    = .next (s.post (if k.kv.rflag = true ∧ k.stat = 0 then .kvFlagIncrement cmd else .commandCompletion cmd)) := by
  refine congrArg Host.Outcome.next ?_
  cases hf : k.kv.rflag <;> by_cases h0 : k.stat = 0 <;> simp [State.kvPut, hc, ht, Nat.not_lt.2 hn, hf, h0]

theorem exec_kvGet_ends (hn : k.kv.len ≤ 256 * k.next) :
    exec (.kvGet cmd) s = .next (s.post (.commandCompletion cmd)) := by
  refine congrArg Host.Outcome.next ?_
  simp [State.kvGet, hc, ht, Nat.not_lt.2 hn]

theorem exec_kvPut_chunk (hn : 256 * k.next < k.kv.len) (hh : s.rangeTaken (s.kvParty k.blk) (k.kv.local_ + 256 * k.next)
    (min 256 (k.kv.len - 256 * k.next)) = []) : exec (.kvPut cmd) s = .next ((s.putChunk cmd k).post (.kvPut cmd)) := by
  refine congrArg Host.Outcome.next ?_
  simp [State.kvPut, hc, ht, hn, hh]

theorem exec_kvGet_chunk (hn : 256 * k.next < k.kv.len) (hh : s.getHeld k = none) :
    exec (.kvGet cmd) s = .next ((s.getChunk cmd k).post (.kvGet cmd)) := by
  refine congrArg Host.Outcome.next ?_
  simp [State.kvGet, hc, ht, hn, hh]

/-- The flag leaves; a peer that does not answer ends the command with status 6. -/
theorem exec_kvFlagIncrement {e : List Byte} (he : s.peerEntry k = some e) :
    let sent : State := { s with
      messages := s.messages ++ [⟨12, k.kv.flag, peerHeader e ++ bytesLe 8 1⟩]
      free := s.free + 1 }
    exec (.kvFlagIncrement cmd) s = .next ((if (Config.peerAnswer s.free).isNone
      then sent.updCmd cmd fun c => { c with stat := 6, failAt := none } else sent).post (.commandCompletion cmd)) := by
  refine congrArg Host.Outcome.next ?_
  simp [State.kvFlag, hc, ht, askPeer_eq he]

end
end

/-! ### The obligation -/

section
variable {s : State} {cmd : Nat} {k : Command} (hc : s.cmd cmd = some k) (hl : (s.blk k.blk).life = .resident)
include hc hl

/-- A command that ends well enters its completion word, where it reports one, and is else done at once. -/
theorem exec_commandCompletion_ok (hs : k.state ≠ .done) (hk : k.sending = false) (ho : k.out = []) (hf : k.failAt = none)
    (h0 : k.stat = 0) :
    (k.reports = true → (s.grp k.blk k.grp).ended = false → ((s.grp k.blk k.grp).queue (k.queue + 1)).length < 32 →
      s.queueBusy cmd { k with sending := true, out := [completionWord k] } = false →
      exec (.commandCompletion cmd) s = .next (((s.updGrp k.blk k.grp fun y => y.setQueue (k.queue + 1)
          ((s.grp k.blk k.grp).queue (k.queue + 1) ++ [completionWord k])).updCmd cmd
        fun _ => { k with sending := true, out := [] }).post (.commandCompletion cmd)))
    ∧ (k.reports = false → exec (.commandCompletion cmd) s
        = .next ((s.updCmd cmd fun _ => { k with sending := true, out := [] }).closeCommand cmd)) := by
  have report : k.report = k := by rw [Command.report, hf]
  have step := exec_commandCompletion_first hc hs hl hk (by rw [report, h0]; exact ⟨nofun, nofun, fun _ => rfl⟩)
  rw [report] at step
  refine ⟨fun hr he hroom hq => ?_, fun hr => ?_⟩
  · rw [reporting_word ho hr] at step
    exact step.trans (congrArg Host.Outcome.next
      (deliver_word (c := { k with sending := true, out := [completionWord k] }) rfl he hroom hq))
  · rw [step, reporting_nothing ho hr, deliver_nothing rfl, if_neg (by simp [h0])]

/-- A command that failed and reports no word is done at once, and its failure becomes a fault. -/
theorem exec_commandCompletion_fault {n stat : Nat} (hs : k.state ≠ .done) (hk : k.sending = false) (ho : k.out = [])
    (hf : k.failAt = some (n, stat)) (hstat : stat ∈ [1, 2, 3, 4]) (hq : k.queue < 4) (hr : k.reports = false) :
    let k' : Command := { k with stat := stat, detail := 256 * n, sending := true, out := [] }
    exec (.commandCompletion cmd) s = .next (((s.updCmd cmd fun _ => k').commandFault k' 2).closeCommand cmd) := by
  intro k'
  have report : k.report = { k with stat := stat, detail := 256 * n } := by rw [Command.report, hf]
  have hne : k.queue ≠ 4 := Nat.ne_of_lt hq
  have known : ∀ n ∈ [1, 2, 3, 4], n ≠ 6 ∧ n ≠ 8 ∧ n ∈ [1, 2, 3, 4, 6, 8] := by decide
  obtain ⟨h6, h8, hbad⟩ := known stat hstat
  have silent : k.report.reports = false := by
    rw [report]
    exact (if_neg hne).trans ((if_neg hne).symm.trans hr)
  have step := exec_commandCompletion_first hc hs hl hk (by
    rw [report]
    exact ⟨h6, h8, fun h => absurd hq (by rw [h]; decide)⟩)
  have opens : k.report.reporting = k' := by
    rw [reporting_nothing (by rw [report]; exact ho) silent, report]
  rw [step, opens, deliver_nothing rfl, if_pos ⟨hne, (if_neg hne).trans ((if_neg hne).symm.trans hr), hbad⟩]

end

/-- Settles O47: a completion by what its command reports, DONE by induction on the commands that it passes over, and the
transfers step by step. -/
theorem commandsComplete : Obligations.CommandsComplete := by
  intro s cmd k hc hb hl a P old
  refine ⟨fun hs hk ho hf h0 => exec_commandCompletion_ok hc hl hs hk ho hf h0,
    fun n stat hs hk ho hf hstat hq hr => exec_commandCompletion_fault hc hl hs hk ho hf hstat hq hr,
    bits_completionWord, fun hs hk ho hr => ?_, closeCommand_eq hc, fun b t hb hm => ?_, fun put => ?_,
    fun ht hn => ⟨exec_kvPut_ends hc ht hn, exec_kvGet_ends hc ht hn⟩,
    fun ht hn => ⟨exec_kvPut_chunk hc ht hn, fun hr t v e => messages_putChunk hr, exec_kvGet_chunk hc ht hn, ?_⟩,
    fun ht e he => ?_⟩
  · rw [exec_commandCompletion_sending hc hs hl hk, deliver_nothing ho, if_neg (by simp [hr])]
  · have items : (oitems s.cmds).length < s.cmds.length + 1 := Nat.lt_succ_of_le (List.length_filterMap_le _ _)
    simpa only [DoneAt, numbered_iff] using advanceDone_effect (t := t) _ s hb hm items
  · intro i hp ha
    refine ⟨fun hk => ⟨fun he => ?_, fun e he => ?_⟩, fun hk => ?_⟩
    · rw [exec_kv_pushed hc hp, takeKv_takes ha hk, if_pos he]
    · rw [exec_kv_pushed hc hp, takeKv_takes ha hk, if_neg (by simp [he])]
    · rw [exec_kv_pushed hc hp, takeKv_rejects hc ha (by simp [hl]) hk]
  · intro d e hr hlen hd h64 he q va t x hp
    exact getChunk_writes hr hlen hd h64 he hp
  · have flag := exec_kvFlagIncrement hc ht he
    refine ⟨fun d hd => ?_, fun hd => ?_⟩ <;> rw [hd] at flag <;> exact flag

end Sys2Proof.Machine
end

section
/-!
SUPPORT. An acquire and a change of a group do not meet (R91): what an acquire gives up rests on the held copies of blocks
and not on their groups.
-/

namespace Sys2Proof.Machine

/-- An acquire changes caches alone. -/
theorem acquire_rest (s : State) (b scope : Nat) :
    { s.acquire b scope with cores := s.cores, die0 := s.die0, die1 := s.die1 } = s := by
  have dropped (t : State) (d : Nat) : { t.dropRemote d with die0 := t.die0, die1 := t.die1 } = t := by
    unfold State.dropRemote State.updDie
    split <;> rfl
  unfold State.acquire
  dsimp only
  repeat' split
  · exact congrArg (fun t : State => { t with cores := s.cores }) (dropped (s.updL1 _ dropNormal) _)
  · exact congrArg (fun t : State => { t with cores := s.cores }) (dropped s _)
  · rfl
  · rfl

theorem acquire_fresh (s : State) (b scope : Nat) : (s.acquire b scope).fresh = s.fresh :=
  (congrArg State.fresh (acquire_rest s b scope) :)

theorem acquire_cur (s : State) (b scope : Nat) : (s.acquire b scope).cur = s.cur :=
  (congrArg State.cur (acquire_rest s b scope) :)

/-- What is listed of the objects of a map does not tell apart two objects of which the same is listed. -/
theorem flatMap_oitems_oset {α β : Type} [DecidableEq α] (f : Nat × α → List β) (m : OMap α) (k : Nat) {v w : α}
    (h : f (k, v) = f (k, w)) : (oitems (oset m k v)).flatMap f = (oitems (oset m k w)).flatMap f := by
  have inserted (l : OMap α) : (oitems (sinsert l k (some v))).flatMap f = (oitems (sinsert l k (some w))).flatMap f := by
    induction l with
    | nil => simp [sinsert, oitems, h]
    | cons e l ih =>
      obtain ⟨j, x⟩ := e
      by_cases hk : k < j
      · simp [sinsert, hk, oitems, h]
      · cases x <;> simpa [sinsert, hk, oitems] using ih
  simpa [oset, sset] using inserted (serase m k)

theorem copiesOn_setGrp (s : State) (b g d : Nat) (y z : Group) :
    (s.setGrp b g y).copiesOn d = (s.setGrp b g z).copiesOn d :=
  flatMap_oitems_oset _ s.blocks b rfl

theorem updDie_setGrp (s : State) (d b g : Nat) (f : Die → Die) (y : Group) :
    (s.setGrp b g y).updDie d f = (s.updDie d f).setGrp b g y := by
  unfold State.updDie
  split <;> rfl

theorem dropRemote_setGrp (s : State) (b g d : Nat) (y z : Group) :
    (s.setGrp b g y).dropRemote d = ((s.setGrp b g z).dropRemote d).setGrp b g y := by
  unfold State.dropRemote
  rw [copiesOn_setGrp s b g d y z]
  dsimp only
  rw [updDie_setGrp, updDie_setGrp, setGrp_setGrp]

theorem acquire_setGrp (s : State) (b g scope : Nat) (y z : Group) :
    (s.setGrp b g y).acquire b scope = ((s.setGrp b g z).acquire b scope).setGrp b g y := by
  have l1 (k : Nat) (x : Group) : (s.setGrp b g x).updL1 k dropNormal = (s.updL1 k dropNormal).setGrp b g x := rfl
  have core (x : Group) : ((s.setGrp b g x).blk b).core = (s.blk b).core := by
    rw [blk_setGrp]
    rfl
  unfold State.acquire
  dsimp only
  simp only [core, State.setGrp_fused, l1]
  repeat' split
  · exact dropRemote_setGrp _ b g _ y z
  · exact dropRemote_setGrp s b g _ y z
  · rw [setGrp_setGrp]
  · rw [setGrp_setGrp]

end Sys2Proof.Machine
end

section
/-!
SUPPORT. Commands are assembled from the words of a queue and pushed (R134).
-/

namespace Sys2Proof.Machine

/-! ### Whole commands (R134) -/

/-- A queue's words make the commands that they are made of, and leave the rest. -/
theorem assemble_of_commands {cmds : List (List Word)} {more : List Word} : ∀ {l : List Word}, Commands l cmds more →
    ∀ {fuel : Nat}, l.length < fuel → assemble fuel l = (cmds, more) := by
  induction cmds with
  | nil =>
    intro l h fuel hf
    obtain ⟨n, rfl⟩ := Nat.exists_eq_succ_of_ne_zero (Nat.ne_zero_of_lt hf)
    obtain rfl : l = more := h.words
    cases l with
    | nil => rfl
    | cons w t => exact if_neg (Nat.not_le.2 (h.part w t rfl))
  | cons k cmds ih =>
    intro l h fuel hf
    obtain ⟨n, rfl⟩ := Nat.exists_eq_succ_of_ne_zero (Nat.ne_zero_of_lt hf)
    obtain ⟨w, t, rfl, ht⟩ := h.whole k List.mem_cons_self
    obtain rfl : l = w :: (t ++ (cmds.flatten ++ more)) := by simpa using h.words
    have rest : Commands (cmds.flatten ++ more) cmds more :=
      ⟨rfl, fun k hk => h.whole k (List.mem_cons_of_mem _ hk), h.part⟩
    have shorter : (cmds.flatten ++ more).length < n := by
      simp only [List.length_cons, List.length_append] at hf ⊢
      omega
    rw [assemble, if_pos (by simp [← ht]), ← ht, List.drop_left, List.take_left, ih rest shorter]

/-! ### Pushing (R134) -/

/-- A commit that starts in any case raises COMMITS and takes what the block holds. -/
theorem blk_startCommit {s : State} {b : Nat} (hb : (oget s.blocks b).isSome = true) : ∃ held commits,
    (s.startCommit b true).blk b = { s.blk b with count := (s.blk b).count + 1, held := held, commits := commits } := by
  have raised : (s.raiseCommits b).blk b = { s.blk b with count := (s.blk b).count + 1 } := by
    rw [State.raiseCommits, updBlk_of hb, blk_setBlk_same]
  have there : (oget (s.raiseCommits b).blocks b).isSome = true := by
    rw [State.raiseCommits, updBlk_of hb]
    simp [State.setBlk]
  rw [State.startCommit]
  dsimp only
  rw [Bool.true_or, if_pos rfl]
  split
  · exact ⟨_, _, raised⟩
  · refine ⟨[], (s.blk b).commits ++ [⟨(s.raiseCommits b).fresh, (s.blk b).held, []⟩], ?_⟩
    change ((s.raiseCommits b).tick.updBlk b _).blk b = _
    rw [updBlk_of (s := (s.raiseCommits b).tick) there, blk_setBlk_same, show (s.raiseCommits b).tick.blk b = _ from raised]

/-- A push numbers its command, raises COMMITS and leaves the command for the engine of its queue. -/
theorem pushCommand_effect {s : State} {b : Nat} (hb : (oget s.blocks b).isSome = true) (g q : Nat) (pc : Word) (w : Word32)
    (words : List Word) :
    let h : Word := words.getD 0 0
    let tl := bits h 56 4
    let t := s.pushCommand b g q pc w words
    sget 0 (t.blk b).issued tl = sget 0 (s.blk b).issued tl + 1 ∧ (t.blk b).count = (s.blk b).count + 1
      ∧ ∃ id k, t.cmd id = some k ∧ k.words = words ∧ k.num = sget 0 (s.blk b).issued tl + 1 ∧ k.state = .pushed
        ∧ takeEvent q (bits h 60 4) id ∈ t.agenda := by
  intro h tl t
  obtain ⟨held, commits, block⟩ := blk_startCommit (s := s.setBlk b { s.blk b with
    issued := sset 0 (s.blk b).issued tl (sget 0 (s.blk b).issued tl + 1) }) (b := b) (by simp [State.setBlk])
  rw [← updBlk_of hb fun x => { x with issued := sset 0 x.issued tl (sget 0 (s.blk b).issued tl + 1) }] at block
  have block : t.blk b = _ := block
  rw [updBlk_of hb, blk_setBlk_same] at block
  refine ⟨?_, ?_, _, _, oget_oset_same .., rfl, rfl, rfl, List.mem_concat_self⟩
  · rw [block]
    dsimp only
    rw [sget_sset_same]
  · rw [block]

end Sys2Proof.Machine
end

section
/-!
SUPPORT. QW, QR and TLW at issue (R132, R133, R137).
-/

namespace Sys2Proof.Machine

/-! ### The state at issue -/

section
variable {i : Instr} {c : IssueCtx} {s : State} (h : AtIssue i c s)
include h

theorem moved_of : s.moved c = s.setGrp c.blk c.grp ((c.group s).setPc c.run fun _ => c.next) := by
  obtain ⟨-, -, hb, hg, -⟩ := h
  exact updGrp_of hb hg _

theorem queue_advance (q : Nat) : ((s.advance (issueOf i c s)).grp c.blk c.grp).queue q = (c.group s).queue q := by
  rw [advance_of h, State.grp_setGrp]
  rfl

theorem pushed_advance (b : Nat) : (s.advance (issueOf i c s)).pushed b = s.pushed b := by
  rw [advance_of h]
  rfl

/-- Whether a release may be made rests on accesses, which the move of the head run leaves. -/
theorem releaseOk_advance : (s.advance (issueOf i c s)).releaseOk (issueOf i c s) = s.releaseOk (issueOf i c s) := by
  have core (k : Nat) (y : Group) : (s.setGrp c.blk c.grp y).core k = s.core k := rfl
  rw [advance_of h]
  simp only [State.releaseOk, State.entriesOf, issueOf_b, issueOf_g, State.grp_setGrp, blk_setGrp, core]
  rfl

end

theorem mem_commandQueues (q : Nat) : q ∈ [0, 2, 4, 6] ↔ isCommandQueue q = true := by
  simp [isCommandQueue, or_assoc]

theorem setQueue_setPc (y : Group) (m : Mask) (f : Nat → Word) (q : Nat) (l : List Word) :
    (y.setPc m f).setQueue q l = (y.setQueue q l).setPc m f := rfl

/-- The trap of a queue used against its direction (R132, R139). -/
theorem queueTrap_eq (i : Instr) (c : IssueCtx) (s : State) (q : Nat) :
    (issueOf i c s).queueTrap q = engineTrap c 4 q 0 0 := rfl

/-! ### QW (R132) -/

section
variable {c : IssueCtx} {s : State} {q : BitVec 4} {r : BitVec 5} {u : BitVec 1} {g : BitVec 4} {I : Issue}
  (h : AtIssue (.qw q r u g) c s) (hI : I = issueOf (.qw q r u g) c s)
include h hI

theorem qw_idle (h0 : I.act = 0) : Effects (.qw q r u g) c s Written.nothing := by
  subst hI
  exact nothing_effects h (show _ = execQw q r u g s from rfl) (if_pos (by simpa using h0))

theorem qw_traps (active : I.act ≠ 0) (hq : q.toNat ∉ [0, 2, 4, 6]) :
    Traps (.qw q r u g) c s (engineTrap c 4 q.toNat 0 0) := by
  subst hI
  rw [mem_commandQueues] at hq
  refine traps_of_trap h (show _ = execQw q r u g s from rfl) ?_
  exact (if_neg (by simpa using active)).trans (if_pos (by simpa using hq))

/-- What QW into a command queue comes to, whose words then make the commands `cmds` and leave `more`. -/
theorem exec_qw (active : I.act ≠ 0) (hq : q.toNat ∈ [0, 2, 4, 6]) {cmds : List (List Word)} {more : List Word}
    (hcmds : Commands ((c.group s).queue q.toNat ++ pushedWords I r u) cmds more) :
    ∃ f, exec (.qw q r u g) s = issueWord (.qw q r u g) s f ∧ f I (s.advance I) =
      if 32 < ((c.group s).queue q.toNat ++ pushedWords I r u).length
        ∨ (cmds ≠ [] ∧ 64 < s.pushed c.blk + cmds.length) then
        I.blockOn (s.advance I) .queue (.queue q.toNat (pushedWords I r u).length cmds.length true)
      else if cmds ≠ [] ∧ s.releaseOk I = false then I.block (s.advance I) .commit
      else cmds.foldl (fun t w => t.pushCommand c.blk c.grp q.toNat c.wpc c.word w)
        ((s.advance I).updGrp c.blk c.grp fun y => y.setQueue q.toNat more) := by
  subst hI
  rw [mem_commandQueues] at hq
  refine ⟨_, show _ = execQw q r u g s from rfl, ?_⟩
  refine (if_neg (by simpa using active)).trans ((if_neg (by simp [hq])).trans ?_)
  have all := assemble_of_commands hcmds (Nat.lt_add_one _)
  rw [List.length_append] at all ⊢
  unfold pushedWords at all ⊢
  simp only [issueOf_b, issueOf_g, queue_advance h, pushed_advance h, releaseOk_advance h, all]
  exact if_congr (by simp) rfl (if_congr (by simp) rfl rfl)

section
variable (active : I.act ≠ 0) (hq : q.toNat ∈ [0, 2, 4, 6]) {cmds : List (List Word)} {more : List Word}
  (hcmds : Commands ((c.group s).queue q.toNat ++ pushedWords I r u) cmds more)
include active hq hcmds

theorem qw_waits (full : 32 < ((c.group s).queue q.toNat ++ pushedWords I r u).length
      ∨ (cmds ≠ [] ∧ 64 < s.pushed c.blk + cmds.length)) :
    Blocks (.qw q r u g) c s .queue (.queue q.toNat (pushedWords I r u).length cmds.length true) := by
  obtain ⟨f, he, hf⟩ := exec_qw h hI active hq hcmds
  subst hI
  exact blocksOn_of h _ _ he (hf.trans (if_pos full))

variable (room : ¬ (32 < ((c.group s).queue q.toNat ++ pushedWords I r u).length
  ∨ (cmds ≠ [] ∧ 64 < s.pushed c.blk + cmds.length)))
include room

theorem qw_waits_release (hc : cmds ≠ []) (hr : s.releaseOk I = false) : Blocks (.qw q r u g) c s .commit .reissue := by
  obtain ⟨f, he, hf⟩ := exec_qw h hI active hq hcmds
  subst hI
  exact blocks_of h .commit he (hf.trans ((if_neg room).trans (if_pos ⟨hc, hr⟩)))

theorem qw_pushes (ready : cmds ≠ [] → s.releaseOk I = true) : ∃ y, HeadAt c c.next (c.group s) y
    ∧ exec (.qw q r u g) s = .next (cmds.foldl (fun t w => t.pushCommand c.blk c.grp q.toNat c.wpc c.word w)
        (s.setGrp c.blk c.grp (y.setQueue q.toNat more))).markDone := by
  obtain ⟨f, he, hf⟩ := exec_qw h hI active hq hcmds
  subst hI
  rw [if_neg room, if_neg fun ⟨hc, hr⟩ => by simp [ready hc] at hr, advance_of h, updGrp_setGrp, ← advance_of h] at hf
  exact ⟨_, headAt_setPc c c.next (c.group s), by rw [he, issueWord_done h, hf]⟩

end
end

/-! ### QR (R133) -/

section
variable {c : IssueCtx} {t : State}

/-- A result left in a state in which the head run of its group has moved on. -/
theorem later_setPc (A : Awaited) {act : Mask} (active : act ≠ 0) (y : Group) :
    (t.setGrp c.blk c.grp (y.setPc c.run fun _ => c.next)).later c.blk c.grp (A.out t.fresh act)
      = t.awaiting c (A.leaves t.fresh c act y) := by
  have there : ((A.out t.fresh act).lanes == 0) = false := by simpa [Awaited.out] using active
  rw [State.later, there, if_neg Bool.false_ne_true,
    show ∀ z, (t.setGrp c.blk c.grp z).tick = t.tick.setGrp c.blk c.grp z from fun _ => rfl, updGrp_setGrp]
  rfl

theorem awaiting_markDone (hc : t.cur = some c) (hr : c.res = .none) (y : Group) :
    (t.awaiting c y).markDone = resultAwaited t c y 0 := by
  simp [State.awaiting, State.markDone, resultAwaited, wordDone, State.setGrp, State.setBlk, State.tick, State.post,
    State.blk, hc, hr, oset_oset, Block.setGrp]

end

theorem poppedWords_holds (I : Issue) (r : BitVec 5) (u : BitVec 1) (l : List Word) (uid : Nat) (c : IssueCtx) (act : Mask)
    (y : Group) : (poppedWords I r u l).Holds uid c act y ((poppedWords I r u l).leaves uid c act y) := by
  have popped : (poppedWords I r u l).file ≠ .p ∧ (poppedWords I r u l).reg < 32
      ∧ (poppedWords I r u l).lf = fun _ => none := by
    rw [poppedWords]
    split
    · exact ⟨nofun, r.isLt, rfl⟩
    · exact ⟨nofun, r.isLt, rfl⟩
  obtain ⟨hfile, hreg, hlf⟩ := popped
  exact Awaited.holds_of _ hfile hreg rfl fun L _ => by rw [hlf, Awaited.lf_leaves]; rfl

section
variable {c : IssueCtx} {s : State} {q : BitVec 4} {r : BitVec 5} {u : BitVec 1} {g : BitVec 4} {I : Issue}
  (h : AtIssue (.qr q r u g) c s) (hI : I = issueOf (.qr q r u g) c s)
include h hI

theorem qr_idle (h0 : I.act = 0) : Effects (.qr q r u g) c s Written.nothing := by
  subst hI
  exact nothing_effects h (show _ = execQr q r u g s from rfl) (if_pos (by simpa using h0))

theorem qr_traps (active : I.act ≠ 0) (hq : q.toNat ∈ [0, 2, 4, 6]) :
    Traps (.qr q r u g) c s (engineTrap c 4 q.toNat 0 0) := by
  subst hI
  rw [mem_commandQueues] at hq
  refine traps_of_trap h (show _ = execQr q r u g s from rfl) ?_
  exact (if_neg (by simpa using active)).trans (if_pos hq)

section
variable (active : I.act ≠ 0) (hq : q.toNat ∉ [0, 2, 4, 6])
include active hq

theorem qr_waits (hn : ((c.group s).queue q.toNat).length < I.queueWords u) :
    Blocks (.qr q r u g) c s .queue (.queue q.toNat (I.queueWords u) 0 false) := by
  subst hI
  rw [mem_commandQueues] at hq
  refine blocksOn_of h _ _ (show _ = execQr q r u g s from rfl) ?_
  refine (if_neg (by simpa using active)).trans ((if_neg hq).trans (if_pos ?_))
  rwa [issueOf_b, issueOf_g, queue_advance h]

/-- The state in which the words of a result queue are taken: after an acquire, where they are status words (R133). -/
def State.popsIn (s : State) (c : IssueCtx) (q : BitVec 4) : State := if q = 8 then (s.moved c).acquire c.blk 4 else s

omit hI active hq in
theorem popsIn_setGrp (y : Group) :
    (if q = 8 then (s.setGrp c.blk c.grp y).acquire c.blk 4 else s.setGrp c.blk c.grp y)
      = (s.popsIn c q).setGrp c.blk c.grp y := by
  rw [State.popsIn]
  split
  · rw [moved_of h]
    exact acquire_setGrp ..
  · rfl

omit hI active hq in
theorem popsIn_rest : (s.popsIn c q).fresh = s.fresh ∧ (s.popsIn c q).cur = some c := by
  obtain ⟨hc, -⟩ := id h
  rw [State.popsIn]
  split
  · rw [acquire_fresh, acquire_cur, moved_of h]
    exact ⟨rfl, hc⟩
  · exact ⟨rfl, hc⟩

theorem qr_pops (hn : I.queueWords u ≤ ((c.group s).queue q.toNat).length) :
    exec (.qr q r u g) s = .next (resultAwaited (s.popsIn c q) c
      ((poppedWords I r u ((c.group s).queue q.toNat)).leaves s.fresh c I.act
        ((c.group s).setQueue q.toNat (((c.group s).queue q.toNat).drop (I.queueWords u)))) 0) := by
  subst hI
  rw [mem_commandQueues] at hq
  obtain ⟨fresh, cur⟩ := popsIn_rest h
  have result (t : State) : (if u = 1 then (issueOf (.qr q r u g) c s).laterS t r (((c.group s).queue q.toNat).headD 0, 0)
      else (issueOf (.qr q r u g) c s).laterV t r fun L =>
        (((c.group s).queue q.toNat).getD (lanePlace (issueOf (.qr q r u g) c s).act L) 0, 0))
      = t.later c.blk c.grp ((poppedWords (issueOf (.qr q r u g) c s) r u ((c.group s).queue q.toNat)).out t.fresh
        (issueOf (.qr q r u g) c s).act) := by
    rw [poppedWords]
    split <;> rfl
  rw [show exec (.qr q r u g) s = execQr q r u g s from rfl, execQr, issueWord_done h]
  refine congrArg Host.Outcome.next ?_
  dsimp only
  rw [if_neg (by simpa using active), if_neg hq, issueOf_b, issueOf_g, queue_advance h, if_neg (Nat.not_lt.2 hn), result,
    advance_of h, updGrp_setGrp, popsIn_setGrp h]
  obtain ⟨-, hr, -⟩ := h
  rw [setQueue_setPc, State.setGrp_fresh, later_setPc _ active, awaiting_markDone cur hr, fresh]

end
end

/-! ### TLW (R137) -/

/-- A word that has changed a state in which it still stands at issue, and then its group. -/
theorem setGrp_markDone {c : IssueCtx} {t : State} (hc : t.cur = some c) (hr : c.res = .none) (y : Group) :
    (t.setGrp c.blk c.grp y).markDone = wordDone t c y 0 := by
  simp [State.markDone, wordDone, State.setGrp, State.setBlk, hc, hr]

/-- The number that TLW waits for. -/
def Issue.awaited (I : Issue) (a : BitVec 5) (u : BitVec 1) : Word :=
  if u = 1 then I.G.rs a.toNat else I.G.rv a.toNat (lowest I.act)

section
variable {c : IssueCtx} {s : State} {a : BitVec 5} {b : BitVec 4} {u : BitVec 1} {g : BitVec 4} {I : Issue}
  (h : AtIssue (.tlw a b u g) c s) (hI : I = issueOf (.tlw a b u g) c s)
include h hI

theorem tlw_idle (h0 : I.act = 0) : Effects (.tlw a b u g) c s Written.nothing := by
  subst hI
  exact nothing_effects h (show _ = execTlw a b u g s from rfl) (if_pos (by simpa using h0))

/-- What TLW comes to in its active lanes. -/
theorem exec_tlw (active : I.act ≠ 0) : ∃ f, exec (.tlw a b u g) s = issueWord (.tlw a b u g) s f ∧ f I (s.advance I) =
    if sget 0 (s.blk c.blk).issued b.toNat < (I.awaited a u).toNat then
      I.trap (s.advance I) (engineTrap c 3 0 (BitVec.ofNat 64 ((I.awaited a u).toNat % 2 ^ 32)) b.toNat)
    else if (I.awaited a u).toNat ≤ sget 0 (s.blk c.blk).done b.toNat then (s.advance I).acquire c.blk 4
    else (s.advance I).parkOn c.blk c.grp .timeline (.timeline b.toNat (I.awaited a u).toNat) := by
  subst hI
  have number (n : Word) : (n.setWidth 32).setWidth 64 = BitVec.ofNat 64 (n.toNat % 2 ^ 32) :=
    BitVec.eq_of_toNat_eq (by simp)
  have block : (s.advance (issueOf (.tlw a b u g) c s)).blk c.blk
      = (s.blk c.blk).setGrp c.grp ((c.group s).setPc c.run fun _ => c.next) := blk_advance h
  refine ⟨_, show _ = execTlw a b u g s from rfl, ?_⟩
  refine (if_neg (by simpa using active)).trans ?_
  simp only [issueOf_b, issueOf_g, block, number]
  rfl

theorem tlw_traps (active : I.act ≠ 0) (hn : sget 0 (s.blk c.blk).issued b.toNat < (I.awaited a u).toNat) :
    Traps (.tlw a b u g) c s (engineTrap c 3 0 (BitVec.ofNat 64 ((I.awaited a u).toNat % 2 ^ 32)) b.toNat) := by
  obtain ⟨f, he, hf⟩ := exec_tlw h hI active
  subst hI
  exact traps_of_trap h he (hf.trans (if_pos hn))

theorem tlw_goes (active : I.act ≠ 0) (hn : (I.awaited a u).toNat ≤ sget 0 (s.blk c.blk).issued b.toNat) :
    ∃ y, HeadAt c c.next (c.group s) y ∧ exec (.tlw a b u g) s = .next (
      if (I.awaited a u).toNat ≤ sget 0 (s.blk c.blk).done b.toNat then wordDone ((s.moved c).acquire c.blk 4) c y 0
      else wordDone s c (y.parkedOn .timeline (.timeline b.toNat (I.awaited a u).toNat) s.cycles.toNat) 0) := by
  obtain ⟨f, he, hf⟩ := exec_tlw h hI active
  subst hI
  refine ⟨_, headAt_setPc c c.next (c.group s), ?_⟩
  rw [he, issueWord_done h, hf, if_neg (Nat.not_lt.2 hn)]
  refine congrArg Host.Outcome.next ?_
  split
  · obtain ⟨hc, hr, -⟩ := id h
    have cur : ((s.moved c).acquire c.blk 4).cur = some c := by rw [acquire_cur, moved_of h]; exact hc
    rw [← setGrp_markDone cur hr, moved_of h, advance_of h]
    exact congrArg State.markDone (acquire_setGrp ..)
  · rw [advance_of h, State.parkOn, updGrp_setGrp]
    exact setGrp_done h _

end

/-! ### The obligation -/

/-- Settles O45: QW by the commands that its words complete and by the room for them, a push by the number of its command, QR
by the words that are there, and TLW by how far its timeline has come. -/
theorem queueWords : Obligations.QueueWords := by
  refine fun c s => ⟨?_, fun b g q pc w words hb => pushCommand_effect hb g q pc w words, ?_, ?_⟩
  · intro q r u g i h I new all
    refine ⟨qw_idle h rfl, qw_traps h rfl, fun active hq cmds more hcmds => ⟨qw_waits h rfl active hq hcmds,
      fun room => qw_waits_release h rfl active hq hcmds room, fun room => qw_pushes h rfl active hq hcmds room⟩⟩
  · intro q r u g i h I old n
    exact ⟨qr_idle h rfl, qr_traps h rfl, fun active hq => ⟨qr_waits h rfl active hq,
      fun hn => ⟨_, qr_pops h rfl active hq hn, poppedWords_holds ..⟩⟩⟩
  · intro a b u g i h I n
    exact ⟨tlw_idle h rfl, tlw_traps h rfl, tlw_goes h rfl⟩

end Sys2Proof.Machine
end

section
/-!
SUPPORT. When a park ends (R326): its reason has cleared, as the rules say it, and the first such park of a group is taken.
-/

namespace Sys2Proof.Machine

/-! ### Reasons that have cleared -/

theorem committed_iff (x : Block) (id : Nat) : x.committed id = true ↔ x.doneUpTo id := by
  simp [Block.committed, Block.doneUpTo]

theorem reissueCleared_iff (s : State) (b g : Nat) (r : ParkReason) :
    s.reissueCleared b g r = true ↔ Cleared s b g r .reissue := by
  cases r <;> simp [State.reissueCleared, Cleared, State.lsbFull, and_assoc]

theorem awaitCleared_iff (s : State) (b g : Nat) (r : ParkReason) (w : Await) :
    s.awaitCleared b g r w = true ↔ Cleared s b g r w := by
  cases w with
  | reissue => exact reissueCleared_iff s b g r
  | lines l => by_cases hr : r = .matrix <;> simp [State.awaitCleared, Cleared, hr]
  | queue q words cmds push => cases push <;> simp [State.awaitCleared, Cleared]
  | entry uid => cases he : s.entry (s.blk b).core uid <;> simp [State.awaitCleared, Cleared, he]
  | launch a lanes => simp [State.awaitCleared, Cleared, committed_iff, and_assoc]
  | _ => simp [State.awaitCleared, Cleared, committed_iff]

theorem parkCleared_iff (s : State) (b g : Nat) : s.parkCleared b g = true ↔ (s.blk b).life = .resident
    ∧ (s.grp b g).ended = false ∧ ∃ p ∈ (s.grp b g).parks, Cleared s b g p.reason p.what := by
  simp [State.parkCleared, awaitCleared_iff, and_assoc]

/-! ### Parks of a group -/

theorem parks_withParks (y : Group) (l : List Park) : (y.withParks l).parks = l := by
  cases l <;> rfl

theorem parkedOn_effect (y : Group) (r : ParkReason) (w : Await) (now : Nat) :
    (y.parkedOn r w now).parks = y.parks ++ [⟨r, w⟩]
      ∧ { y.parkedOn r w now with park := y.park, more := y.more, parkedAt := y.parkedAt } = y
      ∧ (y.parkedOn r w now).parkedAt = now :=
  ⟨parks_withParks y _, rfl, rfl⟩

section
variable {s : State} {b g : Nat} (hb : (oget s.blocks b).isSome = true) (hg : (oget (s.blk b).groups g).isSome = true)
include hb hg

/-- The first park of a kind comes before those that stood before it. -/
theorem turnTo_eq {f : Park → Bool} {l m : List Park} {p : Park} (hs : (s.grp b g).parks = l ++ p :: m)
    (hl : ∀ q ∈ l, f q = false) (hp : f p = true) :
    s.turnTo b g f = if l = [] then s else s.setGrp b g ((s.grp b g).withParks (p :: (m ++ l))) := by
  have before : ∀ q ∈ l, (!f q) = true := fun q hq => by rw [hl q hq]; rfl
  rw [State.turnTo, hs, List.takeWhile_append_of_pos before, List.dropWhile_append_of_pos before]
  cases l with
  | nil => simp [hp]
  | cons q l => simp [hl q List.mem_cons_self, hp, updGrp_of hb hg]

/-- The first park of a group whose reason has cleared ends, and the others stay. -/
theorem exec_groupUnpark {l m : List Park} {p : Park}
    (hlife : (s.blk b).life = .resident) (hended : (s.grp b g).ended = false)
    (hpark : (s.grp b g).park.isSome = true) (hs : (s.grp b g).parks = l ++ p :: m)
    (hl : ∀ q ∈ l, ¬ Cleared s b g q.reason q.what) (hp : Cleared s b g p.reason p.what) :
    exec (.groupUnpark b g) s = .next ((if l = [] then s
      else s.setGrp b g ((s.grp b g).withParks (p :: (m ++ l)))).endPark b g p.what) := by
  have cleared : s.parkCleared b g = true := (parkCleared_iff s b g).2 ⟨hlife, hended, p, by simp [hs], hp⟩
  have turned := turnTo_eq hb hg (f := fun p => s.awaitCleared b g p.reason p.what) hs
    (fun q hq => Bool.eq_false_iff.2 fun h => hl q hq ((awaitCleared_iff ..).1 h)) ((awaitCleared_iff ..).2 hp)
  have first : ((if l = [] then s else s.setGrp b g ((s.grp b g).withParks (p :: (m ++ l)))).grp b g).park = some p := by
    split
    · obtain ⟨q, hq⟩ := Option.isSome_iff_exists.1 hpark
      simp_all [Group.parks]
    · rw [State.grp_setGrp]
      rfl
  rw [show exec (.groupUnpark b g) s = execGroupUnpark b g s from rfl, execGroupUnpark, if_pos cleared, turned]
  dsimp only
  rw [first]

omit hb hg in
theorem exec_groupUnpark_waits (h : s.parkCleared b g = false) : exec (.groupUnpark b g) s = .next s := by
  rw [show exec (.groupUnpark b g) s = execGroupUnpark b g s from rfl, execGroupUnpark, h]
  rfl

/-! ### What follows a park -/

theorem setAwait_eq (w : Await) : s.setAwait b g w
    = s.setGrp b g { s.grp b g with park := (s.grp b g).park.map fun p => { p with what := w } } :=
  updGrp_of hb hg _

/-- The next park of a set follows. -/
theorem unpark_next {p : Park} {l : List Park} (hm : (s.grp b g).more = p :: l) : s.unpark b g
    = (s.setGrp b g ((s.grp b g).withParks (p :: l))).postOnce (.waitReread b g) := by
  rw [← hm, ← updGrp_of hb hg fun y => y.withParks y.more]
  exact if_pos (by simp [hm])

omit hb hg in
/-- A group goes back to the parks that it interrupted. -/
theorem unpark_kept {p : Park} (hm : (s.grp b g).more = []) (hlevel : (s.grp b g).level = false)
    (hk : (s.grp b g).kept = some p) : s.unpark b g = (s.setGrp b g { s.grp b g with
      park := (s.grp b g).kept, more := (s.grp b g).keptMore, kept := none, keptMore := [] }).postOnce (.waitReread b g) :=
  (if_neg (by simp [hm])).trans (if_pos (by simp [hlevel, hk]))

omit hb hg in
/-- A group with no park left is ready, but for a switch that its set still owes. -/
theorem unpark_last (hm : (s.grp b g).more = []) (hk : (s.grp b g).level = true ∨ (s.grp b g).kept = none) :
    let u := s.setGrp b g { s.grp b g with park := none, switchDue := false }
    s.unpark b g = if (s.grp b g).switchDue = true ∧ u.waiting b g = true then u.parkOn b g .switch .results else u := by
  have ready : ¬ (!(s.grp b g).level && (s.grp b g).kept.isSome) = true := by
    rcases hk with h | h <;> simp [h]
  exact (if_neg (by simp [hm])).trans ((if_neg ready).trans (if_congr Bool.and_eq_true_iff rfl rfl))

/-! ### What the end of a park does -/

omit hb hg in
theorem endPark_goesOn {w : Await} (hw : goesOn w = true) : s.endPark b g w = s.unpark b g := by
  cases w with
  | reissue | nothing | lines | queue | results | entry | barrier | arrivals | plot => rfl
  | _ => cases hw

omit hb hg in
/-- TFENCE checks its flags in the state in which its group goes on (R353). -/
theorem endPark_tfence (run : Mask) (next : Word) :
    let u := s.unpark b g
    let z := u.grp b g
    s.endPark b g (.tfence run next) =
      if z.level = false ∧ z.flags &&& z.flagen ≠ 0 then u.takeTrap b g ⟨5, BitVec.ofNat 96
        (run.toNat + 2 ^ 32 + 2 ^ 40 * (z.flags &&& z.flagen).toNat + 2 ^ 48 * z.flags.toNat), next, run, [], none⟩
      else u :=
  if_congr (by simp) rfl rfl

omit hb hg in
theorem finishFence_eq (acq : Option Nat) : s.finishFence b g acq = (s.acquired b acq).setAwait b g .nothing := by
  cases acq <;> rfl

theorem endPark_gbar (id : Nat) :
    s.endPark b g (.gbar id) = (s.setGrp b g ((s.grp b g).withParks (s.grp b g).more)).arrivePhase b g :=
  congrArg (fun t : State => t.arrivePhase b g) (updGrp_of hb hg _)

omit hb hg in
theorem endPark_cape (id : Nat) : s.endPark b g (.cape id) = match s.capHost (s.blk b).space (s.grp b g).caprec with
    | some h => s.backInvalidate h.1 h.2
    | none => (s.setAwait b g .nothing).endCapsule b g := rfl

omit hb hg in
theorem endPark_image_unread {u : State} (hr : s.readTrapArea b g = (u, none)) (id : Nat) (va : Word) :
    s.endPark b g (.image id va) = u.hwError b 7 := by
  rw [State.endPark, State.writeImage, hr]

omit hb hg in
theorem endPark_image_written {u v : State} {l : List Byte} (hr : s.readTrapArea b g = (u, some l)) {va : Word}
    (hw : u.writeSegs (u.partyOf b) va.toNat ((u.grp b g).programImage l) = (v, 0)) (id : Nat) :
    s.endPark b g (.image id va) = v.setAwait b g .nothing := by
  rw [State.endPark, State.writeImage, hr]
  dsimp only
  rw [hw]
  rfl

theorem endPark_waitc (a : Access) (base : Word) (bit : Nat) :
    s.endPark b g (.waitc a base bit) = (s.setGrp b g { s.grp b g with waitOk := true }).unpark b g :=
  congrArg (fun t : State => t.unpark b g) (updGrp_of hb hg _)

omit hb hg in
theorem endPark_launch {a : Access} {u : State} {r : WordRead} (hr : s.readDesc b (a.vaAt 0) = (u, r))
    (hc : r.code = 0) (hp : r.poison = false) (lanes : Mask) :
    s.endPark b g (.launch a lanes) = ((u.submit b g (descOf (descWords r.val))).1.updGrp b g fun y =>
      a.markPending (y.wv a.dreg lanes fun _ => (u.submit b g (descOf (descWords r.val))).2) false).setAwait b g .nothing := by
  rw [State.endPark, State.performLaunch, hr]
  dsimp only
  rw [hc, hp]
  rfl

end

/-! ### A team forms (R240, R241) -/

/-- A group that no longer waits for a team. -/
def Group.joined (d : Nat) (y : Group) : Group :=
  y.withParks (y.parks.map fun p => if p.what = .team d then { p with what := .nothing } else p)

/-- A member's engine is in the team, and its groups go on. -/
def State.joinTeam (d : Nat) (s : State) (m : Nat) : State :=
  (s.updMx m fun x => { x with team := d, pairs := 0, sent := [] }).updBlk m fun x => { x with
    groups := x.groups.map fun kv => (kv.1, kv.2.map (Group.joined d)) }

theorem formTeam_eq {s : State} {b d : Nat} {l : List Nat} (hl : s.teamMembers b d = some l) :
    s.formTeam b d = l.foldl (State.joinTeam d) s := by
  rw [State.formTeam, hl]
  rfl

/-- A block is of a team: its engine is in it, and none of its groups waits for it. -/
def State.Joined (s : State) (d m : Nat) : Prop :=
  (s.mxOf m).team = d ∧ ∀ k, ∀ p ∈ (s.grp m k).parks, p.what ≠ .team d

theorem what_joined {d : Nat} {y : Group} {p : Park} (hp : p ∈ (y.joined d).parks) : p.what ≠ .team d := by
  rw [Group.joined, parks_withParks] at hp
  obtain ⟨q, -, rfl⟩ := List.mem_map.1 hp
  split
  · nofun
  · assumption

theorem blk_joinTeam_same (d : Nat) (s : State) (m : Nat) : (s.joinTeam d m).blk m = { s.blk m with
    groups := (s.blk m).groups.map fun kv => (kv.1, kv.2.map (Group.joined d)) } := by
  have blocks : (s.updMx m fun x => { x with team := d, pairs := 0, sent := [] }).blocks = s.blocks := rfl
  rw [State.joinTeam, State.updBlk, blocks]
  cases hm : oget s.blocks m with
  | none => simp [State.blk, blocks, hm, Block.zero]
  | some x => simp [State.blk, hm, State.setBlk]

theorem blk_joinTeam_ne (d : Nat) (s : State) {m n : Nat} (h : n ≠ m) : (s.joinTeam d m).blk n = s.blk n := by
  rw [State.joinTeam, State.updBlk]
  split
  · rfl
  · exact blk_setBlk_ne _ _ h

theorem core_joinTeam (d : Nat) (s : State) (m n : Nat) : ((s.joinTeam d m).blk n).core = (s.blk n).core := by
  by_cases h : n = m
  · rw [h, blk_joinTeam_same]
  · rw [blk_joinTeam_ne d s h]

theorem team_joinTeam (d : Nat) (s : State) (m n : Nat) : ((s.joinTeam d m).mxOf n).team
    = if (s.blk n).core = (s.blk m).core then d else (s.mxOf n).team := by
  have cores (k : Nat) : (s.joinTeam d m).core k
      = (s.updCore (s.blk m).core fun c => { c with mx := { c.mx with team := d, pairs := 0, sent := [] } }).core k := by
    rw [State.core, State.joinTeam, State.updBlk_cores]
    rfl
  rw [State.mxOf, core_joinTeam, cores]
  split
  · rename_i h
    rw [h, core_updCore_same]
  · rename_i h
    rw [core_updCore_ne _ _ h]
    rfl

theorem joined_joinTeam (d : Nat) (s : State) (m : Nat) : (s.joinTeam d m).Joined d m := by
  refine ⟨by rw [team_joinTeam, if_pos rfl], fun k p hp => ?_⟩
  rw [State.grp, blk_joinTeam_same, Block.grp] at hp
  dsimp only at hp
  rw [oget_map_items (fun _ v => v.map (Group.joined d)) (fun _ => rfl)] at hp
  cases hk : oget (s.blk m).groups k with
  | none => rw [hk] at hp; cases hp
  | some y => rw [hk] at hp; exact what_joined hp

theorem State.Joined.joinTeam {d : Nat} {s : State} {n : Nat} (h : s.Joined d n) (m : Nat) : (s.joinTeam d m).Joined d n := by
  by_cases hn : n = m
  · rw [hn]
    exact joined_joinTeam d s m
  · obtain ⟨team, parks⟩ := h
    refine ⟨?_, fun k p hp => parks k p ?_⟩
    · rw [team_joinTeam, team, ite_self]
    · rwa [State.grp, blk_joinTeam_ne d s hn] at hp

theorem joined_foldl (d : Nat) (l : List Nat) : ∀ (s : State) (m : Nat), m ∈ l ∨ s.Joined d m →
    (l.foldl (State.joinTeam d) s).Joined d m := by
  induction l with
  | nil => exact fun s m h => h.resolve_left List.not_mem_nil
  | cons n l ih =>
    intro s m h
    refine ih _ m ?_
    rcases h with h | h
    · rcases List.mem_cons.1 h with rfl | h
      · exact .inr (joined_joinTeam d s m)
      · exact .inl h
    · exact .inr (h.joinTeam n)

/-! ### The obligation -/

/-- Settles O36: what clears each park, case by case; GROUP_UNPARK by the first park that has cleared; and what the end of
each park does, of which a team that forms goes member by member. -/
theorem parksEnd : Obligations.ParksEnd := by
  refine ⟨fun s b g => ⟨awaitCleared_iff s b g, parkCleared_iff s b g, exec_groupUnpark_waits,
    fun l p m hb hg hlife hended hpark hs hl hp => exec_groupUnpark hb hg hlife hended hpark hs hl hp⟩,
    fun s b g hb hg => ?_, parkedOn_effect⟩
  intro y ends
  refine ⟨fun w hw => endPark_goesOn hw, endPark_tfence,
    fun id acq fence => ⟨finishFence_eq acq, rfl, finishFence_eq acq⟩,
    fun t n => ⟨rfl, rfl⟩, endPark_gbar hb hg, fun id => ⟨fun hn => ?_, fun h hh => ?_⟩,
    fun id va u => ⟨fun hr => endPark_image_unread hr id va, fun l v hr hw => endPark_image_written hr hw id⟩,
    endPark_waitc hb hg, fun a lanes u r hr hc hp => endPark_launch hr hc hp lanes, fun d l hl m hm => ?_,
    fun p l hm => unpark_next hb hg hm, fun p => unpark_kept, unpark_last, setAwait_eq hb hg⟩
  · exact (endPark_cape id).trans (by rw [hn])
  · exact (endPark_cape id).trans (by rw [hh])
  · have formed : s.endPark b g (.team d) = l.foldl (State.joinTeam d) s := formTeam_eq hl
    intro t
    rw [show t = _ from formed]
    exact joined_foldl d l s m (.inl hm)

end Sys2Proof.Machine
end

section
/-!
SUPPORT. What the words on moves, special registers and predicates write (R14, R152 to R164, R338): numbers made of bits,
writes of several predicates, and what settles O9.
-/

namespace Sys2Proof.Machine

/-! ### A number made of bits -/

/-- The number whose bit k is set where `f` holds, as R163 and R164 add it up. -/
def sumOfBits (f : Nat → Bool) (n : Nat) : Nat := (List.range n).foldl (fun r k => r + if f k then 2 ^ k else 0) 0

theorem sumOfBits_succ (f : Nat → Bool) (n : Nat) :
    sumOfBits f (n + 1) = sumOfBits f n + if f n then 2 ^ n else 0 := by
  simp [sumOfBits, List.range_succ]

theorem sumOfBits_lt (f : Nat → Bool) (n : Nat) : sumOfBits f n < 2 ^ n := by
  induction n with
  | zero => exact Nat.one_pos
  | succ n ih =>
    rw [sumOfBits_succ, pow_succ]
    split <;> omega

theorem testBit_sumOfBits (f : Nat → Bool) (n k : Nat) : (sumOfBits f n).testBit k = (decide (k < n) && f k) := by
  induction n with
  | zero => simp [sumOfBits]
  | succ n ih =>
    have hlt := sumOfBits_lt f n
    rw [sumOfBits_succ]
    rcases Nat.lt_trichotomy k n with hk | rfl | hk
    · cases f n <;> simp [Nat.add_comm _ (2 ^ n), Nat.testBit_two_pow_add_gt hk, ih, hk, Nat.lt_succ_of_lt hk]
    · cases hf : f k <;> simp [Nat.add_comm _ (2 ^ k), Nat.testBit_two_pow_add_eq, Nat.testBit_lt_two_pow hlt]
    · have hsum : sumOfBits f (n + 1) < 2 ^ k :=
        (sumOfBits_lt f (n + 1)).trans_le (Nat.pow_le_pow_right (by norm_num) hk)
      rw [← sumOfBits_succ, Nat.testBit_lt_two_pow hsum]
      simp [show ¬ k < n + 1 by omega]

/-- The bits of a mask, read as a word. -/
theorem setWidth_eq_sumOfBits (m : Mask) : m.setWidth 64 = BitVec.ofNat 64 (sumOfBits (fun k => m.getLsbD k) 32) := by
  refine BitVec.eq_of_getLsbD_eq fun k hk => ?_
  rw [BitVec.getLsbD_ofNat, testBit_sumOfBits, BitVec.getLsbD_setWidth]
  by_cases h : k < 32
  · simp [h]
  · simp [h, hk, BitVec.getLsbD_of_ge m k (by omega)]

/-! ### What is written rests on the active lanes -/

theorem writtenLanes_congr (d : BitVec 5) {m : Mask} {f g : Nat → Word × Flags}
    (h : ∀ L, m.getLsbD L = true → f L = g L) : Written.lanes d m f = Written.lanes d m g := by
  have hv : (fun r L => if r = d.toNat ∧ m.getLsbD L = true then some (f L).1 else none)
      = fun r L => if r = d.toNat ∧ m.getLsbD L = true then some (g L).1 else none := by
    funext r L
    refine if_ctx_congr Iff.rfl (fun hL => ?_) fun _ => rfl
    rw [h L hL.2]
  have hf : (flagsOf m fun L => (f L).2) = flagsOf m fun L => (g L).2 :=
    List.foldl_ext _ _ _ fun _ L hL => by simp only [h L ((mem_lanesOf m L).1 hL).2]
  rw [Written.lanes, hv, Written.flagsIn, hf]
  rfl

theorem writtenPred_congr (n : Nat) {m : Mask} {f g : Nat → Bool} (h : ∀ L, m.getLsbD L = true → f L = g L) :
    Written.pred n m f = Written.pred n m g := by
  have hp : (fun k L => if k = n ∧ k ≠ 127 ∧ m.getLsbD L = true then some (f L) else none)
      = fun k L => if k = n ∧ k ≠ 127 ∧ m.getLsbD L = true then some (g L) else none := by
    funext k L
    refine if_ctx_congr Iff.rfl (fun hL => ?_) fun _ => rfl
    rw [h L hL.2.2]
  rw [Written.pred, hp]
  rfl

/-! ### Votes (R164) -/

theorem and_eq_left_iff (m p : Mask) : m &&& p = m ↔ ∀ L ∈ lanesOf m, p.getLsbD L = true := by
  simp only [mem_lanesOf]
  constructor
  · rintro h L ⟨-, hL⟩
    rw [← h, BitVec.getLsbD_and, Bool.and_eq_true] at hL
    exact hL.2
  · intro h
    refine BitVec.eq_of_getLsbD_eq fun L hL => ?_
    rw [BitVec.getLsbD_and]
    cases hm : m.getLsbD L
    · rfl
    · exact h L ⟨hL, hm⟩

theorem and_eq_zero_iff (m p : Mask) : m &&& p = 0 ↔ ∀ L ∈ lanesOf m, p.getLsbD L = false := by
  simp only [mem_lanesOf]
  constructor
  · rintro h L ⟨-, hL⟩
    have := congrArg (·.getLsbD L) h
    simpa [hL, -BitVec.getLsbD_eq_getElem] using this
  · intro h
    refine BitVec.eq_of_getLsbD_eq fun L hL => ?_
    rw [BitVec.getLsbD_and]
    cases hm : m.getLsbD L
    · simp
    · simp [h L ⟨hL, hm⟩]

theorem beq_and_left (m p : Mask) : (m &&& p == m) = (lanesOf m).all (p.getLsbD ·) := by
  rw [Bool.eq_iff_iff, beq_iff_eq, and_eq_left_iff, List.all_eq_true]

theorem beq_and_zero (m p : Mask) : (m &&& p == 0) = !(lanesOf m).any (p.getLsbD ·) := by
  rw [Bool.eq_iff_iff, beq_iff_eq, and_eq_zero_iff, Bool.not_eq_true', List.any_eq_false]
  simp

/-- The lanes of a mask in which a predicate holds, added up. -/
theorem foldl_lanesOf (m p : Mask) : (lanesOf m).foldl (fun r L => r + if p.getLsbD L then 2 ^ L else 0) 0
    = sumOfBits (fun L => (m &&& p).getLsbD L) 32 := by
  rw [lanesOf, List.foldl_filter, sumOfBits]
  refine List.foldl_ext _ _ _ fun r L _ => ?_
  rw [BitVec.getLsbD_and]
  cases m.getLsbD L <;> simp

/-! ### Predicates of a group -/

theorem getLsbD_maskOf_active {m : Mask} {L : Nat} (h : m.getLsbD L = true) (f : Nat → Bool) : (maskOf f).getLsbD L = f L :=
  getLsbD_maskOf f (BitVec.lt_of_getLsbD h)

/-- The same bit in every lane. -/
theorem getLsbD_allLanes (x : Bool) {L : Nat} (hL : L < 32) :
    (if x = true then BitVec.allOnes 32 else (0 : Mask)).getLsbD L = x := by
  cases x
  · exact BitVec.getLsbD_zero
  · rw [if_pos rfl, BitVec.getLsbD_allOnes, decide_eq_true hL]

theorem wp_rest (y : Group) (n : Nat) (m x : Mask) : ∃ q, y.wp n m x = { y with p := q } := by
  unfold Group.wp
  split
  · exact ⟨y.p, rfl⟩
  · exact ⟨_, rfl⟩

/-- Predicates written one after another from n0 on, each in the lanes of a mask. -/
def Group.wps (y : Group) (n0 : Nat) (m : Mask) (val : Nat → Mask) (n : Nat) : Group :=
  (List.range n).foldl (fun y k => y.wp (n0 + k) m (val k)) y

theorem wps_succ (y : Group) (n0 : Nat) (m : Mask) (val : Nat → Mask) (n : Nat) :
    y.wps n0 m val (n + 1) = (y.wps n0 m val n).wp (n0 + n) m (val n) := by
  simp [Group.wps, List.range_succ]

theorem wps_rest (y : Group) (n0 : Nat) (m : Mask) (val : Nat → Mask) (n : Nat) :
    ∃ q, y.wps n0 m val n = { y with p := q } := by
  induction n with
  | zero => exact ⟨y.p, rfl⟩
  | succ n ih =>
    obtain ⟨q, hq⟩ := ih
    rw [wps_succ, hq]
    exact wp_rest { y with p := q } _ _ _

/-- A bit of a predicate after a write of a predicate. -/
theorem getLsbD_rp_wp (y : Group) (j n : Nat) (m x : Mask) {L : Nat} (hL : L < 32) : ((y.wp n m x).rp j).getLsbD L
    = if j = n ∧ j ≠ 127 ∧ m.getLsbD L = true then x.getLsbD L else (y.rp j).getLsbD L := by
  rw [rp_wp]
  by_cases hj : j = n
  · subst hj
    by_cases h7 : j = 127
    · simp [h7]
    · cases hm : m.getLsbD L <;> simp [h7, hm, hL, -BitVec.getLsbD_eq_getElem]
  · simp [hj]

theorem getLsbD_rp_wps (y : Group) (j n0 : Nat) (m : Mask) (val : Nat → Mask) (n : Nat) {L : Nat} (hL : L < 32) :
    ((y.wps n0 m val n).rp j).getLsbD L = if n0 ≤ j ∧ j < n0 + n ∧ j ≠ 127 ∧ m.getLsbD L = true
      then (val (j - n0)).getLsbD L else (y.rp j).getLsbD L := by
  induction n with
  | zero => rw [if_neg (by omega)]; rfl
  | succ n ih =>
    rw [wps_succ, getLsbD_rp_wp _ _ _ _ _ hL, ih]
    by_cases hj : j = n0 + n
    · subst hj
      by_cases h : n0 + n ≠ 127 ∧ m.getLsbD L = true
      · rw [if_pos ⟨rfl, h⟩, if_pos ⟨by omega, by omega, h⟩, Nat.add_sub_cancel_left]
      · rw [if_neg fun hc => h hc.2, if_neg fun hc => h hc.2.2, if_neg fun hc => h hc.2.2]
    · rw [if_neg fun hc => hj hc.1]
      exact if_congr (by rw [show j < n0 + n ↔ j < n0 + (n + 1) by omega]) rfl rfl

section
variable {i : Instr} {c : IssueCtx} {s : State} (h : AtIssue i c s) {f : Issue → State → State}
  (he : Sys2Proof.Machine.exec i s = issueWord i s f)
include h he

/-- A comparison writes one predicate in its active lanes and raises flags. -/
theorem predFlags_effects {n : Nat} {val : Mask} {v : Nat → Bool} (fl : Flags)
    (hv : ∀ L, (issueOf i c s).act.getLsbD L = true → val.getLsbD L = v L)
    (hf : f (issueOf i c s) (s.advance (issueOf i c s))
      = (issueOf i c s).raise ((issueOf i c s).setP (s.advance (issueOf i c s)) n val) fl) :
    Effects i c s { Written.pred n (issueOf i c s).act v with flags := fl } := by
  rw [← writtenPred_congr n hv]
  obtain ⟨q, hq⟩ := wp_rest ((c.group s).setPc c.run fun _ => c.next) n (issueOf i c s).act val
  have hp := fun j L hL => getLsbD_rp_wp ((c.group s).setPc c.run fun _ => c.next) j n (issueOf i c s).act val (L := L) hL
  rw [hq] at hp
  refine effects_of h { { (c.group s).setPc c.run fun _ => c.next with p := q } with
    flags := (c.group s).flags ||| fl } he ?_ ?_
  · rw [hf, Issue.setP, advance_of h]
    simp only [show (issueOf i c s).b = c.blk from rfl, show (issueOf i c s).g = c.grp from rfl]
    rw [updGrp_setGrp, hq, raised_done h]
    rfl
  · constructor
    case preds =>
      intro j L hL
      refine (hp j L hL).trans ?_
      simp only [Written.pred]
      split <;> rfl
    case pcs => exact fun L hL => lanePc_setPc (c.group s) L _ _ hL
    all_goals intros; rfl

/-- A load of a predicate block writes its predicates in the active lanes (R163). -/
theorem predBlock_effects {n0 : Nat} {val : Nat → Mask} {v : Nat → Nat → Bool}
    (hv : ∀ k L, (issueOf i c s).act.getLsbD L = true → (val k).getLsbD L = v k L)
    (hf : f (issueOf i c s) (s.advance (issueOf i c s))
      = (List.range 32).foldl (fun t k => (issueOf i c s).setP t (n0 + k) (val k)) (s.advance (issueOf i c s))) :
    Effects i c s { Written.nothing with
      p := fun n L => if n0 ≤ n ∧ n < n0 + 32 ∧ n ≠ 127 ∧ (issueOf i c s).act.getLsbD L then
        some (v (n - n0) L) else none } := by
  obtain ⟨q, hq⟩ := wps_rest ((c.group s).setPc c.run fun _ => c.next) n0 (issueOf i c s).act val 32
  have hp := fun j L hL => getLsbD_rp_wps ((c.group s).setPc c.run fun _ => c.next) j n0 (issueOf i c s).act val 32 (L := L) hL
  have writes (n : Nat) (y : Group) : (List.range n).foldl (fun t k => (issueOf i c s).setP t (n0 + k) (val k))
      (s.setGrp c.blk c.grp y) = s.setGrp c.blk c.grp (y.wps n0 (issueOf i c s).act val n) := by
    induction n with
    | zero => rfl
    | succ n ih =>
      rw [List.range_succ, List.foldl_append, ih, wps_succ]
      exact updGrp_setGrp s c.blk c.grp _ _
  rw [hq] at hp
  refine effects_of h { (c.group s).setPc c.run fun _ => c.next with p := q } he ?_ ?_
  · rw [hf, advance_of h, writes, hq, setGrp_done h]
    rfl
  · constructor
    case preds =>
      intro j L hL
      refine (hp j L hL).trans ?_
      dsimp only
      split
      · next ha => exact hv _ L ha.2.2.2
      · rfl
    case flags => simp [Written.nothing]
    case pcs => exact fun L hL => lanePc_setPc (c.group s) L _ _ hL
    all_goals intros; rfl

end

/-! ### Special registers (R152, R356) -/

theorem gridOf_advance {i : Instr} {c : IssueCtx} {s : State} (h : AtIssue i c s) :
    (s.advance (issueOf i c s)).gridOf c.blk = s.gridOf c.blk := by
  rw [State.gridOf, blk_advance h, advance_of h]
  rfl

/-- A word that has moved its head run on reads what it would have read before. -/
theorem readSpr_advance {i : Instr} {c : IssueCtx} {s : State} (h : AtIssue i c s) (q : SpecialReg) (L : Nat) :
    readSpr (issueOf i c s) (s.advance (issueOf i c s)) q L = readSpr (issueOf i c s) s q L := by
  have hblk : (s.advance (issueOf i c s)).blk c.blk
      = (s.blk c.blk).setGrp c.grp ((c.group s).setPc c.run fun _ => c.next) := blk_advance h
  have hcore (k : Nat) : (s.advance (issueOf i c s)).core k = s.core k := by
    rw [advance_of h]
    rfl
  have hcycles : (s.advance (issueOf i c s)).cycles = s.cycles := by
    rw [advance_of h]
    rfl
  have hgroups (g : Nat) : (oget ((s.blk c.blk).setGrp c.grp ((c.group s).setPc c.run fun _ => c.next)).groups g).isSome
      = (oget (s.blk c.blk).groups g).isSome := by
    obtain ⟨-, -, -, hg, -⟩ := h
    by_cases hgc : g = c.grp
    · rw [hgc, hg]
      simp [Block.setGrp]
    · simp [Block.setGrp, oget_oset_ne _ _ hgc]
  unfold readSpr
  rw [show (issueOf i c s).b = c.blk from rfl, gridOf_advance h, hblk, hcycles]
  cases q
  case ngroups => exact congrArg (fun p => BitVec.ofNat 64 ((List.range 32).countP p)) (funext hgroups)
  case fadeclk => exact congrArg Core.fade (hcore _)
  all_goals rfl

/-- The special registers by number, as the rule lists them. -/
theorem specialRegister_eq (I : Issue) (s : State) (y : BitVec 12) (L : Nat) :
    specialRegister I s y.toNat L = (sprOf y).map fun q => readSpr I s q L := by
  unfold sprOf
  generalize y.toNat = n
  split
  case h_40 =>
    unfold specialRegister
    dsimp only
    by_cases ht : 0x040 ≤ n ∧ n ≤ 0x04F
    · rw [if_pos ht, decide_eq_true ht.1, decide_eq_true ht.2]
      rfl
    · have hf : (decide (0x040 ≤ n) && decide (n ≤ 0x04F)) = false := by simpa using ht
      rw [if_neg ht, hf]
      split
      case h_40 => rfl
      all_goals contradiction
  all_goals rfl

/-! ### Words by the values of their active lanes -/

section
variable {i : Instr} {c : IssueCtx} {s : State} (h : AtIssue i c s) {f : Issue → State → State}
  (he : Sys2Proof.Machine.exec i s = issueWord i s f)
include h he

/-- A word that writes one predicate with what its rule gives in each active lane. -/
theorem pred_effects_of {n : Nat} {val : Mask} {v : Nat → Bool}
    (hv : ∀ L, (issueOf i c s).act.getLsbD L = true → val.getLsbD L = v L)
    (hf : f (issueOf i c s) (s.advance (issueOf i c s)) = (issueOf i c s).setP (s.advance (issueOf i c s)) n val) :
    Effects i c s (.pred n (issueOf i c s).act v) :=
  writtenPred_congr n hv ▸ pred_effects h n val he hf

/-- A word that writes one lane register with what its rule gives in each active lane. -/
theorem lanes_effects_of {d : BitVec 5} {g v : Nat → Word × Flags}
    (hv : ∀ L, (issueOf i c s).act.getLsbD L = true → g L = v L)
    (hf : f (issueOf i c s) (s.advance (issueOf i c s)) = (issueOf i c s).setV (s.advance (issueOf i c s)) d g) :
    Effects i c s (.lanes d (issueOf i c s).act v) :=
  writtenLanes_congr d hv ▸ lanes_effects h d g he hf

/-- A predicate made of two (R161). -/
theorem predRule_effects {p : BitVec 7} {a b : BitVec 5} {k : BitVec 4} {F : Mask → Mask → Mask} {v : Bool → Bool → Bool}
    (hv : ∀ x y L, L < 32 → (F x y).getLsbD L = v (x.getLsbD L) (y.getLsbD L))
    (hf : f (issueOf i c s) (s.advance (issueOf i c s))
      = predAB (issueOf i c s) (s.advance (issueOf i c s)) p a b k F) :
    Effects i c s (predRule (issueOf i c s) p a b k v) :=
  pred_effects_of h he (fun L hL => hv _ _ L (BitVec.lt_of_getLsbD hL)) hf

end

/-! ### The values of single words -/

/-- The conditions of ISETP (R160). -/
theorem iCmp_eq (k : Nat) (x y : Word) : iCmp k x y = match k with
    | 0 => decide (x = y)
    | 1 => decide (x ≠ y)
    | 2 => decide (x.toInt < y.toInt)
    | 3 => decide (x.toInt ≤ y.toInt)
    | 4 => decide (y.toInt < x.toInt)
    | 5 => decide (y.toInt ≤ x.toInt)
    | 6 => decide (x.toNat < y.toNat)
    | 7 => decide (x.toNat ≤ y.toNat)
    | 8 => decide (y.toNat < x.toNat)
    | _ => decide (y.toNat ≤ x.toNat) := by
  rcases k with _ | _ | _ | _ | _ | _ | _ | _ | _ | k
  case zero => exact beq_eq_decide x y
  case succ.zero => simp [iCmp, bne, beq_eq_decide]
  all_goals rfl

theorem cmpRight_eq (I : Issue) (b : BitVec 5) (u : BitVec 1) (L : Nat) :
    cmpRight I b u L = if u = 1 then I.G.rs b.toNat else I.G.rv b.toNat L := by
  rw [cmpRight, if_congr beq_iff_eq rfl rfl]

/-- The result of a vote, lane by lane (R164). -/
theorem voteResult_eq (b : BitVec 5) (m p : Mask) : voteResult b m (m &&& p) = match b.toNat with
    | 0 => BitVec.ofNat 64 ((lanesOf m).foldl (fun r L => r + if p.getLsbD L then 2 ^ L else 0) 0)
    | 1 => if (lanesOf m).all (p.getLsbD ·) then 1 else 0
    | 2 => if (lanesOf m).any (p.getLsbD ·) then 1 else 0
    | _ => if (lanesOf m).all (p.getLsbD ·) || !(lanesOf m).any (p.getLsbD ·) then 1 else 0 := by
  have number {n : Nat} {x : BitVec 5} (hx : x.toNat = n) : b = x ↔ b.toNat = n := by rw [← BitVec.toNat_inj, hx]
  rw [voteResult, if_congr (number rfl) rfl (if_congr (number rfl) rfl (if_congr (number rfl) rfl rfl)), bne,
    beq_and_zero, beq_and_left, Bool.not_not, setWidth_eq_sumOfBits, ← foldl_lanesOf, Bool.or_comm]
  rcases b.toNat with _ | _ | _ | n <;> rfl

/-- The predicates of a block of one lane, as a word (R163). -/
theorem maskOf_eq_sumOfBits (f : Nat → Bool) : (maskOf f).setWidth 64 = BitVec.ofNat 64 (sumOfBits f 32) := by
  rw [setWidth_eq_sumOfBits]
  refine congrArg (BitVec.ofNat 64) (List.foldl_ext _ _ _ fun r k hk => ?_)
  simp only [getLsbD_maskOf f (List.mem_range.1 hk)]

/-- The upper half of a register replaced (R157). -/
theorem append_eq_ofNat (imm : BitVec 32) (x : Word) :
    imm ++ x.setWidth 32 = BitVec.ofNat 64 (imm.toNat * 2 ^ 32 + x.toNat % 2 ^ 32) := by
  apply BitVec.eq_of_toNat_eq
  rw [BitVec.toNat_append, BitVec.toNat_ofNat, BitVec.toNat_setWidth,
    ← Nat.shiftLeft_add_eq_or_of_lt (Nat.mod_lt _ (by norm_num)), Nat.shiftLeft_eq]
  have himm := imm.isLt
  exact (Nat.mod_eq_of_lt (by omega)).symm

/-! ### The obligation -/

section
variable {c : IssueCtx} {s : State}

theorem mov_effects {d a : BitVec 5} {m : BitVec 2} {g : BitVec 4} {W : Written}
    (hW : moveRule (issueOf (.mov d a m g) c s) s (.mov d a m g) = some W) (h : AtIssue (.mov d a m g) c s) :
    Effects (.mov d a m g) c s W := by
  have he : Sys2Proof.Machine.exec (.mov d a m g) s = execMov d a m g s := rfl
  cases hW
  by_cases h0 : m = 0
  · rw [if_pos h0]
    exact lanes_effects h d _ he (if_pos h0)
  rw [if_neg h0]
  by_cases h1 : m = 1
  · rw [if_pos h1]
    exact lanes_effects h d _ he ((if_neg h0).trans (if_pos h1))
  rw [if_neg h1]
  by_cases h2 : m = 2
  · rw [if_pos h2]
    exact uniform_effects h d _ he ((if_neg h0).trans ((if_neg h1).trans (if_pos h2)))
  · rw [if_neg h2]
    exact uniform_effects h d _ he ((if_neg h0).trans ((if_neg h1).trans (if_neg h2)))

theorem mfs_effects {r : BitVec 5} {y : BitVec 12} {W : Written}
    (hW : moveRule (issueOf (.mfs r y) c s) s (.mfs r y) = some W) (h : AtIssue (.mfs r y) c s) :
    Effects (.mfs r y) c s W := by
  have he : Sys2Proof.Machine.exec (.mfs r y) s = execMfs r y s := rfl
  simp only [moveRule, specialRegister_eq, Option.map_map, Option.map_eq_some_iff] at hW
  obtain ⟨q, hq, rfl⟩ := hW
  simp only [hq, Option.map_some, Option.getD_some, Function.comp]
  refine lanes_effects h r _ he ?_
  simp only [hq, readSpr_advance h]

end

/-- Settles O9: each word writes a lane register, a uniform register, one predicate or a block of them, whose value its rule
gives bit by bit. -/
theorem moveAndPredicateResults : Obligations.MoveAndPredicateResults := by
  intro i c s W hW h
  cases i
  case mov d a m g => exact mov_effects hW h
  case mfs r y => exact mfs_effects hW h
  all_goals cases hW
  case nop g => exact nothing_effects h (show _ = execNop g s from rfl) rfl
  case li d imm => exact lanes_effects h d _ (show _ = execLi d imm s from rfl) (by simp only [BitVec.ofNat_toNat])
  case lih d imm =>
    exact lanes_effects_of h (show _ = execLih d imm s from rfl) (fun L _ => by rw [append_eq_ofNat]) rfl
  case movs d a b g => exact uniform_effects h d _ (show _ = execMovs d a b g s from rfl) rfl
  case isetp p a b k u =>
    refine pred_effects_of h (show _ = execIsetp p a b k u s from rfl) (fun L hL => ?_) rfl
    rw [getLsbD_maskOf_active hL, cmpRight_eq]
    exact iCmp_eq _ _ _
  case fsetp p a b k u =>
    have e := predFlags_effects h (show _ = execFsetp p a b k u s from rfl) _ (fun L hL => getLsbD_maskOf_active hL _) rfl
    simp only [cmpRight_eq] at e
    exact e
  case pand p a b k =>
    exact predRule_effects h (show _ = execPand p a b k s from rfl) (fun _ _ _ _ => BitVec.getLsbD_and) rfl
  case por p a b k =>
    exact predRule_effects h (show _ = execPor p a b k s from rfl) (fun _ _ _ _ => BitVec.getLsbD_or) rfl
  case pxor p a b k =>
    exact predRule_effects h (show _ = execPxor p a b k s from rfl) (fun _ _ _ _ => BitVec.getLsbD_xor) rfl
  case pandn p a b k =>
    refine predRule_effects h (show _ = execPandn p a b k s from rfl) (fun x y L hL => ?_) rfl
    rw [BitVec.getLsbD_and, BitVec.getLsbD_not, decide_eq_true hL, Bool.true_and]
  case ptov d a m g => exact lanes_effects h d _ (show _ = execPtov d a m g s from rfl) rfl
  case vtop p a u =>
    refine pred_effects_of h (show _ = execVtop p a u s from rfl) (fun L hL => ?_) rfl
    rw [getLsbD_maskOf_active hL, if_congr beq_iff_eq rfl rfl]
  case vote d a b m g =>
    exact lanes_effects_of h (show _ = execVote d a b m g s from rfl) (fun L _ => congrArg (·, 0) (voteResult_eq b _ _)) rfl
  case pld a m g =>
    exact predBlock_effects h (show _ = execPld a m g s from rfl) (fun k L hL => getLsbD_maskOf_active hL _) rfl
  case pst d m g =>
    refine lanes_effects_of h (show _ = execPst d m g s from rfl) (fun L _ => ?_) rfl
    rw [maskOf_eq_sumOfBits]
    rfl
  case canck p =>
    refine pred_effects_of h (show _ = execCanck p s from rfl) (fun L hL => ?_) rfl
    rw [show (issueOf (.canck p) c s).b = c.blk from rfl, gridOf_advance h, blk_advance h]
    exact getLsbD_allLanes _ (BitVec.lt_of_getLsbD hL)

end Sys2Proof.Machine
end

section
/-!
SUPPORT. How the Trellis serves the host's queues (R322, R374), gives a grid its frame slice (R375), and hands ranges from
one cluster node to another (R324).
-/

namespace Sys2Proof.Machine

/-! ### Descriptors of the queues (R322, R374) -/

section
variable {s : State} {p : Nat}

theorem acceptNext_of_aged (h : s.waitingPrios.find? s.agedPrio = some p) : s.acceptNext = s.grant p := by
  rw [State.acceptNext, h]
  rfl

theorem acceptNext_of_highest {l : List Nat} (h : s.waitingPrios.find? s.agedPrio = none) (hl : s.waitingPrios = p :: l) :
    s.acceptNext = s.grant p := by
  rw [State.acceptNext, h, hl]
  rfl

theorem exec_priorityAgingGrant (s : State) (p : Nat) : Sys2Proof.Machine.exec (.priorityAgingGrant p) s
    = .next (if s.agedPrio p = true ∧ s.waitingQueues p ≠ [] then s.grant p else s) := by
  refine congrArg Host.Outcome.next (if_congr ?_ rfl rfl)
  rw [Bool.and_eq_true, Bool.not_eq_true', List.isEmpty_eq_false_iff]

/-- The descriptor that a queue is to give next, read from its ring (R374). -/
def State.nextDescriptor (s : State) (q : Nat) : State × Option (List Word) :=
  let x := s.queue q
  s.readWords x.space (x.ring + BitVec.ofNat 64 (64 * (x.cons % 2 ^ x.depthLog))) 8

/-- A queue goes on to its next descriptor, and the Trellis is called again. -/
def State.consumed (s : State) (q : Nat) : State :=
  (s.updQueue q fun x => { x with cons := x.cons + 1 }).postOnce .descriptorAccept

theorem cons_consumed (s : State) (q : Nat) : ((s.consumed q).queue q).cons = (s.queue q).cons + 1 := by
  rw [State.consumed, queue_congr (State.postOnce_queues _ _), queue_updQueue_same]

section
variable {q : Nat} {r : State} {w : List Word} (h : s.nextDescriptor q = (r, some w))
include h

/-- What becomes of a descriptor: a cancellation is carried out, a launch is accepted where a grid more may be live. -/
theorem acceptFrom_eq : s.acceptFrom q = if (descOf w).kind = 2 ∧ (descOf w).ok = true
    then ((if (oget s.grids (descOf w).cgrid.toNat).isSome = true then r.cancel (descOf w).cgrid.toNat else r).consumed q, true)
    else if 4096 ≤ s.liveGrids then (r, false)
    else ((r.accept (descOf w) (s.queue q).space (s.queue q).prio q 0 (s.queue q).handler none none).1.consumed q, true) := by
  change s.readWords _ _ _ = _ at h
  rw [State.acceptFrom, h]
  exact if_congr (by simp) rfl rfl

theorem acceptFrom_cancels (hk : (descOf w).kind = 2 ∧ (descOf w).ok = true) : s.acceptFrom q
    = ((if (oget s.grids (descOf w).cgrid.toNat).isSome = true then r.cancel (descOf w).cgrid.toNat else r).consumed q,
      true) :=
  (acceptFrom_eq h).trans (if_pos hk)

theorem acceptFrom_launches (hk : ¬ ((descOf w).kind = 2 ∧ (descOf w).ok = true)) (hn : s.liveGrids < 4096) :
    s.acceptFrom q = ((r.accept (descOf w) (s.queue q).space (s.queue q).prio q 0 (s.queue q).handler none none).1.consumed q,
      true) :=
  (acceptFrom_eq h).trans ((if_neg hk).trans (if_neg (Nat.not_le.2 hn)))

theorem acceptFrom_full (hk : ¬ ((descOf w).kind = 2 ∧ (descOf w).ok = true)) (hn : 4096 ≤ s.liveGrids) :
    s.acceptFrom q = (r, false) :=
  (acceptFrom_eq h).trans ((if_neg hk).trans (if_pos hn))

end

/-- A queue whose descriptor cannot be read stops, and the others go on (log 60). -/
theorem acceptFrom_stops {q : Nat} {r : State} (h : s.nextDescriptor q = (r, none)) :
    s.acceptFrom q = (((r.stopped q).logError 0 2 2 0 q 0 0).postOnce .descriptorAccept, false) := by
  change s.readWords _ _ _ = _ at h
  rw [State.acceptFrom, h]
  rfl

/-- A queue that is alone in its priority has its turn, and keeps it until it has been served. -/
theorem grant_alone {q : Nat} (h : s.waitingQueues p = [q]) : s.grant p = if (s.acceptFrom q).2 = true then
    { (s.acceptFrom q).1 with
      rr := sset 0 s.rr p (q + 1), passed := passOver s.passed p s.waitingPrios s.cycles.toNat } else (s.acceptFrom q).1 := by
  have turn : ([q].find? fun q => decide (sget 0 s.rr p < q + 1)).orElse (fun _ => [q].head?) = some q := by
    rw [List.find?_cons]
    cases decide (sget 0 s.rr p < q + 1) <;> rfl
  rw [State.grant, h]
  simp only [turn]

end

/-! ### Frame slices (R375) -/

/-- A slice lies in its queue's arena and meets no other slice of it. -/
theorem firstSlice_spec {s : State} {q n b : Nat} (h : s.firstSlice q n = some b) : (s.queue q).arena.toNat ≤ b
    ∧ b + n ≤ (s.queue q).arena.toNat + (s.queue q).arenaSize.toNat
    ∧ ∀ u ∈ s.arenas, u.2.1 = q → b + n ≤ u.2.2.1 ∨ u.2.2.1 + u.2.2.2 ≤ b := by
  let free (b : Nat) : Bool := decide ((s.queue q).arena.toNat ≤ b)
    && decide (b + n ≤ (s.queue q).arena.toNat + (s.queue q).arenaSize.toNat)
    && (s.arenas.filter fun u => u.2.1 == q).all fun u => decide (b + n ≤ u.2.2.1) || decide (u.2.2.1 + u.2.2.2 ≤ b)
  have hfree : free b = true := by
    refine List.foldlRecOn (motive := fun m => ∀ b, m = some b → free b = true) _ _ (by simp) (fun m hm a ha => ?_) b h
    have hfa := (List.mem_filter.1 ha).2
    intro c hc
    cases m with
    | none => exact Option.some.inj hc ▸ hfa
    | some k =>
      obtain rfl := Option.some.inj hc
      rcases min_choice k a with hmin | hmin <;> rw [hmin]
      · exact hm k rfl
      · exact hfa
  simp only [free, Bool.and_eq_true, decide_eq_true_eq, List.all_eq_true, List.mem_filter, beq_iff_eq, Bool.or_eq_true] at hfree
  obtain ⟨⟨hlo, hhi⟩, hused⟩ := hfree
  exact ⟨hlo, hhi, fun u hu hq => hused u ⟨hu, hq⟩⟩

theorem grid_congr {s t : State} (h : t.grids = s.grids) (n : Nat) : t.grid n = s.grid n := by
  rw [State.grid, h, State.grid]

theorem grid_updGrid_same {s : State} {n : Nat} (h : (oget s.grids n).isSome = true) (f : Grid → Grid) :
    (s.updGrid n f).grid n = f (s.grid n) := by
  rw [updGrid_of h, grid_setGrid_same]

theorem isSome_updGrid {s : State} {n : Nat} (h : (oget s.grids n).isSome = true) (f : Grid → Grid) :
    (oget (s.updGrid n f).grids n).isSome = true := by
  rw [updGrid_of h, State.setGrid, oget_oset_same]
  rfl

/-- The cores that a launch takes are noted in its grid, and nothing else of it changes. -/
theorem grid_preempt {s : State} {n : Nat} (h : (oget s.grids n).isSome = true) :
    (s.preempt n).grid n = { s.grid n with taken := s.preemptCores n } := by
  rw [State.preempt, grid_congr (State.postAll_grids _ _), grid_updGrid_same h]

/-- The grid that a launch with a slice becomes, before it takes cores. -/
def Grid.sliced (y : Grid) (b now : Nat) : Grid :=
  { y with
    slice := some (BitVec.ofNat 64 b)
    since := now
    ranges := if y.determ then [] else splitRanges y.blocks y.unit }

/-- A place in an arena noted for a grid. -/
def State.lease (s : State) (n q b len : Nat) : State := { s with arenas := s.arenas ++ [(n, q, b, len)] }

section
variable {s : State} {n b : Nat} (hn : (oget s.grids n).isSome = true) (ha : (s.grid n).state = .accepted)
  (hg : (s.grid n).graph = false) (hs : (s.grid n).slice = none)
  (hb : s.firstSlice (s.grid n).queue ((s.grid n).lcores * sliceBytes) = some b)
include hn ha hg hs hb

theorem allocSlice_eq : s.allocSlice n
    = (((s.lease n (s.grid n).queue b ((s.grid n).lcores * sliceBytes)).updGrid n
        (Grid.sliced · b s.cycles.toNat)).preempt n).postAll
      ((List.range (min (s.grid n).lcores (s.grid n).blocks)).map fun l => .blockStart n l) := by
  have hgo : ((oget s.grids n).isNone || (s.grid n).state != .accepted || (s.grid n).graph || (s.grid n).slice.isSome)
      = false := by
    rw [ha, hg, hs, Option.isNone_eq_false_iff.2 hn]
    rfl
  rw [State.allocSlice]
  dsimp only
  rw [hgo, hb]
  rfl

theorem exec_frameSliceAllocation : ∃ t, Sys2Proof.Machine.exec (.frameSliceAllocation n) s = .next t
    ∧ (t.grid n).slice = some (BitVec.ofNat 64 b)
    ∧ t.arenas = s.arenas ++ [(n, (s.grid n).queue, b, (s.grid n).lcores * sliceBytes)]
    ∧ ∀ l, l < min (s.grid n).lcores (s.grid n).blocks → .blockStart n l ∈ t.agenda := by
  refine ⟨_, congrArg Host.Outcome.next (allocSlice_eq hn ha hg hs hb), ?_, ?_, fun l hl => ?_⟩
  · rw [grid_congr (State.postAll_grids _ _), grid_preempt (isSome_updGrid (by exact hn) _),
      grid_updGrid_same (by exact hn)]
    rfl
  · rw [State.postAll_arenas, State.preempt, State.postAll_arenas, State.updGrid_arenas, State.updGrid_arenas]
    rfl
  · exact List.mem_append_right _ (List.mem_map.2 ⟨l, List.mem_range.2 hl, rfl⟩)

end

/-! ### Ranges (R324) -/

section
variable (y : Grid)

theorem unit_pos : 0 < y.unit := Nat.mul_pos (Nat.two_pow_pos _) (Nat.two_pow_pos _)

/-- Where the upper half of a range, in whole team sets, begins. -/
def Grid.cut (j : Nat) : Nat := y.wholeFrom j + (y.setsLeft j - max 1 (y.setsLeft j / 2)) * y.unit

theorem le_wholeFrom (j : Nat) : (y.range j).1 ≤ y.wholeFrom j := by
  have hu := unit_pos y
  have h := Nat.lt_div_mul_add hu (a := (y.range j).1 + y.unit - 1)
  unfold Grid.wholeFrom
  omega

theorem setsLeft_of_left {k : Nat} (h : y.left k = 0) : y.setsLeft k = 0 := by
  have hle := le_wholeFrom y k
  have := unit_pos y
  unfold Grid.left at h
  exact Nat.div_eq_of_lt (by omega)

theorem cut_mod (j : Nat) : y.cut j % y.unit = 0 := by
  rw [Grid.cut, Nat.add_mul_mod_self_right]
  exact Nat.mul_mod_left ..

theorem le_cut (j : Nat) : (y.range j).1 ≤ y.cut j := (le_wholeFrom y j).trans (Nat.le_add_right ..)

/-- The upper half of a range with a whole team set is not empty. -/
theorem cut_lt {j : Nat} (h : y.setsLeft j ≠ 0) : y.cut j < (y.range j).2 := by
  have hu := unit_pos y
  have last : (y.setsLeft j - 1) * y.unit < (y.range j).2 - y.wholeFrom j := by
    have hdiv := Nat.div_mul_le_self ((y.range j).2 - y.wholeFrom j + y.unit - 1) y.unit
    change y.setsLeft j * y.unit ≤ _ at hdiv
    have hone := Nat.le_mul_of_pos_left y.unit (Nat.pos_of_ne_zero h)
    rw [Nat.sub_mul, Nat.one_mul]
    omega
  have half : (y.setsLeft j - max 1 (y.setsLeft j / 2)) * y.unit ≤ (y.setsLeft j - 1) * y.unit :=
    Nat.mul_le_mul_right _ (by omega)
  unfold Grid.cut
  omega

/-- A range is stolen from only where a whole team set is left in it. -/
theorem setsLeft_of_stealFrom {k j : Nat} (h : y.stealFrom k = some j) : y.setsLeft j ≠ 0 := by
  unfold Grid.stealFrom at h
  dsimp only at h
  split at h
  all_goals
    refine List.foldlRecOn (motive := fun m => ∀ j, m = some j → y.setsLeft j ≠ 0) _ _ (by simp) (fun m hm i _ => ?_) j h
    split
    · exact hm
    · next hne =>
      cases m with
      | none => exact fun j hj => Option.some.inj hj ▸ hne
      | some l =>
        dsimp only
        split
        · exact fun j hj => Option.some.inj hj ▸ hne
        · exact hm

end

section
variable {α : Type} [DecidableEq α]

theorem oget_foldl_oset_ne {k : Nat} (l : List (Nat × α)) (m : OMap α) (h : ∀ p ∈ l, k ≠ p.1) :
    oget (l.foldl (fun m p => oset m p.1 p.2) m) k = oget m k := by
  induction l generalizing m with
  | nil => rfl
  | cons p l ih =>
    obtain ⟨hp, hl⟩ := List.forall_mem_cons.1 h
    rw [List.foldl_cons, ih _ hl, oget_oset_ne _ _ hp]

theorem oget_foldl_oset {k : Nat} {v : α} (l : List (Nat × α)) (m : OMap α) (hl : (l.map (·.1)).Nodup) (h : (k, v) ∈ l) :
    oget (l.foldl (fun m p => oset m p.1 p.2) m) k = some v := by
  induction l generalizing m with
  | nil => cases h
  | cons p l ih =>
    obtain ⟨hp, hl⟩ := List.nodup_cons.1 hl
    rcases List.mem_cons.1 h with rfl | h
    · refine (oget_foldl_oset_ne l _ fun q hq he => hp ?_).trans (oget_oset_same ..)
      exact List.mem_map.2 ⟨q, hq, he.symm⟩
    · exact ih _ hl h

end

/-- The ranges that a steal leaves: the rest of the one stolen from, and the stolen part, with the cluster node or in six
parts with its die (R324). -/
def Grid.stolen (y : Grid) (k j : Nat) : List (Nat × (Nat × Nat)) :=
  if j / 6 = k / 6 then [(k, y.cut j, (y.range j).2)]
  else ((List.range 6).map (k / 6 * 6 + ·)).zip
    (splitDie (y.range j).2 y.unit (y.cut j / y.unit) (((y.range j).2 - y.cut j + y.unit - 1) / y.unit))

/-- The parts that a die node steals go one to each of its six cluster nodes. -/
theorem stolen_of_other (y : Grid) {k j : Nat} (h : j / 6 ≠ k / 6) : y.stolen k j = (List.range 6).map fun i =>
    (k / 6 * 6 + i, (splitDie (y.range j).2 y.unit (y.cut j / y.unit)
      (((y.range j).2 - y.cut j + y.unit - 1) / y.unit)).getD i (0, 0)) := by
  rw [Grid.stolen, if_neg h]
  obtain ⟨part, hpart⟩ : ∃ part : Nat → Nat × Nat, splitDie (y.range j).2 y.unit (y.cut j / y.unit)
      (((y.range j).2 - y.cut j + y.unit - 1) / y.unit) = (List.range 6).map part := by
    unfold splitDie
    exact ⟨_, rfl⟩
  rw [hpart, List.zip_map']
  refine List.map_congr_left fun i hi => ?_
  have := List.mem_range.1 hi
  simp [this]

/-- The range stolen from is not one of those that take the stolen part. -/
theorem not_mem_stolen (y : Grid) {k j : Nat} (h : k ≠ j) : ∀ p ∈ y.stolen k j, j ≠ p.1 := by
  by_cases hsame : j / 6 = k / 6
  · rw [Grid.stolen, if_pos hsame]
    simpa using h.symm
  · rw [stolen_of_other y hsame]
    intro p hp hj
    obtain ⟨i, hi, rfl⟩ := List.mem_map.1 hp
    have := List.mem_range.1 hi
    dsimp only at hj
    omega

section
variable {s : State} {n k j : Nat} (hd : (s.grid n).determ = false) (hl : (s.grid n).left k = 0) (hk : k < 12)
  (hj : (s.grid n).stealFrom k = some j)
include hd hl hk hj

theorem steal_eq : s.steal n k = s.updGrid n fun y => { y with
    ranges := ((s.grid n).stolen k j).foldl (fun m p => oset m p.1 p.2)
      (oset y.ranges j (((s.grid n).range j).1, (s.grid n).cut j)) } := by
  have hgo : ((s.grid n).determ || (s.grid n).left k != 0 || decide (12 ≤ k)) = false := by
    rw [hd, hl, decide_eq_false (by omega)]
    rfl
  rw [State.steal]
  dsimp only
  rw [hgo, hj]
  rfl

theorem exec_rangeSteal {die cl : Nat} (hi : k = 6 * die + cl) (hn : (oget s.grids n).isSome = true) :
    let y := s.grid n
    let cut := y.cut j
    ∃ t, Sys2Proof.Machine.exec (.rangeSteal n die cl) s = .next t ∧ (t.grid n).range j = ((y.range j).1, cut)
      ∧ (j / 6 = k / 6 → (t.grid n).range k = (cut, (y.range j).2))
      ∧ (j / 6 ≠ k / 6 → ∀ i, i < 6 → (t.grid n).range (k / 6 * 6 + i)
          = (splitDie (y.range j).2 y.unit (cut / y.unit) (((y.range j).2 - cut + y.unit - 1) / y.unit)).getD i (0, 0)) := by
  intro y cut
  have hne : k ≠ j := by
    rintro rfl
    exact setsLeft_of_stealFrom _ hj (setsLeft_of_left _ hl)
  have he : Sys2Proof.Machine.exec (.rangeSteal n die cl) s = .next (s.steal n k) := hi ▸ rfl
  refine ⟨_, he.trans (congrArg _ (steal_eq hd hl hk hj)), ?_, fun hsame => ?_, fun hother i hi => ?_⟩ <;>
    rw [grid_updGrid_same hn, Grid.range]
  · rw [oget_foldl_oset_ne _ _ (not_mem_stolen _ hne), oget_oset_same]
    rfl
  · rw [Grid.stolen, if_pos hsame]
    exact congrArg (Option.getD · (0, 0)) (oget_oset_same ..)
  · rw [stolen_of_other _ hother]
    have hmem := List.mem_map_of_mem (f := fun i => (k / 6 * 6 + i, (splitDie (y.range j).2 y.unit (cut / y.unit)
      (((y.range j).2 - cut + y.unit - 1) / y.unit)).getD i (0, 0))) (List.mem_range.2 hi)
    rw [oget_foldl_oset _ _ ?_ hmem]
    · rfl
    · rw [List.map_map]
      exact List.nodup_range.map fun a b hab => by simpa using hab

end

end Sys2Proof.Machine
end

section
/-!
SUPPORT. The start of a block (R113, R149, R154, R319, R320): the block and its groups in their start state, and what a
logical core takes where it stands.
-/

namespace Sys2Proof.Machine

/-! ### The start state (R113, R149, R154) -/

/-- The plots of a kernel change the Bed of a block and its plots, and nothing else. -/
theorem startPlots_rest (l : List (Nat × Nat × Bool)) (x : Block) :
    ∃ bed ages plots, x.startPlots l = { x with bed := bed, bedMeta := ages, plots := plots } := by
  refine List.foldlRecOn
    (motive := fun z : Block => ∃ bed ages plots, z = { x with bed := bed, bedMeta := ages, plots := plots })
    _ _ ⟨x.bed, x.bedMeta, x.plots, rfl⟩ fun z hz p _ => ?_
  obtain ⟨bed, ages, plots, rfl⟩ := hz
  split
  · next r hr =>
    unfold Block.makePlot at hr
    split at hr
    · obtain rfl := Option.some.inj hr
      exact ⟨_, _, _, rfl⟩
    · cases hr
  · exact ⟨_, _, _, rfl⟩

/-- Each of the groups placed on a core has a quadrant. -/
theorem map_fst_placeGroups (s : State) (k : Nat) (l : List Nat) : (s.placeGroups k l).map (·.1) = l := by
  unfold State.placeGroups
  suffices ∀ r : List (Nat × Nat) × List Nat, ((l.foldl (fun r g =>
      (r.1 ++ [(g, leastQuadrant r.2)], r.2.set (leastQuadrant r.2) (r.2.getD (leastQuadrant r.2) 0 + 1))) r).1).map (·.1)
        = r.1.map (·.1) ++ l from this _
  induction l with
  | nil => simp
  | cons g l ih => intro r; rw [List.foldl_cons, ih]; simp

/-- What is listed at a key of a map that lists a value for each element of a list. -/
theorem sget_map_of_mem {α β : Type} (d : α) (key : β → Nat) (f : β → α) {l : List β} {k : Nat} (h : k ∈ l.map key) :
    ∃ p, key p = k ∧ sget d (l.map fun p => (key p, f p)) k = f p := by
  induction l with
  | nil => cases h
  | cons p l ih =>
    by_cases hk : key p = k
    · exact ⟨p, hk, by simp [sget, hk]⟩
    · obtain ⟨q, hq, hs⟩ := ih ((List.mem_cons.1 h).resolve_left (Ne.symm hk))
      exact ⟨q, hq, by simpa [sget, hk] using hs⟩

section
variable (y : Grid) (x : Block) (g q born now : Nat) {L : Nat} (hL : L < 32)
include hL

theorem lanePc_startState : (startState y x g q born now).lanePc L = y.entry := by
  unfold startState Group.lanePc
  dsimp only
  split
  · next h => exact h.symm
  · obtain ⟨-, -, h⟩ := sget_map_of_mem 0 id (fun _ => y.entry) (k := L) (l := List.range 32) (by simpa using hL)
    exact h

theorem lf_startState : (startState y x g q born now).lf L = seedLfsr y.rkey x.id g L := by
  have h := Laws.sget_listed (d := 0) 0 (seedLfsr y.rkey x.id g) (List.mem_range.2 hL)
  simpa [startState, Group.lf, bne, beq_eq_decide] using h

end

theorem oget_map {α β : Type} (f : α → β) (m : OMap α) (k : Nat) :
    oget (m.map fun kv => (kv.1, kv.2.map f)) k = (oget m k).map f := by
  induction m with
  | nil => rfl
  | cons kv m ih =>
    obtain ⟨j, v⟩ := kv
    by_cases hj : j = k
    · simp [oget, sget, hj]
    · simpa [oget, sget, hj] using ih

/-- A block that is not saved keeps its frame when the saved ones of its logical core lose theirs. -/
theorem blk_displaceOthers (s : State) (b : Nat) (h : (s.blk b).life ≠ .saved) : (s.displaceOthers b).blk b = s.blk b := by
  unfold State.displaceOthers State.blk
  dsimp only
  rw [oget_map]
  cases hx : oget s.blocks b with
  | none => rfl
  | some x =>
    have hlife : x.life ≠ .saved := by simpa [State.blk, hx] using h
    simp [hlife]

/-- A block as it becomes resident (R113, R154, R319). -/
def State.newBlock (s : State) (n l id relaunches k : Nat) : Block :=
  { Block.zero with
    grid := n
    id := id
    lcore := l
    core := k
    space := (s.grid n).space
    life := .resident
    rkey := (s.grid n).rkey
    rctr := (s.grid n).rctr
    bedLines := (s.grid n).bedLines
    relaunches := relaunches
    bframe := (s.grid n).slice.getD 0 + BitVec.ofNat 64 (l * sliceBytes)
    since := s.cycles.toNat }

/-- The same with the plots of its kernel, and each of its groups in its start state. -/
def State.startedBlock (s : State) (n l id rel k : Nat) : Block :=
  let y := s.grid n
  let x := (s.newBlock n l id rel k).startPlots y.plots
  { x with groups := (s.placeGroups k (List.range y.groups)).map fun p =>
      (p.1, some (startState y x p.1 p.2 (s.fresh + p.1) s.cycles.toNat)) }

/-- A grid with a block on a core: it runs, and its remap table has the core. -/
def Grid.runsOn (y : Grid) (l k : Nat) : Grid :=
  { y with state := if y.state = .accepted then .running else y.state, remap := oset y.remap l k }

/-- A core is handed to a block, whose groups take fresh numbers. -/
def State.handCore (s : State) (n k : Nat) : State :=
  { s.updCore k (fun c => { c with sliced := false }) with fresh := s.fresh + (s.grid n).groups }

theorem startBlock_eq (s : State) (n l id rel k : Nat) : s.startBlock n l id rel k
    = ((((s.handCore n k).setBlk (blockKey n id) (s.startedBlock n l id rel k)).updGrid n (Grid.runsOn · l k)).displaceOthers
        (blockKey n id)).acquire (blockKey n id) 4 := rfl

theorem updGrid_congr {s t : State} (h : t.grids = s.grids) (n : Nat) (f : Grid → Grid) :
    (t.updGrid n f).grids = (s.updGrid n f).grids := by
  unfold State.updGrid
  rw [h]
  split
  · exact h
  · simp only [State.setGrid, h]

theorem grids_startBlock (s : State) (n l id rel k : Nat) :
    (s.startBlock n l id rel k).grids = (s.updGrid n (Grid.runsOn · l k)).grids := by
  have acquired (t : State) (b : Nat) : (t.acquire b 4).grids = t.grids := (congrArg State.grids (acquire_rest t b 4) :)
  rw [startBlock_eq, acquired]
  exact updGrid_congr (s := s) (t := (s.handCore n k).setBlk (blockKey n id) (s.startedBlock n l id rel k)) rfl n _

theorem blk_startBlock (s : State) (n l id rel k : Nat) :
    (s.startBlock n l id rel k).blk (blockKey n id) = s.startedBlock n l id rel k := by
  let t := ((s.handCore n k).setBlk (blockKey n id) (s.startedBlock n l id rel k)).updGrid n (Grid.runsOn · l k)
  have hx : t.blk (blockKey n id) = s.startedBlock n l id rel k := by
    rw [State.blk, State.updGrid_blocks]
    exact blk_setBlk_same (s.handCore n k) (blockKey n id) _
  have hlife : (t.blk (blockKey n id)).life ≠ .saved := by
    obtain ⟨bed, ages, plots, h⟩ := startPlots_rest (s.grid n).plots (s.newBlock n l id rel k)
    rw [hx, State.startedBlock]
    dsimp only
    rw [h]
    exact nofun
  rw [startBlock_eq, State.blk, acquire_blocks]
  exact (blk_displaceOthers t (blockKey n id) hlife).trans hx

/-- A group of a block that starts is in its start state (R149). -/
theorem grp_startBlock (s : State) (n l id rel k : Nat) {g : Nat} (hg : g < (s.grid n).groups) :
    ∃ q, ((s.startBlock n l id rel k).blk (blockKey n id)).grp g = startState (s.grid n)
      ((s.newBlock n l id rel k).startPlots (s.grid n).plots) g q (s.fresh + g) s.cycles.toNat := by
  have hkey : g ∈ (s.placeGroups k (List.range (s.grid n).groups)).map (·.1) := by
    rw [map_fst_placeGroups]
    exact List.mem_range.2 hg
  obtain ⟨p, rfl, hp⟩ := sget_map_of_mem none (fun p : Nat × Nat => p.1) (fun p => some (startState (s.grid n)
    ((s.newBlock n l id rel k).startPlots (s.grid n).plots) p.1 p.2 (s.fresh + p.1) s.cycles.toNat)) hkey
  refine ⟨p.2, ?_⟩
  rw [blk_startBlock]
  exact congrArg (Option.getD · Group.zero) hp

/-- A block starts with every group in its start state, and memory stays (R149, R154, R319). -/
theorem startBlock_effect (s : State) (n l id rel k : Nat) :
    let y := s.grid n
    let t := s.startBlock n l id rel k
    let x := t.blk (blockKey n id)
    x.life = .resident ∧ x.grid = n ∧ x.id = id ∧ x.lcore = l ∧ x.core = k ∧ x.space = y.space ∧ x.rkey = y.rkey
      ∧ x.rctr = y.rctr ∧ x.count = 0 ∧ t.mem = s.mem
      ∧ ∀ g, g < y.groups → let z := x.grp g
        z.live = BitVec.allOnes 32 ∧ z.rs 0 = y.args ∧ z.smode = y.smode ∧ z.handler = y.handler ∧ z.level = false
          ∧ z.phases = y.phase ∧ z.frame = x.bframe + 0x400000 + BitVec.ofNat 64 (g * 0x26000)
          ∧ ∀ L, L < 32 → z.lanePc L = y.entry ∧ z.lf L = seedLfsr y.rkey id g L ∧ ∀ r, z.rv r L = 0 := by
  intro y t x
  obtain ⟨bed, ages, plots, hplots⟩ := startPlots_rest y.plots (s.newBlock n l id rel k)
  have hx : x = s.startedBlock n l id rel k := blk_startBlock s n l id rel k
  refine ⟨?_, ?_, ?_, ?_, ?_, ?_, ?_, ?_, ?_, State.startBlock_mem s n l id rel k, fun g hg => ?_⟩
  case refine_10 =>
    intro z
    obtain ⟨q, hz⟩ := grp_startBlock s n l id rel k hg
    have hid : ((s.newBlock n l id rel k).startPlots y.plots).id = id := by rw [hplots]; rfl
    rw [show z = _ from hz, hx]
    refine ⟨rfl, sget_sset_same 0 [] 0 y.args, rfl, rfl, rfl, rfl, rfl, fun L hL => ⟨?_, ?_, fun r => rfl⟩⟩
    · exact lanePc_startState _ _ _ _ _ _ hL
    · rw [lf_startState _ _ _ _ _ _ hL, hid]
  all_goals
    rw [hx, State.startedBlock]
    dsimp only
    rw [hplots]
    rfl

end Sys2Proof.Machine
end

section
/-!
SUPPORT. What a logical core does at its turn (R320, R323), how a freed core is given out (R323), and how a grid retires
(R317, R318, R328, R329), with what settles O55.
-/

namespace Sys2Proof.Machine

/-! ### A logical core that starts a block where it stands (R320, R323) -/

/-- Without a team, a logical core is alone in its set. -/
theorem mates_alone {y : Grid} {l : Nat} (hu : y.unit = 1) (hl : l < y.lcores) : y.mates l = [l] := by
  simp [Grid.mates, hu, hl]

section
variable {s : State} {n l id rel k : Nat}

/-- A logical core that may start a block has none that is resident. -/
theorem residesOn_of_start (h : s.turnOf n l = .start id rel) : s.residesOn n l = none := by
  unfold State.turnOf at h
  dsimp only at h
  split at h
  · cases h
  · next hany =>
    rw [State.residesOn, Option.map_eq_none_iff, List.find?_eq_none]
    intro b hb hres
    simp only [Bool.and_eq_true, beq_iff_eq] at hres
    obtain ⟨⟨⟨hgrid, hlcore⟩, hlife⟩, hjob⟩ := hres
    refine hany (List.any_eq_true.2 ⟨b, List.mem_filter.2 ⟨hb, ?_⟩, beq_iff_eq.2 hlife⟩)
    simp [hgrid, hlcore, hlife, hjob]

variable (hn : (oget s.grids n).isSome = true) (hs : (s.grid n).slice.isSome = true)
  (hst : (s.grid n).state = .accepted ∨ (s.grid n).state = .running) (hl : l < (s.grid n).lcores)
  (ht : s.turnOf n l = .start id rel) (hu : (s.grid n).unit = 1) (hk : oget (s.grid n).remap l = some k)
  (hm : s.mayUse n k = true) (hf : s.fits n k = true) (ha : (s.grid n).avoid l ≠ some (k / 16))

include hu hk hm ha in
theorem placesOf_placed : s.placesOf n l = some [(l, k)] := by
  have hplace : (if (s.mayUse n k && (s.grid n).avoid l != some (k / 16)) = true then some k else s.chooseCore n l) = some k :=
    if_pos (by rw [hm, bne_iff_ne.2 ha]; rfl)
  simp only [State.placesOf, hu, if_true, hk, hplace, Option.map_some]

include hf in
theorem tightPlace_fits : s.tightPlace n [(l, k)] = none := by
  simp [State.tightPlace, hf]

include ht in
theorem aheadOf_start : s.aheadOf n [(l, k)] = s.ahead n l k := by
  have hneeds : s.needsPlace n (l, k) = true := by
    rw [State.needsPlace, residesOn_of_start ht, ht]
    rfl
  rw [State.aheadOf, List.findSome?_cons, if_pos hneeds]
  cases s.ahead n l k <;> rfl

include hn hl ht hu in
theorem takeTurns_start : (s.takeTurns n [(l, k)]).wakeMates n l = s.startTurn n l id rel k := by
  have htake : s.takeTurns n [(l, k)] = s.startTurn n l id rel k := by
    simp [State.takeTurns, ht]
  have hmates : ((s.startTurn n l id rel k).grid n).mates l = [l] := by
    rw [State.startTurn, grid_congr (grids_startBlock _ n l id rel k), grid_updGrid_same (isSome_updGrid hn _),
      grid_updGrid_same hn]
    exact mates_alone hu hl
  have hmore : ([l].filterMap fun m => if m = l then none else some (Instr.blockStart n m)) = [] := by simp
  rw [htake, State.wakeMates, hmates, hmore, State.postAll, List.append_nil]

include hn hs hst hl ht hu hk hm hf ha

/-- The block starts, unless another claimant goes before it on its core. -/
theorem fillLcore_start : (s.ahead n l k = none → s.fillLcore n l = s.startTurn n l id rel k)
    ∧ ∀ c, s.ahead n l k = some c → s.fillLcore n l = s.postAll [.blockStart c.gid c.lcore, .blockStart n l] := by
  have hgo : ((oget s.grids n).isNone || (s.grid n).slice.isNone
      || ((s.grid n).state != .accepted && (s.grid n).state != .running) || decide ((s.grid n).lcores ≤ l)) = false := by
    rw [Option.isNone_eq_false_iff.2 hn, Option.isNone_eq_false_iff.2 hs, decide_eq_false (by omega)]
    rcases hst with hst | hst <;> rw [hst] <;> rfl
  have hsame : [(l, k)].all (fun p => oget (s.grid n).remap p.1 == some p.2) = true := by simp [hk]
  have hcore : (([(l, k)].find? fun p => p.1 == l).map (·.2)).getD 0 = k := by simp
  refine ⟨fun h => ?_, fun c h => ?_⟩ <;>
    simp only [State.fillLcore, hgo, ht, placesOf_placed hu hk hm ha, hcore, hm, hsame, if_true, Bool.not_true,
      Bool.false_eq_true, if_false, tightPlace_fits hf, aheadOf_start ht, h, takeTurns_start hn hl ht hu]

/-- BLOCK_START where a block may start: it starts, or the claimant that goes before it is called first. -/
theorem exec_blockStart : (s.ahead n l k = none → ∃ u : State,
      Sys2Proof.Machine.exec (.blockStart n l) s = .next (u.startBlock n l id rel k)
        ∧ u.blocks = s.blocks ∧ u.mem = s.mem ∧ (u.grid n).rebound = (s.grid n).rebound.filter (·.1 != id))
    ∧ (∀ c, s.ahead n l k = some c → ∃ u, Sys2Proof.Machine.exec (.blockStart n l) s = .next u
      ∧ u.blocks = s.blocks ∧ u.mem = s.mem ∧ .blockStart c.gid c.lcore ∈ u.agenda ∧ .blockStart n l ∈ u.agenda) := by
  obtain ⟨hfirst, hwaits⟩ := fillLcore_start hn hs hst hl ht hu hk hm hf ha
  refine ⟨fun hnone => ⟨_, congrArg Host.Outcome.next (hfirst hnone), State.updGrid_blocks .., State.updGrid_mem .., ?_⟩,
    fun c hc => ⟨_, congrArg Host.Outcome.next (hwaits c hc), rfl, rfl, ?_, ?_⟩⟩
  · rw [grid_updGrid_same hn]
  · simp [State.postAll]
  · simp [State.postAll]

end

/-! ### Cores that free up (R323) -/

theorem exec_coreAssignment {s : State} {k : Nat} {e : Claim} {rest : List Claim} (h : s.claimants k = e :: rest) :
    ∃ t, Sys2Proof.Machine.exec (.coreAssignment k) s = .next t ∧ .blockStart e.gid e.lcore ∈ t.agenda
      ∧ t.blocks = s.blocks
      ∧ (s.fits e.gid k = true → e.placed = false → (s.grid e.gid).unit = 1 → (oget s.grids e.gid).isSome = true →
          oget (t.grid e.gid).remap e.lcore = some k) := by
  refine ⟨_, rfl, ?_⟩
  rw [State.assignCore, h]
  dsimp only
  refine ⟨(mem_agenda_postOnce _ _ _).2 (.inr rfl), ?_, fun hf hp hu hn => ?_⟩
  · rw [State.postOnce_blocks]
    dsimp only
    split
    · exact State.updGrid_blocks ..
    · rfl
  · have hfree : (s.fits e.gid k && !e.placed && (s.grid e.gid).unit == 1) = true := by rw [hf, hp, hu]; rfl
    rw [grid_congr (State.postOnce_grids _ _), if_pos hfree]
    exact (congrArg (fun y : Grid => oget y.remap e.lcore) (grid_updGrid_same hn _)).trans (oget_oset_same ..)

/-! ### What is read and written below the caches leaves the grids -/

/-- The states that have some grids. -/
theorem grids_kept (m : OMap Grid) : Kept fun s => s.grids = m where
  byte s d pa b h := by
    unfold State.setPhysByte
    dsimp only
    split
    · rw [State.updDie_grids]; exact h
    · exact h
  line _ _ _ _ _ h := h
  die s d f h := by rw [State.updDie_grids]; exact h
  post s i h := by rw [State.postOnce_grids]; exact h

theorem grids_mergeLine (s : State) (P : Party) (line pa bitmap : Nat) (sieve : Bool) (mask data : Line) :
    (s.mergeLine P line pa bitmap sieve mask data).grids = s.grids := by
  have K := grids_kept s.grids
  let o := ownerOfLine line
  let key := lineKey P.space line
  let s1 := s.pocWrite o key pa bitmap mask data
  let s2 := if dieOfCore P.core != o then s1.refreshRemote (dieOfCore P.core) key mask data else s1
  let s3 := (if inHost pa then s2.notePort P.blk o else s2).wake P.space line
  have h1 : s1.grids = s.grids := K.pocWrite o key pa bitmap mask data rfl
  have h2 : s2.grids = s.grids := ite_kept (P := fun t : State => t.grids = s.grids) (K.die s1 _ _ h1) h1
  have h3 : s3.grids = s.grids := K.wake P.space line
    (ite_kept (P := fun t : State => t.grids = s.grids) ((State.updBlk_grids s2 P.blk _).trans h2) h2)
  refine ite_kept (P := fun t : State => t.grids = s.grids) ?_ h3
  exact (State.postAll_grids ..).trans (K.die _ _ _ (K.homeWrite _ _ _ _ _ h3))

theorem grids_snoop (s : State) (d pa : Nat) (write : Bool) : (s.snoop d pa write).grids = s.grids := by
  have K := grids_kept s.grids
  have merged (t : State) (line : Nat) (mask data : Line) (ht : t.grids = s.grids) :
      (t.hostMerge d line mask data).grids = s.grids := by
    unfold State.hostMerge
    split
    · exact (grids_mergeLine ..).trans ht
    · exact K.homeWrite _ _ _ _ _ ht
  unfold State.snoop
  split
  · rfl
  · next x _ =>
    have hdie := K.die s d (fun y => { y with hostLines := odel y.hostLines (pa / 128) }) rfl
    refine ite_kept (P := fun t : State => t.grids = s.grids) rfl ?_
    dsimp only
    cases x.data with
    | none => exact ite_kept (P := fun t : State => t.grids = s.grids) hdie hdie
    | some v => exact ite_kept (P := fun t : State => t.grids = s.grids) (merged _ _ _ _ hdie) (merged _ _ _ _ hdie)

theorem grids_vread (s : State) (space : Nat) (va : Word) (n : Nat) : (s.vread space va n).1.grids = s.grids := by
  have translated := (grids_kept s.grids).translate space va 1
    (!(s.die (ownerOf va)).l2Has (lineKey space (lineNo va)) (bytesMask (lineOff va) n)) (s := s) rfl
  have sought : (s.seek space va n 1).1.grids = s.grids :=
    ite_fst_kept (P := fun t : State => t.grids = s.grids) translated ((grids_snoop ..).trans translated)
  exact ite_fst_kept (P := fun t : State => t.grids = s.grids) rfl
    (ite_fst_kept (P := fun t : State => t.grids = s.grids) sought sought)

theorem grids_vreadBytes (space : Nat) (fuel : Nat) :
    ∀ (s : State) (va n : Nat), (s.vreadBytes space va fuel n).1.grids = s.grids := by
  induction fuel with
  | zero => exact fun _ _ _ => rfl
  | succ fuel ih =>
    intro s va n
    have hread := grids_vread s space (BitVec.ofNat 64 va) (min n (128 - va % 128))
    refine ite_fst_kept (P := fun t : State => t.grids = s.grids) rfl ?_
    refine ite_fst_kept (P := fun t : State => t.grids = s.grids) hread
      (ite_fst_kept (P := fun t : State => t.grids = s.grids) hread ?_)
    exact (ih ..).trans hread

theorem grids_readNode (s : State) (space : Nat) (va : Word) : (s.readNode space va).1.grids = s.grids :=
  ite_fst_kept (P := fun t : State => t.grids = s.grids) rfl (grids_vreadBytes ..)

/-! ### Retirement (R317, R318, R328, R329) -/

/-- No grid of a number is live. -/
def State.Gone (s : State) (n : Nat) : Prop := oget s.grids n = none

section
variable {s : State} {n : Nat}

theorem gone_updGrid (h : s.Gone n) (m : Nat) (f : Grid → Grid) : (s.updGrid m f).Gone n := by
  unfold State.Gone State.updGrid at *
  split
  · exact h
  · next x hx =>
    have hne : n ≠ m := by
      rintro rfl
      rw [h] at hx
      cases hx
    simpa [State.setGrid, oget_oset_ne _ _ hne] using h

theorem gone_congr {t : State} (h : s.Gone n) (ht : t.grids = s.grids) : t.Gone n := by
  rw [State.Gone, ht]
  exact h

theorem gone_goNext (h : s.Gone n) (m : Nat) : (s.goNext m).Gone n := by
  have drained (t : State) (b : Bool) (ht : t.Gone n) : (t.drainGraph m b).Gone n := gone_updGrid ht m _
  have went : (s.goNode m).Gone n := by
    unfold State.goNode
    dsimp only
    split
    · exact drained s false h
    · have hread := gone_congr h (grids_readNode s (s.grid m).space (s.grid m).node)
      split
      · exact drained _ true hread
      · exact hread
  exact ite_kept (P := (State.Gone · n)) (drained s false h) (ite_kept (P := (State.Gone · n)) h went)

theorem gone_giveBack (h : s.Gone n) (cores : List Nat) (t : Nat × Nat) : (s.giveBack cores t).Gone n := by
  have put (f : Grid → Grid) (i : Instr) : ((s.updGrid t.2 f).postOnce i).Gone n :=
    gone_congr (gone_updGrid h t.2 f) (State.postOnce_grids _ i)
  unfold State.giveBack
  dsimp only
  split
  · exact h
  · split
    all_goals
      split
      · exact put _ _
      · exact h

/-- A grid that leaves is no longer live. -/
theorem gone_removeGrid (s : State) (n : Nat) : (s.removeGrid n).Gone n := by
  let t : State := { s.dropReadOnly n with
    die0 := s.die0.dropTags (s.grid n).gslot
    die1 := s.die1.dropTags (s.grid n).gslot
    grids := odel s.grids n
    arenas := s.arenas.filter fun a => a.1 != n
    blocks := s.blocks.filter fun kv => !(kv.2.any fun x => x.grid == n) }
  have hgone : t.Gone n := oget_odel_same s.grids n
  unfold State.removeGrid
  dsimp only
  refine gone_congr ?_ (State.postAll_grids _ _)
  refine List.foldlRecOn (motive := (State.Gone · n)) _ _ ?_ fun t ht u _ => gone_giveBack ht _ u
  split
  · split
    · split
      · exact gone_updGrid hgone _ _
      · exact gone_goNext (gone_updGrid hgone _ _) _
    · exact hgone
  · exact hgone

variable {y : Grid} (hy : oget s.grids n = some y)
include hy

theorem retire_draining (hs : y.state = .draining) (hc : s.children n = []) :
    s.retire n = (s.writeHeader n).post (.gridRetirement n) := by
  simp [State.retire, hy, hs, hc]

theorem retire_waits (hs : y.state = .draining) (hc : s.children n ≠ []) : s.retire n = s := by
  simp [State.retire, hy, hs, hc]

theorem retire_leaves (hs : y.state = .retired) (hq : y.q8 = none) : s.retire n = s.removeGrid n := by
  simp [State.retire, hy, hs, hq]

theorem retire_delivers {b g : Nat} (hs : y.state = .retired) (hq : y.q8 = some (b, g)) (hb : (oget s.blocks b).isSome = true)
    (hlife : (s.blk b).life = .resident) (hg : (oget (s.blk b).groups g).isSome = true) (hended : (s.grp b g).ended = false)
    (hroom : ((s.grp b g).queue 8).length < 32) : s.retire n = (s.updGrp b g fun z =>
      z.setQueue 8 ((s.grp b g).queue 8 ++ [y.statusWord n])).removeGrid n := by
  have there : ((oget s.blocks b).isNone || (s.blk b).life == .ended || (s.grp b g).ended || (oget (s.blk b).groups g).isNone)
      = false := by
    rw [Option.isNone_eq_false_iff.2 hb, Option.isNone_eq_false_iff.2 hg, hlife, hended]
    rfl
  have room : ¬ 32 ≤ (sget [] (s.grp b g).queues 8).length := Nat.not_le.2 hroom
  simp only [State.retire, hy, hs, hq, there]
  simp [hlife, room]
  rfl

end

/-! ### The obligation -/

/-- Settles O55: each event of the Trellis by the lemma that says what it does. -/
theorem gridsRun : Obligations.GridsRun := by
  intro s
  refine ⟨fun p h => congrArg Host.Outcome.next (acceptNext_of_aged h),
    fun p l h hl => congrArg Host.Outcome.next (acceptNext_of_highest h hl), exec_priorityAgingGrant s,
    fun q r w => ?_, fun q r h => acceptFrom_stops h, fun p q h => grant_alone h, fun n b => ?_, fun n die cl j => ?_,
    startBlock_effect s, fun n l id rel k => ?_, fun k h => ?_, fun k e l h => exec_coreAssignment h, fun b => rfl,
    fun n y hy => ⟨?_, ?_, ?_, ?_⟩⟩
  · intro x d h
    refine ⟨fun hk => ?_, fun hk hn => acceptFrom_launches h hk hn, fun hk hn => acceptFrom_full h hk hn⟩
    rw [acceptFrom_cancels h hk]
    exact ⟨rfl, cons_consumed _ q⟩
  · intro y q len hn ha hg hs hb
    obtain ⟨t, he, hslice, harena, hstart⟩ := exec_frameSliceAllocation hn ha hg hs hb
    obtain ⟨hlo, hhi, hfree⟩ := firstSlice_spec hb
    exact ⟨t, he, hslice, harena, hlo, hhi, hfree, hstart⟩
  · intro y k r first sets cut hn hd hl hk hj
    obtain ⟨t, he, hrest, hsame, hother⟩ := exec_rangeSteal hd hl hk hj rfl hn
    exact ⟨t, he, hrest, cut_mod y j, le_cut y j, cut_lt y (setsLeft_of_stealFrom y hj), hsame, hother⟩
  · exact fun hn hs hst hl ht hu hk hm hf ha => exec_blockStart hn hs hst hl ht hu hk hm hf ha
  · exact congrArg Host.Outcome.next (by rw [State.assignCore, h])
  · exact fun hs hc => congrArg Host.Outcome.next (retire_draining hy hs hc)
  · exact fun hs hc => congrArg Host.Outcome.next (retire_waits hy hs hc)
  · exact fun hs hq => ⟨congrArg Host.Outcome.next (retire_leaves hy hs hq), gone_removeGrid s n⟩
  · exact fun b g hs hq hb hlife hg hended hroom =>
      congrArg Host.Outcome.next (retire_delivers hy hs hq hb hlife hg hended hroom)

end Sys2Proof.Machine
end
